-- ==== Sys2Proof/Word.lean ====
section
/-! DEFINITION. Word types and their plainest arithmetic (R7, R8): sizes, bytes, bit fields. -/

namespace Sys2Proof

/-- A byte (R7). -/
abbrev Byte := BitVec 8
/-- A half (R7). -/
abbrev Half := BitVec 16
/-- A word (R7); also the width of one instruction word (R58). -/
abbrev Word := BitVec 32
/-- A doubleword (R7); also the width of a fabric word. -/
abbrev DWord := BitVec 64
/-- A virtual address of the 72-bit space (R211). -/
abbrev VA := BitVec 72

end Sys2Proof
end

