-- ==== Sys2Proof/Config.lean ====
section
/-! DEFINITION. What the implementation fixes, and the free values: constants with no body, of which
nothing in Lean can be proved beyond their type. -/

namespace Sys2Proof.Config

/-- The four special functions (R55). -/
inductive SpecialFn where
  | rcp | rsq | exp | log
deriving DecidableEq, Repr

/-- Which of the values within the bound of Table 3.6 the device returns, as an index among them
taken modulo their number (R55: a fixed function of the input bits, not published). -/
opaque specialPick : SpecialFn → Word → Nat

/-- Whether an entry port answers a plain load from a held store, which R244 permits, by a count of the choices met. -/
opaque mayForward : Nat → Bool

/-- Bytes that another module's tile answers with, by a count of the bytes drawn (R256 seen from one module). -/
opaque farByte : Nat → Byte

/-- Word 0 of a held request as saved, whose layout R348 does not give, by request number. -/
opaque heldWord : Nat → DWord

/-- Whether the granger takes the remapping that R359 permits, by a count of the choices met. -/
opaque mayRotate : Nat → Bool

/-- The draw that a die's sensor measures over 4,096 fabric cycles (R356), by die and a count of the measurements. -/
opaque measuredDraw : Nat → Nat → BitVec 16

/-- The temperature that a physical bay of a die reads (R359), by a count of the readings, the die and the bay. -/
opaque bayTemp : Nat → Nat → Nat → Nat

/-- What a stream reads beyond the end of a scratchpad (R179), by address. -/
opaque beyondByte : Nat → Byte

/-- How many doublewords a stream has written when a loss ends it (R180), by a count of the values drawn. -/
opaque streamLoss : Nat → Nat

/-- The spline port that leads to a module, which the spec does not give (R399, R401). -/
opaque splineTo : Nat → Nat

/-- The 64 bytes of a firmware header, whose layout R405 does not give, from its length, version and key. -/
opaque headerBytes : Nat → BitVec 8 → List Byte → List Byte
/-- The bring-up record that MEAS4 takes (R408), from the dies and granary dies in service. -/
opaque bringUpRecord : BitVec 16 → BitVec 8 → List Byte
/-- What a CHALLENGE response signs, from the slot and the requester's nonce (R409). -/
opaque challengeBody : Nat → List Byte → List Byte
/-- The randomness of a signature (R352, R407, R409), by a count of the values drawn. -/
opaque signRand : Nat → BitVec 128
/-- The identity key's certificate, issued at manufacture, and what the identity key signs of the metering key (R407), by
the public keys. -/
opaque identityCert : List Byte → List Byte
opaque meteringBody : List Byte → List Byte
/-- The delay and the slot offset that a spline port's alignment finds at bring-up (R399, R408), by a count of the values
drawn and the port. -/
opaque splineDelay : Nat → Nat → BitVec 16
opaque splineOffset : Nat → Nat → BitVec 6

/-- Sizes of Table 0.1 and R340. -/
def tilesPerDie : Nat := 40960
def baysPerDie : Nat := 640
def stackBytes : Nat := 0xC00000000

/-- Bin-cycles that a granary adds to a command's own: the bin time of a load and the filler (R294), by a count of the
values drawn. -/
opaque binExtra : Nat → Nat

/-- Where another module's granger places a thread of a joint launch (R401), as die, column, row and slot: by launch id,
module and launch index. -/
opaque farPlace : Nat → Nat → Nat → BitVec 23

/-- The code lengths that a copy engine chooses for the exponents of a chunk (R288): free. -/
opaque codeLengths : List Nat → List Nat

end Sys2Proof.Config
end

