-- ==== Sys2Proof/Syntax.lean ====
section
/-! DEFINITION. The syntax of HLK: the instruction formats of Table 4.1 as records of their fields,
and ONE inductive with a constructor for every row of the opcode table. -/

namespace Sys2Proof

/-- S format (Table 4.1, R59): the operand fields. In the split form `d` holds q [11:9] and d9 [8:0]. -/
structure SOp where
  p   : BitVec 3
  i   : Bool
  w   : BitVec 2
  sz  : BitVec 2
  src : BitVec 2
  d   : BitVec 12
deriving DecidableEq, Repr

/-- I format (Table 4.1, R61). -/
structure IOp where
  sh  : BitVec 2
  mod : BitVec 4
  imm : BitVec 16
deriving DecidableEq, Repr

/-- C format (Table 4.1, R64). -/
structure COp where
  ch  : BitVec 2
  lvl : BitVec 4
  tag : BitVec 4
  imm : BitVec 12
deriving DecidableEq, Repr

/-- E format (Table 4.1, R66). -/
structure EOp where
  pa  : BitVec 3
  pb  : BitVec 3
  i   : Bool
  w   : BitVec 2
  row : BitVec 3
  imm : BitVec 10
deriving DecidableEq, Repr

/-- The sixteen members of IALU and IALUI (Table 5.3), in function-code order. -/
inductive AluFn where
  | add | sub | adc | sbc | and | or | xor | andn | min | max | minu | maxu | mul | mulh | mulhu | cmp
deriving DecidableEq, Repr

/-- What may follow an `XIMM` prefix (R89): an IALUI word or an `LI` word. -/
inductive PairOp where
  | alu (f : AluFn)
  | li
deriving DecidableEq, Repr

/-- A device register with no behaviour of its own, for the event `REGISTER_WRITE` (R10):
the ones that device-space block tables describe (R356, R390, R395, R400, R410). -/
inductive DevReg where
  /-- PWRCTL of a die (Table 21.3). -/
  | pwrctl (die : Nat)
  /-- BAYMAPb of a die (Table 25.2). -/
  | baymap (die : Nat) (bay : Nat)
  /-- A doubleword of a bay's permission table entry (Table 8.8), which the granger writes. -/
  | permission (bay : Nat) (entry : Nat)
  /-- LINKSTATe of a die (Table 25.1); read only. -/
  | linkstat (die : Nat) (edge : Nat)
  /-- SPLSTATp (Table 26.1); read only. -/
  | splstat (port : Nat)
  /-- BOOTSTAT (Table 27.2); read only. -/
  | bootstat
  /-- What the reeve or the device runtime sets, for which the spec gives no register layout (assumption 12):
  the root of the page table (R217), as stack in [63:60] and address in [59:0]. -/
  | ptRoot
  /-- A tenant's weight and budget (R340), colours (R221), quota (R152) and memory base slots (R216). -/
  | tenantWeight (tenant : Nat)
  | tenantBudget (tenant : Nat)
  | tenantColours (tenant : Nat)
  | tenantQuota (tenant : Nat)
  | tenantMemSlots (tenant : Nat)
  /-- Whether a bay of the module is in a tenant's partition: bit 0 (R340). -/
  | tenantBay (tenant : Nat) (bay : Nat)
  /-- A tenant's save region (R345), its low doubleword or the bits above. -/
  | tenantSave (tenant : Nat) (high : Bool)
  /-- A tenant's right in place `ix` (R371), as the two doublewords of a PLB entry. -/
  | tenantRight (tenant : Nat) (ix : Nat) (high : Bool)
  /-- The domain of a tenant's launches, and of those submitted to one queue (R6). -/
  | tenantDomain (tenant : Nat)
  | queueDomain (tenant : Nat) (queue : Nat)
  /-- The tenant a queue is bound to (R336); 512 for none. -/
  | queueTenant (queue : Nat)
  /-- The slice length in hub cycles (R340). -/
  | sliceLength
  /-- The queue a virtual function's window is bound to, and its BAR2 base (R336, R396). -/
  | vfQueue (vf : Nat)
  | vfBase (vf : Nat) (high : Bool)
  /-- Errors of a stored code word or of a word under way, which come from outside (R230, R231): bit 0 of the value
  set for one that the code cannot correct. A scratchpad doubleword, a doubleword of a stack, a request or a channel
  word under way. One that the code corrects leaves a trace in the scratchpad alone, where it is written back. -/
  | upsetScratchpad (t : Nat) (dword : Nat)
  | upsetBulk (stack : Nat) (dword : Nat)
  | upsetFlight (n : Nat)
  | upsetWord (n : Nat)
deriving DecidableEq, Repr

/-- What can be lost (R393). -/
inductive LostTarget where
  | die (d : Nat)
  | module (m : Nat)
  | crossing (die : Nat) (edge : Nat)
  | spline (port : Nat)
deriving DecidableEq, Repr

/-- What reaches the hub for its queues (R336, R367, R396, R410): a posted write to a virtual function's BAR0, a read of
it, a read or write of the physical function's BAR0, or the submission that a `LAUNCH` has sent, by its place among those
under way. -/
inductive SubSource where
  | window (vf : Nat) (off : Nat) (bytes : List Byte)
  | windowRead (vf : Nat) (off : Nat) (n : Nat)
  | physical (off : Nat) (n : Nat) (write : Bool)
  | launch (n : Nat)
deriving DecidableEq, Repr

/-- An RDMA packet as it arrives at the target module (R402). -/
structure Packet where
  tenant : Nat
  source : Nat
  seq    : BitVec 32
  /-- Virtual address of the packet's first byte. -/
  base   : VA
  /-- Its offset in the copy, in element order. -/
  offset : Nat
  bytes  : List Byte
  /-- Total length of the copy in bytes; its last doubleword is the flagged write. -/
  total  : Nat
deriving DecidableEq, Repr

/-- What an RDMA connection brings: a packet to this module as the target, or to it as the source the target's
acknowledgement of a flagged write (R403). -/
inductive RdmaIn where
  | data (p : Packet)
  | ack (module : Nat) (tenant : Nat) (seq : BitVec 32)
deriving DecidableEq, Repr

/-- A `CHALLENGE` of the attestation protocol: the certificate slot whose key shall sign, and the requester's nonce (R409). -/
structure Challenge where
  slot  : Nat
  nonce : BitVec 256
deriving DecidableEq, Repr

/-- The steps of the opcode table: one constructor per row of spec/opcode_table.json.
The first 187 are instruction words (R69, and the prefixed pair of R74);
the rest are the machine's events, which have no encoding and carry what names their instance. -/
inductive Instr where
  /-- `XIMM` (R74). Executes a prefix word and its following IALUI or LI word as one two-word instruction with a 42-bit immediate. -/
  | ximm (hi : BitVec 26) (op : PairOp) (lo : BitVec 16)
  /-- `ADD` (R85). Adds the extended scratchpad or channel operand to A and sets N, Z, C and V. -/
  | add (o : SOp)
  /-- `SUB` (R85). Subtracts the extended operand from A and sets N, Z, C and V. -/
  | sub (o : SOp)
  /-- `ADC` (R85). Adds the operand and the carry to A and sets N, Z, C and V. -/
  | adc (o : SOp)
  /-- `SBC` (R85). Subtracts the operand and the borrow from A and sets N, Z, C and V. -/
  | sbc (o : SOp)
  /-- `AND` (R85). ANDs the zero-extended operand into A and sets N and Z. -/
  | and (o : SOp)
  /-- `OR` (R85). ORs the zero-extended operand into A and sets N and Z. -/
  | or (o : SOp)
  /-- `XOR` (R85). XORs the zero-extended operand into A and sets N and Z. -/
  | xor (o : SOp)
  /-- `ANDN` (R85). ANDs A with the complement of the operand and sets N and Z. -/
  | andn (o : SOp)
  /-- `MIN` (R85). Sets A to the signed minimum of A and the operand. -/
  | min (o : SOp)
  /-- `MAX` (R85). Sets A to the signed maximum of A and the operand. -/
  | max (o : SOp)
  /-- `MINU` (R85). Sets A to the unsigned minimum of A and the operand. -/
  | minu (o : SOp)
  /-- `MAXU` (R85). Sets A to the unsigned maximum of A and the operand. -/
  | maxu (o : SOp)
  /-- `MUL` (R85). Sets A to the low 64 bits of the product and sets N, Z and V. -/
  | mul (o : SOp)
  /-- `MULH` (R85). Sets A to the high 64 bits of the signed product. -/
  | mulh (o : SOp)
  /-- `MULHU` (R85). Sets A to the high 64 bits of the unsigned product. -/
  | mulhu (o : SOp)
  /-- `CMP` (R85). Sets the flags of A minus the operand and leaves A unchanged. -/
  | cmp (o : SOp)
  /-- `ADD_IMM` (R85). Adds the I-format immediate to A and sets N, Z, C and V. -/
  | addImm (o : IOp)
  /-- `SUB_IMM` (R85). Subtracts the immediate from A and sets N, Z, C and V. -/
  | subImm (o : IOp)
  /-- `ADC_IMM` (R85). Adds the immediate and the carry to A. -/
  | adcImm (o : IOp)
  /-- `SBC_IMM` (R85). Subtracts the immediate and the borrow from A. -/
  | sbcImm (o : IOp)
  /-- `AND_IMM` (R85). ANDs the immediate into A and sets N and Z. -/
  | andImm (o : IOp)
  /-- `OR_IMM` (R85). ORs the immediate into A and sets N and Z. -/
  | orImm (o : IOp)
  /-- `XOR_IMM` (R85). XORs the immediate into A and sets N and Z. -/
  | xorImm (o : IOp)
  /-- `ANDN_IMM` (R85). ANDs A with the complement of the immediate. -/
  | andnImm (o : IOp)
  /-- `MIN_IMM` (R85). Sets A to the signed minimum of A and the immediate. -/
  | minImm (o : IOp)
  /-- `MAX_IMM` (R85). Sets A to the signed maximum of A and the immediate. -/
  | maxImm (o : IOp)
  /-- `MINU_IMM` (R85). Sets A to the unsigned minimum of A and the immediate. -/
  | minuImm (o : IOp)
  /-- `MAXU_IMM` (R85). Sets A to the unsigned maximum of A and the immediate. -/
  | maxuImm (o : IOp)
  /-- `MUL_IMM` (R85). Multiplies A by the immediate, keeping the low 64 bits. -/
  | mulImm (o : IOp)
  /-- `MULH_IMM` (R85). Sets A to the high 64 bits of the signed product with the immediate. -/
  | mulhImm (o : IOp)
  /-- `MULHU_IMM` (R85). Sets A to the high 64 bits of the unsigned product with the immediate. -/
  | mulhuImm (o : IOp)
  /-- `CMP_IMM` (R85). Sets the flags of A minus the immediate. -/
  | cmpImm (o : IOp)
  /-- `DIV` (R87). Divides A by the sign-extended operand, truncating, with defined results on zero and overflow. -/
  | div (o : SOp)
  /-- `DIVU` (R87). Divides A by the zero-extended operand as unsigned values. -/
  | divu (o : SOp)
  /-- `REM` (R87). Sets A to the signed remainder of A by the operand. -/
  | rem (o : SOp)
  /-- `REMU` (R87). Sets A to the unsigned remainder of A by the operand. -/
  | remu (o : SOp)
  /-- `SHL` (R88). Shifts A left by s bits. -/
  | shl (o : IOp)
  /-- `SHR` (R88). Shifts A right logically by s bits. -/
  | shr (o : IOp)
  /-- `SRA` (R88). Shifts A right arithmetically by s bits. -/
  | sra (o : IOp)
  /-- `ROL` (R88). Rotates A left by s bits. -/
  | rol (o : IOp)
  /-- `CLZ` (R88). Sets A to the number of leading zero bits of A. -/
  | clz (o : IOp)
  /-- `CTZ` (R88). Sets A to the number of trailing zero bits of A. -/
  | ctz (o : IOp)
  /-- `POPC` (R88). Sets A to the number of one bits of A. -/
  | popc (o : IOp)
  /-- `BREV` (R88). Reverses the bit order of A. -/
  | brev (o : IOp)
  /-- `BFX` (R88). Extracts a zero-extended bit field of A. -/
  | bfx (o : IOp)
  /-- `BFI` (R88). Inserts the low bits of A into a bit field of A. -/
  | bfi (o : IOp)
  /-- `SEXT` (R88). Sign-extends A from 8, 16 or 32 bits. -/
  | sext (o : IOp)
  /-- `ZEXT` (R88). Zero-extends A from 8, 16 or 32 bits. -/
  | zext (o : IOp)
  /-- `LD` (R90). Loads a sign-extended scratchpad or channel value into A. -/
  | ld (o : SOp)
  /-- `LDX` (R90). Loads a zero-extended scratchpad or channel value into A. -/
  | ldx (o : SOp)
  /-- `ST` (R90). Stores the low bytes of A into scratchpad with the generation check. -/
  | st (o : SOp)
  /-- `PLD` (R91). Loads all eight pointers from one aligned 32-byte scratchpad access. -/
  | pld (o : SOp)
  /-- `PST` (R91). Stores all eight pointers in one aligned 32-byte scratchpad access. -/
  | pst (o : SOp)
  /-- `LI` (R92). Loads the I-format immediate into A. -/
  | li (o : IOp)
  /-- `PSET` (R92). Sets the ADDR field of a pointer, keeping its stride. -/
  | pset (o : IOp)
  /-- `PSTRIDE` (R92). Sets the STRIDE field of a pointer, keeping its address. -/
  | pstride (o : IOp)
  /-- `PADD` (R92). Adds a signed immediate to a pointer's address modulo 32,768. -/
  | padd (o : IOp)
  /-- `PMOV` (R92). Copies A[31:0] into a pointer, discarding bit 15. -/
  | pmov (o : IOp)
  /-- `PGET` (R92). Copies a pointer, zero-extended, into A. -/
  | pget (o : IOp)
  /-- `PCMP` (R92). Compares a pointer's address with an unsigned immediate and sets the flags. -/
  | pcmp (o : IOp)
  /-- `B` (R93). Branches PC-relative when the condition holds on F, ending any repeat frame if taken. -/
  | b (cond : BitVec 4) (off : BitVec 22)
  /-- `J` (R94). Jumps PC-relative after checking the target. -/
  | j (off : BitVec 22)
  /-- `CALL` (R94). Pushes the return PC and jumps PC-relative. -/
  | call (off : BitVec 22)
  /-- `RET` (R94). Pops the return stack into PC. -/
  | ret (off : BitVec 22)
  /-- `JA` (R94). Jumps to A plus the signed offset. -/
  | ja (off : BitVec 22)
  /-- `CALLA` (R94). Pushes the return PC and jumps to A plus the offset. -/
  | calla (off : BitVec 22)
  /-- `RPT` (R98). Opens a repeat frame over the following body words with an immediate count and stagger. -/
  | rpt (len : BitVec 4) (stag : BitVec 3) (count : BitVec 18)
  /-- `RPT_A` (R98). Opens a repeat frame whose count is taken from A[19:0]. -/
  | rptA (len : BitVec 4) (stag : BitVec 3)
  /-- `FADD` (R102). Adds the operand to A in the format selected by sz, rounding once. -/
  | fadd (o : SOp)
  /-- `FSUB` (R102). Subtracts the operand from A in floating point. -/
  | fsub (o : SOp)
  /-- `FMUL` (R102). Multiplies A by the operand in floating point. -/
  | fmul (o : SOp)
  /-- `FMA` (R102). Computes A plus x times y with one rounding from a split operand pair. -/
  | fma (o : SOp)
  /-- `FMIN` (R102). Sets A to the floating-point minimum by R47. -/
  | fmin (o : SOp)
  /-- `FMAX` (R102). Sets A to the floating-point maximum by R47. -/
  | fmax (o : SOp)
  /-- `FDIV` (R102). Divides A by the operand on the shared divider. -/
  | fdiv (o : SOp)
  /-- `FSQRT` (R102). Sets A to the correctly rounded square root of A. -/
  | fsqrt (o : SOp)
  /-- `FCMP` (R103). Compares A with the operand and sets the flags, including unordered. -/
  | fcmp (o : SOp)
  /-- `FCVT` (R104). Converts A between the types named by the conversion selector. -/
  | fcvt (o : SOp)
  /-- `FSGN` (R105). Clears, inverts or sets the sign bit of A. -/
  | fsgn (o : SOp)
  /-- `VADD` (R106). Adds operand lanes into enabled lanes of V. -/
  | vadd (o : SOp)
  /-- `VSUB` (R106). Subtracts operand lanes from enabled lanes of V. -/
  | vsub (o : SOp)
  /-- `VMUL` (R106). Multiplies enabled lanes of V by operand lanes. -/
  | vmul (o : SOp)
  /-- `VMAC` (R106). Adds lane products of two operands into V. -/
  | vmac (o : SOp)
  /-- `VMIN` (R106). Sets enabled lanes to the signed minimum. -/
  | vmin (o : SOp)
  /-- `VMAX` (R106). Sets enabled lanes to the signed maximum. -/
  | vmax (o : SOp)
  /-- `VAND` (R106). ANDs operand lanes into V. -/
  | vand (o : SOp)
  /-- `VOR` (R106). ORs operand lanes into V. -/
  | vor (o : SOp)
  /-- `VXOR` (R106). XORs operand lanes into V. -/
  | vxor (o : SOp)
  /-- `VSHL` (R106). Shifts lanes of V left by operand amounts. -/
  | vshl (o : SOp)
  /-- `VSHR` (R106). Shifts lanes of V right logically. -/
  | vshr (o : SOp)
  /-- `VSRA` (R106). Shifts lanes of V right arithmetically. -/
  | vsra (o : SOp)
  /-- `VCMP` (R106). Sets lanes to -1, 0 or +1 by signed comparison. -/
  | vcmp (o : SOp)
  /-- `VSEL` (R106). Selects V or operand lanes by M, writing all eight lanes. -/
  | vsel (o : SOp)
  /-- `VFADD` (R107). Adds widened operand lanes to FP32 lanes of V. -/
  | vfadd (o : SOp)
  /-- `VFSUB` (R107). Subtracts widened operand lanes from FP32 lanes. -/
  | vfsub (o : SOp)
  /-- `VFMUL` (R107). Multiplies FP32 lanes by operand lanes. -/
  | vfmul (o : SOp)
  /-- `VFMA` (R107). Fused multiply-adds two operand lanes into V. -/
  | vfma (o : SOp)
  /-- `VFMIN` (R107). Sets FP32 lanes to the minimum by R47. -/
  | vfmin (o : SOp)
  /-- `VFMAX` (R107). Sets FP32 lanes to the maximum by R47. -/
  | vfmax (o : SOp)
  /-- `VFCMP` (R107). Sets lanes to -1, 0, +1 or +2 by FP32 comparison. -/
  | vfcmp (o : SOp)
  /-- `VFCVT` (R104). Converts each enabled lane by the conversion selector. -/
  | vfcvt (o : SOp)
  /-- `VFRCP` (R55). Computes the approximate reciprocal of each enabled lane. -/
  | vfrcp (o : SOp)
  /-- `VFRSQ` (R55). Computes the approximate reciprocal square root of each lane. -/
  | vfrsq (o : SOp)
  /-- `VFEXP` (R55). Computes the approximate base-2 exponential of each lane. -/
  | vfexp (o : SOp)
  /-- `VFLOG` (R55). Computes the approximate base-2 logarithm of each lane. -/
  | vflog (o : SOp)
  /-- `VLD` (R108). Loads elements into enabled lanes of V. -/
  | vld (o : SOp)
  /-- `VST` (R108). Stores enabled lanes of V to scratchpad. -/
  | vst (o : SOp)
  /-- `VSPLAT` (R109). Copies A[31:0] into every enabled lane. -/
  | vsplat (o : SOp)
  /-- `VEXT` (R109). Sets A to lane j of V, sign-extended. -/
  | vext (o : SOp)
  /-- `VINS` (R109). Writes A[31:0] into lane j when it is enabled. -/
  | vins (o : SOp)
  /-- `VPERM` (R109). Permutes lanes of V by operand indices. -/
  | vperm (o : SOp)
  /-- `VSUM` (R110). Sums the enabled lanes into A, as integers or FP32. -/
  | vsum (o : SOp)
  /-- `VMAXR` (R110). Reduces the enabled lanes to their maximum in A. -/
  | vmaxr (o : SOp)
  /-- `VMASK` (R111). Sets the lane mask from a lane condition or A, or reads it into A. -/
  | vmask (o : SOp)
  /-- `VSLIDE` (R109). Slides lanes of V by s, filling from A. -/
  | vslide (o : SOp)
  /-- `SEND` (R174). Forms a header from A and hands a message with scratchpad payload to the NI. -/
  | send (o : COp)
  /-- `SENDV` (R174). Sends a message whose four payload words are the lanes of V. -/
  | sendv (o : COp)
  /-- `RECV` (R176). Dequeues the head record of a receive queue into A and a pointer. -/
  | recv (o : COp)
  /-- `PEEK` (R176). Reads the head record of a receive queue without dequeuing it. -/
  | peek (o : COp)
  /-- `OFFER` (R178). Sends an offer message naming a scratchpad region for receiver pull. -/
  | offer (o : COp)
  /-- `PULL` (R179). Asks an offering NI to stream its region into this tile. -/
  | pull (o : COp)
  /-- `HRET` (R182). Ends a handler, passing its held messages to the NI and advancing its queue. -/
  | hret (o : COp)
  /-- `TAGSET` (R185). Enables handler routing for a tag when the image has a handler for it. -/
  | tagset (o : COp)
  /-- `TAGCLR` (R185). Disables handler routing for a tag. -/
  | tagclr (o : COp)
  /-- `CHR` (R187). Reads and consumes a channel word into A without waiting. -/
  | chr (o : COp)
  /-- `CHW` (R187). Writes A to a channel after taking one credit. -/
  | chw (o : COp)
  /-- `CHWV` (R187). Writes the four words of V to a channel after taking four credits. -/
  | chwv (o : COp)
  /-- `CHST` (R186). Binds or unbinds a channel to a circuit or a neighbour link. -/
  | chst (o : COp)
  /-- `BARW` (R191). Joins the barrier episode of a level and waits for its completion or timeout. -/
  | barw (o : COp)
  /-- `BART` (R191). Joins a barrier episode if needed and tests its completion into Z. -/
  | bart (o : COp)
  /-- `PAUSE` (R194). Marks the context paused for a number of tile cycles. -/
  | pause (o : COp)
  /-- `WAITQ` (R195). Waits until a selected queue, inbox, channel or tag condition holds. -/
  | waitq (o : COp)
  /-- `YIELD` (R196). Gives every other ready context one issue before this thread is chosen again. -/
  | yield (o : COp)
  /-- `STKH` (R197). Sets the context's stook class hint. -/
  | stkh (o : COp)
  /-- `ALIGN` (R198). Holds the thread until its bay's scope members reach the same ALIGN or a timeout passes. -/
  | align (o : COp)
  /-- `CIRC` (R199). Sends a circuit set-up, resize, teardown or query request to the joiner. -/
  | circ (o : COp)
  /-- `RANK` (R202). Returns own rank, a rank entry, a neighbour rank or the rank of a launch index. -/
  | rank (o : COp)
  /-- `TREE` (R202). Returns a scope's size, the thread's index in it, its extent or the launch index. -/
  | tree (o : COp)
  /-- `RLD` (R253). Issues a remote load through an address cell, leaving A pending. -/
  | rld (o : SOp)
  /-- `RLD_ACQ` (R253). Issues a remote load with acquire at a level and holds the thread until its reply. -/
  | rldAcq (o : SOp)
  /-- `RST` (R254). Posts a remote store of A through an address cell and counts it in NB. -/
  | rst (o : SOp)
  /-- `RST_REL` (R254). Posts a remote store with release at a level, held in the NI until its conditions hold. -/
  | rstRel (o : SOp)
  /-- `RLDV` (R255). Issues a remote 32-byte load into enabled lanes of V. -/
  | rldv (o : SOp)
  /-- `RSTV` (R255). Posts a remote 32-byte store of the enabled lanes of V. -/
  | rstv (o : SOp)
  /-- `AADD` (R259). Atomically adds A at a local or remote target and returns the old value. -/
  | aadd (o : SOp)
  /-- `AAND` (R259). Atomically ANDs A into the target and returns the old value. -/
  | aand (o : SOp)
  /-- `AOR` (R259). Atomically ORs A into the target and returns the old value. -/
  | aor (o : SOp)
  /-- `AXOR` (R259). Atomically XORs A into the target and returns the old value. -/
  | axor (o : SOp)
  /-- `AMIN` (R259). Atomically stores the signed minimum and returns the old value. -/
  | amin (o : SOp)
  /-- `AMAX` (R259). Atomically stores the signed maximum and returns the old value. -/
  | amax (o : SOp)
  /-- `AMINU` (R259). Atomically stores the unsigned minimum and returns the old value. -/
  | aminu (o : SOp)
  /-- `AMAXU` (R259). Atomically stores the unsigned maximum and returns the old value. -/
  | amaxu (o : SOp)
  /-- `ASWP` (R259). Atomically swaps A with the target. -/
  | aswp (o : SOp)
  /-- `ACAS` (R259). Atomically compares the target with V[1:0] and stores A when equal, setting Z. -/
  | acas (o : SOp)
  /-- `FENCE` (R261). Holds later accesses of the named classes until earlier ones are complete for the level's extent. -/
  | fence (arg : BitVec 20)
  /-- `WAITC` (R262). Holds the thread until the selected posted counters are at most t. -/
  | waitc (arg : BitVec 20)
  /-- `GTAG` (R263). Classifies a granule's tag and optionally claims a stale granule. -/
  | gtag (arg : BitVec 20)
  /-- `GNEW` (R264). Gives the slot a new generation and carries a range of granules into it. -/
  | gnew (arg : BitVec 20)
  /-- `GNEW_ALLOCATION` (R225). Completes a generation allocation once the sweep for the next value has finished. -/
  | gnewAllocation (t : Nat) (k : Nat)
  /-- `PCFG` (R300). Sets the context's plane configuration. -/
  | pcfg (o : EOp)
  /-- `PDOT` (R301). Checks operands and queues a bit-plane dot-product command targeting an MA row. -/
  | pdot (o : EOp)
  /-- `PPACK` (R302). Queues conversion of 64 integer elements into a bit-plane block. -/
  | ppack (o : EOp)
  /-- `PUNPK` (R302). Queues conversion of a bit-plane block into 64 integer elements. -/
  | punpk (o : EOp)
  /-- `MACLM` (R279). Claims ownership of the matrix accumulator, setting Z on failure. -/
  | maclm (o : EOp)
  /-- `MAREL` (R304). Releases MA ownership after the owner's last addition. -/
  | marel (o : EOp)
  /-- `MARD` (R305). Reads a final MA row into V and optionally clears it. -/
  | mard (o : EOp)
  /-- `MAWM` (R306). Waits until the MA watermark reaches n and returns it with MASAT. -/
  | mawm (o : EOp)
  /-- `MACLR` (R307). Waits for masked rows to be final, then zeroes them and optionally MASAT. -/
  | maclr (o : EOp)
  /-- `CPY` (R308). Reads and checks a copy command block and queues it for the bay's copy engine. -/
  | cpy (o : EOp)
  /-- `CPYQ` (R309). Returns copy-queue, NE and inbox state in A. -/
  | cpyq (o : EOp)
  /-- `INBOX` (R311). Dequeues the oldest inbox record into scratchpad and A, acquiring its command's writes. -/
  | inbox (o : EOp)
  /-- `GRNW` (R312). Issues a weight-slab load into a granary bin. -/
  | grnw (o : EOp)
  /-- `GRN` (R313). Issues an activation row to a granary bin for result rows. -/
  | grn (o : EOp)
  /-- `COLL` (R314). Contributes A to the next combining wave of a level's scope. -/
  | coll (o : COp)
  /-- `COLLW` (R315). Takes the result of the context's held wave into A. -/
  | collw (o : COp)
  /-- `TRAP` (R361). Completes and raises trap cause 0x21 with n in TADDR. -/
  | trap (arg : BitVec 20)
  /-- `SYSC` (R361). Completes and raises trap cause 0x20 as a runtime request. -/
  | sysc (arg : BitVec 20)
  /-- `ERET` (R362). Returns from the supervisor bank to the user bank, or frees an aborted handler slot. -/
  | eret (arg : BitVec 20)
  /-- `GETS` (R363). Reads a special register into A. -/
  | gets (arg : BitVec 20)
  /-- `SETS` (R363). Writes A into a special register by its access rules. -/
  | sets (arg : BitVec 20)
  /-- `EXIT` (R365). Waits for the context's posted work, discards its inbox and channels, and empties the slot. -/
  | exit (arg : BitVec 20)
  /-- `LAUNCH` (R367). Submits a 64-byte launch record from scratchpad into a queue as a release. -/
  | launch (arg : BitVec 20)
  /-- `WDOG` (R368). Reads the watchdog budget and shortens or sets it by context. -/
  | wdog (arg : BitVec 20)
  /-- `METR` (R369). Requests a hub metering counter into A. -/
  | metr (arg : BitVec 20)
  /-- `PLBW` (R370). Writes a PLB entry from a 16-byte scratchpad image. -/
  | plbw (arg : BitVec 20)
  /-- `PLBI` (R371). Clears one PLB entry, all entries, or the entries of a domain. -/
  | plbi (arg : BitVec 20)
  /-- `HALT` (R366). Stops the slot and writes a KIND 14 fault record. -/
  | halt (arg : BitVec 20)
  /-- `TRAP_ENTRY` (R326). Takes a trap or pending boundary event, setting the trap registers and switching to the supervisor bank. -/
  | trapEntry (t : Nat) (k : Nat)
  /-- `PREEMPTION_EVENT` (R343). A user context takes the pre-emption request at a boundary and enters STOPPING. -/
  | preemptionEvent (t : Nat) (k : Nat)
  /-- `HANDLER_DISPATCH` (R165). Starts a handler on the highest-priority candidate message when a handler slot is free. -/
  | handlerDispatch (t : Nat)
  /-- `WATCHDOG` (R184). A handler that exhausts its WDOGB budget raises WATCHDOG at its next boundary. -/
  | watchdog (t : Nat) (k : Nat)
  /-- `PAUSE_EXPIRY` (R194). The pause count of a context runs out and it regains normal issue priority. -/
  | pauseExpiry (t : Nat) (k : Nat)
  /-- `MESSAGE_INJECTION` (R175). The sending NI injects a held message or remote request in its circuit's next base slots. -/
  | messageInjection (t : Nat) (k : Nat) (n : Nat)
  /-- `RELEASE_INJECTION` (R241). The NI lets a held release and the accesses behind it go once its conditions hold. -/
  | releaseInjection (t : Nat) (k : Nat) (n : Nat)
  /-- `MESSAGE_VISIBLE` (R160). A checked message becomes visible whole and is written into a receive or handler queue. -/
  | messageVisible (n : Nat)
  /-- `CHANNEL_WORD_ARRIVAL` (R156). A channel word arrives and is written into the channel's 8-word NI buffer. -/
  | channelWordArrival (n : Nat)
  /-- `CREDIT_RETURN` (R157). A credit arrives at the sending NI of a channel. -/
  | creditReturn (n : Nat)
  /-- `JOINER_REQUEST` (R152). The joiner checks a circuit request, chooses slots and writes or clears slot tables. -/
  | joinerRequest (die : Nat)
  /-- `FAR_JOINER_WRITE` (R151). A far die's joiner writes the entries of a crossing circuit in its own order of arrival. -/
  | farJoinerWrite (die : Nat)
  /-- `CIRCUIT_TEARDOWN_DRAIN` (R152). After h+2 fabric cycles the joiner clears the remaining entries of a removed slot. -/
  | circuitTeardownDrain (n : Nat)
  /-- `JOINER_REPLY` (R200). The joiner's reply enters the requester's inbox and NE falls. -/
  | joinerReply (die : Nat)
  /-- `PULL_REQUEST` (R179). The offering NI receives a pull request and streams the region to the puller. -/
  | pullRequest (n : Nat)
  /-- `PULL_COMPLETION` (R180). The stream's last byte is written and a completion enters the puller's inbox. -/
  | pullCompletion (n : Nat)
  /-- `PULL_RELEASE_NOTICE` (R180). A release notice enters the offering slot's inbox after the stream's last read. -/
  | pullReleaseNotice (n : Nat)
  /-- `HOME_NI_ACCESS` (R256). The home NI performs a tile-window access as an access of the named slot and replies. -/
  | homeNiAccess (n : Nat)
  /-- `REMOTE_REPLY` (R253). A load or atomic reply arrives and writes the pending A or V, or records an error. -/
  | remoteReply (n : Nat)
  /-- `STORE_ACKNOWLEDGE` (R238). A posted store's acknowledgement or error record arrives and NB falls. -/
  | storeAcknowledge (n : Nat)
  /-- `ENTRY_PORT_REQUEST` (R215). The entry port translates a bulk or host request and forwards it to its home. -/
  | entryPortRequest (n : Nat)
  /-- `FAULT_RECORD_WRITE` (R223). A port writes a held fault record once the full fault buffer has room. -/
  | faultRecordWrite (n : Nat)
  /-- `FAULT_FLUSH` (R223). Increments FGEN and makes every port walk its parked requests again. -/
  | faultFlush
  /-- `FAULT_DISMISS` (R223). Dismisses a fault record, completing the requests it covers with PAGE. -/
  | faultDismiss (n : Nat)
  /-- `HOME_PORT_ACCESS` (R233). The home port performs an access at its stack in arrival order and sends the reply. -/
  | homePortAccess (n : Nat)
  /-- `REPLICA_WRITE` (R220). A store to a replicated page is performed on its next copy. -/
  | replicaWrite (n : Nat) (copy : Nat)
  /-- `INVALIDATION` (R224). Each die's translation cache removes entries overlapping a VA range. -/
  | invalidation (lo : BitVec 72) (hi : BitVec 72)
  /-- `INVALIDATION_ACKNOWLEDGE` (R224). An invalidation is acknowledged once all dies have removed entries and old requests are performed. -/
  | invalidationAcknowledge (n : Nat)
  /-- `GENERATION_SWEEP` (R226). The sweep visits one granule per tile cycle, setting tags of its value to void. -/
  | generationSweep (t : Nat)
  /-- `SCRATCHPAD_WRITEBACK` (R231). A corrected scratchpad word is written back in its bank's next free cycle. -/
  | scratchpadWriteback (t : Nat)
  /-- `BARRIER_COMPLETION` (R192). A barrier episode completes and its waiting members become ready. -/
  | barrierCompletion (n : Nat)
  /-- `BARRIER_TIMEOUT` (R192). A waiting BARW's timeout expires and raises BARRIER_TIMEOUT with the join kept open. -/
  | barrierTimeout (t : Nat) (k : Nat)
  /-- `ALIGN_RELEASE` (R198). Releases all bay members waiting at one ALIGN in the same fabric cycle. -/
  | alignRelease (t : Nat) (k : Nat)
  /-- `ALIGN_TIMEOUT` (R198). An ALIGN's w-cycle limit expires and releases the thread. -/
  | alignTimeout (t : Nat) (k : Nat)
  /-- `STOOK_WINDOW_END` (R137). At a 16-cycle window end the balancer sums weights and sets filler or throttle budgets. -/
  | stookWindowEnd (bay : Nat) (stook : Nat)
  /-- `STOOK_FILLER_STEP` (R139). A tile with filler budget runs one shadow plane-array step. -/
  | stookFillerStep (t : Nat)
  /-- `STOOK_THROTTLE` (R139). A tile with throttle budget issues nothing and its plane array stands still for a cycle. -/
  | stookThrottle (t : Nat)
  /-- `PERMIT_REFILL` (R354). Each permit counter refills its fraction and level in a tile cycle. -/
  | permitRefill (t : Nat)
  /-- `POWER_CONTROL` (R357). Every 4,096 fabric cycles the die controller adjusts SCALE from DRAW and BUDGET. -/
  | powerControl (die : Nat)
  /-- `PLANE_COMMAND_START` (R274). A queued plane-array command starts, reading its operands in the first acceptance cycle. -/
  | planeCommandStart (t : Nat)
  /-- `PDOT_ADDITION` (R276). A PDOT adds its column sums into its MA row, updating the watermark and NE. -/
  | pdotAddition (t : Nat)
  /-- `PACK_WRITE` (R303). A PPACK or PUNPK writes its destination in its last acceptance cycle and NE falls. -/
  | packWrite (t : Nat)
  /-- `COPY_START` (R281). The copy engine starts the head command of a waiting tile. -/
  | copyStart (bay : Nat)
  /-- `COPY_COMPLETION` (R286). A copy's writes are performed or it stops on error, and its record enters the inbox. -/
  | copyCompletion (t : Nat)
  /-- `GRANARY_LOAD` (R292). A bin finishes loading a slab, sets TYPE, ROWS and TAG, and posts a KIND 5 record. -/
  | granaryLoad (n : Nat)
  /-- `GRANARY_COMPUTE` (R293). A bin computes result rows for an activation and writes them with a KIND 6 record. -/
  | granaryCompute (n : Nat)
  /-- `COMBINE_FORWARD` (R297). A combining router folds its tile's contributions into the partial and forwards it. -/
  | combineForward (n : Nat)
  /-- `COLLECTIVE_RESULT` (R297). A wave's result reaches a member for its COLLW. -/
  | collectiveResult (t : Nat) (k : Nat)
  /-- `SUBMISSION` (R336). A 64-byte record written to a submission window or sent by LAUNCH is accepted or refused. -/
  | submission (src : SubSource)
  /-- `LAUNCH_SUBMISSION_RECORD` (R367). The KIND 7 submission record enters the issuing context's inbox. -/
  | launchSubmissionRecord (n : Nat)
  /-- `QUEUE_DISPATCH` (R337). A queued record leaves QUEUED for WAITING once earlier records and barriers allow. -/
  | queueDispatch (q : Nat)
  /-- `SIGNAL_READ` (R338). The granger reads a waiting record's signals as acquires, making it READY or FAULTED. -/
  | signalRead (lid : Nat)
  /-- `SLICE_BOUNDARY` (R342). At a slice boundary the granger updates deficits and places or pre-empts launches. -/
  | sliceBoundary
  /-- `PLACEMENT` (R131). The granger checks and places a launch, loading bindings, code, tables, circuits and arguments. -/
  | placement (lid : Nat)
  /-- `LAUNCH_RELEASE` (R131). The release reaches a tile, which starts all its threads of the launch in one cycle. -/
  | launchRelease (lid : Nat) (t : Nat)
  /-- `LAUNCH_COMPLETION` (R339). When all work of a launch has drained, the granger performs the release AADD on DONE. -/
  | launchCompletion (lid : Nat)
  /-- `LAUNCH_ABORT` (R339). The reeve ends a launch, which ends FAULTED and stores -0x46 into DONE. -/
  | launchAbort (lid : Nat)
  /-- `BUDGET_EXHAUSTION` (R342). A tenant's budget reaches zero and all its running launches are pre-empted at once. -/
  | budgetExhaustion (tenant : Nat)
  /-- `TILE_SAVE` (R345). When a tile's slots are drained, the copy engine writes its tile image and the tile gives up its generation. -/
  | tileSave (t : Nat)
  /-- `SAVE_COMPLETE` (R343). Once every tile is saved the launch becomes PREEMPTED and its bays free. -/
  | saveComplete (lid : Nat)
  /-- `RESUMPTION` (R349). Restores a pre-empted launch's images, owed commands, circuits and barriers and releases it. -/
  | resumption (lid : Nat)
  /-- `METER_FLUSH` (R351). A tile adds its local counts into the hub metering counters. -/
  | meterFlush (t : Nat)
  /-- `METERING_SNAPSHOT` (R352). Produces a signed snapshot of a tenant's counters read in one hub cycle. -/
  | meteringSnapshot (tenant : Nat) (nonce : BitVec 256)
  /-- `METR_SAMPLE` (R369). A METR request reaches the hub and the counter is sampled for the reply. -/
  | metrSample (n : Nat)
  /-- `RQH_WRITE` (R167). A write of RQH advances HEAD, re-initialises the ring, or is ignored. -/
  | rqhWrite (t : Nat) (k : Nat) (q : Nat) (v : BitVec 64)
  /-- `TMSG_DROP` (R329). Advances HEAD past an aborted handler's message and releases the queue. -/
  | tmsgDrop (t : Nat) (k : Nat)
  /-- `TMSG_RETRY` (R329). Releases a held handler queue with the message still at its head. -/
  | tmsgRetry (t : Nat) (k : Nat)
  /-- `OINFO_FREE` (R373). Frees an overflow-ring record by writing VALID = 0. -/
  | oinfoFree (t : Nat) (ix : Nat)
  /-- `OINFO_REDO` (R373). Redelivers an overflow-ring record into its queue as a new arrival, then frees it. -/
  | oinfoRedo (t : Nat) (ix : Nat)
  /-- `OOVF_CLEAR` (R373). Clears a queue's OVF bit by writing 1 to its OOVF bit. -/
  | oovfClear (t : Nat) (v : BitVec 64)
  /-- `BAYRATE_WRITE` (R356). Sets a bay's permit caps and rates, clipping levels above a new cap. -/
  | bayrateWrite (die : Nat) (bay : Nat) (v : BitVec 64)
  /-- `RANK_ENTRY_WRITE` (R162). Writes a rank-table entry; clearing TRANSIT injects the held messages in issue order. -/
  | rankEntryWrite (t : Nat) (r : Nat) (v : BitVec 64)
  /-- `SERVICE_SLOT_WRITE` (R411). Sets a memory service slot's owner from the wheel's next revolution. -/
  | serviceSlotWrite (stack : Nat) (ix : Nat) (v : BitVec 64)
  /-- `DEBUG_DATA_READ` (R229). Reads a scratchpad doubleword through the debug window whatever its tag. -/
  | debugDataRead (t : Nat) (off : Nat)
  /-- `DEBUG_DATA_WRITE` (R229). Writes a scratchpad doubleword through the debug window leaving its tag. -/
  | debugDataWrite (t : Nat) (off : Nat) (v : BitVec 64)
  /-- `DEBUG_TAG_READ` (R229). Reads a granule's generation tag through the debug window. -/
  | debugTagRead (t : Nat) (off : Nat)
  /-- `DEBUG_TAG_WRITE` (R229). Writes a granule's generation tag through the debug window. -/
  | debugTagWrite (t : Nat) (off : Nat) (v : BitVec 64)
  /-- `CONTEXT_WINDOW_ACCESS` (R372). Reads or writes a slot's user bank through the context window. -/
  | contextWindowAccess (t : Nat) (k : Nat) (off : Nat) (v : Option (BitVec 64))
  /-- `LOFT_WINDOW_WRITE` (R79). A supervisor writes a loft word, ordered against fetches and invalidating buffered lines. -/
  | loftWindowWrite (bay : Nat) (word : Nat) (v : BitVec 32)
  /-- `FLEET_LIST_WRITE` (R401). The host writes a tenant's fleet list of modules. -/
  | fleetListWrite (tenant : Nat) (mods : List Nat)
  /-- `MEAS_EXTEND` (R406). Extends a measurement register with a 32-byte digest. -/
  | measExtend (ix : Nat) (m : BitVec 256)
  /-- `BIN_GRANT` (R290). The reeve grants a bin to a tenant, setting TENANT and voiding TAG. -/
  | binGrant (g : Nat) (bin : Nat) (tenant : Nat)
  /-- `BIN_GENERATION_ADVANCE` (R290). The reeve advances a tenant's bin generation, revoking all its bins. -/
  | binGenerationAdvance (g : Nat) (tenant : Nat)
  /-- `REGISTER_WRITE` (R10). Writes a register field with no behaviour of its own by its access type. -/
  | registerWrite (r : DevReg) (v : BitVec 64)
  /-- `BULK_WINDOW_ACCESS` (R396). A host access through BAR2 is checked and performed at its home. -/
  | bulkWindowAccess (vf : Nat) (off : Nat) (n : Nat) (v : Option (List Byte))
  /-- `HUB_RESET` (R405). Hub reset starts the reeve's verified boot sequence. -/
  | hubReset
  /-- `DIE_RESET` (R145). A compute die is reset, restarting its wheels and resetting its tiles and tables. -/
  | dieReset (die : Nat)
  /-- `PARTITION_RESET` (R391). The reeve ends a partition's launches, tears down its circuits, invalidates ranks and resets its tiles. -/
  | partitionReset (tenant : Nat)
  /-- `FUNCTION_LEVEL_RESET` (R392). A virtual function's reset ends or removes every launch submitted through it. -/
  | functionLevelReset (vf : Nat)
  /-- `TARGET_LOSS` (R393). On loss of a die, module or link, circuits are torn down and outstanding requests complete with TARGET_LOST. -/
  | targetLoss (x : LostTarget)
  /-- `CROSSING_CALIBRATION` (R390). A UCIe crossing calibrates to UP, or after 4,096 failing fabric cycles counts as lost. -/
  | crossingCalibration (die : Nat) (edge : Nat) (ok : Bool)
  /-- `SPLINE_EXCHANGE` (R399). A spline lane pair measures delay and offset, making the link lost on a change. -/
  | splineExchange (p : Nat) (t1 : Nat) (t2 : Nat) (t3 : Nat) (t4 : Nat) (offset : BitVec 6)
  /-- `BAY_RETIREMENT` (R394). A failing bay is retired, its launch pre-empted and the logical bay mapped to a spare. -/
  | bayRetirement (bay : Nat)
  /-- `RDMA_PACKET` (R403). An RDMA packet arrives at the target and is written or discarded as a duplicate. -/
  | rdmaPacket (p : RdmaIn)
  /-- `RDMA_FLAG_WRITE` (R402). The flagged last doubleword is performed as a release after every other byte, in sequence order. -/
  | rdmaFlagWrite (n : Nat)
  /-- `CONNECTION_MISS` (R404). The RDMA adapter fetches a missing connection state and writes back the evicted entry. -/
  | connectionMiss (n : Nat)
  /-- `GET_VERSION` (R409). The SPDM responder answers GET_VERSION. -/
  | getVersion
  /-- `GET_CAPABILITIES` (R409). The SPDM responder answers GET_CAPABILITIES. -/
  | getCapabilities
  /-- `NEGOTIATE_ALGORITHMS` (R409). The SPDM responder negotiates SHA-256 and SLH-DSA-SHA2-128s. -/
  | negotiateAlgorithms
  /-- `GET_DIGESTS` (R409). The SPDM responder returns certificate digests for slots 0 and 1. -/
  | getDigests
  /-- `GET_CERTIFICATE` (R409). The SPDM responder returns the identity or metering certificate. -/
  | getCertificate (ix : Nat)
  /-- `CHALLENGE` (R409). The SPDM responder answers a CHALLENGE. -/
  | challenge (c : Challenge)
  /-- `GET_MEASUREMENTS` (R409). The SPDM responder returns measurement registers copied in one hub cycle. -/
  | getMeasurements (ix : Nat)
  /-- `SPDM_UNSUPPORTED` (R409). Any other SPDM request code is answered with ERROR UnsupportedRequest. -/
  | spdmUnsupported (code : Nat)
  /-- `LOFT_LINE_FETCH` (R135). The bay's broadcast port serves a requested four-word loft line into the fetch buffers of every context that asked for it, up to four lines per fabric cycle, oldest first. -/
  | loftLineFetch (bay : Nat) (line : Nat)
  /-- `PCIE_COMPLETION` (R260). The host's PCIe completion for a host-memory read or AtomicOp, or its refusal, arrives at the hub die and becomes the reply owed to the issuing context. -/
  | pcieCompletion (n : Nat) (ok : Bool) (bytes : List Byte)
  /-- `TENANT_DELETION` (R350). The reeve deletes a tenant, which alone resets that tenant's 64-bit metering counters. -/
  | tenantDeletion (tenant : Nat)
deriving DecidableEq, Repr

end Sys2Proof
end

