-- ==== Sys2Proof/WellFormed.lean ====
section
/-! DEFINITION. Well-formedness: the values of the fields that R59 to R67, R71 and the entries of the
instructions accept. A word whose fields fail these checks raises `ILLEGAL`. For an event, that the
tile, slot or register it names exists. -/

namespace Sys2Proof

/-- The channel forms src = 1 and 2 require p[2], i and the displacement to be zero (R60). -/
def SOp.chanZero (o : SOp) : Bool :=
  !o.p.getLsbD 2 && !o.i && o.d == 0

/-- The channel forms of a split word: q still names the second operand, so only d9 must be zero (R60). -/
def SOp.chanZeroSplit (o : SOp) : Bool :=
  !o.p.getLsbD 2 && !o.i && o.d.extractLsb' 0 9 == 0

/-- Table 4.3, IALU to VFPU and LD, LDX: src 0, or a channel form; src 3 is illegal. -/
def SOp.operandOk (o : SOp) : Bool :=
  if o.src = 0 then true else if o.src = 3 then false else o.chanZero

/-- Table 4.3 for the split form. -/
def SOp.splitOk (o : SOp) : Bool :=
  if o.src = 0 then true else if o.src = 3 then false else o.chanZeroSplit

/-- A channel source of a vector instruction accepts et = 2 and 3 only (R81). -/
def SOp.vecEtOk (o : SOp) : Bool :=
  o.src == 0 || o.sz == 2 || o.sz == 3

/-- The in-place members (R83): p, i and src are zero, and d12 keeps only the bits in `keep`. -/
def SOp.inPlace (o : SOp) (keep : BitVec 12) : Bool :=
  o.p == 0 && !o.i && o.src == 0 && (o.d &&& ~~~keep) == 0

/-- Type codes 6 and 7 of Table 5.12 are reserved. -/
def typeCodeOk (t : BitVec 4) : Bool := t != 6 && t != 7

/-- Codes 8 to 15 of Table 5.12 are integers. -/
def typeCodeIsInt (t : BitVec 4) : Bool := t.getLsbD 3

/-- The combinations of a conversion selector that R104 accepts; `vec` is `VFCVT`. -/
def cfnOk (vec : Bool) (c : BitVec 12) : Bool :=
  let src := c.extractLsb' 1 4
  let tgt := c.extractLsb' 5 4
  !c.getLsbD 0 && typeCodeOk src && typeCodeOk tgt
    && !(typeCodeIsInt src && typeCodeIsInt tgt)
    && !(c.getLsbD 9 && typeCodeIsInt tgt)
    && !(vec && (src == 11 || src == 15 || tgt == 11 || tgt == 15))

/-- IALUI: mod[3:1] must be zero (R61). -/
def IOp.aluOk (o : IOp) : Bool := o.mod.extractLsb' 1 3 == 0

/-- BITS: sh and mod are zero, and imm16 keeps only the bits in `keep` (R88). -/
def IOp.bitsOk (o : IOp) (keep : BitVec 16) : Bool :=
  o.sh == 0 && o.mod == 0 && (o.imm &&& ~~~keep) == 0

/-- BFX and BFI: pos + len at most 64 (R88). -/
def IOp.fieldOk (o : IOp) : Bool :=
  (o.imm.extractLsb' 0 6).toNat + (o.imm.extractLsb' 6 6).toNat + 1 ≤ 64

/-- PTR except `LI`: mod[3] and sh are zero (R92). -/
def IOp.ptrOk (o : IOp) : Bool := o.sh == 0 && !o.mod.getLsbD 3

/-- The tiles of the module: 16 dies of 640 bays of 64 tiles (R1). -/
def tileCount : Nat := 655360

/-- A tile and a slot that exist (R1, R12). -/
def ctxOk (t k : Nat) : Bool := t < tileCount && k < 8

/-- Well-formedness, constructor by constructor. -/
def Instr.wf : Instr → Bool
  | .ximm _ _ _ => true
  | .add o => o.operandOk
  | .sub o => o.operandOk
  | .adc o => o.operandOk
  | .sbc o => o.operandOk
  | .and o => o.operandOk
  | .or o => o.operandOk
  | .xor o => o.operandOk
  | .andn o => o.operandOk
  | .min o => o.operandOk
  | .max o => o.operandOk
  | .minu o => o.operandOk
  | .maxu o => o.operandOk
  | .mul o => o.operandOk
  | .mulh o => o.operandOk
  | .mulhu o => o.operandOk
  | .cmp o => o.operandOk
  | .addImm o => o.aluOk
  | .subImm o => o.aluOk
  | .adcImm o => o.aluOk
  | .sbcImm o => o.aluOk
  | .andImm o => o.aluOk
  | .orImm o => o.aluOk
  | .xorImm o => o.aluOk
  | .andnImm o => o.aluOk
  | .minImm o => o.aluOk
  | .maxImm o => o.aluOk
  | .minuImm o => o.aluOk
  | .maxuImm o => o.aluOk
  | .mulImm o => o.aluOk
  | .mulhImm o => o.aluOk
  | .mulhuImm o => o.aluOk
  | .cmpImm o => o.aluOk
  | .div o => o.operandOk
  | .divu o => o.operandOk
  | .rem o => o.operandOk
  | .remu o => o.operandOk
  | .shl o => o.bitsOk 0x3F
  | .shr o => o.bitsOk 0x3F
  | .sra o => o.bitsOk 0x3F
  | .rol o => o.bitsOk 0x3F
  | .clz o => o.bitsOk 0
  | .ctz o => o.bitsOk 0
  | .popc o => o.bitsOk 0
  | .brev o => o.bitsOk 0
  | .bfx o => o.bitsOk 0xFFF && o.fieldOk
  | .bfi o => o.bitsOk 0xFFF && o.fieldOk
  | .sext o => o.bitsOk 3 && o.imm != 3
  | .zext o => o.bitsOk 3 && o.imm != 3
  | .ld o => o.operandOk
  | .ldx o => o.operandOk
  | .st o => o.src == 0
  | .pld o => o.src == 0 && !o.i && o.sz == 3
  | .pst o => o.src == 0 && !o.i && o.sz == 3
  | .li o => o.mod == 0
  | .pset o => o.ptrOk && !o.imm.getLsbD 15
  | .pstride o => o.ptrOk
  | .padd o => o.ptrOk
  | .pmov o => o.ptrOk && o.imm == 0
  | .pget o => o.ptrOk && o.imm == 0
  | .pcmp o => o.ptrOk
  | .b _ _ => true
  | .j _ => true
  | .call _ => true
  | .ret off => off == 0
  | .ja _ => true
  | .calla _ => true
  | .rpt _ _ _ => true
  | .rptA _ _ => true
  | .fadd o => o.operandOk && o.sz != 3
  | .fsub o => o.operandOk && o.sz != 3
  | .fmul o => o.operandOk && o.sz != 3
  | .fma o => o.splitOk && o.sz != 3
  | .fmin o => o.operandOk && o.sz != 3
  | .fmax o => o.operandOk && o.sz != 3
  | .fdiv o => o.operandOk && o.sz != 3
  | .fsqrt o => o.inPlace 0 && o.sz != 3
  | .fcmp o => o.operandOk && o.sz != 3
  | .fcvt o => o.inPlace 0xFFF && o.sz == 3 && cfnOk false o.d
  | .fsgn o => o.inPlace 3 && o.sz != 3 && o.d != 3
  | .vadd o => o.operandOk && o.vecEtOk
  | .vsub o => o.operandOk && o.vecEtOk
  | .vmul o => o.operandOk && o.vecEtOk
  | .vmac o => o.splitOk && o.vecEtOk
  | .vmin o => o.operandOk && o.vecEtOk
  | .vmax o => o.operandOk && o.vecEtOk
  | .vand o => o.operandOk && o.vecEtOk
  | .vor o => o.operandOk && o.vecEtOk
  | .vxor o => o.operandOk && o.vecEtOk
  | .vshl o => o.operandOk && o.vecEtOk
  | .vshr o => o.operandOk && o.vecEtOk
  | .vsra o => o.operandOk && o.vecEtOk
  | .vcmp o => o.operandOk && o.vecEtOk
  | .vsel o => o.operandOk && o.vecEtOk
  | .vfadd o => o.operandOk && o.vecEtOk
  | .vfsub o => o.operandOk && o.vecEtOk
  | .vfmul o => o.operandOk && o.vecEtOk
  | .vfma o => o.splitOk && o.vecEtOk
  | .vfmin o => o.operandOk && o.vecEtOk
  | .vfmax o => o.operandOk && o.vecEtOk
  | .vfcmp o => o.operandOk && o.vecEtOk
  | .vfcvt o => o.inPlace 0xFFF && o.sz == 0 && cfnOk true o.d
  | .vfrcp o => o.inPlace 0 && o.sz == 0
  | .vfrsq o => o.inPlace 0 && o.sz == 0
  | .vfexp o => o.inPlace 0 && o.sz == 0
  | .vflog o => o.inPlace 0 && o.sz == 0
  | .vld o => o.src == 0
  | .vst o => o.src == 0 && o.sz != 3
  | .vsplat o => o.inPlace 0 && o.sz == 0
  | .vext o => o.inPlace 7 && o.sz == 0
  | .vins o => o.inPlace 7 && o.sz == 0
  | .vperm o => o.src == 0
  | .vsum o => o.inPlace 1 && o.sz == 0
  | .vmaxr o => o.inPlace 1 && o.sz == 0
  | .vmask o => o.inPlace 7 && o.sz == 0
  | .vslide o => o.inPlace 0xF && o.sz == 0
  | .send o => o.ch == 0 && o.lvl == 0 && o.imm.extractLsb' 4 4 == 0 && (o.imm.extractLsb' 0 4 != 0 || o.imm == 0)
  | .sendv o => o.ch == 0 && o.lvl == 0 && o.imm == 0
  | .recv o => o.lvl == 0 && o.tag == 0 && (o.imm &&& ~~~0x700) == 0
  | .peek o => o.lvl == 0 && o.tag == 0 && (o.imm &&& ~~~0x700) == 0
  | .offer o => o.ch == 0 && o.lvl == 0 && (o.imm &&& ~~~0x700) == 0
  | .pull o => o.ch == 0 && o.lvl == 0 && o.tag == 0 && (o.imm &&& ~~~0x700) == 0
  | .hret o => o.ch == 0 && o.lvl == 0 && o.tag == 0 && o.imm == 0
  | .tagset o => o.ch == 0 && o.lvl == 0 && o.imm == 0
  | .tagclr o => o.ch == 0 && o.lvl == 0 && o.imm == 0
  | .chr o => o.lvl == 0 && o.tag == 0 && o.imm == 0
  | .chw o => o.lvl == 0 && o.tag == 0 && o.imm == 0
  | .chwv o => o.lvl == 0 && o.tag == 0 && o.imm == 0
  | .chst o => o.lvl == 0 && o.tag == 0 && (o.imm &&& ~~~0xC03) == 0 && (o.imm.extractLsb' 10 2 == 3 || o.imm.extractLsb' 0 2 == 0)
  | .barw o => o.ch == 0 && o.tag == 0 && (o.imm &&& ~~~0x1F) == 0
  | .bart o => o.ch == 0 && o.tag == 0 && o.imm == 0
  | .pause o => o.lvl == 0 && o.tag == 0
  | .waitq o => o.ch == 0 && o.lvl == 0 && (o.imm &&& ~~~0x3FF) == 0 && (o.tag == 0 || o.imm.getLsbD 9)
  | .yield o => o.ch == 0 && o.lvl == 0 && o.tag == 0 && o.imm == 0
  | .stkh o => o.ch == 0 && o.lvl == 0 && o.tag == 0 && (o.imm &&& ~~~7) == 0
  | .align o => o.ch == 0 && o.tag == 0
  | .circ o => o.lvl == 0 && o.tag == 0 && (o.imm &&& ~~~0x700) == 0
  | .rank o => (o.lvl == 0 || o.ch == 2) && o.tag == 0 && o.imm == 0
  | .tree o => (o.lvl == 0 || o.ch != 3) && o.tag == 0 && o.imm == 0
  | .rld o => o.src == 0
  | .rldAcq o => o.src == 0
  | .rst o => o.src == 0
  | .rstRel o => o.src == 0
  | .rldv o => o.src == 0 && o.sz == 3
  | .rstv o => o.src == 0 && o.sz == 3
  | .aadd o => o.sz == 2 || o.sz == 3
  | .aand o => o.sz == 2 || o.sz == 3
  | .aor o => o.sz == 2 || o.sz == 3
  | .axor o => o.sz == 2 || o.sz == 3
  | .amin o => o.sz == 2 || o.sz == 3
  | .amax o => o.sz == 2 || o.sz == 3
  | .aminu o => o.sz == 2 || o.sz == 3
  | .amaxu o => o.sz == 2 || o.sz == 3
  | .aswp o => o.sz == 2 || o.sz == 3
  | .acas o => o.sz == 2 || o.sz == 3
  | .fence arg => (arg &&& ~~~0xFF) == 0
  | .waitc arg => !arg.getLsbD 3
  | .gtag arg => (arg &&& ~~~1) == 0
  | .gnew _ => true
  | .gnewAllocation t k => ctxOk t k
  | .pcfg o => o.pa == 0 && o.pb == 0 && !o.i && o.row == 0 && !o.imm.getLsbD 9
  | .pdot _ => true
  | .ppack o => o.row == 0
  | .punpk o => o.row == 0
  | .maclm o => o.pa == 0 && o.pb == 0 && !o.i && o.row == 0 && o.imm == 0
  | .marel o => o.pa == 0 && o.pb == 0 && !o.i && o.row == 0 && o.imm == 0
  | .mard o => o.pa == 0 && o.pb == 0 && !o.i && (o.imm &&& ~~~1) == 0
  | .mawm o => o.pa == 0 && o.pb == 0 && !o.i && o.row == 0 && o.imm.toNat ≤ 8
  | .maclr o => o.pa == 0 && o.pb == 0 && !o.i && o.row == 0 && !o.imm.getLsbD 9
  | .cpy o => o.pb == 0 && o.row == 0
  | .cpyq o => o.pa == 0 && o.pb == 0 && !o.i && o.row == 0 && o.imm == 0
  | .inbox o => o.pb == 0 && o.row == 0
  | .grnw o => o.pb == 0 && o.row == 0
  | .grn o => o.pb == 0 && o.row == 0
  | .coll o => o.ch == 0 && o.tag == 0 && (o.imm &&& ~~~3) == 0
  | .collw o => o.ch == 0 && o.lvl == 0 && o.tag == 0 && o.imm == 0
  | .trap _ => true
  | .sysc _ => true
  | .eret arg => arg == 0
  | .gets arg => (arg &&& ~~~0xFF) == 0
  | .sets arg => (arg &&& ~~~0xFF) == 0
  | .exit arg => arg == 0
  | .launch arg => (arg &&& ~~~0x1FF) == 0
  | .wdog _ => true
  | .metr arg => (arg &&& ~~~0x3FFF) == 0
  | .plbw arg => (arg &&& ~~~0xF) == 0
  | .plbi arg => (arg &&& ~~~0x3F) == 0 && arg.extractLsb' 4 2 != 3 && (arg.extractLsb' 0 4 == 0 || arg.extractLsb' 4 2 == 0)
  | .halt arg => (arg &&& ~~~0xFF) == 0
  | .trapEntry t k => ctxOk t k
  | .preemptionEvent t k => ctxOk t k
  | .handlerDispatch t => decide (t < tileCount)
  | .watchdog t k => ctxOk t k
  | .pauseExpiry t k => ctxOk t k
  | .messageInjection t k _ => ctxOk t k
  | .releaseInjection t k _ => ctxOk t k
  | .messageVisible _ => true
  | .channelWordArrival _ => true
  | .creditReturn _ => true
  | .joinerRequest die => decide (die < 16)
  | .farJoinerWrite die => decide (die < 16)
  | .circuitTeardownDrain _ => true
  | .joinerReply die => decide (die < 16)
  | .pullRequest _ => true
  | .pullCompletion _ => true
  | .pullReleaseNotice _ => true
  | .homeNiAccess _ => true
  | .remoteReply _ => true
  | .storeAcknowledge _ => true
  | .entryPortRequest _ => true
  | .faultRecordWrite _ => true
  | .faultFlush => true
  | .faultDismiss _ => true
  | .homePortAccess _ => true
  | .replicaWrite _ copy => decide (copy < 16)
  | .invalidation _ _ => true
  | .invalidationAcknowledge _ => true
  | .generationSweep t => decide (t < tileCount)
  | .scratchpadWriteback t => decide (t < tileCount)
  | .barrierCompletion _ => true
  | .barrierTimeout t k => ctxOk t k
  | .alignRelease t k => ctxOk t k
  | .alignTimeout t k => ctxOk t k
  | .stookWindowEnd bay stook => decide (bay < 10240) && decide (stook < 16)
  | .stookFillerStep t => decide (t < tileCount)
  | .stookThrottle t => decide (t < tileCount)
  | .permitRefill t => decide (t < tileCount)
  | .powerControl die => decide (die < 16)
  | .planeCommandStart t => decide (t < tileCount)
  | .pdotAddition t => decide (t < tileCount)
  | .packWrite t => decide (t < tileCount)
  | .copyStart bay => decide (bay < 10240)
  | .copyCompletion t => decide (t < tileCount)
  | .granaryLoad _ => true
  | .granaryCompute _ => true
  | .combineForward _ => true
  | .collectiveResult t k => ctxOk t k
  | .submission src => (match src with | .window vf _ _ => decide (vf < 256) | .windowRead vf _ _ => decide (vf < 256) | .physical _ _ _ => true | .launch _ => true)
  | .launchSubmissionRecord _ => true
  | .queueDispatch q => decide (q < 512)
  | .signalRead _ => true
  | .sliceBoundary => true
  | .placement _ => true
  | .launchRelease _ t => decide (t < tileCount)
  | .launchCompletion _ => true
  | .launchAbort _ => true
  | .budgetExhaustion tenant => decide (tenant < 512)
  | .tileSave t => decide (t < tileCount)
  | .saveComplete _ => true
  | .resumption _ => true
  | .meterFlush t => decide (t < tileCount)
  | .meteringSnapshot tenant _ => decide (tenant < 512)
  | .metrSample _ => true
  | .rqhWrite t k q _ => ctxOk t k && decide (q < 4)
  | .tmsgDrop t k => ctxOk t k
  | .tmsgRetry t k => ctxOk t k
  | .oinfoFree t ix => decide (t < tileCount) && decide (ix < 8)
  | .oinfoRedo t ix => decide (t < tileCount) && decide (ix < 8)
  | .oovfClear t _ => decide (t < tileCount)
  | .bayrateWrite die bay _ => decide (die < 16) && decide (bay < 640)
  | .rankEntryWrite t r _ => decide (t < tileCount) && decide (r < 4096)
  | .serviceSlotWrite stack ix _ => decide (stack < 16) && decide (ix < 64)
  | .debugDataRead t _ => decide (t < tileCount)
  | .debugDataWrite t _ _ => decide (t < tileCount)
  | .debugTagRead t _ => decide (t < tileCount)
  | .debugTagWrite t _ _ => decide (t < tileCount)
  | .contextWindowAccess t k _ _ => ctxOk t k
  | .loftWindowWrite bay word _ => decide (bay < 10240) && decide (word < 16384)
  | .fleetListWrite tenant _ => decide (tenant < 512)
  | .measExtend ix _ => decide (ix < 8)
  | .binGrant g bin tenant => decide (g < 8) && decide (bin < 4096) && decide (tenant < 512)
  | .binGenerationAdvance g tenant => decide (g < 8) && decide (tenant < 512)
  | .registerWrite _ _ => true
  | .bulkWindowAccess vf _ _ _ => decide (vf < 256)
  | .hubReset => true
  | .dieReset die => decide (die < 16)
  | .partitionReset tenant => decide (tenant < 512)
  | .functionLevelReset vf => decide (vf < 256)
  | .targetLoss _ => true
  | .crossingCalibration die edge _ => decide (die < 16) && decide (edge < 4)
  | .splineExchange p _ _ _ _ _ => decide (p < 16)
  | .bayRetirement bay => decide (bay < 10240)
  | .rdmaPacket _ => true
  | .rdmaFlagWrite _ => true
  | .connectionMiss _ => true
  | .getVersion => true
  | .getCapabilities => true
  | .negotiateAlgorithms => true
  | .getDigests => true
  | .getCertificate _ => true
  | .challenge _ => true
  | .getMeasurements _ => true
  | .spdmUnsupported _ => true
  | .loftLineFetch bay line => decide (bay < 10240) && decide (line < 4096)
  | .pcieCompletion _ _ _ => true
  | .tenantDeletion tenant => decide (tenant < 512)

/-- Whether the constructor is an instruction word, or the prefixed pair; the others are events. -/
def Instr.isWord : Instr → Bool
  | .ximm _ _ _ => true
  | .add _ => true
  | .sub _ => true
  | .adc _ => true
  | .sbc _ => true
  | .and _ => true
  | .or _ => true
  | .xor _ => true
  | .andn _ => true
  | .min _ => true
  | .max _ => true
  | .minu _ => true
  | .maxu _ => true
  | .mul _ => true
  | .mulh _ => true
  | .mulhu _ => true
  | .cmp _ => true
  | .addImm _ => true
  | .subImm _ => true
  | .adcImm _ => true
  | .sbcImm _ => true
  | .andImm _ => true
  | .orImm _ => true
  | .xorImm _ => true
  | .andnImm _ => true
  | .minImm _ => true
  | .maxImm _ => true
  | .minuImm _ => true
  | .maxuImm _ => true
  | .mulImm _ => true
  | .mulhImm _ => true
  | .mulhuImm _ => true
  | .cmpImm _ => true
  | .div _ => true
  | .divu _ => true
  | .rem _ => true
  | .remu _ => true
  | .shl _ => true
  | .shr _ => true
  | .sra _ => true
  | .rol _ => true
  | .clz _ => true
  | .ctz _ => true
  | .popc _ => true
  | .brev _ => true
  | .bfx _ => true
  | .bfi _ => true
  | .sext _ => true
  | .zext _ => true
  | .ld _ => true
  | .ldx _ => true
  | .st _ => true
  | .pld _ => true
  | .pst _ => true
  | .li _ => true
  | .pset _ => true
  | .pstride _ => true
  | .padd _ => true
  | .pmov _ => true
  | .pget _ => true
  | .pcmp _ => true
  | .b _ _ => true
  | .j _ => true
  | .call _ => true
  | .ret _ => true
  | .ja _ => true
  | .calla _ => true
  | .rpt _ _ _ => true
  | .rptA _ _ => true
  | .fadd _ => true
  | .fsub _ => true
  | .fmul _ => true
  | .fma _ => true
  | .fmin _ => true
  | .fmax _ => true
  | .fdiv _ => true
  | .fsqrt _ => true
  | .fcmp _ => true
  | .fcvt _ => true
  | .fsgn _ => true
  | .vadd _ => true
  | .vsub _ => true
  | .vmul _ => true
  | .vmac _ => true
  | .vmin _ => true
  | .vmax _ => true
  | .vand _ => true
  | .vor _ => true
  | .vxor _ => true
  | .vshl _ => true
  | .vshr _ => true
  | .vsra _ => true
  | .vcmp _ => true
  | .vsel _ => true
  | .vfadd _ => true
  | .vfsub _ => true
  | .vfmul _ => true
  | .vfma _ => true
  | .vfmin _ => true
  | .vfmax _ => true
  | .vfcmp _ => true
  | .vfcvt _ => true
  | .vfrcp _ => true
  | .vfrsq _ => true
  | .vfexp _ => true
  | .vflog _ => true
  | .vld _ => true
  | .vst _ => true
  | .vsplat _ => true
  | .vext _ => true
  | .vins _ => true
  | .vperm _ => true
  | .vsum _ => true
  | .vmaxr _ => true
  | .vmask _ => true
  | .vslide _ => true
  | .send _ => true
  | .sendv _ => true
  | .recv _ => true
  | .peek _ => true
  | .offer _ => true
  | .pull _ => true
  | .hret _ => true
  | .tagset _ => true
  | .tagclr _ => true
  | .chr _ => true
  | .chw _ => true
  | .chwv _ => true
  | .chst _ => true
  | .barw _ => true
  | .bart _ => true
  | .pause _ => true
  | .waitq _ => true
  | .yield _ => true
  | .stkh _ => true
  | .align _ => true
  | .circ _ => true
  | .rank _ => true
  | .tree _ => true
  | .rld _ => true
  | .rldAcq _ => true
  | .rst _ => true
  | .rstRel _ => true
  | .rldv _ => true
  | .rstv _ => true
  | .aadd _ => true
  | .aand _ => true
  | .aor _ => true
  | .axor _ => true
  | .amin _ => true
  | .amax _ => true
  | .aminu _ => true
  | .amaxu _ => true
  | .aswp _ => true
  | .acas _ => true
  | .fence _ => true
  | .waitc _ => true
  | .gtag _ => true
  | .gnew _ => true
  | .pcfg _ => true
  | .pdot _ => true
  | .ppack _ => true
  | .punpk _ => true
  | .maclm _ => true
  | .marel _ => true
  | .mard _ => true
  | .mawm _ => true
  | .maclr _ => true
  | .cpy _ => true
  | .cpyq _ => true
  | .inbox _ => true
  | .grnw _ => true
  | .grn _ => true
  | .coll _ => true
  | .collw _ => true
  | .trap _ => true
  | .sysc _ => true
  | .eret _ => true
  | .gets _ => true
  | .sets _ => true
  | .exit _ => true
  | .launch _ => true
  | .wdog _ => true
  | .metr _ => true
  | .plbw _ => true
  | .plbi _ => true
  | .halt _ => true
  | .gnewAllocation _ _ => false
  | .trapEntry _ _ => false
  | .preemptionEvent _ _ => false
  | .handlerDispatch _ => false
  | .watchdog _ _ => false
  | .pauseExpiry _ _ => false
  | .messageInjection _ _ _ => false
  | .releaseInjection _ _ _ => false
  | .messageVisible _ => false
  | .channelWordArrival _ => false
  | .creditReturn _ => false
  | .joinerRequest _ => false
  | .farJoinerWrite _ => false
  | .circuitTeardownDrain _ => false
  | .joinerReply _ => false
  | .pullRequest _ => false
  | .pullCompletion _ => false
  | .pullReleaseNotice _ => false
  | .homeNiAccess _ => false
  | .remoteReply _ => false
  | .storeAcknowledge _ => false
  | .entryPortRequest _ => false
  | .faultRecordWrite _ => false
  | .faultFlush => false
  | .faultDismiss _ => false
  | .homePortAccess _ => false
  | .replicaWrite _ _ => false
  | .invalidation _ _ => false
  | .invalidationAcknowledge _ => false
  | .generationSweep _ => false
  | .scratchpadWriteback _ => false
  | .barrierCompletion _ => false
  | .barrierTimeout _ _ => false
  | .alignRelease _ _ => false
  | .alignTimeout _ _ => false
  | .stookWindowEnd _ _ => false
  | .stookFillerStep _ => false
  | .stookThrottle _ => false
  | .permitRefill _ => false
  | .powerControl _ => false
  | .planeCommandStart _ => false
  | .pdotAddition _ => false
  | .packWrite _ => false
  | .copyStart _ => false
  | .copyCompletion _ => false
  | .granaryLoad _ => false
  | .granaryCompute _ => false
  | .combineForward _ => false
  | .collectiveResult _ _ => false
  | .submission _ => false
  | .launchSubmissionRecord _ => false
  | .queueDispatch _ => false
  | .signalRead _ => false
  | .sliceBoundary => false
  | .placement _ => false
  | .launchRelease _ _ => false
  | .launchCompletion _ => false
  | .launchAbort _ => false
  | .budgetExhaustion _ => false
  | .tileSave _ => false
  | .saveComplete _ => false
  | .resumption _ => false
  | .meterFlush _ => false
  | .meteringSnapshot _ _ => false
  | .metrSample _ => false
  | .rqhWrite _ _ _ _ => false
  | .tmsgDrop _ _ => false
  | .tmsgRetry _ _ => false
  | .oinfoFree _ _ => false
  | .oinfoRedo _ _ => false
  | .oovfClear _ _ => false
  | .bayrateWrite _ _ _ => false
  | .rankEntryWrite _ _ _ => false
  | .serviceSlotWrite _ _ _ => false
  | .debugDataRead _ _ => false
  | .debugDataWrite _ _ _ => false
  | .debugTagRead _ _ => false
  | .debugTagWrite _ _ _ => false
  | .contextWindowAccess _ _ _ _ => false
  | .loftWindowWrite _ _ _ => false
  | .fleetListWrite _ _ => false
  | .measExtend _ _ => false
  | .binGrant _ _ _ => false
  | .binGenerationAdvance _ _ => false
  | .registerWrite _ _ => false
  | .bulkWindowAccess _ _ _ _ => false
  | .hubReset => false
  | .dieReset _ => false
  | .partitionReset _ => false
  | .functionLevelReset _ => false
  | .targetLoss _ => false
  | .crossingCalibration _ _ _ => false
  | .splineExchange _ _ _ _ _ _ => false
  | .bayRetirement _ => false
  | .rdmaPacket _ => false
  | .rdmaFlagWrite _ => false
  | .connectionMiss _ => false
  | .getVersion => false
  | .getCapabilities => false
  | .negotiateAlgorithms => false
  | .getDigests => false
  | .getCertificate _ => false
  | .challenge _ => false
  | .getMeasurements _ => false
  | .spdmUnsupported _ => false
  | .loftLineFetch _ _ => false
  | .pcieCompletion _ _ _ => false
  | .tenantDeletion _ => false

end Sys2Proof
end

