-- ==== Sys2Proof/Decode.lean ====
section
/-! DEFINITION. Decoding (R58 to R79), total on any bytes, and the encoder, both from Tables 4.1, 4.2 and 4.5. -/

namespace Sys2Proof

/-- Why bytes do not decode: too few of them, the first word is illegal (R71), or the word after a prefix is (R75, R89). -/
inductive DecodeError where
  | short
  | illegal
  | illegalNext
deriving DecidableEq, Repr

/-- Bits [31:26] (R58). -/
def majorOf (w : Word) : BitVec 6 := w.extractLsb' 26 6
/-- Bits [25:22], the function code of the formats that have one (R69). -/
def fnOf (w : Word) : BitVec 4 := w.extractLsb' 22 4
/-- The S format of Table 4.1. -/
def sOpOf (w : Word) : SOp :=
  { p := w.extractLsb' 19 3, i := w.getLsbD 18, w := w.extractLsb' 16 2, sz := w.extractLsb' 14 2,
    src := w.extractLsb' 12 2, d := w.extractLsb' 0 12 }
/-- The I format of Table 4.1. -/
def iOpOf (w : Word) : IOp :=
  { sh := w.extractLsb' 20 2, mod := w.extractLsb' 16 4, imm := w.extractLsb' 0 16 }
/-- The C format of Table 4.1. -/
def cOpOf (w : Word) : COp :=
  { ch := w.extractLsb' 20 2, lvl := w.extractLsb' 16 4, tag := w.extractLsb' 12 4, imm := w.extractLsb' 0 12 }
/-- The E format of Table 4.1. -/
def eOpOf (w : Word) : EOp :=
  { pa := w.extractLsb' 19 3, pb := w.extractLsb' 16 3, i := w.getLsbD 15, w := w.extractLsb' 13 2,
    row := w.extractLsb' 10 3, imm := w.extractLsb' 0 10 }
/-- off22 of the B format. -/
def offOf (w : Word) : BitVec 22 := w.extractLsb' 0 22
/-- fn6 and arg20 of the Y format. -/
def fn6Of (w : Word) : BitVec 6 := w.extractLsb' 20 6
def argOf (w : Word) : BitVec 20 := w.extractLsb' 0 20

/-- Table 4.5, major 0x02. -/
def decodeIalu (w : Word) : Option Instr :=
  match fnOf w with
  | 0#4 => some (.add (sOpOf w))
  | 1#4 => some (.sub (sOpOf w))
  | 2#4 => some (.adc (sOpOf w))
  | 3#4 => some (.sbc (sOpOf w))
  | 4#4 => some (.and (sOpOf w))
  | 5#4 => some (.or (sOpOf w))
  | 6#4 => some (.xor (sOpOf w))
  | 7#4 => some (.andn (sOpOf w))
  | 8#4 => some (.min (sOpOf w))
  | 9#4 => some (.max (sOpOf w))
  | 10#4 => some (.minu (sOpOf w))
  | 11#4 => some (.maxu (sOpOf w))
  | 12#4 => some (.mul (sOpOf w))
  | 13#4 => some (.mulh (sOpOf w))
  | 14#4 => some (.mulhu (sOpOf w))
  | _ => some (.cmp (sOpOf w))

/-- Table 4.5, major 0x03. -/
def decodeIalui (w : Word) : Option Instr :=
  match fnOf w with
  | 0#4 => some (.addImm (iOpOf w))
  | 1#4 => some (.subImm (iOpOf w))
  | 2#4 => some (.adcImm (iOpOf w))
  | 3#4 => some (.sbcImm (iOpOf w))
  | 4#4 => some (.andImm (iOpOf w))
  | 5#4 => some (.orImm (iOpOf w))
  | 6#4 => some (.xorImm (iOpOf w))
  | 7#4 => some (.andnImm (iOpOf w))
  | 8#4 => some (.minImm (iOpOf w))
  | 9#4 => some (.maxImm (iOpOf w))
  | 10#4 => some (.minuImm (iOpOf w))
  | 11#4 => some (.maxuImm (iOpOf w))
  | 12#4 => some (.mulImm (iOpOf w))
  | 13#4 => some (.mulhImm (iOpOf w))
  | 14#4 => some (.mulhuImm (iOpOf w))
  | _ => some (.cmpImm (iOpOf w))

/-- Table 4.5, major 0x04. -/
def decodeIdiv (w : Word) : Option Instr :=
  match fnOf w with
  | 0#4 => some (.div (sOpOf w))
  | 1#4 => some (.divu (sOpOf w))
  | 2#4 => some (.rem (sOpOf w))
  | 3#4 => some (.remu (sOpOf w))
  | _ => none

/-- Table 4.5, major 0x05. -/
def decodeBits (w : Word) : Option Instr :=
  match fnOf w with
  | 0#4 => some (.shl (iOpOf w))
  | 1#4 => some (.shr (iOpOf w))
  | 2#4 => some (.sra (iOpOf w))
  | 3#4 => some (.rol (iOpOf w))
  | 4#4 => some (.clz (iOpOf w))
  | 5#4 => some (.ctz (iOpOf w))
  | 6#4 => some (.popc (iOpOf w))
  | 7#4 => some (.brev (iOpOf w))
  | 8#4 => some (.bfx (iOpOf w))
  | 9#4 => some (.bfi (iOpOf w))
  | 10#4 => some (.sext (iOpOf w))
  | 11#4 => some (.zext (iOpOf w))
  | _ => none

/-- Table 4.5, major 0x06. -/
def decodeLs (w : Word) : Option Instr :=
  match fnOf w with
  | 0#4 => some (.ld (sOpOf w))
  | 1#4 => some (.ldx (sOpOf w))
  | 2#4 => some (.st (sOpOf w))
  | 3#4 => some (.pld (sOpOf w))
  | 4#4 => some (.pst (sOpOf w))
  | _ => none

/-- Table 4.5, major 0x07. -/
def decodePtr (w : Word) : Option Instr :=
  match fnOf w with
  | 0#4 => some (.li (iOpOf w))
  | 1#4 => some (.pset (iOpOf w))
  | 2#4 => some (.pstride (iOpOf w))
  | 3#4 => some (.padd (iOpOf w))
  | 4#4 => some (.pmov (iOpOf w))
  | 5#4 => some (.pget (iOpOf w))
  | 6#4 => some (.pcmp (iOpOf w))
  | _ => none

/-- Table 4.5, major 0x09. -/
def decodeJmp (w : Word) : Option Instr :=
  match fnOf w with
  | 0#4 => some (.j (offOf w))
  | 1#4 => some (.call (offOf w))
  | 2#4 => some (.ret (offOf w))
  | 3#4 => some (.ja (offOf w))
  | 4#4 => some (.calla (offOf w))
  | _ => none

/-- Table 4.5, major 0x0C. -/
def decodeFalu (w : Word) : Option Instr :=
  match fnOf w with
  | 0#4 => some (.fadd (sOpOf w))
  | 1#4 => some (.fsub (sOpOf w))
  | 2#4 => some (.fmul (sOpOf w))
  | 3#4 => some (.fma (sOpOf w))
  | 4#4 => some (.fmin (sOpOf w))
  | 5#4 => some (.fmax (sOpOf w))
  | 6#4 => some (.fdiv (sOpOf w))
  | 7#4 => some (.fsqrt (sOpOf w))
  | 8#4 => some (.fcmp (sOpOf w))
  | 9#4 => some (.fcvt (sOpOf w))
  | 10#4 => some (.fsgn (sOpOf w))
  | _ => none

/-- Table 4.5, major 0x0D. -/
def decodeValu (w : Word) : Option Instr :=
  match fnOf w with
  | 0#4 => some (.vadd (sOpOf w))
  | 1#4 => some (.vsub (sOpOf w))
  | 2#4 => some (.vmul (sOpOf w))
  | 3#4 => some (.vmac (sOpOf w))
  | 4#4 => some (.vmin (sOpOf w))
  | 5#4 => some (.vmax (sOpOf w))
  | 6#4 => some (.vand (sOpOf w))
  | 7#4 => some (.vor (sOpOf w))
  | 8#4 => some (.vxor (sOpOf w))
  | 9#4 => some (.vshl (sOpOf w))
  | 10#4 => some (.vshr (sOpOf w))
  | 11#4 => some (.vsra (sOpOf w))
  | 12#4 => some (.vcmp (sOpOf w))
  | 13#4 => some (.vsel (sOpOf w))
  | _ => none

/-- Table 4.5, major 0x0E. -/
def decodeVfpu (w : Word) : Option Instr :=
  match fnOf w with
  | 0#4 => some (.vfadd (sOpOf w))
  | 1#4 => some (.vfsub (sOpOf w))
  | 2#4 => some (.vfmul (sOpOf w))
  | 3#4 => some (.vfma (sOpOf w))
  | 4#4 => some (.vfmin (sOpOf w))
  | 5#4 => some (.vfmax (sOpOf w))
  | 6#4 => some (.vfcmp (sOpOf w))
  | 7#4 => some (.vfcvt (sOpOf w))
  | 8#4 => some (.vfrcp (sOpOf w))
  | 9#4 => some (.vfrsq (sOpOf w))
  | 10#4 => some (.vfexp (sOpOf w))
  | 11#4 => some (.vflog (sOpOf w))
  | _ => none

/-- Table 4.5, major 0x0F. -/
def decodeVdata (w : Word) : Option Instr :=
  match fnOf w with
  | 0#4 => some (.vld (sOpOf w))
  | 1#4 => some (.vst (sOpOf w))
  | 2#4 => some (.vsplat (sOpOf w))
  | 3#4 => some (.vext (sOpOf w))
  | 4#4 => some (.vins (sOpOf w))
  | 5#4 => some (.vperm (sOpOf w))
  | 6#4 => some (.vsum (sOpOf w))
  | 7#4 => some (.vmaxr (sOpOf w))
  | 8#4 => some (.vmask (sOpOf w))
  | 9#4 => some (.vslide (sOpOf w))
  | _ => none

/-- Table 4.5, major 0x10. -/
def decodeMsg (w : Word) : Option Instr :=
  match fnOf w with
  | 0#4 => some (.send (cOpOf w))
  | 1#4 => some (.sendv (cOpOf w))
  | 2#4 => some (.recv (cOpOf w))
  | 3#4 => some (.peek (cOpOf w))
  | 4#4 => some (.offer (cOpOf w))
  | 5#4 => some (.pull (cOpOf w))
  | 6#4 => some (.hret (cOpOf w))
  | 7#4 => some (.tagset (cOpOf w))
  | 8#4 => some (.tagclr (cOpOf w))
  | _ => none

/-- Table 4.5, major 0x11. -/
def decodeChan (w : Word) : Option Instr :=
  match fnOf w with
  | 0#4 => some (.chr (cOpOf w))
  | 1#4 => some (.chw (cOpOf w))
  | 2#4 => some (.chwv (cOpOf w))
  | 3#4 => some (.chst (cOpOf w))
  | _ => none

/-- Table 4.5, major 0x12. -/
def decodeSync (w : Word) : Option Instr :=
  match fnOf w with
  | 0#4 => some (.barw (cOpOf w))
  | 1#4 => some (.bart (cOpOf w))
  | 2#4 => some (.pause (cOpOf w))
  | 3#4 => some (.waitq (cOpOf w))
  | 4#4 => some (.yield (cOpOf w))
  | 5#4 => some (.stkh (cOpOf w))
  | 6#4 => some (.align (cOpOf w))
  | _ => none

/-- Table 4.5, major 0x13. -/
def decodeFabric (w : Word) : Option Instr :=
  match fnOf w with
  | 0#4 => some (.circ (cOpOf w))
  | 1#4 => some (.rank (cOpOf w))
  | 2#4 => some (.tree (cOpOf w))
  | _ => none

/-- Table 4.5, major 0x14. -/
def decodeRemote (w : Word) : Option Instr :=
  match fnOf w with
  | 0#4 => some (.rld (sOpOf w))
  | 1#4 => some (.rldAcq (sOpOf w))
  | 2#4 => some (.rst (sOpOf w))
  | 3#4 => some (.rstRel (sOpOf w))
  | 4#4 => some (.rldv (sOpOf w))
  | 5#4 => some (.rstv (sOpOf w))
  | _ => none

/-- Table 4.5, major 0x15. -/
def decodeAmo (w : Word) : Option Instr :=
  match fnOf w with
  | 0#4 => some (.aadd (sOpOf w))
  | 1#4 => some (.aand (sOpOf w))
  | 2#4 => some (.aor (sOpOf w))
  | 3#4 => some (.axor (sOpOf w))
  | 4#4 => some (.amin (sOpOf w))
  | 5#4 => some (.amax (sOpOf w))
  | 6#4 => some (.aminu (sOpOf w))
  | 7#4 => some (.amaxu (sOpOf w))
  | 8#4 => some (.aswp (sOpOf w))
  | 9#4 => some (.acas (sOpOf w))
  | _ => none

/-- Table 4.5, major 0x16. -/
def decodeOrder (w : Word) : Option Instr :=
  match fn6Of w with
  | 0#6 => some (.fence (argOf w))
  | 1#6 => some (.waitc (argOf w))
  | 2#6 => some (.gtag (argOf w))
  | 3#6 => some (.gnew (argOf w))
  | _ => none

/-- Table 4.5, major 0x18. -/
def decodePlane (w : Word) : Option Instr :=
  match fnOf w with
  | 0#4 => some (.pcfg (eOpOf w))
  | 1#4 => some (.pdot (eOpOf w))
  | 2#4 => some (.ppack (eOpOf w))
  | 3#4 => some (.punpk (eOpOf w))
  | _ => none

/-- Table 4.5, major 0x19. -/
def decodeMacc (w : Word) : Option Instr :=
  match fnOf w with
  | 0#4 => some (.maclm (eOpOf w))
  | 1#4 => some (.marel (eOpOf w))
  | 2#4 => some (.mard (eOpOf w))
  | 3#4 => some (.mawm (eOpOf w))
  | 4#4 => some (.maclr (eOpOf w))
  | _ => none

/-- Table 4.5, major 0x1A. -/
def decodeCopy (w : Word) : Option Instr :=
  match fnOf w with
  | 0#4 => some (.cpy (eOpOf w))
  | 1#4 => some (.cpyq (eOpOf w))
  | 2#4 => some (.inbox (eOpOf w))
  | _ => none

/-- Table 4.5, major 0x1B. -/
def decodeGran (w : Word) : Option Instr :=
  match fnOf w with
  | 0#4 => some (.grnw (eOpOf w))
  | 1#4 => some (.grn (eOpOf w))
  | _ => none

/-- Table 4.5, major 0x1C. -/
def decodeColl (w : Word) : Option Instr :=
  match fnOf w with
  | 0#4 => some (.coll (cOpOf w))
  | 1#4 => some (.collw (cOpOf w))
  | _ => none

/-- Table 4.5, major 0x20. -/
def decodeSys (w : Word) : Option Instr :=
  match fn6Of w with
  | 0#6 => some (.trap (argOf w))
  | 1#6 => some (.sysc (argOf w))
  | 2#6 => some (.eret (argOf w))
  | 3#6 => some (.gets (argOf w))
  | 4#6 => some (.sets (argOf w))
  | 5#6 => some (.exit (argOf w))
  | 6#6 => some (.launch (argOf w))
  | 7#6 => some (.wdog (argOf w))
  | 8#6 => some (.metr (argOf w))
  | 9#6 => some (.plbw (argOf w))
  | 10#6 => some (.plbi (argOf w))
  | 11#6 => some (.halt (argOf w))
  | _ => none

/-- RPT (R63): cs = 1 takes the count from A and requires count to be zero. -/
def decodeRpt (w : Word) : Option Instr :=
  if w.getLsbD 18 then
    if w.extractLsb' 0 18 == 0 then some (.rptA (w.extractLsb' 22 4) (w.extractLsb' 19 3)) else none
  else some (.rpt (w.extractLsb' 22 4) (w.extractLsb' 19 3) (w.extractLsb' 0 18))

/-- The family of a word by its major (Table 4.2); a prefix word alone is no instruction. -/
def decodeFamily (w : Word) : Option Instr :=
  match majorOf w with
  | 2#6 => decodeIalu w
  | 3#6 => decodeIalui w
  | 4#6 => decodeIdiv w
  | 5#6 => decodeBits w
  | 6#6 => decodeLs w
  | 7#6 => decodePtr w
  | 9#6 => decodeJmp w
  | 12#6 => decodeFalu w
  | 13#6 => decodeValu w
  | 14#6 => decodeVfpu w
  | 15#6 => decodeVdata w
  | 16#6 => decodeMsg w
  | 17#6 => decodeChan w
  | 18#6 => decodeSync w
  | 19#6 => decodeFabric w
  | 20#6 => decodeRemote w
  | 21#6 => decodeAmo w
  | 22#6 => decodeOrder w
  | 24#6 => decodePlane w
  | 25#6 => decodeMacc w
  | 26#6 => decodeCopy w
  | 27#6 => decodeGran w
  | 28#6 => decodeColl w
  | 32#6 => decodeSys w
  | 8#6 => some (.b (fnOf w) (offOf w))
  | 10#6 => decodeRpt w
  | _ => none

/-- One word that is not a prefix: its family's member, when every field passes R59 to R71. -/
def decodeWord (w : Word) : Option Instr :=
  (decodeFamily w).filter Instr.wf

/-- The functions of IALU and IALUI by code (Table 5.3). -/
def aluFnOf (f : BitVec 4) : AluFn :=
  match f with
  | 0#4 => .add
  | 1#4 => .sub
  | 2#4 => .adc
  | 3#4 => .sbc
  | 4#4 => .and
  | 5#4 => .or
  | 6#4 => .xor
  | 7#4 => .andn
  | 8#4 => .min
  | 9#4 => .max
  | 10#4 => .minu
  | 11#4 => .maxu
  | 12#4 => .mul
  | 13#4 => .mulh
  | 14#4 => .mulhu
  | _ => .cmp

def AluFn.code : AluFn → BitVec 4
  | .add => 0
  | .sub => 1
  | .adc => 2
  | .sbc => 3
  | .and => 4
  | .or => 5
  | .xor => 6
  | .andn => 7
  | .min => 8
  | .max => 9
  | .minu => 10
  | .maxu => 11
  | .mul => 12
  | .mulh => 13
  | .mulhu => 14
  | .cmp => 15

/-- A prefix and its successor (R61, R74, R75, R89): an IALUI word with sh and mod zero, or an `LI` word with both zero. -/
def decodePair (x w : Word) : Option Instr :=
  if w.extractLsb' 16 6 == 0 then
    if majorOf w == 3 then some (.ximm (x.extractLsb' 0 26) (.alu (aluFnOf (fnOf w))) (w.extractLsb' 0 16))
    else if majorOf w == 7 && fnOf w == 0 then some (.ximm (x.extractLsb' 0 26) .li (w.extractLsb' 0 16))
    else none
  else none

/-- A word from its four bytes, lowest address first (R7). -/
def wordOfBytes (b0 b1 b2 b3 : Byte) : Word := b3 ++ b2 ++ b1 ++ b0

/-- The bytes of a word, lowest address first. -/
def bytesOfWord (w : Word) : List Byte :=
  [w.extractLsb' 0 8, w.extractLsb' 8 8, w.extractLsb' 16 8, w.extractLsb' 24 8]

/-- Decode one instruction from bytes: the instruction, and how many bytes it takes. -/
def decode (bs : List Byte) : Except DecodeError (Instr × Nat) :=
  match bs with
  | b0 :: b1 :: b2 :: b3 :: rest =>
    let w := wordOfBytes b0 b1 b2 b3
    if majorOf w = 1 then
      match rest with
      | c0 :: c1 :: c2 :: c3 :: _ =>
        match decodePair w (wordOfBytes c0 c1 c2 c3) with
        | some i => .ok (i, 8)
        | none => .error .illegalNext
      | _ => .error .short
    else
      match decodeWord w with
      | some i => .ok (i, 4)
      | none => .error .illegal
  | _ => .error .short

/-! ### Encoder -/

def bit (b : Bool) : BitVec 1 := BitVec.ofBool b
def encS (major : BitVec 6) (fn : BitVec 4) (o : SOp) : List Word :=
  [major ++ fn ++ o.p ++ bit o.i ++ o.w ++ o.sz ++ o.src ++ o.d]
def encI (major : BitVec 6) (fn : BitVec 4) (o : IOp) : List Word :=
  [major ++ fn ++ o.sh ++ o.mod ++ o.imm]
def encC (major : BitVec 6) (fn : BitVec 4) (o : COp) : List Word :=
  [major ++ fn ++ o.ch ++ o.lvl ++ o.tag ++ o.imm]
def encE (major : BitVec 6) (fn : BitVec 4) (o : EOp) : List Word :=
  [major ++ fn ++ o.pa ++ o.pb ++ bit o.i ++ o.w ++ o.row ++ o.imm]
def encB (major : BitVec 6) (fn : BitVec 4) (off : BitVec 22) : List Word := [major ++ fn ++ off]
def encY (major : BitVec 6) (fn : BitVec 6) (arg : BitVec 20) : List Word := [major ++ fn ++ arg]

/-- The words of an instruction (Tables 4.1 and 4.5); an event has none. -/
def encode : Instr → List Word
  | .ximm hi (.alu f) lo => [1#6 ++ hi, 3#6 ++ f.code ++ 0#6 ++ lo]
  | .ximm hi .li lo => [1#6 ++ hi, 7#6 ++ 0#4 ++ 0#6 ++ lo]
  | .b cond off => encB 8 cond off
  | .rpt len stag count => [10#6 ++ len ++ stag ++ 0#1 ++ count]
  | .rptA len stag => [10#6 ++ len ++ stag ++ 1#1 ++ 0#18]
  | .add x => encS 2 0 x
  | .sub x => encS 2 1 x
  | .adc x => encS 2 2 x
  | .sbc x => encS 2 3 x
  | .and x => encS 2 4 x
  | .or x => encS 2 5 x
  | .xor x => encS 2 6 x
  | .andn x => encS 2 7 x
  | .min x => encS 2 8 x
  | .max x => encS 2 9 x
  | .minu x => encS 2 10 x
  | .maxu x => encS 2 11 x
  | .mul x => encS 2 12 x
  | .mulh x => encS 2 13 x
  | .mulhu x => encS 2 14 x
  | .cmp x => encS 2 15 x
  | .addImm x => encI 3 0 x
  | .subImm x => encI 3 1 x
  | .adcImm x => encI 3 2 x
  | .sbcImm x => encI 3 3 x
  | .andImm x => encI 3 4 x
  | .orImm x => encI 3 5 x
  | .xorImm x => encI 3 6 x
  | .andnImm x => encI 3 7 x
  | .minImm x => encI 3 8 x
  | .maxImm x => encI 3 9 x
  | .minuImm x => encI 3 10 x
  | .maxuImm x => encI 3 11 x
  | .mulImm x => encI 3 12 x
  | .mulhImm x => encI 3 13 x
  | .mulhuImm x => encI 3 14 x
  | .cmpImm x => encI 3 15 x
  | .div x => encS 4 0 x
  | .divu x => encS 4 1 x
  | .rem x => encS 4 2 x
  | .remu x => encS 4 3 x
  | .shl x => encI 5 0 x
  | .shr x => encI 5 1 x
  | .sra x => encI 5 2 x
  | .rol x => encI 5 3 x
  | .clz x => encI 5 4 x
  | .ctz x => encI 5 5 x
  | .popc x => encI 5 6 x
  | .brev x => encI 5 7 x
  | .bfx x => encI 5 8 x
  | .bfi x => encI 5 9 x
  | .sext x => encI 5 10 x
  | .zext x => encI 5 11 x
  | .ld x => encS 6 0 x
  | .ldx x => encS 6 1 x
  | .st x => encS 6 2 x
  | .pld x => encS 6 3 x
  | .pst x => encS 6 4 x
  | .li x => encI 7 0 x
  | .pset x => encI 7 1 x
  | .pstride x => encI 7 2 x
  | .padd x => encI 7 3 x
  | .pmov x => encI 7 4 x
  | .pget x => encI 7 5 x
  | .pcmp x => encI 7 6 x
  | .j x => encB 9 0 x
  | .call x => encB 9 1 x
  | .ret x => encB 9 2 x
  | .ja x => encB 9 3 x
  | .calla x => encB 9 4 x
  | .fadd x => encS 12 0 x
  | .fsub x => encS 12 1 x
  | .fmul x => encS 12 2 x
  | .fma x => encS 12 3 x
  | .fmin x => encS 12 4 x
  | .fmax x => encS 12 5 x
  | .fdiv x => encS 12 6 x
  | .fsqrt x => encS 12 7 x
  | .fcmp x => encS 12 8 x
  | .fcvt x => encS 12 9 x
  | .fsgn x => encS 12 10 x
  | .vadd x => encS 13 0 x
  | .vsub x => encS 13 1 x
  | .vmul x => encS 13 2 x
  | .vmac x => encS 13 3 x
  | .vmin x => encS 13 4 x
  | .vmax x => encS 13 5 x
  | .vand x => encS 13 6 x
  | .vor x => encS 13 7 x
  | .vxor x => encS 13 8 x
  | .vshl x => encS 13 9 x
  | .vshr x => encS 13 10 x
  | .vsra x => encS 13 11 x
  | .vcmp x => encS 13 12 x
  | .vsel x => encS 13 13 x
  | .vfadd x => encS 14 0 x
  | .vfsub x => encS 14 1 x
  | .vfmul x => encS 14 2 x
  | .vfma x => encS 14 3 x
  | .vfmin x => encS 14 4 x
  | .vfmax x => encS 14 5 x
  | .vfcmp x => encS 14 6 x
  | .vfcvt x => encS 14 7 x
  | .vfrcp x => encS 14 8 x
  | .vfrsq x => encS 14 9 x
  | .vfexp x => encS 14 10 x
  | .vflog x => encS 14 11 x
  | .vld x => encS 15 0 x
  | .vst x => encS 15 1 x
  | .vsplat x => encS 15 2 x
  | .vext x => encS 15 3 x
  | .vins x => encS 15 4 x
  | .vperm x => encS 15 5 x
  | .vsum x => encS 15 6 x
  | .vmaxr x => encS 15 7 x
  | .vmask x => encS 15 8 x
  | .vslide x => encS 15 9 x
  | .send x => encC 16 0 x
  | .sendv x => encC 16 1 x
  | .recv x => encC 16 2 x
  | .peek x => encC 16 3 x
  | .offer x => encC 16 4 x
  | .pull x => encC 16 5 x
  | .hret x => encC 16 6 x
  | .tagset x => encC 16 7 x
  | .tagclr x => encC 16 8 x
  | .chr x => encC 17 0 x
  | .chw x => encC 17 1 x
  | .chwv x => encC 17 2 x
  | .chst x => encC 17 3 x
  | .barw x => encC 18 0 x
  | .bart x => encC 18 1 x
  | .pause x => encC 18 2 x
  | .waitq x => encC 18 3 x
  | .yield x => encC 18 4 x
  | .stkh x => encC 18 5 x
  | .align x => encC 18 6 x
  | .circ x => encC 19 0 x
  | .rank x => encC 19 1 x
  | .tree x => encC 19 2 x
  | .rld x => encS 20 0 x
  | .rldAcq x => encS 20 1 x
  | .rst x => encS 20 2 x
  | .rstRel x => encS 20 3 x
  | .rldv x => encS 20 4 x
  | .rstv x => encS 20 5 x
  | .aadd x => encS 21 0 x
  | .aand x => encS 21 1 x
  | .aor x => encS 21 2 x
  | .axor x => encS 21 3 x
  | .amin x => encS 21 4 x
  | .amax x => encS 21 5 x
  | .aminu x => encS 21 6 x
  | .amaxu x => encS 21 7 x
  | .aswp x => encS 21 8 x
  | .acas x => encS 21 9 x
  | .fence x => encY 22 0 x
  | .waitc x => encY 22 1 x
  | .gtag x => encY 22 2 x
  | .gnew x => encY 22 3 x
  | .pcfg x => encE 24 0 x
  | .pdot x => encE 24 1 x
  | .ppack x => encE 24 2 x
  | .punpk x => encE 24 3 x
  | .maclm x => encE 25 0 x
  | .marel x => encE 25 1 x
  | .mard x => encE 25 2 x
  | .mawm x => encE 25 3 x
  | .maclr x => encE 25 4 x
  | .cpy x => encE 26 0 x
  | .cpyq x => encE 26 1 x
  | .inbox x => encE 26 2 x
  | .grnw x => encE 27 0 x
  | .grn x => encE 27 1 x
  | .coll x => encC 28 0 x
  | .collw x => encC 28 1 x
  | .trap x => encY 32 0 x
  | .sysc x => encY 32 1 x
  | .eret x => encY 32 2 x
  | .gets x => encY 32 3 x
  | .sets x => encY 32 4 x
  | .exit x => encY 32 5 x
  | .launch x => encY 32 6 x
  | .wdog x => encY 32 7 x
  | .metr x => encY 32 8 x
  | .plbw x => encY 32 9 x
  | .plbi x => encY 32 10 x
  | .halt x => encY 32 11 x
  | .gnewAllocation _ _ => []
  | .trapEntry _ _ => []
  | .preemptionEvent _ _ => []
  | .handlerDispatch _ => []
  | .watchdog _ _ => []
  | .pauseExpiry _ _ => []
  | .messageInjection _ _ _ => []
  | .releaseInjection _ _ _ => []
  | .messageVisible _ => []
  | .channelWordArrival _ => []
  | .creditReturn _ => []
  | .joinerRequest _ => []
  | .farJoinerWrite _ => []
  | .circuitTeardownDrain _ => []
  | .joinerReply _ => []
  | .pullRequest _ => []
  | .pullCompletion _ => []
  | .pullReleaseNotice _ => []
  | .homeNiAccess _ => []
  | .remoteReply _ => []
  | .storeAcknowledge _ => []
  | .entryPortRequest _ => []
  | .faultRecordWrite _ => []
  | .faultFlush => []
  | .faultDismiss _ => []
  | .homePortAccess _ => []
  | .replicaWrite _ _ => []
  | .invalidation _ _ => []
  | .invalidationAcknowledge _ => []
  | .generationSweep _ => []
  | .scratchpadWriteback _ => []
  | .barrierCompletion _ => []
  | .barrierTimeout _ _ => []
  | .alignRelease _ _ => []
  | .alignTimeout _ _ => []
  | .stookWindowEnd _ _ => []
  | .stookFillerStep _ => []
  | .stookThrottle _ => []
  | .permitRefill _ => []
  | .powerControl _ => []
  | .planeCommandStart _ => []
  | .pdotAddition _ => []
  | .packWrite _ => []
  | .copyStart _ => []
  | .copyCompletion _ => []
  | .granaryLoad _ => []
  | .granaryCompute _ => []
  | .combineForward _ => []
  | .collectiveResult _ _ => []
  | .submission _ => []
  | .launchSubmissionRecord _ => []
  | .queueDispatch _ => []
  | .signalRead _ => []
  | .sliceBoundary => []
  | .placement _ => []
  | .launchRelease _ _ => []
  | .launchCompletion _ => []
  | .launchAbort _ => []
  | .budgetExhaustion _ => []
  | .tileSave _ => []
  | .saveComplete _ => []
  | .resumption _ => []
  | .meterFlush _ => []
  | .meteringSnapshot _ _ => []
  | .metrSample _ => []
  | .rqhWrite _ _ _ _ => []
  | .tmsgDrop _ _ => []
  | .tmsgRetry _ _ => []
  | .oinfoFree _ _ => []
  | .oinfoRedo _ _ => []
  | .oovfClear _ _ => []
  | .bayrateWrite _ _ _ => []
  | .rankEntryWrite _ _ _ => []
  | .serviceSlotWrite _ _ _ => []
  | .debugDataRead _ _ => []
  | .debugDataWrite _ _ _ => []
  | .debugTagRead _ _ => []
  | .debugTagWrite _ _ _ => []
  | .contextWindowAccess _ _ _ _ => []
  | .loftWindowWrite _ _ _ => []
  | .fleetListWrite _ _ => []
  | .measExtend _ _ => []
  | .binGrant _ _ _ => []
  | .binGenerationAdvance _ _ => []
  | .registerWrite _ _ => []
  | .bulkWindowAccess _ _ _ _ => []
  | .hubReset => []
  | .dieReset _ => []
  | .partitionReset _ => []
  | .functionLevelReset _ => []
  | .targetLoss _ => []
  | .crossingCalibration _ _ _ => []
  | .splineExchange _ _ _ _ _ _ => []
  | .bayRetirement _ => []
  | .rdmaPacket _ => []
  | .rdmaFlagWrite _ => []
  | .connectionMiss _ => []
  | .getVersion => []
  | .getCapabilities => []
  | .negotiateAlgorithms => []
  | .getDigests => []
  | .getCertificate _ => []
  | .challenge _ => []
  | .getMeasurements _ => []
  | .spdmUnsupported _ => []
  | .loftLineFetch _ _ => []
  | .pcieCompletion _ _ _ => []
  | .tenantDeletion _ => []

/-- The bytes of an instruction as the loft stores them (R7). -/
def encodeBytes (i : Instr) : List Byte := (encode i).flatMap bytesOfWord

/-- The first `k` bytes of a number, least significant first. -/
def bytesOfNat : Nat → Nat → List Byte
  | 0, _ => []
  | k + 1, n => BitVec.ofNat 8 n :: bytesOfNat k (n / 256)

/-- The instruction the decoder reads from bits `w`, the first word in bits [31:0] and a second above it. -/
def decodeTableWord (nbits w : Nat) : Option Instr :=
  match decode (bytesOfNat 8 (w % 2 ^ nbits)) with
  | .ok (i, _) => some i
  | .error _ => none

end Sys2Proof
end

