-- ==== Sys2Proof/Machine/State.lean ====
section
/-! DEFINITION. The state of the module as plain data: every register, table, queue and memory that the
spec names, the requests under way between its parts, and the model's own bookkeeping (said so at each). -/

namespace Sys2Proof.Machine

/-- Byte memory in one canonical form (assumption 1): addresses strictly rising, no entry equal to zero. -/
abbrev Memory := List Host.Cell

/-- Sparse table: keys strictly rising, no entry equal to the table's default. -/
abbrev SMap (α : Type) := List (Nat × α)

/-! ### Thread context (Table 1.1) -/

/-- F (Table 1.3): lane mask and flags; bits [7:4] are reserved. -/
structure Flags where
  m : BitVec 8
  n : Bool
  z : Bool
  c : Bool
  v : Bool
deriving DecidableEq, Repr

/-- A pointer register (Table 1.2); bit 15 always reads zero and is not held. -/
structure Ptr where
  stride : BitVec 16
  addr   : BitVec 15
deriving DecidableEq, Repr

/-- The repeat frame (Table 1.4). -/
structure Rpt where
  count : BitVec 20
  body  : BitVec 14
  len   : BitVec 4
  idx   : BitVec 4
  stag  : BitVec 3
  k     : BitVec 3
deriving DecidableEq, Repr

/-- One bank of the context (R12, R325). `pcfg` holds bits [8:0]; bits [15:9] are reserved (R271). -/
structure Bank where
  pc    : BitVec 14
  a     : DWord
  v     : Vector Word 8
  p     : Vector Ptr 8
  f     : Flags
  rpt   : Rpt
  rs    : Vector (BitVec 14) 4
  depth : BitVec 3
  pcfg  : BitVec 9
  /-- A reply into A is outstanding (R253). -/
  aPend : Bool
  /-- A reply into Z is outstanding, for ACAS (R260). -/
  zPend : Bool
  /-- A reply into V is outstanding (R255). -/
  vPend : Bool
deriving DecidableEq, Repr

/-- %TADDRX (Table 19.2). -/
structure TAddrX where
  spchk : Bool
  defer : Bool
  apc   : BitVec 14
  vax   : BitVec 8
deriving DecidableEq, Repr

/-- What a trap writes into %TCAUSE, %TADDR and %TADDRX (R326). -/
structure Trap where
  cause : BitVec 8
  addr  : DWord
  addrx : TAddrX
deriving DecidableEq, Repr

/-- %TMSG (Table 19.4): Q, HOLD and MID; DROP and RETRY are write-only. -/
structure TMsg where
  q    : BitVec 2
  hold : Bool
  mid  : BitVec 16
deriving DecidableEq, Repr

/-- A receive queue of a slot (Tables 8.6, 8.7), with what its overflow report carries (R168, R331, R415). -/
structure RQueue where
  logsz : BitVec 4
  head  : BitVec 15
  tail  : BitVec 15
  ovf   : Bool
  /-- An RQ_OVERFLOW report is pending for this queue. -/
  report : Bool
  /-- A redelivery was refused: the report is armed again once room appears (R415). -/
  rearm : Bool
  mid   : BitVec 16
  lost  : Bool
  ahead : Bool
  /-- The fabric cycle after the last arrival's, and that arrival's source die and CID (R160). -/
  arrFc : Nat
  arrKey : Nat
  /-- Of a handler queue: for how many tile cycles the tile has seen each queued message, the head first (R165). -/
  age    : List Nat
deriving DecidableEq, Repr

/-- One end of a channel binding (Table 9.3): a circuit by source die and CID, or a mesh direction 0 to 3. -/
inductive ChanEnd where
  | circuit (die : Nat) (cid : Nat)
  | link (dir : BitVec 2)
deriving DecidableEq, Repr

/-- A channel of a thread (R156, R186). -/
structure Channel where
  w : Option ChanEnd
  r : Option ChanEnd
deriving DecidableEq, Repr

/-- An inbox record (Tables 17.2, 17.3). -/
structure InboxRec where
  w0 : DWord
  w1 : DWord
deriving DecidableEq, Repr

/-- An open barrier join (R191). -/
structure Join where
  level     : BitVec 4
  completed : Bool
deriving DecidableEq, Repr

/-- A held collective wave (R314). `num` counts the waves this thread has joined at the level. -/
structure HeldWave where
  level   : BitVec 4
  op      : BitVec 2
  contrib : DWord
  num     : Nat
  result  : Option DWord
deriving DecidableEq, Repr

/-- Why a context is not ready (R412, R132); the model's record of the last try to issue. -/
inductive Wait where
  | counter | channel | credit | queue | inbox | limit | ni | niRemote | plane | copyq | row
  | wave | barrier | align | reply | pending | quiet | sweep | fence | acquire | count | waitq
  | inFlight
deriving DecidableEq, Repr

/-- An atomic's function (Table 13.2). -/
inductive AmoFn where
  | aadd | aand | aor | axor | amin | amax | aminu | amaxu | aswp | acas
deriving DecidableEq, Repr

/-- What a request asks for. Store bytes of a disabled lane are `none` (R255). -/
inductive ReqOp where
  | msg (hdr : DWord) (pay : List DWord)
  | load (n : Nat) (mask : Option (BitVec 8))
  | store (data : List (Option Byte))
  | amo (fn : AmoFn) (n : Nat) (a : DWord) (e : DWord)
  | pull (src : Nat) (len : Nat) (dst : Nat) (block : Nat)
deriving DecidableEq, Repr

/-- How a request leaves its tile (R175, R216, R211). -/
inductive Route where
  /-- On the context's circuit to a tile: source die, CID, the tile and the slot the rank names. -/
  | tile (die : Nat) (cid : Nat) (dst : Nat) (slot : Nat)
  /-- On the bay's memory circuit. -/
  | mem
  /-- On the configuration circuit (spaces 0xD and 0xE). -/
  | config
deriving DecidableEq, Repr

/-- An access or message of a context, from its issue to its completion. `ext` is the extent of the
ordering form (R240): at or below 5 the die, above it the module. -/
structure Req where
  uid    : Nat
  tile   : Nat
  slot   : Nat
  /-- Which run of a context in the slot issued it: a reply owed to an earlier run is discarded. -/
  run    : Nat
  sup    : Bool
  seq    : Nat
  tenant : Nat
  dom    : BitVec 16
  pc     : BitVec 14
  va     : VA
  op     : ReqOp
  route  : Route
  rel    : Option (BitVec 3)
  acq    : Option (BitVec 3)
  /-- The rank of a message or tile-window access, for the transit hold (R162). -/
  rank   : Nat
  /-- A word of it arrived with an uncorrectable check (R231). -/
  bad    : Bool
  /-- The virtual function of the launch that issued it (R398). -/
  vf     : Nat
deriving DecidableEq, Repr

/-- One access of a context that is not yet complete, for fences and releases (R241, R243). -/
structure Acc where
  seq   : Nat
  read  : Bool
  write : Bool
  /-- Performed for an extent of die or less (Table 12.3). -/
  die   : Bool
  /-- Performed for an extent of module or fleet. -/
  mod   : Bool
deriving DecidableEq, Repr

/-- A fence that still holds later accesses (R243): kinds RR, RW, WR, WW in bits 0 to 3. -/
structure Fence where
  kinds : BitVec 4
  ext   : BitVec 3
  seq   : Nat
deriving DecidableEq, Repr

/-- A deferred error of an access (R257), or a pending plane-array or message-check event (R327). -/
structure PendErr where
  trap : Trap
deriving DecidableEq, Repr

/-- How far an instruction that waits after its effect has come (R412). -/
inductive Entered where
  | no
  | barrier
  | align (released : Bool) (level : BitVec 4)
  | acquire (oldSel : BitVec 3) (oldPtr : Ptr) (err : Option Trap) (done : Bool)
  /-- A `GNEW` that waits for its sweep, and the generation once allocated (R225, R264). -/
  | gnew (got : Option (BitVec 12))
deriving DecidableEq, Repr

/-- Thread slot states (Table 20.3). -/
inductive SlotState where
  | empty | user | supervisor | handler | stopping
deriving DecidableEq, Repr

/-- A thread slot: its two banks, the items both share (R325), and what the NI and the tile hold for it. -/
structure Slot where
  st     : SlotState
  /-- Privilege: true for supervisor. -/
  priv   : Bool
  /-- HALT, or a trap raised in supervisor privilege: the slot issues nothing more (R326, R366). -/
  halted : Bool
  user   : Bank
  sup    : Bank
  gen    : BitVec 12
  dom    : BitVec 16
  nb     : BitVec 16
  nm     : BitVec 16
  ne     : BitVec 16
  hnd    : Bool
  tcause : BitVec 8
  taddr  : DWord
  taddrx : TAddrX
  tpc    : BitVec 14
  tvec   : BitVec 14
  tmsg   : TMsg
  wdogb  : BitVec 20
  gpol   : Bool
  rq     : Vector RQueue 4
  ch     : Vector Channel 4
  inbox  : List InboxRec
  drop   : BitVec 8
  join   : Option Join
  /-- Remaining tile cycles of the PAUSE (R194). -/
  pause  : Nat
  /-- The last of them has passed: the pause ends before the next cycle. -/
  pauseDue : Bool
  /-- The contexts that must issue or stop being ready before this one, after YIELD (R196). -/
  yielded : BitVec 8
  hint   : BitVec 3
  wave   : Option HeldWave
  /-- Waves joined at each declared level. -/
  waves  : Vector Nat 16
  /-- Tree coordinates %TC0 to %TC15 (R126). -/
  tc     : Vector (BitVec 16) 16
  /-- The NI's uninjected requests of the slot, oldest first (R348). -/
  niq    : List Req
  /-- Requests numbered below this were held at a save: the slot issues nothing while one is uninjected (R348). -/
  heldTo : Nat
  /-- Accesses not yet complete, and fences in force. -/
  accs   : List Acc
  fences : List Fence
  nextSeq : Nat
  /-- Number of the first access of the context now in the slot (model's own). -/
  firstSeq : Nat
  /-- The run number of the context in the slot (model's own). -/
  run    : Nat
  derr   : List PendErr
  perr   : List PendErr
  merr   : List PendErr
  /-- A pre-emption request is pending (event 6 of R327). -/
  stopReq : Bool
  /-- The handler queue that dispatched the handler (R165). -/
  hq     : BitVec 2
  /-- Cycles left in the handler's budget; exhausted when `hout` is set (R184). -/
  hleft  : BitVec 20
  hout   : Bool
  /-- Messages a handler holds until HRET (R181), as header and payload. -/
  held   : List (DWord × List DWord)
  wait   : Option Wait
  entered : Entered
  /-- The word of that instruction, as it was fetched (R79). -/
  ir     : Word
  /-- Remaining tile cycles of a BARW timeout or an ALIGN limit (R192, R198). -/
  timer  : Nat
  /-- The loft lines in the fetch buffer, by line number (R135); two for a pair that spans lines. -/
  lines  : List Nat
  /-- The line asked of the bay's port, and the fabric cycle of the request (R135). -/
  ask    : Option (Nat × Nat)
  /-- A prefixed pair whose prefix word has taken its issue turn: both words (R74, R75). -/
  pre    : Option (Word × Word)
  /-- Tile cycles until an instruction that depends on an item may issue (R112), by item number. -/
  busy   : SMap Nat
deriving DecidableEq, Repr

/-! ### Tile -/

/-- A declared level of the tree: fan-out and binding (Table 6.2). -/
structure Level where
  fan  : BitVec 16
  bind : BitVec 3
deriving DecidableEq, Repr

/-- What the tile holds of the launch placed on it (R115, R118, R163, R190, R225, R295). -/
structure TileLaunch where
  lid    : BitVec 29
  tenant : Nat
  h      : BitVec 3
  hmask  : BitVec 16
  entry  : BitVec 14
  levels : List Level
  gen    : BitVec 12
  gpol   : Bool
  dom    : BitVec 16
  /-- BAL: THROTTLE when set. -/
  bal    : Bool
  /-- Levels that received a barrier plane. -/
  planes : List (BitVec 4)
  /-- Levels that received a combining circuit. -/
  combs  : List (BitVec 4)
  /-- The host joined the launch to more than one module (R130). -/
  fleet  : Bool
  /-- The window base of R201. -/
  base   : Nat
  /-- Whether the tile has a granary circuit (R294). -/
  granary : Bool
deriving DecidableEq, Repr

/-- A PLB entry (Table 11.2). -/
structure Plb where
  base  : BitVec 56
  valid : Bool
  r     : Bool
  w     : Bool
  a     : Bool
  logsz : BitVec 7
  dom   : BitVec 16
deriving DecidableEq, Repr

/-- A rank-table entry (Table 8.4). -/
structure RankEntry where
  valid   : Bool
  transit : Bool
  module  : BitVec 12
  die     : BitVec 4
  x       : BitVec 8
  y       : BitVec 8
  slot    : BitVec 3
  tenant  : BitVec 9
deriving DecidableEq, Repr

/-- A tag-table entry (Table 8.5); PEND is computed from the handler queues. -/
structure TagEntry where
  en   : Bool
  prio : BitVec 3
  q    : BitVec 2
  hpc  : BitVec 14
deriving DecidableEq, Repr

/-- A record of the overflow ring with its OINFO (Table 22.3). -/
structure OvfRec where
  valid : Bool
  seq   : BitVec 16
  q     : BitVec 2
  slot  : BitVec 3
  words : List DWord
deriving DecidableEq, Repr

/-- A permit counter (R354). -/
structure Permit where
  level : BitVec 6
  acc   : BitVec 9
deriving DecidableEq, Repr

/-- The four permit classes. -/
inductive PClass where
  | none | m | v | s | x
deriving DecidableEq, Repr

/-- A plane-array command (R274, R302). For PPACK and PUNPK `cfg` holds imm10[9:5] (R347). -/
inductive PlaneKind where
  | pdot | ppack | punpk
deriving DecidableEq, Repr

structure PlaneCmd where
  kind : PlaneKind
  slot : Nat
  run  : Nat
  cfg  : BitVec 9
  row  : BitVec 3
  ea1  : BitVec 15
  ea2  : BitVec 15
deriving DecidableEq, Repr

/-- A started command with the operand bytes it read, and whether a read word failed its check (R414). -/
structure PlaneRun where
  cmd  : PlaneCmd
  a    : List Byte
  b    : List Byte
  bad  : Option Nat
deriving DecidableEq, Repr

/-- The fault a parked walk stopped at (R223): level, and the VA bits above that level's index. -/
structure Park where
  level  : Nat
  region : Nat
  dom    : BitVec 16
  kind   : BitVec 4
  fgen   : BitVec 16
  /-- A flush arrived since: the walk may be tried again. -/
  retry  : Bool
deriving DecidableEq, Repr

/-- A copy command (Table 16.1) with its issuer and how far it has come. -/
structure Copy where
  slot  : Nat
  run   : Nat
  sup   : Bool
  tenant : Nat
  dom   : BitVec 16
  block : BitVec 15
  dw    : Vector DWord 4
  order : Nat
  pos   : Nat
  park  : Option Park
  /-- Its sequence number on its RDMA connection, once a packet of it has left (R402). -/
  seq   : Option (BitVec 32) := none
deriving DecidableEq, Repr

/-- Local counts of a tile not yet added to the hub counters (R351), by Table 20.7 index. -/
abbrev Counts := List (Nat × Nat)

/-- A tile. Scratchpad bytes lie in the module memory. -/
structure Tile where
  slots  : Vector Slot 8
  /-- Generation tags by granule; 4,095 is void and is the default. -/
  tags   : SMap (BitVec 12)
  cur    : BitVec 12
  /-- The value of the last sweep started, the next granule it visits, and the next value it serves. -/
  sweepVal : BitVec 12
  sweepPos : Nat
  plb    : Vector Plb 16
  ranks  : SMap RankEntry
  tagtab : Vector TagEntry 16
  /-- HOLD of the four handler queues (R329). -/
  hold   : Vector Bool 4
  ring   : Vector OvfRec 8
  oseq   : BitVec 16
  last   : BitVec 3
  ma     : Vector (Vector Word 8) 8
  /-- OWNER of MA (Table 15.3), and whether MAREL is set (R344). -/
  owner  : Option (BitVec 3)
  /-- The run of the context that owns it: another context in the same slot is not the owner (R279). -/
  ownerRun : Nat
  rel    : Bool
  masat  : Bool
  planeQ : List PlaneCmd
  planeRun : List PlaneRun
  copyQ  : List Copy
  copyRun : Option Copy
  pm     : Permit
  pv     : Permit
  ps     : Permit
  px     : Permit
  launch : Option TileLaunch
  /-- Scratchpad doublewords by the state of their code word (R230, R231): uncorrectable, in error but correctable,
  and corrected by a read but not yet written back. -/
  bad    : List Nat
  soft   : List Nat
  corr   : List Nat
  /-- Readings of %CYC at the last 16 corrections in each bank, and uncorrectable addresses met once (R394). -/
  bankErr : SMap (List Nat)
  badSeen : List Nat
  retire : Bool
  counts : Counts
  /-- Natural weight and message-stalled cycles in this stook window; the budgets d and e (R137, R140). -/
  weight : Nat
  stalled : Bool
  hintNew : Bool
  /-- The tile's hint at the last window's end (R144). -/
  lastHint : BitVec 3
  fillD  : Int
  thrE   : Int
  /-- The stook throttles the tile in this tile cycle: its plane array stands still (R139). -/
  frozen : Bool
  /-- The latest of the four places of R235 that an access of this tile cycle has taken; 0 for none but the context's. -/
  port   : Nat
  /-- Tile cycles for which the divider is busy (R113). -/
  div    : Nat
deriving DecidableEq, Repr

/-! ### Bay, die, circuits -/

/-- A class's cap and refill rate (Table 21.4). -/
structure Rate where
  cap  : BitVec 6
  rate : BitVec 9
deriving DecidableEq, Repr

/-- A bay permission entry (Table 8.8). -/
structure Perm where
  valid  : Bool
  module : BitVec 12
  die    : BitVec 4
  first  : BitVec 10
  last   : BitVec 10
deriving DecidableEq, Repr

/-- A bay: %CYC of its tiles, its launch, its stooks' counters, its permission table and rates. -/
structure Bay where
  cyc    : DWord
  launch : Option (BitVec 29)
  imb    : Vector DWord 16
  fill   : Vector DWord 16
  perms  : List Perm
  rm     : Rate
  rv     : Rate
  rs     : Rate
  rx     : Rate
  /-- The CID of the bay's memory circuit, from placement to the launch's leave (R216). -/
  memCid : Option Nat
  /-- The tiles that have taken the tile cycle now under way, and the stooks whose window has been reckoned
  in it: the model's own (assumption 2). -/
  ran    : List Nat
  winDone : BitVec 16
  /-- The fabric cycle in which the bay's port last served, and how many lines (R135). -/
  port   : Nat × Nat
deriving DecidableEq, Repr

/-- BAYMAP (Table 25.2). -/
structure BayMap where
  insrv   : Bool
  transit : Bool
  phys    : BitVec 10
  retold  : Bool
deriving DecidableEq, Repr

/-- LINKSTAT (Table 25.1). -/
structure LinkStat where
  up      : Bool
  present : Bool
  retrain : BitVec 16
  offset  : BitVec 6
  /-- Consecutive failing fabric cycles, in calibration attempts (R390). -/
  failing : Nat
deriving DecidableEq, Repr

/-- PWRCTL (Table 21.3). -/
structure Pwr where
  budget : BitVec 16
  draw   : BitVec 16
  scale  : BitVec 9
  rot    : Bool
  t      : BitVec 7
deriving DecidableEq, Repr

/-- A leaf page-table entry's content (Table 11.4) as cached, with its VA range. -/
structure Leaf where
  base   : Nat
  size   : Nat
  va     : Nat
  stack  : BitVec 4
  prop   : Bool
  repl   : Bool
  ilv    : Bool
  colour : BitVec 6
deriving DecidableEq, Repr

/-- One port of a circuit's path (R146): the port's key (8 · tile + port: 0 injection, 1 north to 4 west, 5 crossing,
6 ejection), the input named in its entry, whether it is a mesh link, and how far the slot advances into it. -/
structure Hop where
  port   : Nat
  input  : BitVec 3
  mesh   : Bool
  adv    : Nat
deriving DecidableEq, Repr

/-- A request to the joiner (Table 9.5). `dst` is the tile of the rank's entry, `dmod` its module. -/
structure JoinReq where
  tile   : Nat
  slot   : Nat
  run    : Nat
  tenant : Nat
  op     : BitVec 2
  chan   : Bool
  cid    : Nat
  slots  : Nat
  dst    : Nat
  dslot  : Nat
  dmod   : Nat
  block  : BitVec 15
deriving DecidableEq, Repr

/-- A joiner's reply on its way: status, CID and base slots held (R200). A reply with a drain is held until the
removed slots are free again (R152). -/
structure JoinReply where
  tile   : Nat
  slot   : Nat
  run    : Nat
  block  : BitVec 15
  status : Nat
  cid    : Nat
  slots  : Nat
  /-- Dies whose joiners have still to write entries (R151). -/
  far    : List Nat
  /-- What the source joiner writes once they have: the circuit's key, its new base slots, and entries of its own die. -/
  key    : Nat
  base   : List Nat
  near   : List (Nat × Word)
deriving DecidableEq, Repr

/-- Work a far joiner has queued: the slot-table keys and entries to write. -/
structure FarWork where
  src   : Nat
  keys  : List (Nat × Word)
deriving DecidableEq, Repr

/-- What waits at a joiner, in its order of arrival (R151, R152). -/
inductive JoinWork where
  | own (r : JoinReq)
  | far (w : FarWork)
deriving DecidableEq, Repr

/-- A compute die. -/
structure Die where
  fc     : Nat
  up     : Bool
  links  : Vector LinkStat 4
  pwr    : Pwr
  baymap : SMap BayMap
  tlb    : List Leaf
  invSeq : Nat
  /-- The joiner's queue, oldest first. -/
  work   : List JoinWork
  replies : List JoinReply
  retired : List Nat
deriving DecidableEq, Repr

/-- What a circuit is for. -/
inductive CircKind where
  | message | channel | memory | granary | combining
deriving DecidableEq, Repr

/-- A circuit: its ends, its base slots, the channel buffer and credits of its ends (R151, R156, R157). -/
structure Circuit where
  kind   : CircKind
  tenant : Nat
  src    : Nat
  sslot  : Nat
  dst    : Nat
  dslot  : Nat
  base   : List Nat
  parked : Bool
  /-- It starts in a pre-empted launch: no context sends on it (R171). -/
  asleep : Bool
  buf    : List DWord
  credits : Nat
  /-- The ports of its path, and of the reverse path. -/
  fwd    : List Hop
  rev    : List Hop
  /-- The pre-empted launches that it sleeps in and is parked for (model's own). -/
  asleepIn : BitVec 29 := 0
  parkedFor : BitVec 29 := 0
deriving DecidableEq, Repr

/-- A nearest-neighbour link seen from one tile and direction (R148, R156, R157):
words that arrived, credits to send, and the slot whose channel is bound to it. -/
structure Link where
  buf     : List DWord
  credits : Nat
  bound   : Option Nat
deriving DecidableEq, Repr

/-- A channel word or a credit under way: to a circuit's end or to a tile's link. -/
inductive WordTo where
  | circuit (die : Nat) (cid : Nat)
  | link (tile : Nat) (dir : BitVec 2)
deriving DecidableEq, Repr

structure ChanWord where
  dst  : WordTo
  word : DWord
  bad  : Bool
deriving DecidableEq, Repr

/-- Removed slots whose remaining entries are cleared from fabric cycle `due` of the die on, h + 2 after the
injection entries (R152), by each die's own joiner; the reply that follows, and the dies still to clear. -/
structure Drain where
  die  : Nat
  due  : Nat
  key  : Nat
  keys : List Nat
  reply : Option JoinReply
deriving DecidableEq, Repr

/-! ### Requests under way -/

/-- Where a request stands after injection. -/
inductive Phase where
  /-- On its circuit. -/
  | wire
  /-- Parked at the entry port by a page fault (R222). -/
  | parked (p : Park)
  /-- Accepted and translated: waiting to be performed at its home (R215). -/
  | home (leaf : Leaf)
  /-- A store to a replicated page: copies still to be written (R220). -/
  | copies (leaf : Leaf) (left : List Nat)
  /-- Sent to the host, which has still to answer (R260). -/
  | host
  /-- A reply under way: the old bytes, whether ACAS matched, and an error with whether it arose before performance. -/
  | reply (val : List Byte) (hit : Bool) (err : Option (BitVec 8)) (early : Bool)
  /-- A store's acknowledgement or error record under way. -/
  | ack (err : Option (BitVec 8))
deriving DecidableEq, Repr

structure Flight where
  req   : Req
  phase : Phase
deriving DecidableEq, Repr

/-- A pull stream (R179, R180). -/
structure Stream where
  tile   : Nat
  slot   : Nat
  run    : Nat
  offTile : Nat
  offSlot : Nat
  /-- The offering tile's rank of the puller, and the puller's rank of the offerer. -/
  pullerRank : BitVec 16
  offRank : BitVec 16
  src    : BitVec 15
  dst    : BitVec 15
  len    : Nat
  block  : BitVec 15
  data   : List Byte
  status : Nat
  /-- The completion has entered the puller's inbox; the notice has been dealt with. -/
  done   : Bool
  noticed : Bool
deriving DecidableEq, Repr

/-- A granary command (R312, R313). -/
structure GranReq where
  load  : Bool
  tile  : Nat
  slot  : Nat
  run   : Nat
  tenant : Nat
  dom   : BitVec 16
  block : BitVec 15
  dw    : Vector DWord 2
  park  : Option Park
deriving DecidableEq, Repr

/-- A bin (Table 16.3). -/
structure Bin where
  tenant : BitVec 9
  tag    : BitVec 12
  type   : Bool
  rows   : BitVec 10
deriving DecidableEq, Repr

/-- A barrier episode of a scope instance (R191), by launch, level and path. -/
structure Episode where
  lid    : BitVec 29
  level  : BitVec 4
  path   : List Nat
  joined : List Nat
deriving DecidableEq, Repr

/-- A wave of a scope instance being combined (R296): contributions by launch index, the partial,
and the tiles of the chain still to fold. -/
structure WaveRun where
  lid    : BitVec 29
  level  : BitVec 4
  path   : List Nat
  num    : Nat
  contribs : List (Nat × BitVec 2 × DWord)
  acc    : Option DWord
  chain  : List Nat
  started : Bool
deriving DecidableEq, Repr

/-! ### Hub -/

/-- States of a launch record (Table 20.2). -/
inductive LState where
  | queued | waiting | ready | placing | running | saving | preempted | done | faulted
deriving DecidableEq, Repr

/-- A thread of a placed launch. -/
structure Thread where
  tile  : Nat
  slot  : Nat
  path  : List Nat
  ended : Bool
deriving DecidableEq, Repr

/-- What a saved slot owes or is owed beyond the words of its image (R348): the requests that the NI held, pending
errors, its queues' reports, its channels' ends and its count of discarded notices. `ix` is the tile's position in the launch's tile order. -/
structure Kept where
  ix    : Nat
  slot  : Nat
  held  : List Req
  derr  : List PendErr
  perr  : List PendErr
  merr  : List PendErr
  rq    : Vector RQueue 4
  ch    : Vector Channel 4
  drop  : BitVec 8
  /-- With slot 0: the tile's mesh links by direction. -/
  links : List (Nat × Link)
  /-- The slot was EMPTY: its thread had ended, or had not started. -/
  fresh : Bool
  /-- An acquire whose request was held, and its word. -/
  entered : Entered
  ir    : Word
  /-- The fences in force: they hold later accesses until the held requests are performed (R243, R248). -/
  fences : List Fence
deriving DecidableEq, Repr

/-- A granger's write to a DONE signal that is parked on a page fault (R338): the queue whose barrier it holds,
and the value, or none for the `AADD` of −1. -/
structure Owed where
  q      : Option Nat
  tenant : Nat
  va     : Nat
  val    : Option DWord
  park   : Option Park
deriving DecidableEq, Repr

/-- A launch record and what the granger keeps of it. -/
structure Launch where
  lid    : BitVec 29
  q      : Nat
  vf     : Nat
  tenant : Nat
  dw     : Vector DWord 8
  st     : LState
  levels : List Level
  threads : List Thread
  bays   : List Nat
  tiles  : List Nat
  released : List Nat
  saved  : List Nat
  /-- A read of a signal, the image, the tree or the arguments is parked (R128, R338). -/
  park   : Option Park
  /-- Wait signals that have been read as zero (R338). -/
  zeros  : BitVec 3
  /-- FILL and tile cycles at the last slice boundary, and the class raised by R358. -/
  fillAt : Nat
  cycAt  : Nat
  classUp : Bool
  /-- Circuits, planes and levels kept for resumption. -/
  planes : List (BitVec 4)
  combs  : List (BitVec 4)
  /-- The header and the code of its image, as the placement loaded them. -/
  hdr    : List Byte
  /-- What a saved slot owes or is owed that the tile image has no place for. -/
  kept   : List Kept
  /-- The domain its contexts run in (R6). -/
  dom    : BitVec 16
  /-- Its placement's rotation (R359): not yet decided, or the bays that are in transit for it. -/
  remap  : Option (List Nat)
deriving DecidableEq, Repr

/-- A tenant as the reeve sets it (R340, R216, R221, R152, R345, R371). Deficit and budget in bay-hub-cycles. -/
structure Tenant where
  weight  : Nat
  budget  : Int
  deficit : DWord
  part    : List Nat
  colours : DWord
  /-- The domain of the launches of a queue, where it is not `dom` (R6). -/
  dom     : BitVec 16
  doms    : SMap (Option (BitVec 16))
  quota   : Nat
  memSlots : Nat
  rights  : List Plb
  save    : VA
  fleet   : List Nat
deriving DecidableEq, Repr

/-- A fault-buffer record (Table 11.5). -/
structure FaultRec where
  va     : DWord
  fgen   : BitVec 16
  tenant : BitVec 9
  level  : BitVec 3
  dom    : BitVec 16
  die    : BitVec 4
  kind   : BitVec 4
  vax    : BitVec 8
deriving DecidableEq, Repr

/-- An invalidation waiting for its acknowledgement (R224): the requests translated before it. -/
structure Inval where
  lo   : Nat
  hi   : Nat
  uids : List Nat
deriving DecidableEq, Repr

/-- A METR request (R369). -/
structure MetrReq where
  tile  : Nat
  slot  : Nat
  run   : Nat
  sup   : Bool
  seq   : Nat
  tenant : Nat
  idx   : Nat
  value : Option DWord
deriving DecidableEq, Repr

/-- A submission sent by LAUNCH (R367): its release conditions are those of access number `seq`. -/
structure HubSub where
  tile  : Nat
  slot  : Nat
  run   : Nat
  seq   : Nat
  q     : Nat
  vf    : Nat
  dw    : Vector DWord 8
  block : BitVec 15
  answer : Option (Option (BitVec 29))
deriving DecidableEq, Repr

/-- SPLSTAT (Table 26.1). -/
structure SplStat where
  up      : Bool
  present : Bool
  realign : BitVec 16
  lat     : BitVec 16
  off     : BitVec 6
deriving DecidableEq, Repr

/-- BOOTSTAT (Table 27.2). -/
structure BootStat where
  stage : BitVec 8
  err   : BitVec 8
  dies  : BitVec 16
  gran  : BitVec 8
  svn   : BitVec 8
deriving DecidableEq, Repr

/-- The device's keys (R407): the 48 bytes of the identity key and of the metering key, and the certificate by which the
first certifies the second. -/
structure DevKeys where
  identity : List Byte
  metering : List Byte
  cert     : List Byte
deriving DecidableEq, Repr

/-- What the attestation responder offers (R409). -/
inductive SpdmAlgorithm where
  | sha256
  /-- SLH-DSA-SHA2-128s under the Stolnel extended asymmetric identifier. -/
  | stolnelSlhDsaSha2_128s
deriving DecidableEq, Repr

/-- A firmware image in the hub's boot flash (Table 27.1): header fields, image and signature. -/
structure Firmware where
  length : Nat
  svn    : BitVec 8
  key    : List Byte
  image  : List Byte
  sig    : List Byte
deriving DecidableEq, Repr

/-- One copy on an RDMA connection as the target has it (R402, R403): the pieces received, by offset and length, and
the flagged write, once it has arrived. -/
structure RdmaCopy where
  seq   : BitVec 32
  total : Nat
  got   : List (Nat × Nat)
  flag  : Option (VA × List Byte)
deriving DecidableEq, Repr

/-- An RDMA connection at the target (R403). -/
structure Conn where
  tenant : Nat
  source : Nat
  last   : BitVec 32
  window : List RdmaCopy
  cached : Bool
deriving DecidableEq, Repr

/-- What the module has sent to the outside: the host, another module, or a verifier. -/
inductive Out where
  | read (value : DWord)
  | bytes (v : List Byte)
  | refused
  | hostStore (vf : Nat) (va : VA) (data : List (Option Byte))
  | hostRequest (vf : Nat) (uid : Nat)
  | message (tile : Nat) (slot : Nat) (words : List DWord)
  | rdma (module : Nat) (tenant : Nat) (va : VA) (seq : BitVec 32) (offset : Nat) (data : List Byte) (total : Nat)
  | rdmaAck (module tenant : Nat) (seq : BitVec 32)
  | spdmVersion
  | spdmCapabilities
  | spdmAlgorithms (offered : List SpdmAlgorithm)
  | spdmDigests (d : List (BitVec 256))
  | spdmCertificate (slot : Nat) (c : List Byte)
  | spdmChallenge (slot : Nat) (sig : List Byte)
  | spdmMeasurements (blocks : List (BitVec 256))
  /-- ERROR with its code: 7 UnsupportedRequest, 1 InvalidRequest. -/
  | spdmError (code : Nat)
  | snapshot (body : List Byte) (sig : List Byte)
deriving DecidableEq, Repr

/-- What happens next, and where (assumption 2): plain data that the step consumes. -/
inductive Turn where
  /-- The tile takes one tile cycle: the tiles of a bay share its clock, one cycle each. -/
  | issue (tile : Nat)
  /-- The event or instruction happens now. -/
  | act (e : Instr)
  /-- Fabric cycles of a die and hub cycles pass. -/
  | time (die : Nat) (fabric : Nat) (hub : Nat)
deriving DecidableEq, Repr

/-- The module. -/
structure State where
  /-- The tile whose turn it is and the slot that issues, the focus of an instruction (assumption 2). -/
  tid    : Nat
  cur    : Fin 8
  /-- The focus tile, and the others by tile number. -/
  tile   : Tile
  others : SMap Tile
  bays   : SMap Bay
  dies   : Vector Die 16
  mem    : Memory
  /-- Slot tables: entries by port key and slot (R147). -/
  slotTab : SMap Word
  circuits : SMap Circuit
  links  : SMap Link
  drains : List Drain
  flights : List Flight
  words  : List ChanWord
  credits : List WordTo
  streams : List Stream
  gran   : List GranReq
  bins   : SMap Bin
  /-- BG by granary die and tenant (R290). -/
  bg     : SMap (BitVec 12)
  episodes : List Episode
  waves  : List WaveRun
  launches : List Launch
  owed   : List Owed
  tenants : SMap Tenant
  /-- The tenant each queue is bound to, and accepted records counted (R336). -/
  queues : SMap (Nat × BitVec 20)
  /-- The queue each virtual function's window is bound to, and its BAR2 base (R336, R396). -/
  vfs    : SMap (Nat × VA)
  meters : SMap DWord
  snapSeq : DWord
  hubCyc : DWord
  slice  : Nat
  ptRoot : Nat × Nat
  fgen   : BitVec 16
  faults : List FaultRec
  heldFaults : List FaultRec
  invals : List Inval
  metr   : List MetrReq
  subs   : List HubSub
  /-- Memory service slot entries by stack and slot (Table 27.3), and the entries that each stack's wheel took up at the
  start of its present revolution (R411). -/
  wheels : SMap (BitVec 10)
  wheelOn : SMap (BitVec 10)
  /-- In this hub cycle: the functions that were reset, and the records that were accepted (R398). -/
  flrs   : List Nat
  newLids : List (BitVec 29)
  boot   : BootStat
  meas   : Vector (BitVec 256) 8
  splines : Vector SplStat 16
  /-- The module's own number and identity, its flash and fuses, and which stacks, dies and granaries train. -/
  modNo  : BitVec 12
  identity : List Byte
  flash  : List Firmware
  fuseKey : BitVec 256
  fuseSvn : BitVec 8
  secret : List Byte
  okStacks : BitVec 16
  okDies : BitVec 16
  okGran : BitVec 8
  /-- The spline ports with a peer that answers, and the keys once the boot has derived them (R407, R408). -/
  okSplines : BitVec 16
  keys : Option DevKeys
  lostMods : List Nat
  /-- The retirement record: die, physical bay retired, and the spare that took its place or 1,023 (R394, R408). -/
  retireRec : List (Nat × Nat × Nat)
  conns  : List Conn
  /-- Sequence numbers of the module's own RDMA copies, by tenant and target module (R402). -/
  rdmaSeq : SMap (BitVec 32)
  /-- Acknowledgements that have arrived for them, by target module and tenant (R403). -/
  rdmaAcks : List (Nat × Nat × BitVec 32)
  /-- HBM doublewords that the HBM's own ECC cannot correct (R231). -/
  badBulk : List Nat
  out    : List Out
  turns  : List Turn
  /-- The last step without a listed turn was a tile cycle in which a context acted (the model's own, assumption 2). -/
  acted  : Bool
  /-- The model's own counters: request numbers, and free values drawn (assumption 3). -/
  uid    : Nat
  free   : Nat
deriving DecidableEq, Repr

/-- Why the model stops with a fault. -/
inductive Fault where
  /-- An event names a tile, slot, bay, die, register or queue that the module does not have (R1).
  Raised by every event's meaning; safe: no such event exists on the hardware. -/
  | noSuchUnit
deriving DecidableEq, Repr

/-- Why the model refuses. -/
inductive Refusal where
  /-- An arm whose meaning has not been written; safe. -/
  | notModelled (mnemonic : String)
  /-- A supervisor access to a device register block that the spec does not describe (R211); safe. -/
  | unknownDevice
deriving DecidableEq, Repr

/-! ### Reset values -/

def Flags.reset : Flags := ⟨0xFF, false, false, false, false⟩
def Ptr.reset : Ptr := ⟨0, 0⟩
def Rpt.reset : Rpt := ⟨0, 0, 0, 0, 0, 0⟩
/-- R27, R28. R27 gives no PC and no return-stack entries of an empty slot: zero (assumption 10). -/
def Bank.reset : Bank :=
  { pc := 0, a := 0, v := Vector.replicate 8 0, p := Vector.replicate 8 Ptr.reset, f := Flags.reset,
    rpt := Rpt.reset, rs := Vector.replicate 4 0, depth := 0, pcfg := 0,
    aPend := false, zPend := false, vPend := false }
def TAddrX.zero : TAddrX := ⟨false, false, 0, 0⟩
def TMsg.reset : TMsg := ⟨0, false, 0⟩
def RQueue.reset : RQueue := ⟨0, 0, 0, false, false, false, 0, false, false, 0, 0, []⟩
def Channel.reset : Channel := ⟨none, none⟩

/-- An empty slot after tile reset (R27); the supervisor bank is zero (R325, assumption 5). -/
def Slot.reset : Slot :=
  { st := .empty, priv := false, halted := false, user := Bank.reset,
    sup := { Bank.reset with f := ⟨0, false, false, false, false⟩ },
    gen := 0xFFF, dom := 0, nb := 0, nm := 0, ne := 0,
    hnd := false, tcause := 0, taddr := 0, taddrx := TAddrX.zero, tpc := 0, tvec := 0x3000,
    tmsg := TMsg.reset, wdogb := 65536, gpol := false, rq := Vector.replicate 4 RQueue.reset,
    ch := Vector.replicate 4 Channel.reset, inbox := [], drop := 0, join := none, pause := 0,
    pauseDue := false, yielded := 0, hint := 0, wave := none, waves := Vector.replicate 16 0, tc := Vector.replicate 16 0,
    niq := [], heldTo := 0, accs := [], fences := [], nextSeq := 0, firstSeq := 0, run := 0, derr := [], perr := [], merr := [],
    stopReq := false, hq := 0, hleft := 0, hout := false, held := [], wait := none,
    entered := .no, ir := 0, timer := 0, lines := [], ask := none, pre := none, busy := [] }

def Plb.reset : Plb := ⟨0, false, false, false, false, 0, 0⟩
def RankEntry.reset : RankEntry := ⟨false, false, 0, 0, 0, 0, 0, 0⟩
def TagEntry.reset : TagEntry := ⟨false, 0, 0, 0⟩
def OvfRec.reset : OvfRec := ⟨false, 0, 0, 0, []⟩
def Permit.reset : Permit := ⟨16, 0⟩

/-- A tile after tile reset (R27, Tables 8.4, 8.5, 11.2, 15.3, 22.3). -/
def Tile.reset : Tile :=
  { slots := Vector.replicate 8 Slot.reset, tags := [], cur := 4094, sweepVal := 0, sweepPos := 1024,
    plb := Vector.replicate 16 Plb.reset, ranks := [], tagtab := Vector.replicate 16 TagEntry.reset,
    hold := Vector.replicate 4 false,
    ring := Vector.replicate 8 OvfRec.reset, oseq := 0, last := 7,
    ma := Vector.replicate 8 (Vector.replicate 8 0), owner := none, ownerRun := 0, rel := false, masat := false,
    planeQ := [], planeRun := [], copyQ := [], copyRun := none,
    pm := Permit.reset, pv := Permit.reset, ps := Permit.reset, px := Permit.reset, launch := none,
    bad := [], soft := [], corr := [], bankErr := [], badSeen := [], retire := false, counts := [],
    weight := 0, stalled := false, hintNew := false, lastHint := 0, fillD := 0, thrE := 0,
    frozen := false, port := 0, div := 0 }

def Rate.reset : Rate := ⟨16, 256⟩
def Bay.reset : Bay :=
  { cyc := 0, launch := none, imb := Vector.replicate 16 0, fill := Vector.replicate 16 0, perms := [],
    rm := Rate.reset, rv := Rate.reset, rs := Rate.reset, rx := Rate.reset, memCid := none,
    ran := [], winDone := 0, port := (0, 0) }

def LinkStat.reset : LinkStat := ⟨false, false, 0, 0, 0⟩
def Pwr.reset : Pwr := ⟨320, 0, 256, true, 12⟩
/-- After die reset (Tables 21.3, 25.1, 25.2); BAYMAP entries default to the identity. -/
def Die.reset : Die :=
  { fc := 0, up := false, links := Vector.replicate 4 LinkStat.reset, pwr := Pwr.reset, baymap := [],
    tlb := [], invSeq := 0, work := [], replies := [], retired := [] }
def SplStat.reset : SplStat := ⟨false, false, 0, 0, 0⟩
def Bin.reset : Bin := ⟨0, 0xFFF, false, 0⟩
def Tenant.reset : Tenant :=
  { weight := 1, budget := 0, deficit := 0, part := [], colours := 0, dom := 0, doms := [], quota := 0,
    memSlots := 16, rights := [], save := 0, fleet := [] }

/-- The module right after hub reset, every die and every tile in reset (R27, R145, R405); the boot steps
have not run. What no rule gives is named in assumptions 4 and 5. -/
def State.reset : State :=
  { tid := 0, cur := 0, tile := Tile.reset, others := [], bays := [], dies := Vector.replicate 16 Die.reset,
    mem := [], slotTab := [], circuits := [], links := [], drains := [], flights := [], words := [],
    credits := [], streams := [], gran := [], bins := [], bg := [], episodes := [], waves := [],
    launches := [], owed := [], tenants := [], queues := [], vfs := [], meters := [], snapSeq := 0, hubCyc := 0,
    slice := 3000000, ptRoot := (0, 0), fgen := 0, faults := [], heldFaults := [], invals := [],
    metr := [], subs := [], wheels := [], wheelOn := [], flrs := [], newLids := [], boot := ⟨0, 0, 0, 0, 0⟩, meas := Vector.replicate 8 0,
    splines := Vector.replicate 16 SplStat.reset, modNo := 0, identity := [], flash := [], fuseKey := 0,
    fuseSvn := 0, secret := [], okStacks := 0xFFFF, okDies := 0xFFFF, okGran := 0xFF, okSplines := 0, keys := none, lostMods := [],
    retireRec := [], conns := [], rdmaSeq := [], rdmaAcks := [], badBulk := [], out := [], turns := [], acted := false, uid := 0, free := 0 }

end Sys2Proof.Machine
end

