-- ==== Sys2Proof/Machine/Ops.lean ====
section
/-! DEFINITION. The named operations that every meaning shares: sparse tables and memory, where things
lie, access to tiles, slots and banks, checked scratchpad access, taking a trap, and completing an instruction. -/

namespace Sys2Proof.Machine

/-! ### Sparse tables and byte memory -/

/-- Read a sparse table; what it does not list reads as `d`. -/
def SMap.get {α : Type} (d : α) : SMap α → Nat → α
  | [], _ => d
  | (a, x) :: r, k => if a = k then x else SMap.get d r k

/-- Write a sparse table, keeping its canonical form. -/
def SMap.set {α : Type} [DecidableEq α] (d : α) : SMap α → Nat → α → SMap α
  | [], k, v => if v = d then [] else [(k, v)]
  | (a, x) :: r, k, v =>
    if k < a then (if v = d then (a, x) :: r else (k, v) :: (a, x) :: r)
    else if a = k then (if v = d then r else (k, v) :: r)
    else (a, x) :: SMap.set d r k v

/-- Keys strictly rise, from above `lo`, and no entry equals the default. -/
def SMap.wfFrom {α : Type} [DecidableEq α] (d : α) : Nat → SMap α → Bool
  | _, [] => true
  | lo, (a, x) :: r => decide (lo ≤ a) && decide (x ≠ d) && SMap.wfFrom d (a + 1) r

/-- The canonical form of memory: what an unlisted address reads as is zero (assumption 1). -/
def Memory.wf (m : Memory) : Bool := SMap.wfFrom (0 : Byte) 0 m

/-- The byte at a physical address. -/
def readByte (m : Memory) (a : Nat) : Byte := SMap.get 0 m a
/-- Store a byte at a physical address. -/
def writeByte (m : Memory) (a : Nat) (b : Byte) : Memory := SMap.set 0 m a b

/-- `n` bytes from an address, lowest address first (R7). -/
def readBytes (m : Memory) : Nat → Nat → List Byte
  | _, 0 => []
  | a, n + 1 => readByte m a :: readBytes m (a + 1) n

/-- Store bytes from an address on. -/
def writeBytes (m : Memory) : Nat → List Byte → Memory
  | _, [] => m
  | a, b :: bs => writeBytes (writeByte m a b) (a + 1) bs

/-- Store the bytes that are present, leaving the others. -/
def writeSome (m : Memory) : Nat → List (Option Byte) → Memory
  | _, [] => m
  | a, none :: bs => writeSome m (a + 1) bs
  | a, some b :: bs => writeSome (writeByte m a b) (a + 1) bs

/-- The number that bytes hold, least significant first (R7). -/
def leNat : List Byte → Nat
  | [] => 0
  | b :: bs => b.toNat + 256 * leNat bs

/-- A doubleword, word or half from bytes. -/
def dwordOf (bs : List Byte) : DWord := BitVec.ofNat 64 (leNat bs)
def wordOf (bs : List Byte) : Word := BitVec.ofNat 32 (leNat bs)
/-- The bytes of a value. -/
def bytesOf {w : Nat} (k : Nat) (x : BitVec w) : List Byte := bytesOfNat k x.toNat

/-! ### Physical addresses (assumption 6): each store has its own range of one address line -/

def spadBase (t : Nat) : Nat := t * 32768
def loftBase (bay : Nat) : Nat := 2 ^ 36 + bay * 65536
def bulkBase (stack : Nat) : Nat := 2 ^ 40 + stack * 2 ^ 36
def binBase (g bin : Nat) : Nat := 2 ^ 37 + (g * 4096 + bin) * 393216

/-! ### Positions (R121, R122, R127) -/

def dieOf (t : Nat) : Nat := t / Config.tilesPerDie
/-- The bay of a tile, counted over the module: 640 · die + logical bay. -/
def bayOf (t : Nat) : Nat := t / 64
def tileX (t : Nat) : Nat := 8 * (t / 64 % Config.baysPerDie % 32) + t % 64 / 8
def tileY (t : Nat) : Nat :=
  8 * (t / 64 % Config.baysPerDie / 32) + 4 * (t % 64 / 4 % 2) + t % 4
/-- The tile of a die at column x and row y. -/
def tileAt (die x y : Nat) : Nat :=
  die * Config.tilesPerDie + 64 * (y / 8 * 32 + x / 8) + 4 * (2 * (x % 8) + y % 8 / 4) + y % 4
/-- The bay column of a bay of the module, and the class of that column (Table 21.1): 1 fast, 2 medium, 3 efficient. -/
def bayColumn (bay : Nat) : Nat := bay % Config.baysPerDie % 32
def columnClass (c : Nat) : Nat :=
  if c < 4 ∨ 28 ≤ c then 1 else if 12 ≤ c ∧ c < 20 then 3 else 2

/-! ### Tiles, slots, banks -/

def State.getTile (s : State) (t : Nat) : Tile :=
  if t = s.tid then s.tile else SMap.get Tile.reset s.others t
def State.setTile (s : State) (t : Nat) (x : Tile) : State :=
  if t = s.tid then { s with tile := x } else { s with others := SMap.set Tile.reset s.others t x }
def State.modTile (s : State) (t : Nat) (f : Tile → Tile) : State := s.setTile t (f (s.getTile t))
/-- Make a tile the focus; nothing of the module changes. -/
def State.focus (s : State) (t : Nat) : State :=
  if t = s.tid then s
  else { s with tid := t, tile := s.getTile t,
                others := SMap.set Tile.reset (SMap.set Tile.reset s.others t Tile.reset) s.tid s.tile }

def Tile.slot (tl : Tile) (k : Nat) : Slot := if h : k < 8 then tl.slots[k] else Slot.reset
def Tile.setSlot (tl : Tile) (k : Nat) (x : Slot) : Tile :=
  if h : k < 8 then { tl with slots := tl.slots.set k x } else tl
def State.slotAt (s : State) (t k : Nat) : Slot := (s.getTile t).slot k
def State.setSlotAt (s : State) (t k : Nat) (x : Slot) : State := s.modTile t (·.setSlot k x)
def State.modSlotAt (s : State) (t k : Nat) (f : Slot → Slot) : State := s.setSlotAt t k (f (s.slotAt t k))

/-- The slot that issues. -/
def State.slot (s : State) : Slot := s.tile.slots[s.cur]
def State.setSlot (s : State) (x : Slot) : State :=
  { s with tile := { s.tile with slots := s.tile.slots.set s.cur x } }
def State.modSlot (s : State) (f : Slot → Slot) : State := s.setSlot (f s.slot)

/-- The bank that the privilege bit selects (R325). -/
def Slot.bank (sl : Slot) : Bank := if sl.priv then sl.sup else sl.user
def Slot.setBank (sl : Slot) (b : Bank) : Slot := if sl.priv then { sl with sup := b } else { sl with user := b }
/-- The bank of the context that issues. -/
def State.bank (s : State) : Bank := s.slot.bank
def State.setBank (s : State) (b : Bank) : State := s.setSlot (s.slot.setBank b)

def State.getBay (s : State) (b : Nat) : Bay := SMap.get Bay.reset s.bays b
def State.setBay (s : State) (b : Nat) (x : Bay) : State := { s with bays := SMap.set Bay.reset s.bays b x }
def State.modBay (s : State) (b : Nat) (f : Bay → Bay) : State := s.setBay b (f (s.getBay b))
def State.getDie (s : State) (d : Nat) : Die := if h : d < 16 then s.dies[d] else Die.reset
def State.setDie (s : State) (d : Nat) (x : Die) : State :=
  if h : d < 16 then { s with dies := s.dies.set d x } else s
def State.modDie (s : State) (d : Nat) (f : Die → Die) : State := s.setDie d (f (s.getDie d))
/-! ### Logical and physical bays, and routers (R127, R394, R395) -/

/-- A BAYMAP entry; its reset value is the identity (Table 25.2). -/
def bayMapDefault (b : Nat) : BayMap := ⟨true, false, BitVec.ofNat 10 b, false⟩
def Die.bayMap (d : Die) (b : Nat) : BayMap := SMap.get (bayMapDefault b) d.baymap b
def Die.setBayMap (d : Die) (b : Nat) (m : BayMap) : Die := { d with baymap := SMap.set (bayMapDefault b) d.baymap b m }

/-- The columns of the spare bays 640 to 643, which lie beyond bay row 19 (R394). -/
def spareColumns : List Nat := [2, 8, 24, 15]
def spareColumn (p : Nat) : Nat := spareColumns.getD (p - 640) 0

/-- Routers are numbered by physical place: as the tiles are in the 640 bays of a die, and from 2^20 on in its spares. -/
def routerOf (die p ix : Nat) : Nat :=
  if p < Config.baysPerDie then die * Config.tilesPerDie + 64 * p + ix else 2 ^ 20 + die * 256 + 64 * (p - 640) + ix
def routerDie (r : Nat) : Nat := if r < 2 ^ 20 then r / Config.tilesPerDie else (r - 2 ^ 20) / 256
/-- The physical bay of a router. -/
def routerBay (r : Nat) : Nat := if r < 2 ^ 20 then r / 64 % Config.baysPerDie else 640 + (r - 2 ^ 20) / 64 % 4
/-- The column and row of a router on its die. -/
def routerX (r : Nat) : Nat :=
  8 * (if routerBay r < 640 then routerBay r % 32 else spareColumn (routerBay r)) + r % 64 / 8
def routerY (r : Nat) : Nat := 8 * (if routerBay r < 640 then routerBay r / 32 else 20) + 4 * (r % 64 / 4 % 2) + r % 4
/-- No router is there. -/
def noRouter : Nat := 2 ^ 21
/-- The router of a die at column x and row y: beyond row 159 only the spares have routers. -/
def routerAt (die x y : Nat) : Nat :=
  if y < 160 then tileAt die x y
  else match spareColumns.findIdx? (· == x / 8) with
  | some k => routerOf die (640 + k) (4 * (2 * (x % 8) + y % 8 / 4) + y % 4)
  | none => noRouter

/-- The router of a tile, in the physical bay that its logical bay stands for. -/
def State.router (s : State) (t : Nat) : Nat :=
  routerOf (dieOf t) ((s.getDie (dieOf t)).bayMap (bayOf t % Config.baysPerDie)).phys.toNat (t % 64)
/-- The tile of a router, where a logical bay stands there. -/
def State.tileOfRouter (s : State) (r : Nat) : Option Nat :=
  let die := routerDie r
  let d := s.getDie die
  let p := routerBay r
  let tile (b : Nat) : Nat := die * Config.tilesPerDie + 64 * b + r % 64
  if r = noRouter then none
  else match d.baymap.find? fun bm => bm.2.phys.toNat == p with
  | some bm => some (tile bm.1)
  | none => if p < 640 ∧ (d.bayMap p).phys.toNat = p then some (tile p) else none

/-- The tile next to another over a mesh link, in direction 0 north to 3 west (R122, R148). -/
def neighbour (s : State) (t : Nat) (d : BitVec 2) : Option Nat :=
  let r := s.router t
  let die := dieOf t; let x := routerX r; let y := routerY r
  match d with
  | 0#2 => if y = 0 then none else s.tileOfRouter (routerAt die x (y - 1))
  | 1#2 => if x = 255 then none else s.tileOfRouter (routerAt die (x + 1) y)
  | 2#2 => if y % 168 = 167 then none else s.tileOfRouter (routerAt die x (y + 1))
  | _ => if x = 0 then none else s.tileOfRouter (routerAt die (x - 1) y)

def State.getTenant (s : State) (t : Nat) : Tenant := SMap.get Tenant.reset s.tenants t
def State.setTenant (s : State) (t : Nat) (x : Tenant) : State :=
  { s with tenants := SMap.set Tenant.reset s.tenants t x }

/-- The tenant of the launch on a tile; 0 where there is none. -/
def Tile.tenant (tl : Tile) : Nat := match tl.launch with | some l => l.tenant | none => 0
/-- The declared levels of the launch on the tile. -/
def Tile.levels (tl : Tile) : List Level := match tl.launch with | some l => l.levels | none => []

/-- The context is a handler's: a handler, or the supervisor after its abort (R326). -/
def Slot.isHandler (sl : Slot) : Bool := sl.st == .handler || (sl.priv && sl.hnd)

/-! ### Pointers and vectors -/

/-- The selector after stagger (R100). -/
def Bank.sel (b : Bank) (f : BitVec 3) : BitVec 3 := if b.rpt.count = 0 then f else f + b.rpt.k * b.rpt.stag
def Bank.ptr (b : Bank) (p : BitVec 3) : Ptr := b.p[p.toNat]'p.isLt
def Bank.setPtr (b : Bank) (p : BitVec 3) (x : Ptr) : Bank := { b with p := b.p.set p.toNat x p.isLt }
/-- A pointer as 32 bits (Table 1.2). -/
def Ptr.toWord (p : Ptr) : Word := p.stride ++ 0#1 ++ p.addr
def Ptr.ofWord (w : Word) : Ptr := ⟨w.extractLsb' 16 16, w.extractLsb' 0 15⟩
/-- Post-increment (R22): ADDR ← (ADDR + sext(STRIDE)) mod 32,768. -/
def Ptr.inc (p : Ptr) : Ptr := { p with addr := p.addr + p.stride.extractLsb' 0 15 }
/-- F as 16 bits (Table 1.3). -/
def Flags.toHalf (f : Flags) : Half :=
  f.m ++ 0#4 ++ BitVec.ofBool f.n ++ BitVec.ofBool f.z ++ BitVec.ofBool f.c ++ BitVec.ofBool f.v
def Flags.ofHalf (h : Half) : Flags :=
  ⟨h.extractLsb' 8 8, h.getLsbD 3, h.getLsbD 2, h.getLsbD 1, h.getLsbD 0⟩
/-- The repeat frame as 48 bits (Table 1.4). -/
def Rpt.toBits (r : Rpt) : BitVec 48 := r.count ++ r.body ++ r.len ++ r.idx ++ r.stag ++ r.k
def Rpt.ofBits (b : BitVec 48) : Rpt :=
  ⟨b.extractLsb' 28 20, b.extractLsb' 14 14, b.extractLsb' 10 4, b.extractLsb' 6 4, b.extractLsb' 3 3,
   b.extractLsb' 0 3⟩
/-- Eight values by lane. -/
def vec8 {α : Type} (f : Fin 8 → α) : Vector α 8 := #v[f 0, f 1, f 2, f 3, f 4, f 5, f 6, f 7]

/-- Advance the pointers used as addresses once each (R84, R251, R299). -/
def Bank.incAll (b : Bank) (i : Bool) : List (BitVec 3) → Bank
  | [] => b
  | p :: ps => if i && !ps.contains p then Bank.incAll (b.setPtr p (b.ptr p).inc) i ps else Bank.incAll b i ps

/-! ### Traps -/

/-- Cause codes (Table 19.6). -/
def causeIllegal : BitVec 8 := 0x01
def causePriv : BitVec 8 := 0x02
def causeAlign : BitVec 8 := 0x03
def causeSpRange : BitVec 8 := 0x04
def causeStale : BitVec 8 := 0x05
def causeGenFuture : BitVec 8 := 0x06
def causeCodeSegment : BitVec 8 := 0x08
def causeRsOverflow : BitVec 8 := 0x09
def causeRsUnderflow : BitVec 8 := 0x0A
def causeProt : BitVec 8 := 0x10
def causePage : BitVec 8 := 0x11
def causeTargetLost : BitVec 8 := 0x12
def causeMsgCheck : BitVec 8 := 0x13
def causeRqOverflow : BitVec 8 := 0x14
def causePermission : BitVec 8 := 0x15
def causeRankInvalid : BitVec 8 := 0x16
def causeLevelMismatch : BitVec 8 := 0x18
def causeLevelRange : BitVec 8 := 0x19
def causeBarrierTimeout : BitVec 8 := 0x1A
def causeWatchdog : BitVec 8 := 0x1B
def causeMaOwned : BitVec 8 := 0x1C
def causeSysc : BitVec 8 := 0x20
def causeTrap : BitVec 8 := 0x21

/-- A trap whose %TADDRX is zero. -/
def mkTrap (cause : BitVec 8) (addr : DWord) : Trap := ⟨cause, addr, TAddrX.zero⟩
/-- A trap raised by a remote or engine address (R212). -/
def vaTrap (cause : BitVec 8) (va : VA) : Trap :=
  ⟨cause, va.extractLsb' 0 64, { TAddrX.zero with vax := va.extractLsb' 64 8 }⟩
/-- `MSG_CHECK` for a scratchpad word (R231, R414). -/
def spCheckTrap (ea : Nat) : Trap := ⟨causeMsgCheck, BitVec.ofNat 64 ea, { TAddrX.zero with spchk := true }⟩

/-- The lowest VA bit that a page-table level indexes (Table 11.3). -/
def levelLow (level : Nat) : Nat := [58, 46, 34, 28, 21, 16].getD level 16

/-- The VA of a record, and its region: the entry that was not present (R223). -/
def FaultRec.vaNat (r : FaultRec) : Nat := (r.vax ++ r.va).toNat
def FaultRec.region (r : FaultRec) : Nat := r.vaNat / 2 ^ levelLow r.level.toNat
/-- Equal in region, domain, kind and FGEN. -/
def FaultRec.same (a b : FaultRec) : Bool :=
  a.level == b.level && a.region == b.region && a.dom == b.dom && a.kind == b.kind && a.fgen == b.fgen
/-- A record of a page fault: KIND 1 to 3. -/
def FaultRec.isPage (r : FaultRec) : Bool := decide (r.kind.toNat < 4)

/-- A record enters the fault buffer, or is held while the buffer is full. A page record older than the buffer's
FGEN, or like one the buffer holds, is discarded (R223). -/
def State.addFault (s : State) (r : FaultRec) : State :=
  if r.isPage && (r.fgen != s.fgen || s.faults.any (·.same r)) then s
  else if s.faults.length < 4096 then { s with faults := s.faults ++ [r] }
  else { s with heldFaults := s.heldFaults ++ [r] }

/-- KIND 14 and 15 records (R326, R366): a code in VA[7:0], a PC in VA[29:16], and the die. -/
def stopRecord (kind : BitVec 4) (code : BitVec 8) (pc : BitVec 14) (t tenant : Nat) (fgen : BitVec 16)
    (dom : BitVec 16) : FaultRec :=
  { va := 0#34 ++ pc ++ 0#8 ++ code, fgen := fgen, tenant := BitVec.ofNat 9 tenant, level := 0,
    dom := dom, die := BitVec.ofNat 4 (dieOf t), kind := kind, vax := 0 }

/-- The first 8 bytes of the record at the head of a slot's queue. -/
def headHeader (s : State) (t : Nat) (q : RQueue) : DWord :=
  dwordOf (readBytes s.mem (spadBase t + q.head.toNat) 8)

/-- The receive queues of slot 7 are the tile's handler queues (R164). -/
def Tile.handlerQueue (tl : Tile) (q : BitVec 2) : RQueue := tl.slots[7].rq[q.toNat]'q.isLt

/-- Record that a scratchpad word failed its check; the second time at one address retires the bay (R394). -/
def Tile.seeBad (tl : Tile) (t : Trap) : Tile :=
  if t.addrx.spchk then
    if t.addr.toNat / 8 ∈ tl.badSeen then { tl with retire := true }
    else { tl with badSeen := t.addr.toNat / 8 :: tl.badSeen }
  else tl

/-- A `PDOT` of the array is unfinished. -/
def Tile.pdotOwed (tl : Tile) : Bool := (tl.planeQ ++ tl.planeRun.map (·.cmd)).any (·.kind == .pdot)

/-- The context now in slot `k` owns MA (R279). -/
def Tile.ownedBy (tl : Tile) (k : Nat) : Bool := tl.owner == some (BitVec.ofNat 3 k) && tl.ownerRun == (tl.slot k).run

/-- The context in slot `k` ends, aborts or releases MA: its ownership ends, once its last `PDOT` has added (R279). -/
def Tile.endOwner (tl : Tile) (k : Nat) : Tile :=
  if tl.ownedBy k then
    if tl.pdotOwed then { tl with rel := true } else { tl with owner := none, rel := false }
  else tl

/-- Abort the handler of the issuing slot (R183): its held messages and the replies it is owed are discarded,
its queue is held, %TMSG names the message, and its ownership of MA ends. -/
def abortHandler (s : State) : State :=
  let sl := s.slot
  let hdr := headHeader s s.tid (s.tile.handlerQueue sl.hq)
  let s1 := s.setSlot
    { sl with held := [], tmsg := { q := sl.hq, hold := true, mid := hdr.extractLsb' 24 16 },
              user := { sl.user with aPend := false, zPend := false, vPend := false } }
  { s1 with tile := { s1.tile.endOwner s.cur with hold := s1.tile.hold.set sl.hq.toNat true sl.hq.isLt } }

/-- Take a trap in the issuing context (R326). In supervisor privilege the slot stops issuing and a KIND 15
record is written; in a handler the abort comes first; otherwise the trap registers are written, privilege
becomes supervisor and the supervisor bank's PC becomes %TVEC. Nothing else changes. -/
def takeTrap (t : Trap) (tpc : BitVec 14) (s : State) : State :=
  let s := { s with tile := s.tile.seeBad t }
  if s.slot.priv then
    (s.setSlot { s.slot with halted := true, entered := .no, wait := none }).addFault
      (stopRecord 15 t.cause s.slot.sup.pc s.tid s.tile.tenant s.fgen s.slot.dom)
  else
    let hnd := s.slot.st == .handler
    let s := if hnd then abortHandler s else s
    let sl := s.slot
    s.setSlot
      { sl with hnd := hnd, tcause := t.cause, taddr := t.addr, taddrx := t.addrx, tpc := tpc,
                priv := true, st := .supervisor, sup := { sl.sup with pc := sl.tvec },
                entered := .no, wait := none }

/-- A trap at the instruction about to complete: %TPC is its PC. -/
def trapHere (t : Trap) (s : State) : State := takeTrap t s.bank.pc s

/-! ### Completing an instruction -/

/-- After the word at `last`: the next word, or CODE_SEGMENT at a segment's end, with the effects standing (R24). -/
def nextAfter (last : BitVec 14) (s : State) : State :=
  if last.extractLsb' 0 12 = 4095 then
    takeTrap (mkTrap causeCodeSegment (BitVec.ofNat 64 (last.toNat + 1))) last s
  else s.setBank { s.bank with pc := last + 1 }

/-- Advance PC past an instruction of one word, or two for a pair, and the repeat frame (R24, R99). -/
def advance (pair : Bool) (s : State) : State :=
  let b := s.bank
  let r := b.rpt
  if r.count = 0 then nextAfter (if pair then b.pc + 1 else b.pc) s
  else
    let pos := if pair then r.idx + 1 else r.idx
    if pos < r.len then
      s.setBank { b with rpt := { r with idx := pos + 1 }, pc := r.body + (pos + 1).zeroExtend 14 }
    else if r.count = 1 then
      nextAfter (r.body + r.len.zeroExtend 14) (s.setBank { b with rpt := Rpt.reset })
    else
      s.setBank { b with rpt := { r with count := r.count - 1, k := r.k + 1, idx := 0 }, pc := r.body }

/-! ### How a meaning ends -/

/-- How an instruction ends when it does not complete: a trap that leaves the state as it stood, a trap after
its effects, a wait before its first effect, a wait after one, or a refusal. -/
inductive Stop where
  | trap (t : Trap)
  | trapAfter (t : Trap) (tpc : BitVec 14) (s : State)
  | wait (w : Wait)
  | waitAfter (w : Wait) (s : State)
  | refuse (r : Refusal)

/-- A meaning's body: the state after the instruction's effects, or how it ended. -/
abbrev Body := Except Stop State

abbrev Result := Host.Outcome State Fault Refusal

/-- Mark why the issuing context waits. -/
def setWait (w : Option Wait) (s : State) : State := s.modSlot fun sl => { sl with wait := w }

/-- Turn a body's end into a step: completion advances PC and the frame unless `jump` says it moved them itself. -/
def finish (s : State) (adv : State → State) : Body → Result
  | .ok s' => .next (adv s')
  | .error (.trap t) => .next (trapHere t s)
  | .error (.trapAfter t tpc s') => .next (takeTrap t tpc s')
  | .error (.wait w) => .next (setWait (some w) s)
  | .error (.waitAfter w s') => .next (setWait (some w) s')
  | .error (.refuse r) => .refused r

/-- Raise a trap. -/
def raise {α : Type} (cause : BitVec 8) (addr : DWord) : Except Stop α := .error (.trap (mkTrap cause addr))
/-- Check a condition, raising a trap where it fails. -/
def check (ok : Bool) (cause : BitVec 8) (addr : DWord) : Except Stop Unit :=
  if ok then .ok () else raise cause addr
/-- Wait unless a condition holds. -/
def await (ok : Bool) (w : Wait) : Except Stop Unit := if ok then .ok () else .error (.wait w)
/-- Lift a trap to a stop. -/
def liftT {α : Type} : Except Trap α → Except Stop α
  | .ok a => .ok a
  | .error t => .error (.trap t)

/-- What of A, F and V an instruction reads or writes, so that it waits for an outstanding reply (R112, R253). -/
structure Uses where
  a : Bool
  f : Bool
  v : Bool
deriving DecidableEq, Repr

def useNone : Uses := ⟨false, false, false⟩
def useA : Uses := ⟨true, false, false⟩
def useF : Uses := ⟨false, true, false⟩
def useAF : Uses := ⟨true, true, false⟩
def useV : Uses := ⟨false, false, true⟩
def useAV : Uses := ⟨true, false, true⟩
def useAll : Uses := ⟨true, true, true⟩

def Bank.free (b : Bank) (u : Uses) : Bool :=
  !(u.a && b.aPend) && !(u.f && b.zPend) && !(u.v && b.vPend)

/-- An acquire of the context is outstanding: no later memory access issues (R242). -/
def Slot.acquiring (sl : Slot) : Bool :=
  match sl.entered with | .acquire _ _ _ d => !d | _ => false

/-- An instruction word: illegal fields trap (R71); an outstanding reply it depends on holds it; then its body. -/
def runWord (i : Instr) (u : Uses) (s : State) (adv : State → State) (body : State → Body) : Result :=
  if i.wf then
    finish s adv (do
      await (s.bank.free u) .pending
      body s)
  else .next (trapHere (mkTrap causeIllegal (s.bank.pc.zeroExtend 64)) s)

/-- The common case: the instruction completes at the next word or body position. -/
def word (i : Instr) (u : Uses) (s : State) (body : State → Body) : Result :=
  runWord i u s (advance false) body

/-- An event: one that names what does not exist stops with a fault; otherwise it happens if it is enabled.
`ok` is the event's well-formedness. -/
def event (ok : Bool) (s : State) (body : State → Option State) : Result :=
  if ok then .next ((body s).getD s) else .fault .noSuchUnit

/-- The tile exists (R1). -/
def tileOk (t : Nat) : Bool := decide (t < tileCount)
/-- A number that no tile of any module has (assumption 99). -/
def noTile : Nat := 4097 * tileCount

/-- The w field (R59): hold until NB, NM or NE is zero. -/
def holdW (w : BitVec 2) (s : State) : Except Stop Unit :=
  await (w = 0 || (w = 1 && s.slot.nb = 0) || (w = 2 && s.slot.nm = 0) || (w = 3 && s.slot.ne = 0)) .counter

/-- The supervisor check of R73, item 4. -/
def needSupervisor (s : State) : Except Stop Unit := check s.slot.priv causePriv 0

/-- The context check (R173): an instruction of threads only. -/
def needThread (s : State) : Except Stop Unit := check (!s.slot.isHandler) causeLevelMismatch 16

/-! ### Fences (R243) -/

/-- An access is complete for an extent: a read has left the list when it has its reply. -/
def Acc.doneFor (a : Acc) (ext : BitVec 3) : Bool := if ext ≤ 5 then a.die else a.mod

/-- A fence in force blocks a later read or write. -/
def Fence.blocks (f : Fence) (accs : List Acc) (read write : Bool) : Bool :=
  accs.any fun a => decide (a.seq < f.seq) &&
    ((a.read && ((f.kinds.getLsbD 0 && read) || (f.kinds.getLsbD 1 && write))) ||
     (a.write && !a.doneFor f.ext && ((f.kinds.getLsbD 2 && read) || (f.kinds.getLsbD 3 && write))))

/-- The accesses of the context now in the slot. -/
def Slot.ownAccs (sl : Slot) : List Acc := sl.accs.filter fun a => decide (sl.firstSeq ≤ a.seq)

/-- A fence with WR and WW whose earlier writes are not yet performed holds a barrier join (R248, assumption 20). -/
def Fence.holdsJoin (f : Fence) (accs : List Acc) : Bool :=
  f.kinds.getLsbD 2 && f.kinds.getLsbD 3 && accs.any fun a => decide (a.seq < f.seq) && a.write && !a.doneFor f.ext
def joinGate (s : State) : Except Stop Unit := await (!s.slot.fences.any (·.holdsJoin s.slot.ownAccs)) .fence

/-- Hold an access of the class until no fence blocks it. Accesses of an earlier context in the slot do not count. -/
def fenceGate (read write : Bool) (s : State) : Except Stop Unit :=
  await (!s.slot.fences.any (·.blocks s.slot.ownAccs read write)) .fence

/-! ### Bytes that plane-array commands have still to read or write (R272, R273, R302, R303) -/

/-- A precision field: planes of A or B. -/
def planesA (cfg : BitVec 9) : Nat := (cfg.extractLsb' 0 3).toNat + 1
def planesB (cfg : BitVec 9) : Nat := (cfg.extractLsb' 4 3).toNat + 1
/-- Dual form: a = b = 1. -/
def planeDual (cfg : BitVec 9) : Bool := planesA cfg == 1 && planesB cfg == 1
/-- Bytes of one A block and of one B column, scale included in block mode (Table 15.2). -/
def blockA (cfg : BitVec 9) : Nat := 8 * planesA cfg + if cfg.getLsbD 8 then 8 else 0
def blockB (cfg : BitVec 9) : Nat := 8 * planesB cfg + if cfg.getLsbD 8 then 8 else 0
/-- PPACK and PUNPK: planes, and bytes of the 64 elements. -/
def packBits (cfg : BitVec 9) : Nat := (cfg.extractLsb' 0 3).toNat + 1
def packElems (cfg : BitVec 9) : Nat := if cfg.getLsbD 4 then 128 else 64

/-- The spans a command reads, as start and length. -/
def PlaneCmd.reads (c : PlaneCmd) : List (Nat × Nat) :=
  match c.kind with
  | .pdot => [(c.ea1.toNat, if planeDual c.cfg then 2 * blockA c.cfg else blockA c.cfg), (c.ea2.toNat, 8 * blockB c.cfg)]
  | .ppack => [(c.ea1.toNat, packElems c.cfg)]
  | .punpk => [(c.ea1.toNat, 8 * packBits c.cfg)]
/-- The span a command writes. -/
def PlaneCmd.writes (c : PlaneCmd) : List (Nat × Nat) :=
  match c.kind with
  | .pdot => []
  | .ppack => [(c.ea2.toNat, 8 * packBits c.cfg)]
  | .punpk => [(c.ea2.toNat, packElems c.cfg)]
/-- Two spans share a byte. -/
def spansMeet (a n : Nat) (sp : Nat × Nat) : Bool := decide (a < sp.1 + sp.2) && decide (sp.1 < a + n)

/-- The issuing context's own access waits for bytes that a command of its own has still to write, and its
store for bytes that a queued one has still to read. -/
def planeGate (write : Bool) (a n : Nat) (s : State) : Except Stop Unit :=
  let own (c : PlaneCmd) : Bool := c.slot == s.cur.val && c.run == s.slot.run
  let queued := s.tile.planeQ.filter own
  let started := (s.tile.planeRun.map (·.cmd)).filter own
  await (!((queued ++ started).any (fun c => c.writes.any (spansMeet a n)) ||
           (write && queued.any (fun c => c.reads.any (spansMeet a n))))) .plane

/-! ### Generations (R25, R225) -/

/-- The successor of a generation: (g + 1) mod 4,095. -/
def nextGen (g : BitVec 12) : BitVec 12 := if g = 4094 then 0 else g + 1

/-- Some slot of the tile holds the generation. -/
def Tile.holds (tl : Tile) (g : BitVec 12) : Bool := tl.slots.toList.any fun sl => sl.gen == g

def Tile.nextFree (tl : Tile) : Nat → BitVec 12 → BitVec 12
  | 0, g => g
  | n + 1, g => if tl.holds g then tl.nextFree n (nextGen g) else g

/-- The tile's next value (R225): the first after CUR that no slot holds. -/
def Tile.nextValue (tl : Tile) : BitVec 12 := tl.nextFree 10 (nextGen tl.cur)
/-- The sweep for a value is complete. -/
def Tile.swept (tl : Tile) (g : BitVec 12) : Bool := tl.sweepVal == g && decide (1024 ≤ tl.sweepPos)
def Tile.tag (tl : Tile) (gran : Nat) : BitVec 12 := SMap.get 0xFFF tl.tags gran
def Tile.setTag (tl : Tile) (gran : Nat) (g : BitVec 12) : Tile :=
  { tl with tags := SMap.set 0xFFF tl.tags gran g }

/-- How a tag stands to a generation (R25). -/
inductive TagClass where
  | own | stale | ahead
deriving DecidableEq, Repr

def Tile.tagClass (tl : Tile) (g : BitVec 12) (gran : Nat) : TagClass :=
  if tl.tag gran = g then .own
  else if tl.tag gran = tl.nextValue ∧ tl.swept tl.nextValue then .ahead
  else .stale

/-! ### Scratchpad access (R21, R25, R231, R414) -/

/-- R21, steps 1 and 2: range, then alignment, of `n` bytes at an exact address. -/
def spAddr (ea : Int) (n align : Nat) : Except Trap Nat :=
  if ea < 0 ∨ 32768 < ea + n then .error (mkTrap causeSpRange (BitVec.ofInt 64 ea))
  else if ea.toNat % align ≠ 0 then .error (mkTrap causeAlign (BitVec.ofInt 64 ea))
  else .ok ea.toNat

/-- Doublewords whose check fails among `n` bytes at `a`. -/
def Tile.badIn (tl : Tile) (a n : Nat) : Option Nat :=
  tl.bad.find? fun d => decide (8 * d < a + n) && decide (a < 8 * d + 8)

/-- The check of a word in error that the code corrects: it awaits its write-back (R231). -/
def Tile.correct (tl : Tile) (p : Nat → Bool) : Tile :=
  { tl with soft := tl.soft.filter (fun d => !p d), corr := tl.corr ++ tl.soft.filter p }
/-- What a read of `n` bytes at `a` corrects on a tile (R231). -/
def State.correctAt (s : State) (t a n : Nat) : State :=
  if (s.getTile t).soft.isEmpty then s
  else s.modTile t (·.correct fun d => decide (8 * d < a + n) && decide (a < 8 * d + 8))

/-- Read `n` bytes of one granule as an access of generation `g` under a policy (Table 1.6). -/
def State.spRead (s : State) (t : Nat) (g : BitVec 12) (strict : Bool) (a n : Nat) : Except Trap (List Byte) :=
  let tl := s.getTile t
  match tl.tagClass g (a / 32) with
  | .own =>
    match tl.badIn a n with
    | some _ => .error (spCheckTrap a)
    | none => .ok (readBytes s.mem (spadBase t + a) n)
  | .stale => if strict then .error (mkTrap causeStale (BitVec.ofNat 64 a)) else .ok (List.replicate n 0)
  | .ahead => .error (mkTrap causeGenFuture (BitVec.ofNat 64 a))

/-- The doublewords that bytes at `a` cover in full. -/
def coveredDwords (a : Nat) (bs : List (Option Byte)) : List Nat :=
  (List.range 4).filterMap fun j =>
    let d := a / 32 * 4 + j
    if a ≤ 8 * d ∧ 8 * d + 8 ≤ a + bs.length ∧ ((bs.drop (8 * d - a)).take 8).all Option.isSome
    then some d else none

/-- The doublewords that bytes at `a` touch. -/
def touchedDwords (a : Nat) (bs : List (Option Byte)) : List Nat :=
  (List.range 4).filterMap fun j =>
    let d := a / 32 * 4 + j
    if (List.range 8).any (fun k => decide (a ≤ 8 * d + k) && ((bs[8 * d + k - a]?).join).isSome)
    then some d else none

/-- Write bytes of one granule as an access of generation `g` (Table 1.6): a stale granule is zero-filled and
stamped in the same step; a partial write corrects the old doubleword before it merges, and into one whose check
fails writes nothing (R230, R414). -/
def State.spWrite (s : State) (t : Nat) (g : BitVec 12) (a : Nat) (bs : List (Option Byte)) : Except Trap State :=
  let tl := s.getTile t
  let gran := a / 32
  match tl.tagClass g gran with
  | .own =>
    let cov := coveredDwords a bs
    if (touchedDwords a bs).any (fun d => tl.bad.contains d && !cov.contains d) then .error (spCheckTrap a)
    else .ok ({ s with mem := writeSome s.mem (spadBase t + a) bs }.modTile t fun tl =>
      { tl with bad := tl.bad.filter fun d => !cov.contains d
                soft := tl.soft.filter fun d => !(touchedDwords a bs).contains d
                corr := tl.corr ++ tl.soft.filter fun d => (touchedDwords a bs).contains d && !cov.contains d })
  | .stale =>
    .ok ({ s with mem := writeSome (writeBytes s.mem (spadBase t + 32 * gran) (List.replicate 32 0))
                    (spadBase t + a) bs }.modTile t fun tl =>
      { tl.setTag gran g with bad := tl.bad.filter fun d => decide (d / 4 ≠ gran)
                              soft := tl.soft.filter fun d => decide (d / 4 ≠ gran) })
  | .ahead => .error (mkTrap causeGenFuture (BitVec.ofNat 64 a))

/-- The issuing context's read of `n` bytes at an exact address (R57, mem), whatever class its instruction has: the
cell, block or payload of a store, message or engine command is no load of its own (R243, assumption 22). -/
def cellRead (s : State) (ea : Int) (n align : Nat) : Except Stop (List Byte) := do
  let a ← liftT (spAddr ea n align)
  planeGate false a n s
  liftT (s.spRead s.tid s.slot.gen s.slot.gpol a n)

/-- The same for a load. -/
def memRead (s : State) (ea : Int) (n align : Nat) : Except Stop (List Byte) := do
  fenceGate true false s
  cellRead s ea n align

/-- The issuing context's write (R57, mem ←), whatever class its instruction has. -/
def cellWrite (s : State) (ea : Int) (align : Nat) (bs : List (Option Byte)) : Except Stop State := do
  let a ← liftT (spAddr ea bs.length align)
  planeGate true a bs.length s
  liftT (s.spWrite s.tid s.slot.gen a bs)

/-- The same for a store. -/
def memWrite (s : State) (ea : Int) (align : Nat) (bs : List (Option Byte)) : Except Stop State := do
  fenceGate false true s
  cellWrite s ea align bs

/-- Bytes of several granules, granule by granule, as reads of generation `g`. -/
def State.spReadSpan (s : State) (t : Nat) (g : BitVec 12) (strict : Bool) : Nat → Nat → Nat → Except Trap (List Byte)
  | 0, _, _ => .ok []
  | _ + 1, _, 0 => .ok []
  | fuel + 1, a, n =>
    let k := min n (32 - a % 32)
    do let x ← s.spRead t g strict a k
       let y ← s.spReadSpan t g strict fuel (a + k) (n - k)
       .ok (x ++ y)

/-- Bytes of several granules, granule by granule, as writes of generation `g`; stops at the first error with
what was written before it. -/
def State.spWriteSpan (s : State) (t : Nat) (g : BitVec 12) : Nat → Nat → List Byte → State × Option Trap
  | 0, _, _ => (s, none)
  | _ + 1, _, [] => (s, none)
  | fuel + 1, a, bs =>
    let k := 32 - a % 32
    match s.spWrite t g a ((bs.take k).map some) with
    | .ok s' => s'.spWriteSpan t g fuel (a + k) (bs.drop k)
    | .error e => (s, some e)

end Sys2Proof.Machine
end

