-- ==== Sys2Proof/Machine/Coding.lean ====
section
/-! DEFINITION. Exponent coding of a copy's data on the legs that cross a circuit (R287 to R289). -/

namespace Sys2Proof.Machine

/-! ### Elements (R287) -/

/-- Bytes of an element: bf16, or FP32. -/
def elemSize (fp32 : Bool) : Nat := if fp32 then 4 else 2
/-- Bits of its fraction: the exponent byte lies above them, and the sign above that. -/
def elemFrac (fp32 : Bool) : Nat := if fp32 then 23 else 7
/-- Bits of its raw part: the sign above the fraction. -/
def rawWidth (fp32 : Bool) : Nat := elemFrac fp32 + 1

/-- The elements of a chunk's bytes. -/
def elemsOf (fp32 : Bool) : Nat → List Byte → List Nat
  | 0, _ => []
  | n + 1, bs => leNat (bs.take (elemSize fp32)) :: elemsOf fp32 n (bs.drop (elemSize fp32))
def elemCount (fp32 : Bool) (bs : List Byte) : Nat := bs.length / elemSize fp32

def expPart (fp32 : Bool) (u : Nat) : Nat := u / 2 ^ elemFrac fp32 % 256
def rawPart (fp32 : Bool) (u : Nat) : Nat :=
  u / 2 ^ (elemFrac fp32 + 8) * 2 ^ elemFrac fp32 + u % 2 ^ elemFrac fp32
/-- The element of an exponent byte and a raw part. -/
def joinParts (fp32 : Bool) (e r : Nat) : Nat :=
  r / 2 ^ elemFrac fp32 * 2 ^ (elemFrac fp32 + 8) + e * 2 ^ elemFrac fp32 + r % 2 ^ elemFrac fp32

/-! ### Canonical codes (R288) -/

/-- Values of one length among the first `e`. -/
def lengthCount (lens : List Nat) (len e : Nat) : Nat := (lens.take e).count len

/-- The first code of a length: (previous code + 1) · 2^(length − previous length), from code 0 on. -/
def firstCode (lens : List Nat) : Nat → Nat
  | 0 => 0
  | 1 => 0
  | l + 1 => (firstCode lens l + lengthCount lens l 256) * 2

def codeLen (lens : List Nat) (e : Nat) : Nat := lens.getD e 0
def codeOf (lens : List Nat) (e : Nat) : Nat := firstCode lens (codeLen lens e) + lengthCount lens (codeLen lens e) e

/-- The bits of a code, most significant first. -/
def codeBits (lens : List Nat) (e : Nat) : List Bool :=
  (List.range (codeLen lens e)).map fun i => (codeOf lens e).testBit (codeLen lens e - 1 - i)
/-- The bits of a raw part, least significant first. -/
def rawBits (fp32 : Bool) (r : Nat) : List Bool := (List.range (rawWidth fp32)).map r.testBit

/-- Lengths that the engine may choose: one for each value that occurs, from 1 to 15, none for the others, and
Σ 2^−length ≤ 1. -/
def lengthsOk (lens exps : List Nat) : Bool :=
  lens.length == 256
    && ((List.range 256).all fun e => if exps.contains e then decide (1 ≤ codeLen lens e ∧ codeLen lens e ≤ 15) else codeLen lens e == 0)
    && decide ((lens.filter (· ≠ 0)).foldl (fun n l => n + 2 ^ (15 - l)) 0 ≤ 2 ^ 15)

/-- The lengths the engine takes (free): where the choice breaks the rule, eight bits for every value. -/
def chosenLengths (exps : List Nat) : List Nat :=
  if lengthsOk (Config.codeLengths exps) exps then Config.codeLengths exps
  else (List.range 256).map fun e => if exps.contains e then 8 else 0

/-! ### Chunks -/

/-- Bits as words: stream bit k is bit k mod 64 of word ⌊k/64⌋. -/
def bitWord : List Bool → Nat
  | [] => 0
  | b :: r => b.toNat + 2 * bitWord r
def bitWords : Nat → List Bool → List DWord
  | 0, _ => []
  | n + 1, bs => BitVec.ofNat 64 (bitWord (bs.take 64)) :: bitWords n (bs.drop 64)
def wordsFor (bits : Nat) : Nat := (bits + 63) / 64
/-- Words as their bits. -/
def wordBits (ws : List DWord) : List Bool := ws.flatMap fun w => (List.range 64).map w.getLsbD

/-- The header word: ESC and the number of elements. -/
def chunkHeader (esc : Bool) (n : Nat) : DWord := BitVec.ofNat 64 (esc.toNat * 2 ^ 63 + n % 8192 * 2 ^ 40)
/-- The length table: sixteen 4-bit lengths a word. -/
def lengthTable (lens : List Nat) : List DWord :=
  (List.range 16).map fun k =>
    BitVec.ofNat 64 ((List.range 16).foldl (fun n j => n + codeLen lens (16 * k + j) % 16 * 2 ^ (4 * j)) 0)

/-- The total code bits of a chunk, and its coded size in words. -/
def codeTotal (lens exps : List Nat) : Nat := exps.foldl (fun n e => n + codeLen lens e) 0
def codedSize (fp32 : Bool) (lens exps : List Nat) : Nat :=
  17 + wordsFor (codeTotal lens exps) + wordsFor (exps.length * rawWidth fp32)

/-- A coded chunk (R288). -/
def codedChunk (fp32 : Bool) (lens us : List Nat) : List DWord :=
  let exps := us.map (expPart fp32)
  let codes := exps.flatMap (codeBits lens)
  let raws := us.flatMap fun u => rawBits fp32 (rawPart fp32 u)
  chunkHeader false us.length :: lengthTable lens ++ bitWords (wordsFor codes.length) codes
    ++ bitWords (wordsFor raws.length) raws

/-- Bytes as words. -/
def byteWords : Nat → List Byte → List DWord
  | 0, _ => []
  | n + 1, bs => dwordOf (bs.take 8) :: byteWords n (bs.drop 8)

/-- What a chunk travels as: coded where that takes at most ⌈L/8⌉ words, else raw behind an escape word (R289). -/
def chunkWords (fp32 : Bool) (bs : List Byte) : List DWord :=
  let us := elemsOf fp32 (elemCount fp32 bs) bs
  let exps := us.map (expPart fp32)
  let lens := chosenLengths exps
  if codedSize fp32 lens exps ≤ (bs.length + 7) / 8 then codedChunk fp32 lens us
  else chunkHeader true us.length :: byteWords ((bs.length + 7) / 8) bs

/-! ### The receiving end -/

/-- The value whose code stands at the head of a stream, and the bits after it. -/
def readCode (lens : List Nat) : Nat → Nat → Nat → List Bool → Option (Nat × List Bool)
  | 0, _, _, _ => none
  | _ + 1, _, _, [] => none
  | fuel + 1, len, code, b :: r =>
    let c := 2 * code + b.toNat
    match (List.range 256).find? fun e => codeLen lens e == len && codeOf lens e == c with
    | some e => some (e, r)
    | none => readCode lens fuel (len + 1) c r

/-- The values of `n` codes in a row. -/
def readCodes (lens : List Nat) : Nat → List Bool → List Nat
  | 0, _ => []
  | n + 1, bs => match readCode lens 15 1 0 bs with
    | some (e, r) => e :: readCodes lens n r
    | none => []

/-- The bytes of a chunk of `len` bytes from its words. -/
def chunkBytes (fp32 : Bool) (len : Nat) (ws : List DWord) : List Byte :=
  let h := ws.getD 0 0
  if h.getLsbD 63 then ((ws.drop 1).flatMap fun w => bytesOf 8 w).take len
  else
    let n := (h.extractLsb' 40 13).toNat
    let lens := (wordBits ((ws.drop 1).take 16))
    let lens := (List.range 256).map fun e => bitWord ((lens.drop (4 * e)).take 4)
    let exps := readCodes lens n (wordBits (ws.drop 17))
    let raws := wordBits (ws.drop (17 + wordsFor (codeTotal lens exps)))
    ((List.range n).flatMap fun i =>
      bytesOfNat (elemSize fp32)
        (joinParts fp32 (exps.getD i 0) (bitWord ((raws.drop (rawWidth fp32 * i)).take (rawWidth fp32))))).take len

end Sys2Proof.Machine
end

