-- ==== Sys2Proof/Machine/Flags.lean ====
section
/-! DEFINITION. Flag computations: integer arithmetic (R85, R86, R87), results (R88), comparisons (R92, R103)
and the branch conditions (Table 4.6). -/

namespace Sys2Proof.Machine

/-- Set N and Z from a 64-bit result, keeping C and V. -/
def Flags.nz (f : Flags) (r : DWord) : Flags := { f with n := r.getLsbD 63, z := r == 0 }
def Flags.setC (f : Flags) (c : Bool) : Flags := { f with c := c }
def Flags.setV (f : Flags) (v : Bool) : Flags := { f with v := v }
def Flags.setZ (f : Flags) (z : Bool) : Flags := { f with z := z }

/-- An exact integer leaves the range of int64. -/
def ovf64 (x : Int) : Bool := decide (x < -9223372036854775808) || decide (9223372036854775807 < x)

/-- A sum with carry in (R86): result, C and V. -/
def addWith (a x : DWord) (b : Bool) : DWord × Bool × Bool :=
  let s := a.toNat + x.toNat + b.toNat
  (BitVec.ofNat 64 s, decide (2 ^ 64 ≤ s), ovf64 (a.toInt + x.toInt + b.toNat))

/-- A difference with borrow in (R86): result, C (not-borrow) and V. -/
def subWith (a x : DWord) (b : Bool) : DWord × Bool × Bool :=
  let s : Int := a.toNat - x.toNat - b.toNat
  (BitVec.ofInt 64 s, decide (0 ≤ s), ovf64 (a.toInt - x.toInt - b.toNat))

/-- A logical or selecting member's result: N and Z from it. -/
def nzResult (r : DWord) (f : Flags) : DWord × Flags := (r, f.nz r)
/-- An adding or subtracting member's result: all four flags from it. -/
def nzcvResult (t : DWord × Bool × Bool) (f : Flags) : DWord × Flags :=
  (t.1, ((f.nz t.1).setC t.2.1).setV t.2.2)

end Sys2Proof.Machine

namespace Sys2Proof
open Sys2Proof.Machine

/-- Which operand extension a member takes (Table 5.3): sign when true. -/
def AluFn.signed : AluFn → Bool
  | .and | .or | .xor | .andn | .minu | .maxu | .mulhu => false
  | .add | .sub | .adc | .sbc | .min | .max | .mul | .mulh | .cmp => true

/-- Table 5.3: the new A and flags of a member on A, the extended operand and the flags. -/
def AluFn.result (fn : AluFn) (a x : DWord) (f : Flags) : DWord × Flags :=
  match fn with
  | .add => nzcvResult (addWith a x false) f
  | .sub => nzcvResult (subWith a x false) f
  | .adc => nzcvResult (addWith a x f.c) f
  | .sbc => nzcvResult (subWith a x !f.c) f
  | .and => nzResult (a &&& x) f
  | .or => nzResult (a ||| x) f
  | .xor => nzResult (a ^^^ x) f
  | .andn => nzResult (a &&& ~~~x) f
  | .min => nzResult (if a.toInt ≤ x.toInt then a else x) f
  | .max => nzResult (if a.toInt ≤ x.toInt then x else a) f
  | .minu => nzResult (if a.toNat ≤ x.toNat then a else x) f
  | .maxu => nzResult (if a.toNat ≤ x.toNat then x else a) f
  | .mul =>
    let r := BitVec.ofInt 64 (a.toInt * x.toInt)
    (r, (f.nz r).setV (ovf64 (a.toInt * x.toInt)))
  | .mulh => nzResult (BitVec.ofInt 64 (a.toInt * x.toInt / 2 ^ 64)) f
  | .mulhu => nzResult (BitVec.ofNat 64 (a.toNat * x.toNat / 2 ^ 64)) f
  | .cmp => (a, (nzcvResult (subWith a x false) f).2)

end Sys2Proof

namespace Sys2Proof.Machine

/-- The four divisions (R87). -/
inductive DivFn where
  | div | divu | rem | remu
deriving DecidableEq, Repr

def DivFn.signed : DivFn → Bool
  | .div | .rem => true
  | .divu | .remu => false

/-- R87: quotient, remainder and V. -/
def divide (signed : Bool) (a x : DWord) : DWord × DWord × Bool :=
  if x = 0 then (0xFFFFFFFFFFFFFFFF, a, true)
  else if signed then
    if a.toInt = -9223372036854775808 ∧ x.toInt = -1 then (0x8000000000000000, 0, true)
    else (BitVec.ofInt 64 (a.toInt.tdiv x.toInt), BitVec.ofInt 64 (a.toInt.tmod x.toInt), false)
  else (BitVec.ofNat 64 (a.toNat / x.toNat), BitVec.ofNat 64 (a.toNat % x.toNat), false)

/-- The new A and flags of a division: N and Z from A, V as R87 gives, C kept. -/
def DivFn.result (fn : DivFn) (a x : DWord) (f : Flags) : DWord × Flags :=
  let (q, rm, v) := divide fn.signed a x
  let r := match fn with | .div | .divu => q | .rem | .remu => rm
  (r, (f.nz r).setV v)

/-- `PCMP` (Table 5.6): the flags of ADDR − u. -/
def pcmpFlags (addr : BitVec 15) (u : BitVec 16) (f : Flags) : Flags :=
  { f with n := decide (addr.toNat < u.toNat), z := addr.toNat == u.toNat,
           c := decide (u.toNat ≤ addr.toNat), v := false }

/-- The outcome of a floating-point comparison. -/
inductive FRel where
  | less | equal | greater | unordered
deriving DecidableEq, Repr

/-- `FCMP` (Table 5.10). -/
def fcmpFlags (r : FRel) (f : Flags) : Flags :=
  match r with
  | .less => { f with n := true, z := false, c := false, v := false }
  | .equal => { f with n := false, z := true, c := true, v := false }
  | .greater => { f with n := false, z := false, c := true, v := false }
  | .unordered => { f with n := false, z := false, c := false, v := true }

/-- Branch conditions (Table 4.6). -/
def Flags.holds (f : Flags) (c : BitVec 4) : Bool :=
  match c with
  | 0#4 => true
  | 1#4 => false
  | 2#4 => f.z
  | 3#4 => !f.z
  | 4#4 => f.n != f.v
  | 5#4 => f.n == f.v
  | 6#4 => !f.c
  | 7#4 => f.c
  | 8#4 => !f.z && f.n == f.v
  | 9#4 => f.z || f.n != f.v
  | 10#4 => f.c && !f.z
  | 11#4 => !f.c || f.z
  | 12#4 => f.n
  | 13#4 => !f.n
  | 14#4 => f.v
  | _ => !f.v

end Sys2Proof.Machine
end

