-- ==== Sys2Proof/Machine/Float.lean ====
section
/-! DEFINITION. Floating point (R40 to R56, R104): formats, exact values, rounding, the correctly rounded
operations, conversions, and the special functions within their bounds. -/

namespace Sys2Proof.Machine

/-- A format of Table 3.1. `maxMag` is the largest finite encoding without sign; `ovf` what overflow gives. -/
structure Fmt where
  width  : Nat
  frac   : Nat
  bias   : Nat
  maxMag : Nat
  ovf   : Nat
  /-- Infinity and NaN at the largest exponent (FP32, FP16, bf16, E5M2). -/
  ieee   : Bool
  /-- The canonical NaN; E2M1 has none and takes +0 (R48). -/
  nan    : Nat
deriving DecidableEq, Repr

def fp32 : Fmt := ⟨32, 23, 127, 0x7F7FFFFF, 0x7F800000, true, 0x7FC00000⟩
def fp16 : Fmt := ⟨16, 10, 15, 0x7BFF, 0x7C00, true, 0x7E00⟩
def bf16 : Fmt := ⟨16, 7, 127, 0x7F7F, 0x7F80, true, 0x7FC0⟩
def e4m3 : Fmt := ⟨8, 3, 7, 0x7E, 0x7F, false, 0x7F⟩
def e5m2 : Fmt := ⟨8, 2, 15, 0x7B, 0x7C, true, 0x7F⟩
def e2m1 : Fmt := ⟨4, 1, 1, 0x7, 0x7, false, 0⟩

/-- An exact value: NaN, an infinity, or (−1)^neg · m · 2^e with a signed zero. -/
inductive FVal where
  | nan
  | inf (neg : Bool)
  | fin (neg : Bool) (m : Nat) (e : Int)
deriving DecidableEq, Repr

/-- The value of an encoding (R42). -/
def Fmt.decode (f : Fmt) (x : Nat) : FVal :=
  let neg := decide (2 ^ (f.width - 1) ≤ x % 2 ^ f.width)
  let mag := x % 2 ^ (f.width - 1)
  if f.ieee && f.ovf < mag then .nan
  else if f.ieee && mag == f.ovf then .inf neg
  else if f.width == 8 && !f.ieee && mag == 0x7F then .nan
  else
    let e := mag / 2 ^ f.frac
    let fr := mag % 2 ^ f.frac
    if e = 0 then .fin neg fr (1 - f.bias - f.frac)
    else .fin neg (2 ^ f.frac + fr) ((e : Int) - f.bias - f.frac)

def Fmt.signBit (f : Fmt) (neg : Bool) : Nat := if neg then 2 ^ (f.width - 1) else 0

/-- Round m · 2^e to a multiple of 2^q in a mode (Table 3.2); the multiple. -/
def roundAt (mode : Nat) (neg : Bool) (m : Nat) (e q : Int) : Nat :=
  if q ≤ e then m * 2 ^ (e - q).toNat
  else
    let sh := (q - e).toNat
    let n := m / 2 ^ sh
    let r := m % 2 ^ sh
    let up := match mode with
      | 0 => decide (2 ^ sh < 2 * r) || (2 * r == 2 ^ sh && n % 2 == 1)
      | 1 => false
      | 2 => !neg && r != 0
      | _ => neg && r != 0
    if up then n + 1 else n

/-- The exponent of the spacing at which m · 2^e rounds in a format (R46, step 1). -/
def Fmt.quantum (f : Fmt) (m : Nat) (e : Int) : Int :=
  max ((Nat.log2 m : Int) + e - f.frac) (1 - f.bias - f.frac)

/-- Round a finite value to a format (R46): the encoding. -/
def Fmt.round (f : Fmt) (mode : Nat) (neg : Bool) (m : Nat) (e : Int) : Nat :=
  if m = 0 then f.signBit neg
  else
    let q := f.quantum m e
    let n := roundAt mode neg m e q
    -- the exponent field counted so that a carry out of the fraction raises it, and subnormals have none
    let mag := (q + f.frac + f.bias - 1).toNat * 2 ^ f.frac + n
    if mag ≤ f.maxMag then f.signBit neg + mag
    else if mode = 1 ∨ (mode = 2 ∧ neg) ∨ (mode = 3 ∧ !neg) then f.signBit neg + f.maxMag
    else if f.width = 8 ∧ !f.ieee then f.nan
    else f.signBit neg + f.ovf

/-- Clamp to the largest finite value (R57, sat). -/
def Fmt.sat (f : Fmt) : FVal → FVal
  | .nan => .nan
  | .inf neg => match f.decode f.maxMag with | .fin _ m e => .fin neg m e | v => v
  | .fin neg m e =>
    match f.decode f.maxMag with
    | .fin _ mm me =>
      let lo := min e me
      if mm * 2 ^ (me - lo).toNat < m * 2 ^ (e - lo).toNat then .fin neg mm me else .fin neg m e
    | v => v

/-- rne(fmt, x, m): the encoding of an exact value (R46, R48, R57). Conversion into E2M1 saturates. -/
def Fmt.encode (f : Fmt) (mode : Nat) (v : FVal) : Nat :=
  match (if f.width = 4 then f.sat v else v) with
  | .nan => f.nan
  | .inf neg => if f.ieee then f.signBit neg + f.ovf else f.nan
  | .fin neg m e => f.round mode neg m e

/-! ### Exact arithmetic -/

def FVal.neg : FVal → FVal
  | .nan => .nan
  | .inf s => .inf (!s)
  | .fin s m e => .fin (!s) m e

/-- The integer that a finite value is in units of 2^lo. -/
def scaled (neg : Bool) (m : Nat) (e lo : Int) : Int :=
  (if neg then -1 else 1) * (m * 2 ^ (e - lo).toNat : Nat)

/-- Exact sum, with R46's sign of an exact zero. -/
def FVal.add : FVal → FVal → FVal
  | .nan, _ => .nan
  | .inf _, .nan => .nan
  | .inf s, .inf t => if s = t then .inf s else .nan
  | .inf s, .fin _ _ _ => .inf s
  | .fin _ _ _, .nan => .nan
  | .fin _ _ _, .inf t => .inf t
  | .fin s m e, .fin t n f =>
    let lo := min e f
    let r := scaled s m e lo + scaled t n f lo
    if r = 0 then .fin (s && t) 0 0 else .fin (decide (r < 0)) r.natAbs lo

/-- Exact product. -/
def FVal.mul : FVal → FVal → FVal
  | .fin s m e, .fin t n f => .fin (s != t) (m * n) (e + f)
  | .inf s, .inf t => .inf (s != t)
  | .inf s, .fin t n _ => if n = 0 then .nan else .inf (s != t)
  | .fin s m _, .inf t => if m = 0 then .nan else .inf (s != t)
  | .nan, _ => .nan
  | _, .nan => .nan

/-- Quotient to 64 bits beyond the operands' own, with a last bit that is set when it is inexact:
it rounds in every format here as the exact quotient does. -/
def FVal.div : FVal → FVal → FVal
  | .nan, _ => .nan
  | _, .nan => .nan
  | .inf _, .inf _ => .nan
  | .inf s, .fin t _ _ => .inf (s != t)
  | .fin s _ _, .inf t => .fin (s != t) 0 0
  | .fin s m e, .fin t n f =>
    if n = 0 then (if m = 0 then .nan else .inf (s != t))
    else
      let k := 64 + Nat.log2 n
      let q := m * 2 ^ k / n
      .fin (s != t) (2 * q + if q * n = m * 2 ^ k then 0 else 1) (e - f - k - 1)

/-- The integer square root, bit by bit. -/
def isqrtFrom (n : Nat) : Nat → Nat → Nat
  | 0, r => r
  | b + 1, r => isqrtFrom n b (if (r + 2 ^ b) * (r + 2 ^ b) ≤ n then r + 2 ^ b else r)
def isqrt (n : Nat) : Nat := isqrtFrom n (Nat.log2 n / 2 + 1) 0

/-- Square root to 64 bits beyond the operand's own, with the same last bit. -/
def FVal.sqrt : FVal → FVal
  | .nan => .nan
  | .inf s => if s then .nan else .inf false
  | .fin s m e =>
    if m = 0 then .fin s 0 0
    else if s then .nan
    else
      let m' := if e % 2 = 0 then m else 2 * m
      let e' := if e % 2 = 0 then e else e - 1
      let r := isqrt (m' * 2 ^ 128)
      .fin false (2 * r + if r * r = m' * 2 ^ 128 then 0 else 1) (e' / 2 - 65)

/-- The order of two values; −0 equals +0 (R43). -/
def FVal.rel : FVal → FVal → FRel
  | .nan, _ => .unordered
  | _, .nan => .unordered
  | .inf s, .inf t => if s = t then .equal else if s then .less else .greater
  | .inf s, .fin _ _ _ => if s then .less else .greater
  | .fin _ _ _, .inf t => if t then .greater else .less
  | .fin s m e, .fin t n f =>
    let lo := min e f
    let a := scaled s m e lo
    let b := scaled t n f lo
    if a < b then .less else if a = b then .equal else .greater

def FVal.isNeg : FVal → Bool
  | .nan => false
  | .inf s => s
  | .fin s _ _ => s

/-- Minimum and maximum on encodings (R47): −0 below +0, a NaN gives way to the other operand. -/
def Fmt.minMax (f : Fmt) (max : Bool) (a b : Nat) : Nat :=
  let va := f.decode a; let vb := f.decode b
  match va, vb with
  | .nan, .nan => f.nan
  | .nan, _ => b
  | _, .nan => a
  | _, _ =>
    let aFirst := match va.rel vb with
      | .less => true
      | .greater => false
      | _ => va.isNeg || !vb.isNeg
    if aFirst != max then a else b

/-! ### The operations of R47 on encodings -/

def Fmt.fadd (f : Fmt) (a x : Nat) : Nat := f.encode 0 ((f.decode a).add (f.decode x))
def Fmt.fsub (f : Fmt) (a x : Nat) : Nat := f.encode 0 ((f.decode a).add (f.decode x).neg)
def Fmt.fmul (f : Fmt) (a x : Nat) : Nat := f.encode 0 ((f.decode a).mul (f.decode x))
/-- a + x · y, one rounding. -/
def Fmt.fma (f : Fmt) (a x y : Nat) : Nat := f.encode 0 ((f.decode a).add ((f.decode x).mul (f.decode y)))
def Fmt.fdiv (f : Fmt) (a x : Nat) : Nat := f.encode 0 ((f.decode a).div (f.decode x))
def Fmt.fsqrt (f : Fmt) (a : Nat) : Nat := f.encode 0 (f.decode a).sqrt
def Fmt.frel (f : Fmt) (a x : Nat) : FRel := (f.decode a).rel (f.decode x)

/-! ### Conversions (R104) -/

/-- A type of Table 5.12: a format, or an integer of `w` bits. -/
inductive CType where
  | float (f : Fmt)
  | int (w : Nat)
  | word (w : Nat)
deriving DecidableEq, Repr

/-- Table 5.12; the reserved codes do not decode (R71). -/
def ctypeOf (c : BitVec 4) : CType :=
  match c with
  | 1#4 => .float fp16
  | 2#4 => .float bf16
  | 3#4 => .float e4m3
  | 4#4 => .float e5m2
  | 5#4 => .float e2m1
  | 8#4 => .int 8
  | 9#4 => .int 16
  | 10#4 => .int 32
  | 11#4 => .int 64
  | 12#4 => .word 8
  | 13#4 => .word 16
  | 14#4 => .word 32
  | 15#4 => .word 64
  | _ => .float fp32

/-- The value of the low bits of `x` in a type. -/
def CType.value (t : CType) (x : Nat) : FVal :=
  match t with
  | .float f => f.decode (x % 2 ^ f.width)
  | .word w => .fin false (x % 2 ^ w) 0
  | .int w =>
    let v := x % 2 ^ w
    if 2 ^ (w - 1) ≤ v then .fin true (2 ^ w - v) 0 else .fin false v 0

/-- Clamp an integer. -/
def clampInt (lo hi x : Int) : Int := if x < lo then lo else if hi < x then hi else x

/-- A value rounded to an integer in a mode and saturated (R49). -/
def toIntType (signed : Bool) (w mode : Nat) (v : FVal) : Int :=
  let lo : Int := if signed then -(2 ^ (w - 1)) else 0
  let hi : Int := if signed then 2 ^ (w - 1) - 1 else 2 ^ w - 1
  match v with
  | .nan => 0
  | .inf s => if s then lo else hi
  | .fin s m e =>
    let n : Int := roundAt mode s m e 0
    clampInt lo hi (if s then -n else n)

/-- R104: the destination's 64 bits, from the selector and the source bits. -/
def convert (cfn : BitVec 12) (x : Nat) : DWord :=
  let mode := (cfn.extractLsb' 10 2).toNat
  let v := (ctypeOf (cfn.extractLsb' 1 4)).value x
  match ctypeOf (cfn.extractLsb' 5 4) with
  | .float f => BitVec.ofNat 64 (f.encode mode (if cfn.getLsbD 9 then f.sat v else v))
  | .int w => BitVec.ofInt 64 (toIntType true w mode v)
  | .word w => BitVec.ofInt 64 (toIntType false w mode v)

/-! ### Special functions (R55, R56) -/

/-- One in fixed point: 160 bits stand below the point. -/
def fixOne : Nat := 2 ^ 160

/-- Bounds in fixed point on t^(1/2), from bounds on t. -/
def rootBounds (r : Nat × Nat) : Nat × Nat := (isqrt (r.1 * fixOne), isqrt (r.2 * fixOne) + 1)
/-- Bounds in fixed point on a product, from bounds on its factors. -/
def mulBounds (p r : Nat × Nat) : Nat × Nat := (p.1 * r.1 / fixOne, p.2 * r.2 / fixOne + 1)
/-- Bounds on p · t^(f / 2^n) for the low `n` bits of `f`, from bounds `p` and `r` on p and on t: each bit set multiplies by
the root that it stands for. -/
def powBounds (f : Nat) : Nat → Nat × Nat → Nat × Nat → Nat × Nat
  | 0, _, p => p
  | n + 1, r, p => powBounds f n (rootBounds r) (if f.testBit n then mulBounds p (rootBounds r) else p)
/-- Bounds in fixed point on 2^(f / 2^149), for f below 2^149. -/
def exp2Bounds (f : Nat) : Nat × Nat := powBounds f 149 (2 * fixOne, 2 * fixOne) (fixOne, fixOne)

/-- A lower bound on 2^n · log2 t, from a lower bound in fixed point on t from 1 to 2: each squaring yields a bit. -/
def logBelow : Nat → Nat → Nat
  | 0, _ => 0
  | n + 1, x =>
    let y := x * x / fixOne
    if 2 * fixOne ≤ y then 2 ^ n + logBelow n (y / 2) else logBelow n y
/-- An upper bound on 2^n · log2 t, from an upper bound on t from 1 to 2. -/
def logAbove : Nat → Nat → Nat
  | 0, _ => 1
  | n + 1, x =>
    let y := x * x / fixOne + 1
    if 2 * fixOne < y then 2 ^ n + logAbove n (min (y / 2 + 1) (2 * fixOne)) else logAbove n y
/-- Bounds on 2^100 · log2 (m / 2^k), for m from 2^k to 2^(k+1). -/
def log2Bounds (m k : Nat) : Nat × Nat :=
  (logBelow 100 (m * fixOne / 2 ^ k), logAbove 100 (min (m * fixOne / 2 ^ k + 1) (2 * fixOne)))

/-- FP32 encodings, non-negative and finite, that lie within `c` ulp of every positive y from lo · 2^sc to
(lo + err) · 2^sc (R55, assumption 90). -/
def within (c lo err : Nat) (sc : Int) : List Nat :=
  let q : Int := max ((Nat.log2 lo : Int) + sc) (-126)
  -- candidates at half an ulp, the spacing just below a power of two
  let g : Int := q - 24
  let n0 := if sc ≤ g then lo / 2 ^ (g - sc).toNat else lo * 2 ^ (sc - g).toNat
  (List.range (4 * c + 2)).filterMap fun j =>
    if n0 + j < 2 * c then none
    else
      let n := n0 + j - 2 * c
      let r := fp32.round 1 false n g
      let base := min sc g
      let nn := n * 2 ^ (g - base).toNat
      let cu := 2 * c * 2 ^ (g - base).toNat
      let l := lo * 2 ^ (sc - base).toNat
      let h := (lo + err) * 2 ^ (sc - base).toNat
      match fp32.decode r with
      | .fin _ m e =>
        if scaled false m e (min e g) = scaled false n g (min e g) ∧ nn ≤ l + cu ∧ h ≤ nn + cu then some r else none
      | _ => none

/-- The device's choice among the values within the bound: a free value, fixed for the input (R55). -/
def pickWithin (fn : Config.SpecialFn) (x : Word) (cs : List Nat) : Nat :=
  match cs[Config.specialPick fn x % cs.length]? with
  | some r => r
  | none => 0

/-- A number that is a power of two: its exponent. -/
def powTwo (m : Nat) : Option Nat := if m = 2 ^ Nat.log2 m then some (Nat.log2 m) else none

/-- `VFRCP` of a lane. -/
def vfrcp (x : Word) : Nat :=
  match fp32.decode x.toNat with
  | .nan => fp32.nan
  | .inf s => fp32.signBit s
  | .fin s m e =>
    if m = 0 then fp32.signBit s + fp32.ovf
    -- |1/x| ≥ 2^128
    else if e + 128 ≤ 0 ∧ m ≤ 2 ^ (-(e + 128)).toNat then fp32.signBit s + fp32.ovf
    else match powTwo m with
      | some k => fp32.round 0 s 1 (-(e + k))
      | none => fp32.signBit s + pickWithin .rcp x (within 1 (2 ^ 200 / m) 1 (-(e + 200)))

/-- `VFRSQ` of a lane. -/
def vfrsq (x : Word) : Nat :=
  match fp32.decode x.toNat with
  | .nan => fp32.nan
  | .inf s => if s then fp32.nan else 0
  | .fin s m e =>
    if m = 0 then fp32.signBit s + fp32.ovf
    else if s then fp32.nan
    else
      let m' := if e % 2 = 0 then m else 2 * m
      let e' := if e % 2 = 0 then e else e - 1
      match powTwo m' with
      | some k =>
        if k % 2 = 0 then fp32.round 0 false 1 (-(e' / 2 + (k / 2 : Nat)))
        else pickWithin .rsq x (within 1 (isqrt (2 ^ 400 / m')) 2 (-(e' / 2 + 200)))
      | none => pickWithin .rsq x (within 1 (isqrt (2 ^ 400 / m')) 2 (-(e' / 2 + 200)))

/-- `VFEXP` of a lane: 2^x. -/
def vfexp (x32 : Word) : Nat :=
  match fp32.decode x32.toNat with
  | .nan => fp32.nan
  | .inf s => if s then 0 else fp32.ovf
  | .fin s m e =>
    if m = 0 then 0x3F800000
    else
      -- every FP32 is a multiple of 2^−149: its floor and its fraction in those units
      let x := scaled s m e (-149)
      let k := x / (2 ^ 149 : Nat)
      let f := (x % (2 ^ 149 : Nat)).toNat
      if 128 ≤ k then fp32.ovf
      else if k < -150 then 0
      else if f = 0 ∧ -149 ≤ k then fp32.round 0 false 1 k
      else
        let y := exp2Bounds f
        pickWithin .exp x32 (within 2 y.1 (y.2 - y.1) (k - 160))

/-- `VFLOG` of a lane: log2 x; of 1.0 it is +0 (assumption 106). -/
def vflog (x : Word) : Nat :=
  match fp32.decode x.toNat with
  | .nan => fp32.nan
  | .inf s => if s then fp32.nan else fp32.ovf
  | .fin s m e =>
    if m = 0 then fp32.signBit true + fp32.ovf
    else if s then fp32.nan
    else
      let k := Nat.log2 m
      let whole : Int := e + k
      match powTwo m with
      | some _ => fp32.round 0 (decide (whole < 0)) whole.natAbs 0
      | none =>
        let y := log2Bounds m k
        let lo : Int := whole * 2 ^ 100 + y.1
        let hi : Int := whole * 2 ^ 100 + y.2
        if 0 ≤ lo then pickWithin .log x (within 2 lo.toNat (y.2 - y.1) (-100))
        else fp32.signBit true + pickWithin .log x (within 2 hi.natAbs (y.2 - y.1) (-100))

end Sys2Proof.Machine
end

