-- ==== Sys2Proof/Machine/Operands.lean ====
section
/-! DEFINITION. Operand forms: scratchpad and channel sources (R80, R81), immediates (R61), declared levels
and their extents (R129, R130, R239), ranks and circuits (R161, R181, R201), and the NI's requests (R174, R348). -/

namespace Sys2Proof
open Sys2Proof.Machine

/-! ### Effective addresses -/

/-- ea = ADDR + d, exact (R21), with the pointer after stagger. -/
def SOp.ea (o : SOp) (b : Bank) : Int := (b.ptr (b.sel o.p)).addr.toNat + o.d.toInt
/-- The first operand of the split form: d = sext(d9, 9) (R59). -/
def SOp.eaSplit (o : SOp) (b : Bank) : Int :=
  (b.ptr (b.sel o.p)).addr.toNat + (o.d.extractLsb' 0 9).toInt
/-- q, the second pointer of the split form. -/
def SOp.q (o : SOp) : BitVec 3 := o.d.extractLsb' 9 3
def SOp.ea2 (o : SOp) (b : Bank) : Int := (b.ptr (b.sel o.q)).addr.toNat
/-- The first operand of an E-format word (R66). -/
def EOp.ea (o : EOp) (b : Bank) : Int := (b.ptr (b.sel o.pa)).addr.toNat + o.imm.toInt
def EOp.ea2 (o : EOp) (b : Bank) : Int := (b.ptr (b.sel o.pb)).addr.toNat
/-- The pointer that imm12[10:8] of a C-format word names (R172): not staggered. -/
def COp.p (o : COp) : BitVec 3 := o.imm.extractLsb' 8 3
def COp.addr (o : COp) (b : Bank) : Nat := (b.ptr o.p).addr.toNat

/-- The immediate of an I-format word with no prefix (Table 4.4). -/
def IOp.imm64 (o : IOp) : DWord :=
  (if o.mod.getLsbD 0 then o.imm.zeroExtend 64 else o.imm.signExtend 64) <<< (16 * o.sh.toNat)
def IOp.ptrSel (o : IOp) : BitVec 3 := o.mod.extractLsb' 0 3

end Sys2Proof

namespace Sys2Proof.Machine

/-! ### Channels (R156 to R158, R186 to R189) -/

def Circuit.none : Circuit := ⟨.message, 0, 0, 0, 0, 0, [], false, false, [], 0, [], [], 0, 0⟩
def Link.reset : Link := ⟨[], 8, .none⟩
def circuitKey (die cid : Nat) : Nat := die * 4096 + cid
def State.circuit (s : State) (key : Nat) : Circuit := SMap.get Circuit.none s.circuits key
def State.setCircuit (s : State) (key : Nat) (c : Circuit) : State :=
  { s with circuits := SMap.set Circuit.none s.circuits key c }
def State.link (s : State) (t : Nat) (d : BitVec 2) : Link := SMap.get Link.reset s.links (t * 4 + d.toNat)
def State.setLink (s : State) (t : Nat) (d : BitVec 2) (l : Link) : State :=
  { s with links := SMap.set Link.reset s.links (t * 4 + d.toNat) l }
/-- The circuit exists: it holds base slots. -/
def Circuit.live (c : Circuit) : Bool := !c.base.isEmpty

/-- The words waiting at a channel end of a tile. -/
def State.chanBuf (s : State) (t : Nat) : ChanEnd → List DWord
  | .circuit die cid => (s.circuit (circuitKey die cid)).buf
  | .link d => (s.link t d).buf

/-- The credits that a channel end of a tile holds for sending. -/
def State.chanCredits (s : State) (t : Nat) : ChanEnd → Nat
  | .circuit die cid => (s.circuit (circuitKey die cid)).credits
  | .link d => (s.link t d).credits

def unboundTrap (n : BitVec 2) : Trap := mkTrap causeRankInvalid (BitVec.ofNat 64 (0x11000 + n.toNat))

def Slot.chan (sl : Slot) (n : BitVec 2) : Channel := sl.ch[n.toNat]'n.isLt

/-- The read side of channel `n`, or RANK_INVALID where it is unbound (R188). -/
def readSide (s : State) (n : BitVec 2) : Except Stop ChanEnd :=
  match (s.slot.chan n).r with
  | some e => .ok e
  | none => .error (.trap (unboundTrap n))

/-- The write side of channel `n` (R188). -/
def writeSide (s : State) (n : BitVec 2) : Except Stop ChanEnd :=
  match (s.slot.chan n).w with
  | some e => .ok e
  | none => .error (.trap (unboundTrap n))

/-- The head word of channel `n`, waiting while there is none (R80). -/
def chanHead (s : State) (n : BitVec 2) : Except Stop DWord := do
  let e ← readSide s n
  match s.chanBuf s.tid e with
  | w :: _ => .ok w
  | [] => .error (.wait .channel)

/-- Take the head word from a channel end and send its credit back (R157, R158). -/
def State.consumeAt (s : State) (t : Nat) (e : ChanEnd) : State :=
  match e with
  | .circuit die cid =>
    let c := s.circuit (circuitKey die cid)
    { s.setCircuit (circuitKey die cid) { c with buf := c.buf.tail } with
      credits := s.credits ++ [.circuit die cid] }
  | .link d =>
    let l := s.link t d
    let s' := s.setLink t d { l with buf := l.buf.tail }
    match neighbour s t d with
    | some u => { s' with credits := s.credits ++ [.link u (d + 2)] }
    | none => s'

/-- Consume the head word of channel `n` of the issuing slot. -/
def consume (s : State) (n : BitVec 2) : State :=
  match (s.slot.chan n).r with
  | some e => s.consumeAt s.tid e
  | none => s

/-! ### Scalar sources (Table 5.1) -/

/-- Bytes of an operand size code: 1, 2, 4 or 8. -/
def sizeOf2 (sz : BitVec 2) : Nat := 2 ^ sz.toNat

/-- The first source operand of `n` bytes, as the low bits of a doubleword (Table 5.1). -/
def srcRead (o : SOp) (ea : Int) (n : Nat) (s : State) : Except Stop DWord :=
  if o.src = 0 then do
    let bs ← memRead s ea n n
    .ok (dwordOf bs)
  else do
    let w ← chanHead s (o.p.extractLsb' 0 2)
    .ok (w &&& BitVec.ofNat 64 (2 ^ (8 * n) - 1))

/-- Step 5 of R84: advance the pointers used, and consume a src = 1 word. -/
def srcDone (o : SOp) (split : Bool) (s : State) : State :=
  let b := s.bank
  let used := (if o.src = 0 then [b.sel o.p] else []) ++ (if split then [b.sel o.q] else [])
  let s := s.setBank (b.incAll o.i used)
  if o.src = 1 then consume s (o.p.extractLsb' 0 2) else s

/-- The low `n` bytes of a doubleword extended to 64 bits. -/
def sextN (n : Nat) (x : DWord) : DWord :=
  match n with
  | 1 => (x.extractLsb' 0 8).signExtend 64
  | 2 => (x.extractLsb' 0 16).signExtend 64
  | 4 => (x.extractLsb' 0 32).signExtend 64
  | _ => x
def zextN (n : Nat) (x : DWord) : DWord :=
  match n with
  | 1 => (x.extractLsb' 0 8).zeroExtend 64
  | 2 => (x.extractLsb' 0 16).zeroExtend 64
  | 4 => (x.extractLsb' 0 32).zeroExtend 64
  | _ => x
def extN (signed : Bool) (n : Nat) (x : DWord) : DWord := if signed then sextN n x else zextN n x

/-! ### Immediates (Table 4.4) -/

/-- sext(imm26 · 2^16 + imm16, 42). -/
def pairImm (hi : BitVec 26) (lo : BitVec 16) : DWord := (hi ++ lo).signExtend 64

/-! ### Vector sources (Table 5.2) -/

/-- Bytes an element type reads: 32, 16, 8 or 4. -/
def vecBytes (et : BitVec 2) : Nat := match et with | 0#2 => 32 | 1#2 => 16 | 2#2 => 8 | _ => 4
/-- Bytes of one element. -/
def elemBytes (et : BitVec 2) : Nat := match et with | 0#2 => 4 | 1#2 => 2 | 2#2 => 1 | _ => 4

/-- Element `i` of the bytes read, as its stored bits in a word. -/
def elemBits (et : BitVec 2) (bs : List Byte) (i : Nat) : Word :=
  match et with
  | 3#2 => wordOf (bs.take 4)
  | _ => wordOf ((bs.drop (i * elemBytes et)).take (elemBytes et))

/-- The integer lane of Table 5.2. -/
def intLane (et : BitVec 2) (x : Word) : Word :=
  match et with
  | 1#2 => (x.extractLsb' 0 16).signExtend 32
  | 2#2 => (x.extractLsb' 0 8).signExtend 32
  | _ => x

/-- Read the bytes of a vector operand (R82): range and alignment on the whole access, the granule only when
some enabled lane is read; `all` reads every lane's element whatever M holds. -/
def vecMem (et : BitVec 2) (ea : Int) (all : Bool) (s : State) : Except Stop (List Byte) :=
  let n := vecBytes et
  if s.bank.f.m = 0 && !all then do
    let _ ← liftT (spAddr ea n n)
    .ok (List.replicate n 0)
  else if all || et = 3 || s.bank.f.m = 0xFF then memRead s ea n n
  else do
    fenceGate true false s
    let a ← liftT (spAddr ea n n)
    planeGate false a n s
    let tl := s.tile
    match tl.tagClass s.slot.gen (a / 32) with
    | .own =>
      let k := elemBytes et
      match (List.range 8).find? fun i => s.bank.f.m.getLsbD i && (tl.badIn (a + k * i) k).isSome with
      | some _ => .error (.trap (spCheckTrap a))
      | none => .ok (readBytes s.mem (spadBase s.tid + a) n)
    | _ => liftT (s.spRead s.tid s.slot.gen s.slot.gpol a n)

/-- The stored bits of the eight lanes of the first operand of a vector instruction (Tables 5.1, 5.2). -/
def vecSrc (o : SOp) (ea : Int) (all : Bool) (s : State) : Except Stop (Vector Word 8) :=
  if o.src = 0 then do
    let bs ← vecMem o.sz ea all s
    .ok (vec8 fun i => elemBits o.sz bs i)
  else do
    let w ← chanHead s (o.p.extractLsb' 0 2)
    .ok (vec8 fun i => if o.sz = 3 then w.extractLsb' 0 32 else (w.extractLsb' (8 * i) 8).zeroExtend 32)

/-- Write the lanes that M enables (R16). -/
def maskLanes (m : BitVec 8) (old new : Vector Word 8) : Vector Word 8 :=
  vec8 fun i => if m.getLsbD i then new[i] else old[i]

/-! ### Levels (R118, R129, R130, R239) -/

/-- The binding of level `k`; 15 where it is not declared. -/
def bindAt (ls : List Level) (k : Nat) : Nat := match ls[k]? with | some l => l.bind.toNat | none => 15
def fanAt (ls : List Level) (k : Nat) : Nat := match ls[k]? with | some l => l.fan.toNat | none => 0

/-- The binding of the nearest shallower group, if any. -/
def shallower (ls : List Level) (b : Nat) : Nat → Option Nat
  | 0 => none
  | k + 1 => if bindAt ls k = b then shallower ls b k else some (bindAt ls k)

/-- The extent of level `k` as a physical level number (R130). -/
def extentOf (ls : List Level) (fleet : Bool) (k : Nat) : Nat :=
  let b := bindAt ls k
  if b = 0 then 1
  else if bindAt ls (k + 1) ≠ b then b
  else match shallower ls b k with
    | some e => e
    | none => if b = 7 ∧ fleet then 7 else 6

def Tile.extent (tl : Tile) (k : BitVec 4) : Nat :=
  extentOf tl.levels (match tl.launch with | some l => l.fleet | none => false) k.toNat

/-- The level checks (R64, R129, R130): LEVEL_RANGE, a handler's thread- or lane-bound level, and the limit. -/
def levelCheck (k : BitVec 4) (limit : Nat) (s : State) : Except Stop Unit := do
  let ls := s.tile.levels
  check (k.toNat < ls.length) causeLevelRange (k.zeroExtend 64)
  check (!(s.slot.isHandler && bindAt ls k.toNat ≤ 1)) causeLevelMismatch (k.zeroExtend 64)
  check (s.tile.extent k ≤ limit) causeLevelMismatch (k.zeroExtend 64)

/-- The extent of an ordering form (R239): no limit. -/
def ordExtent (k : BitVec 4) (s : State) : Except Stop (BitVec 3) := do
  levelCheck k 7 s
  .ok (BitVec.ofNat 3 (s.tile.extent k))

/-! ### The tree (R119, R124, R129, R201) -/

/-- The product of fan-outs over the non-lane levels from `k` on. -/
def fanProduct (ls : List Level) : Nat :=
  ls.foldl (fun n l => if l.bind = 0 then n else n * l.fan.toNat) 1
/-- The coordinates of levels not bound to lanes, as a mixed-radix number with the root most significant. -/
def radix (ls : List Level) (cs : List Nat) : Nat :=
  (ls.zip cs).foldl (fun n lc => if lc.1.bind = 0 then n else n * lc.1.fan.toNat + lc.2) 0
def Slot.coords (sl : Slot) : List Nat := sl.tc.toList.map BitVec.toNat
/-- The launch index of a slot's thread (R201). -/
def Tile.launchIndex (tl : Tile) (k : Nat) : Nat := radix tl.levels (tl.slot k).coords
/-- The slot whose thread a context acts as: a handler acts as slot 0 (R202). -/
def State.asThread (s : State) : Nat := if s.slot.isHandler then 0 else s.cur
def Tile.rankBase (tl : Tile) : Nat := match tl.launch with | some l => l.base | none => 0
/-- The rank of the issuing context's thread in its own tile's table. -/
def ownRank (s : State) : Int := (s.tile.launchIndex s.asThread : Int) - s.tile.rankBase

/-! ### Ranks and circuits (R161, R181) -/

def Tile.rank (tl : Tile) (r : Nat) : RankEntry := SMap.get RankEntry.reset tl.ranks r
def RankEntry.toDWord (e : RankEntry) : DWord :=
  BitVec.ofBool e.valid ++ BitVec.ofBool e.transit ++ 0#10 ++ e.module ++ e.die ++ e.x ++ e.y ++ e.slot ++ 0#8
    ++ e.tenant
def RankEntry.ofDWord (w : DWord) : RankEntry :=
  ⟨w.getLsbD 63, w.getLsbD 62, w.extractLsb' 40 12, w.extractLsb' 36 4, w.extractLsb' 28 8, w.extractLsb' 20 8,
   w.extractLsb' 17 3, w.extractLsb' 0 9⟩
/-- The tile an entry names; tiles of another module follow the module's own (assumption 7). A row beyond 159 names none
(assumption 99). -/
def RankEntry.tileNo (e : RankEntry) (own : BitVec 12) : Nat :=
  if 160 ≤ e.y.toNat then noTile
  else tileAt e.die.toNat e.x.toNat e.y.toNat + if e.module = own then 0 else (e.module.toNat + 1) * tileCount

/-- The message circuit of a slot to a tile. -/
def State.findCircuit (s : State) (t slot dst : Nat) : Option Nat :=
  (s.circuits.find? fun kc =>
    kc.2.kind == .message && kc.2.src == t && kc.2.sslot == slot && kc.2.dst == dst && kc.2.live && !kc.2.asleep).map (·.1)

/-- The rank checks of R161, and the circuit to the rank's tile: the entry and the route.
`alone` and `noCirc` are the %TADDR of the two failures (R173, R252). -/
def rankRoute (r : Nat) (alone noCirc : DWord) (s : State) : Except Stop (RankEntry × Route) :=
  let e := s.tile.rank r
  if 4096 ≤ r ∨ !e.valid ∨ e.tenant.toNat ≠ s.tile.tenant then raise causeRankInvalid alone
  else match s.findCircuit s.tid s.asThread (e.tileNo s.modNo) with
    | none => raise causeRankInvalid noCirc
    | some key => .ok (e, .tile (key / 4096) (key % 4096) (e.tileNo s.modNo) e.slot.toNat)

/-- The %TADDR of a failed rank check (R173, item 5): the rank, with bit 16 when only the circuit is missing. -/
def rankAddr (r : Nat) (noCirc : Bool) : DWord := BitVec.ofNat 64 (r + if noCirc then 65536 else 0)

/-- The launch of a given id. -/
def State.findLaunch (s : State) (lid : BitVec 29) : Option Launch := s.launches.find? fun l => l.lid == lid
def Tile.lid (tl : Tile) : BitVec 29 := match tl.launch with | some l => l.lid | none => 0
/-- The virtual function through which the record of a tile's launch entered (R398). -/
def tileVf (s : State) (t : Nat) : Nat := match s.findLaunch (s.getTile t).lid with | some l => l.vf | none => 0

/-! ### The NI's requests (R174, R348) -/

/-- The context's accesses, with one more. -/
def Slot.addAcc (sl : Slot) (read write : Bool) : Slot :=
  { sl with accs := sl.accs ++ [⟨sl.nextSeq, read, write, false, false⟩], nextSeq := sl.nextSeq + 1 }

/-- A request of the issuing context. -/
def mkReq (s : State) (va : VA) (op : ReqOp) (route : Route) (rel acq : Option (BitVec 3)) (rank : Nat) : Req :=
  { uid := s.uid, tile := s.tid, slot := s.cur, run := s.slot.run, sup := s.slot.priv, seq := s.slot.nextSeq,
    tenant := s.tile.tenant, dom := s.slot.dom, pc := s.bank.pc, va := va, op := op, route := route,
    rel := rel, acq := acq, rank := rank, bad := false, vf := tileVf s s.tid }

/-- A pull request is no message, store, load or atomic. -/
def Req.isPull (r : Req) : Bool := match r.op with | .pull _ _ _ _ => true | _ => false

/-- The NI holds fewer than eight uninjected requests of the slot (R348). -/
def Slot.niOpen (sl : Slot) : Bool := decide ((sl.niq.filter (!·.isPull)).length < 8)
/-- Wait for room at the NI: a message, which is a message wait (R203), or a remote access. -/
def niRoom (s : State) : Except Stop Unit := await s.slot.niOpen .ni
def niRoomRemote (s : State) : Except Stop Unit := await s.slot.niOpen .niRemote

/-- Hand a request to the NI and list it among the context's accesses. -/
def niPush (s : State) (va : VA) (op : ReqOp) (route : Route) (rel acq : Option (BitVec 3)) (rank : Nat)
    (read write : Bool) : State :=
  let r := mkReq s va op route rel acq rank
  { s.modSlot fun sl => { sl.addAcc read write with niq := sl.niq ++ [r] } with uid := s.uid + 1 }

/-- Hand the NI a request that is not one of the context's accesses: a pull request. -/
def niPlain (s : State) (op : ReqOp) (route : Route) (rank : Nat) : State :=
  let r := mkReq s 0 op route none none rank
  { s.modSlot fun sl => { sl with nextSeq := sl.nextSeq + 1, niq := sl.niq ++ [r] } with uid := s.uid + 1 }

/-- A counter at 65,535 holds the operation that would raise it (R238). -/
def counterRoom (c : BitVec 16) : Except Stop Unit := await (c ≠ 0xFFFF) .count

end Sys2Proof.Machine
end

