-- ==== Sys2Proof/Machine/Integer.lean ====
section
/-! DEFINITION. IALU, IALUI, IDIV and BITS (R85 to R88). -/

namespace Sys2Proof.Machine

/-- Write A and F of the issuing bank. -/
def setAF (s : State) (r : DWord × Flags) : State := s.setBank { s.bank with a := r.1, f := r.2 }

/-- An IALU member (R84, R85): fetch the operand, extend it, write A and flags, advance the pointer or consume the word. -/
def aluBody (fn : AluFn) (o : SOp) (s : State) : Body := do
  holdW o.w s
  let x ← srcRead o (o.ea s.bank) (sizeOf2 o.sz) s
  .ok (srcDone o false (setAF s (fn.result s.bank.a (extN fn.signed (sizeOf2 o.sz) x) s.bank.f)))

/-- An IALUI member (R85): the operand is the immediate. -/
def aluImmBody (fn : AluFn) (x : DWord) (s : State) : Body :=
  .ok (setAF s (fn.result s.bank.a x s.bank.f))

/-- An IDIV member (R87). -/
def divBody (fn : DivFn) (o : SOp) (s : State) : Body := do
  holdW o.w s
  let x ← srcRead o (o.ea s.bank) (sizeOf2 o.sz) s
  .ok (srcDone o false (setAF s (fn.result s.bank.a (extN fn.signed (sizeOf2 o.sz) x) s.bank.f)))

/-- A BITS member (R88): A becomes a function of A, with N and Z from the result. -/
def bitsBody (g : DWord → DWord) (s : State) : Body :=
  let r := g s.bank.a
  .ok (setAF s (r, s.bank.f.nz r))

/-- `ADD` with a scratchpad or channel operand (Table 5.3). -/
def execAdd (o : SOp) (s : State) : Result := word (.add o) useAF s (aluBody .add o)
/-- `SUB` with a scratchpad or channel operand (Table 5.3). -/
def execSub (o : SOp) (s : State) : Result := word (.sub o) useAF s (aluBody .sub o)
/-- `ADC` with a scratchpad or channel operand (Table 5.3). -/
def execAdc (o : SOp) (s : State) : Result := word (.adc o) useAF s (aluBody .adc o)
/-- `SBC` with a scratchpad or channel operand (Table 5.3). -/
def execSbc (o : SOp) (s : State) : Result := word (.sbc o) useAF s (aluBody .sbc o)
/-- `AND` with a scratchpad or channel operand (Table 5.3). -/
def execAnd (o : SOp) (s : State) : Result := word (.and o) useAF s (aluBody .and o)
/-- `OR` with a scratchpad or channel operand (Table 5.3). -/
def execOr (o : SOp) (s : State) : Result := word (.or o) useAF s (aluBody .or o)
/-- `XOR` with a scratchpad or channel operand (Table 5.3). -/
def execXor (o : SOp) (s : State) : Result := word (.xor o) useAF s (aluBody .xor o)
/-- `ANDN` with a scratchpad or channel operand (Table 5.3). -/
def execAndn (o : SOp) (s : State) : Result := word (.andn o) useAF s (aluBody .andn o)
/-- `MIN` with a scratchpad or channel operand (Table 5.3). -/
def execMin (o : SOp) (s : State) : Result := word (.min o) useAF s (aluBody .min o)
/-- `MAX` with a scratchpad or channel operand (Table 5.3). -/
def execMax (o : SOp) (s : State) : Result := word (.max o) useAF s (aluBody .max o)
/-- `MINU` with a scratchpad or channel operand (Table 5.3). -/
def execMinu (o : SOp) (s : State) : Result := word (.minu o) useAF s (aluBody .minu o)
/-- `MAXU` with a scratchpad or channel operand (Table 5.3). -/
def execMaxu (o : SOp) (s : State) : Result := word (.maxu o) useAF s (aluBody .maxu o)
/-- `MUL` with a scratchpad or channel operand (Table 5.3). -/
def execMul (o : SOp) (s : State) : Result := word (.mul o) useAF s (aluBody .mul o)
/-- `MULH` with a scratchpad or channel operand (Table 5.3). -/
def execMulh (o : SOp) (s : State) : Result := word (.mulh o) useAF s (aluBody .mulh o)
/-- `MULHU` with a scratchpad or channel operand (Table 5.3). -/
def execMulhu (o : SOp) (s : State) : Result := word (.mulhu o) useAF s (aluBody .mulhu o)
/-- `CMP` with a scratchpad or channel operand (Table 5.3). -/
def execCmp (o : SOp) (s : State) : Result := word (.cmp o) useAF s (aluBody .cmp o)
/-- `ADD` with an immediate (Table 5.3). -/
def execAddImm (o : IOp) (s : State) : Result := word (.addImm o) useAF s (aluImmBody .add o.imm64)
/-- `SUB` with an immediate (Table 5.3). -/
def execSubImm (o : IOp) (s : State) : Result := word (.subImm o) useAF s (aluImmBody .sub o.imm64)
/-- `ADC` with an immediate (Table 5.3). -/
def execAdcImm (o : IOp) (s : State) : Result := word (.adcImm o) useAF s (aluImmBody .adc o.imm64)
/-- `SBC` with an immediate (Table 5.3). -/
def execSbcImm (o : IOp) (s : State) : Result := word (.sbcImm o) useAF s (aluImmBody .sbc o.imm64)
/-- `AND` with an immediate (Table 5.3). -/
def execAndImm (o : IOp) (s : State) : Result := word (.andImm o) useAF s (aluImmBody .and o.imm64)
/-- `OR` with an immediate (Table 5.3). -/
def execOrImm (o : IOp) (s : State) : Result := word (.orImm o) useAF s (aluImmBody .or o.imm64)
/-- `XOR` with an immediate (Table 5.3). -/
def execXorImm (o : IOp) (s : State) : Result := word (.xorImm o) useAF s (aluImmBody .xor o.imm64)
/-- `ANDN` with an immediate (Table 5.3). -/
def execAndnImm (o : IOp) (s : State) : Result := word (.andnImm o) useAF s (aluImmBody .andn o.imm64)
/-- `MIN` with an immediate (Table 5.3). -/
def execMinImm (o : IOp) (s : State) : Result := word (.minImm o) useAF s (aluImmBody .min o.imm64)
/-- `MAX` with an immediate (Table 5.3). -/
def execMaxImm (o : IOp) (s : State) : Result := word (.maxImm o) useAF s (aluImmBody .max o.imm64)
/-- `MINU` with an immediate (Table 5.3). -/
def execMinuImm (o : IOp) (s : State) : Result := word (.minuImm o) useAF s (aluImmBody .minu o.imm64)
/-- `MAXU` with an immediate (Table 5.3). -/
def execMaxuImm (o : IOp) (s : State) : Result := word (.maxuImm o) useAF s (aluImmBody .maxu o.imm64)
/-- `MUL` with an immediate (Table 5.3). -/
def execMulImm (o : IOp) (s : State) : Result := word (.mulImm o) useAF s (aluImmBody .mul o.imm64)
/-- `MULH` with an immediate (Table 5.3). -/
def execMulhImm (o : IOp) (s : State) : Result := word (.mulhImm o) useAF s (aluImmBody .mulh o.imm64)
/-- `MULHU` with an immediate (Table 5.3). -/
def execMulhuImm (o : IOp) (s : State) : Result := word (.mulhuImm o) useAF s (aluImmBody .mulhu o.imm64)
/-- `CMP` with an immediate (Table 5.3). -/
def execCmpImm (o : IOp) (s : State) : Result := word (.cmpImm o) useAF s (aluImmBody .cmp o.imm64)
/-- `DIV` (R87). -/
def execDiv (o : SOp) (s : State) : Result := word (.div o) useAF s (divBody .div o)
/-- `DIVU` (R87). -/
def execDivu (o : SOp) (s : State) : Result := word (.divu o) useAF s (divBody .divu o)
/-- `REM` (R87). -/
def execRem (o : SOp) (s : State) : Result := word (.rem o) useAF s (divBody .rem o)
/-- `REMU` (R87). -/
def execRemu (o : SOp) (s : State) : Result := word (.remu o) useAF s (divBody .remu o)

/-! ### BITS (Table 5.5) -/

/-- Leading zeros among the low `n` bits. -/
def clzFrom (x : DWord) : Nat → Nat
  | 0 => 0
  | n + 1 => if x.getLsbD n then 0 else 1 + clzFrom x n
/-- Trailing zeros of the bits from `64 - n` on. -/
def ctzFrom (x : DWord) : Nat → Nat
  | 0 => 0
  | n + 1 => if x.getLsbD (63 - n) then 0 else 1 + ctzFrom x n
/-- Ones among the low `n` bits. -/
def popFrom (x : DWord) : Nat → Nat
  | 0 => 0
  | n + 1 => (x.getLsbD n).toNat + popFrom x n
/-- The low `n` bits reversed: bit j of the result is bit n - 1 - j. -/
def revFrom (x : DWord) : Nat → Nat
  | 0 => 0
  | n + 1 => (x.getLsbD n).toNat * 2 ^ (63 - n) + revFrom x n

def clz64 (x : DWord) : DWord := BitVec.ofNat 64 (clzFrom x 64)
def ctz64 (x : DWord) : DWord := BitVec.ofNat 64 (ctzFrom x 64)
def popc64 (x : DWord) : DWord := BitVec.ofNat 64 (popFrom x 64)
/-- Bit j of the result is bit 63 − j. -/
def brev64 (x : DWord) : DWord := BitVec.ofNat 64 (revFrom x 64)

/-- The shift amount or position, imm16[5:0]. -/
def bitsPos (o : IOp) : Nat := (o.imm.extractLsb' 0 6).toNat
/-- The field length, imm16[11:6] + 1. -/
def bitsLen (o : IOp) : Nat := (o.imm.extractLsb' 6 6).toNat + 1
/-- `len` ones. -/
def onesMask (len : Nat) : DWord := BitVec.ofNat 64 (2 ^ len - 1)
def bfx (pos len : Nat) (a : DWord) : DWord := (a >>> pos) &&& onesMask len
def bfi (pos len : Nat) (a : DWord) : DWord :=
  (a &&& ~~~(onesMask len <<< pos)) ||| ((a &&& onesMask len) <<< pos)

/-- The width that imm16[1:0] names: 1, 2 or 4 bytes. -/
def extBytes (o : IOp) : Nat := 2 ^ (o.imm.extractLsb' 0 2).toNat

/-- `SHL` (Table 5.5). -/
def execShl (o : IOp) (s : State) : Result := word (.shl o) useAF s (bitsBody (fun a => a <<< bitsPos o))
/-- `SHR` (Table 5.5). -/
def execShr (o : IOp) (s : State) : Result := word (.shr o) useAF s (bitsBody (fun a => a >>> bitsPos o))
/-- `SRA` (Table 5.5). -/
def execSra (o : IOp) (s : State) : Result := word (.sra o) useAF s (bitsBody (fun a => a.sshiftRight (bitsPos o)))
/-- `ROL` (Table 5.5). -/
def execRol (o : IOp) (s : State) : Result := word (.rol o) useAF s (bitsBody (fun a => a.rotateLeft (bitsPos o)))
/-- `CLZ` (Table 5.5). -/
def execClz (o : IOp) (s : State) : Result := word (.clz o) useAF s (bitsBody (clz64))
/-- `CTZ` (Table 5.5). -/
def execCtz (o : IOp) (s : State) : Result := word (.ctz o) useAF s (bitsBody (ctz64))
/-- `POPC` (Table 5.5). -/
def execPopc (o : IOp) (s : State) : Result := word (.popc o) useAF s (bitsBody (popc64))
/-- `BREV` (Table 5.5). -/
def execBrev (o : IOp) (s : State) : Result := word (.brev o) useAF s (bitsBody (brev64))
/-- `BFX` (Table 5.5). -/
def execBfx (o : IOp) (s : State) : Result := word (.bfx o) useAF s (bitsBody (bfx (bitsPos o) (bitsLen o)))
/-- `BFI` (Table 5.5). -/
def execBfi (o : IOp) (s : State) : Result := word (.bfi o) useAF s (bitsBody (bfi (bitsPos o) (bitsLen o)))
/-- `SEXT` (Table 5.5). -/
def execSext (o : IOp) (s : State) : Result := word (.sext o) useAF s (bitsBody (sextN (extBytes o)))
/-- `ZEXT` (Table 5.5). -/
def execZext (o : IOp) (s : State) : Result := word (.zext o) useAF s (bitsBody (zextN (extBytes o)))

end Sys2Proof.Machine
end

