-- ==== Sys2Proof/Machine/LoadStore.lean ====
section
/-! DEFINITION. LS and PTR (R90 to R92). -/

namespace Sys2Proof.Machine

/-- `LD` and `LDX` (R90): A becomes the extended operand. -/
def loadBody (signed : Bool) (o : SOp) (s : State) : Body := do
  holdW o.w s
  let x ← srcRead o (o.ea s.bank) (sizeOf2 o.sz) s
  .ok (srcDone o false (s.setBank { s.bank with a := extN signed (sizeOf2 o.sz) x }))

/-- `LD` (R90). -/
def execLd (o : SOp) (s : State) : Result := word (.ld o) useA s (loadBody true o)
/-- `LDX` (R90). -/
def execLdx (o : SOp) (s : State) : Result := word (.ldx o) useA s (loadBody false o)

/-- `ST` (R90): the low bytes of A. -/
def storeBody (o : SOp) (s : State) : Body := do
  holdW o.w s
  let n := sizeOf2 o.sz
  let s' ← memWrite s (o.ea s.bank) n ((bytesOf n s.bank.a).map some)
  .ok (srcDone o false s')
def execSt (o : SOp) (s : State) : Result := word (.st o) useA s (storeBody o)

/-- `PLD` (R91): the eight pointers from one 32-byte access; the address is formed before the load. -/
def pldBody (o : SOp) (s : State) : Body := do
  holdW o.w s
  let bs ← memRead s (o.ea s.bank) 32 32
  .ok (s.setBank { s.bank with p := vec8 fun k => Ptr.ofWord (wordOf ((bs.drop (4 * k)).take 4)) })
def execPld (o : SOp) (s : State) : Result := word (.pld o) useNone s (pldBody o)

/-- The 32 bytes of the eight pointers, in order. -/
def ptrBytes (p : Vector Ptr 8) : List Byte := p.toList.flatMap fun x => bytesOf 4 x.toWord

/-- `PST` (R91). -/
def pstBody (o : SOp) (s : State) : Body := do
  holdW o.w s
  memWrite s (o.ea s.bank) 32 ((ptrBytes s.bank.p).map some)
def execPst (o : SOp) (s : State) : Result := word (.pst o) useNone s (pstBody o)

/-! ### PTR (Table 5.6) -/

/-- Change the pointer that mod[2:0] names; stagger does not act on it (R67). -/
def ptrBody (o : IOp) (g : Ptr → Ptr) (s : State) : Body :=
  .ok (s.setBank (s.bank.setPtr o.ptrSel (g (s.bank.ptr o.ptrSel))))

/-- `LI`: A ← immediate. -/
def liBody (x : DWord) (s : State) : Body := .ok (s.setBank { s.bank with a := x })
def execLi (o : IOp) (s : State) : Result := word (.li o) useA s (liBody o.imm64)
/-- `PSET`: ADDR ← a. -/
def execPset (o : IOp) (s : State) : Result :=
  word (.pset o) useNone s (ptrBody o fun p => { p with addr := o.imm.extractLsb' 0 15 })
/-- `PSTRIDE`: STRIDE ← s. -/
def execPstride (o : IOp) (s : State) : Result :=
  word (.pstride o) useNone s (ptrBody o fun p => { p with stride := o.imm })
/-- `PADD`: ADDR ← (ADDR + s) mod 32,768. -/
def execPadd (o : IOp) (s : State) : Result :=
  word (.padd o) useNone s (ptrBody o fun p => { p with addr := p.addr + o.imm.extractLsb' 0 15 })
/-- `PMOV`: the pointer ← A[31:0], bit 15 discarded. -/
def execPmov (o : IOp) (s : State) : Result :=
  word (.pmov o) useA s (ptrBody o fun _ => Ptr.ofWord (s.bank.a.extractLsb' 0 32))
/-- `PGET`: A ← zext of the pointer. -/
def execPget (o : IOp) (s : State) : Result :=
  word (.pget o) useA s fun s => .ok (s.setBank { s.bank with a := (s.bank.ptr o.ptrSel).toWord.zeroExtend 64 })
/-- `PCMP`: flags of ADDR − u. -/
def execPcmp (o : IOp) (s : State) : Result :=
  word (.pcmp o) useF s fun s =>
    .ok (s.setBank { s.bank with f := pcmpFlags (s.bank.ptr o.ptrSel).addr o.imm s.bank.f })

end Sys2Proof.Machine
end

