-- ==== Sys2Proof/Machine/Control.lean ====
section
/-! DEFINITION. BR, JMP, RPT and the prefixed pair (R74 to R78, R93 to R99). -/

namespace Sys2Proof.Machine

/-- CODE_SEGMENT with a word index in %TADDR. -/
def codeSegment (addr : Int) : Trap := mkTrap causeCodeSegment (BitVec.ofInt 64 addr)

/-- The target check of R95, item 1: 0 to 16,383, else CODE_SEGMENT with the target modulo 2^22. -/
def checkTarget (t : Int) : Except Stop (BitVec 14) :=
  if t < 0 ∨ 16383 < t then .error (.trap (codeSegment (t % 4194304)))
  else .ok (BitVec.ofInt 14 t)

/-- Transfer control: PC, and the repeat frame ends (R96). -/
def transfer (t : BitVec 14) (s : State) : State := s.setBank { s.bank with pc := t, rpt := Rpt.reset }

/-- pc + sext(off22) (R93, R94). -/
def relTarget (off : BitVec 22) (b : Bank) : Int := b.pc.toNat + off.toInt
/-- sext(A) + sext(off22) (R94). -/
def absTarget (off : BitVec 22) (b : Bank) : Int := b.a.toInt + off.toInt

/-- A call's point of return must not lie beyond the segment's end (R95, item 2). -/
def checkCall (s : State) : Except Stop Unit :=
  if s.bank.pc.extractLsb' 0 12 = 4095 then .error (.trap (codeSegment (s.bank.pc.toNat + 1))) else .ok ()

/-- Push a return PC (R18). A depth of 5 to 7, which only the context window or a restore can write, is full
(assumption 9). -/
def pushReturn (r : BitVec 14) (b : Bank) : Except Stop Bank :=
  if h : b.depth.toNat < 4 then .ok { b with rs := b.rs.set b.depth.toNat r, depth := b.depth + 1 }
  else raise causeRsOverflow 0

/-- Pop a return PC (R18). A depth of 5 to 7 names no entry and pops as an empty stack does (assumption 9). -/
def popReturn (b : Bank) : Except Stop (BitVec 14 × Bank) :=
  if h : 0 < b.depth.toNat ∧ b.depth.toNat ≤ 4 then
    .ok (b.rs[b.depth.toNat - 1]'(by omega), { b with depth := b.depth - 1 })
  else raise causeRsUnderflow 0

/-- `J` and `JA`. -/
def jumpBody (t : Int) (s : State) : Body := do
  let pc ← checkTarget t
  .ok (transfer pc s)

/-- `CALL` and `CALLA`: the target, the point of return, the push, then the transfer. -/
def callBody (t : Int) (s : State) : Body := do
  let pc ← checkTarget t
  checkCall s
  let b ← pushReturn (s.bank.pc + 1) s.bank
  .ok (transfer pc (s.setBank b))

/-- `RET` (R94). -/
def retBody (s : State) : Body := do
  let (pc, b) ← popReturn s.bank
  .ok (transfer pc (s.setBank b))

/-- A branch whose condition fails is an ordinary instruction; one whose condition holds transfers (R93). -/
def execB (cond : BitVec 4) (off : BitVec 22) (s : State) : Result :=
  if s.bank.f.holds cond then runWord (.b cond off) useF s id (fun s => jumpBody (relTarget off s.bank) s)
  else word (.b cond off) useF s .ok
/-- `J`. -/
def execJ (off : BitVec 22) (s : State) : Result :=
  runWord (.j off) useNone s id (fun s => jumpBody (relTarget off s.bank) s)
/-- `CALL`. -/
def execCall (off : BitVec 22) (s : State) : Result :=
  runWord (.call off) useNone s id (fun s => callBody (relTarget off s.bank) s)
/-- `RET`. -/
def execRet (off : BitVec 22) (s : State) : Result := runWord (.ret off) useNone s id retBody
/-- `JA`. -/
def execJa (off : BitVec 22) (s : State) : Result :=
  runWord (.ja off) useA s id (fun s => jumpBody (absTarget off s.bank) s)
/-- `CALLA`. -/
def execCalla (off : BitVec 22) (s : State) : Result :=
  runWord (.calla off) useA s id (fun s => callBody (absTarget off s.bank) s)

/-- `RPT` at PC x (R98): the body must lie in the segment; a count of 0 skips it, discarding any frame;
otherwise the frame starts. -/
def rptBody (len : BitVec 4) (stag : BitVec 3) (count : BitVec 20) (s : State) : Body :=
  let b := s.bank
  let x := b.pc.toNat
  let last := x + len.toNat + 1
  if last / 4096 ≠ x / 4096 then .error (.trap (codeSegment (4096 * (x / 4096 + 1))))
  else if count = 0 then
    if last % 4096 = 4095 then .error (.trap (codeSegment (last + 1)))
    else .ok (s.setBank { b with rpt := Rpt.reset, pc := BitVec.ofNat 14 (last + 1) })
  else
    .ok (s.setBank { b with rpt := { count := count, body := b.pc + 1, len := len, idx := 0, stag := stag, k := 0 },
                            pc := b.pc + 1 })

/-- `RPT` with an immediate count. -/
def execRpt (len : BitVec 4) (stag : BitVec 3) (count : BitVec 18) (s : State) : Result :=
  runWord (.rpt len stag count) useNone s id (rptBody len stag (count.zeroExtend 20))
/-- `RPT A`: the count is A[19:0]. -/
def execRptA (len : BitVec 4) (stag : BitVec 3) (s : State) : Result :=
  runWord (.rptA len stag) useA s id fun s => rptBody len stag (s.bank.a.extractLsb' 0 20) s

/-- Where a prefix may not stand (R76, R78): word 4,095 of a segment, and the last position of a repeat body. -/
def pairPlace (b : Bank) : Except Stop Unit :=
  if b.pc.extractLsb' 0 12 = 4095 then .error (.trap (codeSegment (b.pc.toNat + 1)))
  else if b.rpt.count ≠ 0 ∧ b.rpt.idx = b.rpt.len then
    .error (.trap (mkTrap causeIllegal (BitVec.ofNat 64 (b.pc.toNat + 1))))
  else .ok ()

/-- A prefixed pair (R74): one instruction with the 42-bit immediate, which completes past both words. -/
def execXimm (hi : BitVec 26) (op : PairOp) (lo : BitVec 16) (s : State) : Result :=
  runWord (.ximm hi op lo) useAF s (advance true) fun s => do
    pairPlace s.bank
    match op with
    | .li => liBody (pairImm hi lo) s
    | .alu f => aluImmBody f (pairImm hi lo) s

end Sys2Proof.Machine
end

