-- ==== Sys2Proof/Machine/Queues.lean ====
section
/-! DEFINITION. Receive queues and their overflow (R164 to R168, R330, R331, R415), inboxes (R310), local
meters (R351), the emptying of a slot (R29), and handing messages to the NI (R174, R181). -/

namespace Sys2Proof.Machine

/-! ### Meters -/

/-- Add to a tile's local count of a hub counter (R351, Table 20.7). -/
def Tile.meter (tl : Tile) (ix n : Nat) : Tile :=
  { tl with counts := SMap.set 0 tl.counts ix (SMap.get 0 tl.counts ix + n) }

/-- Add to a hub counter of a tenant, modulo 2^64 (R350). -/
def State.hubMeter (s : State) (tenant ix n : Nat) : State :=
  let key := tenant * 16 + ix
  { s with meters := SMap.set 0 s.meters key (SMap.get 0 s.meters key + BitVec.ofNat 64 n) }

/-! ### The ring of a queue (R166, R167) -/

/-- Records in the ring; 0 where LOGSZ disables the queue. -/
def RQueue.size (q : RQueue) : Nat := if q.logsz = 0 ∨ 8 < q.logsz.toNat then 0 else 2 ^ q.logsz.toNat
def RQueue.span (q : RQueue) : Nat := 128 * q.size
def RQueue.base (q : RQueue) : Nat := q.head.toNat / q.span * q.span
/-- Records from the old HEAD to another record position, in ring order. -/
def RQueue.dist (q : RQueue) (a : BitVec 15) : Nat := (a.toNat + q.span - q.head.toNat) % q.span / 128
def RQueue.count (q : RQueue) : Nat := if q.size = 0 then 0 else q.dist q.tail
def RQueue.full (q : RQueue) : Bool := q.size == 0 || q.count == q.size - 1
def RQueue.empty (q : RQueue) : Bool := q.head == q.tail
/-- The record position after `a`. -/
def RQueue.after (q : RQueue) (a : BitVec 15) : BitVec 15 :=
  BitVec.ofNat 15 (q.base + (a.toNat - q.base + 128) % q.span)

/-- After HEAD has moved: a refused redelivery's report is armed again once there is room (R415). -/
def RQueue.rearmed (q : RQueue) : RQueue :=
  if q.rearm && !q.full then { q with rearm := false, report := true } else q

/-- Advance HEAD by one record. -/
def RQueue.pop (q : RQueue) : RQueue := { q with head := q.after q.head, age := q.age.drop 1 }.rearmed
/-- A tile cycle passes for the messages of a handler queue; one that has arrived since is seen for the first time (R165). -/
def RQueue.tick (q : RQueue) : RQueue :=
  { q with age := (q.age.map (· + 1) ++ List.replicate (q.count - q.age.length) 1).take q.count }
/-- For how long the tile has seen the head. -/
def RQueue.headAge (q : RQueue) : Nat := q.age.headD 0

/-- A write of RQH (R167): advance, re-initialise, or ignore. A LOGSZ of 9 to 15 acts as 0; RQH reads back what was
written (assumption 92). -/
def RQueue.writeHead (q : RQueue) (v : DWord) : RQueue :=
  let log := v.extractLsb' 16 4
  let head := v.extractLsb' 0 15
  let q' : RQueue := { q with logsz := log, head := head, tail := head, age := [] }
  if head.toNat % 128 ≠ 0 then q
  else if q'.size = q.size ∧ 0 < q.size ∧ q.base ≤ head.toNat ∧ head.toNat < q.base + q.span then
    if q.dist head ≤ q.count then { q with head := head, age := q.age.drop (q.dist head) }.rearmed else q
  else q'.rearmed

def RQueue.headReg (q : RQueue) : DWord := 0#44 ++ q.logsz ++ 0#1 ++ q.head
def RQueue.tailReg (q : RQueue) : DWord := 0#47 ++ BitVec.ofBool q.ovf ++ 0#1 ++ q.tail

def Slot.queue (sl : Slot) (q : BitVec 2) : RQueue := sl.rq[q.toNat]'q.isLt
def Slot.setQueue (sl : Slot) (q : BitVec 2) (x : RQueue) : Slot := { sl with rq := sl.rq.set q.toNat x q.isLt }

/-! ### Arrival (R166 to R168) -/

def hdrTag (h : DWord) : Nat := (h.extractLsb' 44 4).toNat
def hdrMid (h : DWord) : BitVec 16 := h.extractLsb' 24 16
def hdrRank (h : DWord) : Nat := (h.extractLsb' 48 16).toNat

/-- The 16 doublewords of a record: header, payload, zeros. -/
def recordWords (hdr : DWord) (pay : List DWord) : List DWord := ((hdr :: pay) ++ List.replicate 16 0).take 16

/-- The generation a slot's records are stamped with: the slot's, or the launch's on the tile where the slot
holds no context or the queue is a handler queue. -/
def Tile.stampGen (tl : Tile) (k : Nat) (handlerQueue : Bool) : BitVec 12 :=
  match tl.launch with
  | some l => if handlerQueue || (tl.slot k).st == .empty then l.gen else (tl.slot k).gen
  | none => (tl.slot k).gen

/-- Write a record at TAIL as full-granule writes and advance TAIL. -/
def State.putRecord (s : State) (t k : Nat) (q : BitVec 2) (g : BitVec 12) (words : List DWord) : State :=
  let rq := (s.slotAt t k).queue q
  let a := rq.tail.toNat
  let s1 := (s.spWriteSpan t g 8 a (words.flatMap (bytesOf 8))).1
  s1.modSlotAt t k fun sl => sl.setQueue q { rq with tail := rq.after rq.tail }

/-- A granule of the record at TAIL is ahead of the generation. -/
def State.recordAhead (s : State) (t k : Nat) (q : BitVec 2) (g : BitVec 12) : Bool :=
  let a := ((s.slotAt t k).queue q).tail.toNat
  (List.range 4).any fun j => (s.getTile t).tagClass g (a / 32 + j) == .ahead

/-- The lowest free record of the overflow ring (R373). -/
def Tile.freeOvf (tl : Tile) : Option Nat := (List.range 8).find? fun j => !(tl.ring.toList.getD j OvfRec.reset).valid

/-- The arrival number of the message that arrives now, modulo 2^16 (R373). -/
def Tile.arrivalNo (tl : Tile) : BitVec 16 := tl.oseq - 1
/-- One more message arrives on the tile. -/
def Tile.countArrival (tl : Tile) : Tile := { tl with oseq := tl.oseq + 1 }

/-- Divert a message into the overflow ring, or lose it (R168, R331). -/
def State.divert (s : State) (t k : Nat) (q : BitVec 2) (words : List DWord) (ahead : Bool) : State :=
  let tl := s.getTile t
  let rq := (tl.slot k).queue q
  match tl.freeOvf with
  | some j =>
    let r : OvfRec := ⟨true, tl.arrivalNo, q, BitVec.ofNat 3 k, words⟩
    let rq' := if rq.ovf then rq
      else { rq with ovf := true, report := true, mid := hdrMid (words.headD 0), lost := false, ahead := ahead }
    (s.setTile t { tl with ring := tl.ring.set! j r }).modSlotAt t k (·.setQueue q rq')
  | none =>
    let rq' := if rq.ovf then { rq with lost := rq.lost || rq.report }
      else { rq with ovf := true, report := true, mid := hdrMid (words.headD 0), lost := true, ahead := ahead }
    (s.setTile t (tl.meter 10 1)).modSlotAt t k (·.setQueue q rq')

/-- A whole, checked message enters the queue of slot `k`, or is diverted (R166, R168). -/
def State.enqueue (s : State) (t k : Nat) (q : BitVec 2) (handlerQueue : Bool) (words : List DWord) : State :=
  let g := (s.getTile t).stampGen k handlerQueue
  let rq := (s.slotAt t k).queue q
  let ahead := !rq.full && s.recordAhead t k q g
  if rq.full || rq.ovf || ahead then s.divert t k q words ahead else s.putRecord t k q g words

/-- The tag-table entry of a message (R163). -/
def Tile.tagEntry (tl : Tile) (tag : Nat) : TagEntry := tl.tagtab.toList.getD tag TagEntry.reset
def Tile.setTagEntry (tl : Tile) (tag : Nat) (e : TagEntry) : Tile :=
  if h : tag < 16 then { tl with tagtab := tl.tagtab.set tag e } else tl

/-- Place an arriving message (R164): queue Q of the named slot, or of slot 7 where EN is set. -/
def State.arrive (s : State) (t k : Nat) (hdr : DWord) (pay : List DWord) : State :=
  let s := s.modTile t Tile.countArrival
  let e := (s.getTile t).tagEntry (hdrTag hdr)
  if e.en then s.enqueue t 7 e.q true (recordWords hdr pay)
  else s.enqueue t k e.q false (recordWords hdr pay)

/-! ### Handler queues (R164, R165) -/

/-- A handler (not an aborted one) runs on the queue. -/
def Tile.queueRunning (tl : Tile) (q : BitVec 2) : Bool :=
  tl.slots.toList.any fun sl => sl.st == .handler && sl.hq == q

/-- PEND of a tag (Table 8.5): its message heads a handler queue on which no handler runs. -/
def pendOf (s : State) (t : Nat) (tag : Nat) : Bool :=
  let tl := s.getTile t
  let handlers := match tl.launch with | some l => l.h != 0 | none => false
  handlers && (List.range 4).any fun i =>
    let q := BitVec.ofNat 2 i
    let rq := tl.handlerQueue q
    !rq.empty && !tl.queueRunning q && hdrTag (headHeader s t rq) == tag

/-! ### Inboxes (R310) -/

/-- Plane-array commands of a slot's context that are not finished. -/
def Tile.planeOwed (tl : Tile) (k : Nat) : Nat :=
  let run := (tl.slot k).run
  ((tl.planeQ ++ tl.planeRun.map (·.cmd)).filter fun c => c.slot == k && c.run == run).length

/-- NE counted without plane-array commands, for the slot. -/
def Tile.engineNe (tl : Tile) (k : Nat) : Nat := (tl.slot k).ne.toNat - tl.planeOwed k

/-- The wait of R310. -/
def inboxRoom (s : State) : Except Stop Unit :=
  await (s.tile.engineNe s.cur + s.slot.inbox.length < 16) .limit

/-- Word 0 of an inbox record (Table 17.2). -/
def inboxWord0 (kind status : Nat) (vax : BitVec 8) (drop : BitVec 8) (block : BitVec 15) : DWord :=
  BitVec.ofNat 8 kind ++ BitVec.ofNat 8 status ++ vax ++ 0#8 ++ drop ++ 0#9 ++ block

/-- A record enters the inbox of the context that run number `run` names, and the DROP count restarts. -/
def State.postInbox (s : State) (t k run : Nat) (kind status : Nat) (vax : BitVec 8) (block : BitVec 15)
    (w1 : DWord) : State :=
  let sl := s.slotAt t k
  if sl.run = run then
    s.setSlotAt t k { sl with inbox := sl.inbox ++ [⟨inboxWord0 kind status vax sl.drop block, w1⟩], drop := 0 }
  else s

/-- NE falls for the context that run number `run` names. -/
def State.dropNe (s : State) (t k run : Nat) : State :=
  s.modSlotAt t k fun sl => if sl.run = run then { sl with ne := sl.ne - 1 } else sl

/-- A completion: its record enters the inbox and NE falls. A completion owed to a context that has ended is discarded. -/
def State.complete (s : State) (t k run : Nat) (kind status : Nat) (vax : BitVec 8) (block : BitVec 15)
    (w1 : DWord) : State :=
  (s.postInbox t k run kind status vax block w1).dropNe t k run

/-! ### Emptying a slot -/

/-- An EMPTY slot (R27, R29): the supervisor bank, the slot's own registers, what the NI holds and a message
check that waits for a context (R330) remain. A handler slot keeps the generation that the placement gave it (R225). -/
def Slot.emptied (sl : Slot) : Slot :=
  { Slot.reset with
    sup := sl.sup, rq := sl.rq, tc := sl.tc, niq := sl.niq, accs := sl.accs,
    nextSeq := sl.nextSeq, firstSeq := sl.nextSeq, run := sl.run + 1, wdogb := sl.wdogb, gpol := sl.gpol,
    tvec := sl.tvec, drop := 0, merr := sl.merr, gen := if sl.isHandler then sl.gen else 0xFFF }

/-- The context in slot `k` ends: its ownership of MA ends and the slot is EMPTY. -/
def Tile.endContext (tl : Tile) (k : Nat) : Tile := (tl.endOwner k).setSlot k (tl.slot k).emptied

/-! ### Sending (R174, R181) -/

/-- Hand a message to the NI of the issuing context, on the circuit of its rank. -/
def niSend (s : State) (hdr : DWord) (pay : List DWord) (e : RankEntry × Route) : State :=
  let _ := e.1
  let s1 := niPush s 0 (.msg hdr pay) e.2 none none (hdrRank hdr) false true
  s1.modSlot fun sl => { sl with nm := sl.nm + 1 }

/-- The rank check of a message (R173, item 5). -/
def msgRoute (hdr : DWord) (s : State) : Except Stop (RankEntry × Route) :=
  rankRoute (hdrRank hdr) (rankAddr (hdrRank hdr) false) (rankAddr (hdrRank hdr) true) s

/-- The last steps of R174: the rank check, then the NI takes the message, or a handler holds it (R181). -/
def sendMessage (hdr : DWord) (pay : List DWord) (s : State) : Body := do
  fenceGate false true s
  let e ← msgRoute hdr s
  if s.slot.st == .handler then do
    check (s.slot.held.length < 8) causeWatchdog 1
    .ok (s.modSlot fun sl => { sl with held := sl.held ++ [(hdr, pay)] })
  else do
    counterRoom s.slot.nm
    niRoom s
    .ok (niSend s hdr pay e)

end Sys2Proof.Machine
end

