-- ==== Sys2Proof/Machine/Message.lean ====
section
/-! DEFINITION. MSG, CHAN, SYNC and FABRIC (R172 to R202). -/

namespace Sys2Proof.Machine

/-! ### MSG -/

/-- A handler, and no other context (R173). -/
def needHandler (s : State) : Except Stop Unit := check (s.slot.st == .handler) causeLevelMismatch 16

/-- Payload words from scratchpad, checked in order (R174). -/
def payload (s : State) (a : Nat) : Nat → Nat → Except Stop (List DWord)
  | _, 0 => .ok []
  | j, n + 1 => do
    let bs ← cellRead s (a + 8 * j : Nat) 8 8
    let r ← payload s a (j + 1) n
    .ok (dwordOf bs :: r)

/-- The header from A: tag and length set (R174). -/
def mkHeader (a : DWord) (tag len : BitVec 4) : DWord :=
  a.extractLsb' 48 16 ++ tag ++ len ++ a.extractLsb' 0 40

/-- The four words of V (R174). -/
def vecWords (v : Vector Word 8) : List DWord := [v[1] ++ v[0], v[3] ++ v[2], v[5] ++ v[4], v[7] ++ v[6]]

/-- Post-increment of the pointer that imm12[10:8] names, where imm12[11] is set (R172). -/
def incC (o : COp) (s : State) : State :=
  if o.imm.getLsbD 11 then s.setBank (s.bank.setPtr o.p (s.bank.ptr o.p).inc) else s

/-- `SEND` (R174). -/
def sendBody (o : COp) (s : State) : Body := do
  let len := o.imm.extractLsb' 0 4
  let pay ← payload s (o.addr s.bank) 0 len.toNat
  let s' ← sendMessage (mkHeader s.bank.a o.tag len) pay s
  .ok (incC o s')
def execSend (o : COp) (s : State) : Result := word (.send o) useA s (sendBody o)

/-- `SENDV` (R174): all eight lanes, whatever M holds. -/
def sendvBody (o : COp) (s : State) : Body := sendMessage (mkHeader s.bank.a o.tag 4) (vecWords s.bank.v) s
def execSendv (o : COp) (s : State) : Result := word (.sendv o) useAV s (sendvBody o)

/-- The head record of queue ch: A the header, Pp the record, Z ← 0; `RECV` advances HEAD (R176). -/
def receiveBody (peek : Bool) (o : COp) (s : State) : Body := do
  needThread s
  let rq := s.slot.queue o.ch
  if rq.empty then
    if peek then .ok (s.setBank { s.bank with a := 0, f := s.bank.f.setZ true })
    else .error (.wait .queue)
  else do
    let bs ← memRead s rq.head.toNat 8 8
    let b := { s.bank with a := dwordOf bs, f := s.bank.f.setZ false }.setPtr o.p ⟨8, rq.head⟩
    let s' := s.setBank b
    .ok (if peek then s' else s'.modSlot (·.setQueue o.ch rq.pop))
def execRecv (o : COp) (s : State) : Result := word (.recv o) useAF s (receiveBody false o)
def execPeek (o : COp) (s : State) : Result := word (.peek o) useAF s (receiveBody true o)

/-- `OFFER` (R178). -/
def offerBody (o : COp) (s : State) : Body := do
  needThread s
  let p := s.bank.ptr o.p
  let a := p.addr.toNat
  let n := p.stride.toInt
  check (8 ≤ n ∧ n ≤ 32760 ∧ a + n ≤ 32768) causeSpRange (BitVec.ofNat 64 a)
  check (a % 8 = 0 ∧ n % 8 = 0) causeAlign (BitVec.ofNat 64 a)
  let w1 := BitVec.ofInt 64 (a + n * 65536)
  sendMessage (mkHeader s.bank.a o.tag 2) [w1, BitVec.ofInt 64 (ownRank s)] s
def execOffer (o : COp) (s : State) : Result := word (.offer o) useA s (offerBody o)

/-- `PULL` (R179). -/
def pullBody (o : COp) (s : State) : Body := do
  needThread s
  let e := o.addr s.bank
  let w1 ← cellRead s (e + 8 : Nat) 8 8
  let w1b ← cellRead s (e + 8 : Nat) 8 8
  let w2 ← cellRead s (e + 16 : Nat) 8 8
  let src := ((dwordOf w1).extractLsb' 0 15).toNat
  let n := ((dwordOf w1b).extractLsb' 16 15).toNat
  let snd := ((dwordOf w2).extractLsb' 0 16).toNat
  let dst := (s.bank.a.extractLsb' 0 15).toNat
  check (8 ≤ n ∧ n ≤ 32760 ∧ dst + n ≤ 32768) causeSpRange (BitVec.ofNat 64 dst)
  check (dst % 8 = 0 ∧ n % 8 = 0) causeAlign (BitVec.ofNat 64 dst)
  fenceGate false true s
  let r ← rankRoute snd (rankAddr snd false) (rankAddr snd true) s
  inboxRoom s
  counterRoom s.slot.ne
  let s1 := niPlain s (.pull src n dst 0) r.2 snd
  .ok (s1.modSlot fun sl => { sl with ne := sl.ne + 1 })
def execPull (o : COp) (s : State) : Result := word (.pull o) useA s (pullBody o)

/-- Pass a handler's held messages to the NI in issue order, each checked as R174 says. -/
def passHeld : List (DWord × List DWord) → State → Except Stop State
  | [], s => .ok s
  | (hdr, pay) :: r, s => do
    let e ← msgRoute hdr s
    passHeld r (niSend s hdr pay e)

/-- Advance HEAD of handler queue `q` of the focus tile. -/
def popHandlerQueue (q : BitVec 2) (s : State) : State :=
  { s with tile := s.tile.setSlot 7 ((s.tile.slot 7).setQueue q ((s.tile.slot 7).queue q).pop) }

/-- `HRET` (R182): the held messages go to the NI, the queue advances, the slot becomes free. -/
def hretBody (s : State) : Body := do
  needHandler s
  await ((s.slot.niq.filter (!·.isPull)).length + s.slot.held.length ≤ 8) .ni
  let s1 ← passHeld s.slot.held s
  let q := s.slot.hq
  .ok (popHandlerQueue q { s1 with tile := s1.tile.endContext s.cur })
def execHret (o : COp) (s : State) : Result := runWord (.hret o) useNone s id hretBody

/-- `TAGSET` (R185): changes nothing and sets Z where the image has no handler for the tag. -/
def tagsetBody (o : COp) (s : State) : Body :=
  let ok := match s.tile.launch with | some l => l.h != 0 && l.hmask.getLsbD o.tag.toNat | none => false
  let s1 := s.setBank { s.bank with f := s.bank.f.setZ !ok }
  .ok (if ok then { s1 with tile := s1.tile.setTagEntry o.tag.toNat { s1.tile.tagEntry o.tag.toNat with en := true } }
       else s1)
def execTagset (o : COp) (s : State) : Result := word (.tagset o) useF s (tagsetBody o)

/-- `TAGCLR` (R185). -/
def tagclrBody (o : COp) (s : State) : Body :=
  let s1 := s.setBank { s.bank with f := s.bank.f.setZ false }
  .ok { s1 with tile := s1.tile.setTagEntry o.tag.toNat { s1.tile.tagEntry o.tag.toNat with en := false } }
def execTagclr (o : COp) (s : State) : Result := word (.tagclr o) useF s (tagclrBody o)

/-! ### CHAN -/

/-- `CHR` (R187): reads and consumes without waiting. -/
def chrBody (o : COp) (s : State) : Body := do
  needThread s
  let e ← readSide s o.ch
  match s.chanBuf s.tid e with
  | w :: _ =>
    .ok (consume (s.setBank { s.bank with a := w, f := s.bank.f.setZ false }) o.ch)
  | [] => .ok (s.setBank { s.bank with f := s.bank.f.setZ true })
def execChr (o : COp) (s : State) : Result := word (.chr o) useAF s (chrBody o)

/-- The far end of a channel's write side. -/
def chanTarget (s : State) (t : Nat) : ChanEnd → WordTo
  | .circuit die cid => .circuit die cid
  | .link d => .link ((neighbour s t d).getD t) (d + 2)

/-- Spend credits at a channel end of a tile. -/
def State.spendCredits (s : State) (t : Nat) (e : ChanEnd) (n : Nat) : State :=
  match e with
  | .circuit die cid =>
    let c := s.circuit (circuitKey die cid)
    s.setCircuit (circuitKey die cid) { c with credits := c.credits - n }
  | .link d => let l := s.link t d; s.setLink t d { l with credits := l.credits - n }

/-- Pass words to the NI on channel `n`, after taking a credit for each (R187). -/
def chanWrite (n : BitVec 2) (ws : List DWord) (s : State) : Body := do
  needThread s
  let e ← writeSide s n
  await (ws.length ≤ s.chanCredits s.tid e) .credit
  let s1 := s.spendCredits s.tid e ws.length
  .ok { s1 with words := s1.words ++ ws.map fun w => ⟨chanTarget s s.tid e, w, false⟩ }
def execChw (o : COp) (s : State) : Result := word (.chw o) useA s fun s => chanWrite o.ch [s.bank.a] s
def execChwv (o : COp) (s : State) : Result := word (.chwv o) useV s fun s => chanWrite o.ch (vecWords s.bank.v) s

/-- The read side of channel `n` holds an unread word. -/
def unreadWord (s : State) (n : BitVec 2) : Bool :=
  match (s.slot.chan n).r with | some e => !(s.chanBuf s.tid e).isEmpty | none => false

/-- The write side of channel `n`, where bound, holds all 8 credits. -/
def creditsHome (s : State) (n : BitVec 2) : Bool :=
  match (s.slot.chan n).w with | some e => 8 ≤ s.chanCredits s.tid e | none => true

def Slot.setChan (sl : Slot) (n : BitVec 2) (c : Channel) : Slot := { sl with ch := sl.ch.set n.toNat c n.isLt }

/-- The slot holds a mesh direction through some channel. -/
def Slot.holdsLink (sl : Slot) (d : BitVec 2) : Bool :=
  sl.ch.toList.any fun c => c.w == some (.link d) || c.r == some (.link d)

/-- Release every mesh direction that the issuing slot no longer uses. -/
def releaseLinks (s : State) : State :=
  [0#2, 1#2, 2#2, 3#2].foldl (fun s d =>
    let l := s.link s.tid d
    if l.bound = some s.cur.val ∧ !s.slot.holdsLink d then s.setLink s.tid d { l with bound := none } else s) s

/-- Bind channel `n` and set Z ← 0. -/
def bindChan (n : BitVec 2) (c : Channel) (s : State) : State :=
  let s1 := releaseLinks (s.modSlot (·.setChan n c))
  s1.setBank { s1.bank with f := s1.bank.f.setZ false }

/-- The tenant of the launch that a bay holds. -/
def State.bayTenant (s : State) (b : Nat) : Option Nat :=
  match (s.getBay b).launch with
  | some lid => (s.findLaunch lid).map (·.tenant)
  | none => none

/-- Slot 32 of the link in direction `d` is in use (R148): both bays hold launches of one tenant. -/
def linkLive (s : State) (t : Nat) (d : BitVec 2) : Bool :=
  match neighbour s t d with
  | some u => (s.bayTenant (bayOf t)).isSome && s.bayTenant (bayOf t) == s.bayTenant (bayOf u)
  | none => false

/-- `CHST` (R186, Table 9.3). A binding that fails changes nothing and sets Z ← 1. -/
def chstBody (o : COp) (s : State) : Body := do
  needThread s
  let n := o.ch
  let fail : State := s.setBank { s.bank with f := s.bank.f.setZ true }
  let cid := (s.bank.a.extractLsb' 0 12).toNat
  match o.imm.extractLsb' 10 2 with
  | 0#2 =>
    if unreadWord s n then .ok fail
    else do
      await (creditsHome s n) .credit
      .ok (bindChan n ⟨none, none⟩ s)
  | 1#2 =>
    let die := dieOf s.tid
    let c := s.circuit (circuitKey die cid)
    if c.live && c.kind == .channel && c.tenant == s.tile.tenant && c.src == s.tid && c.sslot == s.cur.val then do
      await (creditsHome s n) .credit
      .ok (bindChan n { s.slot.chan n with w := some (.circuit die cid) } s)
    else .ok fail
  | 2#2 =>
    let die := (s.bank.a.extractLsb' 12 4).toNat
    let c := s.circuit (circuitKey die cid)
    if c.live && c.kind == .channel && c.tenant == s.tile.tenant && c.dst == s.tid && c.dslot == s.cur.val
        && !unreadWord s n then
      .ok (bindChan n { s.slot.chan n with r := some (.circuit die cid) } s)
    else .ok fail
  | _ =>
    let d := o.imm.extractLsb' 0 2
    let l := s.link s.tid d
    let other := match l.bound with | some k => k != s.cur.val | none => false
    if linkLive s s.tid d && !other && !unreadWord s n && creditsHome s n then
      .ok (bindChan n ⟨some (.link d), some (.link d)⟩ (s.setLink s.tid d { l with bound := some s.cur.val }))
    else .ok fail
def execChst (o : COp) (s : State) : Result := word (.chst o) useAF s (chstBody o)

/-! ### SYNC -/

/-- The node of scope `L`k that holds a thread: its coordinates at levels 0 to k. -/
def scopePath (coords : List Nat) (k : Nat) : List Nat := coords.take (k + 1)
/-- The coordinates of a slot's thread at the declared levels. -/
def Tile.path (tl : Tile) (k : Nat) : List Nat := ((tl.slot k).coords).take tl.levels.length

/-- The barrier limit: the die, and a plane for a stook, bay or die extent (R190). -/
def barrierLevel (k : BitVec 4) (s : State) : Except Stop Unit := do
  levelCheck k 5 s
  let has := match s.tile.launch with | some l => l.planes.contains k | none => false
  check (s.tile.extent k < 3 || has) causeLevelMismatch (k.zeroExtend 64)

/-- Join the current episode of the issuing thread's instance of level `k`. -/
def joinEpisode (k : BitVec 4) (s : State) : State :=
  let ix := s.tile.launchIndex s.cur
  let path := scopePath (s.tile.path s.cur) k.toNat
  let lid := s.tile.lid
  let same (e : Episode) : Bool := e.lid == lid && e.level == k && e.path == path
  let eps :=
    if s.episodes.any same then
      s.episodes.map fun e => if same e && !e.joined.contains ix then { e with joined := e.joined ++ [ix] } else e
    else s.episodes ++ [⟨lid, k, path, [ix]⟩]
  { s.modSlot fun sl => { sl with join := some ⟨k, false⟩ } with episodes := eps }

/-- The open join of the issuing slot at level `k`, joining first where there is none (R191, R248). -/
def openJoin (k : BitVec 4) (s : State) : Except Stop (State × Bool) := do
  needThread s
  barrierLevel k s
  match s.slot.join with
  | some j => do
    check (j.level == k) causeLevelMismatch (k.zeroExtend 64)
    .ok (s, j.completed)
  | none => do
    joinGate s
    .ok (joinEpisode k s, false)

/-- The timeout of R192. -/
def barrierTimeout (e : BitVec 5) : Nat := if e = 0 then 2 ^ 20 else if e.toNat ≤ 9 then 2 ^ 10 else 2 ^ e.toNat

def setEntered (e : Entered) (s : State) : State := s.modSlot fun sl => { sl with entered := e }
def setTimer (n : Nat) (s : State) : State := s.modSlot fun sl => { sl with timer := n }
def clearJoin (s : State) : State := s.modSlot fun sl => { sl with join := none }

/-- `BARW` (R191): join, then wait for the episode's completion. -/
def barwBody (o : COp) (s : State) : Body := do
  let r ← openJoin o.lvl s
  if r.2 then .ok (clearJoin (setTimer 0 (setEntered .no r.1)))
  else if s.slot.entered = .barrier then .error (.wait .barrier)
  else .error (.waitAfter .barrier
    (setTimer (barrierTimeout (o.imm.extractLsb' 0 5)) (setEntered .barrier r.1)))
def execBarw (o : COp) (s : State) : Result := word (.barw o) useNone s (barwBody o)

/-- `BART` (R191). -/
def bartBody (o : COp) (s : State) : Body := do
  let r ← openJoin o.lvl s
  let s1 := r.1.setBank { r.1.bank with f := r.1.bank.f.setZ r.2 }
  .ok (if r.2 then clearJoin s1 else s1)
def execBart (o : COp) (s : State) : Result := word (.bart o) useF s (bartBody o)

/-- `PAUSE` (R194): n · 16^s tile cycles. -/
def pauseBody (o : COp) (s : State) : Body :=
  .ok (s.modSlot fun sl => { sl with pause := o.imm.toNat * 16 ^ o.ch.toNat, pauseDue := false })
def execPause (o : COp) (s : State) : Result := word (.pause o) useNone s (pauseBody o)

/-- The conditions of Table 9.4 that hold, in their bit positions. -/
def waitqMask (tag : BitVec 4) (s : State) : BitVec 10 :=
  let rq (q : Nat) : Bool := !(s.slot.rq.toList.getD q RQueue.reset).empty
  let ch (n : Nat) : Bool := match (s.slot.ch.toList.getD n Channel.reset).r with
    | some e => !(s.chanBuf s.tid e).isEmpty
    | none => false
  BitVec.ofBool (pendOf s s.tid tag.toNat) ++ BitVec.ofBool (ch 3) ++ BitVec.ofBool (ch 2) ++ BitVec.ofBool (ch 1)
    ++ BitVec.ofBool (ch 0) ++ BitVec.ofBool (!s.slot.inbox.isEmpty) ++ BitVec.ofBool (rq 3)
    ++ BitVec.ofBool (rq 2) ++ BitVec.ofBool (rq 1) ++ BitVec.ofBool (rq 0)

/-- `WAITQ` (R195). -/
def waitqBody (o : COp) (s : State) : Body := do
  needThread s
  let m := o.imm.extractLsb' 0 10
  let hold := waitqMask o.tag s &&& m
  await (m = 0 || hold != 0) .waitq
  .ok (s.setBank { s.bank with a := hold.zeroExtend 64 })
def execWaitq (o : COp) (s : State) : Result := word (.waitq o) useA s (waitqBody o)

/-- A slot whose context may issue: not empty, not stopping, not halted. -/
def Slot.running (sl : Slot) : Bool :=
  (sl.st == .user || sl.st == .supervisor || sl.st == .handler) && !sl.halted

/-- `YIELD` (R196): the other running contexts go first; the issue strikes off those that are not ready in its cycle. -/
def yieldBody (s : State) : Body :=
  let others := (List.range 8).foldl (fun (m : BitVec 8) k =>
    if k ≠ s.cur.val ∧ (s.tile.slot k).running then m ||| (1#8 <<< k) else m) 0
  .ok (s.modSlot fun sl => { sl with yielded := others })
def execYield (o : COp) (s : State) : Result := word (.yield o) useNone s yieldBody

/-- The tile's hint: the highest among its running contexts (R144). -/
def Tile.hint (tl : Tile) : Nat := tl.slots.toList.foldl (fun m sl => if sl.running then max m sl.hint.toNat else m) 0

/-- `STKH` (R197): 7 acts as 0; no effect in a handler. -/
def stkhBody (o : COp) (s : State) : Body :=
  if s.slot.isHandler then .ok s
  else
    let c := o.imm.extractLsb' 0 3
    let s1 := s.modSlot fun sl => { sl with hint := if c = 7 then 0 else c }
    .ok { s1 with tile := { s1.tile with hintNew := s1.tile.hintNew || s1.tile.hint != s.tile.hint } }
def execStkh (o : COp) (s : State) : Result := word (.stkh o) useNone s (stkhBody o)

/-- `ALIGN` (R198): holds the thread until its release or its limit of w tile cycles. -/
def alignBody (o : COp) (s : State) : Body := do
  needThread s
  levelCheck o.lvl 7 s
  match s.slot.entered with
  | .align true _ => .ok (setTimer 0 (setEntered .no s))
  | .align false _ => .error (.wait .align)
  | _ => .error (.waitAfter .align
      (setTimer (if o.imm = 0 then 4096 else o.imm.toNat) (setEntered (.align false o.lvl) s)))
def execAlign (o : COp) (s : State) : Result := word (.align o) useNone s (alignBody o)

/-! ### FABRIC -/

/-- `CIRC` (R199): reads the block, checks the rank of a set-up, and sends the joiner the request. -/
def circBody (o : COp) (s : State) : Body := do
  needThread s
  let a := o.addr s.bank
  let bs ← cellRead s a 32 32
  let d := dwordOf (bs.take 8)
  let rank := (d.extractLsb' 0 16).toNat
  let e := s.tile.rank rank
  check (o.ch != 0 || (rank < 4096 && e.valid && e.tenant.toNat == s.tile.tenant)) causeRankInvalid (rankAddr rank false)
  fenceGate false true s
  inboxRoom s
  counterRoom s.slot.ne
  let slots := (d.extractLsb' 16 6).toNat
  let r : JoinReq :=
    { tile := s.tid, slot := s.cur, run := s.slot.run, tenant := s.tile.tenant, op := o.ch, chan := d.getLsbD 24,
      cid := (d.extractLsb' 32 12).toNat, slots := if o.ch = 0 ∧ slots = 0 then 1 else slots,
      dst := e.tileNo s.modNo, dslot := e.slot.toNat, dmod := e.module.toNat, block := BitVec.ofNat 15 a }
  let s1 := s.modSlot fun sl => { sl with ne := sl.ne + 1 }
  .ok (s1.modDie (dieOf s.tid) fun d => { d with work := d.work ++ [.own r] })
def execCirc (o : COp) (s : State) : Result := word (.circ o) useNone s (circBody o)

/-- A valid rank in A with Z ← 0, or all ones with Z ← 1 (Table 9.6). -/
def rankAnswer (r : Int) (ok : Bool) (s : State) : State :=
  let good := ok && decide (0 ≤ r) && decide (r < 4096) && (s.tile.rank r.toNat).valid
  s.setBank { s.bank with a := if good then BitVec.ofInt 64 r else BitVec.allOnes 64, f := s.bank.f.setZ !good }

/-- `RANK` (R202, Table 9.6). -/
def rankBody (o : COp) (s : State) : Body := do
  let b := s.bank
  match o.ch with
  | 0#2 => .ok (s.setBank { b with a := BitVec.ofInt 64 (ownRank s) })
  | 1#2 =>
    let r := (b.a.extractLsb' 0 16).toNat
    .ok (s.setBank { b with a := if 4096 ≤ r then 0 else (s.tile.rank r).toDWord })
  | 2#2 => do
    levelCheck o.lvl 7 s
    let ls := s.tile.levels
    let k := o.lvl.toNat
    let x := (b.a.extractLsb' 0 16).toNat
    let c := ((s.tile.slot s.asThread).coords).getD k 0
    let r := ownRank s + ((x : Int) - c) * fanProduct (ls.drop (k + 1))
    .ok (rankAnswer r (bindAt ls k != 0 && decide (x < fanAt ls k)) s)
  | _ =>
    .ok (rankAnswer ((b.a.extractLsb' 0 32).toNat - (s.tile.rankBase : Int)) true s)
def execRank (o : COp) (s : State) : Result :=
  word (.rank o) (if o.ch = 2 ∨ o.ch = 3 then useAF else useA) s (rankBody o)

/-- `TREE` (R202, Table 9.6). -/
def treeBody (o : COp) (s : State) : Body := do
  let ls := s.tile.levels
  let k := o.lvl.toNat
  let cs := (s.tile.slot s.asThread).coords
  if o.ch ≠ 3 then levelCheck o.lvl 7 s
  let v : Nat := match o.ch with
    | 0#2 => fanProduct (ls.drop (k + 1))
    | 1#2 => if bindAt ls k = 0 then 0 else radix (ls.drop (k + 1)) (cs.drop (k + 1))
    | 2#2 => s.tile.extent o.lvl
    | _ => radix ls cs
  .ok (s.setBank { s.bank with a := BitVec.ofNat 64 v })
def execTree (o : COp) (s : State) : Result := word (.tree o) useA s (treeBody o)

end Sys2Proof.Machine
end

