-- ==== Sys2Proof/Machine/Remote.lean ====
section
/-! DEFINITION. REMOTE, AMO and ORDER (R211 to R214, R250 to R264). -/

namespace Sys2Proof

/-- The cell of an ordering form: 16 · sext(d12[11:4]) (R251), and its level d12[3:0]. -/
def SOp.eaOrd (o : SOp) (b : Machine.Bank) : Int :=
  (b.ptr (b.sel o.p)).addr.toNat + 16 * (o.d.extractLsb' 4 8).toInt
def SOp.level (o : SOp) : BitVec 4 := o.d.extractLsb' 0 4

end Sys2Proof

namespace Sys2Proof.Machine

/-! ### Address checks at issue (R211, R212, R214, R252) -/

/-- VA[71:68] (Table 11.1). -/
def vaSpace (va : VA) : BitVec 4 := va.extractLsb' 68 4
/-- VA[67:60], the device block of space 0xE. -/
def vaBlock (va : VA) : Nat := (va.extractLsb' 60 8).toNat

/-- The address fields that must be zero (R212): those that Table 11.1, R229, R372, R373 and R410 name. -/
def vaZeroOk (va : VA) : Bool :=
  match vaSpace va with
  | 0xC#4 => va.extractLsb' 15 25 == 0
  | 0xD#4 => va.extractLsb' 16 22 == 0
  | 0xE#4 =>
    if vaBlock va = 1 then va.extractLsb' 16 24 == 0
    else if vaBlock va = 2 then va.extractLsb' 12 28 == 0
    else if vaBlock va = 3 then va.extractLsb' 11 29 == 0 && va.extractLsb' 7 1 == 0
    else if vaBlock va = 8 then va.extractLsb' 56 4 == 0
    else true
  | 0xF#4 => va.extractLsb' 64 4 == 0
  | _ => true

/-- The rights an access needs (R214). -/
structure Rights where
  r : Bool
  w : Bool
  a : Bool
deriving DecidableEq, Repr

/-- A PLB entry matches a domain and a range of bytes (R214). -/
def Plb.matchesRange (e : Plb) (dom : BitVec 16) (lo n : Nat) : Bool :=
  e.valid && e.dom == dom && decide (16 ≤ e.logsz.toNat) && decide (e.logsz.toNat ≤ 72)
    && decide (e.base.toNat * 65536 ≤ lo) && decide (lo + n ≤ e.base.toNat * 65536 + 2 ^ e.logsz.toNat)

/-- The lowest-numbered matching entry decides (R214). -/
def plbOk (plb : List Plb) (dom : BitVec 16) (lo n : Nat) (need : Rights) : Bool :=
  match plb.find? (·.matchesRange dom lo n) with
  | some e => (!need.r || e.r) && (!need.w || e.w) && (!need.a || e.a)
  | none => false

/-- A trap raised by an address (R212). -/
def raiseVa {α : Type} (cause : BitVec 8) (va : VA) : Except Stop α := .error (.trap (vaTrap cause va))
def checkVa (ok : Bool) (cause : BitVec 8) (va : VA) : Except Stop Unit := if ok then .ok () else raiseVa cause va

/-- The rank checks of a tile-window address (R161, R212, R252): the rank, the module, the circuit. -/
def windowRoute (va : VA) (s : State) : Except Stop (Route × Nat) :=
  let r := (va.extractLsb' 40 16).toNat
  let e := s.tile.rank r
  if 4096 ≤ r ∨ !e.valid ∨ e.tenant.toNat ≠ s.tile.tenant ∨ va.extractLsb' 56 12 ≠ e.module then
    raiseVa causeRankInvalid va
  else match s.findCircuit s.tid s.asThread (e.tileNo s.modNo) with
    | none => raiseVa causeRankInvalid (va ||| 0x10000)
    | some key => .ok (.tile (key / 4096) (key % 4096) (e.tileNo s.modNo) e.slot.toNat, r)

/-- Step 6 of R252 for an access of `n` bytes: the route, and the rank of a tile window. -/
def vaRoute (va : VA) (n : Nat) (need : Rights) (s : State) : Except Stop (Route × Nat) := do
  checkVa (vaZeroOk va) causeProt va
  let sp := vaSpace va
  checkVa (s.slot.priv || !(sp == 0xD || sp == 0xE)) causePriv va
  checkVa (va.toNat % n = 0) causeAlign va
  if sp = 0xC then windowRoute va s
  else if sp = 0xD ∨ sp = 0xE then .ok (.config, 0)
  else do
    checkVa (s.slot.priv || plbOk s.tile.plb.toList s.slot.dom va.toNat n need) causeProt va
    .ok (.mem, 0)

/-- Read the address cell at `ea` (R213). -/
def readCell (ea : Int) (s : State) : Except Stop VA := do
  let bs ← cellRead s ea 16 16
  .ok (wordOf (bs.drop 8) |>.extractLsb' 0 8 |>.append (dwordOf (bs.take 8)))

/-- The pointer advances when the NI accepts the request (R251). -/
def incS (o : SOp) (s : State) : State := s.setBank (s.bank.incAll o.i [s.bank.sel o.p])

def pendA (s : State) : State := s.setBank { s.bank with aPend := true }
def pendV (s : State) : State := s.setBank { s.bank with vPend := true }
def pendZ (s : State) : State := s.setBank { s.bank with zPend := true }

/-! ### REMOTE -/

/-- A read right, a write right, or all three. -/
def needR : Rights := ⟨true, false, false⟩
def needW : Rights := ⟨false, true, false⟩
def needRWA : Rights := ⟨true, true, true⟩

/-- `RLD` (R253): hand the request to the NI and leave A pending. -/
def rldBody (o : SOp) (s : State) : Body := do
  holdW o.w s
  let n := sizeOf2 o.sz
  let va ← readCell (o.ea s.bank) s
  fenceGate true false s
  let r ← vaRoute va n needR s
  niRoomRemote s
  .ok (incS o (pendA (niPush s va (.load n none) r.1 none none r.2 true false)))
def execRld (o : SOp) (s : State) : Result := word (.rld o) useA s (rldBody o)

/-- The end of an acquire that has issued (R242, R257): it completes when its reply has arrived; an error that
arose before performance is raised at the instruction, with the pointer as it stood before it. -/
def acquireBody (first : State → Except Stop State) (s : State) : Body :=
  match s.slot.entered with
  | .acquire sel old err done =>
    if !done then .error (.wait .acquire)
    else match err with
      | none => .ok (setEnteredNo s)
      | some t =>
        let s1 := s.setBank (s.bank.setPtr sel old)
        .error (.trapAfter t s.bank.pc (setEnteredNo s1))
  | _ => do
    let s1 ← first s
    .error (.waitAfter .acquire s1)
where
  setEnteredNo (s : State) : State := s.modSlot fun sl => { sl with entered := .no }

/-- Note that an acquire has gone: the pointer as it stood, for a precise error. -/
def enterAcquire (o : SOp) (s0 s1 : State) : State :=
  s1.modSlot fun sl =>
    { sl with entered := .acquire (s0.bank.sel o.p) (s0.bank.ptr (s0.bank.sel o.p)) none false }

/-- `RLD.ACQ` (R253): the thread is held until its reply has written A. -/
def rldAcqBody (o : SOp) (s : State) : Body :=
  acquireBody (fun s => do
    let ext ← ordExtent o.level s
    holdW o.w s
    let n := sizeOf2 o.sz
    let va ← readCell (o.eaOrd s.bank) s
    fenceGate true false s
    let r ← vaRoute va n needR s
    niRoomRemote s
    .ok (enterAcquire o s (incS o (pendA (niPush s va (.load n none) r.1 none (some ext) r.2 true false))))) s
def execRldAcq (o : SOp) (s : State) : Result := word (.rldAcq o) useA s (rldAcqBody o)

/-- A posted store of bytes (R254, R255): NB ← NB + 1. -/
def postStore (va : VA) (data : List (Option Byte)) (r : Route × Nat) (rel : Option (BitVec 3)) (s : State) : State :=
  (niPush s va (.store data) r.1 rel none r.2 false true).modSlot fun sl => { sl with nb := sl.nb + 1 }

/-- `RST` (R254). -/
def rstBody (o : SOp) (s : State) : Body := do
  holdW o.w s
  let n := sizeOf2 o.sz
  let va ← readCell (o.ea s.bank) s
  fenceGate false true s
  let r ← vaRoute va n needW s
  counterRoom s.slot.nb
  niRoomRemote s
  .ok (incS o (postStore va ((bytesOf n s.bank.a).map some) r none s))
def execRst (o : SOp) (s : State) : Result := word (.rst o) useA s (rstBody o)

/-- `RST.REL` (R254). -/
def rstRelBody (o : SOp) (s : State) : Body := do
  let ext ← ordExtent o.level s
  holdW o.w s
  let n := sizeOf2 o.sz
  let va ← readCell (o.eaOrd s.bank) s
  fenceGate false true s
  let r ← vaRoute va n needW s
  counterRoom s.slot.nb
  niRoomRemote s
  .ok (incS o (postStore va ((bytesOf n s.bank.a).map some) r (some ext) s))
def execRstRel (o : SOp) (s : State) : Result := word (.rstRel o) useA s (rstRelBody o)

/-- `RLDV` (R255): with M = 0 no request is sent and nothing else changes. -/
def rldvBody (o : SOp) (s : State) : Body := do
  holdW o.w s
  let va ← readCell (o.ea s.bank) s
  fenceGate true false s
  let r ← vaRoute va 32 needR s
  if s.bank.f.m = 0 then .ok s
  else do
    niRoomRemote s
    .ok (incS o (pendV (niPush s va (.load 32 (some s.bank.f.m)) r.1 none none r.2 true false)))
def execRldv (o : SOp) (s : State) : Result := word (.rldv o) useV s (rldvBody o)

/-- The bytes of V with those of disabled lanes absent. -/
def laneBytes (v : Vector Word 8) (m : BitVec 8) : List (Option Byte) :=
  (List.range 8).flatMap fun i =>
    (bytesOf 4 (v.toList.getD i 0)).map fun b => if m.getLsbD i then some b else none

/-- `RSTV` (R255). -/
def rstvBody (o : SOp) (s : State) : Body := do
  holdW o.w s
  let va ← readCell (o.ea s.bank) s
  fenceGate false true s
  let r ← vaRoute va 32 needW s
  if s.bank.f.m = 0 then .ok s
  else do
    counterRoom s.slot.nb
    niRoomRemote s
    .ok (incS o (postStore va (laneBytes s.bank.v s.bank.f.m) r none s))
def execRstv (o : SOp) (s : State) : Result := word (.rstv o) useV s (rstvBody o)

/-! ### AMO -/

/-- Table 13.2 on `n`-byte values: the value to write, if any. -/
def amoNew (fn : AmoFn) (n : Nat) (old a e : DWord) : Option DWord :=
  let so := (sextN n old).toInt
  let sa := (sextN n a).toInt
  let uo := (zextN n old).toNat
  let ua := (zextN n a).toNat
  match fn with
  | .aadd => some (old + a)
  | .aand => some (old &&& a)
  | .aor => some (old ||| a)
  | .axor => some (old ^^^ a)
  | .amin => some (if so ≤ sa then old else a)
  | .amax => some (if so ≤ sa then a else old)
  | .aminu => some (if uo ≤ ua then old else a)
  | .amaxu => some (if uo ≤ ua then a else old)
  | .aswp => some a
  | .acas => if zextN n old = zextN n e then some a else none

/-- How the old value is extended into A (Table 13.2). -/
def amoSigned : AmoFn → Bool
  | .aand | .aor | .axor | .aminu | .amaxu => false
  | _ => true

/-- The expected value of `ACAS`: V[1:0]. -/
def amoExpected (s : State) : DWord := s.bank.v[1] ++ s.bank.v[0]

/-- Write A with the old value, and Z for `ACAS`. -/
def amoResult (fn : AmoFn) (n : Nat) (old e : DWord) (b : Bank) : Bank :=
  { b with a := extN (amoSigned fn) n old,
           f := if fn = .acas then b.f.setZ (zextN n old == zextN n e) else b.f }

/-- src = 0 (R260): one access of the context to its own scratchpad. -/
def amoLocal (fn : AmoFn) (o : SOp) (s : State) : Body := do
  holdW o.w s
  let n := sizeOf2 o.sz
  fenceGate true true s
  let a ← liftT (spAddr (o.ea s.bank) n n)
  planeGate true a n s
  let bs ← liftT (s.spRead s.tid s.slot.gen s.slot.gpol a n)
  let old := dwordOf bs
  let e := amoExpected s
  let s1 ← match amoNew fn n old s.bank.a e with
    | some x => liftT (s.spWrite s.tid s.slot.gen a ((bytesOf n x).map some))
    | none => .ok s
  .ok (incS o (s1.setBank (amoResult fn n old e s1.bank)))

/-- src = 1 to 3 (R260): hand the request to the NI. -/
def amoSend (fn : AmoFn) (o : SOp) (ea : Int) (rel acq : Option (BitVec 3)) (s : State) : Except Stop State := do
  holdW o.w s
  let n := sizeOf2 o.sz
  let va ← readCell ea s
  fenceGate true true s
  let r ← vaRoute va n needRWA s
  niRoomRemote s
  let s1 := pendA (niPush s va (.amo fn n (zextN n s.bank.a) (zextN n (amoExpected s))) r.1 rel acq r.2 true true)
  .ok (incS o (if fn = .acas then pendZ s1 else s1))

/-- An atomic (R259, R260), by its form. -/
def amoBody (fn : AmoFn) (o : SOp) (s : State) : Body :=
  match o.src with
  | 0#2 => amoLocal fn o s
  | 1#2 => amoSend fn o (o.ea s.bank) none none s
  | 2#2 => acquireBody (fun s => do
      let ext ← ordExtent o.level s
      let s1 ← amoSend fn o (o.eaOrd s.bank) none (some ext) s
      .ok (enterAcquire o s s1)) s
  | _ => do
    let ext ← ordExtent o.level s
    amoSend fn o (o.eaOrd s.bank) (some ext) none s

/-- `AADD` (Table 13.2). -/
def execAadd (o : SOp) (s : State) : Result := word (.aadd o) useA s (amoBody .aadd o)
/-- `AAND` (Table 13.2). -/
def execAand (o : SOp) (s : State) : Result := word (.aand o) useA s (amoBody .aand o)
/-- `AOR` (Table 13.2). -/
def execAor (o : SOp) (s : State) : Result := word (.aor o) useA s (amoBody .aor o)
/-- `AXOR` (Table 13.2). -/
def execAxor (o : SOp) (s : State) : Result := word (.axor o) useA s (amoBody .axor o)
/-- `AMIN` (Table 13.2). -/
def execAmin (o : SOp) (s : State) : Result := word (.amin o) useA s (amoBody .amin o)
/-- `AMAX` (Table 13.2). -/
def execAmax (o : SOp) (s : State) : Result := word (.amax o) useA s (amoBody .amax o)
/-- `AMINU` (Table 13.2). -/
def execAminu (o : SOp) (s : State) : Result := word (.aminu o) useA s (amoBody .aminu o)
/-- `AMAXU` (Table 13.2). -/
def execAmaxu (o : SOp) (s : State) : Result := word (.amaxu o) useA s (amoBody .amaxu o)
/-- `ASWP` (Table 13.2). -/
def execAswp (o : SOp) (s : State) : Result := word (.aswp o) useA s (amoBody .aswp o)
/-- `ACAS` (Table 13.2): it reads V and writes Z. -/
def execAcas (o : SOp) (s : State) : Result := word (.acas o) useAll s (amoBody .acas o)

/-! ### ORDER -/

/-- The request is the issuing context's. -/
def Req.ownedBy (r : Req) (t k run : Nat) : Bool := r.tile == t && r.slot == k && r.run == run

/-- A request of the issuing context is parked by a page fault (R258). -/
def parkedOwn (s : State) : Bool :=
  s.flights.any fun f =>
    (match f.phase with | .parked _ => true | _ => false) && f.req.ownedBy s.tid s.cur s.slot.run

/-- `FENCE` (R243, R261): later accesses of the named classes are held until earlier ones are complete. -/
def fenceBody (arg : BitVec 20) (s : State) : Body := do
  let ext ← ordExtent (arg.extractLsb' 0 4) s
  let kinds := arg.extractLsb' 4 4
  if kinds = 0 ∨ ext ≤ 1 then .ok s
  else do
    await (!parkedOwn s) .fence
    .ok (s.modSlot fun sl =>
      { sl with fences := (sl.fences.filter fun f => sl.accs.any fun a => decide (a.seq < f.seq))
                  ++ [⟨kinds, ext, sl.nextSeq⟩] })
def execFence (arg : BitVec 20) (s : State) : Result := word (.fence arg) useNone s (fenceBody arg)

/-- `WAITC` (R262): every counter that m selects is at most t. -/
def waitcBody (arg : BitVec 20) (s : State) : Body := do
  let t := arg.extractLsb' 4 16
  let sl := s.slot
  await ((!arg.getLsbD 0 || decide (sl.nb ≤ t)) && (!arg.getLsbD 1 || decide (sl.nm ≤ t))
    && (!arg.getLsbD 2 || decide (sl.ne ≤ t))) .counter
  .ok s
def execWaitc (arg : BitVec 20) (s : State) : Result := word (.waitc arg) useNone s (waitcBody arg)

/-- `GTAG` (R263): 0 own, 1 stale, 2 ahead; with c = 1 a stale granule is claimed. -/
def gtagBody (arg : BitVec 20) (s : State) : Body := do
  let a := (s.bank.a.extractLsb' 0 15).toNat
  let c := s.tile.tagClass s.slot.gen (a / 32)
  let claim := arg.getLsbD 0
  let code : Nat := match c with | .own => 0 | .stale => 1 | .ahead => 2
  let s1 ←
    if claim then do
      fenceGate false true s
      check (c != .ahead) causeGenFuture (BitVec.ofNat 64 (a / 32 * 32))
      if c = .stale then liftT (s.spWrite s.tid s.slot.gen (a / 32 * 32) []) else .ok s
    else .ok s
  .ok (s1.setBank { s1.bank with a := BitVec.ofNat 64 code, f := s1.bank.f.setZ (code == 0) })
def execGtag (arg : BitVec 20) (s : State) : Result := word (.gtag arg) useAF s (gtagBody arg)

/-! ### Allocation of generations (R225, R226) -/

/-- Start the sweep for a value. -/
def Tile.startSweep (tl : Tile) (g : BitVec 12) : Tile := { tl with sweepVal := g, sweepPos := 0 }
/-- The sweep visits its next granule. -/
def Tile.sweepStep (tl : Tile) : Tile :=
  if tl.sweepPos < 1024 then
    let tl' := if tl.tag tl.sweepPos = tl.sweepVal then tl.setTag tl.sweepPos 0xFFF else tl
    { tl' with sweepPos := tl.sweepPos + 1 }
  else tl
/-- Take the next value, whose sweep is complete, and start the sweep for the value after it. -/
def Tile.allocate (tl : Tile) : Tile × BitVec 12 :=
  let g := tl.nextValue
  let tl1 := { tl with cur := g }
  (tl1.startSweep tl1.nextValue, g)

/-- The carrying step of `GNEW` (R264). -/
def carry (first last : Nat) (old g : BitVec 12) (tl : Tile) : Tile :=
  (List.range (last + 1 - first)).foldl (fun tl j =>
    if tl.tag (first + j) = old then tl.setTag (first + j) g else tl) tl

/-- Give the issuing slot generation `g`, carry the granules, and write A. -/
def gnewFinish (arg : BitVec 20) (g : BitVec 12) (s : State) : State :=
  let first := (arg.extractLsb' 10 10).toNat
  let last := (arg.extractLsb' 0 10).toNat
  let old := s.slot.gen
  let s1 := { s with tile := if last < first then s.tile else carry first last old g s.tile }
  let s2 := s1.modSlot fun sl => { sl with gen := g, entered := .no }
  s2.setBank { s2.bank with a := g.zeroExtend 64 }

/-- No reply of the context is outstanding, into either bank. -/
def Slot.quiet (sl : Slot) : Bool :=
  !(sl.user.aPend || sl.user.zPend || sl.user.vPend || sl.sup.aPend || sl.sup.zPend || sl.sup.vPend)

/-- `GNEW` (R264): waits until NE = 0 and no reply is outstanding, allocates, carries. -/
def gnewBody (arg : BitVec 20) (s : State) : Body := do
  needThread s
  match s.slot.entered with
  | .gnew (some g) => .ok (gnewFinish arg g s)
  | e => do
    await (decide (e = .gnew none) || (s.slot.ne = 0 && s.slot.quiet)) .quiet
    let g := s.tile.nextValue
    if s.tile.swept g then
      let r := s.tile.allocate
      .ok (gnewFinish arg r.2 { s with tile := r.1 })
    else if e = .gnew none ∧ s.tile.sweepVal = g then .error (.wait .sweep)
    else
      let s1 := if s.tile.sweepVal = g then s else { s with tile := s.tile.startSweep g }
      .error (.waitAfter .sweep (s1.modSlot fun sl => { sl with entered := .gnew none }))
def execGnew (arg : BitVec 20) (s : State) : Result := word (.gnew arg) useA s (gnewBody arg)

end Sys2Proof.Machine
end

