-- ==== Sys2Proof/Machine/Engine.lean ====
section
/-! DEFINITION. PLANE, MACC, COPY, GRAN and COLL (R271 to R283, R298 to R315). -/

namespace Sys2Proof.Machine

/-! ### PLANE -/

/-- `PCFG` (R300). -/
def pcfgBody (o : EOp) (s : State) : Body := do
  holdW o.w s
  .ok (s.setBank { s.bank with pcfg := o.imm.extractLsb' 0 9 })
def execPcfg (o : EOp) (s : State) : Result := word (.pcfg o) useNone s (pcfgBody o)

/-- The issuing context owns MA, or MA_OWNED (R279). -/
def needOwner (s : State) : Except Stop Unit :=
  check (s.tile.ownedBy s.cur) causeMaOwned 0

/-- Granules that `n` bytes at `a` touch. -/
def granulesOf (a n : Nat) : List Nat := if n = 0 then [] else (List.range ((a + n - 1) / 32 + 1 - a / 32)).map (· + a / 32)

/-- The generation check of a span that a command will read (R273, R302). -/
def spanReads (ea n : Nat) (s : State) : Except Stop Unit :=
  (granulesOf ea n).foldlM (fun _ g =>
    match s.tile.tagClass s.slot.gen g with
    | .own => .ok ()
    | .stale => check (!s.slot.gpol) causeStale (BitVec.ofNat 64 ea)
    | .ahead => raise causeGenFuture (BitVec.ofNat 64 ea)) ()

/-- The generation check of a span that a command will write (R302). -/
def spanWrites (ea n : Nat) (s : State) : Except Stop Unit :=
  (granulesOf ea n).foldlM (fun _ g =>
    check (s.tile.tagClass s.slot.gen g != .ahead) causeGenFuture (BitVec.ofNat 64 (32 * g))) ()

/-- Range of a span at an exact address. -/
def spanRange (ea : Int) (n : Nat) : Except Stop Unit :=
  check (0 ≤ ea ∧ ea + n ≤ 32768) causeSpRange (BitVec.ofInt 64 ea)

/-- Enqueue a plane-array command: it waits for a queue entry (R274), counts in NE, and advances its pointers. -/
def planeIssue (o : EOp) (c : PlaneCmd) (s : State) : Body := do
  fenceGate false true s
  await (s.tile.planeQ.length < 2) .plane
  counterRoom s.slot.ne
  let s1 := { s with tile := { s.tile with planeQ := s.tile.planeQ ++ [c] } }
  let s2 := s1.modSlot fun sl => { sl with ne := sl.ne + 1 }
  .ok (s2.setBank (s2.bank.incAll o.i [s2.bank.sel o.pa, s2.bank.sel o.pb]))

/-- `PDOT` (R273, R301). -/
def pdotBody (o : EOp) (s : State) : Body := do
  holdW o.w s
  needOwner s
  let b := s.bank
  let eaA := o.ea b
  let eaB := o.ea2 b
  let nA := if planeDual b.pcfg then 2 * blockA b.pcfg else blockA b.pcfg
  let nB := 8 * blockB b.pcfg
  spanRange eaA nA
  spanRange eaB nB
  check (eaA % 8 = 0) causeAlign (BitVec.ofInt 64 eaA)
  check (eaB % 8 = 0) causeAlign (BitVec.ofInt 64 eaB)
  spanReads eaA.toNat nA s
  spanReads eaB.toNat nB s
  planeIssue o { kind := .pdot, slot := s.cur, run := s.slot.run, cfg := b.pcfg, row := b.sel o.row,
                 ea1 := BitVec.ofInt 15 eaA, ea2 := BitVec.ofInt 15 eaB } s
def execPdot (o : EOp) (s : State) : Result := word (.pdot o) useNone s (pdotBody o)

/-- `PPACK` and `PUNPK` (R302): ea1 is ADDR + 8 · sext(imm10[4:0]). -/
def packBody (kind : PlaneKind) (o : EOp) (s : State) : Body := do
  holdW o.w s
  let b := s.bank
  let ea1 : Int := (b.ptr (b.sel o.pa)).addr.toNat + 8 * (o.imm.extractLsb' 0 5).toInt
  let ea2 := o.ea2 b
  let cfg : BitVec 9 := (o.imm.extractLsb' 5 5).zeroExtend 9
  let c : PlaneCmd := { kind := kind, slot := s.cur, run := s.slot.run, cfg := cfg, row := 0,
                        ea1 := BitVec.ofInt 15 ea1, ea2 := BitVec.ofInt 15 ea2 }
  let n1 := if kind = .ppack then packElems cfg else 8 * packBits cfg
  let n2 := if kind = .ppack then 8 * packBits cfg else packElems cfg
  spanRange ea1 n1
  spanRange ea2 n2
  check (ea1 % 8 = 0) causeAlign (BitVec.ofInt 64 ea1)
  check (ea2 % 8 = 0) causeAlign (BitVec.ofInt 64 ea2)
  spanReads ea1.toNat n1 s
  spanWrites ea2.toNat n2 s
  planeIssue o c s
def execPpack (o : EOp) (s : State) : Result := word (.ppack o) useNone s (packBody .ppack o)
def execPunpk (o : EOp) (s : State) : Result := word (.punpk o) useNone s (packBody .punpk o)

/-! ### MACC -/

/-- The rows that a command adds into. -/
def PlaneCmd.rows (c : PlaneCmd) : List (BitVec 3) :=
  if c.kind = .pdot then (if planeDual c.cfg then [c.row, c.row + 1] else [c.row]) else []
/-- A row awaits an addition (R280). -/
def Tile.rowPending (tl : Tile) (r : BitVec 3) : Bool :=
  (tl.planeQ ++ tl.planeRun.map (·.cmd)).any fun c => c.rows.contains r
/-- MAWM: the lowest pending row, or 8 (R280). -/
def Tile.mawm (tl : Tile) : Nat := ((List.range 8).find? fun r => tl.rowPending (BitVec.ofNat 3 r)).getD 8

def zeroRow : Vector Word 8 := Vector.replicate 8 0

/-- `MACLM` (R279). -/
def maclmBody (o : EOp) (s : State) : Body := do
  holdW o.w s
  let other := s.tile.owner.isSome && !s.tile.ownedBy s.cur
  let s1 := s.setBank { s.bank with f := s.bank.f.setZ other }
  .ok (if s.tile.owner = none then
    { s1 with tile := { s1.tile with owner := some (BitVec.ofNat 3 s.cur), ownerRun := s.slot.run, rel := false } }
  else s1)
def execMaclm (o : EOp) (s : State) : Result := word (.maclm o) useF s (maclmBody o)

/-- `MAREL` (R279, R304). -/
def marelBody (o : EOp) (s : State) : Body := do
  holdW o.w s
  needOwner s
  .ok { s with tile := s.tile.endOwner s.cur }
def execMarel (o : EOp) (s : State) : Result := word (.marel o) useNone s (marelBody o)

/-- `MARD` (R305). -/
def mardBody (o : EOp) (s : State) : Body := do
  holdW o.w s
  needOwner s
  let r := s.bank.sel o.row
  await (decide (r.toNat < s.tile.mawm)) .row
  let row := s.tile.ma[r.toNat]'r.isLt
  let s1 := s.setBank { s.bank with v := maskLanes s.bank.f.m s.bank.v row }
  .ok (if o.imm.getLsbD 0 then { s1 with tile := { s1.tile with ma := s1.tile.ma.set r.toNat zeroRow r.isLt } } else s1)
def execMard (o : EOp) (s : State) : Result := word (.mard o) useV s (mardBody o)

/-- `MAWM` (R306). -/
def mawmBody (o : EOp) (s : State) : Body := do
  holdW o.w s
  needOwner s
  let m := s.tile.mawm
  await (o.imm.toNat ≤ m) .row
  .ok (s.setBank { s.bank with
    a := BitVec.ofNat 64 (m + 256 * s.tile.masat.toNat), f := s.bank.f.setZ (m == 8) })
def execMawm (o : EOp) (s : State) : Result := word (.mawm o) useAF s (mawmBody o)

/-- `MACLR` (R307). -/
def maclrBody (o : EOp) (s : State) : Body := do
  holdW o.w s
  needOwner s
  let rows := (List.range 8).filter fun r => o.imm.getLsbD r
  await (!rows.any fun r => s.tile.rowPending (BitVec.ofNat 3 r)) .row
  let ma := rows.foldl (fun (m : Vector (Vector Word 8) 8) r => m.set! r zeroRow) s.tile.ma
  .ok { s with tile := { s.tile with ma := ma, masat := s.tile.masat && !o.imm.getLsbD 8 } }
def execMaclr (o : EOp) (s : State) : Result := word (.maclr o) useNone s (maclrBody o)

/-! ### COPY and GRAN -/

/-- Four doublewords of a 32-byte command block. -/
def blockWords (bs : List Byte) : Vector DWord 4 :=
  #v[dwordOf (bs.take 8), dwordOf ((bs.drop 8).take 8), dwordOf ((bs.drop 16).take 8), dwordOf ((bs.drop 24).take 8)]

/-- Table 16.1. -/
def copyRows (d : Vector DWord 4) : Nat := (d[2].extractLsb' 24 16).toNat
def copyLen (d : Vector DWord 4) : Nat := (d[2].extractLsb' 0 24).toNat
def copyStride (src : Bool) (d : Vector DWord 4) : Int :=
  if src then (d[3].extractLsb' 32 32).toInt else (d[3].extractLsb' 0 32).toInt
def copyLocal (src : Bool) (d : Vector DWord 4) : Bool := d[2].getLsbD (if src then 47 else 46)
/-- The start of a side: a scratchpad byte or a VA. -/
def copyStart (src : Bool) (d : Vector DWord 4) : Nat :=
  let x := if src then d[0] else d[1]
  let hi := if src then d[2].extractLsb' 56 8 else d[2].extractLsb' 48 8
  if copyLocal src d then (x.extractLsb' 0 15).toNat else (hi ++ x).toNat
/-- The bounding range of a side: its lowest byte and the end. -/
def copyBounds (src : Bool) (d : Vector DWord 4) : Int × Int :=
  let a : Int := copyStart src d
  let z : Int := a + (copyRows d - 1) * copyStride src d
  (min a z, max a z + copyLen d)

/-- No address of a range within one device block has a bit set that must be zero: the range then lies in one place
that the bits above the offset select (R212). -/
def deviceZeroOk (va top : VA) : Bool :=
  let same (n : Nat) : Bool := va.toNat / 2 ^ n == top.toNat / 2 ^ n
  match vaBlock va with
  | 1 => same 16
  | 2 => same 12
  | 3 => same 7
  | _ => true

/-- The address checks of R212 and R161 on a VA range that an engine will read or write (R283, R312). -/
def rangeCheck (lo hi : Int) (block : DWord) (s : State) : Except Stop Unit := do
  let va : VA := BitVec.ofInt 72 lo
  let top : VA := BitVec.ofInt 72 (hi - 1)
  check (0 ≤ lo ∧ hi ≤ 2 ^ 72 ∧
    (vaSpace va = vaSpace top ∨ ((vaSpace va).toNat < 12 ∧ (vaSpace top).toNat < 12))) causeProt block
  let sp := vaSpace va
  let one : Bool :=
    match sp with
    | 0xC#4 => va.extractLsb' 40 32 == top.extractLsb' 40 32
    | 0xD#4 => va.extractLsb' 38 34 == top.extractLsb' 38 34
    | 0xE#4 => va.extractLsb' 60 12 == top.extractLsb' 60 12 && deviceZeroOk va top
    | _ => true
  checkVa (vaZeroOk va && vaZeroOk top && one) causeProt va
  checkVa (s.slot.priv || !(sp == 0xD || sp == 0xE)) causePriv va
  if sp = 0xC then do
    let r := (va.extractLsb' 40 16).toNat
    let e := s.tile.rank r
    checkVa (r < 4096 ∧ e.valid ∧ e.tenant.toNat = s.tile.tenant ∧ va.extractLsb' 56 12 = e.module)
      causeRankInvalid va
  else .ok ()

/-- The PLB check of R214 on the range, where its space has one. -/
def rangePlb (lo hi : Int) (need : Rights) (s : State) : Except Stop Unit :=
  let va : VA := BitVec.ofInt 72 lo
  let sp := vaSpace va
  checkVa (s.slot.priv || sp == 0xC || sp == 0xD || sp == 0xE
    || plbOk s.tile.plb.toList s.slot.dom lo.toNat (hi - lo).toNat need) causeProt va

/-- Which sides of a copy the checks go through: source, then destination. -/
def copySides : List Bool := [true, false]

/-- The checks of R283, in its order. -/
def copyChecks (ea : Nat) (d : Vector DWord 4) (s : State) : Except Stop Unit := do
  let blk := BitVec.ofNat 64 ea
  check (d[2].extractLsb' 40 4 == 0) causeProt blk
  check (copyRows d ≠ 0 ∧ copyLen d ≠ 0) causeProt blk
  check (!copyLocal true d || (d[0].extractLsb' 15 49 == 0 && d[2].extractLsb' 56 8 == 0)) causeProt blk
  check (!copyLocal false d || (d[1].extractLsb' 15 49 == 0 && d[2].extractLsb' 48 8 == 0)) causeProt blk
  check (copyLen d % 8 = 0 ∧ copyStride true d % 8 = 0 ∧ copyStride false d % 8 = 0) causeAlign blk
  copySides.foldlM (fun _ side =>
    if copyStart side d % 8 = 0 then .ok ()
    else if copyLocal side d then raise causeAlign (BitVec.ofNat 64 (copyStart side d))
    else raiseVa causeAlign (BitVec.ofNat 72 (copyStart side d))) ()
  copySides.foldlM (fun _ side =>
    if copyLocal side d then
      let b := copyBounds side d
      check (0 ≤ b.1 ∧ b.2 ≤ 32768) causeSpRange (BitVec.ofInt 64 b.1)
    else .ok ()) ()
  copySides.foldlM (fun _ side =>
    if copyLocal side d then .ok ()
    else rangeCheck (copyBounds side d).1 (copyBounds side d).2 blk s) ()
  copySides.foldlM (fun _ side =>
    if copyLocal side d then .ok ()
    else rangePlb (copyBounds side d).1 (copyBounds side d).2 (if side then needR else needW) s) ()

/-- Read the 32-byte block of a command. -/
def readBlock (o : EOp) (s : State) : Except Stop (Nat × Vector DWord 4) := do
  let bs ← cellRead s (o.ea s.bank) 32 32
  .ok ((o.ea s.bank).toNat, blockWords bs)

/-- A command has entered its queue: NE ← NE + 1, and the pointer advances (R299). -/
def engineDone (o : EOp) (s : State) : State :=
  let s1 := s.modSlot fun sl => { sl with ne := sl.ne + 1 }
  s1.setBank (s1.bank.incAll o.i [s1.bank.sel o.pa])

/-- `CPY` (R308). -/
def cpyBody (o : EOp) (s : State) : Body := do
  holdW o.w s
  let (ea, d) ← readBlock o s
  copyChecks ea d s
  fenceGate false true s
  await (s.tile.copyQ.length < 2) .copyq
  inboxRoom s
  counterRoom s.slot.ne
  let c : Copy := { slot := s.cur, run := s.slot.run, sup := s.slot.priv, tenant := s.tile.tenant, dom := s.slot.dom,
                    block := BitVec.ofNat 15 ea, dw := d, order := (s.getBay (bayOf s.tid)).cyc.toNat, pos := 0, park := none }
  .ok (engineDone o { s with tile := { s.tile with copyQ := s.tile.copyQ ++ [c] } })
def execCpy (o : EOp) (s : State) : Result := word (.cpy o) useNone s (cpyBody o)

/-- `CPYQ` (R309). -/
def cpyqBody (o : EOp) (s : State) : Body := do
  holdW o.w s
  let v := s.slot.inbox.length * 65536 + min s.slot.ne.toNat 255 * 256 + s.tile.copyRun.isSome.toNat * 4
    + (2 - s.tile.copyQ.length)
  .ok (s.setBank { s.bank with a := BitVec.ofNat 64 v })
def execCpyq (o : EOp) (s : State) : Result := word (.cpyq o) useA s (cpyqBody o)

/-- `INBOX` (R311). -/
def inboxBody (o : EOp) (s : State) : Body := do
  holdW o.w s
  let ea := o.ea s.bank
  let _ ← liftT (spAddr ea 16 16)
  fenceGate true false s
  match s.slot.inbox with
  | [] =>
    if s.tile.engineNe s.cur = 0 then
      let s1 := s.setBank { s.bank with a := 0, f := (s.bank.f.setC false).setZ true }
      .ok (s1.setBank (s1.bank.incAll o.i [s1.bank.sel o.pa]))
    else .error (.wait .inbox)
  | r :: rest => do
    let s1 ← cellWrite s ea 16 ((bytesOf 8 r.w0 ++ bytesOf 8 r.w1).map some)
    let s2 := s1.modSlot fun sl => { sl with inbox := rest }
    let s3 := s2.setBank
      { s2.bank with a := r.w0, f := (s2.bank.f.setC true).setZ (r.w0.extractLsb' 48 8 == 0) }
    .ok (s3.setBank (s3.bank.incAll o.i [s3.bank.sel o.pa]))
def execInbox (o : EOp) (s : State) : Result := word (.inbox o) useAF s (inboxBody o)

/-- Bytes of one activation or slab row with its scales (R291, R293). -/
def granRow (type : Bool) : Nat := if type then 1056 else 544

/-- Send a granary command (R312, R313). -/
def granIssue (load : Bool) (o : EOp) (ea : Nat) (d : Vector DWord 4) (s : State) : Body := do
  fenceGate false true s
  inboxRoom s
  counterRoom s.slot.ne
  let g : GranReq := { load := load, tile := s.tid, slot := s.cur, run := s.slot.run, tenant := s.tile.tenant,
                       dom := s.slot.dom, block := BitVec.ofNat 15 ea, dw := #v[d[0], d[1]], park := none }
  .ok (engineDone o { s with gran := s.gran ++ [g] })

/-- `GRNW` (R312). -/
def grnwBody (o : EOp) (s : State) : Body := do
  holdW o.w s
  let (ea, d) ← readBlock o s
  let type := d[1].getLsbD 32
  let rows := (d[1].extractLsb' 16 9).toNat + 1
  let slab : VA := d[1].extractLsb' 56 8 ++ d[0]
  check (d[1].extractLsb' 33 23 == 0 && d[1].extractLsb' 25 7 == 0 && d[1].extractLsb' 12 4 == 0
    && d[2] == 0 && d[3] == 0 && !(type && decide (256 < rows))) causeProt (BitVec.ofNat 64 ea)
  checkVa (slab.toNat % 32 = 0) causeAlign slab
  rangeCheck slab.toNat (slab.toNat + rows * granRow type) (BitVec.ofNat 64 ea) s
  rangePlb slab.toNat (slab.toNat + rows * granRow type) needR s
  granIssue true o ea d s
def execGrnw (o : EOp) (s : State) : Result := word (.grnw o) useNone s (grnwBody o)

/-- Table 17.5. -/
def grnType (d0 : DWord) : Bool := d0.getLsbD 61
def grnRaw (d0 : DWord) : Bool := d0.getLsbD 60
def grnLast (d0 : DWord) : Nat := (d0.extractLsb' 48 9).toNat
def grnFirst (d0 : DWord) : Nat := (d0.extractLsb' 32 9).toNat
def grnDst (d0 : DWord) : Nat := (d0.extractLsb' 16 15).toNat
def grnAct (d0 : DWord) : Nat := (d0.extractLsb' 0 15).toNat
/-- Bytes of results per row. -/
def grnOut (d0 : DWord) : Nat := if grnRaw d0 then 128 else 4

/-- `GRN` (R313). -/
def grnBody (o : EOp) (s : State) : Body := do
  holdW o.w s
  let (ea, d) ← readBlock o s
  let d0 := d[0]
  check (d0.extractLsb' 62 2 == 0 && d0.extractLsb' 57 3 == 0 && d0.extractLsb' 41 7 == 0 && !d0.getLsbD 31
    && !d0.getLsbD 15 && d[1].extractLsb' 12 52 == 0 && d[2] == 0 && d[3] == 0
    && decide (grnFirst d0 ≤ grnLast d0) && !(grnType d0 && decide (255 < grnLast d0))) causeProt (BitVec.ofNat 64 ea)
  spanRange (grnAct d0) (granRow (grnType d0))
  spanRange (grnDst d0) (grnOut d0 * (grnLast d0 + 1 - grnFirst d0))
  check (grnAct d0 % 32 = 0) causeAlign (BitVec.ofNat 64 (grnAct d0))
  check (grnDst d0 % 32 = 0) causeAlign (BitVec.ofNat 64 (grnDst d0))
  granIssue false o ea d s
def execGrn (o : EOp) (s : State) : Result := word (.grn o) useNone s (grnBody o)

/-! ### COLL -/

/-- Join wave `num` of the issuing thread's instance of level `k` (R296). -/
def joinWave (k : BitVec 4) (op : BitVec 2) (num : Nat) (s : State) : State :=
  let ix := s.tile.launchIndex s.cur
  let path := scopePath (s.tile.path s.cur) k.toNat
  let lid := s.tile.lid
  let same (w : WaveRun) : Bool := w.lid == lid && w.level == k && w.path == path && w.num == num
  let ws :=
    if s.waves.any same then
      s.waves.map fun w => if same w then { w with contribs := w.contribs ++ [(ix, op, s.bank.a)] } else w
    else s.waves ++ [{ lid := lid, level := k, path := path, num := num, contribs := [(ix, op, s.bank.a)],
                       acc := none, chain := [], started := false }]
  { s with waves := ws }

/-- `COLL` (R314). -/
def collBody (o : COp) (s : State) : Body := do
  needThread s
  levelCheck o.lvl 6 s
  let has := match s.tile.launch with | some l => l.combs.contains o.lvl | none => false
  check (s.tile.extent o.lvl < 3 || has) causeLevelMismatch (o.lvl.zeroExtend 64)
  check s.slot.wave.isNone causeLevelMismatch 17
  let op := o.imm.extractLsb' 0 2
  if bindAt s.tile.levels o.lvl.toNat = 0 then
    .ok (s.modSlot fun sl => { sl with wave := some ⟨o.lvl, op, s.bank.a, 0, some s.bank.a⟩ })
  else
    let num := (s.slot.waves[o.lvl.toNat]'o.lvl.isLt) + 1
    let s1 := joinWave o.lvl op num s
    .ok (s1.modSlot fun sl =>
      { sl with wave := some ⟨o.lvl, op, s.bank.a, num, none⟩, waves := sl.waves.set o.lvl.toNat num o.lvl.isLt })
def execColl (o : COp) (s : State) : Result := word (.coll o) useA s (collBody o)

/-- `COLLW` (R315). -/
def collwBody (s : State) : Body := do
  needThread s
  match s.slot.wave with
  | none => .ok (s.setBank { s.bank with f := s.bank.f.setZ true })
  | some w =>
    match w.result with
    | none => .error (.wait .wave)
    | some r =>
      .ok ((s.modSlot fun sl => { sl with wave := none }).setBank { s.bank with a := r, f := s.bank.f.setZ false })
def execCollw (o : COp) (s : State) : Result := word (.collw o) useAF s collwBody

end Sys2Proof.Machine
end

