-- ==== Sys2Proof/Machine/System.lean ====
section
/-! DEFINITION. SYS: the runtime's entry and return, special registers, ending, halting, launching, the PLB
(R329, R360 to R371). -/

namespace Sys2Proof.Machine

/-! ### Entering and leaving the runtime -/

/-- The instruction about to complete is followed by a segment end (R24, R99, R361). -/
def atSegmentEnd (b : Bank) : Bool :=
  if b.rpt.count = 0 then b.pc.extractLsb' 0 12 == 4095
  else b.rpt.count == 1 && b.rpt.idx == b.rpt.len && (b.rpt.body + b.rpt.len.zeroExtend 14).extractLsb' 0 12 == 4095

/-- `TRAP` and `SYSC` (R361): complete, then raise; at a segment end CODE_SEGMENT takes their place. -/
def raiseAfter (cause : BitVec 8) (n : BitVec 20) (s : State) : Body :=
  if atSegmentEnd s.bank then .ok s
  else
    let s' := advance false s
    .error (.trapAfter (mkTrap cause (n.zeroExtend 64)) s'.bank.pc s')

def execTrap (arg : BitVec 20) (s : State) : Result := word (.trap arg) useNone s (raiseAfter causeTrap arg)
def execSysc (arg : BitVec 20) (s : State) : Result := word (.sysc arg) useNone s (raiseAfter causeSysc arg)

/-- A context-window access: device block 0x03 of space 0xE (R372). -/
def isContextWindow (va : VA) : Bool := vaSpace va == 0xE && vaBlock va == 3

/-- An earlier context-window access of the issuing context is still to be performed. -/
def windowOwed (s : State) : Bool :=
  s.slot.niq.any (fun r => r.sup && isContextWindow r.va) ||
  s.flights.any fun f =>
    f.req.ownedBy s.tid s.cur s.slot.run && f.req.sup && isContextWindow f.req.va
      && (match f.phase with | .wire => true | _ => false)

/-- `ERET` (R329, R362). -/
def eretBody (s : State) : Body := do
  needSupervisor s
  await (!windowOwed s) .fence
  let sl := s.slot
  if sl.hnd then .ok { s with tile := s.tile.endContext s.cur }
  else
    let u : Bank := { sl.user with pc := sl.tpc }
    let u' := if u.rpt.count ≠ 0 ∧ sl.tpc ≠ u.rpt.body + u.rpt.idx.zeroExtend 14 then { u with rpt := Rpt.reset } else u
    .ok (s.setSlot { sl with priv := false, st := .user, user := u' })
def execEret (arg : BitVec 20) (s : State) : Result := runWord (.eret arg) useNone s id eretBody

/-! ### Special registers (Table 22.2) -/

def TAddrX.toDWord (x : TAddrX) : DWord :=
  BitVec.ofBool x.spchk ++ BitVec.ofBool x.defer ++ x.apc ++ 0#40 ++ x.vax
def TAddrX.ofDWord (w : DWord) : TAddrX :=
  ⟨w.getLsbD 63, w.getLsbD 62, w.extractLsb' 48 14, w.extractLsb' 0 8⟩
def TMsg.toDWord (x : TMsg) : DWord := 0#42 ++ x.q ++ 0#3 ++ BitVec.ofBool x.hold ++ x.mid

/-- The stook of a tile within its bay (R122). -/
def stookOf (t : Nat) : Nat := t % 64 / 4
/-- Table 6.7. -/
def tilePosition (t : Nat) : Nat := dieOf t * 65536 + tileX t * 256 + tileY t
/-- Table 21.2. -/
def Tile.permitReg (tl : Tile) : DWord :=
  0#34 ++ tl.pm.level ++ 0#2 ++ tl.pv.level ++ 0#2 ++ tl.ps.level ++ 0#2 ++ tl.px.level

/-- What the issuing privilege may do with a register. -/
inductive RegAccess where
  | unassigned | closed | ro | rw
deriving DecidableEq, Repr

/-- Table 22.2. -/
def regAccess (sup : Bool) (r : Nat) : RegAccess :=
  if r < 0x0C then .ro
  else if r ≤ 0x10 then (if sup then .rw else .ro)
  else if r = 0x11 then (if sup then .rw else .closed)
  else if r ≤ 0x13 then (if sup then .rw else .ro)
  else if r ≤ 0x17 then .rw
  else if r ≤ 0x1B then .ro
  else if r ≤ 0x1F then .unassigned
  else if r ≤ 0x4F then .ro
  else .unassigned

/-- The content of a special register, as the issuing slot reads it. -/
def readReg (r : Nat) (s : State) : DWord :=
  let sl := s.slot
  let ls := s.tile.levels
  match r with
  | 0x00 => BitVec.ofNat 64 s.cur
  | 0x01 => BitVec.ofNat 64 (tilePosition s.tid)
  | 0x02 => s.tile.lid.zeroExtend 64
  | 0x03 => sl.dom.zeroExtend 64
  | 0x04 => sl.gen.zeroExtend 64
  | 0x05 => (s.getBay (bayOf s.tid)).cyc
  | 0x06 => sl.nb.zeroExtend 64
  | 0x07 => sl.nm.zeroExtend 64
  | 0x08 => sl.ne.zeroExtend 64
  | 0x09 => (s.getBay (bayOf s.tid)).imb.toList.getD (stookOf s.tid) 0
  | 0x0A => (s.getBay (bayOf s.tid)).fill.toList.getD (stookOf s.tid) 0
  | 0x0B => s.tile.permitReg
  | 0x0C => (BitVec.ofBool sl.hnd ++ sl.tcause).zeroExtend 64
  | 0x0D => sl.taddr
  | 0x0E => sl.taddrx.toDWord
  | 0x0F => sl.tpc.zeroExtend 64
  | 0x10 => sl.tmsg.toDWord
  | 0x11 => sl.tvec.zeroExtend 64
  | 0x12 => sl.wdogb.zeroExtend 64
  | 0x13 => (BitVec.ofBool sl.gpol).zeroExtend 64
  | _ =>
    if r < 0x18 then (sl.queue (BitVec.ofNat 2 (r - 0x14))).headReg
    else if r < 0x1C then (sl.queue (BitVec.ofNat 2 (r - 0x18))).tailReg
    else if r < 0x30 then (sl.tc.toList.getD (r - 0x20) 0).zeroExtend 64
    else if r < 0x40 then BitVec.ofNat 64 (fanAt ls (r - 0x30))
    else BitVec.ofNat 64 (bindAt ls (r - 0x40))

/-- Release a held handler queue, advancing past its head message or not (Table 19.4). -/
def releaseQueue (drop : Bool) (k : Nat) (tl : Tile) : Tile :=
  let sl := tl.slot k
  if sl.tmsg.hold then
    let q := sl.tmsg.q
    let tl1 := tl.setSlot k { sl with tmsg := { sl.tmsg with hold := false } }
    let tl2 := { tl1 with hold := tl1.hold.set q.toNat false q.isLt }
    if drop then tl2.setSlot 7 ((tl2.slot 7).setQueue q ((tl2.slot 7).queue q).pop) else tl2
  else tl

/-- The budget of R364: a write of 0 sets 65,536. -/
def budgetOf (n : BitVec 20) : BitVec 20 := if n = 0 then 65536 else n

/-- Write a special register that the issuing privilege may write, by its field rules. -/
def writeReg (r : Nat) (v : DWord) (s : State) : State :=
  let sl := s.slot
  match r with
  | 0x0C => s.setSlot { sl with hnd := v.getLsbD 8, tcause := v.extractLsb' 0 8 }
  | 0x0D => s.setSlot { sl with taddr := v }
  | 0x0E => s.setSlot { sl with taddrx := TAddrX.ofDWord v }
  | 0x0F => s.setSlot { sl with tpc := v.extractLsb' 0 14 }
  | 0x10 =>
    let drop := v.getLsbD 18
    let retry := v.getLsbD 17
    if drop != retry then { s with tile := releaseQueue drop s.cur s.tile } else s
  | 0x11 => if v.extractLsb' 12 2 = 3 then s.setSlot { sl with tvec := v.extractLsb' 0 14 } else s
  | 0x12 => s.setSlot { sl with wdogb := budgetOf (v.extractLsb' 0 20) }
  | 0x13 => s.setSlot { sl with gpol := v.getLsbD 0 }
  | _ =>
    let q := BitVec.ofNat 2 (r - 0x14)
    s.setSlot (sl.setQueue q ((sl.queue q).writeHead v))

/-- The number that a `GETS` or `SETS` names, with its checks (R363). -/
def regCheck (arg : BitVec 20) (s : State) : Except Stop (Nat × RegAccess) := do
  let r := (arg.extractLsb' 0 8).toNat
  let acc := regAccess s.slot.priv r
  check (acc != .unassigned) causeIllegal (s.bank.pc.zeroExtend 64)
  check (acc != .closed) causePriv (BitVec.ofNat 64 r)
  .ok (r, acc)

/-- `GETS` (R363). -/
def getsBody (arg : BitVec 20) (s : State) : Body := do
  let r ← regCheck arg s
  .ok (s.setBank { s.bank with a := readReg r.1 s })
def execGets (arg : BitVec 20) (s : State) : Result := word (.gets arg) useA s (getsBody arg)

/-- `SETS` (R363): ignored where the register is read-only for the privilege. -/
def setsBody (arg : BitVec 20) (s : State) : Body := do
  let r ← regCheck arg s
  .ok (if r.2 = .rw then writeReg r.1 s.bank.a s else s)
def execSets (arg : BitVec 20) (s : State) : Result := word (.sets arg) useA s (setsBody arg)

/-! ### Ending, halting, launching -/

/-- Consume every word that waits at a bound read side of the issuing slot, returning each credit. -/
def discardChan (s : State) (n : BitVec 2) : State :=
  match (s.slot.chan n).r with
  | some e => (s.chanBuf s.tid e).foldl (fun s _ => s.consumeAt s.tid e) s
  | none => s

/-- Mark the thread of a slot ended in its launch. -/
def State.endThread (s : State) (t k : Nat) : State :=
  let lid := (s.getTile t).lid
  { s with launches := s.launches.map fun l =>
      if l.lid = lid ∧ (s.getTile t).launch.isSome then
        { l with threads := l.threads.map fun th => if th.tile = t ∧ th.slot = k then { th with ended := true } else th }
      else l }

/-- Unbind the issuing slot's channels. -/
def unbindAll (s : State) : State := releaseLinks (s.modSlot fun sl => { sl with ch := Vector.replicate 4 Channel.reset })

/-- `EXIT` (R365). -/
def exitBody (s : State) : Body := do
  check (s.slot.st != .handler) causeLevelMismatch 16
  let sl := s.slot
  await (sl.nb = 0 && sl.nm = 0 && sl.ne = 0 && sl.quiet) .quiet
  let s1 := unbindAll ([0#2, 1#2, 2#2, 3#2].foldl discardChan s)
  let s2 := s1.modSlot fun sl => { sl with rq := sl.rq.map fun q => { q with logsz := 0 } }
  let s3 := s2.endThread s.tid s.cur
  .ok { s3 with tile := s3.tile.endContext s.cur }
def execExit (arg : BitVec 20) (s : State) : Result := runWord (.exit arg) useNone s id exitBody

/-- `HALT` (R366): the slot issues nothing more, and a KIND 14 record is written. -/
def haltBody (arg : BitVec 20) (s : State) : Body := do
  needSupervisor s
  let s1 := s.modSlot fun sl => { sl with halted := true }
  .ok (s1.addFault (stopRecord 14 (arg.extractLsb' 0 8) s.bank.pc s.tid s.tile.tenant s.fgen s.slot.dom))
def execHalt (arg : BitVec 20) (s : State) : Result := runWord (.halt arg) useNone s id (haltBody arg)

/-- The tenant that a queue is bound to, with its count of accepted records; 512 where it is bound to none. -/
def queueNone : Nat × BitVec 20 := (512, 0)
def State.queueOf (s : State) (q : Nat) : Nat × BitVec 20 := SMap.get queueNone s.queues q

/-- Eight doublewords of a launch record. -/
def recordOf (bs : List Byte) : Vector DWord 8 := vec8 fun i => dwordOf ((bs.drop (8 * i)).take 8)

/-- `LAUNCH` (R367): the record is one access of 64 bytes, and an error in either granule names its first byte. -/
def launchBody (arg : BitVec 20) (s : State) : Body := do
  let q := (arg.extractLsb' 0 9).toNat
  let a := (s.bank.a.extractLsb' 0 15).toNat
  let _ ← liftT (spAddr a 64 64)
  planeGate false a 64 s
  let at_ (t : Trap) : Trap := { t with addr := BitVec.ofNat 64 a }
  let lo ← liftT ((s.spRead s.tid s.slot.gen s.slot.gpol a 32).mapError at_)
  let hi ← liftT ((s.spRead s.tid s.slot.gen s.slot.gpol (a + 32) 32).mapError at_)
  fenceGate false true s
  check ((s.queueOf q).1 = s.tile.tenant) causePermission (BitVec.ofNat 64 q)
  inboxRoom s
  counterRoom s.slot.ne
  let sub : HubSub := { tile := s.tid, slot := s.cur, run := s.slot.run, seq := s.slot.nextSeq, q := q, vf := tileVf s s.tid,
                        dw := recordOf (lo ++ hi), block := BitVec.ofNat 15 a, answer := none }
  let s1 := s.modSlot fun sl => { sl with ne := sl.ne + 1, nextSeq := sl.nextSeq + 1 }
  .ok { s1 with subs := s1.subs ++ [sub] }
def execLaunch (arg : BitVec 20) (s : State) : Result := word (.launch arg) useA s (launchBody arg)

/-- `WDOG` (R368). -/
def wdogBody (n : BitVec 20) (s : State) : Body :=
  let sl := s.slot
  if sl.priv then
    .ok ((s.modSlot fun x => { x with wdogb := budgetOf n }).setBank { s.bank with a := sl.wdogb.zeroExtend 64 })
  else if sl.st = .handler then
    let s1 := s.setBank { s.bank with a := sl.hleft.zeroExtend 64 }
    .ok (if n = 0 then s1 else s1.modSlot fun x => { x with hleft := if n < x.hleft then n else x.hleft })
  else if n ≠ 0 then raise causePriv 0
  else .ok (s.setBank { s.bank with a := sl.wdogb.zeroExtend 64 })
def execWdog (arg : BitVec 20) (s : State) : Result := word (.wdog arg) useA s (wdogBody arg)

/-- `METR` (R369): A is pending until the hub's reply. With OTHER = 0 the tenant field is not read, and any value of it is
accepted (assumption 13). -/
def metrBody (arg : BitVec 20) (s : State) : Body := do
  let other := arg.getLsbD 13
  check (!other || s.slot.priv) causePriv 0
  let tenant := if other then (arg.extractLsb' 4 9).toNat else s.tile.tenant
  let r : MetrReq := { tile := s.tid, slot := s.cur, run := s.slot.run, sup := s.slot.priv, seq := s.slot.nextSeq,
                       tenant := tenant, idx := (arg.extractLsb' 0 4).toNat, value := none }
  let s1 := pendA (s.modSlot fun sl => { sl with nextSeq := sl.nextSeq + 1 })
  .ok { s1 with metr := s1.metr ++ [r] }
def execMetr (arg : BitVec 20) (s : State) : Result := word (.metr arg) useA s (metrBody arg)

/-! ### The protection lookaside buffer (R370, R371) -/

/-- A PLB entry from its two doublewords (Table 11.2). -/
def Plb.ofDWords (lo hi : DWord) : Plb :=
  { base := hi.extractLsb' 0 56, valid := lo.getLsbD 63, r := lo.getLsbD 59, w := lo.getLsbD 58, a := lo.getLsbD 57,
    logsz := lo.extractLsb' 50 7, dom := lo.extractLsb' 0 16 }

/-- The BASE check of R370. -/
def Plb.malformed (e : Plb) : Bool :=
  e.valid && decide (16 ≤ e.logsz.toNat) && decide (e.logsz.toNat ≤ 72)
    && decide (e.base.toNat % 2 ^ (e.logsz.toNat - 16) ≠ 0)

/-- `PLBW` (R370). -/
def plbwBody (arg : BitVec 20) (s : State) : Body := do
  needSupervisor s
  let a := (s.bank.a.extractLsb' 0 15).toNat
  let bs ← memRead s a 16 16
  let e := Plb.ofDWords (dwordOf (bs.take 8)) (dwordOf (bs.drop 8))
  check (!e.malformed) causeProt (BitVec.ofNat 64 a)
  .ok { s with tile := { s.tile with plb := s.tile.plb.set! (arg.extractLsb' 0 4).toNat e } }
def execPlbw (arg : BitVec 20) (s : State) : Result := word (.plbw arg) useA s (plbwBody arg)

/-- `PLBI` (R371): clears VALID. -/
def plbiBody (arg : BitVec 20) (s : State) : Body := do
  needSupervisor s
  let clear (e : Plb) : Plb := { e with valid := false }
  let plb := s.tile.plb
  let plb' :=
    if arg.extractLsb' 4 2 = 0 then plb.set! (arg.extractLsb' 0 4).toNat
      (clear (plb.toList.getD (arg.extractLsb' 0 4).toNat Plb.reset))
    else if arg.extractLsb' 4 2 = 1 then plb.map clear
    else plb.map fun e => if e.dom = s.bank.a.extractLsb' 0 16 then clear e else e
  .ok { s with tile := { s.tile with plb := plb' } }
def execPlbi (arg : BitVec 20) (s : State) : Result := word (.plbi arg) useA s (plbiBody arg)

end Sys2Proof.Machine
end

