-- ==== Sys2Proof/Machine/Context.lean ====
section
/-! DEFINITION. What happens to a tile's contexts at boundaries: pending events and trap entry (R327),
pre-emption, handler dispatch and budgets (R165, R184), pauses, barriers and ALIGN (R192, R198), the sweep
(R226), and the runtime's release of queues and overflow records (R329, R373, R415). -/

namespace Sys2Proof.Machine

/-- Act as a given context, and come back to the focus that stood. -/
def inCtx (t k : Nat) (f : State → State) (s : State) : State :=
  { (f { s.focus t with cur := Fin.ofNat 8 k }).focus s.tid with cur := s.cur }

/-- The context is at an instruction boundary: it is not inside an acquire or an allocation (R173, R412), nor between
a prefix and its successor (R74). -/
def Slot.atBoundary (sl : Slot) : Bool :=
  sl.pre.isNone && match sl.entered with
  | .no | .barrier | .align _ _ => true
  | .acquire _ _ _ _ | .gnew _ => false

/-! ### Pending events (R327) -/

/-- %TADDR of RQ_OVERFLOW (Table 19.6). -/
def overflowAddr (q : Nat) (rq : RQueue) : DWord :=
  0#30 ++ BitVec.ofBool rq.ahead ++ BitVec.ofBool rq.lost ++ rq.mid ++ BitVec.ofNat 16 q

/-- The tile has handler queues: the launch's H is not 0 (R164). -/
def Tile.hasHandlers (tl : Tile) : Bool := match tl.launch with | some l => l.h != 0 | none => false

/-- The slots whose queues report to slot `k`: its own, and slot 7's handler queues to the lowest user slot (R168). -/
def reportSlots (tl : Tile) (k : Nat) : List Nat :=
  (if k = 7 && tl.hasHandlers then [] else [k]) ++ (if k = 0 && tl.hasHandlers then [7] else [])

/-- The queue whose overflow slot `k` reports next: the lowest-numbered, its own before a handler queue (R327). -/
def nextReport (tl : Tile) (k : Nat) : Option (Nat × Nat) :=
  ((List.range 4).flatMap fun q => (reportSlots tl k).map fun j => (j, q)).find? fun jq =>
    ((tl.slot jq.1).rq.toList.getD jq.2 RQueue.reset).report

/-- The context's handler budget is exhausted. -/
def Slot.overBudget (sl : Slot) : Bool := sl.st == .handler && sl.hout

/-- A trap is pending for slot `k` (events 1 to 5). -/
def Tile.trapPending (tl : Tile) (k : Nat) : Bool :=
  let sl := tl.slot k
  sl.overBudget || !sl.derr.isEmpty || !sl.perr.isEmpty || !sl.merr.isEmpty
    || (nextReport tl k).isSome

/-- Take the first pending trap of the issuing slot, in the order of R327. -/
def takePending (s : State) : State :=
  let sl := s.slot
  if sl.overBudget then trapHere (mkTrap causeWatchdog 0) (s.modSlot fun x => { x with hout := false })
  else match sl.derr with
  | e :: r => trapHere e.trap (s.modSlot fun x => { x with derr := r })
  | [] => match sl.perr with
    | e :: r => trapHere e.trap (s.modSlot fun x => { x with perr := r })
    | [] => match sl.merr with
      | e :: r => trapHere e.trap (s.modSlot fun x => { x with merr := r })
      | [] => match nextReport s.tile s.cur with
        | some (j, q) =>
          let qb := BitVec.ofNat 2 q
          let rq := (s.tile.slot j).queue qb
          let tl := s.tile.setSlot j ((s.tile.slot j).setQueue qb { rq with report := false, lost := false, ahead := false })
          trapHere (mkTrap causeRqOverflow (overflowAddr q rq)) { s with tile := tl }
        | none => s

/-- The context runs in user privilege and stands at a boundary. -/
def Slot.interruptible (sl : Slot) : Bool := sl.running && !sl.priv && sl.atBoundary

/-- A request of the context in a slot is parked by a page fault (R222). -/
def parkedReq (s : State) (t k : Nat) : Bool :=
  s.flights.any fun f =>
    (match f.phase with | .parked _ => true | _ => false) && f.req.ownedBy t k (s.slotAt t k).run
/-- A handler over its budget that waits inside an acquire for a parked request: it aborts there (R184, R328). -/
def abortDue (s : State) (t k : Nat) : Bool :=
  let sl := s.slotAt t k
  sl.running && !sl.priv && sl.overBudget && sl.acquiring && parkedReq s t k

/-- Enter STOPPING at the pre-emption request (R343); the request comes after every pending trap. -/
def stopSlot (sl : Slot) : Slot :=
  { sl with st := .stopping, stopReq := false, wait := none, timer := 0,
            entered := match sl.entered with | .acquire p q e d => .acquire p q e d | _ => .no }
/-- The circuit is parked, or asleep, or its rank in transit: what the NI holds for it stays (R171, R348). -/
def Req.blocked (s : State) (r : Req) : Bool :=
  match r.route with
  | .tile die cid _ _ =>
    let c := s.circuit (circuitKey die cid)
    c.parked || c.asleep || (match r.op with | .msg _ _ => ((s.getTile r.tile).rank r.rank).transit | _ => false)
  | _ => false
/-- Two requests travel on one circuit. Memory circuits are a bay's; the configuration circuit is taken slot by slot. -/
def sameCircuit (a b : Req) : Bool :=
  match a.route, b.route with
  | .tile d c _ _, .tile d' c' _ _ => d == d' && c == c'
  | .mem, .mem => bayOf a.tile == bayOf b.tile
  | .config, .config => a.tile == b.tile && a.slot == b.slot
  | _, _ => false
/-- A request waits for an earlier one that the NI holds: on one circuit, as a release (R241), or in the order of what a
save held (R348). -/
def Req.waitsBehind (s : State) (r x : Req) : Bool :=
  decide (x.uid < r.uid) && (sameCircuit x r
    || (x.slot == r.slot && (r.rel.isSome || decide (r.seq < (s.slotAt r.tile r.slot).heldTo))))
/-- Requests in the order of their issue. -/
def insertReq (r : Req) : List Req → List Req
  | [] => [r]
  | x :: xs => if r.uid < x.uid then r :: x :: xs else x :: insertReq r xs
/-- The requests that a tile's NI holds and cannot inject while circuits stay parked: the blocked, and what waits behind
them. -/
def heldBack (s : State) (t : Nat) : List Req :=
  ((((s.getTile t).slots.toList.flatMap (·.niq)).foldl (fun l r => insertReq r l) [])).foldl (fun held r =>
    if r.blocked s || held.any (r.waitsBehind s) then held ++ [r] else held) []
/-- An acquire whose request the NI holds so: the context is waiting, and its request is saved (R258, R348). -/
def acquireHeld (s : State) (t k : Nat) : Bool :=
  let sl := s.slotAt t k
  sl.acquiring && (heldBack s t).any fun r => r.acq.isSome && r.slot == k && r.run == sl.run
/-- `PREEMPTION_EVENT` (R327, R343): at a boundary at which no trap is pending, or at once where the context waits in an
acquire that is held. -/
def preemptionBody (t k : Nat) (s : State) : Option State :=
  let tl := s.getTile t
  let sl := tl.slot k
  if sl.st == .user && sl.stopReq && sl.running && !sl.priv && ((sl.atBoundary && !tl.trapPending k) || acquireHeld s t k) then
    some (s.modSlotAt t k stopSlot)
  else none
def execPreemptionEvent (t k : Nat) (s : State) : Result := event (ctxOk t k) s (preemptionBody t k)

/-! ### Handlers (R115, R165, R184) -/

/-- Effective priority of the head of handler queue `q`: PRIO plus one per 64 tile cycles waited, up to 7. -/
def effectivePrio (s : State) (t : Nat) (q : BitVec 2) : Nat :=
  let tl := s.getTile t
  let e := tl.tagEntry (hdrTag (headHeader s t (tl.handlerQueue q)))
  min 7 (e.prio.toNat + (tl.handlerQueue q).headAge / 64)

/-- The head of queue `q` is a candidate. One whose header fails its check names no handler (assumption 104). -/
def isCandidate (tl : Tile) (q : BitVec 2) : Bool :=
  !tl.bad.contains ((tl.handlerQueue q).head.toNat / 8) && !(tl.handlerQueue q).empty && !tl.queueRunning q && !(tl.hold[q.toNat]'q.isLt)

/-- The candidate to dispatch: the highest effective priority, then the lower queue number, among those that the tile
has seen for 8 tile cycles. -/
def bestCandidate (s : State) (t : Nat) : Option (BitVec 2) :=
  [0#2, 1#2, 2#2, 3#2].foldl (fun best q =>
    if isCandidate (s.getTile t) q && decide (8 ≤ ((s.getTile t).handlerQueue q).headAge) then
      match best with
      | some b => if effectivePrio s t b < effectivePrio s t q then some q else best
      | none => some q
    else best) none

/-- A free handler slot, while fewer than min(H, 4) handlers run. -/
def freeHandlerSlot (tl : Tile) : Option Nat :=
  match tl.launch with
  | some l =>
    let h := l.h.toNat
    let hs := (List.range h).map (· + (8 - h))
    let busy := (hs.filter fun k => (tl.slot k).st != .empty).length
    if busy < min h 4 then hs.find? fun k => (tl.slot k).st == .empty else none
  | none => none

/-- The coordinates a handler reads: those of its tile at levels bound to tile and above (Table 6.6). -/
def handlerCoords (tl : Tile) : Vector (BitVec 16) 16 :=
  Vector.ofFn fun (i : Fin 16) => if 2 ≤ bindAt tl.levels i ∧ i < tl.levels.length then (tl.slot 0).tc[i] else 0

/-- The context of a handler at its start (R28, R116, R165). -/
def startHandler (tl : Tile) (l : TileLaunch) (sl : Slot) (q : BitVec 2) (hdr : DWord) (e : TagEntry) : Slot :=
  let b := { Bank.reset with pc := e.hpc, a := hdr }
  { sl with st := .handler, priv := false, halted := false, user := b.setPtr 0 ⟨8, (tl.handlerQueue q).head⟩,
            gen := l.gen, dom := l.dom, gpol := l.gpol, tc := handlerCoords tl, hq := q, hleft := sl.wdogb, hout := false,
            inbox := [], drop := 0, hint := 0, held := [], run := sl.run + 1, firstSeq := sl.nextSeq, fences := [],
            pre := none, busy := [], ask := none }

/-- The launch on a tile is being saved: it dispatches no handler (R343). -/
def tileSaving (s : State) (t : Nat) : Bool :=
  match (s.getTile t).launch with
  | some l => (match s.findLaunch l.lid with | some r => r.st == .saving | none => false)
  | none => false

/-- `HANDLER_DISPATCH` (R165). -/
def handlerDispatchBody (t : Nat) (s : State) : Option State := do
  let tl := s.getTile t
  let l ← tl.launch
  if tileSaving s t then none
  let k ← freeHandlerSlot tl
  let q ← bestCandidate s t
  let hdr := headHeader s t (tl.handlerQueue q)
  let sl := startHandler tl l (tl.slot k) q hdr (tl.tagEntry (hdrTag hdr))
  some (s.setTile t (tl.setSlot k sl))
def execHandlerDispatch (t : Nat) (s : State) : Result := event (tileOk t) s (handlerDispatchBody t)

/-- `WATCHDOG` (R184): raised at the boundary after the budget is exhausted. -/
def watchdogBody (t k : Nat) (s : State) : Option State :=
  let sl := s.slotAt t k
  if sl.st == .handler && sl.hout && (sl.interruptible || abortDue s t k) then some (inCtx t k takePending s) else none
def execWatchdog (t k : Nat) (s : State) : Result := event (ctxOk t k) s (watchdogBody t k)

/-- The last paused cycle has passed: the pause is over. -/
def Slot.endPause (sl : Slot) : Slot := if sl.pauseDue then { sl with pause := 0, pauseDue := false } else sl
/-- A tile cycle passes for a pause: its last leaves the count at 1, to be ended before the next. -/
def Slot.tickPause (sl : Slot) : Slot :=
  if 1 < sl.pause then { sl with pause := sl.pause - 1 } else if sl.pause = 1 then { sl with pauseDue := true } else sl
/-- `PAUSE_EXPIRY` (R194). -/
def pauseExpiryBody (t k : Nat) (s : State) : Option State :=
  if (s.slotAt t k).pauseDue then some (s.modSlotAt t k Slot.endPause) else none
def execPauseExpiry (t k : Nat) (s : State) : Result := event (ctxOk t k) s (pauseExpiryBody t k)

/-! ### Barriers and ALIGN (R191, R192, R198) -/

/-- A thread belongs to the scope instance that a path names. -/
def Thread.inScope (th : Thread) (path : List Nat) : Bool := th.path.take path.length == path

/-- Every thread of the instance has joined or ended. -/
def episodeDone (l : Launch) (e : Episode) : Bool :=
  l.threads.all fun th => !th.inScope e.path || th.ended || e.joined.contains (radix l.levels th.path)

/-- Mark the open join of a thread completed. -/
def completeJoin (level : BitVec 4) (sl : Slot) : Slot :=
  match sl.join with
  | some j => if j.level = level then { sl with join := some { j with completed := true } } else sl
  | none => sl

/-- `BARRIER_COMPLETION` (R191, R192): while its launch is being saved or is pre-empted, an episode keeps its joins (R193). -/
def barrierCompletionBody (n : Nat) (s : State) : Option State := do
  let e ← s.episodes[n]?
  let l ← s.findLaunch e.lid
  if l.st == .running && episodeDone l e then
    let s1 := l.threads.foldl (fun s th =>
      if th.inScope e.path && !th.ended then s.modSlotAt th.tile th.slot (completeJoin e.level) else s) s
    some { s1 with episodes := s1.episodes.eraseIdx n }
  else none
def execBarrierCompletion (n : Nat) (s : State) : Result := event true s (barrierCompletionBody n)

/-- The level of the open join, as a doubleword. -/
def joinLevel (sl : Slot) : DWord := match sl.join with | some j => j.level.zeroExtend 64 | none => 0

/-- `BARRIER_TIMEOUT` (R191, R192): the join stays open. -/
def barrierTimeoutBody (t k : Nat) (s : State) : Option State :=
  let sl := s.slotAt t k
  if sl.entered = .barrier && decide (sl.timer ≤ 1) && !(match sl.join with | some j => j.completed | none => false) then
    some (inCtx t k (fun s => trapHere (mkTrap causeBarrierTimeout (joinLevel s.slot)) (setTimer 0 s)) s)
  else none
def execBarrierTimeout (t k : Nat) (s : State) : Result := event (ctxOk t k) s (barrierTimeoutBody t k)

/-- The running threads of the scope that lie on the issuing thread's bay. -/
def alignGroup (s : State) (t k : Nat) (level : BitVec 4) : List Thread :=
  let tl := s.getTile t
  match s.findLaunch tl.lid with
  | some l =>
    let path := scopePath (tl.path k) level.toNat
    l.threads.filter fun th => bayOf th.tile == bayOf t && !th.ended && th.inScope path
  | none => []

/-- Waiting at an `ALIGN` with a given PC. -/
def Slot.alignedAt (sl : Slot) (pc : BitVec 14) : Bool :=
  match sl.entered with | .align _ _ => sl.bank.pc == pc | _ => false
def releaseAlign (sl : Slot) : Slot :=
  match sl.entered with | .align _ k => { sl with entered := .align true k } | _ => sl

/-- `ALIGN_RELEASE` (R198): all members released together. -/
def alignReleaseBody (t k : Nat) (s : State) : Option State :=
  let sl := s.slotAt t k
  match sl.entered with
  | .align false level =>
    let g := alignGroup s t k level
    if g.all fun th => (s.slotAt th.tile th.slot).alignedAt sl.bank.pc then
      some ((g.foldl (fun s th => s.modSlotAt th.tile th.slot releaseAlign) s).modSlotAt t k releaseAlign)
    else none
  | _ => none
def execAlignRelease (t k : Nat) (s : State) : Result := event (ctxOk t k) s (alignReleaseBody t k)

/-- `ALIGN_TIMEOUT` (R198). -/
def alignTimeoutBody (t k : Nat) (s : State) : Option State :=
  let sl := s.slotAt t k
  match sl.entered with
  | .align false _ => if sl.timer ≤ 1 then some (s.modSlotAt t k releaseAlign) else none
  | _ => none
def execAlignTimeout (t k : Nat) (s : State) : Result := event (ctxOk t k) s (alignTimeoutBody t k)

/-! ### Generations and scratchpad upkeep -/

/-- `GNEW_ALLOCATION` (R225): the sweep for the next value has finished; CUR takes it and the next sweep starts. Where
another value has become the next, its sweep starts. -/
def gnewAllocationBody (t k : Nat) (s : State) : Option State :=
  let tl := s.getTile t
  let sl := tl.slot k
  if sl.entered = .gnew none then
    if tl.swept tl.nextValue then
      let r := tl.allocate
      some (s.setTile t (r.1.setSlot k { sl with entered := .gnew (some r.2) }))
    else if tl.sweepVal = tl.nextValue then none
    else some (s.setTile t (tl.startSweep tl.nextValue))
  else none
def execGnewAllocation (t k : Nat) (s : State) : Result := event (ctxOk t k) s (gnewAllocationBody t k)

/-- `GENERATION_SWEEP` (R226). -/
def generationSweepBody (t : Nat) (s : State) : Option State :=
  if (s.getTile t).sweepPos < 1024 then some (s.modTile t Tile.sweepStep) else none
def execGenerationSweep (t : Nat) (s : State) : Result := event (tileOk t) s (generationSweepBody t)

/-- The bank of a scratchpad doubleword: address bits [9:3] (R20). -/
def bankOf (d : Nat) : Nat := d % 128

/-- `SCRATCHPAD_WRITEBACK` (R231): the corrected word is written back. The correction counts in its bank; the
sixteenth within 2^24 tile cycles retires the bay (R394). -/
def writebackTile (cyc : Nat) (tl : Tile) : Tile :=
  match tl.corr with
  | d :: r =>
    let l := (cyc :: SMap.get [] tl.bankErr (bankOf d)).take 16
    { tl with corr := r, bankErr := SMap.set [] tl.bankErr (bankOf d) l,
              retire := tl.retire || (l.length == 16 && decide (cyc ≤ l.getLastD 0 + 2 ^ 24)) }
  | [] => tl
def scratchpadWritebackBody (t : Nat) (s : State) : Option State :=
  if (s.getTile t).corr.isEmpty then none
  else some (s.modTile t (writebackTile (s.getBay (bayOf t)).cyc.toNat))
def execScratchpadWriteback (t : Nat) (s : State) : Result :=
  event (tileOk t) s (scratchpadWritebackBody t)

/-! ### The runtime's writes to queues and the overflow ring -/

/-- `RQH_WRITE` (R167). -/
def rqhWriteBody (t k q : Nat) (v : DWord) (s : State) : Option State :=
  some (s.modSlotAt t k fun sl => sl.setQueue (BitVec.ofNat 2 q) ((sl.queue (BitVec.ofNat 2 q)).writeHead v))
def execRqhWrite (t k q : Nat) (v : BitVec 64) (s : State) : Result := event (ctxOk t k && decide (q < 4)) s (rqhWriteBody t k q v)

/-- `TMSG_DROP` and `TMSG_RETRY` (R329, Table 19.4): ignored while HOLD is 0. -/
def tmsgBody (drop : Bool) (t k : Nat) (s : State) : Option State :=
  if (s.slotAt t k).tmsg.hold then some (s.modTile t (releaseQueue drop k)) else none
def execTmsgDrop (t k : Nat) (s : State) : Result := event (ctxOk t k) s (tmsgBody true t k)
def execTmsgRetry (t k : Nat) (s : State) : Result := event (ctxOk t k) s (tmsgBody false t k)

def Tile.ovfRec (tl : Tile) (ix : Nat) : OvfRec := tl.ring.toList.getD ix OvfRec.reset
def Tile.freeOvfRec (tl : Tile) (ix : Nat) : Tile := { tl with ring := tl.ring.set! ix { tl.ovfRec ix with valid := false } }

/-- `OINFO_FREE` (R373): a record of a slot whose thread has ended, or of no launch, counts as lost (R415). -/
def oinfoFreeTile (ix : Nat) (tl : Tile) : Tile :=
  let r := tl.ovfRec ix
  if r.valid then
    let tl1 := tl.freeOvfRec ix
    let handlerQ := r.slot = 7 && tl.hasHandlers
    if tl.launch.isNone || ((tl.slot r.slot.toNat).st == .empty && !handlerQ) then tl1.meter 10 1 else tl1
  else tl
def oinfoFreeBody (t ix : Nat) (s : State) : Option State := some (s.modTile t (oinfoFreeTile ix))
def execOinfoFree (t ix : Nat) (s : State) : Result := event (tileOk t && decide (ix < 8)) s (oinfoFreeBody t ix)

/-- `OINFO_REDO` (R373, R415): redelivery, as a new arrival (assumption 21); refused, and the report to be armed again, while the queue is full. -/
def redoRecord (s : State) (t ix : Nat) : State :=
  let tl := s.getTile t
  let r := tl.ovfRec ix
  if !r.valid then s
  else
    let k := r.slot.toNat
    let handlerQ := r.slot = 7 && tl.hasHandlers
    let rq := (tl.slot k).queue r.q
    if rq.full then s.modSlotAt t k (·.setQueue r.q { rq with rearm := true })
    else
      let s := s.modTile t Tile.countArrival
      let g := tl.stampGen k handlerQ
      let s1 := if s.recordAhead t k r.q g then s.divert t k r.q r.words true else s.putRecord t k r.q g r.words
      s1.modTile t (·.freeOvfRec ix)
def oinfoRedoBody (t ix : Nat) (s : State) : Option State := some (redoRecord s t ix)
def execOinfoRedo (t ix : Nat) (s : State) : Result := event (tileOk t && decide (ix < 8)) s (oinfoRedoBody t ix)

/-- `OOVF_CLEAR` (R373): W1C, bit 4s + q. -/
def oovfClearTile (v : DWord) (tl : Tile) : Tile :=
  (List.range 32).foldl (fun tl i =>
    if v.getLsbD i then
      let q := BitVec.ofNat 2 i
      let sl := tl.slot (i / 4)
      tl.setSlot (i / 4) (sl.setQueue q { sl.queue q with ovf := false, report := false, rearm := false })
    else tl) tl
def oovfClearBody (t : Nat) (v : DWord) (s : State) : Option State := some (s.modTile t (oovfClearTile v))
def execOovfClear (t : Nat) (v : BitVec 64) (s : State) : Result := event (tileOk t) s (oovfClearBody t v)

end Sys2Proof.Machine
end

