-- ==== Sys2Proof/Machine/Fetch.lean ====
section
/-! DEFINITION. Fetching from the loft (R24, R72 to R76, R79), and the bay's broadcast port (R135). -/

namespace Sys2Proof.Machine

/-- What a context finds at its PC: an instruction with its first word, or the trap of its fetch. -/
inductive Fetched where
  | instr (i : Instr) (word : Word) (pair : Bool)
  | trap (t : Trap)

/-- Loft bytes of a bay from a word index on. -/
def loftBytes (s : State) (bay pc n : Nat) : List Byte := readBytes s.mem (loftBase bay + 4 * pc) n
/-- One loft word. -/
def loftWord (s : State) (bay pc : Nat) : Word := wordOf (loftBytes s bay pc 4)

/-- The word is a prefix (R73, R74). -/
def isPair (w : Word) : Bool := majorOf w == 1

/-- A user context may not fetch from segment 3 (R24). -/
def fetchBarred (sl : Slot) : Bool := !sl.priv && decide (0x3000 ≤ sl.bank.pc.toNat)

/-- Decode the bytes at a PC (R72, R75, R76). -/
def decodeAt (pc : BitVec 14) (bytes : List Byte) : Fetched :=
  let w := wordOf (bytes.take 4)
  if isPair w && pc.extractLsb' 0 12 == 4095 then .trap (mkTrap causeCodeSegment (BitVec.ofNat 64 (pc.toNat + 1)))
  else match decode bytes with
  | .ok (i, n) => .instr i w (n == 8)
  | .error .illegalNext => .trap (mkTrap causeIllegal (BitVec.ofNat 64 (pc.toNat + 1)))
  | .error _ => .trap (mkTrap causeIllegal (pc.zeroExtend 64))

/-- The fetch of the issuing context: a successor is what was fetched with its prefix (R79). -/
def fetch (s : State) : Fetched :=
  let pc := s.bank.pc
  match s.slot.pre with
  | some (p, w) => decodeAt pc (bytesOf 4 p ++ bytesOf 4 w)
  | none =>
  if fetchBarred s.slot then .trap (mkTrap causePriv (pc.zeroExtend 64))
  else decodeAt pc (loftBytes s (bayOf s.tid) pc.toNat 8)

/-! ### Lines (R135) -/

/-- The lines a context needs for its next instruction: one, or two for a pair that spans them. -/
def linesNeeded (s : State) (bay : Nat) (pc : BitVec 14) : List Nat :=
  let l := pc.toNat / 4
  if pc.toNat % 4 = 3 ∧ pc.toNat % 4096 ≠ 4095 ∧ isPair (loftWord s bay pc.toNat) then [l, l + 1] else [l]

/-- The context's next instruction lies in its fetch buffer, or has been fetched with its prefix (R79), or its fetch is
barred. -/
def Slot.lineReady (s : State) (t : Nat) (sl : Slot) : Bool :=
  fetchBarred sl || sl.pre.isSome || (linesNeeded s (bayOf t) sl.bank.pc).all fun l => sl.lines.contains l

/-- A context that is not ready for want of its line. -/
def Slot.wantsLine (s : State) (t : Nat) (sl : Slot) : Bool := sl.running && !sl.lineReady s t

/-- The tiles of a bay that hold more than the reset state, the focus tile among them, in ascending order. -/
def State.bayTiles (s : State) (bay : Nat) : List Nat :=
  let os := (s.others.map (·.1)).filter fun t => bayOf t == bay
  if bayOf s.tid = bay then os.filter (· < s.tid) ++ s.tid :: os.filter (s.tid < ·) else os

/-- A context whose PC has left its line requests the new one, with the age of the request; a request that no longer
stands is gone. -/
def Slot.request (s : State) (t fc : Nat) (sl : Slot) : Slot :=
  let line := sl.bank.pc.toNat / 4
  if sl.wantsLine s t then
    match sl.ask with
    | some (l, f) => if l = line then { sl with ask := some (l, f) } else { sl with ask := some (line, fc) }
    | none => { sl with ask := some (line, fc) }
  else { sl with ask := none }
def Tile.request (s : State) (t : Nat) (tl : Tile) : Tile :=
  { tl with slots := tl.slots.map (Slot.request s t (s.getDie (dieOf t)).fc) }
/-- Every request of a bay's contexts. -/
def requestLines (bay : Nat) (s : State) : State :=
  (s.bayTiles bay).foldl (fun s t => s.modTile t (Tile.request s t)) s

/-- The request that the port serves first: the oldest, then by tile index and slot. -/
def firstRequest (s : State) (bay : Nat) : Option (Nat × Nat) :=
  ((s.bayTiles bay).flatMap fun t => (s.getTile t).slots.toList.filterMap (·.ask)).foldl (fun best r =>
    match best with
    | some b => if r.2 < b.2 then some r else some b
    | none => some r) none

/-- The lines that serving a request for `line` delivers: the second of a pair too. -/
def servedLines (s : State) (bay line : Nat) : List Nat :=
  if (s.bayTiles bay).any fun t => (s.getTile t).slots.toList.any fun sl =>
    sl.wantsLine s t && sl.bank.pc.toNat / 4 == line && (linesNeeded s bay sl.bank.pc).contains (line + 1)
  then [line, line + 1] else [line]

/-- Give the lines to the contexts of one tile that need no other. -/
def serveTile (s : State) (t : Nat) (ls : List Nat) (tl : Tile) : Tile :=
  { tl with slots := tl.slots.map fun sl =>
      let need := linesNeeded s (bayOf t) sl.bank.pc
      if sl.wantsLine s t && need.all ls.contains then { sl with lines := need, ask := none } else sl }

/-- `LOFT_LINE_FETCH` (R135): the line of the first request, while the port has not served four in this fabric cycle. -/
def loftLineFetchBody (bay line : Nat) (s0 : State) : Option State :=
  let s := requestLines bay s0
  let fc := (s.getDie (bay / Config.baysPerDie)).fc
  let p := (s.getBay bay).port
  let n := if p.1 = fc then p.2 else 0
  let ls := servedLines s bay line
  if (firstRequest s bay).map (·.1) = some line ∧ n + ls.length ≤ 4 then
    some (((s.bayTiles bay).foldl (fun s t => s.modTile t (serveTile s t ls)) s).modBay bay fun b =>
      { b with port := (fc, n + ls.length) })
  else none
def execLoftLineFetch (bay line : Nat) (s : State) : Result :=
  event (decide (bay < 10240) && decide (line < 4096)) s (loftLineFetchBody bay line)

/-- The line that the port of the focus tile's bay serves next. -/
def firstAsked (s : State) : Option Nat :=
  (firstRequest (requestLines (bayOf s.tid) s) (bayOf s.tid)).map (·.1)

/-- A loft word is written: every buffered line of the bay that holds it is invalidated (R135). -/
def writeLoftWord (bay word : Nat) (v : Word) (s : State) : State :=
  let s1 := { s with mem := writeBytes s.mem (loftBase bay + 4 * word) (bytesOf 4 v) }
  (s1.bayTiles bay).foldl (fun s t => s.modTile t fun tl =>
    { tl with slots := tl.slots.map fun sl => { sl with lines := sl.lines.filter (· ≠ word / 4) } }) s1

end Sys2Proof.Machine
end

