-- ==== Sys2Proof/Machine/Power.lean ====
section
/-! DEFINITION. Issue classes, weights and permits (Tables 5.17, 7.1, 9.7, 13.3, 17.6, 22.4), the stook
balancer (R136 to R144) and the power controls (R354 to R357). -/

namespace Sys2Proof

/-- The weight of an instruction's issue class (Table 7.1). -/
def Instr.weight : Instr → Nat
  | .send _ | .sendv _ | .recv _ | .peek _ | .offer _ | .pull _ | .hret _ | .tagset _ | .tagclr _ => 3
  | .chr _ | .chw _ | .chwv _ | .chst _ => 3
  | .barw _ | .bart _ | .pause _ | .waitq _ | .yield _ | .stkh _ | .align _ => 3
  | .circ _ | .rank _ | .tree _ => 3
  | .rld _ | .rldAcq _ | .rst _ | .rstRel _ | .rldv _ | .rstv _ => 3
  | .cpy _ | .cpyq _ | .inbox _ | .grnw _ | .grn _ | .coll _ | .collw _ => 3
  | .aadd o | .aand o | .aor o | .axor o | .amin o | .amax o | .aminu o | .amaxu o | .aswp o | .acas o =>
    if o.src = 0 then 2 else 3
  | .vadd _ | .vsub _ | .vmul _ | .vmac _ | .vmin _ | .vmax _ | .vand _ | .vor _ | .vxor _ | .vshl _ | .vshr _
  | .vsra _ | .vcmp _ | .vsel _ => 4
  | .vfadd _ | .vfsub _ | .vfmul _ | .vfma _ | .vfmin _ | .vfmax _ | .vfcmp _ | .vfcvt _ => 4
  | .vld _ | .vst _ | .vsplat _ | .vext _ | .vins _ | .vperm _ | .vsum _ | .vmaxr _ | .vmask _ | .vslide _ => 4
  | .vfrcp _ | .vfrsq _ | .vfexp _ | .vflog _ => 5
  | .pdot _ | .ppack _ | .punpk _ => 6
  | _ => 2

/-- The permit class an instruction draws from. -/
def Instr.permit : Instr → Machine.PClass
  | .send _ | .sendv _ | .recv _ | .peek _ | .offer _ | .pull _ | .chr _ | .chw _ | .chwv _ | .circ _ => .x
  | .rld _ | .rldAcq _ | .rst _ | .rstRel _ | .rldv _ | .rstv _ => .x
  | .cpy _ | .inbox _ | .grnw _ | .grn _ | .coll _ | .launch _ | .metr _ => .x
  | .aadd o | .aand o | .aor o | .axor o | .amin o | .amax o | .aminu o | .amaxu o | .aswp o | .acas o =>
    if o.src = 0 then .none else .x
  | .vadd _ | .vsub _ | .vmul _ | .vmac _ | .vmin _ | .vmax _ | .vand _ | .vor _ | .vxor _ | .vshl _ | .vshr _
  | .vsra _ | .vcmp _ | .vsel _ => .v
  | .vfadd _ | .vfsub _ | .vfmul _ | .vfma _ | .vfmin _ | .vfmax _ | .vfcmp _ | .vfcvt _ => .v
  | .vld _ | .vst _ | .vsplat _ | .vext _ | .vins _ | .vperm _ | .vsum _ | .vmaxr _ | .vmask _ | .vslide _ => .v
  | .vfrcp _ | .vfrsq _ | .vfexp _ | .vflog _ => .s
  | .pdot _ | .ppack _ | .punpk _ => .m
  | _ => .none

end Sys2Proof

namespace Sys2Proof.Machine

/-! ### Permits (R354) -/

/-- A CAP of 0 acts as 1, and a RATE above 256 as 256 (R356). -/
def Rate.capN (r : Rate) : Nat := max 1 r.cap.toNat
def Rate.rateN (r : Rate) : Nat := min 256 r.rate.toNat

/-- One counter in one tile cycle, before any draw. A level above a new cap is clipped. -/
def refill (r : Rate) (scale : Nat) (p : Permit) : Permit :=
  let step := max 1 (r.rateN * scale / 256)
  if p.level.toNat < r.capN then
    let acc := p.acc.toNat + step
    if 256 ≤ acc then ⟨p.level + 1, BitVec.ofNat 9 (acc - 256)⟩ else ⟨p.level, BitVec.ofNat 9 acc⟩
  else ⟨BitVec.ofNat 6 r.capN, 0⟩

/-- The four counters of a tile. -/
def refillTile (b : Bay) (scale : Nat) (tl : Tile) : Tile :=
  { tl with pm := refill b.rm scale tl.pm, pv := refill b.rv scale tl.pv, ps := refill b.rs scale tl.ps,
            px := refill b.rx scale tl.px }

/-- Every counter at its cap, as a placement leaves it. -/
def fullPermits (b : Bay) (tl : Tile) : Tile :=
  let full (r : Rate) : Permit := ⟨BitVec.ofNat 6 r.capN, 0⟩
  { tl with pm := full b.rm, pv := full b.rv, ps := full b.rs, px := full b.rx }

def Tile.permitLevel (tl : Tile) : PClass → Nat
  | .none => 1
  | .m => tl.pm.level.toNat
  | .v => tl.pv.level.toNat
  | .s => tl.ps.level.toNat
  | .x => tl.px.level.toNat

/-- One instruction draws one permit of its class. -/
def Tile.draw (tl : Tile) : PClass → Tile
  | .none => tl
  | .m => { tl with pm := { tl.pm with level := tl.pm.level - 1 } }
  | .v => { tl with pv := { tl.pv with level := tl.pv.level - 1 } }
  | .s => { tl with ps := { tl.ps with level := tl.ps.level - 1 } }
  | .x => { tl with px := { tl.px with level := tl.px.level - 1 } }

/-- `PERMIT_REFILL`. -/
def permitRefillBody (t : Nat) (s : State) : Option State :=
  some (s.modTile t (refillTile (s.getBay (bayOf t)) (s.getDie (dieOf t)).pwr.scale.toNat))
def execPermitRefill (t : Nat) (s : State) : Result := event (tileOk t) s (permitRefillBody t)

/-! ### Power registers (R356, R357) -/

/-- The controller's step (R357). -/
def controlScale (p : Pwr) : Pwr :=
  if p.budget.toNat < p.draw.toNat then { p with scale := BitVec.ofNat 9 (max 16 (p.scale.toNat - 16)) }
  else if (p.draw.toNat : Int) < p.budget.toNat - 8 then { p with scale := BitVec.ofNat 9 (min 256 (p.scale.toNat + 16)) }
  else p
/-- `POWER_CONTROL` (R356, R357): the sensor's new draw, a free value, then the controller's step. -/
def powerControlBody (die : Nat) (s : State) : Option State :=
  some ({ s with free := s.free + 1 }.modDie die fun d =>
    { d with pwr := controlScale { d.pwr with draw := Config.measuredDraw die s.free } })
def execPowerControl (die : Nat) (s : State) : Result := event (decide (die < 16)) s (powerControlBody die)

/-- `BAYRATE_WRITE` (Table 21.4). -/
def setRates (v : DWord) (b : Bay) : Bay :=
  let f (hi lo : Nat) : Rate := ⟨v.extractLsb' hi 6, v.extractLsb' lo 9⟩
  { b with rm := f 58 48, rv := f 42 32, rs := f 26 16, rx := f 10 0 }
def bayrateBody (die bay : Nat) (v : DWord) (s : State) : Option State :=
  some (s.modBay (Config.baysPerDie * die + bay) (setRates v))
def execBayrateWrite (die bay : Nat) (v : BitVec 64) (s : State) : Result :=
  event (decide (die < 16) && decide (bay < 640)) s (bayrateBody die bay v)

/-! ### The stook balancer -/

/-- The natural weight of a tile in a cycle in which it issues an instruction of weight `w`, or 1 for none (R136). -/
def Tile.naturalWeight (tl : Tile) (w : Nat) : Nat := if tl.planeRun.isEmpty then w else 6

/-- A context waits on what R140 names, on a wait of Table 9.7 (R203), for a remote load's reply, or, in a throttled
cycle, for a row of the array (R280). -/
def Slot.messageWait (sl : Slot) (throttled : Bool) : Bool :=
  match sl.wait with
  | some .channel | some .queue | some .waitq | some .wave | some .barrier | some .ni | some .credit | some .align => true
  | some .reply => true
  | some .acquire => (match decodeWord sl.ir with | some (.rldAcq _) => true | _ => false)
  | some .row => throttled
  | _ => false
def Tile.messageWaits (tl : Tile) (throttled : Bool) : Bool :=
  tl.slots.toList.any fun sl => sl.running && sl.messageWait throttled

/-- The four tiles of a stook. -/
def stookTiles (bay stook : Nat) : List Nat := (List.range 4).map (· + (64 * bay + 4 * stook))

/-- The tile's hint has changed since the last window's end (R144). -/
def Tile.hintChanged (tl : Tile) : Bool := tl.hintNew || tl.hint != tl.lastHint.toNat
/-- W of a tile at a window's end: 16 cycles of weight 1, and what its cycles weighed above that; a changed hint
stands in its place (R144). -/
def Tile.windowWeight (tl : Tile) : Nat := if tl.hintChanged && tl.hint != 0 then 16 * tl.hint else 16 + tl.weight

def maxOf (l : List Nat) : Nat := l.foldl max 0
def minOf : List Nat → Nat
  | [] => 0
  | x :: r => r.foldl min x

/-- The launch's balance mode on a tile is THROTTLE. -/
def Tile.throttleMode (tl : Tile) : Bool := match tl.launch with | some l => l.bal | none => false

/-- `STOOK_WINDOW_END` (R137, R140): budgets for the next window. -/
def windowEnd (bay stook : Nat) (s : State) : State :=
  let ts := stookTiles bay stook
  let ws := ts.map fun t => (s.getTile t).windowWeight
  let hi := maxOf ws
  let lo := minOf ws
  let tol := (s.getDie (bay / Config.baysPerDie)).pwr.t.toNat
  let act := decide (tol < hi - lo)
  let throttle := ts.any fun t => (s.getTile t).throttleMode
  let forced := throttle && ts.any fun t =>
    (s.getTile t).stalled && decide (((s.getTile t).windowWeight : Int) < hi - tol)
  let fill := !throttle || forced
  let s0 := s.modBay bay fun b => { b with winDone := b.winDone ||| (1#16 <<< stook) }
  let s1 := ts.foldl (fun s t => s.modTile t fun tl =>
    let w := tl.windowWeight
    { tl with weight := 0, stalled := false, hintNew := false, lastHint := BitVec.ofNat 3 tl.hint,
              fillD := if act && fill then ((hi - tol - w : Nat) : Int) else 0,
              thrE := if act && !fill then ((w - lo - tol : Nat) : Int) else 0 }) s0
  if act then
    s1.modBay bay fun b => { b with imb := b.imb.set! stook (b.imb.toList.getD stook 0 + BitVec.ofNat 64 (hi - lo)) }
  else s1
/-- Every tile of the bay that holds more than the reset state has taken the tile cycle under way. -/
def bayCycleDone (s : State) (bay : Nat) : Bool := (s.bayTiles bay).all fun t => (s.getBay bay).ran.contains t
/-- The windows of a bay end with the tile cycle under way. -/
def windowDue (s : State) (bay : Nat) : Bool :=
  (s.getBay bay).cyc.extractLsb' 0 4 == 15 && bayCycleDone s bay
def stookWindowEndBody (bay stook : Nat) (s : State) : Option State :=
  if windowDue s bay && !(s.getBay bay).winDone.getLsbD stook then some (windowEnd bay stook s) else none
def execStookWindowEnd (bay stook : Nat) (s : State) : Result :=
  event (decide (bay < 10240) && decide (stook < 16)) s (stookWindowEndBody bay stook)

/-- One filler step beside an issue of natural weight `w` (R139, R141, R143). -/
def fillerStep (t w : Nat) (s : State) : State :=
  let s1 := s.modTile t fun tl => ({ tl with fillD := tl.fillD - (6 - w : Nat) }).meter 3 1
  s1.modBay (bayOf t) fun b => { b with fill := b.fill.set! (stookOf t) (b.fill.toList.getD (stookOf t) 0 + 1) }
/-- The last started command still occupies the array: a `PPACK` or `PUNPK` that has not written. -/
def Tile.arrayBusy (tl : Tile) : Bool :=
  match tl.planeRun.getLast? with | some r => r.cmd.kind != .pdot | none => false
/-- A queued plane-array command can start (R274): the array is free, fewer than eight are unfinished, and the stook
does not throttle the tile. -/
def Tile.canStart (tl : Tile) : Bool :=
  !tl.planeQ.isEmpty && decide (tl.planeRun.length < 8) && !tl.arrayBusy && !tl.frozen
/-- The release of the launch has reached the tile: what a resumed launch owes starts only then (R349, R386). -/
def tileReleased (s : State) (t : Nat) : Bool :=
  match (s.getTile t).launch with
  | some x => (match s.findLaunch x.lid with | some l => l.released.contains t | none => true)
  | none => true
/-- A throttled cycle of natural weight `w`: nothing issues, the array stands still, and the cycle is metered as stalled
(R139, R143). -/
def throttleStep (w : Nat) (tl : Tile) : Tile :=
  ({ tl with thrE := tl.thrE - (w - 1 : Nat), weight := tl.weight + (w - 1), frozen := true,
             stalled := tl.stalled || tl.messageWaits true }).meter 2 1
end Sys2Proof.Machine
end

