-- ==== Sys2Proof/Machine/Network.lean ====
section
/-! DEFINITION. What travels on circuits: injection and release (R160, R162, R175, R241), messages and channel
words (R156, R157, R330), the joiner's work (R146, R151 to R153, R389), pull streams (R179, R180), rank entries. -/

namespace Sys2Proof.Machine

/-! ### Injection -/

/-- A pull stream still occupies the circuit (R179). -/
def Stream.occupies (st : Stream) (s : State) (key : Nat) : Bool :=
  !st.done && s.findCircuit st.offTile st.offSlot st.tile == some key

/-- The circuit to a tile carries words now: it holds base slots, is not parked, and no stream occupies it. -/
def circuitOpen (s : State) (key dst : Nat) : Bool :=
  let c := s.circuit key
  c.live && c.dst == dst && !c.parked && !c.asleep && !s.streams.any (·.occupies s key)

/-- Messages are held while their rank is in transit (R162). -/
def Req.transitHeld (tl : Tile) (r : Req) : Bool :=
  match r.op with | .msg _ _ => (tl.rank r.rank).transit | _ => false

/-- It is the request's turn on its circuit (R175, R216, R241): no earlier one of its context waits for that
circuit. On circuits to tiles the handlers' traffic counts with slot 0's (R181). What was held at a save goes in issue
order, whatever its circuits (R348). -/
def injectTurn (s : State) (t k : Nat) (r : Req) : Bool :=
  let tl := s.getTile t
  !((tl.slot k).niq.any fun x => decide (x.seq < r.seq) && decide (r.seq < (tl.slot k).heldTo)) &&
  match r.route with
  | .tile die cid dst _ =>
    circuitOpen s (circuitKey die cid) dst && !r.transitHeld tl
      && !tl.slots.toList.any fun sl => sl.niq.any fun x => sameCircuit x r && decide (x.uid < r.uid)
  | _ => !(tl.slot k).niq.any fun x => sameCircuit x r && decide (x.uid < r.uid)

/-- The conditions of a release at extent `ext` (R241). -/
def releaseReady (sl : Slot) (r : Req) (ext : BitVec 3) : Bool :=
  decide (ext ≤ 1) ||
    sl.accs.all fun a => decide (r.seq ≤ a.seq) || decide (a.seq < sl.firstSeq)
      || (!a.read && (!a.write || a.doneFor ext))

/-- The request leaves the NI. -/
def injectReq (t k : Nat) (r : Req) (s : State) : State :=
  let s1 := s.modSlotAt t k fun sl => { sl with niq := sl.niq.filter (·.uid ≠ r.uid) }
  { s1 with flights := s1.flights ++ [⟨r, .wire⟩] }

/-- `MESSAGE_INJECTION` (R160, R175): a request with no release condition. -/
def messageInjectionBody (t k n : Nat) (s : State) : Option State := do
  let r ← (s.slotAt t k).niq[n]?
  if r.rel.isNone && injectTurn s t k r then some (injectReq t k r s) else none
def execMessageInjection (t k n : Nat) (s : State) : Result := event (ctxOk t k) s (messageInjectionBody t k n)

/-- `RELEASE_INJECTION` (R241). -/
def releaseInjectionBody (t k n : Nat) (s : State) : Option State := do
  let sl := s.slotAt t k
  let r ← sl.niq[n]?
  let ext ← r.rel
  if releaseReady sl r ext && injectTurn s t k r then some (injectReq t k r s) else none
def execReleaseInjection (t k n : Nat) (s : State) : Result := event (ctxOk t k) s (releaseInjectionBody t k n)

/-! ### Arrival -/

/-- The flight is on its circuit and the first there: words of one circuit arrive in the order injected (R149). -/
def firstOnWire (s : State) (n : Nat) : Option Flight := do
  let f ← s.flights[n]?
  if f.phase == .wire && !(s.flights.take n).any fun g => g.phase == .wire && sameCircuit g.req f.req
  then some f else none

def State.dropFlight (s : State) (n : Nat) : State := { s with flights := s.flights.eraseIdx n }
def State.setPhase (s : State) (n : Nat) (r : Req) (p : Phase) : State := { s with flights := s.flights.set n ⟨r, p⟩ }

/-- An access is complete and leaves the list. -/
def Slot.closeAcc (sl : Slot) (seq : Nat) : Slot := { sl with accs := sl.accs.filter (·.seq ≠ seq) }
/-- A write is performed for an extent of die, or of module, too. -/
def Slot.markAcc (sl : Slot) (seq : Nat) (die mod : Bool) : Slot :=
  { sl with accs := sl.accs.map fun a => if a.seq = seq then { a with die := a.die || die, mod := a.mod || mod } else a }

/-- NM falls for the context that sent the message. -/
def closeMessage (r : Req) (s : State) : State :=
  s.modSlotAt r.tile r.slot fun sl =>
    let sl1 := sl.closeAcc r.seq
    if sl.run = r.run then { sl1 with nm := sl1.nm - 1 } else sl1

/-- `MSG_CHECK` of a discarded message or word (R330): CID in [11:0], and bit 12 for a handler queue. -/
def discardTrap (cid : Nat) (handler : Bool) : PendErr :=
  ⟨mkTrap causeMsgCheck (BitVec.ofNat 64 (cid % 4096 + if handler then 4096 else 0))⟩

/-- The event waits at the destination slot, or at the lowest user slot for a handler queue; where the launch has left the
tile, it counts for its tenant (R330). -/
def State.postDiscard (s : State) (tenant t k cid : Nat) (handler : Bool) : State :=
  if ((s.getTile t).launch.map (·.tenant)) = some tenant then
    s.modSlotAt t (if handler then 0 else k) fun sl => { sl with merr := sl.merr ++ [discardTrap cid handler] }
  else s.hubMeter tenant 9 1

/-- A message reaches its destination tile (R164, R330); one for another module leaves this one. -/
def deliverMessage (tenant dst slot cid : Nat) (hdr : DWord) (pay : List DWord) (bad : Bool) (s : State) : State :=
  if tileCount ≤ dst then { s with out := s.out ++ [.message dst slot (hdr :: pay)] }
  else if bad then s.postDiscard tenant dst slot cid ((s.getTile dst).tagEntry (hdrTag hdr)).en
  else s.arrive dst slot hdr pay

/-- The slot and queue of a tile that a message enters (R164). -/
def queueFor (s : State) (dst slot : Nat) (hdr : DWord) : Nat × BitVec 2 :=
  let e := (s.getTile dst).tagEntry (hdrTag hdr)
  (if e.en then 7 else slot, e.q)
/-- In one fabric cycle, messages enter a queue in ascending order of source die and CID: a message that comes before the
one that entered last waits for the next cycle (R160). -/
def arrivalTurn (s : State) (dst key : Nat) (rq : RQueue) : Bool :=
  decide (rq.arrFc ≠ (s.getDie (dieOf dst)).fc + 1) || decide (rq.arrKey ≤ key)
/-- Note the cycle and the circuit of a queue's last arrival. -/
def noteArrival (dst : Nat) (kq : Nat × BitVec 2) (key : Nat) (s : State) : State :=
  s.modSlotAt dst kq.1 fun sl =>
    sl.setQueue kq.2 { sl.queue kq.2 with arrFc := (s.getDie (dieOf dst)).fc + 1, arrKey := key }

/-- `MESSAGE_VISIBLE` (R160, R164, R175). -/
def messageVisibleBody (n : Nat) (s : State) : Option State := do
  let f ← firstOnWire s n
  match f.req.op, f.req.route with
  | .msg hdr pay, .tile die cid dst slot =>
    let kq := queueFor s dst slot hdr
    let key := circuitKey die cid
    let done (s : State) : State := closeMessage f.req (deliverMessage f.req.tenant dst slot cid hdr pay f.req.bad (s.dropFlight n))
    if tileCount ≤ dst then some (done s)
    else if arrivalTurn s dst key ((s.slotAt dst kq.1).queue kq.2) then some (noteArrival dst kq key (done s))
    else none
  | _, _ => none
def execMessageVisible (n : Nat) (s : State) : Result := event true s (messageVisibleBody n)

/-- A word enters a channel buffer; a word that fails its check is discarded, its credit returns, and the
receiving thread is told (Table 11.6, R330). -/
def wordArrives (w : ChanWord) (s : State) : State :=
  match w.dst with
  | .circuit die cid =>
    let c := s.circuit (circuitKey die cid)
    if w.bad then ({ s with credits := s.credits ++ [w.dst] }).postDiscard c.tenant c.dst c.dslot cid false
    else s.setCircuit (circuitKey die cid) { c with buf := c.buf ++ [w.word] }
  | .link t d =>
    let l := s.link t d
    if w.bad then
      let back := match neighbour s t d with | some u => [WordTo.link u (d + 2)] | none => []
      let s1 := { s with credits := s.credits ++ back }
      match l.bound with | some k => s1.postDiscard (s.getTile t).tenant t k 0 false | none => s1
    else s.setLink t d { l with buf := l.buf ++ [w.word] }

/-- The words of a parked circuit stay with the sending NI (R171), and so do those of an idle link (R148). -/
def WordTo.parked (s : State) : WordTo → Bool
  | .circuit die cid => (s.circuit (circuitKey die cid)).parked
  | .link t d => !linkLive s t d

/-- `CHANNEL_WORD_ARRIVAL` (R156). -/
def channelWordArrivalBody (n : Nat) (s : State) : Option State := do
  let w ← s.words[n]?
  if (s.words.take n).any (fun x => x.dst == w.dst) || w.dst.parked s then none
  else some (wordArrives w { s with words := s.words.eraseIdx n })
def execChannelWordArrival (n : Nat) (s : State) : Result := event true s (channelWordArrivalBody n)

/-- A credit reaches the sending NI. -/
def creditArrives (c : WordTo) (s : State) : State :=
  match c with
  | .circuit die cid =>
    let x := s.circuit (circuitKey die cid)
    s.setCircuit (circuitKey die cid) { x with credits := x.credits + 1 }
  | .link t d => let l := s.link t d; s.setLink t d { l with credits := l.credits + 1 }

/-- A link's credits travel in slot 32, which an idle link does not carry (R148). -/
def WordTo.idle (s : State) : WordTo → Bool
  | .circuit _ _ => false
  | .link t d => !linkLive s t d

/-- `CREDIT_RETURN` (R157). -/
def creditReturnBody (n : Nat) (s : State) : Option State := do
  let c ← s.credits[n]?
  if c.idle s then none else some (creditArrives c { s with credits := s.credits.eraseIdx n })
def execCreditReturn (n : Nat) (s : State) : Result := event true s (creditReturnBody n)

/-- The word or credit travels between some tile and a neighbour. -/
def WordTo.touches (s : State) (p : Nat → Bool) : WordTo → Bool
  | .circuit _ _ => false
  | .link t d => p t || (match neighbour s t d with | some u => p u | none => false)
/-- The links of some tiles are cleared. A neighbour that stays keeps the words it has not read, and each sender has a
credit for every other place: at most eight words ever lie on a link (R157, assumption 103). -/
def clearLinks (p : Nat → Bool) (s : State) : State :=
  let s1 := { s with words := s.words.filter fun w => !w.dst.touches s p
                     credits := s.credits.filter fun c => !c.touches s p
                     links := s.links.filter fun kl => !p (kl.1 / 4) }
  s1.links.foldl (fun s kl =>
    let t := kl.1 / 4
    let d := BitVec.ofNat 2 kl.1
    match neighbour s1 t d with
    | some u => if p u then
        (s.setLink t d { kl.2 with credits := 8 }).setLink u (d + 2) { Link.reset with credits := 8 - kl.2.buf.length }
      else s
    | none => s) s1
/-- The credits of the links between some tiles and their neighbours, as the words that lie unread leave them. -/
def settleLinks (tiles : List Nat) (s : State) : State :=
  let s1 := { s with words := s.words.filter fun w => !w.dst.touches s tiles.contains
                     credits := s.credits.filter fun c => !c.touches s tiles.contains }
  tiles.foldl (fun s t => (List.range 4).foldl (fun s j =>
    let d := BitVec.ofNat 2 j
    match neighbour s t d with
    | some u =>
      let s2 := s.setLink t d { s.link t d with credits := 8 - (s.link u (d + 2)).buf.length }
      s2.setLink u (d + 2) { s2.link u (d + 2) with credits := 8 - (s2.link t d).buf.length }
    | none => s) s) s1

/-! ### Paths (R146, R154, R389, R394)

A port is numbered 8 · router + number on the mesh; the ports of the gate trees (R413) and of the spline lanes (R399)
follow, with numbers of the model's own (assumptions 31, 34). -/

def portInject : Nat := 0
def portEject : Nat := 6
/-- The crossing port of an edge: a router at a die's corner has one on each edge. -/
def portCross (e : Nat) : Nat := if e % 2 = 0 then 7 else 5
/-- The mesh port for a direction 0 north to 3 west, and the input it arrives at next. -/
def portOf (d : Nat) : Nat := d + 1
def inputOf (d : Nat) : BitVec 3 := BitVec.ofNat 3 ((d + 2) % 4 + 1)

/-- Coordinates of one row or column of a die, from one to another, the first left out. -/
def walk (a b : Nat) : List Nat :=
  if a ≤ b then (List.range (b - a)).map fun j => a + 1 + j else (List.range (a - b)).map fun j => a - 1 - j

/-- The routers from one router of a die to another in dimension order, X first or Y first, the first left out. -/
def routers (xFirst : Bool) (src dst : Nat) : List Nat :=
  let d := routerDie src
  let x0 := routerX src; let y0 := routerY src; let x1 := routerX dst; let y1 := routerY dst
  if xFirst then (walk x0 x1).map (routerAt d · y0) ++ (walk y0 y1).map (routerAt d x1 ·)
  else (walk y0 y1).map (routerAt d x0 ·) ++ (walk x0 x1).map (routerAt d · y1)

/-- A router of a retired physical bay takes no new circuit (R394), nor does a place without one. -/
def retiredAt (s : State) (r : Nat) : Bool := r == noRouter || (s.getDie (routerDie r)).retired.contains (routerBay r)

/-- The routers of a leg within one die: X before Y, or Y before X where that meets a retired bay. -/
def leg (s : State) (src dst : Nat) : Option (List Nat) :=
  let a := routers true src dst
  if !a.any (retiredAt s) then some a
  else
    let b := routers false src dst
    if !b.any (retiredAt s) then some b else none

/-- The direction from one die to a neighbour: 0 north, 1 east, 2 south, 3 west. -/
def dieStep (a b : Nat) : Nat :=
  if a % 4 < b % 4 then 1 else if b % 4 < a % 4 then 3 else if a / 4 < b / 4 then 2 else 0
/-- The dies from one to another, along die columns and then rows, the first left out. -/
def diePath (a b : Nat) : List Nat :=
  (walk (a % 4) (b % 4)).map (4 * (a / 4) + ·) ++ (walk (a / 4) (b / 4)).map (4 * · + b % 4)

/-- The edge router of crossing port `i` on an edge of a die. -/
def edgeRouter (die e i : Nat) : Nat :=
  match e with
  | 0 => tileAt die (4 * i) 0
  | 1 => tileAt die 255 (5 * i / 2)
  | 2 => tileAt die (4 * i) 159
  | _ => tileAt die 0 (5 * i / 2)

def natDist (a b : Nat) : Nat := (a - b) + (b - a)

/-- The crossing is calibrated, and both its dies are up (R390). -/
def crossingUp (s : State) (die e : Nat) : Bool := ((s.getDie die).links.toList.getD e LinkStat.reset).up

/-- The direction of a mesh step. -/
def meshDir (a b : Nat) : Nat :=
  if routerX a < routerX b then 1 else if routerX b < routerX a then 3 else if routerY a < routerY b then 2 else 0

/-- The ports of a chain of routers, entered at `inp`, with `adv` into the first port. -/
def hops : Nat → BitVec 3 → Nat → List Nat → List Hop
  | u, inp, adv, [] => [⟨8 * u + portEject, inp, false, adv⟩]
  | u, inp, adv, v :: r =>
    if routerDie u = routerDie v then ⟨8 * u + portOf (meshDir u v), inp, true, adv⟩ :: hops v (inputOf (meshDir u v)) 1 r
    else ⟨8 * u + portCross (dieStep (routerDie u) (routerDie v)), inp, false, adv⟩ :: hops v 5 16 r

/-- All ports of the path from a router over the routers given. -/
def pathHops (src : Nat) (rs : List Nat) : List Hop := ⟨8 * src + portInject, 0, false, 0⟩ :: hops src 0 1 rs

/-- The slot on each port for a base slot (R146): the slot advances, and steps past a reserved one. -/
def slotsOn : Nat → List Hop → List (Nat × Hop)
  | _, [] => []
  | t, h :: r =>
    let c := (t + h.adv) % 64
    let u := if c = 0 ∨ (h.mesh ∧ c = 32) then (c + 1) % 64 else c
    (u, h) :: slotsOn u r
def baseSlots (base : Nat) (path : List Hop) : List (Nat × Hop) := slotsOn base path
/-- What is queued at a joiner for the slot `key`, or what a waiting reply will write there. -/
def keyAwaited (s : State) (key : Nat) : Bool :=
  s.dies.toList.any fun d =>
    (d.work.any fun w => match w with | .far f => f.keys.any fun kv => kv.1 == key && kv.2 != 0 | .own _ => false)
      || d.replies.any fun r => !r.far.isEmpty && r.near.any fun kv => kv.1 == key
/-- A slot of a port is free: no entry holds it, and no joiner has yet to write it. -/
def slotFree (s : State) (port t : Nat) : Bool :=
  SMap.get 0 s.slotTab (port * 64 + t) = 0 && !keyAwaited s (port * 64 + t)

/-- Free slots of a port, slot 0 apart. -/
def freeSlots (s : State) (port : Nat) : Nat := ((List.range 64).filter fun t => t != 0 && slotFree s port t).length

/-- Every slot a base slot needs on a path is free. -/
def baseFree (s : State) (path : List Hop) (base : Nat) : Bool :=
  (baseSlots base path).all fun uh => slotFree s uh.2.port uh.1

/-- The lowest `n` usable base slots beyond those held, taken one after another (R152, step 2). A circuit from a tile to
itself has the same slots of the same two ports both ways, and they count once (assumption 101). -/
def takeBases (s : State) (fwd rev : List Hop) (n : Nat) : Option (List Nat) :=
  let usable := (List.range 64).filter fun b =>
    decide (b ≠ 0) && decide (b ≠ 32) && baseFree s fwd b && baseFree s rev b
  let clash (a b : Nat) : Bool :=
    (baseSlots a fwd ++ baseSlots a rev).any fun x => (baseSlots b fwd ++ baseSlots b rev).any fun y =>
      x.1 == y.1 && x.2.port == y.2.port
  let got := usable.foldl (fun (l : List Nat) b =>
    if l.length < n ∧ !l.any (clash b) then l ++ [b] else l) []
  if got.length = n then some got else none

/-- What stops a path. -/
inductive PathStop where
  | noSlot | lost
deriving DecidableEq, Repr

/-- Port `i` of an edge has `n` slots that a path of the routers so far can use, and as many free the other way. -/
def portFits (s : State) (src : Nat) (pre : List Nat) (e d i n : Nat) : Bool :=
  let cur := pre.getLastD src
  let near := edgeRouter (routerDie cur) e i
  let far := edgeRouter d ((e + 2) % 4) i
  decide (n ≤ freeSlots s (8 * far + portCross ((e + 2) % 4))) &&
    match leg s cur near with
    | some l => (takeBases s (pathHops src (pre ++ l ++ [far])).dropLast [] n).isSome
    | none => decide (n ≤ freeSlots s (8 * near + portCross e))

/-- The crossing ports of an edge, nearest the word's row or column first, the lower index on a tie. -/
def portOrder (e cur : Nat) : List Nat :=
  let pos (i : Nat) : Nat := if e % 2 = 0 then 4 * i else 5 * i / 2
  let here := if e % 2 = 0 then routerX cur else routerY cur
  (List.range 256).flatMap fun dist => (List.range 64).filter fun i => natDist (pos i) here == dist

/-- The reverse path of a path of routers. -/
def reverseHops (src dst : Nat) (rs : List Nat) : List Hop := pathHops dst (((src :: rs).reverse).drop 1)
/-- The routers to a router over the crossings of the remaining dies; `pre` are those already chosen. On each edge it is
the nearest port with which the path has the needed slots, both ways. -/
def longPath (s : State) (n src dst : Nat) : List Nat → List Nat → Option (List Nat)
  | [], pre => (leg s (pre.getLastD src) dst).map (pre ++ ·)
  | d :: r, pre =>
    let cur := pre.getLastD src
    let e := dieStep (routerDie cur) d
    (portOrder e cur).findSome? fun i =>
      let far := edgeRouter d ((e + 2) % 4) i
      match leg s cur (edgeRouter (routerDie cur) e i) with
      | none => none
      | some l =>
        if retiredAt s far || !portFits s src pre e d i n then none
        else match longPath s n src dst r (pre ++ l ++ [far]) with
        | some rs => if (takeBases s (pathHops src rs) (reverseHops src dst rs) n).isSome then some rs else none
        | none => none

/-- The routers from one tile to another, the source's left out. -/
def tilePath (s : State) (n src dst : Nat) : Except PathStop (List Nat) :=
  let dies := diePath (dieOf src) (dieOf dst)
  if ((dieOf src :: dies).zip dies).any fun ab => !crossingUp s ab.1 (dieStep ab.1 ab.2) then .error .lost
  else match longPath s n (s.router src) (s.router dst) dies [] with
    | some rs => .ok rs
    | none => .error .noSlot

/-! ### Gate trees and spline lanes -/

/-- A gate lane: a bay's memory gate, or a tile's granary circuit beyond the bays. -/
def granaryLane (t : Nat) : Nat := 10240 + t
def laneDie (lane : Nat) : Nat := if lane < 10240 then lane / Config.baysPerDie else dieOf (lane - 10240)
/-- The ports of one lane of the gate tree: 0 to 8 toward the die's port, 16 to 24 back (R413). -/
def gateBase : Nat := 2 ^ 24
def gatePort (lane k : Nat) : Nat := gateBase + 32 * lane + k
/-- h = 6 hops: 8 ports; a granary circuit crosses the granary die's link besides (R294). -/
def gateHops (lane first : Nat) (granary : Bool) : List Hop :=
  (List.range 8).map (fun k => ⟨gatePort lane (first + k), 0, false, if k = 0 then 0 else 1⟩)
    ++ if granary then [⟨gatePort lane (first + 8), 5, false, 16⟩] else []

/-- A lane of a spline port: words out, the far module's wheel, and words in (R154, R399). -/
def splineBase : Nat := 2 ^ 25
def splineLane (p lane dir : Nat) : Nat := splineBase + 32 * p + 4 * lane + dir
/-- The spline port of a lane's port. -/
def splineOf (port : Nat) : Option Nat := if splineBase ≤ port then some ((port - splineBase) / 32) else none

/-- The far module's wheel of a lane: its slot is OFF further, and the word arrives `d` fabric cycles later (R399). -/
def farWheel (port : Nat) : Bool := decide (splineBase ≤ port) && port % 4 == 1
/-- Fabric cycles from a word's injection to its ejection: its advances, its skips and the delays of the lanes. -/
def travel (s : State) : Nat → List Hop → Nat
  | _, [] => 0
  | t, h :: r =>
    let c := (t + h.adv) % 64
    let skip := if c = 0 ∨ (h.mesh ∧ c = 32) then 1 else 0
    let step := if farWheel h.port then (s.splines.toList.getD ((h.port - splineBase) / 32) SplStat.reset).lat.toNat else h.adv
    step + skip + travel s ((c + skip) % 64) r

/-- The die whose joiner writes a port's entries; 16 for the spline lanes. -/
def portDie (p : Nat) : Nat :=
  if p < gateBase then routerDie (p / 8) else if p < splineBase then laneDie ((p - gateBase) / 32) else 16
def keyDie (key : Nat) : Nat := portDie (key / 64)
/-- The port is an injection port of the mesh. -/
def keyInjects (key : Nat) : Bool := decide (key / 64 < gateBase) && key / 64 % 8 == portInject
/-- The port feeds a link: a mesh link, a crossing or a spline lane. -/
def isLink (port : Nat) : Bool :=
  if port < gateBase then (decide (1 ≤ port % 8) && decide (port % 8 ≤ 5)) || port % 8 == 7
  else decide (splineBase ≤ port) && port % 4 == 0

/-- A slot-table entry (Table 8.1). -/
def slotEntry (comb : Bool) (input : BitVec 3) (tenant cid : Nat) : Word :=
  1#1 ++ 0#1 ++ BitVec.ofBool comb ++ input ++ BitVec.ofNat 9 tenant ++ 0#5 ++ BitVec.ofNat 12 cid

/-- The keys and entries of base slots, from the ejection port back to the injection port. -/
def entriesOf (comb : Bool) (path : List Hop) (tenant cid : Nat) (bases : List Nat) : List (Nat × Word) :=
  bases.flatMap fun b => (baseSlots b path).reverse.map fun uh =>
    (uh.2.port * 64 + uh.1, slotEntry comb uh.2.input tenant cid)
/-- The entries of a circuit's base slots: the reverse path's, then the forward path's; those of a combining chain
carry COMB (R295). -/
def circuitEntries (c : Circuit) (cid : Nat) (bases : List Nat) : List (Nat × Word) :=
  entriesOf false c.rev c.tenant cid bases ++ entriesOf (c.kind == .combining) c.fwd c.tenant cid bases

def State.writeEntries (s : State) (es : List (Nat × Word)) : State :=
  { s with slotTab := es.foldl (fun m kv => SMap.set 0 m kv.1 kv.2) s.slotTab }
def State.clearEntries (s : State) (ks : List Nat) : State := s.writeEntries (ks.map fun k => (k, 0))

/-- The mesh port and direction that a port's number stands for. -/
def meshPort (port : Nat) : Option (Nat × BitVec 2) :=
  if port < gateBase ∧ 1 ≤ port % 8 ∧ port % 8 ≤ 4 then some (port / 8, BitVec.ofNat 2 (port % 8 - 1)) else none
/-- An entry as a router's table shows it: slot 32 of a mesh link is the nearest-neighbour channel's, with the tenant of
the two bays and CID 0 (assumption 100), and idle where they have none in common (R148). -/
def State.slotWord (s : State) (port slot : Nat) : Word :=
  match (if slot = 32 then meshPort port else none) with
  | some (r, d) => match s.tileOfRouter r with
    | some t => if linkLive s t d then slotEntry false 0 ((s.bayTenant (bayOf t)).getD 0) 0 else 0
    | none => 0
  | none => SMap.get 0 s.slotTab (port * 64 + slot)

/-! ### The joiner -/

/-- The base slots of a circuit, those among them that a joiner has reserved and not yet written. -/
def basesHeld (s : State) (key : Nat) (c : Circuit) : Nat :=
  (s.dies.toList.flatMap (·.replies)).foldl (fun n r =>
    if !r.far.isEmpty && r.key == key then max n r.base.length else n) c.base.length
/-- Base slots that the circuits of a tenant hold on a link, in their forward direction (assumption 17). -/
def quotaUsed (s : State) (tenant port : Nat) : Nat :=
  s.circuits.foldl (fun (n : Nat) (kc : Nat × Circuit) =>
    if kc.2.tenant = tenant ∧ kc.2.fwd.any (·.port == port) then n + basesHeld s kc.1 kc.2 else n) 0
/-- The quota would be exceeded on some link of a path. -/
def overQuota (s : State) (tenant : Nat) (fwd : List Hop) (n : Nat) : Bool :=
  fwd.any fun h => isLink h.port && decide ((s.getTenant tenant).quota < quotaUsed s tenant h.port + n)

/-- The permission check of R170. -/
def permitted (s : State) (src dst dmod : Nat) : Bool :=
  let b := dst % tileCount / 64 % Config.baysPerDie
  (s.getBay (bayOf src)).perms.any fun p =>
    p.valid && decide (p.module.toNat = dmod) && decide (p.die.toNat = dieOf (dst % tileCount))
      && decide (p.first.toNat ≤ b) && decide (b ≤ p.last.toNat)

/-- A circuit of this module is on its way to being set up. -/
def keyPending (s : State) (key : Nat) : Bool := s.dies.toList.any fun d => d.replies.any fun r => !r.far.isEmpty && r.key == key
/-- A circuit number may be given out: nothing of an earlier circuit of that number is left. -/
def cidFree (s : State) (key : Nat) : Bool :=
  let c := s.circuit key
  !c.live && c.buf.isEmpty && !keyPending s key && !s.drains.any (·.key == key)
    && !s.words.any (fun w => w.dst == .circuit (key / 4096) (key % 4096))
    && !s.flights.any fun f => match f.req.route with | .tile d c _ _ => circuitKey d c == key | _ => false
/-- The number that the joiner assigns: the lowest that is free (assumption 18). -/
def freeCid (s : State) (die : Nat) : Option Nat :=
  (List.range 4096).find? fun c => cidFree s (circuitKey die c)

/-- The ports of a circuit to another module, as far as they lie on this one: the injection port, a lane of the spline
port that leads there with the far wheel's slot beside it, and a lane's input and the ejection port for the way back. The
spec gives neither the port that leads to a module nor the path to the hub die (assumption 34). -/
def splinePath (s : State) (src p lane : Nat) : List Hop × List Hop :=
  let r := s.router src
  let off := (s.splines.toList.getD p SplStat.reset).off.toNat
  ([⟨8 * r + portInject, 0, false, 0⟩, ⟨splineLane p lane 0, 0, false, 1⟩, ⟨splineLane p lane 1, 5, false, off⟩],
   [⟨splineLane p lane 2, 5, false, 0⟩, ⟨8 * r + portEject, 5, false, 1⟩])

/-- The path of a request, as its forward and reverse ports (R152, R389), or what stops it; a tile that no module has is
not reached (assumption 99). -/
def requestPath (s : State) (r : JoinReq) : Except PathStop (List Hop × List Hop) :=
  if noTile ≤ r.dst then .error .lost
  else if tileCount ≤ r.dst then
    let p := Config.splineTo r.dmod % 16
    if s.lostMods.contains r.dmod || !(s.splines.toList.getD p SplStat.reset).up then .error .lost
    else
      let fits (lane : Nat) : Bool :=
        (takeBases s (splinePath s r.tile p lane).1 (splinePath s r.tile p lane).2 r.slots).isSome
      .ok (splinePath s r.tile p (((List.range 8).find? fits).getD 0))
  else match tilePath s r.slots r.tile r.dst with
  | .error e => .error e
  | .ok rs =>
    let src := s.router r.tile
    .ok (pathHops src rs, reverseHops src (s.router r.dst) rs)

/-- The crossing of a port is down (R390), or its spline link (R400). -/
def portDown (s : State) (port : Nat) : Bool :=
  let r := port / 8
  if splineBase ≤ port then !(s.splines.toList.getD ((port - splineBase) / 32) SplStat.reset).up
  else if gateBase ≤ port then false
  else if port % 8 = 7 then !crossingUp s (routerDie r) (if routerY r = 0 then 0 else 2)
  else if port % 8 = 5 then !crossingUp s (routerDie r) (if routerX r = 0 then 3 else 1)
  else false

/-- An answer that changes no slot table. -/
def refusal (r : JoinReq) (status cid slots : Nat) : JoinReply :=
  { tile := r.tile, slot := r.slot, run := r.run, block := r.block, status := status, cid := cid, slots := slots,
    far := [], key := 0, base := [], near := [] }

/-- Record an answer at the joiner. -/
def State.addReply (s : State) (die : Nat) (r : JoinReply) : State :=
  s.modDie die fun d => { d with replies := d.replies ++ [r] }
/-- Give other dies' joiners their part: they take it in their own order of arrival (R151). `src` is the joiner that
waits for them, or 16. -/
def State.sendFar (s : State) (src : Nat) (far : List Nat) (es : List (Nat × Word)) : State :=
  far.foldl (fun s d => s.modDie d fun x =>
    { x with work := x.work ++ [.far ⟨src, es.filter fun kv => keyDie kv.1 == d⟩] }) s
/-- The other dies on which entries lie. -/
def farDies (die : Nat) (es : List (Nat × Word)) : List Nat :=
  (List.range 16).filter fun d => decide (d ≠ die) && es.any fun kv => keyDie kv.1 == d
/-- The entries that a die's own joiner writes. -/
def nearEntries (die : Nat) (es : List (Nat × Word)) : List (Nat × Word) :=
  es.filter fun kv => keyDie kv.1 == die || decide (16 ≤ keyDie kv.1)

/-- Write the source joiner's part: its die's entries, the injection entries last, and the circuit's base slots. A reply
that names no base slots changes nothing. -/
def commitJoin (r : JoinReply) (s : State) : State :=
  if r.base.isEmpty then s
  else (s.writeEntries r.near).setCircuit r.key { s.circuit r.key with base := r.base }

/-- Reserve more base slots for a circuit, once the quota admits them; the far dies' joiners write their entries first (R151).
A refused set-up has made no circuit, and its reply's CID is 0 (assumption 102). -/
def addBases (r : JoinReq) (key : Nat) (c : Circuit) (n : Nat) (s : State) : State :=
  let die := dieOf r.tile
  let cid := key % 4096
  let told := if c.live then cid else 0
  if overQuota s r.tenant c.fwd n then s.addReply die (refusal r 3 told c.base.length)
  else if c.fwd.any fun h => portDown s h.port then s.addReply die (refusal r 4 told c.base.length)
  else match takeBases s c.fwd c.rev n with
  | none => s.addReply die (refusal r 1 told c.base.length)
  | some bs =>
    let es := circuitEntries c cid bs
    let far := farDies die es
    let base := c.base ++ bs
    let reply : JoinReply :=
      { refusal r 0 cid base.length with far := far, key := key, base := base, near := nearEntries die es }
    let s1 := s.setCircuit key c
    if far.isEmpty then (commitJoin reply s1).addReply die { reply with base := [], near := [] }
    else (s1.sendFar die far es).addReply die reply

/-- Remove base slots: the injection entries go at once, the others after the words already injected have arrived, and
then the reply, if one waits for it (R152, step 4). -/
def dropBases (key : Nat) (bs : List Nat) (reply : Option JoinReply) (s : State) : State :=
  let c := s.circuit key
  let die := dieOf c.src
  let keys := (circuitEntries c 0 bs).map (·.1)
  let inj := keys.filter fun k => keyInjects k && keyDie k == die
  let wait := bs.foldl (fun n b => max n (travel s b c.fwd)) 0 + 1
  let s1 := (s.clearEntries inj).setCircuit key { c with base := c.base.filter fun b => !bs.contains b }
  { s1 with drains := s1.drains ++ [{ die := die, due := (s1.getDie die).fc + wait, key := key,
                                      keys := keys.filter fun k => !inj.contains k, reply := reply }] }

/-- Give a circuit `n` base slots (R153): added slots are the lowest usable, removed ones those acquired last (assumption 16). -/
def resizeTo (r : JoinReq) (key n : Nat) (s : State) : State :=
  let c := s.circuit key
  let held := c.base.length
  let done := refusal r 0 (key % 4096) n
  if held < n then addBases r key c (n - held) s
  else if n < held then dropBases key (c.base.drop n) (some done) s
  else s.addReply (dieOf r.tile) done

/-- Set up a circuit (R152, R199). Where the source die has no CID left, status 1 says so (assumption 101). -/
def setUp (r : JoinReq) (s : State) : State :=
  let die := dieOf r.tile
  if !permitted s r.tile r.dst r.dmod then s.addReply die (refusal r 2 0 0)
  else match (if r.chan then none else s.findCircuit r.tile r.slot r.dst) with
  | some key => resizeTo r key r.slots s
  | none => match requestPath s r with
    | .error .lost => s.addReply die (refusal r 4 0 0)
    | .error .noSlot =>
      let full : Bool := match requestPath s { r with slots := 0 } with
        | .ok x => overQuota s r.tenant x.1 r.slots
        | .error _ => false
      s.addReply die (refusal r (if full then 3 else 1) 0 0)
    | .ok (fwd, rev) =>
      if overQuota s r.tenant fwd r.slots then s.addReply die (refusal r 3 0 0)
      else match freeCid s die with
      | none => s.addReply die (refusal r 1 0 0)
      | some cid =>
        let c : Circuit :=
          { kind := if r.chan then .channel else .message, tenant := r.tenant, src := r.tile, sslot := r.slot,
            dst := r.dst, dslot := r.dslot, base := [], parked := false, asleep := false, buf := [], credits := 8,
            fwd := fwd, rev := rev }
        addBases r (circuitKey die cid) c r.slots s

/-- The tenant owns the circuit that the request names; memory, granary and combining circuits are no context's (R216). -/
def ownsCircuit (s : State) (r : JoinReq) : Bool :=
  let c := s.circuit (circuitKey (dieOf r.tile) r.cid)
  c.live && c.tenant == r.tenant && (c.kind == .message || c.kind == .channel)

/-- One request (R152, R199). -/
def joinWork (r : JoinReq) (s : State) : State :=
  let die := dieOf r.tile
  let key := circuitKey die r.cid
  match r.op with
  | 0#2 => setUp r s
  | 1#2 => if ownsCircuit s r then resizeTo r key r.slots s else s.addReply die (refusal r 5 r.cid 0)
  | 2#2 => if ownsCircuit s r then resizeTo r key 0 s else s.addReply die (refusal r 5 r.cid 0)
  | _ =>
    if ownsCircuit s r then s.addReply die (refusal r 0 r.cid (s.circuit key).base.length)
    else s.addReply die (refusal r 5 r.cid 0)

/-- The joiner waits for other dies' joiners (R151). -/
def farAwaited (s : State) (die : Nat) : Bool := (s.getDie die).replies.any fun x => !x.far.isEmpty
/-- The joiner has not finished its request: it waits for other dies' joiners, or for a drain (R151, R152). -/
def joinerWaits (s : State) (die : Nat) : Bool := farAwaited s die || s.drains.any fun d => d.die == die && d.reply.isSome

/-- `JOINER_REQUEST` (R151, R152): the next request, when it is the oldest work and the joiner waits for nothing. -/
def joinerRequestBody (die : Nat) (s : State) : Option State :=
  let d := s.getDie die
  match d.work with
  | .own r :: rest => if joinerWaits s die then none else some (joinWork r (s.setDie die { d with work := rest }))
  | _ => none
def execJoinerRequest (die : Nat) (s : State) : Result := event (decide (die < 16)) s (joinerRequestBody die)

/-- A far die's part is done: the reply no longer waits for it. -/
def farDone (die : Nat) (r : JoinReply) : JoinReply := { r with far := r.far.filter (· ≠ die) }
/-- The source joiner goes on once no far die is awaited. -/
def settleReplies (old : List JoinReply) (die : Nat) (s : State) : State :=
  old.foldl (fun s r => if !r.far.isEmpty && (farDone die r).far.isEmpty then commitJoin r s else s) s

/-- Another joiner's part among a joiner's work: at the head, or the oldest while the joiner itself waits for another die's
(assumption 33). -/
def nextFar (waits : Bool) : List JoinWork → Option FarWork
  | .far w :: _ => some w
  | .own _ :: r => if waits then nextFar waits r else none
  | [] => none

/-- `FAR_JOINER_WRITE` (R151). -/
def farJoinerWriteBody (die : Nat) (s : State) : Option State := do
  let d := s.getDie die
  guard (farAwaited s die || !joinerWaits s die)
  let w ← nextFar (farAwaited s die) d.work
  let s1 := (s.setDie die { d with work := d.work.erase (.far w) }).writeEntries w.keys
  let old := (s1.getDie w.src).replies
  some (settleReplies old die (s1.modDie w.src fun x => { x with replies := x.replies.map (farDone die) }))
def execFarJoinerWrite (die : Nat) (s : State) : Result := event (decide (die < 16)) s (farJoinerWriteBody die)

/-- `CIRCUIT_TEARDOWN_DRAIN` (R152): the words have arrived; the other entries go, each by its die's own joiner. -/
def teardownDrainBody (n : Nat) (s : State) : Option State := do
  let d ← s.drains[n]?
  if (s.getDie d.die).fc < d.due then none
  else
    let es := d.keys.map fun k => (k, (0 : Word))
    let far := farDies d.die es
    let s1 := ({ s with drains := s.drains.eraseIdx n }.writeEntries (nearEntries d.die es)).sendFar
      (if d.reply.isSome then d.die else 16) far es
    some (match d.reply with
      | some r => s1.addReply d.die { r with far := far }
      | none => s1)
def execCircuitTeardownDrain (n : Nat) (s : State) : Result := event true s (teardownDrainBody n)

/-- Word 1 of the joiner's record (R200). -/
def replyWord (r : JoinReply) : DWord := BitVec.ofNat 64 (r.status + r.cid * 2 ^ 16 + r.slots * 2 ^ 32)

/-- `JOINER_REPLY` (R200). -/
def joinerReplyBody (die : Nat) (s : State) : Option State :=
  let d := s.getDie die
  match d.replies with
  | r :: rest =>
    if r.far.isEmpty then
      some ((s.setDie die { d with replies := rest }).complete r.tile r.slot r.run 4 r.status 0 r.block (replyWord r))
    else none
  | [] => none
def execJoinerReply (die : Nat) (s : State) : Result := event (decide (die < 16)) s (joinerReplyBody die)

/-- A set-up under way over something that is lost ends with status 4, and what other joiners wrote for it is cleared (R393). -/
def cancelJoin (key : Nat) (s : State) : State :=
  let c := s.circuit key
  let hit (r : JoinReply) : Bool := !r.far.isEmpty && r.key == key
  let added := (s.dies.toList.flatMap fun d => d.replies.filter hit).flatMap fun r => r.base.filter fun b => !c.base.contains b
  let ks := (circuitEntries c (key % 4096) added).map (·.1)
  if added.isEmpty then s
  else
    { s.clearEntries ks with dies := s.dies.map fun d =>
        { d with replies := d.replies.map fun r => if hit r then { r with far := [], base := [], near := [], status := 4, slots := c.base.length } else r
                 work := d.work.filter fun w => match w with
                   | .far f => !f.keys.any fun kv => ks.contains kv.1
                   | .own _ => true } }

/-- Tear a circuit down: its channel words and credits are gone, its slots drain. -/
def killCircuit (s : State) (key : Nat) : State :=
  let s0 := cancelJoin key s
  let s1 := dropBases key (s0.circuit key).base none s0
  { s1 with circuits := SMap.set Circuit.none s1.circuits key Circuit.none
            words := s1.words.filter fun w => w.dst != .circuit (key / 4096) (key % 4096)
            credits := s1.credits.filter fun w => w != .circuit (key / 4096) (key % 4096) }

/-- Take a circuit out of its slot tables at once. -/
def uproot (key : Nat) (s : State) : State :=
  let c := s.circuit key
  (s.clearEntries ((circuitEntries c 0 c.base).map (·.1))).setCircuit key Circuit.none

/-! ### Memory and granary circuits (R216, R294, R413) -/

/-- Set up a circuit of the gate tree: its lane is its own, so the lowest base slots are free. -/
def plantGate (kind : CircKind) (lane tile tenant key n : Nat) (s : State) : State :=
  let bases := ((List.range 64).filter fun b => b != 0 && b != 32).take n
  let c : Circuit :=
    { kind := kind, tenant := tenant, src := tile, sslot := 0, dst := tile, dslot := 0, base := bases, parked := false,
      asleep := false, buf := [], credits := 0, fwd := gateHops lane 0 (kind == .granary),
      rev := gateHops lane 16 (kind == .granary) }
  (s.writeEntries (circuitEntries c (key % 4096) bases)).setCircuit key c

/-- The gate circuit of a kind that starts at a tile. -/
def gateCircuit (s : State) (kind : CircKind) (t : Nat) : Option Nat :=
  (s.circuits.find? fun kc => kc.2.kind == kind && kc.2.src == t).map (·.1)

/-- A bay's memory circuit is set up, with the tenant's memory slots (R216). -/
def plantMemory (tenant bay : Nat) (s : State) : State :=
  match freeCid s (laneDie bay) with
  | some cid =>
    (plantGate .memory bay (64 * bay) tenant (circuitKey (laneDie bay) cid) (s.getTenant tenant).memSlots s).modBay bay fun b => { b with memCid := some cid }
  | none => s
/-- A bay's memory circuit is torn down: nothing travels on it any more. -/
def uprootMemory (s : State) (bay : Nat) : State :=
  match (s.getBay bay).memCid with
  | some cid => (uproot (circuitKey (laneDie bay) cid) s).modBay bay fun b => { b with memCid := none }
  | none => s
/-- Granary circuits have numbers of their own: a die has more tiles than CIDs, and no context names one (assumption 95). -/
def granaryKey (t : Nat) : Nat := 16 * 4096 + t
/-- A tile's granary circuit, of 16 base slots each way (R294). -/
def plantGranary (tenant t : Nat) (s : State) : State := plantGate .granary (granaryLane t) t tenant (granaryKey t) 16 s
def uprootGranary (s : State) (t : Nat) : State :=
  match gateCircuit s .granary t with | some key => uproot key s | none => s

/-! ### Pull streams -/

/-- The rank by which a tile's table names a thread of this module, or 0xFFFF. -/
def rankFor (s : State) (t tile slot : Nat) : BitVec 16 :=
  match (s.getTile t).ranks.find? fun re =>
    re.2.valid && re.2.tileNo s.modNo == tile && re.2.slot.toNat == slot with
  | some re => BitVec.ofNat 16 re.1
  | none => 0xFFFF

/-- Bytes read as a stream reads them: stale granules contribute zeros, and the stream ends before a doubleword
that fails its check (R179, R414). What it reads beyond the scratchpad's end is free (assumption 35). -/
def streamRead (s : State) (t : Nat) (g : BitVec 12) : Nat → Nat → Nat → List Byte × Nat
  | 0, _, _ => ([], 0)
  | fuel + 1, a, n =>
    let k := min n (8 - a % 8)
    let rest (bs : List Byte) : List Byte × Nat :=
      let r := streamRead s t g fuel (a + k) (n - k)
      (bs ++ r.1, r.2)
    if n = 0 then ([], 0)
    else if 32768 ≤ a then rest ((List.range k).map fun j => Config.beyondByte (a + j))
    else match s.spRead t g false a k with
    | .ok bs => rest bs
    | .error e => if e.cause = causeMsgCheck then ([], 7) else rest (List.replicate k 0)

/-- The stream that a pull request starts. -/
def newStream (r : Req) (dst slot src n dstA blk : Nat) (s : State) : Stream :=
  let has := (s.findCircuit dst slot r.tile).isSome
  let d := if has then streamRead s dst (s.slotAt dst slot).gen (n / 8 + 1) src n else ([], 1)
  { tile := r.tile, slot := r.slot, run := r.run, offTile := dst, offSlot := slot,
    pullerRank := rankFor s dst r.tile r.slot, offRank := BitVec.ofNat 16 r.rank,
    src := BitVec.ofNat 15 src, dst := BitVec.ofNat 15 dstA, len := n, block := BitVec.ofNat 15 blk,
    data := d.1, status := d.2, done := false, noticed := d.2 == 1 }

/-- `PULL_REQUEST` (R179): the region is read as it stands now. -/
def pullRequestBody (n : Nat) (s : State) : Option State := do
  let f ← firstOnWire s n
  match f.req.op, f.req.route with
  | .pull src len dstA blk, .tile _ _ dst slot =>
    let st := newStream f.req dst slot src len dstA blk s
    let s1 := ({ s.dropFlight n with streams := s.streams ++ [st] } : State).correctAt dst src st.data.length
    some (if st.status = 7 then s1.modTile dst (·.seeBad (spCheckTrap (src + st.data.length))) else s1)
  | _, _ => none
def execPullRequest (n : Nat) (s : State) : Result := event true s (pullRequestBody n)

/-- Streams whose completion and notice are both dealt with leave the list. -/
def State.setStream (s : State) (n : Nat) (st : Stream) : State :=
  if st.done && st.noticed then { s with streams := s.streams.eraseIdx n } else { s with streams := s.streams.set n st }

/-- Every request injected earlier on the stream's circuit has arrived, and no earlier stream uses it. -/
def streamFirst (s : State) (n : Nat) (st : Stream) : Bool :=
  match s.findCircuit st.offTile st.offSlot st.tile with
  | none => true
  | some key =>
    !(s.flights.any fun f => f.phase == .wire &&
        (match f.req.route with | .tile d c _ _ => circuitKey d c == key | _ => false))
      && !(s.streams.take n).any (·.occupies s key) && !(s.circuit key).parked

/-- The record of a pull (Table 17.3): [47:32] a rank, [30:16] the length, [14:0] an address. -/
def pullWord (rank : BitVec 16) (len : Nat) (a : BitVec 15) : DWord :=
  0#16 ++ rank ++ 0#1 ++ BitVec.ofNat 15 len ++ 0#1 ++ a

/-- Write what the stream carried, as writes of the puller's context (R179). A granule that is ahead ends the
writes, and GEN_FUTURE goes to that context (R227). -/
def streamWrite (st : Stream) (s : State) : State :=
  let sl := s.slotAt st.tile st.slot
  if sl.run = st.run then
    let r := s.spWriteSpan st.tile sl.gen 1025 st.dst.toNat st.data
    match r.2 with
    | some t => r.1.modSlotAt st.tile st.slot fun x => { x with perr := x.perr ++ [⟨t⟩] }
    | none => r.1
  else s

/-- `PULL_COMPLETION` (R180). -/
def pullCompletionBody (n : Nat) (s : State) : Option State := do
  let st ← s.streams[n]?
  if !st.done && streamFirst s n st then
    let s1 := streamWrite st s
    let s2 := s1.complete st.tile st.slot st.run 2 st.status 0 0 (pullWord st.offRank st.len st.dst)
    some (s2.setStream n { st with done := true })
  else none
def execPullCompletion (n : Nat) (s : State) : Result := event true s (pullCompletionBody n)

/-- A release notice enters an inbox, or is counted in DROP where the inbox is full; without a thread it is discarded. The
places that completions owed will take are full ones: a completion always finds room (R310, assumption 36). -/
def postNotice (st : Stream) (s : State) : State :=
  let sl := s.slotAt st.offTile st.offSlot
  if sl.st == .empty then s
  else if sl.inbox.length + (s.getTile st.offTile).engineNe st.offSlot < 16 then
    s.postInbox st.offTile st.offSlot sl.run 3 0 0 0 (pullWord st.pullerRank st.len st.src)
  else s.setSlotAt st.offTile st.offSlot { sl with drop := if sl.drop = 255 then 255 else sl.drop + 1 }

/-- `PULL_RELEASE_NOTICE` (R180): after the last read. -/
def pullReleaseNoticeBody (n : Nat) (s : State) : Option State := do
  let st ← s.streams[n]?
  if st.noticed then none else some ((postNotice st s).setStream n { st with noticed := true })
def execPullReleaseNotice (n : Nat) (s : State) : Result := event true s (pullReleaseNoticeBody n)

/-! ### Rank entries -/

def Tile.setRank (tl : Tile) (r : Nat) (e : RankEntry) : Tile := { tl with ranks := SMap.set RankEntry.reset tl.ranks r e }

/-- A message to a rank goes where the rank's entry now says, on the context's circuit to that tile; without one, the NI
goes on holding it (R162). -/
def Req.reroute (s : State) (rank : Nat) (e : RankEntry) (r : Req) : Req :=
  match r.op, r.route with
  | .msg _ _, .tile die cid _ _ =>
    if r.rank = rank then
      let dst := e.tileNo s.modNo
      let key := (s.findCircuit r.tile (if 8 ≤ r.slot + ((s.getTile r.tile).launch.map (·.h.toNat)).getD 0 then 0 else r.slot) dst).getD
        (circuitKey die cid)
      { r with route := .tile (key / 4096) (key % 4096) dst e.slot.toNat }
    else r
  | _, _ => r
/-- `RANK_ENTRY_WRITE` (R161, R162): with TRANSIT cleared, the held messages take their turns again, to the new place. -/
def rankEntryWriteBody (t r : Nat) (v : DWord) (s : State) : Option State :=
  let e := RankEntry.ofDWord v
  let s1 := s.modTile t (·.setRank r e)
  some (if ((s.getTile t).rank r).transit && !e.transit then
    s1.modTile t fun tl => { tl with slots := tl.slots.map fun sl => { sl with niq := sl.niq.map (Req.reroute s1 r e) } }
  else s1)
def execRankEntryWrite (t r : Nat) (v : BitVec 64) (s : State) : Result :=
  event (tileOk t && decide (r < 4096)) s (rankEntryWriteBody t r v)

end Sys2Proof.Machine
end

