-- ==== Sys2Proof/Machine/Image.lean ====
section
/-! DEFINITION. The 112-byte context layout (Table 20.4), as the context window and the tile image show it. -/

namespace Sys2Proof.Machine

/-- Two words as a doubleword, the lower address first. -/
def pairWord (lo hi : Word) : DWord := hi ++ lo

/-- V, P or another list of words, two to a doubleword. -/
def lanePair (b : Bank) (j : Nat) : DWord := pairWord (b.v.toList.getD (2 * j) 0) (b.v.toList.getD (2 * j + 1) 0)
def ptrPair (b : Bank) (j : Nat) : DWord :=
  pairWord ((b.p.toList.getD (2 * j) Ptr.reset).toWord) ((b.p.toList.getD (2 * j + 1) Ptr.reset).toWord)

/-- Offset 0x50: the return stack. -/
def stackWord (b : Bank) : DWord := 0#5 ++ b.depth ++ b.rs[3] ++ b.rs[2] ++ b.rs[1] ++ b.rs[0]

/-- Offset 0x58. -/
def miscWord (sl : Slot) : DWord :=
  let j : BitVec 6 := match sl.join with
    | some j => BitVec.ofBool j.completed ++ 1#1 ++ j.level
    | none => 0
  BitVec.ofNat 24 (if sl.pauseDue then 0 else sl.pause) ++ 0#4 ++ BitVec.ofBool sl.user.vPend ++ BitVec.ofBool sl.user.aPend ++ j ++ sl.hint
    ++ sl.user.pcfg ++ 0#2 ++ sl.user.pc

/-- Offset 0x60. -/
def waveWord (sl : Slot) : DWord := match sl.wave with | some w => w.contrib | none => 0

/-- Offset 0x68. -/
def policyWord (tl : Tile) (k : Nat) : DWord :=
  let sl := tl.slot k
  let owns := tl.ownedBy k
  let w : BitVec 7 := match sl.wave with | some w => 1#1 ++ w.op ++ w.level | none => 0
  0#23 ++ BitVec.ofBool sl.gpol ++ sl.wdogb ++ 0#11 ++ BitVec.ofBool (owns && tl.rel) ++ BitVec.ofBool owns ++ w

/-- Doubleword `j` of the context in slot `k`. -/
def contextWord (tl : Tile) (k j : Nat) : DWord :=
  let sl := tl.slot k
  let b := sl.user
  if j = 0 then b.a
  else if j < 5 then lanePair b (j - 1)
  else if j < 9 then ptrPair b (j - 5)
  else if j = 9 then b.f.toHalf ++ b.rpt.toBits
  else if j = 10 then stackWord b
  else if j = 11 then miscWord sl
  else if j = 12 then waveWord sl
  else policyWord tl k

/-- Set two lanes of V, or two pointers. -/
def setLanes (j : Nat) (v : DWord) (b : Bank) : Bank :=
  { b with v := (b.v.set! (2 * j) (v.extractLsb' 0 32)).set! (2 * j + 1) (v.extractLsb' 32 32) }
def setPtrs (j : Nat) (v : DWord) (b : Bank) : Bank :=
  { b with p := (b.p.set! (2 * j) (Ptr.ofWord (v.extractLsb' 0 32))).set! (2 * j + 1) (Ptr.ofWord (v.extractLsb' 32 32)) }

/-- Write doubleword `j` through the context window: its read-only bits stay (R372). A class hint of 7, which Table 7.1 does
not have, is kept and weighs by its number (assumption 93). -/
def setContextWord (j : Nat) (v : DWord) (sl : Slot) : Slot :=
  let b := sl.user
  if j = 0 then { sl with user := { b with a := v } }
  else if j < 5 then { sl with user := setLanes (j - 1) v b }
  else if j < 9 then { sl with user := setPtrs (j - 5) v b }
  else if j = 9 then
    { sl with user := { b with f := Flags.ofHalf (v.extractLsb' 48 16), rpt := Rpt.ofBits (v.extractLsb' 0 48) } }
  else if j = 10 then
    { sl with user := { b with
        depth := v.extractLsb' 56 3,
        rs := #v[v.extractLsb' 0 14, v.extractLsb' 14 14, v.extractLsb' 28 14, v.extractLsb' 42 14] } }
  else if j = 11 then
    { sl with
        user := { b with pc := v.extractLsb' 0 14, pcfg := v.extractLsb' 16 9 },
        hint := v.extractLsb' 25 3, pause := (v.extractLsb' 40 24).toNat, pauseDue := false }
  else sl

/-- The bits of offsets 0x58 and 0x60 to 0x6F that only a restore sets (Table 20.4). The result of a held wave is
to be combined again. -/
def restoreWords (misc wave policy : DWord) (sl : Slot) : Slot :=
  { sl with
    user := { sl.user with vPend := misc.getLsbD 35, aPend := misc.getLsbD 34 },
    join := if misc.getLsbD 32 then some ⟨misc.extractLsb' 28 4, misc.getLsbD 33⟩ else none,
    wave := if policy.getLsbD 6 then some ⟨policy.extractLsb' 0 4, policy.extractLsb' 4 2, wave, 0, none⟩ else none,
    gpol := policy.getLsbD 40, wdogb := policy.extractLsb' 20 20 }

/-- The window accepts a slot in state SUPERVISOR, STOPPING or EMPTY (R372). -/
def Slot.windowOpen (sl : Slot) : Bool := sl.st == .supervisor || sl.st == .stopping || sl.st == .empty

end Sys2Proof.Machine
end

