-- ==== Sys2Proof/Machine/Device.lean ====
section
/-! DEFINITION. The loft windows and the device blocks of space 0xE (R229, R356, R372, R373, R390, R395, R400,
R410, R411), as supervisor accesses and the management side reach them. -/

namespace Sys2Proof.Machine

/-- What an access to a window or register can come back with. -/
inductive DevErr where
  /-- Refused as the block's rules say. -/
  | prot
  /-- The spec gives the block or offset no meaning (R211). -/
  | unknown
  /-- The named tile or bay does not exist (R1). -/
  | absent
  /-- The named die is down (R393). -/
  | lost
deriving DecidableEq, Repr

/-! ### Registers as doublewords -/

/-- Table 21.3. -/
def Pwr.toDWord (p : Pwr) : DWord := p.budget ++ p.draw ++ p.scale ++ 0#15 ++ BitVec.ofBool p.rot ++ p.t
def Pwr.write (p : Pwr) (v : DWord) : Pwr :=
  { p with budget := v.extractLsb' 48 16, rot := v.getLsbD 7, t := v.extractLsb' 0 7 }
/-- Table 21.4. -/
def Bay.rateReg (b : Bay) : DWord :=
  let f (r : Rate) : BitVec 16 := r.cap ++ 0#1 ++ r.rate
  f b.rm ++ f b.rv ++ f b.rs ++ f b.rx
/-- Table 25.1. -/
def LinkStat.toDWord (l : LinkStat) : DWord :=
  BitVec.ofBool l.up ++ BitVec.ofBool l.present ++ 0#14 ++ l.retrain ++ 0#26 ++ l.offset
/-- Table 25.2. -/
def BayMap.toDWord (m : BayMap) : DWord :=
  BitVec.ofBool m.insrv ++ BitVec.ofBool m.transit ++ 0#4 ++ m.phys ++ 0#47 ++ BitVec.ofBool m.retold
def BayMap.write (m : BayMap) (v : DWord) : BayMap :=
  { m with insrv := v.getLsbD 63, transit := v.getLsbD 62, phys := v.extractLsb' 48 10 }
/-- Table 26.1. -/
def SplStat.toDWord (p : SplStat) : DWord :=
  BitVec.ofBool p.up ++ BitVec.ofBool p.present ++ 0#14 ++ p.realign ++ p.lat ++ 0#10 ++ p.off
/-- Table 27.2. -/
def BootStat.toDWord (b : BootStat) : DWord := b.stage ++ b.err ++ b.dies ++ b.gran ++ 0#16 ++ b.svn
/-- Table 8.8. -/
def Perm.reset : Perm := ⟨false, 0, 0, 0, 0⟩
def Perm.ofDWord (v : DWord) : Perm :=
  ⟨v.getLsbD 63, v.extractLsb' 40 12, v.extractLsb' 36 4, v.extractLsb' 16 10, v.extractLsb' 0 10⟩
/-- Table 22.3. -/
def OvfRec.info (r : OvfRec) : DWord := BitVec.ofBool r.valid ++ 0#15 ++ r.seq ++ 0#22 ++ r.q ++ 0#5 ++ r.slot
/-- OOVF: bit 4s + q. -/
def oovfReg (tl : Tile) : DWord :=
  BitVec.ofNat 64 ((List.range 32).foldl (fun n i =>
    if ((tl.slot (i / 4)).queue (BitVec.ofNat 2 i)).ovf then n + 2 ^ i else n) 0)

/-! ### The debug window (R229) -/

/-- The debug-access meter of the tenant that holds the tile's bay. -/
def meterDebug (t : Nat) (s : State) : State :=
  match s.bayTenant (bayOf t) with | some n => s.hubMeter n 8 1 | none => s

def debugOk (off : Nat) : Bool := off % 8 == 0 && decide (off < 32768)
def debugRead (t off : Nat) (s : State) : DWord := dwordOf (readBytes s.mem (spadBase t + off) 8)
def debugWrite (t off : Nat) (v : DWord) (s : State) : State :=
  { s with mem := writeBytes s.mem (spadBase t + off) (bytesOf 8 v) }.modTile t fun tl =>
    { tl with bad := tl.bad.filter (· ≠ off / 8), soft := tl.soft.filter (· ≠ off / 8) }
def debugTag (t off : Nat) (s : State) : DWord := ((s.getTile t).tag (off / 32)).zeroExtend 64
def setDebugTag (t off : Nat) (v : DWord) (s : State) : State := s.modTile t (·.setTag (off / 32) (v.extractLsb' 0 12))

/-- A read's answer to whoever asked from outside. -/
def answerRead (v : DWord) (s : State) : State := { s with out := s.out ++ [.read v] }
def answerRefused (s : State) : State := { s with out := s.out ++ [.refused] }

/-- `DEBUG_DATA_READ` (R229). -/
def debugDataReadBody (t off : Nat) (s : State) : Option State :=
  some (if debugOk off then answerRead (debugRead t off s) ((meterDebug t s).correctAt t off 8) else answerRefused s)
def execDebugDataRead (t off : Nat) (s : State) : Result := event (tileOk t) s (debugDataReadBody t off)

/-- `DEBUG_DATA_WRITE` (R229): the tag stays. -/
def debugDataWriteBody (t off : Nat) (v : DWord) (s : State) : Option State :=
  some (if debugOk off then debugWrite t off v (meterDebug t s) else answerRefused s)
def execDebugDataWrite (t off : Nat) (v : BitVec 64) (s : State) : Result :=
  event (tileOk t) s (debugDataWriteBody t off v)

/-- `DEBUG_TAG_READ` (R229): the tag of granule off[14:5]. -/
def debugTagReadBody (t off : Nat) (s : State) : Option State :=
  some (if debugOk off && off % 32 == 0 then answerRead (debugTag t off s) (meterDebug t s) else answerRefused s)
def execDebugTagRead (t off : Nat) (s : State) : Result := event (tileOk t) s (debugTagReadBody t off)

/-- `DEBUG_TAG_WRITE` (R229). -/
def debugTagWriteBody (t off : Nat) (v : DWord) (s : State) : Option State :=
  some (if debugOk off && off % 32 == 0 then setDebugTag t off v (meterDebug t s) else answerRefused s)
def execDebugTagWrite (t off : Nat) (v : BitVec 64) (s : State) : Result :=
  event (tileOk t) s (debugTagWriteBody t off v)

/-! ### The context window (R372) -/

/-- Read or write doubleword `j` of a slot's context. -/
def windowRead (t k j : Nat) (s : State) : Except DevErr DWord :=
  if (s.slotAt t k).windowOpen && decide (j < 14) then .ok (contextWord (s.getTile t) k j) else .error .prot
def windowWrite (t k j : Nat) (v : DWord) (s : State) : Except DevErr State :=
  if (s.slotAt t k).windowOpen && decide (j < 14) then .ok (s.modSlotAt t k (setContextWord j v)) else .error .prot

/-- `CONTEXT_WINDOW_ACCESS` (R372): a read, or a write of `v`. -/
def contextWindowBody (t k off : Nat) (v : Option DWord) (s : State) : Option State :=
  if off % 8 ≠ 0 then some (answerRefused s)
  else match v with
  | none => match windowRead t k (off / 8) s with
    | .ok x => some (answerRead x s)
    | .error _ => some (answerRefused s)
  | some x => match windowWrite t k (off / 8) x s with
    | .ok s' => some s'
    | .error _ => some (answerRefused s)
def execContextWindowAccess (t k off : Nat) (v : Option (BitVec 64)) (s : State) : Result :=
  event (ctxOk t k) s (contextWindowBody t k off v)

/-! ### The loft window (R24, R79, R211) -/

/-- `LOFT_WINDOW_WRITE` (R79, R135). -/
def loftWindowWriteBody (bay word : Nat) (v : Word) (s : State) : Option State := some (writeLoftWord bay word v s)
def execLoftWindowWrite (bay word : Nat) (v : BitVec 32) (s : State) : Result :=
  event (decide (bay < 10240) && decide (word < 16384)) s (loftWindowWriteBody bay word v)

/-- Store bytes into the loft: the words they lie in are written. -/
def writeLoftBytes (bay off : Nat) (data : List (Option Byte)) (s : State) : State :=
  let s1 := { s with mem := writeSome s.mem (loftBase bay + off) data }
  (List.range ((off + data.length + 3) / 4 - off / 4)).foldl (fun s j =>
    writeLoftWord bay (off / 4 + j) (loftWord s bay (off / 4 + j)) s) s1

/-! ### Management registers -/

/-- Table 27.3, with the reserved bits zero. -/
def serviceKey (stack ix : Nat) : Nat := stack * 64 + ix
/-- Write the bay map of a bay that holds no launch (R395). -/
def writeBayMap (die bay : Nat) (v : DWord) (s : State) : State :=
  if (s.getBay (Config.baysPerDie * die + bay)).launch.isSome ∨ Config.baysPerDie ≤ bay then s
  else s.modDie die fun d => d.setBayMap bay ((d.bayMap bay).write v)

/-- The register exists, and a bay map's new value names a physical bay that exists (Table 0.1, R340, R336, R395,
assumption 99). -/
def devRegOk (r : DevReg) (v : DWord) : Bool :=
  match r with
  | .pwrctl die => decide (die < 16)
  | .baymap die bay => decide (die < 16) && decide (bay < Config.baysPerDie) && decide ((v.extractLsb' 48 10).toNat < 644)
  | .permission bay entry => decide (bay < 10240) && decide (entry < 32)
  | .linkstat die edge => decide (die < 16) && decide (edge < 4)
  | .splstat port => decide (port < 16)
  | .bootstat | .ptRoot | .sliceLength => true
  | .tenantWeight t | .tenantBudget t | .tenantColours t | .tenantQuota t | .tenantMemSlots t | .tenantDomain t
  | .tenantSave t _ => decide (t < 512)
  | .tenantBay t bay => decide (t < 512) && decide (bay < 10240)
  | .tenantRight t ix _ => decide (t < 512) && decide (ix < 16)
  | .queueDomain t q => decide (t < 512) && decide (q < 512)
  | .queueTenant q => decide (q < 512)
  | .vfQueue vf | .vfBase vf _ => decide (vf < 256)
  | .upsetScratchpad t d => tileOk t && decide (d < 4096)
  | .upsetBulk stack d => decide (stack < 16) && decide (8 * d < Config.stackBytes)
  | .upsetFlight _ | .upsetWord _ => true

def State.modTenant (s : State) (t : Nat) (f : Tenant → Tenant) : State := s.setTenant t (f (s.getTenant t))

/-- A bay enters a partition's ascending list, or leaves it. -/
def setBayIn (on : Bool) (bay : Nat) (l : List Nat) : List Nat :=
  l.filter (· < bay) ++ (if on then [bay] else []) ++ l.filter (bay < ·)

/-- Half of a right, as the doublewords of a PLB entry (Table 11.2). -/
def Plb.writeHalf (e : Plb) (high : Bool) (v : DWord) : Plb :=
  if high then { e with base := v.extractLsb' 0 56 } else { Plb.ofDWords v 0 with base := e.base }

/-- Half of a VA: its low doubleword, or the bits above. -/
def vaHalf (va : VA) (high : Bool) (v : DWord) : VA :=
  if high then v.extractLsb' 0 8 ++ va.extractLsb' 0 64 else va.extractLsb' 64 8 ++ v

/-- What no register layout of the spec covers: settings of the reeve and the device runtime (assumption 12). A weight or
a count of memory slots outside its range is ignored. -/
def settingBody (r : DevReg) (v : DWord) (s : State) : Option State :=
  match r with
  | .ptRoot => some { s with ptRoot := ((v.extractLsb' 60 4).toNat, (v.extractLsb' 0 60).toNat) }
  | .sliceLength => some { s with slice := v.toNat }
  | .tenantWeight t => if 1 ≤ v.toNat ∧ v.toNat ≤ 255 then some (s.modTenant t fun x => { x with weight := v.toNat }) else none
  | .tenantBudget t => some (s.modTenant t fun x => { x with budget := v.toInt })
  | .tenantColours t => some (s.modTenant t fun x => { x with colours := v })
  | .tenantQuota t => some (s.modTenant t fun x => { x with quota := v.toNat })
  | .tenantMemSlots t =>
    if 1 ≤ v.toNat ∧ v.toNat ≤ 32 then some (s.modTenant t fun x => { x with memSlots := v.toNat }) else none
  | .tenantBay t bay => some (s.modTenant t fun x => { x with part := setBayIn (v.getLsbD 0) bay x.part })
  | .tenantSave t high => some (s.modTenant t fun x => { x with save := vaHalf x.save high v })
  | .tenantRight t ix high => some (s.modTenant t fun x =>
      { x with rights := ((x.rights ++ List.replicate 16 Plb.reset).take 16).set ix
                 ((x.rights.getD ix Plb.reset).writeHalf high v) })
  | .tenantDomain t => some (s.modTenant t fun x => { x with dom := v.extractLsb' 0 16 })
  | .queueDomain t q => some (s.modTenant t fun x =>
      { x with doms := SMap.set none x.doms q (if v.toNat < 65536 then some (v.extractLsb' 0 16) else none) })
  | .queueTenant q => some { s with queues := SMap.set queueNone s.queues q (min v.toNat 512, (s.queueOf q).2) }
  | .vfQueue vf => some { s with vfs := SMap.set (512, 0) s.vfs vf (min v.toNat 512, (SMap.get (512, 0) s.vfs vf).2) }
  | .vfBase vf high =>
    let x := SMap.get (512, 0) s.vfs vf
    some { s with vfs := SMap.set (512, 0) s.vfs vf (x.1, vaHalf x.2 high v) }
  | _ => none

/-- An error strikes a code word (R230, R231): with bit 0 of the value one that the code cannot correct. -/
def upsetBody (r : DevReg) (hard : Bool) (s : State) : Option State :=
  match r with
  | .upsetScratchpad t d => some (s.modTile t fun tl =>
      if hard then { tl with bad := d :: tl.bad.filter (· ≠ d), soft := tl.soft.filter (· ≠ d) }
      else if tl.bad.contains d || tl.soft.contains d then tl else { tl with soft := d :: tl.soft })
  | .upsetBulk stack d =>
    if hard then some { s with badBulk := (bulkBase stack / 8 + d) :: s.badBulk.filter (· ≠ bulkBase stack / 8 + d) } else none
  | .upsetFlight n =>
    if hard then some { s with flights := s.flights.modify n fun f => { f with req := { f.req with bad := true } } } else none
  | .upsetWord n => if hard then some { s with words := s.words.modify n fun w => { w with bad := true } } else none
  | _ => none

/-- `REGISTER_WRITE` (R10): read-only registers ignore it. -/
def registerWriteBody (r : DevReg) (v : DWord) (s : State) : Option State :=
  match r with
  | .pwrctl die => some (s.modDie die fun d => { d with pwr := d.pwr.write v })
  | .baymap die bay => some (writeBayMap die bay v s)
  | .permission bay entry => some (s.modBay bay fun b =>
      { b with perms := ((b.perms ++ List.replicate 32 Perm.reset).take 32).set entry (Perm.ofDWord v) })
  | .linkstat _ _ | .splstat _ | .bootstat => none
  | .upsetScratchpad _ _ | .upsetBulk _ _ | .upsetFlight _ | .upsetWord _ => upsetBody r (v.getLsbD 0) s
  | _ => settingBody r v s
def execRegisterWrite (r : DevReg) (v : BitVec 64) (s : State) : Result := event (devRegOk r v) s (registerWriteBody r v)

/-- `FLEET_LIST_WRITE` (R401): up to 16 modules. -/
def fleetListBody (tenant : Nat) (mods : List Nat) (s : State) : Option State :=
  some (s.setTenant tenant { s.getTenant tenant with fleet := mods.take 16 })
def execFleetListWrite (tenant : Nat) (mods : List Nat) (s : State) : Result :=
  event (decide (tenant < 512)) s (fleetListBody tenant mods)

/-! ### Supervisor accesses to spaces 0xD and 0xE -/

/-- The tile that VA[59:40] names by die, X and Y. -/
def vaTile (va : VA) : Except DevErr Nat :=
  let y := (va.extractLsb' 40 8).toNat
  if y < 160 then .ok (tileAt (va.extractLsb' 56 4).toNat (va.extractLsb' 48 8).toNat y) else .error .absent
def vaDie (va : VA) : Nat := (va.extractLsb' 56 4).toNat

/-- A register of a die-wide block: VA[55:16] are zero. -/
def regOffset (va : VA) : Except DevErr Nat :=
  if va.extractLsb' 16 40 = 0 then .ok (va.extractLsb' 0 16).toNat else .error .unknown
def hubOffset (va : VA) : Except DevErr Nat :=
  if va.extractLsb' 16 44 = 0 then .ok (va.extractLsb' 0 16).toNat else .error .unknown

/-- A doubleword of the overflow ring's block (R373). -/
def ringRead (t off : Nat) (s : State) : Except DevErr DWord :=
  let tl := s.getTile t
  if off < 0x400 then .ok ((tl.ovfRec (off / 128)).words.getD (off % 128 / 8) 0)
  else if off < 0x440 then .ok (tl.ovfRec ((off - 0x400) / 8)).info
  else if off = 0x440 then .ok (oovfReg tl)
  else .error .unknown
/-- A write there: VALID and REDO of OINFO, W1C of OOVF; a record's words are the runtime's to leave (R415). -/
def ringWrite (t off : Nat) (v : DWord) (s : State) : Except DevErr State :=
  if off < 0x400 then .ok s
  else if off < 0x440 then
    let j := (off - 0x400) / 8
    if v.getLsbD 63 then .ok s
    else if v.getLsbD 62 then .ok (redoRecord s t j)
    else .ok (s.modTile t (oinfoFreeTile j))
  else if off = 0x440 then .ok (s.modTile t (oovfClearTile v))
  else .error .unknown

/-- BOOTSTAT and the measurement registers by offset (R410). -/
def hubRegister (off : Nat) (s : State) : Option DWord :=
  if off = 0 then some s.boot.toDWord
  else if 0x100 ≤ off ∧ off < 0x200 ∧ off % 8 = 0 then
    some ((s.meas.toList.getD ((off - 0x100) / 32) 0).extractLsb' ((off - 0x100) % 32 * 8) 64)
  else none

/-- A doubleword read of space 0xE. -/
def deviceRead (va : VA) (s : State) : Except DevErr (DWord × State) := do
  let low := (va.extractLsb' 0 16).toNat
  match (va.extractLsb' 60 8).toNat with
  | 1 => do
    let t ← vaTile va
    if low < 32768 then .ok (debugRead t low s, (meterDebug t s).correctAt t low 8)
    else if low % 32 = 0 then .ok (debugTag t (low - 32768) s, meterDebug t s)
    else .error .prot
  | 2 => do let t ← vaTile va; let v ← ringRead t (low % 4096) s; .ok (v, s)
  | 3 => do let t ← vaTile va; let v ← windowRead t (low / 256 % 8) (low % 128 / 8) s; .ok (v, s)
  | 5 => do
    let off ← regOffset va
    if off = 0 then .ok ((s.getDie (vaDie va)).pwr.toDWord, s)
    else if 0x1000 ≤ off ∧ off < 0x1000 + 8 * 640 then
      .ok ((s.getBay (Config.baysPerDie * vaDie va + (off - 0x1000) / 8)).rateReg, s)
    else .error .unknown
  | 6 => do
    let off ← regOffset va
    if off < 8 * 640 then .ok (((s.getDie (vaDie va)).bayMap (off / 8)).toDWord, s)
    else if 0x1800 ≤ off ∧ off < 0x1820 then
      .ok ((((s.getDie (vaDie va)).links.toList.getD ((off - 0x1800) / 8) LinkStat.reset)).toDWord, s)
    else .error .unknown
  | 7 => do
    let off ← regOffset va
    if off < 128 then .ok ((s.splines.toList.getD (off / 8) SplStat.reset).toDWord, s) else .error .unknown
  | 8 => do
    let off ← hubOffset va
    match hubRegister off s with | some v => .ok (v, s) | none => .error .unknown
  | 9 => do
    let off ← hubOffset va
    if off < 512 * 16 then .ok ((SMap.get 0 s.wheels (off / 8)).zeroExtend 64, s) else .error .unknown
  | _ => .error .unknown

/-- A doubleword write of space 0xE by a supervisor context. Registers that only the reeve, its firmware or the
hardware writes ignore it (R356, R395, R406, R411). -/
def deviceWrite (va : VA) (v : DWord) (s : State) : Except DevErr State := do
  let low := (va.extractLsb' 0 16).toNat
  match (va.extractLsb' 60 8).toNat with
  | 1 => do
    let t ← vaTile va
    if low < 32768 then .ok (debugWrite t low v (meterDebug t s))
    else if low % 32 = 0 then .ok (setDebugTag t (low - 32768) v (meterDebug t s))
    else .error .prot
  | 2 => do let t ← vaTile va; ringWrite t (low % 4096) v s
  | 3 => do let t ← vaTile va; windowWrite t (low / 256 % 8) (low % 128 / 8) v s
  | _ => do let r ← deviceRead va s; .ok r.2

/-- The doubleword whose bytes are stored; absent bytes cannot occur in a doubleword store. -/
def storeWord (data : List (Option Byte)) : DWord := dwordOf (data.map fun b => b.getD 0)

/-- The die that an access on the configuration circuit names (R211, R229, R356, R372, R373, R390, R395). -/
def configDie (va : VA) : Option Nat :=
  if vaSpace va = 0xD then some (vaDie va)
  else if vaSpace va = 0xE ∧ (va.extractLsb' 60 8).toNat ∈ [1, 2, 3, 5, 6] then some (vaDie va) else none
/-- That die is down: it is lost (R393). -/
def configLost (va : VA) (s : State) : Bool := match configDie va with | some d => !(s.getDie d).up | none => false

/-- A load of `n` bytes of space 0xD or 0xE. -/
def configRead (va : VA) (n : Nat) (s : State) : Except DevErr (List Byte × State) :=
  if configLost va s then .error .lost
  else if vaSpace va = 0xD then
    let b := (va.extractLsb' 38 10).toNat
    if b < Config.baysPerDie then
      .ok (readBytes s.mem (loftBase (Config.baysPerDie * vaDie va + b) + (va.extractLsb' 0 16).toNat) n, s)
    else .error .absent
  else if n = 8 then
    match deviceRead va s with | .ok (v, s') => .ok (bytesOf 8 v, s') | .error e => .error e
  else .error .prot

/-- A store of bytes to space 0xD or 0xE. -/
def configWrite (va : VA) (data : List (Option Byte)) (s : State) : Except DevErr State :=
  if configLost va s then .error .lost
  else if vaSpace va = 0xD then
    let b := (va.extractLsb' 38 10).toNat
    if b < Config.baysPerDie then
      .ok (writeLoftBytes (Config.baysPerDie * vaDie va + b) (va.extractLsb' 0 16).toNat data s)
    else .error .absent
  else if data.length = 8 then deviceWrite va (storeWord data) s
  else .error .prot

end Sys2Proof.Machine
end

