-- ==== Sys2Proof/Machine/Memory.lean ====
section
/-! DEFINITION. Accesses at their homes and their replies (R253 to R258, R265), translation and page faults (R215 to
R224), host memory (R260, R398) and the host's window onto bulk memory (R396). -/

namespace Sys2Proof.Machine

/-! ### Replies at the issuing context (R253, R255, R257) -/

def causeName (t : Trap) : BitVec 8 := t.cause

/-- The deferred report of an access (R257). -/
def deferredErr (r : Req) (cause : BitVec 8) : PendErr :=
  ⟨⟨cause, r.va.extractLsb' 0 64, { spchk := false, defer := true, apc := r.pc, vax := r.va.extractLsb' 64 8 }⟩⟩

/-- The bank a request was issued from. -/
def Slot.bankOf (sl : Slot) (sup : Bool) : Bank := if sup then sl.sup else sl.user
def Slot.setBankOf (sl : Slot) (sup : Bool) (b : Bank) : Slot := if sup then { sl with sup := b } else { sl with user := b }

/-- The context that issued the request is still in the slot. -/
def Req.current (r : Req) (sl : Slot) : Bool := sl.run == r.run
/-- The reply still has a destination: the bank is waiting for it. A user bank is its context's; the supervisor bank stays
with the slot and what it is owed comes to it whatever context has followed (R325). -/
def Req.awaited (r : Req) (sl : Slot) : Bool :=
  let b := sl.bankOf r.sup
  (r.sup || r.current sl) &&
    match r.op with
    | .load _ none => b.aPend
    | .load _ (some _) => b.vPend
    | .amo _ _ _ _ => b.aPend
    | _ => false

/-- The acquire that waits in the slot is done (R242). -/
def Slot.endAcquire (sl : Slot) (err : Option Trap) : Slot :=
  match sl.entered with
  | .acquire sel p _ _ => { sl with entered := .acquire sel p err true }
  | _ => sl

/-- Write a reply's value into its bank. -/
def replyValue (r : Req) (val : List Byte) (hit : Bool) (b : Bank) : Bank :=
  match r.op with
  | .load n none => { b with a := sextN n (dwordOf val), aPend := false }
  | .load _ (some m) =>
    { b with v := maskLanes m b.v (vec8 fun i => wordOf ((val.drop (4 * i)).take 4)), vPend := false }
  | .amo fn n _ _ =>
    { b with
      a := extN (amoSigned fn) n (dwordOf val), aPend := false
      f := if fn = .acas then b.f.setZ hit else b.f
      zPend := if fn = .acas then false else b.zPend }
  | _ => b

/-- The destination is pending no longer and keeps its value. -/
def replyKeep (r : Req) (b : Bank) : Bank :=
  match r.op with
  | .load _ none => { b with aPend := false }
  | .load _ (some _) => { b with vPend := false }
  | .amo fn _ _ _ => { b with aPend := false, zPend := if fn = .acas then false else b.zPend }
  | _ => b

/-- The error of a reply is raised at the instruction itself (R257). -/
def preciseErr (r : Req) (cause : BitVec 8) (early : Bool) : Bool := r.acq.isSome && early && cause != causeTargetLost

/-- An acquire ends in a precise error (R257). A user context's joins the errors that arrived before it: the pointer is
put back, and the trap is taken at the instruction, in the order of arrival. In supervisor privilege the instruction
itself raises it. -/
def Slot.failAcquire (sl : Slot) (e : Trap) : Slot :=
  match sl.entered with
  | .acquire sel p _ _ =>
    if sl.priv then sl.endAcquire (some e)
    else
      let x := sl.setBank (sl.bank.setPtr sel p)
      { x with entered := .no, wait := none, derr := x.derr ++ [⟨e⟩] }
  | _ => sl

/-- A load's or atomic's reply reaches its slot. -/
def slotReply (r : Req) (val : List Byte) (hit : Bool) (err : Option (BitVec 8)) (early : Bool) (sl : Slot) : Slot :=
  let sl := sl.closeAcc r.seq
  if !r.awaited sl then sl
  else
    let acq (x : Slot) : Slot := if r.acq.isSome && r.current sl then x.endAcquire none else x
    match err with
    | none => acq (sl.setBankOf r.sup (replyValue r val hit (sl.bankOf r.sup)))
    | some c =>
      let x := sl.setBankOf r.sup (replyKeep r (sl.bankOf r.sup))
      if !r.current sl then x
      else if preciseErr r c early then x.failAcquire (vaTrap c r.va)
      else acq { x with derr := x.derr ++ [deferredErr r c] }

/-- A store's acknowledgement or error record reaches its slot (R238, R254). -/
def slotAck (r : Req) (err : Option (BitVec 8)) (sl : Slot) : Slot :=
  let x := sl.closeAcc r.seq
  if sl.run ≠ r.run then x
  else
    let y := { x with nb := x.nb - 1 }
    match err with
    | none => y
    | some c => { y with derr := y.derr ++ [deferredErr r c] }

/-- An earlier answer is still on the same circuit to a tile. -/
def answerAhead (s : State) (n : Nat) (r : Req) : Bool :=
  (s.flights.take n).any fun g =>
    (match g.phase with | .reply _ _ _ _ | .ack _ => true | _ => false) && (match r.route with | .tile _ _ _ _ => sameCircuit g.req r | _ => false)

/-- The reply of a `METR` writes A (R369). -/
def metrReply (m : MetrReq) (v : DWord) (s : State) : State :=
  s.modSlotAt m.tile m.slot fun sl =>
    let b := sl.bankOf m.sup
    if (m.sup || sl.run == m.run) && b.aPend then sl.setBankOf m.sup { b with a := v, aPend := false } else sl

/-- `REMOTE_REPLY` (R253, R255, R257, R260); numbers after the flights name the replies of `METR`. -/
def remoteReplyBody (n : Nat) (s : State) : Option State :=
  match s.flights[n]? with
  | some f =>
    match f.phase with
    | .reply val hit err early =>
      if answerAhead s n f.req then none
      else some ((s.dropFlight n).modSlotAt f.req.tile f.req.slot (slotReply f.req val hit err early))
    | _ => none
  | none => do
    let m ← s.metr[n - s.flights.length]?
    let v ← m.value
    some (metrReply m v { s with metr := s.metr.eraseIdx (n - s.flights.length) })
def execRemoteReply (n : Nat) (s : State) : Result := event true s (remoteReplyBody n)

/-- `STORE_ACKNOWLEDGE` (R238). -/
def storeAcknowledgeBody (n : Nat) (s : State) : Option State := do
  let f ← s.flights[n]?
  match f.phase with
  | .ack err =>
    if answerAhead s n f.req then none
    else some ((s.dropFlight n).modSlotAt f.req.tile f.req.slot (slotAck f.req err))
  | _ => none
def execStoreAcknowledge (n : Nat) (s : State) : Result := event true s (storeAcknowledgeBody n)

/-! ### Answering -/

/-- An error for a request, as its operation answers one. -/
def errPhase (r : Req) (cause : BitVec 8) (early : Bool) : Phase :=
  match r.op with
  | .store _ => .ack (some cause)
  | _ => .reply [] false (some cause) early

/-- Mark a write performed at the context that issued it (R240). -/
def markPerformed (r : Req) (die mod : Bool) (s : State) : State :=
  s.modSlotAt r.tile r.slot (·.markAcc r.seq die mod)

/-- An atomic on old bytes: the bytes to write, if any, and whether `ACAS` matched. -/
def amoStep (fn : AmoFn) (n : Nat) (a e : DWord) (old : List Byte) : Option (List Byte) × Bool :=
  let o := dwordOf old
  ((amoNew fn n o a e).map (bytesOf n), zextN n o == zextN n e)

/-! ### Tile windows (R256) -/

/-- The generation and policy that an access of the home slot has, while the tile holds a launch of the tenant. -/
def homeIdentity (tl : Tile) (k tenant : Nat) : Option (BitVec 12 × Bool) :=
  match tl.launch with
  | some l =>
    if l.tenant ≠ tenant then none
    else if (tl.slot k).st == .empty then some (l.gen, l.gpol) else some ((tl.slot k).gen, (tl.slot k).gpol)
  | none => none

/-- Note at the home tile that a word failed its check (R394). -/
def homeErr (t a : Nat) (e : Trap) (s : State) : State :=
  if e.cause = causeMsgCheck then s.modTile t (·.seeBad (spCheckTrap a)) else s

/-- Perform an access at a tile's scratchpad, as generation `g`. -/
def performTile (r : Req) (t : Nat) (g : BitVec 12) (strict : Bool) (s : State) : State × Phase :=
  let a := (r.va.extractLsb' 0 15).toNat
  match r.op with
  | .load n _ =>
    match s.spRead t g strict a n with
    | .ok bs => (s.correctAt t a n, .reply bs false none false)
    | .error e => (homeErr t a e s, .reply [] false (some e.cause) true)
  | .store data =>
    match s.spWrite t g a data with
    | .ok s' => (markPerformed r true true s', .ack none)
    | .error e => (homeErr t a e s, .ack (some e.cause))
  | .amo fn n x e =>
    match s.spRead t g strict a n with
    | .error err => (homeErr t a err s, .reply [] false (some err.cause) (err.cause != causeMsgCheck))
    | .ok old =>
      let st := amoStep fn n x e old
      let s1 := s.correctAt t a n
      match st.1 with
      | none => (markPerformed r true true s1, .reply old st.2 none false)
      | some new => match s1.spWrite t g a (new.map some) with
        | .ok s' => (markPerformed r true true s', .reply old st.2 none false)
        | .error err => (homeErr t a err s1, .reply [] false (some err.cause) (err.cause != causeMsgCheck))
  | _ => (s, .ack none)

/-- What another module answers, seen from this one: a store is acknowledged, and read bytes are free. -/
def farAnswer (r : Req) (s : State) : State × Phase :=
  let draw (n : Nat) : List Byte := (List.range n).map fun j => Config.farByte (s.free + j)
  match r.op with
  | .load n _ => ({ s with free := s.free + n }, .reply (draw n) false none false)
  | .amo fn n a e =>
    (markPerformed r true true { s with free := s.free + n }, .reply (draw n) (amoStep fn n a e (draw n)).2 none false)
  | _ => (markPerformed r true true s, .ack none)

/-- A tile-window access at its home NI. -/
def windowAccess (r : Req) (dst slot : Nat) (s : State) : State × Phase :=
  if tileCount ≤ dst then farAnswer r s
  else if r.bad then (s, errPhase r causeMsgCheck true)
  else match homeIdentity (s.getTile dst) slot r.tenant with
  | none => (s, errPhase r causeTargetLost true)
  | some (g, strict) => performTile r dst g strict s

/-! ### Windows and registers of spaces 0xD and 0xE -/

/-- How an access to a window or register ends. -/
inductive ConfigEnd where
  | answer (s : State) (p : Phase)
  | unknown
  | absent

def configErr (r : Req) (s : State) : DevErr → ConfigEnd
  | .prot => .answer s (errPhase r causeProt true)
  | .unknown => .unknown
  | .absent => .absent
  | .lost => .answer s (errPhase r causeTargetLost true)

/-- A supervisor access on the configuration circuit. -/
def configAccess (r : Req) (s : State) : ConfigEnd :=
  match r.op with
  | .load n _ =>
    match configRead r.va n s with
    | .ok (bs, s') => .answer s' (.reply bs false none false)
    | .error e => configErr r s e
  | .store data =>
    match configWrite r.va data s with
    | .ok s' => .answer (markPerformed r true true s') (.ack none)
    | .error e => configErr r s e
  | .amo fn n a e =>
    match configRead r.va n s with
    | .error x => configErr r s x
    | .ok (old, s1) =>
      let st := amoStep fn n a e old
      match st.1 with
      | none => .answer s1 (.reply old st.2 none false)
      | some new => match configWrite r.va (new.map some) s1 with
        | .ok s2 => .answer (markPerformed r true true s2) (.reply old st.2 none false)
        | .error x => configErr r s x
  | _ => .answer s (.ack none)

/-- `HOME_NI_ACCESS` (R256), and supervisor accesses to windows and registers (R211). -/
def execHomeNiAccess (n : Nat) (s : State) : Result :=
  match firstOnWire s n with
  | none => .next s
  | some f =>
    match f.req.op, f.req.route with
    | .msg _ _, _ => .next s
    | .pull _ _ _ _, _ => .next s
    | _, .tile _ _ dst slot => let r := windowAccess f.req dst slot s; .next (r.1.setPhase n f.req r.2)
    | _, .config => match configAccess f.req s with
      | .answer s' p => .next (s'.setPhase n f.req p)
      | .unknown => .refused .unknownDevice
      | .absent => .fault .noSuchUnit
    | _, .mem => .next s

/-! ### Translation (R217 to R219) -/

/-- The number of bits a level indexes, and whether it permits a leaf. -/
def levelBits (level : Nat) : Nat := [14, 12, 12, 6, 7, 5].getD level 0
def leafLevel (level : Nat) : Bool := decide (2 ≤ level) && decide (level ≤ 5)

/-- An entry as Table 11.4 lays it out. -/
def pteValid (e : DWord) : Bool := e.getLsbD 63
def pteLeaf (e : DWord) : Bool := e.getLsbD 62
def pteRepl (e : DWord) : Bool := e.getLsbD 60
def pteIlv (e : DWord) : Bool := e.getLsbD 59
def pteStack (e : DWord) : Nat := (e.extractLsb' 36 4).toNat
def pteBase (e : DWord) : Nat := (e.extractLsb' 0 36).toNat

/-- R218. -/
def malformed (level : Nat) (e : DWord) : Bool :=
  let size := 2 ^ levelLow level
  e.extractLsb' 40 13 != 0 || (pteLeaf e && !leafLevel level) || (!pteLeaf e && level == 5)
    || decide (Config.stackBytes ≤ pteBase e)
    || (pteLeaf e && decide (Config.stackBytes < pteBase e + if pteIlv e then size / 16 else size))
    || (pteRepl e && pteIlv e)

/-- The leaf that an entry at a level maps for a VA. -/
def leafOf (level : Nat) (e : DWord) (va : Nat) : Leaf :=
  { base := pteBase e, size := 2 ^ levelLow level, va := va / 2 ^ levelLow level * 2 ^ levelLow level,
    stack := BitVec.ofNat 4 (pteStack e), prop := e.getLsbD 61, repl := pteRepl e, ilv := pteIlv e,
    colour := e.extractLsb' 53 6 }

/-- Where a walk ends. -/
inductive Walk where
  | leaf (l : Leaf)
  | absent (level : Nat)
  | malformed
deriving DecidableEq, Repr

/-- Walk the table from a level on; `fuel` is the levels left. An entry beyond the end of its stack is malformed
(assumption 99). -/
def walkFrom (m : Memory) (va : Nat) : Nat → Nat → Nat → Nat → Walk
  | 0, _, _, _ => .malformed
  | fuel + 1, level, stack, base =>
    let ix := va / 2 ^ levelLow level % 2 ^ levelBits level
    if Config.stackBytes ≤ base + 8 * ix then .malformed
    else
    let e := dwordOf (readBytes m (bulkBase stack + base + 8 * ix) 8)
    if !pteValid e then .absent level
    else if malformed level e then .malformed
    else if pteLeaf e then .leaf (leafOf level e va)
    else walkFrom m va fuel (level + 1) (pteStack e) (pteBase e)

/-- The translation of a VA at an entry port: its cache, or a walk, which fills it (R215). -/
def translate (s : State) (die : Nat) (va : Nat) : State × Walk :=
  let d := s.getDie die
  match d.tlb.find? fun l => decide (l.va ≤ va) && decide (va < l.va + l.size) with
  | some l => (s, .leaf l)
  | none => match walkFrom s.mem va 6 0 s.ptRoot.1 s.ptRoot.2 with
    | .leaf l => (s.setDie die { d with tlb := (l :: d.tlb).take 4096 }, .leaf l)
    | w => (s, w)

/-- The stack and offset of a byte of a page, as an entry port of `die` reaches it (R219, R220). -/
def leafPlace (l : Leaf) (die va : Nat) : Nat × Nat :=
  let o := va - l.va
  if l.repl then (die % 16, l.base + o)
  else if l.ilv then ((l.stack.toNat + o / 4096) % 16, l.base + 4096 * (o / 65536) + o % 4096)
  else (l.stack.toNat, l.base + o)
def leafAddr (l : Leaf) (die va : Nat) : Nat :=
  let p := leafPlace l die va
  bulkBase p.1 + p.2

/-- The tenant owns the page's colour (R221). -/
def colourOk (s : State) (tenant : Nat) (l : Leaf) : Bool := (s.getTenant tenant).colours.getLsbD l.colour.toNat

/-- What stops an access at its entry port: an absent page at a level, an error, or that it is not yet its turn at
the home (R215, R221). -/
inductive PortStop where
  | absent (level : Nat)
  | err (cause : BitVec 8)
  | busy
deriving DecidableEq, Repr

/-- The home is on a die that is up, over crossings that are up; the hub reaches every die (R393). -/
def homeReached (s : State) (die home : Nat) : Bool :=
  let path := diePath die home
  (s.getDie home).up && (decide (16 ≤ die) || ((die :: path).zip path).all fun ab => crossingUp s ab.1 (dieStep ab.1 ab.2))

/-- Translate and check an access of a tenant (R217, R220 to R222, R393). -/
def portCheck (s : State) (die va tenant : Nat) (amo : Bool) : State × Except PortStop Leaf :=
  let r := translate s die va
  match r.2 with
  | .absent k => (r.1, .error (.absent k))
  | .malformed => (r.1, .error (.err causePage))
  | .leaf l =>
    if !colourOk s tenant l || (amo && l.repl) then (r.1, .error (.err causeProt))
    else if !homeReached s die (leafPlace l die va).1 then (r.1, .error (.err causeTargetLost))
    else (r.1, .ok l)

/-- The record of a page fault (Table 11.5). -/
def pageRecord (s : State) (die va level tenant : Nat) (dom : BitVec 16) (kind : BitVec 4) : FaultRec :=
  { va := BitVec.ofNat 64 va, fgen := s.fgen, tenant := BitVec.ofNat 9 tenant, level := BitVec.ofNat 3 level, dom := dom,
    die := BitVec.ofNat 4 die, kind := kind, vax := BitVec.ofNat 8 (va / 2 ^ 64) }
def parkOf (s : State) (va level : Nat) (dom : BitVec 16) (kind : BitVec 4) : Park :=
  { level := level, region := va / 2 ^ levelLow level, dom := dom, kind := kind, fgen := s.fgen, retry := false }

/-! ### The entry port (R215, R222, R244) -/

/-- KIND of a request's fault record. -/
def Req.kindCode (r : Req) : BitVec 4 :=
  match r.op with | .load _ _ => 1 | .amo _ _ _ _ => 3 | _ => 2
/-- Bytes the request touches. -/
def Req.size (r : Req) : Nat :=
  match r.op with | .load n _ => n | .store d => d.length | .amo _ n _ _ => n | _ => 0

/-- Requests of one context. -/
def sameContext (a b : Req) : Bool := a.tile == b.tile && a.slot == b.slot && a.run == b.run
def Phase.isParked : Phase → Bool | .parked _ => true | _ => false

/-- The request may be taken by its entry port: nothing of its context lies before it there (R222, R236). -/
def entryReady (s : State) (n : Nat) (f : Flight) : Bool :=
  match f.phase with
  | .wire => !(s.flights.any fun g => g.phase.isParked && sameContext g.req f.req)
      && !(s.flights.take n).any fun g => g.phase == .wire && g.req.route == .mem && sameContext g.req f.req
  | .parked p => p.retry
  | _ => false

/-- Move a flight to the end in a new phase: the order of acceptance. -/
def State.acceptAs (s : State) (n : Nat) (r : Req) (p : Phase) : State :=
  { s with flights := s.flights.eraseIdx n ++ [⟨r, p⟩] }

/-- Bytes `[lo, lo + n)` as a held store gives them; a byte it does not store is absent. -/
def heldBytes (r : Req) (lo n : Nat) : List (Option Byte) :=
  match r.op with
  | .store d => (List.range n).map fun j =>
      if r.va.toNat ≤ lo + j then (d[lo + j - r.va.toNat]?).join else none
  | _ => List.replicate n none

/-- The held store that decides a load by R244: the newest of the same entry port that touches a byte of it. -/
def newestHeld (s : State) (die lo n : Nat) : Option (List (Option Byte)) :=
  let held := s.flights.filter fun g =>
    (match g.phase with | .home _ => true | _ => false) && dieOf g.req.tile == die
  match (held.filter fun g =>
      (match g.req.op with | .amo _ k _ _ => decide (g.req.va.toNat < lo + n) && decide (lo < g.req.va.toNat + k) | _ => false)
        || (heldBytes g.req lo n).any Option.isSome).getLast? with
  | some g => some (heldBytes g.req lo n)
  | none => none

/-- Forwarding that the entry port may choose for a plain load on a page of non-atomic propagation. -/
def forwarded (s : State) (r : Req) (l : Leaf) : Option (List Byte) :=
  match r.op with
  | .load n _ =>
    if l.prop || l.repl || r.acq.isSome || !Config.mayForward s.free then none
    else match newestHeld s (dieOf r.tile) r.va.toNat n with
      | some bs => if bs.all Option.isSome then some (bs.map fun b => b.getD 0) else none
      | none => none
  | _ => none

/-- The hub die accepts a host-memory request, as a request of its function (R216, R256, R260, R398). -/
def hostAccept (n : Nat) (r : Req) (s : State) : State :=
  let vf := r.vf
  match r.op with
  | .store d =>
    let s1 := { s with out := s.out ++ [.hostStore vf r.va d] }
    State.acceptAs (markPerformed r true true s1) n r (.ack none)
  | .amo fn _ _ _ =>
    if fn = .aadd ∨ fn = .aswp ∨ fn = .acas then
      State.acceptAs (markPerformed r true true { s with out := s.out ++ [.hostRequest vf r.uid] }) n r .host
    else s.acceptAs n r (errPhase r causeProt true)
  | _ => State.acceptAs { s with out := s.out ++ [.hostRequest vf r.uid] } n r .host

/-- The entry port takes a bulk request. -/
def bulkAccept (n : Nat) (r : Req) (s : State) : State :=
  let die := dieOf r.tile
  let c := portCheck s die r.va.toNat r.tenant (match r.op with | .amo _ _ _ _ => true | _ => false)
  let s1 := c.1
  match c.2 with
  | .error (.err cause) => s1.acceptAs n r (errPhase r cause true)
  | .error .busy => s
  | .error (.absent k) =>
    (s1.setPhase n r (.parked (parkOf s1 r.va.toNat k r.dom r.kindCode))).addFault
      (pageRecord s1 die r.va.toNat k r.tenant r.dom r.kindCode)
  | .ok l =>
    if r.bad then s1.acceptAs n r (errPhase r causeMsgCheck true)
    else match forwarded s1 r l with
    | some bs => { s1 with free := s1.free + 1 }.acceptAs n r (.reply bs false none false)
    | none =>
      let s2 := { s1 with free := s1.free + 1 }
      match r.op with
      | .store _ =>
        if l.repl then s2.acceptAs n r (.copies l ((List.range 16).filter fun d => (s.getDie d).up))
        else (markPerformed r true false s2).acceptAs n r (.home l)
      | .amo _ _ _ _ => (markPerformed r true false s2).acceptAs n r (.home l)
      | _ => s2.acceptAs n r (.home l)

/-- `ENTRY_PORT_REQUEST` (R215): a request on the memory circuit, or a parked one after a flush. -/
def entryPortBody (n : Nat) (s : State) : Option State := do
  let f ← s.flights[n]?
  if f.req.route == .mem && entryReady s n f then
    if vaSpace f.req.va = 0xF then some (hostAccept n f.req s) else some (bulkAccept n f.req s)
  else none
def execEntryPortRequest (n : Nat) (s : State) : Result := event true s (entryPortBody n)

/-! ### The home port (R220, R221, R233) -/

/-- The stack that a flight waits to be performed at. -/
def homeOf (f : Flight) : Option Nat :=
  match f.phase with
  | .home l => some (leafPlace l (dieOf f.req.tile) f.req.va.toNat).1
  | _ => none
/-- A flight has still to be performed at a stack. -/
def owesStack (f : Flight) (stack : Nat) : Bool :=
  match f.phase with
  | .home _ => homeOf f == some stack
  | .copies _ left => left.contains stack
  | _ => false

/-- Nothing accepted earlier at the same entry port has still to be performed at the stack (R215, R236). -/
def homeTurn (s : State) (n stack : Nat) (r : Req) : Bool :=
  !(s.flights.take n).any fun g => dieOf g.req.tile == dieOf r.tile && owesStack g stack

/-- The tenant owns a service slot of the stack (R221, Table 27.3). -/
def servedAt (s : State) (stack tenant : Nat) : Bool :=
  (List.range 64).any fun ix =>
    let e := SMap.get 0 s.wheelOn (serviceKey stack ix)
    e.getLsbD 9 && decide ((e.extractLsb' 0 9).toNat = tenant)

/-- A doubleword of bulk memory that the HBM's own code cannot correct lies among the bytes. -/
def badBulkIn (s : State) (a n : Nat) : Bool := s.badBulk.any fun d => decide (8 * d < a + n) && decide (a < 8 * d + 8)
/-- Bulk bytes stored; doublewords written whole are good again. -/
def writeBulk (a : Nat) (data : List (Option Byte)) (s : State) : State :=
  { s with
    mem := writeSome s.mem a data
    badBulk := s.badBulk.filter fun d =>
      !(decide (a ≤ 8 * d) && decide (8 * d + 8 ≤ a + data.length)
        && ((data.drop (8 * d - a)).take 8).all Option.isSome) }

/-- Perform an access at its home port (R233, R259). -/
def performBulk (r : Req) (a : Nat) (s : State) : State × Phase :=
  match r.op with
  | .load n _ =>
    if badBulkIn s a n then (s, .reply [] false (some causeMsgCheck) true)
    else (s, .reply (readBytes s.mem a n) false none false)
  | .store d => (markPerformed r true true (writeBulk a d s), .ack none)
  | .amo fn n x e =>
    if badBulkIn s a n then (markPerformed r true true s, .reply [] false (some causeMsgCheck) false)
    else
      let old := readBytes s.mem a n
      let st := amoStep fn n x e old
      let s1 := match st.1 with | some new => writeBulk a (new.map some) s | none => s
      (markPerformed r true true s1, .reply old st.2 none false)
  | _ => (s, .ack none)

/-- `HOME_PORT_ACCESS` (R233). -/
def homePortBody (n : Nat) (s : State) : Option State := do
  let f ← s.flights[n]?
  match f.phase with
  | .home l =>
    let die := dieOf f.req.tile
    let stack := (leafPlace l die f.req.va.toNat).1
    if homeTurn s n stack f.req && servedAt s stack f.req.tenant then
      let r := performBulk f.req (leafAddr l die f.req.va.toNat) s
      some (r.1.setPhase n f.req r.2)
    else none
  | _ => none
def execHomePortAccess (n : Nat) (s : State) : Result := event true s (homePortBody n)

/-- `REPLICA_WRITE` (R220): one more copy is written; the store is complete with the last. -/
def replicaWriteBody (n copy : Nat) (s : State) : Option State := do
  let f ← s.flights[n]?
  match f.phase, f.req.op with
  | .copies l left, .store d =>
    if left.contains copy && homeTurn s n copy f.req && servedAt s copy f.req.tenant then
      let o := f.req.va.toNat - l.va
      let rest := left.filter (· ≠ copy)
      let s1 := writeBulk (bulkBase copy + l.base + o) d s
      let s2 := markPerformed f.req (copy == dieOf f.req.tile) rest.isEmpty s1
      some (s2.setPhase n f.req (if rest.isEmpty then .ack none else .copies l rest))
    else none
  | _, _ => none
def execReplicaWrite (n copy : Nat) (s : State) : Result := event (decide (copy < 16)) s (replicaWriteBody n copy)

/-- `PCIE_COMPLETION` (R256, R260): the host's answer becomes the reply. -/
def pcieCompletionBody (n : Nat) (ok : Bool) (bytes : List Byte) (s : State) : Option State := do
  let f ← s.flights[n]?
  match f.phase with
  | .host =>
    let r := f.req
    if !ok then some (s.setPhase n r (errPhase r causeProt (match r.op with | .amo _ _ _ _ => false | _ => true)))
    else if bytes.length ≠ r.size then none
    else
      let hit := match r.op with | .amo fn k a e => (amoStep fn k a e bytes).2 | _ => false
      some (s.setPhase n r (.reply bytes hit none false))
  | _ => none
def execPcieCompletion (n : Nat) (ok : Bool) (bytes : List Byte) (s : State) : Result :=
  event true s (pcieCompletionBody n ok bytes)

/-! ### Accesses that the hub and the engines make -/

/-- The hub's own accesses use no die's translation cache; on a replicated page they read the copy of die 0. -/
def hubPort : Nat := 16

/-- A stack's home port serves an access of a tenant now: what the same entry port accepted before it has been performed
there (R215, R236), and the tenant owns a service slot (R221). -/
def homeServes (s : State) (die stack tenant : Nat) : Bool :=
  servedAt s stack tenant && !s.flights.any fun g => dieOf g.req.tile == die && owesStack g stack

/-- Read bytes of one page of a tenant's bulk memory through the port of `die`. -/
def portRead (s : State) (die va n tenant : Nat) : State × Except PortStop (List Byte) :=
  let c := portCheck s die va tenant false
  match c.2 with
  | .error e => (c.1, .error e)
  | .ok l =>
    let a := leafAddr l die va
    if !homeServes s die (leafPlace l die va).1 tenant then (c.1, .error .busy)
    else if badBulkIn s a n then (c.1, .error (.err causeMsgCheck)) else (c.1, .ok (readBytes s.mem a n))

/-- The homes that a store writes: all that train, for a replicated page (R220). -/
def writtenStacks (s : State) (l : Leaf) (die va : Nat) : List Nat :=
  if l.repl then (List.range 16).filter fun d => (s.getDie d).up else [(leafPlace l die va).1]

/-- Store bytes of one page; every copy of a replicated one. -/
def portWrite (s : State) (die va : Nat) (data : List (Option Byte)) (tenant : Nat) : State × Option PortStop :=
  let c := portCheck s die va tenant false
  match c.2 with
  | .error e => (c.1, some e)
  | .ok l =>
    let homes := writtenStacks s l die va
    if !homes.all (fun k => homeServes s die k tenant) then (c.1, some .busy)
    else
      let off := if l.repl then l.base + (va - l.va) else (leafPlace l die va).2
      (homes.foldl (fun s k => writeBulk (bulkBase k + off) data s) c.1, none)

/-- Read `n` doublewords in ascending order, stopping at the first that fails, with its VA. -/
def portReadSpan (die tenant : Nat) : Nat → Nat → State → State × Except (PortStop × Nat) (List Byte)
  | 0, _, s => (s, .ok [])
  | n + 1, va, s =>
    let r := portRead s die va 8 tenant
    match r.2 with
    | .error e => (r.1, .error (e, va))
    | .ok bs =>
      let q := portReadSpan die tenant n (va + 8) r.1
      match q.2 with
      | .error e => (q.1, .error e)
      | .ok rest => (q.1, .ok (bs ++ rest))

/-! ### The granger's writes to signals (R338, R339) -/

/-- Perform `AADD` of −1 on a doubleword of one page. -/
def portDecrement (s : State) (die va tenant : Nat) : State × Option PortStop :=
  let c := portCheck s die va tenant true
  match c.2 with
  | .error e => (c.1, some e)
  | .ok l =>
    let a := leafAddr l die va
    if !homeServes s die (leafPlace l die va).1 tenant then (c.1, some .busy)
    else if badBulkIn s a 8 then (c.1, some (.err causeMsgCheck))
    else (writeBulk a ((bytesOf 8 (dwordOf (readBytes s.mem a 8) - 1)).map some) c.1, none)

/-- Try a write once: it is performed, dropped, kept until the home serves it, or parked with a fault record whose
DOM is 0. -/
def tryOwed (o : Owed) (s : State) : State :=
  let r := match o.val with
    | some v => portWrite s hubPort o.va ((bytesOf 8 v).map some) o.tenant
    | none => portDecrement s hubPort o.va o.tenant
  let kind : BitVec 4 := if o.val.isSome then 2 else 3
  match r.2 with
  | some (.absent k) =>
    { r.1 with owed := r.1.owed ++ [{ o with park := some (parkOf r.1 o.va k 0 kind) }] }.addFault
      (pageRecord r.1 0 o.va k o.tenant 0 kind)
  | some .busy => { r.1 with owed := r.1.owed ++ [{ o with park := none }] }
  | _ => r.1

/-- Try every parked write again. -/
def retryOwed (s : State) : State := s.owed.foldl (fun s o => tryOwed o s) { s with owed := [] }

/-- Try the writes again that wait for a service slot. -/
def retryServed (s : State) : State :=
  (s.owed.filter (·.park.isNone)).foldl (fun s o => tryOwed o s) { s with owed := s.owed.filter (·.park.isSome) }

/-- A stack's wheel starts a revolution and takes up its entries (R411); what waited for a slot is tried again. No access is
half performed at that moment: each is performed in one event. -/
def turnWheel (stack : Nat) (s : State) : State :=
  let mine (m : SMap (BitVec 10)) : SMap (BitVec 10) := m.filter fun kv => kv.1 / 64 == stack
  if mine s.wheels = mine s.wheelOn then s
  else retryServed { s with
    wheelOn := s.wheelOn.filter (fun kv => decide (kv.1 / 64 < stack)) ++ mine s.wheels ++
      s.wheelOn.filter (fun kv => decide (stack < kv.1 / 64)) }

/-- `SERVICE_SLOT_WRITE` (R411): the wheel takes the entry up at its next revolution. -/
def serviceSlotWriteBody (stack ix : Nat) (v : DWord) (s : State) : Option State :=
  some ({ s with wheels := SMap.set 0 s.wheels (serviceKey stack ix) (v.extractLsb' 0 10) })
def execServiceSlotWrite (stack ix : Nat) (v : BitVec 64) (s : State) : Result :=
  event (decide (stack < 16) && decide (ix < 64)) s (serviceSlotWriteBody stack ix v)

/-! ### Page-fault service (R223, R224) -/

/-- `FAULT_RECORD_WRITE` (R223): a held record, once there is room. -/
def faultRecordBody (n : Nat) (s : State) : Option State := do
  let r ← s.heldFaults[n]?
  if s.faults.length < 4096 then some ({ s with heldFaults := s.heldFaults.eraseIdx n }.addFault r) else none
def execFaultRecordWrite (n : Nat) (s : State) : Result := event true s (faultRecordBody n)

def Park.again (p : Park) : Park := { p with retry := true }
def Phase.again : Phase → Phase | .parked p => .parked p.again | p => p
/-- Every parked walk may be tried again. -/
def retryAll (s : State) : State :=
  let tileAgain (tl : Tile) : Tile := { tl with copyRun := tl.copyRun.map fun c => { c with park := c.park.map Park.again } }
  { s with
    flights := s.flights.map fun f => { f with phase := f.phase.again }
    tile := tileAgain s.tile
    others := s.others.map fun t => (t.1, tileAgain t.2)
    gran := s.gran.map fun g => { g with park := g.park.map Park.again }
    launches := s.launches.map fun l => { l with park := l.park.map Park.again } }

/-- `FAULT_FLUSH` (R223): FGEN rises, older page records are discarded, and every port walks again. -/
def faultFlushBody (s : State) : Option State :=
  some (retryOwed (retryAll { s with fgen := s.fgen + 1, faults := s.faults.filter fun r => !r.isPage }))
def execFaultFlush (s : State) : Result := event true s faultFlushBody

/-- A parked walk is one that the record covers. -/
def Park.covered (p : Park) (r : FaultRec) : Bool :=
  p.level == r.level.toNat && p.region == r.region && p.dom == r.dom && p.kind == r.kind && p.fgen == r.fgen

/-- What a dismissal leaves of a parked walk: a page error at once, marked by a level that no table has. -/
def Park.dismissed : Nat := 6
def Park.dismiss (r : FaultRec) (p : Park) : Park := if p.covered r then { p with level := Park.dismissed, retry := true } else p
def Park.isDismissed (p : Park) : Bool := p.level == Park.dismissed

def dismissFlight (r : FaultRec) (f : Flight) : Flight :=
  match f.phase with
  | .parked p => if p.covered r then { f with phase := errPhase f.req causePage true } else f
  | _ => f

/-- `FAULT_DISMISS` (R223): requests complete with `PAGE`; copies, granary commands and the granger's own reads end
their waits when they are taken up again. -/
def dismissAll (r : FaultRec) (s : State) : State :=
  let tileOff (tl : Tile) : Tile := { tl with copyRun := tl.copyRun.map fun c => { c with park := c.park.map (Park.dismiss r) } }
  { s with
    flights := s.flights.map (dismissFlight r)
    tile := tileOff s.tile
    others := s.others.map fun t => (t.1, tileOff t.2)
    gran := s.gran.map fun g => { g with park := g.park.map (Park.dismiss r) }
    launches := s.launches.map fun l => { l with park := l.park.map (Park.dismiss r) }
    owed := s.owed.filter fun o => !(match o.park with | some p => p.covered r | none => false) }
def faultDismissBody (n : Nat) (s : State) : Option State := do
  let r ← s.faults[n]?
  some (dismissAll r { s with faults := s.faults.eraseIdx n })
def execFaultDismiss (n : Nat) (s : State) : Result := event true s (faultDismissBody n)

/-- A page overlaps a VA range. -/
def Leaf.meets (l : Leaf) (lo hi : Nat) : Bool := decide (l.va ≤ hi) && decide (lo < l.va + l.size)
def Phase.usesLeaf (lo hi : Nat) : Phase → Bool
  | .home l => l.meets lo hi
  | .copies l _ => l.meets lo hi
  | _ => false

/-- `INVALIDATION` (R224): every die's cache drops the entries that overlap the range. -/
def invalidationBody (lo hi : VA) (s : State) : Option State :=
  let drop (d : Die) : Die :=
    { d with tlb := d.tlb.filter fun l => !l.meets lo.toNat hi.toNat, invSeq := d.invSeq + 1 }
  let uids := (s.flights.filter fun f => f.phase.usesLeaf lo.toNat hi.toNat).map (·.req.uid)
  some { s with dies := s.dies.map drop, invals := s.invals ++ [⟨lo.toNat, hi.toNat, uids⟩] }
def execInvalidation (lo hi : BitVec 72) (s : State) : Result := event true s (invalidationBody lo hi)

/-- `INVALIDATION_ACKNOWLEDGE` (R224): once every request translated with a removed entry has been performed. -/
def invalidationAckBody (n : Nat) (s : State) : Option State := do
  let v ← s.invals[n]?
  if s.flights.any fun f => v.uids.contains f.req.uid && f.phase.usesLeaf v.lo v.hi then none
  else some { s with invals := s.invals.eraseIdx n }
def execInvalidationAcknowledge (n : Nat) (s : State) : Result := event true s (invalidationAckBody n)

/-! ### The host's window -/

/-- Read bytes through the hub's port one by one. -/
def windowBytes (tenant : Nat) : Nat → Nat → State → State × Except PortStop (List Byte)
  | 0, _, s => (s, .ok [])
  | n + 1, va, s =>
    let x := portRead s hubPort va 1 tenant
    match x.2 with
    | .error e => (x.1, .error e)
    | .ok b =>
      let y := windowBytes tenant n (va + 1) x.1
      (y.1, y.2.map (b ++ ·))
/-- Store bytes one by one; those before the first that is refused stay stored. -/
def windowStore (tenant : Nat) : List Byte → Nat → State → State × Option PortStop
  | [], _, s => (s, none)
  | b :: bs, va, s =>
    let x := portWrite s hubPort va [some b] tenant
    match x.2 with
    | some e => (x.1, some e)
    | none => windowStore tenant bs (va + 1) x.1

/-- The virtual functions are enabled and the granger's queues open: the boot has taken its last step (R405). -/
def State.vfsOpen (s : State) : Bool := s.boot.stage == 8

/-- A host access through BAR2 (R396): 16 GiB from the function's base, checked against the bound tenant's colours; `n` is
the length of a read. -/
def bulkWindowBody (vf off n : Nat) (v : Option (List Byte)) (s : State) : Option State :=
  let q := SMap.get (512, 0) s.vfs vf
  let tenant := (s.queueOf q.1).1
  if !s.vfsOpen ∨ 2 ^ 34 < off + (match v with | some bs => bs.length | none => n) ∨ 512 ≤ tenant then some (answerRefused s)
  else
    let va := q.2.toNat + off
    match v with
    | none =>
      let r := windowBytes tenant n va s
      match r.2 with
      | .ok bs => some { r.1 with out := r.1.out ++ [.bytes bs] }
      | .error .busy => none
      | .error _ => some (answerRefused r.1)
    | some bs =>
      let r := windowStore tenant bs va s
      match r.2 with
      | none => some r.1
      | some .busy => none
      | some _ => some (answerRefused r.1)
/-- `BULK_WINDOW_ACCESS` (R396). -/
def execBulkWindowAccess (vf off n : Nat) (v : Option (List Byte)) (s : State) : Result :=
  event (decide (vf < 256)) s (bulkWindowBody vf off n v)

end Sys2Proof.Machine
end

