-- ==== Sys2Proof/Machine/Engines.lean ====
section
/-! DEFINITION. The engines at work: the plane array (R272 to R280, R302, R303), the copy engine (R281 to R286, R402),
granary bins (R290 to R294) and the sum-through collectives (R295 to R297). -/

namespace Sys2Proof.Machine

/-! ### Reading and writing for a context -/

/-- The generation that an engine's access for a context has: the slot's while the context is there, the launch's
once it has ended (a handler's commands outlast it). -/
def Tile.genFor (tl : Tile) (k run : Nat) : BitVec 12 :=
  if (tl.slot k).run = run then (tl.slot k).gen
  else match tl.launch with | some l => l.gen | none => (tl.slot k).gen

/-- Bytes that the plane array reads, eight at a time: a granule of another tag contributes zeros (R273), and the
first doubleword that fails its check is named (R414). -/
def planeBytes (s : State) (t : Nat) (g : BitVec 12) : Nat → Nat → List Byte × Option Nat
  | 0, _ => ([], none)
  | n + 1, a =>
    let r := planeBytes s t g n (a + 8)
    match s.spRead t g false a 8 with
    | .ok bs => (bs ++ r.1, r.2)
    | .error e => (List.replicate 8 0 ++ r.1, if e.cause = causeMsgCheck then some a else r.2)

/-- An event waits at a context's next boundary as event 3 of R327. -/
def State.postPlane (s : State) (t k run : Nat) (e : Trap) : State :=
  s.modSlotAt t k fun sl => if sl.run = run then { sl with perr := sl.perr ++ [⟨e⟩] } else sl

/-! ### Plane array: start -/

/-- The bytes of a command's operand spans, and the first bad doubleword among them. -/
def operandBytes (s : State) (t : Nat) (g : BitVec 12) (c : PlaneCmd) : List (List Byte × Option Nat) :=
  c.reads.map fun sp => planeBytes s t g (sp.2 / 8) sp.1

/-- A command with what it has read. -/
def startedRun (c : PlaneCmd) (ops : List (List Byte × Option Nat)) : PlaneRun :=
  let op (i : Nat) : List Byte := (ops.getD i ([], none)).1
  { cmd := c, a := op 0, b := op 1, bad := (ops.findSome? (·.2)) }

/-- `PLANE_COMMAND_START` (R273, R274, R303). -/
def planeStartBody (t : Nat) (s : State) : Option State :=
  let tl := s.getTile t
  match tl.planeQ with
  | c :: rest =>
    if !tl.canStart || !tileReleased s t then none
    else
      let r := startedRun c (operandBytes s t (tl.genFor c.slot c.run) c)
      let s0 := s.setTile t { tl with planeQ := rest, planeRun := tl.planeRun ++ [r] }
      let s1 := c.reads.foldl (fun s sp => s.correctAt t sp.1 sp.2) s0
      some (match r.bad with | some a => s1.postPlane t c.slot c.run (spCheckTrap a) | none => s1)
  | [] => none
def execPlaneCommandStart (t : Nat) (s : State) : Result := event (tileOk t) s (planeStartBody t)

/-! ### Plane array: sums -/

/-- Element `i` of the bit-plane block of `b` planes at byte `off` (R53). -/
def planeElem (bs : List Byte) (off b : Nat) (signed : Bool) (i : Nat) : Int :=
  let u := (List.range b).foldl (fun n j =>
    if (bs.getD (off + 8 * j + i / 8) 0).getLsbD (i % 8) then n + 2 ^ j else n) 0
  if signed ∧ 2 ^ (b - 1) ≤ u then (u : Int) - 2 ^ b else u

def signedA (cfg : BitVec 9) : Bool := cfg.getLsbD 3
def signedB (cfg : BitVec 9) : Bool := cfg.getLsbD 7
def blockMode (cfg : BitVec 9) : Bool := cfg.getLsbD 8

/-- The exact sum of column `j` against the A block at byte `aOff` (R276). -/
def columnSum (r : PlaneRun) (aOff j : Nat) : Int :=
  let cfg := r.cmd.cfg
  (List.range 64).foldl (fun n i =>
    n + planeElem r.a aOff (planesA cfg) (signedA cfg) i
      * planeElem r.b (blockB cfg * j) (planesB cfg) (signedB cfg) i) 0

/-- A wide scale's exponent field, and its value when that is neither 0 nor 255 (R54). -/
def scaleExp (bs : List Byte) (off : Nat) : Nat := leNat ((bs.drop off).take 8) / 4096 % 256
def scaleVal (bs : List Byte) (off : Nat) : FVal :=
  .fin false (4096 + leNat ((bs.drop off).take 8) % 4096) ((scaleExp bs off : Int) - 139)

/-- The contribution of column `j` in block mode (R277). -/
def blockTerm (r : PlaneRun) (aOff j : Nat) : FVal :=
  let cfg := r.cmd.cfg
  let sa := aOff + 8 * planesA cfg
  let sb := blockB cfg * j + 8 * planesB cfg
  if scaleExp r.a sa = 255 ∨ scaleExp r.b sb = 255 then .nan
  else if scaleExp r.a sa = 0 ∨ scaleExp r.b sb = 0 then .fin false 0 0
  else
    let x := columnSum r aOff j
    ((FVal.fin (decide (x < 0)) x.natAbs 0).mul (scaleVal r.a sa)).mul (scaleVal r.b sb)

/-- An exact int32 sum saturated, and whether it was out of range (R276). -/
def satSum (x : Int) : Word × Bool :=
  let y := clampInt (-2147483648) 2147483647 x
  (BitVec.ofInt 32 y, decide (x ≠ y))

/-- Add the A block at byte `aOff` into a row: the new row, and whether a sum saturated. -/
def addedRow (r : PlaneRun) (aOff : Nat) (row : Vector Word 8) : Vector Word 8 × Bool :=
  if blockMode r.cmd.cfg then
    (vec8 fun j => BitVec.ofNat 32 (fp32.encode 0 ((fp32.decode row[j].toNat).add (blockTerm r aOff j))), false)
  else
    (vec8 fun j => (satSum (row[j].toInt + columnSum r aOff j)).1,
     (List.range 8).any fun j => (satSum ((row.toList.getD j 0).toInt + columnSum r aOff j)).2)

def addRow (r : PlaneRun) (aOff : Nat) (row : BitVec 3) (tl : Tile) : Tile :=
  let x := addedRow r aOff (tl.ma[row.toNat]'row.isLt)
  { tl with ma := tl.ma.set row.toNat x.1 row.isLt, masat := tl.masat || x.2 }

/-- All of a `PDOT`'s sums: none where it read a bad word (R414), two rows in dual form. -/
def addSums (r : PlaneRun) (tl : Tile) : Tile :=
  if r.bad.isSome then tl
  else
    let t1 := addRow r 0 r.cmd.row tl
    if planeDual r.cmd.cfg then addRow r (blockA r.cmd.cfg) (r.cmd.row + 1) t1 else t1

/-- A released owner's ownership ends once no `PDOT` is owed (R279). -/
def Tile.settleOwner (tl : Tile) : Tile :=
  if tl.rel && !tl.pdotOwed then { tl with owner := none, rel := false } else tl

/-- `PDOT_ADDITION` (R274, R276, R277): the oldest started `PDOT` adds its sums, and NE falls. -/
def pdotAdditionBody (t : Nat) (s : State) : Option State := do
  let tl := s.getTile t
  let i ← if tl.frozen then none else tl.planeRun.findIdx? fun r => r.cmd.kind == .pdot
  let r ← tl.planeRun[i]?
  let t1 := (addSums r { tl with planeRun := tl.planeRun.eraseIdx i }).settleOwner
  some ((s.setTile t t1).dropNe t r.cmd.slot r.cmd.run)
def execPdotAddition (t : Nat) (s : State) : Result := event (tileOk t) s (pdotAdditionBody t)

/-! ### PPACK and PUNPK (R302, R303) -/

def packSigned (cfg : BitVec 9) : Bool := cfg.getLsbD 3
def packHalf (cfg : BitVec 9) : Bool := cfg.getLsbD 4

/-- Element `i` of a `PPACK` source, clamped to `b` bits. -/
def packElem (cfg : BitVec 9) (bs : List Byte) (i : Nat) : Int :=
  let b := packBits cfg
  let w := if packHalf cfg then 16 else 8
  let u := leNat ((bs.drop (i * (w / 8))).take (w / 8))
  if packSigned cfg then
    clampInt (-(2 ^ (b - 1))) (2 ^ (b - 1) - 1) (if 2 ^ (w - 1) ≤ u then (u : Int) - 2 ^ w else u)
  else clampInt 0 (2 ^ b - 1) u

/-- Eight bits as a byte, bit 0 first. -/
def byteOfBits (f : Nat → Bool) : Byte :=
  BitVec.ofNat 8 ((List.range 8).foldl (fun n m => if f m then n + 2 ^ m else n) 0)

/-- What the command writes. -/
def packOutput (r : PlaneRun) : List Byte :=
  let cfg := r.cmd.cfg
  if r.cmd.kind = .ppack then
    (List.range (8 * packBits cfg)).map fun x =>
      byteOfBits fun m => (packElem cfg r.a (8 * (x % 8) + m) / 2 ^ (x / 8)) % 2 = 1
  else
    (List.range 64).flatMap fun i =>
      bytesOf (if packHalf cfg then 2 else 1) (BitVec.ofInt 16 (planeElem r.a 0 (packBits cfg) (packSigned cfg) i))

/-- Write bytes granule by granule, leaving a granule that is ahead unwritten; the first such granule. -/
def packWrites (t : Nat) (g : BitVec 12) : Nat → Nat → List Byte → State → State × Option Nat
  | 0, _, _, s => (s, none)
  | _ + 1, _, [], s => (s, none)
  | fuel + 1, a, bs, s =>
    let k := 32 - a % 32
    match s.spWrite t g a ((bs.take k).map some) with
    | .ok s' => packWrites t g fuel (a + k) (bs.drop k) s'
    | .error _ => let r := packWrites t g fuel (a + k) (bs.drop k) s; (r.1, some (a / 32 * 32))

/-- `PACK_WRITE` (R303). -/
def packWriteBody (t : Nat) (s : State) : Option State := do
  let tl := s.getTile t
  let i ← if tl.frozen then none else tl.planeRun.findIdx? fun r => r.cmd.kind != .pdot
  let r ← tl.planeRun[i]?
  let c := r.cmd
  let s1 := s.setTile t { tl with planeRun := tl.planeRun.eraseIdx i }
  if r.bad.isSome then some (s1.dropNe t c.slot c.run)
  else
    let w := packWrites t (tl.genFor c.slot c.run) 8 c.ea2.toNat (packOutput r) s1
    let s2 := match w.2 with
      | some a => w.1.postPlane t c.slot c.run (mkTrap causeGenFuture (BitVec.ofNat 64 a))
      | none => w.1
    some (s2.dropNe t c.slot c.run)
def execPackWrite (t : Nat) (s : State) : Result := event (tileOk t) s (packWriteBody t)

/-! ### The copy engine -/

/-- The waiting tile of a bay whose head command is oldest. -/
def oldestCopy (s : State) (bay : Nat) : Option Nat :=
  (s.bayTiles bay).foldl (fun best t =>
    let tl := s.getTile t
    match tl.copyQ, tl.copyRun with
    | c :: _, none => match best with
      | some b => match (s.getTile b).copyQ with
        | d :: _ => if c.order < d.order ∨ (c.order = d.order ∧ t < b) then some t else best
        | [] => some t
      | none => some t
    | _, _ => best) none

/-- Commands that run in a bay's engine. -/
def copiesRunning (s : State) (bay : Nat) : Nat :=
  ((s.bayTiles bay).filter fun t => (s.getTile t).copyRun.isSome).length

/-- `COPY_START` (R281): the head command leaves its queue. -/
def copyStartBody (bay : Nat) (s : State) : Option State :=
  if 8 ≤ copiesRunning s bay then none
  else match oldestCopy s bay with
  | some t => some (s.modTile t fun tl => { tl with copyRun := tl.copyQ.head?, copyQ := tl.copyQ.tail })
  | none => none
def execCopyStart (bay : Nat) (s : State) : Result := event (decide (bay < 10240)) s (copyStartBody bay)

/-- The slot whose circuits a context uses: handlers use slot 0's (R181). -/
def Tile.circuitSlot (tl : Tile) (k : Nat) : Nat :=
  match tl.launch with | some l => if 8 - l.h.toNat ≤ k then 0 else k | none => k

/-- How one doubleword's access ends. -/
inductive DwEnd (α : Type) where
  | ok (x : α) (s : State)
  | fail (status : Nat) (s : State)
  | park (level : Nat) (s : State)
  /-- It is not yet its turn at the home, or on its circuit. -/
  | busy (s : State)
  | refuse (r : Refusal)
  | noUnit

/-- Status of Table 16.2 for an error at an entry port, or at a tile. -/
def portStatus (c : BitVec 8) : Nat :=
  if c = causePage then 2 else if c = causeProt then 3 else if c = causeTargetLost then 4 else 7
def tileStatus (e : Trap) : Nat :=
  if e.cause = causeStale then 5 else if e.cause = causeGenFuture then 6 else 7

/-- The tile, slot and module that a window VA names for the issuing tile's rank table. -/
def windowHome (s : State) (t : Nat) (va : VA) : RankEntry := (s.getTile t).rank (va.extractLsb' 40 16).toNat
/-- The circuit to the rank's tile is there. -/
def windowOpenTo (s : State) (c : Copy) (t : Nat) (va : VA) : Bool :=
  let e := windowHome s t va
  e.valid && (s.findCircuit t ((s.getTile t).circuitSlot c.slot) (e.tileNo s.modNo)).isSome

/-- The engine's access waits at the circuit to the rank's tile: the circuit is parked or a stream occupies it, or a request
of a context is still on it, which the access follows (R171, R236, R284). -/
def windowQueued (s : State) (c : Copy) (t : Nat) (va : VA) : Bool :=
  let dst := (windowHome s t va).tileNo s.modNo
  match s.findCircuit t ((s.getTile t).circuitSlot c.slot) dst with
  | some key => !circuitOpen s key dst || s.flights.any fun g => g.phase == .wire &&
      (match g.req.route with | .tile die cid _ _ => circuitKey die cid == key | _ => false)
  | none => false

/-- The request that an engine's window access is, as its home sees it; its number is that of no access of the context. -/
def engineReq (c : Copy) (t : Nat) (va : VA) (op : ReqOp) (s : State) : Req :=
  { uid := 0, tile := t, slot := c.slot, run := c.run, sup := c.sup, seq := (s.slotAt t c.slot).nextSeq, tenant := c.tenant, dom := c.dom, pc := 0,
    va := va, op := op, route := .mem, rel := none, acq := none, rank := 0, bad := false, vf := 0 }

def configEnd {α : Type} (s : State) : Except DevErr (α × State) → DwEnd α
  | .ok (x, s') => .ok x s'
  | .error .prot => .fail 3 s
  | .error .unknown => .refuse .unknownDevice
  | .error .absent => .noUnit
  | .error .lost => .fail 4 s

/-- Read one doubleword at a VA for a copy of tile `t`. What another module or the host holds is free. -/
def copyReadVa (c : Copy) (t : Nat) (va : Nat) (s : State) : DwEnd (List Byte) :=
  let v : VA := BitVec.ofNat 72 va
  match vaSpace v with
  | 0xC#4 =>
    if !windowOpenTo s c t v then .fail 1 s
    else if windowQueued s c t v then .busy s
    else
      let e := windowHome s t v
      let r := windowAccess (engineReq c t v (.load 8 none) s) (e.tileNo s.modNo) e.slot.toNat s
      match r.2 with
      | .reply bs _ none _ => .ok bs r.1
      | .reply _ _ (some x) _ => .fail (if x = causeTargetLost then 4 else tileStatus (mkTrap x 0)) r.1
      | _ => .fail 4 r.1
  | 0xD#4 => configEnd s (configRead v 8 s)
  | 0xE#4 => configEnd s (configRead v 8 s)
  | 0xF#4 => .ok ((List.range 8).map fun j => Config.farByte (s.free + j))
      { s with free := s.free + 8, uid := s.uid + 1, out := s.out ++ [.hostRequest (tileVf s t) s.uid] }
  | _ =>
    let r := portRead s (dieOf t) va 8 c.tenant
    match r.2 with
    | .ok bs => .ok bs r.1
    | .error (.absent k) => .park k r.1
    | .error .busy => .busy r.1
    | .error (.err x) => .fail (portStatus x) r.1

/-- Write one doubleword at a VA for a copy of tile `t`. -/
def copyWriteVa (c : Copy) (t : Nat) (va : Nat) (bs : List Byte) (s : State) : DwEnd Unit :=
  let v : VA := BitVec.ofNat 72 va
  match vaSpace v with
  | 0xC#4 =>
    if !windowOpenTo s c t v then .fail 1 s
    else if windowQueued s c t v then .busy s
    else
      let e := windowHome s t v
      let r := windowAccess (engineReq c t v (.store (bs.map some)) s) (e.tileNo s.modNo) e.slot.toNat s
      match r.2 with
      | .ack none => .ok () r.1
      | .ack (some x) => .fail (if x = causeTargetLost then 4 else tileStatus (mkTrap x 0)) r.1
      | _ => .fail 4 r.1
  | 0xD#4 => match configWrite v (bs.map some) s with
    | .ok s' => .ok () s'
    | .error e => configEnd s (.error e)
  | 0xE#4 => match configWrite v (bs.map some) s with
    | .ok s' => .ok () s'
    | .error e => configEnd s (.error e)
  | 0xF#4 => .ok () { s with out := s.out ++ [.hostStore (tileVf s t) v (bs.map some)] }
  | _ =>
    let r := portWrite s (dieOf t) va (bs.map some) c.tenant
    match r.2 with
    | none => .ok () r.1
    | some (.absent k) => .park k r.1
    | some .busy => .busy r.1
    | some (.err x) => .fail (portStatus x) r.1

/-- Read one doubleword of the issuing tile's scratchpad: a stale granule contributes zeros (R285). -/
def copyReadLocal (c : Copy) (t a : Nat) (s : State) : DwEnd (List Byte) :=
  match s.spRead t ((s.getTile t).genFor c.slot c.run) false a 8 with
  | .ok bs => .ok bs (s.correctAt t a 8)
  | .error e => .fail (tileStatus e) (if e.cause = causeMsgCheck then s.modTile t (·.seeBad (spCheckTrap a)) else s)
def copyWriteLocal (c : Copy) (t a : Nat) (bs : List Byte) (s : State) : DwEnd Unit :=
  match s.spWrite t ((s.getTile t).genFor c.slot c.run) a (bs.map some) with
  | .ok s' => .ok () s'
  | .error e => .fail (tileStatus e) s

/-- Doublewords of a row and of the whole copy, and the address of doubleword `i` on a side. -/
def copyRowLen (d : Vector DWord 4) : Nat := copyLen d / 8
def copyTotal (d : Vector DWord 4) : Nat := copyRows d * copyRowLen d
def copyAddr (src : Bool) (d : Vector DWord 4) (i : Nat) : Nat :=
  ((copyStart src d : Int) + copyStride src d * (i / copyRowLen d : Nat) + 8 * (i % copyRowLen d : Nat)).toNat

def copyRead (c : Copy) (t i : Nat) (s : State) : DwEnd (List Byte) :=
  let a := copyAddr true c.dw i
  if copyLocal true c.dw then copyReadLocal c t a s else copyReadVa c t a s
def copyWrite (c : Copy) (t i : Nat) (bs : List Byte) (s : State) : DwEnd Unit :=
  let a := copyAddr false c.dw i
  if copyLocal false c.dw then copyWriteLocal c t a bs s else copyWriteVa c t a bs s

/-- Where a copy stands after a stretch of doublewords. -/
inductive CopyEnd where
  | done (s : State)
  | fail (status va : Nat) (s : State)
  | park (level va pos : Nat) (write : Bool) (s : State)
  /-- It must wait before doubleword `pos`. -/
  | busy (pos : Nat) (s : State)
  | refuse (r : Refusal)
  | noUnit

/-- Write doublewords from `i` on, in element order. -/
def copyScatter (c : Copy) (t : Nat) : List (List Byte) → Nat → State → CopyEnd
  | [], _, s => .done s
  | bs :: rest, i, s =>
    match copyWrite c t i bs s with
    | .refuse r => .refuse r
    | .noUnit => .noUnit
    | .fail st s1 => .fail st (copyAddr false c.dw i) s1
    | .park k s1 => .park k (copyAddr false c.dw i) i true s1
    | .busy s1 => .busy i s1
    | .ok _ s1 => copyScatter c t rest (i + 1) s1

/-- Read `n` doublewords from `i` on, in element order: how it ends, and what was read. -/
def copyGather (c : Copy) (t : Nat) : Nat → Nat → State → CopyEnd × List (List Byte)
  | 0, _, s => (.done s, [])
  | n + 1, i, s =>
    match copyRead c t i s with
    | .refuse r => (.refuse r, [])
    | .noUnit => (.noUnit, [])
    | .fail st s1 => (.fail st (copyAddr true c.dw i) s1, [])
    | .park k s1 => (.park k (copyAddr true c.dw i) i false s1, [])
    | .busy s1 => (.busy i s1, [])
    | .ok bs s1 => let r := copyGather c t n (i + 1) s1; (r.1, bs :: r.2)

/-- The state in which a stretch ended. -/
def CopyEnd.state (s : State) : CopyEnd → State
  | .done s1 | .fail _ _ s1 | .park _ _ _ _ s1 | .busy _ s1 => s1
  | .refuse _ | .noUnit => s
def CopyEnd.withState (s : State) : CopyEnd → CopyEnd
  | .done _ => .done s
  | .fail st va _ => .fail st va s
  | .park k va pos w _ => .park k va pos w s
  | .busy pos _ => .busy pos s
  | e => e

/-- Move the doublewords from `i` on, in element order (R284). -/
def copyFrom (c : Copy) (t : Nat) : Nat → Nat → State → CopyEnd
  | 0, _, s => .done s
  | n + 1, i, s =>
    match copyGather c t 1 i s with
    | (.done s1, bs) => match copyScatter c t bs i s1 with
      | .done s2 => copyFrom c t n (i + 1) s2
      | e => e
    | (e, _) => e

/-! ### Exponent coding (R287 to R289) -/

/-- XC and XT of Table 16.1. -/
def copyXc (d : Vector DWord 4) : Bool := d[2].getLsbD 45
def copyXt (d : Vector DWord 4) : Bool := d[2].getLsbD 44

/-- The leg on a side crosses a circuit: it leaves the bay (R287). -/
def legCrosses (c : Copy) (t : Nat) (src : Bool) (s : State) : Bool :=
  let va : VA := BitVec.ofNat 72 (copyStart src c.dw)
  !copyLocal src c.dw && !(vaSpace va == 0xC && bayOf ((windowHome s t va).tileNo s.modNo) == bayOf t)

/-- The doublewords of a chunk as the far end of a coded leg gives them back. -/
def overLeg (c : Copy) (data : List (List Byte)) : List (List Byte) :=
  let bs := data.flatten
  let got := chunkBytes (copyXt c.dw) bs.length (chunkWords (copyXt c.dw) bs)
  (List.range data.length).map fun j => (got.drop (8 * j)).take 8

/-- What a chunk's doublewords become over the legs of the copy. -/
def overLegs (c : Copy) (t : Nat) (s : State) (data : List (List Byte)) : List (List Byte) :=
  let once (src : Bool) (x : List (List Byte)) : List (List Byte) := if legCrosses c t src s then overLeg c x else x
  once false (once true data)

/-- Move the doublewords from `i` on in chunks of 4,096 bytes of the transfer. What was read before a read that stops
the command is still written. -/
def copyChunks (c : Copy) (t : Nat) : Nat → Nat → Nat → State → CopyEnd
  | 0, _, _, s => .done s
  | fuel + 1, n, i, s =>
    if n = 0 then .done s
    else
      let k := min n (512 - i % 512)
      let g := copyGather c t k i s
      match g.1 with
      | .refuse r => .refuse r
      | .noUnit => .noUnit
      | e => match copyScatter c t (overLegs c t s g.2) i (e.state s) with
        | .done s2 => match e with
          | .done _ => copyChunks c t fuel (n - k) (i + k) s2
          | e => e.withState s2
        | e2 => e2

/-- The rest of a copy within its module. -/
def copyRest (c : Copy) (t : Nat) (s : State) : CopyEnd :=
  let n := copyTotal c.dw - c.pos
  if copyXc c.dw then copyChunks c t (n + 1) n c.pos s else copyFrom c t n c.pos s

/-- The completion record of a copy (R286), and the engine is free for the tile's next command. -/
def copyDone (c : Copy) (t status va : Nat) (s : State) : State :=
  (s.modTile t fun tl => { tl with copyRun := none }).complete t c.slot c.run 1 status
    (BitVec.ofNat 8 (va / 2 ^ 64)) c.block (BitVec.ofNat 64 va)

/-- Park a running copy at an absent page (R222). -/
def copyPark (c : Copy) (t level va pos : Nat) (write : Bool) (s : State) : State :=
  let kind : BitVec 4 := if write then 2 else 1
  (s.modTile t fun tl => { tl with copyRun := some { c with pos := pos, park := some (parkOf s va level c.dom kind) } }).addFault
    (pageRecord s (dieOf t) va level c.tenant c.dom kind)

def Step.ofCopy (c : Copy) (t : Nat) : CopyEnd → Result
  | .done s => .next (copyDone c t 0 0 s)
  | .fail st va s => .next (copyDone c t st va s)
  | .park k va pos w s => .next (copyPark c t k va pos w s)
  | .busy pos s => .next (s.modTile t fun tl => { tl with copyRun := some { c with pos := pos, park := none } })
  | .refuse r => .refused r
  | .noUnit => .fault .noSuchUnit

/-- The copy's destination is a tile of another module: an RDMA write (R402). -/
def copyFar (c : Copy) (t : Nat) (s : State) : Bool :=
  !copyLocal false c.dw && vaSpace (BitVec.ofNat 72 (copyStart false c.dw)) == 0xC
    && (windowHome s t (BitVec.ofNat 72 (copyStart false c.dw))).module != s.modNo

/-- A tile of another module as the packets name it: the rank's die, X, Y and slot in VA[62:40]. -/
def farBase (e : RankEntry) (a : Nat) : VA :=
  0xC#4 ++ 0#5 ++ e.die ++ e.x ++ e.y ++ e.slot ++ BitVec.ofNat 40 (a % 2 ^ 40)

/-- The packets of a copy's doublewords from `c.pos` on: up to 256 bytes of one row each, at offsets in element order, on
the connection of the tenant and the target module. -/
def copyPackets (c : Copy) (seq : BitVec 32) (e : RankEntry) (data : List (List Byte)) : List Out :=
  (List.range (copyRows c.dw)).flatMap fun r =>
    (List.range ((copyRowLen c.dw + 31) / 32)).filterMap fun p =>
      let i := r * copyRowLen c.dw + 32 * p
      let lo := max i c.pos
      let hi := min (i + min 32 (copyRowLen c.dw - 32 * p)) (c.pos + data.length)
      if lo < hi then
        some (Out.rdma e.module.toNat c.tenant (farBase e (copyAddr false c.dw lo)) seq (8 * lo)
          ((data.drop (lo - c.pos)).take (hi - lo)).flatten (copyTotal c.dw * 8))
      else none

/-- The key of an outgoing connection: the tenant and the target module. -/
def connKey (tenant module : Nat) : Nat := tenant * 4096 + module

/-- The target that a far copy's destination names. -/
def farHome (c : Copy) (t : Nat) (s : State) : RankEntry := windowHome s t (BitVec.ofNat 72 (copyStart false c.dw))
/-- The source leg of a far copy carries its chunks coded where it leaves the bay (R287); `i` is the first doubleword. -/
def codeSource (c : Copy) : Nat → Nat → List (List Byte) → List (List Byte)
  | 0, _, x => x
  | fuel + 1, i, x =>
    let k := 512 - i % 512
    if x.isEmpty then [] else overLeg c (x.take k) ++ codeSource c fuel (i + k) (x.drop k)
/-- Send the packets of the doublewords read; the copy's first takes the connection's next sequence number. -/
def copySend (c : Copy) (t : Nat) (data : List (List Byte)) (s : State) : Copy × State :=
  let e := farHome c t s
  let key := connKey c.tenant e.module.toNat
  let seq := c.seq.getD (SMap.get 0 s.rdmaSeq key + 1)
  if data.isEmpty then (c, s)
  else ({ c with pos := c.pos + data.length, park := none, seq := some seq },
        { s with rdmaSeq := if c.seq.isNone then SMap.set 0 s.rdmaSeq key seq else s.rdmaSeq
                 out := s.out ++ copyPackets c seq e data })
/-- The target has acknowledged the copy's flagged write (R403). -/
def copyAck (c : Copy) (t : Nat) (s : State) : Nat × Nat × BitVec 32 := ((farHome c t s).module.toNat, c.tenant, c.seq.getD 0)

/-- A far copy's turn: the doublewords that can be read leave in packets, and when all have left the target's acknowledgement
completes the copy. -/
def farCopy (c : Copy) (t : Nat) (s : State) : Result :=
  if c.pos = copyTotal c.dw then
    if s.rdmaAcks.contains (copyAck c t s) then
      .next (copyDone c t 0 0 { s with rdmaAcks := s.rdmaAcks.erase (copyAck c t s) })
    else .next s
  else if !windowOpenTo s c t (BitVec.ofNat 72 (copyStart false c.dw)) then
    .next (copyDone c t 1 (copyStart false c.dw) s)
  else
    let n := copyTotal c.dw - c.pos
    let g := copyGather c t n c.pos s
    let r := copySend c t (if copyXc c.dw && legCrosses c t true s then codeSource c n c.pos g.2 else g.2) (g.1.state s)
    match g.1 with
    | .done _ => .next (r.2.modTile t fun tl => { tl with copyRun := some r.1 })
    | e => Step.ofCopy r.1 t (e.withState r.2)

/-- The doubleword a parked copy waits on. -/
def copyStuck (c : Copy) : Nat :=
  match c.park with
  | some p => copyAddr (p.kind != 2) c.dw c.pos
  | none => 0

/-- A running copy that is parked and has not been flushed or dismissed. -/
def Copy.waits (c : Copy) : Bool := match c.park with | some p => !p.retry | none => false
def Copy.dismissed (c : Copy) : Bool := match c.park with | some p => p.isDismissed | none => false

/-- `COPY_COMPLETION` (R284 to R286, R402): the command runs to its end, or to the page it must wait for. -/
def execCopyCompletion (t : Nat) (s : State) : Result :=
  if !tileOk t then .fault .noSuchUnit
  else match (s.getTile t).copyRun with
  | none => .next s
  | some c =>
    if c.waits then .next s
    else if c.dismissed then .next (copyDone c t 2 (copyStuck c) s)
    else if copyFar c t s then farCopy c t s
    else Step.ofCopy c t (copyRest c t s)

/-! ### Granary bins -/

def binKey (g bin : Nat) : Nat := g * 4096 + bin
def State.bin (s : State) (g bin : Nat) : Bin := SMap.get Bin.reset s.bins (binKey g bin)
def State.setBin (s : State) (g bin : Nat) (b : Bin) : State :=
  { s with bins := SMap.set Bin.reset s.bins (binKey g bin) b }
/-- BG of a tenant on a granary die. -/
def bgKey (g tenant : Nat) : Nat := g * 512 + tenant
def State.binGen (s : State) (g tenant : Nat) : BitVec 12 := SMap.get 0 s.bg (bgKey g tenant)

/-- `BIN_GRANT` (R290). -/
def binGrantBody (g bin tenant : Nat) (s : State) : Option State :=
  some (s.setBin g bin { s.bin g bin with tenant := BitVec.ofNat 9 tenant, tag := 0xFFF })
def execBinGrant (g bin tenant : Nat) (s : State) : Result :=
  event (decide (g < 8) && decide (bin < 4096) && decide (tenant < 512)) s (binGrantBody g bin tenant)

/-- `BIN_GENERATION_ADVANCE` (R290): the value after it, void left out. -/
def binAdvanceBody (g tenant : Nat) (s : State) : Option State :=
  some { s with bg := SMap.set 0 s.bg (bgKey g tenant) (nextGen (s.binGen g tenant)) }
def execBinGenerationAdvance (g tenant : Nat) (s : State) : Result :=
  event (decide (g < 8) && decide (tenant < 512)) s (binAdvanceBody g tenant)

/-- The granary die of a command, and its bin. -/
def GranReq.granary (r : GranReq) : Nat := dieOf r.tile / 2
def GranReq.bin (r : GranReq) : Nat :=
  (r.dw[1].extractLsb' 0 12).toNat
/-- A bin serves its requests in arrival order (R292). -/
def granFirst (s : State) (n : Nat) (r : GranReq) : Bool :=
  !(s.gran.take n).any fun x => x.granary == r.granary && x.bin == r.bin

/-- The tile has a granary circuit, and the bin is its tenant's. -/
def granPermitted (s : State) (r : GranReq) : Bool :=
  (match (s.getTile r.tile).launch with | some l => l.granary | none => false)
    && (s.bin r.granary r.bin).tenant.toNat == r.tenant

/-- A granary command completes with a status. -/
def granDone (n : Nat) (r : GranReq) (status : Nat) (s : State) : State :=
  { s with gran := s.gran.eraseIdx n }.complete r.tile r.slot r.run (if r.load then 5 else 6) status 0 r.block
    (BitVec.ofNat 64 (r.granary * 4096 + r.bin))

def GranReq.waits (r : GranReq) : Bool := match r.park with | some p => !p.retry | none => false
def GranReq.dismissed (r : GranReq) : Bool := match r.park with | some p => p.isDismissed | none => false

/-- Table 17.4. -/
def slabVa (r : GranReq) : Nat := (r.dw[1].extractLsb' 56 8 ++ r.dw[0]).toNat
def slabRows (r : GranReq) : Nat := (r.dw[1].extractLsb' 16 9).toNat + 1
def slabType (r : GranReq) : Bool := r.dw[1].getLsbD 32

/-- A slab is read as a copy reads its source (R312). -/
def GranReq.asCopy (r : GranReq) : Copy :=
  { slot := r.slot, run := r.run, sup := false, tenant := r.tenant, dom := r.dom, block := r.block,
    dw := Vector.replicate 4 0, order := 0, pos := 0, park := none }

/-- Read the slab's `n` doublewords from a VA on. -/
def slabRead (r : GranReq) : Nat → Nat → State → DwEnd (List Byte) × Nat
  | 0, va, s => (.ok [] s, va)
  | n + 1, va, s =>
    match copyReadVa r.asCopy r.tile va s with
    | .ok bs s1 => match slabRead r n (va + 8) s1 with
      | (.ok rest s2, x) => (.ok (bs ++ rest) s2, x)
      | e => e
    | e => (e, va)

/-- The bin-cycles of a granary command: those it computes for, and what its load and the filler take, which is free (R294,
assumption 53). -/
def meterBin (tenant n : Nat) (s : State) : State := { s with free := s.free + 1 }.hubMeter tenant 6 (n + Config.binExtra s.free)

/-- Read the slab and load the bin (R291, R292). A slab that cannot be read changes no bin (R312). -/
def loadBin (n : Nat) (r : GranReq) (s : State) : Result :=
  let g := r.granary
  match slabRead r (slabRows r * granRow (slabType r) / 8) (slabVa r) s with
  | (.ok bs s1, _) =>
    let b : Bin := { s1.bin g r.bin with
      tag := s1.binGen g r.tenant, type := slabType r, rows := BitVec.ofNat 10 (slabRows r - 1) }
    .next (granDone n r 0 (meterBin r.tenant 0 ({ s1 with mem := writeBytes s1.mem (binBase g r.bin) bs }.setBin g r.bin b)))
  | (.park k s1, va) =>
    .next ({ s1 with gran := s1.gran.set n { r with park := some (parkOf s1 va k r.dom 1) } }.addFault
      (pageRecord s1 (dieOf r.tile) va k r.tenant r.dom 1))
  | (.fail st s1, _) => .next (granDone n r st s1)
  | (.busy s1, _) => .next s1
  | (.refuse x, _) => .refused x
  | (.noUnit, _) => .fault .noSuchUnit

/-- `GRANARY_LOAD` (R292, R312). -/
def execGranaryLoad (n : Nat) (s : State) : Result :=
  match s.gran[n]? with
  | none => .next s
  | some r =>
    if !r.load || !granFirst s n r || r.waits then .next s
    else if !granPermitted s r then .next (granDone n r 8 s)
    else if r.dismissed then .next (granDone n r 2 s)
    else loadBin n r s

/-- E2M1 doubled (R293): an integer from −12 to 12. -/
def e2m1Twice (x : Nat) : Int :=
  let m : Int := [0, 1, 2, 3, 4, 6, 8, 12].getD (x % 8) 0
  if 8 ≤ x % 16 then -m else m
/-- Element `i` of a row's element array (Table 3.4). -/
def mxElem (type : Bool) (bs : List Byte) (i : Nat) : Int :=
  if type then (bs.getD i 0).toInt
  else
    let b := (bs.getD (i / 2) 0).toNat
    e2m1Twice (if i % 2 = 0 then b % 16 else b / 16)
/-- Bytes of one row's element array. -/
def mxRow (type : Bool) : Nat := if type then 1024 else 512

/-- A weight row: its elements and its 32 scales. -/
structure WeightRow where
  elems : List Byte
  scales : List Byte

/-- Row `r` of a bin, zeros above the rows loaded and where the bin is not live. -/
def binRow (s : State) (g bin : Nat) (live : Bool) (r : Nat) : WeightRow :=
  let b := s.bin g bin
  if live ∧ r ≤ b.rows.toNat then
    let base := binBase g bin
    ⟨readBytes s.mem (base + r * mxRow b.type) (mxRow b.type),
     readBytes s.mem (base + (b.rows.toNat + 1) * mxRow b.type + 32 * r) 32⟩
  else ⟨[], []⟩

/-- p[b] of R293. -/
def blockDot (type : Bool) (w : WeightRow) (x : List Byte) (b : Nat) : Int :=
  (List.range 32).foldl (fun n i => n + mxElem type w.elems (32 * b + i) * mxElem type x (32 * b + i)) 0
/-- The scale bytes of block `b`, of the weights and of the activation. -/
def weightScale (w : WeightRow) (b : Nat) : Nat := (w.scales.getD b 0).toNat
def actScale (type : Bool) (x : List Byte) (b : Nat) : Nat := (x.getD (mxRow type + b) 0).toNat
def blockNan (type : Bool) (w : WeightRow) (x : List Byte) (b : Nat) : Bool := weightScale w b == 255 || actScale type x b == 255

/-- The result bytes of one row (R293). -/
def rowResult (type raw : Bool) (w : WeightRow) (x : List Byte) : List Byte :=
  if raw then (List.range 32).flatMap fun b =>
    bytesOf 4 (if blockNan type w x b then 0x80000000#32 else BitVec.ofInt 32 (blockDot type w x b))
  else
    let v := (List.range 32).foldl (fun acc b =>
      let p := blockDot type w x b
      FVal.add acc (.fin (decide (p < 0)) p.natAbs
        ((weightScale w b : Int) + actScale type x b - 254 - if type then 12 else 2))) (.fin false 0 0)
    let bits := if (List.range 32).any (blockNan type w x) then fp32.nan else fp32.encode 0 v
    bytesOf 4 (BitVec.ofNat 32 bits)

/-- The bin-cycles of a `GRN`: two MXFP4 rows or one MXINT8 row per cycle (R294). -/
def binCycles (type : Bool) (rows : Nat) : Nat := if type then rows else (rows + 1) / 2

/-- Compute and write the rows (R293, R313). -/
def computeBin (n : Nat) (r : GranReq) (s : State) : State :=
  let d0 := r.dw[0]
  let g := r.granary
  let type := grnType d0
  let tl := s.getTile r.tile
  let gen := tl.genFor r.slot r.run
  let b := s.bin g r.bin
  let live := b.tag == s.binGen g r.tenant && b.type == type
  if !live && (tl.slot r.slot).gpol then granDone n r 5 s
  else match s.spReadSpan r.tile gen false 34 (grnAct d0) (granRow type) with
  | .error e =>
    granDone n r (tileStatus e) (if e.cause = causeMsgCheck then s.modTile r.tile (·.seeBad e) else s)
  | .ok x =>
    let count := grnLast d0 + 1 - grnFirst d0
    let out := (List.range count).flatMap fun i => rowResult type (grnRaw d0) (binRow s g r.bin live (grnFirst d0 + i)) x
    let w := (s.correctAt r.tile (grnAct d0) (granRow type)).spWriteSpan r.tile gen 1025 (grnDst d0) out
    let s1 := meterBin r.tenant (binCycles type count) w.1
    granDone n r (match w.2 with | some e => tileStatus e | none => 0) s1

/-- `GRANARY_COMPUTE` (R293, R313). -/
def granaryComputeBody (n : Nat) (s : State) : Option State := do
  let r ← s.gran[n]?
  if r.load || !granFirst s n r then none
  else if !granPermitted s r then some (granDone n r 8 s)
  else some (computeBin n r s)
def execGranaryCompute (n : Nat) (s : State) : Result := event true s (granaryComputeBody n)

/-! ### Collectives -/

/-- One combine step (Table 16.4). -/
def combine (op : BitVec 2) (x y : DWord) : DWord :=
  match op with
  | 0#2 => x + y
  | 1#2 =>
    let lane (a b : Word) : Word := BitVec.ofNat 32 (fp32.fadd a.toNat b.toNat)
    lane (x.extractLsb' 32 32) (y.extractLsb' 32 32) ++ lane (x.extractLsb' 0 32) (y.extractLsb' 0 32)
  | 2#2 => if x.toInt < y.toInt then y else x
  | _ => if y.toInt < x.toInt then y else x

/-- The scope's threads, with their launch indices. -/
def waveThreads (l : Launch) (w : WaveRun) : List (Nat × Thread) :=
  (l.threads.filter (·.inScope w.path)).map fun th => (radix l.levels th.path, th)

/-- Insert by descending key. -/
def insertDesc (x : Nat × Nat) : List (Nat × Nat) → List (Nat × Nat)
  | [] => [x]
  | y :: r => if y.1 < x.1 then x :: y :: r else y :: insertDesc x r
/-- The tiles of a scope in descending order of the highest launch index on each (R295). -/
def chainTiles (ths : List (Nat × Thread)) : List Nat :=
  let tiles := (ths.map (·.2.tile)).eraseDups
  let best (t : Nat) : Nat := maxOf ((ths.filter fun x => x.2.tile == t).map (·.1))
  (tiles.foldl (fun acc t => insertDesc (best t, t) acc) []).map (·.2)

/-- The launch indices of a tile's members, from the highest. -/
def tileIndices (ths : List (Nat × Thread)) (t : Nat) : List Nat :=
  ((ths.filter fun x => x.2.tile == t).foldl (fun acc x => insertDesc (x.1, x.1) acc) []).map (·.2)

/-- Every thread of the scope on a tile has contributed or ended. -/
def tileContributed (ths : List (Nat × Thread)) (w : WaveRun) (t : Nat) : Bool :=
  (ths.filter fun x => x.2.tile == t).all fun x => x.2.ended || w.contribs.any (·.1 == x.1)

/-- The wave's operation: the one that the member with the highest launch index named (R314). -/
def waveOp (w : WaveRun) : BitVec 2 :=
  match w.contribs.find? fun c => w.contribs.all fun d => decide (d.1 ≤ c.1) with
  | some c => c.2.1
  | none => 0

/-- Fold a tile's contributions into the partial, in descending launch index (R296). -/
def foldTile (ths : List (Nat × Thread)) (w : WaveRun) (t : Nat) : Option DWord :=
  (tileIndices ths t).foldl (fun acc ix =>
    match w.contribs.find? (·.1 == ix) with
    | some c => match acc with | some x => some (combine (waveOp w) x c.2.2) | none => some c.2.2
    | none => acc) w.acc

/-- `COMBINE_FORWARD` (R297): the next router of the chain folds its tile's contributions. -/
def combineForwardBody (n : Nat) (s : State) : Option State := do
  let w ← s.waves[n]?
  let l ← s.findLaunch w.lid
  let ths := waveThreads l w
  match (if w.started then w.chain else chainTiles ths) with
  | t :: rest =>
    if tileContributed ths w t then
      some { s with waves := s.waves.set n { w with started := true, chain := rest, acc := foldTile ths w t } }
    else none
  | [] => none
def execCombineForward (n : Nat) (s : State) : Result := event true s (combineForwardBody n)

/-- The wave's result has reached the root. -/
def WaveRun.finished (w : WaveRun) : Bool := w.started && w.chain.isEmpty

/-- A slot still waits for a wave's result. -/
def Slot.awaitsWave (sl : Slot) (w : WaveRun) : Bool :=
  match sl.wave with | some h => h.level == w.level && h.num == w.num && h.result.isNone | none => false

/-- A slot has not yet taken the wave's result with `COLLW` (R315). -/
def Slot.holdsWave (sl : Slot) (w : WaveRun) : Bool :=
  match sl.wave with | some h => h.level == w.level && h.num == w.num | none => false

/-- Waves whose result every member has taken leave the list: until then a save needs their contributions (R315). -/
def dropWaves (s : State) : State :=
  { s with waves := s.waves.filter fun w =>
      !w.finished || (match s.findLaunch w.lid with
        | some l => l.st != .running || (waveThreads l w).any fun x => (s.slotAt x.2.tile x.2.slot).holdsWave w
        | none => false) }

/-- `COLLECTIVE_RESULT` (R297). -/
def collectiveResultBody (t k : Nat) (s : State) : Option State := do
  let tl := s.getTile t
  let sl := tl.slot k
  let h ← sl.wave
  let w ← s.waves.find? fun w => w.finished && w.lid == tl.lid && w.path == scopePath (tl.path k) w.level.toNat && sl.awaitsWave w
  let r ← w.acc
  some (dropWaves (s.modSlotAt t k fun sl => { sl with wave := some { h with result := some r } }))
def execCollectiveResult (t k : Nat) (s : State) : Result := event (ctxOk t k) s (collectiveResultBody t k)

end Sys2Proof.Machine
end

