-- ==== Sys2Proof/Machine/Bind.lean ====
section
/-! DEFINITION. Launch records (Table 20.1), code images (Table 2.4), tree descriptors and the binding of a tree
to bays, tiles and slots (R118 to R124). -/

namespace Sys2Proof.Machine

/-! ### Launch records (R335) -/

def vaField (d : DWord) : Nat := (d.extractLsb' 0 48).toNat
def recTenant (d : Vector DWord 8) : Nat := (d[0].extractLsb' 48 9).toNat
def recCode (d : Vector DWord 8) : Nat := vaField d[0]
def recTree (d : Vector DWord 8) : Nat := vaField d[1]
def recArgs (d : Vector DWord 8) : Nat := vaField d[2]
def recWaits (d : Vector DWord 8) : List Nat := [vaField d[3], vaField d[4], vaField d[5]]
def recDone (d : Vector DWord 8) : Nat := vaField d[6]
def recBudget (d : Vector DWord 8) : Nat := (d[7].extractLsb' 32 32).toNat
def recBarrier (d : Vector DWord 8) : Bool := d[7].getLsbD 31
def recPrio (d : Vector DWord 8) : Nat := (d[7].extractLsb' 28 3).toNat
def recEnergy (d : Vector DWord 8) : Nat := (d[7].extractLsb' 26 2).toNat
def recSpeed (d : Vector DWord 8) : Nat := (d[7].extractLsb' 24 2).toNat
def recBal (d : Vector DWord 8) : Bool := d[7].getLsbD 23
def recH (d : Vector DWord 8) : BitVec 3 := d[7].extractLsb' 20 3
def recGpol (d : Vector DWord 8) : Bool := d[7].getLsbD 19
/-- A reserved field is not zero, or TREE or CODE is 0. -/
def recMalformed (d : Vector DWord 8) : Bool :=
  d[0].extractLsb' 57 7 != 0 || ((d.toList.drop 1).take 6).any (fun x => x.extractLsb' 48 16 != 0)
    || d[7].extractLsb' 0 19 != 0 || recTree d == 0 || recCode d == 0

/-! ### Code images (R39, Table 19.5) -/

def hdrHalf (h : List Byte) (off : Nat) : Nat := leNat ((h.drop off).take 2)
def hdrSegs (h : List Byte) : Nat := hdrHalf h 6
/-- Words of segment `i`: none where the image does not hold it. -/
def hdrLen (h : List Byte) (i : Nat) : Nat := if (hdrSegs h).testBit i then hdrHalf h (0xC + 2 * i) else 0
def hdrEntry (h : List Byte) : Nat := hdrHalf h 8
def hdrMask (h : List Byte) : BitVec 16 := BitVec.ofNat 16 (hdrHalf h 0xA)
def hdrPrio (h : List Byte) (t : Nat) : BitVec 3 := BitVec.ofNat 3 (hdrHalf h (0x14 + 2 * t) / 8192)
def hdrHpc (h : List Byte) (t : Nat) : Nat := hdrHalf h (0x34 + 2 * t)
/-- A PC names a word that the image loads. -/
def hdrLoaded (h : List Byte) (pc : Nat) : Bool := decide (pc < 0x3000) && decide (pc % 4096 < hdrLen h (pc / 4096))
/-- The header passes the checks of `CODE_IMAGE`. -/
def hdrOk (h : List Byte) (H : BitVec 3) : Bool :=
  leNat (h.take 4) == 0x48564531 && hdrHalf h 4 == 1 && decide (hdrSegs h < 8)
    && (List.range 3).all (fun i => decide (hdrHalf h (0xC + 2 * i) ≤ 4096)) && hdrLoaded h (hdrEntry h)
    && (List.range 16).all (fun t => !(hdrMask h).getLsbD t || hdrLoaded h (hdrHpc h t))
    && (hdrMask h == 0 || H != 0)
/-- Words of the three segments together. -/
def hdrWords (h : List Byte) : Nat := hdrLen h 0 + hdrLen h 1 + hdrLen h 2

/-- The tag table that a placement loads (R163). -/
def hdrTags (h : List Byte) : Vector TagEntry 16 :=
  Vector.ofFn fun t => ⟨(hdrMask h).getLsbD t, hdrPrio h t, 0, BitVec.ofNat 14 (hdrHpc h t)⟩

/-! ### Tree descriptors (R118, R119) -/

def treeWord (bs : List Byte) (i : Nat) : Nat := leNat ((bs.drop (4 * i)).take 4)
def levelOf (w : Nat) : Level := ⟨BitVec.ofNat 16 w, BitVec.ofNat 3 (w / 65536)⟩
def treeLevels (bs : List Byte) : List Level := (List.range (treeWord bs 0 % 256)).map fun k => levelOf (treeWord bs (k + 2))

/-- Bindings do not rise from root to leaf. -/
def descending : List Level → Bool
  | a :: b :: r => decide (b.bind ≤ a.bind) && descending (b :: r)
  | _ => true
/-- The product of fan-outs over lane-bound levels. -/
def laneProduct (ls : List Level) : Nat := ls.foldl (fun n l => if l.bind = 0 then n * l.fan.toNat else n) 1

/-- The first launch fault of Table 6.3 that the descriptor alone shows, or its levels. -/
def treeCheck (bs : List Byte) : Except Nat (List Level) :=
  let d := treeWord bs 0 % 256
  let ls := treeLevels bs
  if d = 0 ∨ 16 < d ∨ (List.range 16).any fun k => decide (d ≤ k) && treeWord bs (k + 2) != 0 then .error 0x43
  else if !descending ls then .error 0x41
  else if 8 < laneProduct ls then .error 0x42
  else if 256 ≤ treeWord bs 0 ∨ treeWord bs 1 ≠ 0 ∨ ((List.range d).any fun k => decide (2 ^ 19 ≤ treeWord bs (k + 2)))
      ∨ (ls.any fun l => l.fan == 0) ∨ (ls.all fun l => l.bind == 0) then .error 0x40
  else .ok ls

/-! ### Binding (R119 to R124) -/

/-- A group: its binding and the fan-outs of its levels. -/
structure Group where
  bind : Nat
  fans : List Nat

/-- Put a level above a list of groups. -/
def consLevel (l : Level) : List Group → List Group
  | g :: r => if g.bind = l.bind.toNat then ⟨g.bind, l.fan.toNat :: g.fans⟩ :: r else ⟨l.bind.toNat, [l.fan.toNat]⟩ :: g :: r
  | [] => [⟨l.bind.toNat, [l.fan.toNat]⟩]
/-- The groups of the levels that are not lane-bound, root first. -/
def groupsOf (ls : List Level) : List Group := (ls.filter (·.bind ≠ 0)).foldr consLevel []

def prodOf (fans : List Nat) : Nat := fans.foldl (· * ·) 1
/-- An index as coordinates in mixed radix, the last least significant. -/
def digits : List Nat → Nat → List Nat
  | [], _ => []
  | _ :: r, ix => ix / prodOf r :: digits r (ix % prodOf r)

/-- What a group is placed in: some bays, a stook, a tile, or a slot. -/
inductive Box where
  | bays (bs : List Nat)
  | stook (bay s : Nat)
  | tile (t : Nat)
  | seat (t k : Nat)

/-- The tiles of a bay and of a stook, in the order of R122. -/
def bayTileList (b : Nat) : List Nat := (List.range 64).map (64 * b + ·)
def stookTileList (b s : Nat) : List Nat := (List.range 4).map (64 * b + 4 * s + ·)
def Box.tiles : Box → List Nat
  | .bays bs => bs.flatMap bayTileList
  | .stook b s => stookTileList b s
  | .tile t => [t]
  | .seat t _ => [t]

/-- The units of a level within a box, in ascending or fixed order; `u` is the number of user slots. -/
def Box.units (u : Nat) (bind : Nat) (x : Box) : List Box :=
  match bind, x with
  | 5, .bays bs => (List.range 16).filterMap fun d =>
      let l := bs.filter fun b => b / Config.baysPerDie == d
      if l.isEmpty then none else some (.bays l)
  | 4, .bays bs => bs.map fun b => .bays [b]
  | 3, .bays bs => bs.flatMap fun b => (List.range 16).map fun s => .stook b s
  | 2, x => x.tiles.map .tile
  | 1, x => x.tiles.flatMap fun t => (List.range u).map fun k => .seat t k
  | 6, .bays bs => if bs.isEmpty then [] else [.bays bs]
  | _, _ => []

/-- Where a unit's thread runs (R124). -/
def Box.origin : Box → Nat × Nat
  | .bays bs => (64 * bs.headD 0, 0)
  | .stook b s => (64 * b + 4 * s, 0)
  | .tile t => (t, 0)
  | .seat t k => (t, k)

/-- The module's place in the tenant's fleet list, the list's length (R401), and the partition's bays on it. -/
structure FleetPos where
  pos : Nat
  count : Nat
  part : List Nat

/-- Bind the groups from a module-bound one down within a box: the path and the unit of every deepest node, in ascending
order of paths. -/
def bindDown (u : Nat) : List Group → Box → Option (List (List Nat × Box))
  | [], x => some [([], x)]
  | g :: r, x =>
    let n := prodOf g.fans
    let cand := if 4 ≤ g.bind then x.units u g.bind else (x.units u g.bind).take n
    let got := (cand.filterMap fun y => bindDown u r y).take n
    if got.length = n then
      some (got.zipIdx.flatMap fun yi => yi.1.map fun p => (digits g.fans yi.2 ++ p.1, p.2))
    else none

/-- How the nodes of a fleet-bound group spread over the joined modules (R120, R401, assumption 42): each takes `below`
modules, and a module holds `units` of the `n` units of the group beneath. -/
structure Spread where
  n     : Nat
  units : Nat
  below : Nat

/-- The capacity of a module for a group, and of the fleet-bound group's node so (R120): the dies, bays or lower units that
the partition holds there. -/
def spreadOf (u : Nat) (fl : FleetPos) : List Group → Spread
  | [] => ⟨1, 1, 1⟩
  | m :: r =>
    let n := prodOf m.fans
    if m.bind = 6 then ⟨n, 1, n⟩
    else
      let c := ((Box.units u m.bind (.bays fl.part)).filter fun y => (bindDown u r y).isSome).length
      ⟨n, c, (n + c - 1) / max 1 c⟩

/-- The part of a joint launch that this module holds: the coordinates at the fleet-bound group's levels, and then those of
its own units of the group beneath. -/
def bindFleet (u : Nat) (fl : FleetPos) (g : Group) (r : List Group) (x : Box) : Option (List (List Nat × Box)) :=
  let sp := spreadOf u fl r
  if sp.units = 0 ∨ fl.count < prodOf g.fans * sp.below ∨ prodOf g.fans * sp.below ≤ fl.pos then none
  else
    let path := digits g.fans (fl.pos / sp.below)
    let first := fl.pos % sp.below * sp.units
    let put (l : List (List Nat × Box)) : List (List Nat × Box) := l.map fun p => (path ++ p.1, p.2)
    match r with
    | [] => some (put [([], x)])
    | m :: r =>
      if m.bind = 6 then (bindDown u r x).map fun l => put (l.map fun p => (digits m.fans first ++ p.1, p.2))
      else
        let n := min sp.units (sp.n - first)
        let got := ((x.units u m.bind).filterMap fun y => bindDown u r y).take n
        if got.length = n then
          some (put (got.zipIdx.flatMap fun yi => yi.1.map fun p => (digits m.fans (first + yi.2) ++ p.1, p.2)))
        else none

/-- Bind the groups of a tree within a box. -/
def bindGroups (u : Nat) (fl : FleetPos) (gs : List Group) (x : Box) : Option (List (List Nat × Box)) :=
  match gs with
  | g :: r => if g.bind = 7 then bindFleet u fl g r x else bindDown u gs x
  | [] => bindDown u gs x

/-- Bind a tree to bays, given in ascending order: its threads, in ascending launch index. -/
def bindTree (ls : List Level) (h : BitVec 3) (fl : FleetPos) (bays : List Nat) : Option (List Thread) :=
  if bays.isEmpty then none
  else
    let lanes := (ls.filter (·.bind = 0)).map fun _ => 0
    (bindGroups (8 - h.toNat) fl (groupsOf ls) (.bays bays)).map fun l => l.map fun p =>
      { tile := p.2.origin.1, slot := p.2.origin.2, path := p.1 ++ lanes, ended := false }

/-- The tiles and bays that hold a launch's threads, each once, in ascending order of index (R124, R345). -/
def dedupe (l : List Nat) : List Nat := l.foldr (fun x r => if r.head? = some x then r else x :: r) []
def insertAsc (x : Nat) : List Nat → List Nat
  | [] => [x]
  | y :: r => if x < y then x :: y :: r else if x = y then y :: r else y :: insertAsc x r
def sortAsc (l : List Nat) : List Nat := (dedupe l).foldr insertAsc []
def threadTiles (ths : List Thread) : List Nat := sortAsc (ths.map (·.tile))
def threadBays (ths : List Thread) : List Nat := dedupe ((threadTiles ths).map bayOf)

/-- The class that SPEED admits. -/
def speedOk (l : Launch) (b : Nat) : Bool := recSpeed l.dw == 0 || recSpeed l.dw == columnClass (bayColumn b)
/-- The partition's bays that a launch's class admits; a partition lists its bays in ascending order. -/
def admitted (s : State) (l : Launch) : List Nat := (s.getTenant l.tenant).part.filter (speedOk l)
/-- The fleet position of the module for a launch (R120, R401). -/
def State.fleetPos (s : State) (l : Launch) : FleetPos :=
  let ms := (s.getTenant l.tenant).fleet
  if ms.isEmpty then ⟨0, 1, admitted s l⟩
  else ⟨(ms.findIdx? (· == s.modNo.toNat)).getD ms.length, ms.length, admitted s l⟩

/-- Bind a launch's tree to bays. -/
def State.bindOn (s : State) (l : Launch) (ls : List Level) (bays : List Nat) : Option (List Thread) :=
  bindTree ls (recH l.dw) (s.fleetPos l) bays

/-! ### Levels that get wires (R190, R295) -/

/-- The declared levels of an extent between two, from the deepest upward, at most four. -/
def wiredLevels (ls : List Level) (fleet : Bool) (lo hi : Nat) : List (BitVec 4) :=
  (((List.range ls.length).reverse.filter fun k =>
    decide (lo ≤ extentOf ls fleet k) && decide (extentOf ls fleet k ≤ hi)).take 4).map (BitVec.ofNat 4)

/-! ### Rank windows (R201) -/

def windowBase (n j0 : Nat) : Nat := if n ≤ 4096 then 0 else min (n - 4096) (j0 - 2048)

/-- The entry that names a thread. -/
def rankEntryOf (s : State) (tenant : Nat) (th : Thread) : RankEntry :=
  { valid := true, transit := false, module := s.modNo, die := BitVec.ofNat 4 (dieOf th.tile),
    x := BitVec.ofNat 8 (tileX th.tile), y := BitVec.ofNat 8 (tileY th.tile), slot := BitVec.ofNat 3 th.slot,
    tenant := BitVec.ofNat 9 tenant }
/-- The entry of a thread that another module's granger has placed: the place there is not this module's to choose, and
is free (assumption 43). -/
def farRankEntry (s : State) (lid : BitVec 29) (tenant pos ix : Nat) : RankEntry :=
  let m := (s.getTenant tenant).fleet.getD pos s.modNo.toNat
  let w := Config.farPlace lid.toNat m ix
  { valid := true, transit := false, module := BitVec.ofNat 12 m, die := w.extractLsb' 19 4, x := w.extractLsb' 11 8,
    y := w.extractLsb' 3 8, slot := w.extractLsb' 0 3, tenant := BitVec.ofNat 9 tenant }

/-- Launch indices by module: those under one fleet-bound node, and those that one module holds of them. -/
structure IndexSpread where
  node  : Nat
  own   : Nat
  below : Nat
/-- How the launch indices of a tree with a fleet-bound root spread. -/
def indexSpread (s : State) (l : Launch) (ls : List Level) : Option IndexSpread :=
  match groupsOf ls with
  | g :: r =>
    if g.bind = 7 then
      let sp := spreadOf (8 - (recH l.dw).toNat) (s.fleetPos l) r
      let node := fanProduct ls / prodOf g.fans
      some ⟨node, max 1 (node / sp.n * sp.units), sp.below⟩
    else none
  | [] => none
/-- The place in the fleet list of the module that holds a launch index. -/
def IndexSpread.posOf (x : IndexSpread) (ix : Nat) : Nat := ix / x.node * x.below + ix % x.node / x.own
/-- The first index of the module at a place of the fleet list, and the one after its last. -/
def IndexSpread.first (x : IndexSpread) (pos : Nat) : Nat := pos / x.below * x.node + pos % x.below * x.own
def IndexSpread.stop (x : IndexSpread) (pos : Nat) : Nat := min (x.first pos + x.own) ((pos / x.below + 1) * x.node)

/-- The entries of the launch indices from `lo` to `hi` as other modules hold them, by rank from `base` on. -/
def farRanks (s : State) (l : Launch) (x : IndexSpread) (base lo hi : Nat) : SMap RankEntry :=
  (List.range (hi - lo)).map fun j => (lo + j - base, farRankEntry s l.lid l.tenant (x.posOf (lo + j)) (lo + j))

/-- The rank table of a window (R201): rank r names the thread with launch index base + r, in this module or another. -/
def rankTable (s : State) (l : Launch) (ls : List Level) (ths : List Thread) (base : Nat) : SMap RankEntry :=
  let own : SMap RankEntry := ths.filterMap fun th =>
    let ix := radix ls th.path
    if base ≤ ix ∧ ix < base + 4096 then some (ix - base, rankEntryOf s l.tenant th) else none
  let stop := min (fanProduct ls) (base + 4096)
  let pos := (s.fleetPos l).pos
  match indexSpread s l ls with
  | some x => farRanks s l x base base (min stop (x.first pos)) ++ own ++ farRanks s l x base (max base (x.stop pos)) stop
  | none => own

end Sys2Proof.Machine
end

