-- ==== Sys2Proof/Machine/Repoint.lean ====
section
/-! DEFINITION. Circuits of a launch that is pre-empted: parking them, and re-pointing them to its new place (R171,
R349); and the circuits that a placement sets up for its tiles (R216, R294, R295). -/

namespace Sys2Proof.Machine

/-- Change every tile that holds more than the reset state, and the focus tile. -/
def State.mapTiles (s : State) (f : Tile → Tile) : State :=
  { s with tile := f s.tile
           others := s.others.filterMap fun kt => if f kt.2 = Tile.reset then none else some (kt.1, f kt.2) }

/-- Every tile that holds more than the reset state, and the focus tile. -/
def State.tileNos (s : State) : List Nat := s.tid :: s.others.map (·.1)

/-! ### Requests that can never arrive (R257, R332) -/

/-- `TARGET_LOST`, deferred: %TADDR holds the VA, or a discarded message's header word. -/
def lostErr (r : Req) : PendErr :=
  let d := deferredErr r causeTargetLost
  match r.op with
  | .msg hdr _ => ⟨{ d.trap with addr := hdr, addrx := { d.trap.addrx with vax := 0 } }⟩
  | _ => d

/-- A request that will never be answered completes at its context. -/
def loseReq (r : Req) (s : State) : State :=
  match r.op with
  | .msg _ _ => s.modSlotAt r.tile r.slot fun sl =>
      let x := sl.closeAcc r.seq
      if sl.run = r.run then { x with nm := x.nm - 1, derr := x.derr ++ [lostErr r] } else x
  | .store _ => s.modSlotAt r.tile r.slot (slotAck r (some causeTargetLost))
  | .pull _ n dst _ => s.complete r.tile r.slot r.run 2 4 0 0 (pullWord (BitVec.ofNat 16 r.rank) n (BitVec.ofNat 15 dst))
  | _ => s.modSlotAt r.tile r.slot (slotReply r [] false (some causeTargetLost) false)

/-- The requests that the NIs still hold for some circuits end: the circuits are gone. -/
def loseHeld (keys : List Nat) (s : State) : State :=
  let hit (r : Req) : Bool := match r.route with | .tile die cid _ _ => keys.contains (circuitKey die cid) | _ => false
  let lost := s.tileNos.flatMap fun t => (s.getTile t).slots.toList.flatMap fun sl => sl.niq.filter hit
  let s1 := s.mapTiles fun tl => { tl with slots := tl.slots.map fun (sl : Slot) => { sl with niq := sl.niq.filter (!hit ·) } }
  lost.foldl (fun s r => loseReq r s) s1
/-- Circuits are torn down, and what their senders' NIs still hold for them ends (R332). -/
def killCircuits (keys : List Nat) (s : State) : State :=
  if keys.isEmpty then s else loseHeld keys (keys.foldl killCircuit s)

/-! ### Parking (R171) -/

/-- A circuit that contexts set up. -/
def Circuit.ofContext (c : Circuit) : Bool := c.kind == .message || c.kind == .channel

/-- PARK of the injection entries of a circuit. -/
def setPark (park : Bool) (key : Nat) (s : State) : State :=
  let c := s.circuit key
  let es := (entriesOf false c.fwd c.tenant (key % 4096) c.base).filter fun kv => keyInjects kv.1
  let s1 := s.writeEntries (es.map fun kv => (kv.1, if park then kv.2 ||| 0x40000000 else kv.2))
  s1.setCircuit key { s1.circuit key with parked := park }

/-- The words that the NIs hold for a circuit are delivered: they are injected before it is parked. -/
def deliverWords (key : Nat) (s : State) : State :=
  let dst : WordTo := .circuit (key / 4096) (key % 4096)
  (s.words.filter (·.dst == dst)).foldl (fun s w => wordArrives w s) { s with words := s.words.filter (·.dst != dst) }

/-- Park every circuit into some tiles of a launch. -/
def parkInto (lid : BitVec 29) (tiles : List Nat) (s : State) : State :=
  ((s.circuits.filter fun kc => kc.2.ofContext && tiles.contains kc.2.dst && !kc.2.parked).map (·.1)).foldl (fun s key =>
    let s1 := setPark true key (deliverWords key s)
    s1.setCircuit key { s1.circuit key with parkedFor := lid }) s

/-- TRANSIT of the rank entries that name some tiles of this module. -/
def setTransit (on : Bool) (tiles : List Nat) (s : State) : State :=
  s.mapTiles fun tl => { tl with ranks := tl.ranks.map fun re =>
    if re.2.valid ∧ tiles.contains (re.2.tileNo s.modNo) then (re.1, { re.2 with transit := on }) else re }

/-- Circuits that start on some tiles of a launch sleep until it is resumed. -/
def sleepFrom (lid : BitVec 29) (tiles : List Nat) (s : State) : State :=
  { s with circuits := s.circuits.map fun kc =>
      if kc.2.ofContext && tiles.contains kc.2.src && !kc.2.asleep then (kc.1, { kc.2 with asleep := true, asleepIn := lid }) else kc }

/-- The circuit sleeps in a launch, or is parked for it. -/
def Circuit.sleepsIn (c : Circuit) (lid : BitVec 29) : Bool := c.asleep && c.asleepIn == lid
def Circuit.isParkedFor (c : Circuit) (lid : BitVec 29) : Bool := c.parked && c.parkedFor == lid
/-- The circuits that a saved launch left behind: those that start in it, and those parked for it. -/
def sleepingCircuits (s : State) (lid : BitVec 29) : List Nat :=
  (s.circuits.filter fun kc => kc.2.sleepsIn lid || kc.2.isParkedFor lid).map (·.1)

/-! ### Re-pointing (R171) -/

/-- Where the tiles of a launch have moved. -/
structure Move where
  lid : BitVec 29
  old : List Nat
  new : List Nat

def Move.tile (m : Move) (t : Nat) : Nat :=
  match m.old.findIdx? (· == t) with | some i => m.new.getD i t | none => t

/-- A circuit's ends after the move. -/
def Move.src (m : Move) (c : Circuit) : Nat := if c.sleepsIn m.lid then m.tile c.src else c.src
def Move.dst (m : Move) (c : Circuit) : Nat := if c.isParkedFor m.lid then m.tile c.dst else c.dst

/-- The module of a tile number (assumption 7). -/
def State.tileModule (s : State) (t : Nat) : Nat := if t < tileCount then s.modNo.toNat else t / tileCount - 1

/-- One circuit at its new place, under a number of its new source die, with all its base slots; or nothing. It stays
parked or asleep for the sake of another launch. -/
def replant (m : Move) (key : Nat) (c : Circuit) (s : State) : Option (State × Nat) :=
  let src := m.src c
  let dst := m.dst c
  let n := c.base.length
  let r : JoinReq :=
    { tile := src, slot := c.sslot, run := 0, tenant := c.tenant, op := 0, chan := c.kind == .channel, cid := 0, slots := n,
      dst := dst, dslot := c.dslot, dmod := s.tileModule dst, block := 0 }
  match requestPath s r with
  | .error _ => none
  | .ok (fwd, rev) => do
    guard (!overQuota s c.tenant fwd n)
    let cid ← if dieOf src = dieOf c.src then some (key % 4096) else freeCid s (dieOf src)
    let bs ← takeBases s fwd rev n
    let key' := circuitKey (dieOf src) cid
    let c' := { c with src := src, dst := dst, base := bs, fwd := fwd, rev := rev,
                       parked := c.parked && !c.isParkedFor m.lid, asleep := c.asleep && !c.sleepsIn m.lid }
    let s1 := (s.writeEntries (circuitEntries c' cid bs)).setCircuit key' c'
    some (if c'.parked then setPark true key' s1 else s1, key')

/-- The bay that a circuit cannot be planted for: where the end of the launch comes to lie. -/
def Move.blame (m : Move) (c : Circuit) : Nat := bayOf (if c.sleepsIn m.lid then m.src c else m.dst c)

/-- Plant circuits one after another; the new numbers go beside the old. Where one cannot be planted, its bay is named. -/
def replantAll (m : Move) : List (Nat × Circuit) → State → Except Nat (State × List (Nat × Nat))
  | [], s => .ok (s, [])
  | (key, c) :: r, s =>
    match replant m key c s with
    | none => .error (m.blame c)
    | some x => match replantAll m r x.1 with
      | .error b => .error b
      | .ok y => .ok (y.1, (key, x.2) :: y.2)

/-- Circuit numbers after the move. -/
def rekey (ks : List (Nat × Nat)) (key : Nat) : Nat := match ks.find? (·.1 == key) with | some p => p.2 | none => key
def rekeyEnd (ks : List (Nat × Nat)) : ChanEnd → ChanEnd
  | .circuit die cid => let k := rekey ks (circuitKey die cid); .circuit (k / 4096) (k % 4096)
  | e => e
def rekeyWord (ks : List (Nat × Nat)) : WordTo → WordTo
  | .circuit die cid => let k := rekey ks (circuitKey die cid); .circuit (k / 4096) (k % 4096)
  | e => e
def rekeyChan (ks : List (Nat × Nat)) (c : Channel) : Channel := ⟨c.w.map (rekeyEnd ks), c.r.map (rekeyEnd ks)⟩
/-- A request held for a circuit goes where the circuit now ends. -/
def rekeyReq (s : State) (ks : List (Nat × Nat)) (r : Req) : Req :=
  match r.route with
  | .tile die cid _ slot => match ks.find? (·.1 == circuitKey die cid) with
    | some p => { r with route := .tile (p.2 / 4096) (p.2 % 4096) (s.circuit p.2).dst slot }
    | none => r
  | _ => r
def rekeySlot (s : State) (ks : List (Nat × Nat)) (sl : Slot) : Slot :=
  { sl with ch := sl.ch.map (rekeyChan ks), niq := sl.niq.map (rekeyReq s ks) }

/-- Rank entries that name a moved thread name its new place, out of transit. -/
def moveRank (s : State) (m : Move) (e : RankEntry) : RankEntry :=
  let t := e.tileNo s.modNo
  if e.valid ∧ m.old.contains t then
    let u := m.tile t
    { e with transit := false, die := BitVec.ofNat 4 (dieOf u), x := BitVec.ofNat 8 (tileX u), y := BitVec.ofNat 8 (tileY u) }
  else e

/-- Re-point every circuit with an end in the launch, and the ranks that name its threads; or the bay where a circuit
cannot have all its base slots. -/
def repoint (m : Move) (s : State) : Except Nat (State × List (Nat × Nat)) :=
  let keys := sleepingCircuits s m.lid
  match replantAll m (keys.map fun k => (k, s.circuit k)) (keys.foldl (fun s k => uproot k s) s) with
  | .error b => .error b
  | .ok (s1, ks) =>
    let s2 := s1.mapTiles fun tl =>
      { tl with slots := tl.slots.map (rekeySlot s1 ks), ranks := tl.ranks.map fun re => (re.1, moveRank s1 m re.2) }
    .ok ({ s2 with words := s2.words.map fun w => { w with dst := rekeyWord ks w.dst },
                   credits := s2.credits.map (rekeyWord ks) }, ks)

/-! ### Combining circuits (R295) -/

/-- The routers of a chain from one tile to the next, the first left out. -/
def chainRouters (s : State) : List Nat → Except PathStop (List Nat)
  | t :: u :: r => do
    let a ← tilePath s 1 t u
    let b ← chainRouters s (u :: r)
    .ok (a ++ b)
  | _ => .ok []

/-- The combining circuit of one scope instance: one base slot, forward along its chain to the root, and the return path. A
scope on one tile needs none. -/
def plantChain (tenant : Nat) (tiles : List Nat) (s : State) : Option State :=
  match tiles with
  | t :: u :: r =>
    match chainRouters s tiles, freeCid s (dieOf t) with
    | .ok rs, some cid => do
      let root := (u :: r).getLastD u
      let fwd := pathHops (s.router t) rs
      let rev := pathHops (s.router root) (((s.router t :: rs).reverse).drop 1)
      let bs ← takeBases s fwd rev 1
      let c : Circuit :=
        { kind := .combining, tenant := tenant, src := t, sslot := 0, dst := root, dslot := 0, base := bs, parked := false,
          asleep := false, buf := [], credits := 0, fwd := fwd, rev := rev }
      some ((s.writeEntries (circuitEntries c cid bs)).setCircuit (circuitKey (dieOf t) cid) c)
    | _, _ => none
  | _ => some s

/-- The scope instances of a level, by their paths. -/
def levelPaths (ths : List Thread) (k : Nat) : List (List Nat) := (ths.map fun th => th.path.take (k + 1)).eraseDups

/-- A level's circuits, for every instance of it. -/
def plantLevel (tenant : Nat) (ls : List Level) (ths : List Thread) (k : Nat) (s : State) : Option State :=
  (levelPaths ths k).foldlM (fun s path =>
    plantChain tenant (chainTiles ((ths.filter (·.inScope path)).map fun th => (radix ls th.path, th))) s) s

/-- The levels of some that get their circuits, from the deepest upward. -/
def plantCombs (tenant : Nat) (ls : List Level) (ths : List Thread) : List (BitVec 4) → State → State × List (BitVec 4)
  | [], s => (s, [])
  | k :: r, s =>
    match plantLevel tenant ls ths k.toNat s with
    | some s1 => let x := plantCombs tenant ls ths r s1; (x.1, k :: x.2)
    | none => plantCombs tenant ls ths r s

/-- The granary and combining circuits that start on some tiles go with their launch. -/
def uprootOwn (tiles : List Nat) (s : State) : State :=
  ((s.circuits.filter fun kc => (kc.2.kind == .granary || kc.2.kind == .combining) && tiles.contains kc.2.src).map (·.1)).foldl
    (fun s key => uproot key s) s

end Sys2Proof.Machine
end

