-- ==== Sys2Proof/Machine/Grant.lean ====
section
/-! DEFINITION. What the granger does to records, bays and tiles: ending a launch (R339), vacating its bays, starting
a save (R343), choosing bays (R342, R358) and loading a placement (R131). -/

namespace Sys2Proof.Machine

/-! ### Records -/

/-- The record with a launch id changes. -/
def State.modLaunch (s : State) (lid : BitVec 29) (f : Launch → Launch) : State :=
  { s with launches := s.launches.map fun l => if l.lid = lid then f l else l }
def State.dropLaunch (s : State) (lid : BitVec 29) : State := { s with launches := s.launches.filter (·.lid ≠ lid) }

/-- Write into a DONE signal as the record's tenant; 0 names no signal (R335, R338). `q` is the queue whose barrier
the write holds while it is parked. -/
def storeDone (q : Option Nat) (tenant done : Nat) (val : Option DWord) (s : State) : State :=
  if done = 0 then s else tryOwed { q := q, tenant := tenant, va := done, val := val, park := none } s

/-- The barrier queue of a record. -/
def Launch.holdsQueue (l : Launch) : Option Nat := if recBarrier l.dw then some l.q else none

/-- A launch ends FAULTED: −(code) goes into DONE, and FAULTN rises (R333, R339, R350). -/
def faultRecord (l : Launch) (code : Nat) (s : State) : State :=
  storeDone l.holdsQueue l.tenant (recDone l.dw) (some (BitVec.ofInt 64 (-(code : Int)))) ((s.dropLaunch l.lid).hubMeter l.tenant 13 1)

/-! ### Local counts (R351) -/

/-- A tile's local counts enter the counters of the tenant whose launch its bay holds (R143, R351). -/
def flushCounts (t : Nat) (s : State) : State :=
  let tl := s.getTile t
  let s1 := match (match tl.launch with | some l => some l.tenant | none => s.bayTenant (bayOf t)) with
    | some tenant => tl.counts.foldl (fun (s : State) (kc : Nat × Nat) => s.hubMeter tenant kc.1 kc.2) s
    | none => s
  s1.modTile t fun tl => { tl with counts := [] }

/-! ### Vacating bays -/

/-- What leaves with a launch counts for its tenant: message checks that no context took (R330), and overflow
records left in the ring (R415). -/
def countLeft (tl : Tile) : Tile :=
  let left := (tl.slots.toList.map fun sl => sl.merr.length).foldl (· + ·) 0
  let recs := (tl.ring.toList.filter (·.valid)).length
  (tl.meter 9 left).meter 10 recs

/-- A slot with nothing of a launch in it. -/
def Slot.vacant (sl : Slot) : Slot :=
  { Slot.reset with sup := sl.sup, nextSeq := sl.nextSeq, firstSeq := sl.nextSeq, run := sl.run + 1 }

/-- The tile after its launch has left. Its stook's window goes on (R137). -/
def Tile.vacated (tl : Tile) : Tile :=
  { tl with
    slots := tl.slots.map Slot.vacant
    plb := Vector.replicate 16 Plb.reset
    ring := tl.ring.map fun r => { r with valid := false }
    hold := Vector.replicate 4 false
    owner := none, rel := false, planeQ := [], planeRun := [], copyQ := [], copyRun := none, launch := none }

/-- A launch that waits for the bay, being placed there, takes it. -/
def claimant (s : State) (bay : Nat) : Option (BitVec 29) :=
  (s.launches.find? fun l => l.st == .placing && l.bays.contains bay).map (·.lid)
/-- The bay is free of its launch, its memory circuit with it (R216). -/
def freeBay (s : State) (bay : Nat) : State :=
  (uprootMemory s bay).modBay bay fun b => { b with launch := claimant s bay }

/-- The contexts' circuits with an end in one of the bays; those of a pre-empted launch are not the bays' any more. -/
def circuitsAt (s : State) (bays : List Nat) : List Nat :=
  (s.circuits.filter fun kc => kc.2.ofContext && ((bays.contains (bayOf kc.2.src) && !kc.2.asleep)
    || (bays.contains (bayOf kc.2.dst) && !kc.2.parked))).map (·.1)

/-- Requests of the engines, the hub and the joiners that belong to a launch's tiles are gone. -/
def dropWork (lid : BitVec 29) (tiles : List Nat) (s : State) : State :=
  { clearLinks tiles.contains s with
    gran := s.gran.filter fun g => !tiles.contains g.tile
    streams := (s.streams.filter fun st => !tiles.contains st.tile).map fun st =>
      if tiles.contains st.offTile then { st with noticed := true } else st
    subs := s.subs.filter fun u => !tiles.contains u.tile
    metr := s.metr.filter fun m => !tiles.contains m.tile
    episodes := s.episodes.filter (·.lid ≠ lid)
    waves := s.waves.filter (·.lid ≠ lid)
    dies := s.dies.map fun d => { d with work := d.work.filter fun w => match w with
      | .own r => !tiles.contains r.tile
      | .far _ => true } }

/-- The tiles of some bays that hold more than the reset state. -/
def baysTiles (s : State) (bays : List Nat) : List Nat := bays.flatMap s.bayTiles

/-- A launch leaves its bays: the counts of all their tiles are drained, its tiles emptied, its circuits torn down. -/
def leaveBays (l : Launch) (s : State) : State :=
  let s1 := (baysTiles s l.bays).foldl (fun s t => flushCounts t s) (l.tiles.foldl (fun s t => s.modTile t countLeft) s)
  let s2 := dropWork l.lid l.tiles (l.tiles.foldl (fun s t => s.modTile t Tile.vacated) s1)
  let s3 := killCircuits (circuitsAt s2 l.bays) (uprootOwn l.tiles s2)
  l.bays.foldl freeBay (s3.dropLaunch l.lid)

/-- The bays of a rotation leave transit (R359). -/
def endRotation (bays : List Nat) (s : State) : State :=
  bays.foldl (fun s b => s.modDie (b / Config.baysPerDie) fun d =>
    d.setBayMap (b % Config.baysPerDie) { d.bayMap (b % Config.baysPerDie) with transit := false }) s

/-- Message checks that a saved launch took with it, counted when it ends before it runs again (R330). -/
def countKept (l : Launch) (s : State) : State :=
  s.hubMeter l.tenant 9 (l.kept.foldl (fun n k => n + k.merr.length) 0)

/-- End a launch that holds bays, or waits, as FAULTED. -/
def abortLaunch (l : Launch) (code : Nat) (s : State) : State :=
  let held := l.bays.filter fun b => (s.getBay b).launch == some l.lid
  let s := endRotation (l.remap.getD []) (killCircuits (sleepingCircuits s l.lid) (countKept l s))
  let s1 := if l.st = .placing ∧ l.saved.isEmpty then held.foldl freeBay (s.dropLaunch l.lid)
    else leaveBays { l with bays := held, tiles := l.tiles.filter fun t => ((s.getTile t).launch.map (·.lid)) == some l.lid } s
  faultRecord l code s1

/-! ### Starting a save (R171, R343) -/

/-- The pre-emption request to a slot (R327, R343). -/
def Slot.askStop (sl : Slot) : Slot := if sl.st = .user ∨ sl.st = .supervisor then { sl with stopReq := true } else sl

/-- Step 1 and the request of step 2 of R343. -/
def beginSave (l : Launch) (s : State) : State :=
  if l.st = .running then
    let s1 := (s.modLaunch l.lid fun l => { l with st := .saving, saved := [] }).hubMeter l.tenant 14 1
    let s2 := setTransit true l.tiles (parkInto l.lid l.tiles s1)
    l.tiles.foldl (fun s t => s.modTile t fun tl => { tl with slots := tl.slots.map Slot.askStop }) s2
  else s

/-! ### Choosing bays (R341, R342, R353, R358) -/

/-- The bay is in service (Table 25.2), as R341 counts it. -/
def bayCounted (s : State) (b : Nat) : Bool :=
  ((s.getDie (b / Config.baysPerDie)).bayMap (b % Config.baysPerDie)).insrv
/-- The bay may take a launch: it is in service, not in transit, and its die is up. -/
def bayInService (s : State) (b : Nat) : Bool :=
  let d := s.getDie (b / Config.baysPerDie)
  let m := d.bayMap (b % Config.baysPerDie)
  d.up && m.insrv && !m.transit
/-- A launch being placed waits for the bay. -/
def claimed (s : State) (b : Nat) : Bool := s.launches.any fun l => l.st == .placing && l.bays.contains b
def freeForLaunch (s : State) (b : Nat) : Bool := (s.getBay b).launch.isNone && bayInService s b && !claimed s b
/-- The bay is held by a running or saving launch of a tenant with a lower deficit, and nobody waits for it. -/
def takeable (s : State) (d : DWord) (b : Nat) : Bool :=
  bayInService s b && !claimed s b &&
    match (s.getBay b).launch with
    | some lid => (match s.findLaunch lid with
      | some l => (l.st == .running || l.st == .saving) && decide ((s.getTenant l.tenant).deficit.toInt < d.toInt)
      | none => false)
    | none => false

/-- Hundredths of a watt of Table 21.5, with the higher class of R358. -/
def energyOf (l : Launch) : Nat := [25, 40, 55, 70].getD (min 3 (recEnergy l.dw + if l.classUp then 1 else 0)) 70

/-- The admission of R358 on every die; `victims` are the launches that this boundary pre-empts. -/
def energyOk (s : State) (l : Launch) (bays : List Nat) (victims : List (BitVec 29)) : Bool :=
  (List.range 16).all fun d =>
    let on (bs : List Nat) : Nat := (bs.filter fun b => b / Config.baysPerDie == d).length
    let freed := (s.launches.filter fun v => victims.contains v.lid).foldl (fun n v => n + on v.bays * energyOf v) 0
    let p := (s.getDie d).pwr
    on bays == 0 || decide ((on bays * energyOf l : Nat) ≤ ((p.budget.toNat : Int) - p.draw.toNat) * 100 + freed)

/-- Threads that ended before a save stay ended; both lists are in ascending launch index. -/
def keepEnded (old new : List Thread) : List Thread :=
  new.zipIdx.map fun ti => { ti.1 with ended := match old[ti.2]? with | some o => o.ended | none => false }

/-- The record takes its bays: those that are free at once, the others as their launches leave them. -/
def choosePlace (l : Launch) (ths : List Thread) (s : State) : State :=
  let bays := threadBays ths
  let s1 := s.modLaunch l.lid fun l =>
    { l with st := .placing, threads := keepEnded l.threads ths, bays := bays, tiles := threadTiles ths, park := none,
             released := [], remap := none }
  bays.foldl (fun s b => s.modBay b fun x => if x.launch.isNone then { x with launch := some l.lid } else x) s1
/-- The record goes to PLACING with no bays: its placement raises its launch fault. -/
def placeToFault (l : Launch) (s : State) : State :=
  s.modLaunch l.lid fun l => { l with st := .placing, bays := [], tiles := [], threads := [] }

/-- How reading a launch's tree ends, as its selection needs it. -/
inductive TreeEnd where
  | levels (ls : List Level)
  | bad
  | park (level va : Nat)
  | busy

/-- The levels of a launch's tree where its descriptor can be read and passes its checks. -/
def launchLevels (s : State) (l : Launch) : TreeEnd :=
  if l.st = .preempted then .levels l.levels
  else match (portReadSpan hubPort l.tenant 9 (recTree l.dw) s).2 with
    | .ok bs => (match treeCheck bs with | .ok ls => .levels ls | .error _ => .bad)
    | .error (.absent k, va) => .park k va
    | .error (.busy, _) => .busy
    | .error (.err _, _) => .bad

/-- A launch's read of its signals, image, tree or arguments waits for a page, or its page fault was dismissed. -/
def Launch.waits (l : Launch) : Bool := match l.park with | some p => !p.retry | none => false
def Launch.dismissed (l : Launch) : Bool := match l.park with | some p => p.isDismissed | none => false
/-- Park a launch's transfer on an absent page: the record's DOM is 0. -/
def parkLaunch (l : Launch) (die k va : Nat) (kind : BitVec 4) (s : State) : State :=
  (s.modLaunch l.lid fun l => { l with park := some (parkOf s va k 0 kind) }).addFault (pageRecord s die va k l.tenant 0 kind)

/-- The circuits that the granger sets up at a resumption find room: memory circuits for the bays, and the combining circuits
that the launch had (R171, R216, R295). The bay for which none is to be had, otherwise; for a chain, the last of the launch's
(assumption 96). -/
def plantsFit (l : Launch) (ls : List Level) (ths : List Thread) (s : State) : Except Nat Unit :=
  let r := (threadBays ths).foldl (fun (r : State × Option Nat) b =>
    match r.2 with
    | some _ => r
    | none => if (s.getBay b).memCid.isNone && (freeCid r.1 (laneDie b)).isNone then (r.1, some b)
      else (if (s.getBay b).memCid.isNone then plantMemory l.tenant b r.1 else r.1, none)) (s, none)
  match r.2 with
  | some b => .error b
  | none => if (plantCombs l.tenant ls ths l.combs r.1).2 = l.combs then .ok () else .error ((threadBays ths).getLastD 0)

/-- Re-point a launch's circuits, with room for those that the granger sets up. -/
def repointFit (l : Launch) (ls : List Level) (ths : List Thread) (s : State) : Except Nat (State × List (Nat × Nat)) :=
  match repoint ⟨l.lid, sortAsc l.saved, threadTiles ths⟩ s with
  | .error b => .error b
  | .ok r => match plantsFit l ls ths r.1 with
    | .error b => .error b
    | .ok () => .ok r

/-- Bind a PREEMPTED launch: where its circuits cannot be re-pointed, the bay they would need is no candidate (R171). -/
def bindResumed (s : State) (l : Launch) (ls : List Level) : Nat → List Nat → Option (List Thread)
  | 0, _ => none
  | fuel + 1, bays =>
    match s.bindOn l ls bays with
    | none => none
    | some ths => match repointFit l ls ths s with
      | .ok _ => some ths
      | .error b => bindResumed s l ls fuel (bays.filter (· ≠ b))
/-- Bind a launch that is offered. -/
def bindOffer (s : State) (l : Launch) (ls : List Level) (bays : List Nat) : Option (List Thread) :=
  if l.st = .preempted then bindResumed s l ls (bays.length + 1) bays else s.bindOn l ls bays

/-- The launches that hold some bays. -/
def holders (s : State) (bays : List Nat) : List Launch :=
  s.launches.filter fun v => bays.any fun b => (s.getBay b).launch == some v.lid

/-- The tenant's budget no longer covers the record's start (Table 20.2). -/
def budgetShort (s : State) (l : Launch) : Bool :=
  let b := (s.getTenant l.tenant).budget
  decide (b ≤ 0) || (l.st == .ready && decide (b < (recBudget l.dw * s.slice : Nat)))

/-- Select a launch whose tree has these levels, if a pass of R342 binds it. A READY launch that its partition could hold,
but not the bays available now, stays READY: the available units of R123 are taken as the admitted partition's (assumption
14). The victims are the launches that this boundary pre-empts (R358). -/
def select (boundary : Bool) (l : Launch) (ls : List Level) (s : State) (victims : List (BitVec 29)) : State × List (BitVec 29) :=
  let part := admitted s l
  if (s.bindOn l ls part).isNone then (if l.st = .ready then placeToFault l s else s, victims)
  else match bindOffer s l ls (part.filter (freeForLaunch s)) with
  | some ths => (if energyOk s l (threadBays ths) victims then choosePlace l ths s else s, victims)
  | none =>
    let d := (s.getTenant l.tenant).deficit
    if !boundary then (s, victims)
    else match bindOffer s l ls (part.filter fun b => freeForLaunch s b || takeable s d b) with
    | none => (s, victims)
    | some ths =>
      let vs := (holders s (threadBays ths)).filter (·.st == .running)
      let all := victims ++ vs.map (·.lid)
      if energyOk s l (threadBays ths) all then (vs.foldl (fun s v => beginSave v s) (choosePlace l ths s), all)
      else (s, victims)

/-- Offer a READY or PREEMPTED launch for placement (R342). The victims so far are carried along. -/
def offer (boundary : Bool) (acc : State × List (BitVec 29)) (lid : BitVec 29) : State × List (BitVec 29) :=
  let s := acc.1
  match s.findLaunch lid with
  | none => acc
  | some l =>
    if l.waits then acc
    else if budgetShort s l then (if l.st = .ready then faultRecord l 0x45 s else s, acc.2)
    else if l.st = .ready ∧ (l.dismissed ∨ recMalformed l.dw) then (placeToFault l s, acc.2)
    else match launchLevels s l with
    | .bad => (placeToFault l s, acc.2)
    | .park k va => (parkLaunch l 0 k va 1 s, acc.2)
    | .busy => acc
    | .levels ls => select boundary l ls (s.modLaunch lid fun l => { l with park := none }) acc.2

/-! ### Loading a placement (R119, R128, R131) -/

/-- How reading the image, the tree or the arguments ends. -/
inductive Loaded where
  | ok (hdr : List Byte) (code : List Byte) (levels : List Level) (args : List Byte)
  | fault (code : Nat)
  | park (level va : Nat)
  | busy

/-- Read a launch's inputs and make the checks of Tables 19.5 and 6.3. -/
def loadInputs (l : Launch) (s : State) : Loaded :=
  let read (n va : Nat) := (portReadSpan hubPort l.tenant n va s).2
  if recMalformed l.dw then .fault 0x44
  else match read 12 (recCode l.dw) with
  | .error (.absent k, va) => .park k va
  | .error (.busy, _) => .busy
  | .error (.err _, _) => .fault 0x44
  | .ok hdr =>
    if !hdrOk hdr (recH l.dw) then .fault 0x44
    else match read ((hdrWords hdr + 1) / 2) (recCode l.dw + 0x60) with
    | .error (.absent k, va) => .park k va
    | .error (.busy, _) => .busy
    | .error (.err _, _) => .fault 0x44
    | .ok code => match read 9 (recTree l.dw) with
      | .error (.absent k, va) => .park k va
      | .error (.busy, _) => .busy
      | .error (.err _, _) => .fault 0x44
      | .ok tree => match (if recArgs l.dw = 0 then .ok (List.replicate 32 0) else read 4 (recArgs l.dw)) with
        | .error (.absent k, va) => .park k va
        | .error (.busy, _) => .busy
        | .error (.err _, _) => .fault 0x44
        | .ok args => match treeCheck tree with
          | .error c => .fault c
          | .ok ls => .ok hdr code ls args

/-- The device runtime in segment 3 (R24), once the boot has verified it (R405, step 5). -/
def loadRuntime (s : State) (bay : Nat) (m : Memory) : Memory :=
  match s.flash[3]? with
  | some f => if s.boot.stage = 8 then writeBytes m (loftBase bay + 49152) ((f.image ++ List.replicate 16384 0).take 16384) else m
  | none => m

/-- The code of an image in a bay's loft: what lies beyond a segment's length reads zero (R79). -/
def loadLoft (hdr code : List Byte) (bay : Nat) (s : State) : State :=
  let seg (i start : Nat) (m : Memory) : Memory :=
    writeBytes m (loftBase bay + 16384 * i)
      (((code.drop (4 * start)).take (4 * hdrLen hdr i) ++ List.replicate 16384 0).take 16384)
  let m := seg 2 (hdrLen hdr 0 + hdrLen hdr 1) (seg 1 (hdrLen hdr 0) (seg 0 0 s.mem))
  let s1 := { s with mem := loadRuntime s bay m }
  (s1.bayTiles bay).foldl (fun s t => s.modTile t fun tl => { tl with slots := tl.slots.map fun sl => { sl with lines := [] } }) s1

/-- Insert one bay into the runs of a permission table: the last run grows or a new one starts. -/
def addRun (m : BitVec 12) (ps : List Perm) (b : Nat) : List Perm :=
  let die := BitVec.ofNat 4 (b / Config.baysPerDie)
  let n := b % Config.baysPerDie
  match ps.getLast? with
  | some p =>
    if p.die = die ∧ p.module = m ∧ p.last.toNat + 1 = n then ps.dropLast ++ [{ p with last := BitVec.ofNat 10 n }]
    else ps ++ [⟨true, m, die, BitVec.ofNat 10 n, BitVec.ofNat 10 n⟩]
  | none => [⟨true, m, die, BitVec.ofNat 10 n, BitVec.ofNat 10 n⟩]
/-- The modules joined to a tenant's launches: this one where there is no fleet. -/
def State.modules (s : State) (tenant : Nat) : List (BitVec 12) :=
  let l := (s.getTenant tenant).fleet
  if l.isEmpty then [s.modNo] else l.map (BitVec.ofNat 12)
/-- The permission table of R170: the partition's runs on every joined module, the unused entries invalid. A tenant's
partition on another module is taken as the same bays (assumption 98). -/
def permTable (s : State) (tenant : Nat) : List Perm :=
  ((s.modules tenant).flatMap fun m => (s.getTenant tenant).part.foldl (addRun m) []).take 32

/-- The bay row and the column class of a physical bay (Table 21.1, R394): the spares lie in a row of their own. -/
def physRow (p : Nat) : Nat := if p < Config.baysPerDie then p / 32 else 20
def physClass (p : Nat) : Nat := columnClass (if p < Config.baysPerDie then p % 32 else spareColumn p)
/-- The logical bay that a physical bay stands for. -/
def Die.logicalOf (d : Die) (p : Nat) : Option Nat :=
  (List.range Config.baysPerDie).find? fun b => (d.bayMap b).phys.toNat == p

/-- The physical bay of a bay's row and column class that reads the lowest temperature, the lower number on a tie. -/
def coolest (s : State) (die own : Nat) : Nat :=
  (List.range 644).foldl (fun best p =>
    if physRow p = physRow own ∧ physClass p = physClass own ∧ Config.bayTemp s.free die p < Config.bayTemp s.free die best
    then p else best) ((List.range 644).find? (fun p => physRow p == physRow own && physClass p == physClass own) |>.getD own)
/-- A tile of the bay has asked for its retirement (R394). -/
def retireAsked (s : State) (bay : Nat) : Bool := (s.bayTiles bay).any fun t => (s.getTile t).retire
/-- The physical bay is free: no launch holds the logical bay that it stands for, and that bay is not in transit. -/
def physFree (s : State) (die p : Nat) : Bool :=
  match (s.getDie die).logicalOf p with
  | some b => (s.getBay (Config.baysPerDie * die + b)).launch.isNone && !((s.getDie die).bayMap b).transit
      && !retireAsked s (Config.baysPerDie * die + b)
  | none => true
/-- The remap that R359 permits: to the coolest physical bay of the same row and class, provided that it is free, not
retired and at least two degrees cooler. The logical bay of that place takes the other; both are in transit. %CYC goes on
with the logical bay (assumption 11). -/
def rotateBay (s : State) (bay : Nat) : State :=
  let die := bay / Config.baysPerDie
  let b := bay % Config.baysPerDie
  let d := s.getDie die
  let own := (d.bayMap b).phys.toNat
  let p := coolest s die own
  let s1 := { s with free := s.free + 1 }
  if d.pwr.rot && Config.mayRotate s.free && p != own && physFree s die p && !d.retired.contains p && !retireAsked s bay
      && decide (Config.bayTemp s.free die p + 2 ≤ Config.bayTemp s.free die own) then
    s1.setDie die (match d.logicalOf p with
      | some x => (d.setBayMap b { d.bayMap b with phys := BitVec.ofNat 10 p, transit := true }).setBayMap x
          { d.bayMap x with phys := BitVec.ofNat 10 own, transit := true }
      | none => d.setBayMap b { d.bayMap b with phys := BitVec.ofNat 10 p, transit := true })
  else s1
/-- The bays of the dies that a placement touches that are in transit in one state and were not in another. -/
def newTransit (bays : List Nat) (s s' : State) : List Nat :=
  (sortAsc (bays.map (· / Config.baysPerDie))).flatMap fun die =>
    ((List.range Config.baysPerDie).filter fun b => ((s'.getDie die).bayMap b).transit && !((s.getDie die).bayMap b).transit).map
      (Config.baysPerDie * die + ·)
/-- A placement's rotation, ahead of step 1 of R131 (R359): the decision and the remap, if what follows still fits, and then
the end of the transit. Nothing where it is over. -/
def rotateStep (l : Launch) (fits : State → Bool) (s : State) : Option State :=
  match l.remap with
  | none =>
    let s1 := l.bays.foldl rotateBay s
    let moved := newTransit l.bays s s1
    if moved.isEmpty || !fits s1 then none else some (s1.modLaunch l.lid fun x => { x with remap := some moved })
  | some (b :: r) => some ((endRotation (b :: r) s).modLaunch l.lid fun x => { x with remap := some [] })
  | some [] => none

/-- A bay's own part of a placement: its tables, its counters, its memory circuit (R142, R170, R216). -/
def loadBay (l : Launch) (s : State) (bay : Nat) : State :=
  let s1 := s.modBay bay fun b =>
    { b with launch := some l.lid, perms := permTable s l.tenant, imb := Vector.replicate 16 0, fill := Vector.replicate 16 0 }
  if (s1.getBay bay).memCid.isSome then s1 else plantMemory l.tenant bay s1

/-- Complete the sweep for the tile's next value and allocate it (R225). -/
def Tile.allocateSwept (tl : Tile) : Tile × BitVec 12 :=
  let g := tl.nextValue
  let tl1 := { tl with tags := tl.tags.filter fun kt => kt.2 ≠ g, sweepVal := g, sweepPos := 1024 }
  tl1.allocate

/-- Tree coordinates as the 16 registers. -/
def coordVec (path : List Nat) : Vector (BitVec 16) 16 := Vector.ofFn fun i => BitVec.ofNat 16 (path.getD i.val 0)

/-- The tile has a granary circuit: the die's granary is in service (R408), and the tenant holds bins on it (R294). -/
def hasBins (s : State) (t tenant : Nat) : Bool :=
  s.boot.gran.getLsbD (dieOf t / 2) && (List.range 4096).any fun b => (s.bin (dieOf t / 2) b).tenant.toNat == tenant

/-- What a tile holds of a launch. Its domain is the record's: Table 20.1 names none, and the tenant's setting for the queue
stands for it (assumption 8). -/
def tileLaunchOf (l : Launch) (hdr : List Byte) (ls : List Level) (combs : List (BitVec 4)) (t : Nat) (gen : BitVec 12) (base : Nat)
    (s : State) : TileLaunch :=
  let tn := s.getTenant l.tenant
  let fleet := decide (1 < tn.fleet.length)
  { lid := l.lid, tenant := l.tenant, h := recH l.dw, hmask := hdrMask hdr, entry := BitVec.ofNat 14 (hdrEntry hdr),
    levels := ls, gen := gen, gpol := recGpol l.dw, dom := l.dom, bal := recBal l.dw,
    planes := wiredLevels ls fleet 3 5, combs := combs, fleet := fleet, base := base,
    granary := (gateCircuit s .granary t).isSome }

/-- The launch index of the thread in slot 0 of a tile. -/
def slotZeroIndex (ls : List Level) (ths : List Thread) (t : Nat) : Nat :=
  match ths.find? fun th => th.tile == t && th.slot == 0 with | some th => radix ls th.path | none => 0

/-- Load a tile's tables for a launch (R131, R163, R201, R225, R354, R371): the rights of its domain in the reeve's order
(assumption 97); its slots are filled at the release. -/
def loadTile (l : Launch) (hdr : List Byte) (ls : List Level) (combs : List (BitVec 4)) (ths : List Thread) (s : State) (t : Nat) : State :=
  let r := (s.getTile t).vacated.allocateSwept
  let base := windowBase (fanProduct ls) (slotZeroIndex ls ths t)
  let tn := s.getTenant l.tenant
  let tl1 : Tile := { r.1 with
    slots := Vector.ofFn fun k =>
      let sl := r.1.slots[k]
      match ths.find? fun th => th.tile == t && th.slot == k.val with
      | some th => { sl with gpol := recGpol l.dw, tc := coordVec th.path, gen := r.2 }
      | none => { sl with gpol := recGpol l.dw, gen := if 8 - (recH l.dw).toNat ≤ k.val then r.2 else 0xFFF }
    plb := Vector.ofFn fun i => (tn.rights.filter (·.dom == l.dom)).getD i.val Plb.reset
    ranks := rankTable s l ls ths base
    tagtab := hdrTags hdr, last := 7, ma := Vector.replicate 8 (Vector.replicate 8 0), masat := false
    launch := some (tileLaunchOf l hdr ls combs t r.2 base s) }
  s.setTile t (fullPermits (s.getBay (bayOf t)) tl1)

/-- The argument block in granule 1,023 of a tile (R128). -/
def loadArgs (args : List Byte) (s : State) (t : Nat) : State :=
  let tl := s.getTile t
  let g := match tl.launch with | some l => l.gen | none => tl.cur
  { s with mem := writeBytes s.mem (spadBase t + 0x7FE0) args }.setTile t
    { tl.setTag 1023 g with bad := tl.bad.filter fun d => decide (d / 4 ≠ 1023) }

/-- The tile cycles and the filler cycles of some bays' tiles, as R358 compares them. -/
def bayCycles (s : State) (bays : List Nat) : Nat := bays.foldl (fun n b => n + 64 * (s.getBay b).cyc.toNat) 0
def bayFill (s : State) (bays : List Nat) : Nat :=
  bays.foldl (fun n b => n + (s.getBay b).fill.toList.foldl (fun n x => n + x.toNat) 0) 0

/-- The circuits that the granger sets up on a launch's tiles: granary circuits where the tenant holds bins, and the
combining circuits of its levels (R294, R295). -/
def plantOwn (l : Launch) (ls : List Level) (ths : List Thread) (s : State) : State × List (BitVec 4) :=
  let s1 := (threadTiles ths).foldl (fun s t => if hasBins s t l.tenant then plantGranary l.tenant t s else s) s
  plantCombs l.tenant ls ths (wiredLevels ls (decide (1 < (s.getTenant l.tenant).fleet.length)) 3 6) s1

/-- The bays of a launch are loaded and its circuits set up; the levels that have combining circuits. -/
def loadBays (l : Launch) (hdr code : List Byte) (ls : List Level) (ths : List Thread) (s : State) : State × List (BitVec 4) :=
  plantOwn l ls ths (l.bays.foldl (fun s b => loadLoft hdr code b (loadBay l s b)) s)

/-- Step 1 of R131 on every bay and tile, and RUNNING. -/
def installLaunch (l : Launch) (hdr code : List Byte) (ls : List Level) (ths : List Thread) (args : List Byte) (s : State) : State :=
  let b := loadBays l hdr code ls ths s
  let tiles := threadTiles ths
  let s3 := tiles.foldl (loadTile l hdr ls b.2 ths) b.1
  let s4 := tiles.foldl (loadArgs args) s3
  let fleet := decide (1 < (s.getTenant l.tenant).fleet.length)
  s4.modLaunch l.lid fun l =>
    { l with st := .running, levels := ls, threads := ths, tiles := tiles, released := [], hdr := hdr ++ code, park := none,
             planes := wiredLevels ls fleet 3 5, combs := b.2, saved := [], kept := [],
             fillAt := 0, cycAt := bayCycles s4 l.bays }

end Sys2Proof.Machine
end

