-- ==== Sys2Proof/Machine/Hub.lean ====
section
/-! DEFINITION. The hub: submissions (R336, R367), signals (R338), slice boundaries (R341, R342), placement and release
(R131), the end of launches (R339), and metering (R350, R351, R369). -/

namespace Sys2Proof.Machine

/-! ### Submissions -/

def queueCapacity : Nat := 256
def queueLength (s : State) (q : Nat) : Nat := (s.launches.filter (·.q == q)).length

/-- The domain of a record of a queue, as the reeve sets it for the tenant (R6): Table 20.1 names none (assumption 8). -/
def recordDom (s : State) (tenant q : Nat) : BitVec 16 :=
  (SMap.get none (s.getTenant tenant).doms q).getD (s.getTenant tenant).dom

/-- A launch record as it is accepted. -/
def newLaunch (lid : BitVec 29) (q vf : Nat) (dom : BitVec 16) (dw : Vector DWord 8) : Launch :=
  { lid := lid, q := q, vf := vf, tenant := recTenant dw, dw := dw, st := .queued, levels := [], threads := [], bays := [],
    tiles := [], released := [], saved := [], park := none, zeros := 0, fillAt := 0, cycAt := 0, classUp := false,
    planes := [], combs := [], hdr := [], kept := [], dom := dom, remap := none }

/-- SUBREF of a queue's tenant. -/
def countRefused (q : Nat) (s : State) : State :=
  if (s.queueOf q).1 < 512 then s.hubMeter (s.queueOf q).1 11 1 else s

/-- One record arrives at a queue (R336): it is accepted under a launch id, or refused with −1 in its DONE. -/
def submit (q vf : Nat) (dw : Vector DWord 8) (s : State) : State × Option (BitVec 29) :=
  let b := s.queueOf q
  if recTenant dw ≠ b.1 ∨ queueCapacity ≤ queueLength s q then
    (storeDone none (recTenant dw) (recDone dw) (some (BitVec.allOnes 64)) (countRefused q s), none)
  else
    let lid : BitVec 29 := BitVec.ofNat 9 q ++ b.2
    ({ s with queues := SMap.set queueNone s.queues q (b.1, b.2 + 1), newLids := s.newLids ++ [lid]
              launches := s.launches ++ [newLaunch lid q vf (recordDom s b.1 q) dw] }, some lid)

/-- The release conditions of a submission that `LAUNCH` has sent (R241, R367). -/
def submissionReady (s : State) (u : HubSub) : Bool :=
  let sl := s.slotAt u.tile u.slot
  sl.run != u.run || sl.accs.all fun a =>
    decide (u.seq ≤ a.seq) || decide (a.seq < sl.firstSeq) || (!a.read && (!a.write || a.mod))

/-- A submission through a window (R396), or the one that a `LAUNCH` has sent (R367). Before the boot's last step a
window has no queue, and what is written to it is discarded (R411); so is a record that meets a reset of its function in
the same hub cycle (R398). A read of a window answers zero, and the physical function shows the hub's registers (R410). -/
def submissionBody (src : SubSource) (s : State) : Option State :=
  match src with
  | .windowRead _ _ n => if !s.vfsOpen then some (answerRefused s) else some { s with out := s.out ++ [.bytes (List.replicate n 0)] }
  | .physical off n write =>
    if write then some s
    else if n ≠ 8 then some (answerRefused s)
    else match hubRegister off s with | some v => some (answerRead v s) | none => some (answerRefused s)
  | .window vf off bytes =>
    let q := (SMap.get (512, 0) s.vfs vf).1
    if !s.vfsOpen ∨ 512 ≤ (s.queueOf q).1 ∨ s.flrs.contains vf then some s
    else if bytes.length ≠ 64 ∨ off % 64 ≠ 0 then some (countRefused q s) else some (submit q vf (recordOf bytes) s).1
  | .launch n => do
    let u ← s.subs[n]?
    if !s.vfsOpen then none
    else if u.answer.isNone && s.flrs.contains u.vf then some { s with subs := s.subs.eraseIdx n }
    else if u.answer.isNone && submissionReady s u then
      let r := submit u.q u.vf u.dw s
      some { r.1 with subs := r.1.subs.set n { u with answer := some r.2 } }
    else none
/-- `SUBMISSION`. -/
def execSubmission (src : SubSource) (s : State) : Result :=
  event (match src with
    | .window vf off _ => decide (vf < 256) && decide (off < 65536)
    | .windowRead vf off _ => decide (vf < 256) && decide (off < 65536)
    | _ => true) s
    (submissionBody src)

/-- `LAUNCH_SUBMISSION_RECORD` (R367). -/
def launchRecordBody (n : Nat) (s : State) : Option State := do
  let u ← s.subs[n]?
  let a ← u.answer
  let s1 := { s with subs := s.subs.eraseIdx n }
  some (s1.complete u.tile u.slot u.run 7 (if a.isSome then 0 else 1) 0 u.block
    (match a with | some lid => lid.zeroExtend 64 | none => 0))
def execLaunchSubmissionRecord (n : Nat) (s : State) : Result := event true s (launchRecordBody n)

/-! ### Queues and signals -/

/-- A record has reached PLACING or a later state. -/
def LState.placed : LState → Bool
  | .queued | .waiting | .ready => false
  | _ => true

/-- `QUEUE_DISPATCH` (R337): records that have ended are no longer listed, but a barrier record's parked write holds on. -/
def queueDispatchBody (q : Nat) (s : State) : Option State := do
  let ls := s.launches.filter (·.q == q)
  let i ← ls.findIdx? (·.st == .queued)
  let l ← ls[i]?
  let before := ls.take i
  if before.all (fun b => b.st.placed && !recBarrier b.dw) && !s.owed.any (fun o => o.q == some q) then
    some (s.modLaunch l.lid fun l => { l with st := .waiting })
  else none
def execQueueDispatch (q : Nat) (s : State) : Result := event (decide (q < 512)) s (queueDispatchBody q)

/-- What reading one wait signal leaves. -/
inductive SigEnd where
  | zero | positive | negative | busy
  | park (level : Nat)

/-- Read a signal as the record's tenant (R338). -/
def readSignal (l : Launch) (va : Nat) (s : State) : SigEnd :=
  match (portRead s hubPort va 8 l.tenant).2 with
  | .ok bs => if dwordOf bs = 0 then .zero else if (dwordOf bs).msb then .negative else .positive
  | .error (.absent k) => .park k
  | .error .busy => .busy
  | .error (.err _) => .negative

/-- Read the signals from place `i` on that have not yet been read as zero. -/
def readSignals (l : Launch) : Nat → List Nat → State → State
  | _, [], s => s
  | i, va :: r, s =>
    if va = 0 ∨ l.zeros.getLsbD i then readSignals l (i + 1) r s
    else match readSignal l va s with
    | .zero => readSignals l (i + 1) r (s.modLaunch l.lid fun l => { l with zeros := l.zeros ||| (1#3 <<< i) })
    | .positive | .busy => readSignals l (i + 1) r s
    | .negative => faultRecord l 0x46 s
    | .park k => parkLaunch l 0 k va 1 s

/-- Every signal that the record names has been read as zero. -/
def allZero (l : Launch) : Bool := (recWaits l.dw).zipIdx.all fun vi => vi.1 == 0 || l.zeros.getLsbD vi.2

/-- `SIGNAL_READ` (R338). -/
def signalReadBody (lid : Nat) (s : State) : Option State := do
  let l ← s.findLaunch (BitVec.ofNat 29 lid)
  if l.st != .waiting || l.waits then none
  else if l.dismissed then some (faultRecord l 0x46 s)
  else
    let s1 := readSignals l 0 (recWaits l.dw) (s.modLaunch l.lid fun l => { l with park := none })
    match s1.findLaunch l.lid with
    | some x => some (if allZero x && x.park.isNone then s1.modLaunch l.lid fun l => { l with st := .ready } else s1)
    | none => some s1
def execSignalRead (lid : Nat) (s : State) : Result := event true s (signalReadBody lid)

/-! ### Slice boundaries (R341, R342) -/

/-- Stable insertion sort: `before a b` puts `a` first. -/
def insertBy {α : Type} (before : α → α → Bool) (x : α) : List α → List α
  | [] => [x]
  | y :: r => if before y x then y :: insertBy before x r else x :: y :: r
def sortBy {α : Type} (before : α → α → Bool) (l : List α) : List α := l.foldr (insertBy before) []

/-- The state makes its tenant active. -/
def LState.active : LState → Bool
  | .ready | .placing | .running | .saving | .preempted => true
  | _ => false
/-- The active set, in ascending order. -/
def activeTenants (s : State) : List Nat := sortAsc ((s.launches.filter (·.st.active)).map (·.tenant))

/-- The gains of a boundary, and the deficits of tenants outside the active set. -/
def gains (s : State) : State :=
  let act := activeTenants s
  let w := act.foldl (fun n t => n + (s.getTenant t).weight) 0
  let p := ((sortAsc (act.flatMap fun t => (s.getTenant t).part)).filter (bayCounted s)).length
  let s1 := act.foldl (fun s t =>
    let x := s.getTenant t
    s.setTenant t { x with deficit := x.deficit + BitVec.ofNat 64 (x.weight * p * s.slice / w) }) s
  (s.tenants.map (·.1)).foldl (fun s t => if act.contains t then s else s.setTenant t { s.getTenant t with deficit := 0 }) s1

/-- The energy class that a running launch's last slice leaves it with (R358). -/
def raiseClass (s : State) (l : Launch) : Launch :=
  if l.st = .running then
    let f := bayFill s l.bays
    let c := bayCycles s l.bays
    { l with classUp := decide (c - l.cycAt < 8 * (f - l.fillAt)), fillAt := f, cycAt := c }
  else l

/-- A tenant's launches in the order of R342. -/
def offerOrder (s : State) (t : Nat) : List (BitVec 29) :=
  let ls := s.launches.filter fun l => l.tenant == t && (l.st == .ready || l.st == .preempted)
  let key (l : Launch) : Nat := recPrio l.dw + if l.st = .preempted then 8 else 0
  (sortBy (fun a b => decide (key b < key a)) ls).map (·.lid)

/-- `SLICE_BOUNDARY`. -/
def sliceBoundaryBody (s : State) : Option State :=
  let s1 := { s with launches := s.launches.map (raiseClass s) }
  let s2 := gains s1
  let ts := sortBy (fun a b => decide ((s2.getTenant b).deficit.toInt < (s2.getTenant a).deficit.toInt)) (activeTenants s2)
  some ((ts.flatMap (offerOrder s2)).foldl (offer true) (s2, [])).1
def execSliceBoundary (s : State) : Result := event true s sliceBoundaryBody

/-- `BUDGET_EXHAUSTION` (R342). -/
def budgetExhaustionBody (tenant : Nat) (s : State) : Option State :=
  let ls := s.launches.filter fun l => l.tenant == tenant && l.st == .running
  if (s.getTenant tenant).budget ≤ 0 ∧ !ls.isEmpty then some (ls.foldl (fun s l => beginSave l s) s) else none
def execBudgetExhaustion (tenant : Nat) (s : State) : Result :=
  event (decide (tenant < 512)) s (budgetExhaustionBody tenant)

/-! ### Placement and release -/

/-- Every chosen bay is held. -/
def holdsBays (s : State) (l : Launch) : Bool := l.bays.all fun b => (s.getBay b).launch == some l.lid

/-- A fresh placement's turn (R119, R128, R131, R333): it runs, waits, or ends FAULTED (Table 20.2). -/
def placeFresh (l : Launch) (s : State) : Option State :=
  if l.waits || !holdsBays s l then none
  else if l.dismissed then some (abortLaunch l 0x44 s)
  else match loadInputs l s with
  | .fault c => some (abortLaunch l c s)
  | .park k va => some (parkLaunch l 0 k va 1 s)
  | .busy => none
  | .ok hdr code ls args => match s.bindOn l ls l.bays with
    | some ths => some (match rotateStep l (fun _ => true) s with
      | some s1 => s1
      | none => installLaunch l hdr code ls ths args s)
    | none => some (abortLaunch l 0x40 s)

/-- `PLACEMENT`: between boundaries a READY launch takes free bays; a launch in PLACING is loaded. -/
def placementBody (lid : Nat) (s : State) : Option State := do
  let l ← s.findLaunch (BitVec.ofNat 29 lid)
  match l.st with
  | .ready => some (offer false (s, []) l.lid).1
  | .placing => if l.saved.isEmpty then placeFresh l s else none
  | _ => none
def execPlacement (lid : Nat) (s : State) : Result := event true s (placementBody lid)

/-- A queue at its thread's start: disabled and empty, with the OVF of what was diverted since the placement (R167). -/
def RQueue.atStart (q : RQueue) : RQueue := { q with logsz := 0, head := 0, tail := 0 }
/-- The context of a thread at its start: nothing of it depends on what the slot ran before (R28, R364). Events that
wait for a context in the slot stay (R330). -/
def startThread (tl : TileLaunch) (sl : Slot) : Slot :=
  { Slot.reset with
    st := .user, user := { Bank.reset with pc := tl.entry }, sup := sl.sup, gen := tl.gen, dom := tl.dom, gpol := tl.gpol,
    tc := sl.tc, rq := sl.rq.map RQueue.atStart, merr := sl.merr, nextSeq := sl.nextSeq, firstSeq := sl.nextSeq, run := sl.run }
/-- A restored context runs on, with user privilege (R349). -/
def resumeThread (sl : Slot) : Slot :=
  if sl.st = .stopping then { sl with st := .user, priv := false, halted := false } else sl

/-- The release reaches a tile: its threads start, or go on, in one tile cycle. A thread that had not started before a
save starts now. -/
def releaseTile (l : Launch) (t : Nat) (s : State) : State :=
  s.modTile t fun tl => match tl.launch with
    | some x => (l.threads.filter fun th => th.tile == t && !th.ended).foldl (fun tl th =>
        let sl := tl.slot th.slot
        tl.setSlot th.slot (if sl.st = .empty then startThread x sl else resumeThread sl)) tl
    | none => tl

/-- `LAUNCH_RELEASE` (R131). -/
def launchReleaseBody (lid t : Nat) (s : State) : Option State := do
  let l ← s.findLaunch (BitVec.ofNat 29 lid)
  if l.st == .running && l.tiles.contains t && !l.released.contains t then
    some ((releaseTile l t s).modLaunch l.lid fun l => { l with released := l.released ++ [t] })
  else none
def execLaunchRelease (lid t : Nat) (s : State) : Result := event (tileOk t) s (launchReleaseBody lid t)

/-! ### The end of a launch (R339) -/

/-- A slot with nothing under way. -/
def Slot.atRest (sl : Slot) : Bool := sl.st == .empty && sl.accs.isEmpty && sl.niq.isEmpty
/-- A tile with nothing under way. -/
def tileAtRest (s : State) (t : Nat) : Bool :=
  let tl := s.getTile t
  tl.slots.toList.all Slot.atRest && tl.planeQ.isEmpty && tl.planeRun.isEmpty && tl.copyQ.isEmpty && tl.copyRun.isNone
    && !s.gran.any (·.tile == t) && !s.subs.any (·.tile == t) && !s.streams.any (·.tile == t)

/-- Every thread has ended and nothing of the launch is under way. -/
def launchDrained (s : State) (l : Launch) : Bool :=
  l.st == .running && l.tiles.all (l.released.contains ·) && l.threads.all (·.ended) && l.tiles.all (tileAtRest s)

/-- `LAUNCH_COMPLETION`. -/
def launchCompletionBody (lid : Nat) (s : State) : Option State := do
  let l ← s.findLaunch (BitVec.ofNat 29 lid)
  if launchDrained s l then
    some (storeDone l.holdsQueue l.tenant (recDone l.dw) none ((leaveBays l s).hubMeter l.tenant 12 1))
  else none
def execLaunchCompletion (lid : Nat) (s : State) : Result := event true s (launchCompletionBody lid)

/-- `LAUNCH_ABORT`: a launch that is RUNNING, SAVING or PREEMPTED, or is being placed again. -/
def launchAbortBody (lid : Nat) (s : State) : Option State := do
  let l ← s.findLaunch (BitVec.ofNat 29 lid)
  if l.st == .running || l.st == .saving || l.st == .preempted || (l.st == .placing && !l.saved.isEmpty) then
    some (abortLaunch l 0x46 s)
  else none
def execLaunchAbort (lid : Nat) (s : State) : Result := event true s (launchAbortBody lid)

/-! ### Metering -/

/-- `METER_FLUSH` (R351). -/
def meterFlushBody (t : Nat) (s : State) : Option State := some (flushCounts t s)
def execMeterFlush (t : Nat) (s : State) : Result := event (tileOk t) s (meterFlushBody t)

/-- A counter of Table 20.7; index 15 reads zero. -/
def counterOf (s : State) (tenant ix : Nat) : DWord := if ix = 15 then 0 else SMap.get 0 s.meters (tenant * 16 + ix)

/-- `METR_SAMPLE` (R369). -/
def metrSampleBody (n : Nat) (s : State) : Option State := do
  let m ← s.metr[n]?
  if m.value.isNone then some { s with metr := s.metr.set n { m with value := some (counterOf s m.tenant m.idx) } } else none
def execMetrSample (n : Nat) (s : State) : Result := event true s (metrSampleBody n)

/-- `TENANT_DELETION` (R350). -/
def tenantDeletionBody (tenant : Nat) (s : State) : Option State :=
  some { s with meters := (List.range 16).foldl (fun m ix => SMap.set 0 m (tenant * 16 + ix) 0) s.meters }
def execTenantDeletion (tenant : Nat) (s : State) : Result := event (decide (tenant < 512)) s (tenantDeletionBody tenant)

end Sys2Proof.Machine
end

