-- ==== Sys2Proof/Machine/Save.lean ====
section
/-! DEFINITION. Pre-emption: saving a launch tile by tile (R343 to R348, Tables 20.4 to 20.6) and resuming it (R171,
R193, R315, R349). -/

namespace Sys2Proof.Machine

/-! ### Drained slots (R346, R348) -/

/-- The NI could inject the request now. -/
def canInject (s : State) (t k : Nat) (r : Req) : Bool :=
  injectTurn s t k r && (match r.rel with | some ext => releaseReady (s.slotAt t k) r ext | none => true)

def Req.isMsg (r : Req) : Bool := match r.op with | .msg _ _ => true | _ => false
def Req.isStore (r : Req) : Bool := match r.op with | .store _ => true | _ => false
/-- A load or atomic: its destination stays pending. -/
def Req.isRead (r : Req) : Bool := match r.op with | .load _ _ => true | .amo _ _ _ _ => true | _ => false

/-- What the NI holds for the slot. -/
def Slot.heldReqs (sl : Slot) : List Req := sl.niq.filter (!·.isPull)
/-- The held requests of the context now in the slot. -/
def Slot.ownHeld (sl : Slot) : List Req := sl.heldReqs.filter fun r => r.run == sl.run

/-- The slot is EMPTY or STOPPING, and owes and is owed nothing but what is saved. -/
def slotDrained (s : State) (t k : Nat) : Bool :=
  let tl := s.getTile t
  let sl := tl.slot k
  let own := sl.ownHeld
  (sl.st == .empty || sl.st == .stopping)
    && sl.niq.all (fun r => !r.isPull && !canInject s t k r)
    && sl.accs.all (fun a => sl.niq.any fun r => r.seq == a.seq)
    && (sl.st == .empty ||
        (sl.nb.toNat == (own.filter Req.isStore).length && sl.nm.toNat == (own.filter Req.isMsg).length
          && sl.ne.toNat == tl.planeOwed k && (sl.quiet || own.any Req.isRead)))

/-- No word travels to or from the tile, and its engines carry nothing. -/
def tileQuiet (s : State) (t : Nat) : Bool :=
  let tl := s.getTile t
  let wordHere (w : WordTo) : Bool := match w with
    | .circuit die cid =>
      let c := s.circuit (circuitKey die cid)
      (c.dst == t || c.src == t) && !w.parked s
    | .link _ _ => w.touches s (· == t)
  !s.flights.any (fun f => f.phase == .wire && (match f.req.route with | .tile _ _ dst _ => dst == t | _ => false))
    && !s.words.any (fun w => wordHere w.dst) && !s.credits.any wordHere
    && tl.copyQ.isEmpty && tl.copyRun.isNone && !s.gran.any (·.tile == t) && !s.subs.any (·.tile == t)
    && !s.metr.any (·.tile == t)

/-- Tiles of one bay are saved in tile-index order (R416). -/
def saveTurn (l : Launch) (t : Nat) : Bool := l.tiles.all fun u => bayOf u != bayOf t || decide (t ≤ u) || l.saved.contains u

/-! ### The tile image -/

/-- Granules whose tag is a generation that the tile holds (R228). -/
def Tile.live (tl : Tile) : List Nat :=
  (tl.tags.filter fun kt => decide (kt.1 < 1024) && tl.holds kt.2).map (·.1)
/-- The bitmap's 16 doublewords. -/
def bitmapWords (live : List Nat) : List DWord :=
  (List.range 16).map fun j => BitVec.ofNat 64 (live.foldl (fun n g => if g / 64 = j then n + 2 ^ (g % 64) else n) 0)

/-- An owed command's entry (R347). -/
def owedWord (c : PlaneCmd) : DWord :=
  let kind : BitVec 2 := match c.kind with | .pdot => 1 | .ppack => 2 | .punpk => 3
  0#16 ++ kind ++ 0#1 ++ BitVec.ofNat 3 c.slot ++ c.cfg ++ c.row ++ c.ea2 ++ c.ea1
/-- The commands abandoned at a save, in issue order. -/
def Tile.owedCmds (tl : Tile) : List PlaneCmd := tl.planeRun.map (·.cmd) ++ tl.planeQ

/-- A list cut or filled to a length. -/
def fitTo (n : Nat) (l : List DWord) : List DWord := (l ++ List.replicate n 0).take n

/-- Offset 0x540. -/
def arrayWord (tl : Tile) : DWord :=
  let own : BitVec 4 := match tl.owner with | some k => 1#1 ++ k | none => 0
  0#51 ++ BitVec.ofNat 4 tl.owedCmds.length ++ own ++ BitVec.ofBool tl.masat ++ BitVec.ofNat 4 tl.mawm

/-- A tag-table entry (Table 8.5). -/
def tagWord (s : State) (t tag : Nat) : Word :=
  let e := (s.getTile t).tagEntry tag
  BitVec.ofBool e.en ++ BitVec.ofBool (pendOf s t tag) ++ e.prio ++ 0#11 ++ e.q ++ e.hpc

/-- A channel's doubleword and its buffered words (Table 20.6). -/
def chanWord (s : State) (t : Nat) (c : Channel) : DWord :=
  let kind : BitVec 2 := match c.w, c.r with
    | some (.link _), _ => 3
    | _, some (.link _) => 3
    | _, some (.circuit _ _) => 2
    | some (.circuit _ _), none => 1
    | none, none => 0
  let dir : BitVec 2 := match c.w, c.r with | some (.link d), _ => d | _, some (.link d) => d | _, _ => 0
  let cid (e : Option ChanEnd) : BitVec 12 := match e with | some (.circuit _ n) => BitVec.ofNat 12 n | _ => 0
  let n (f : ChanEnd → Nat) (e : Option ChanEnd) : BitVec 4 := match e with | some x => BitVec.ofNat 4 (f x) | none => 0
  BitVec.ofBool c.r.isSome ++ BitVec.ofBool c.w.isSome ++ kind ++ dir ++ 0#14 ++ cid c.r ++ 0#4
    ++ n (fun e => (s.chanBuf t e).length) c.r ++ 0#4 ++ n (s.chanCredits t) c.w ++ 0#4 ++ cid c.w
def chanWords (s : State) (t : Nat) (c : Channel) : List DWord :=
  fitTo 8 (match c.r with | some e => s.chanBuf t e | none => [])

/-- A held request: word 0, whose layout the spec does not give, then header and payload, or VA and data (R348). -/
def heldWords (r : Req) : List DWord :=
  let va : List DWord := [r.va.extractLsb' 0 64, (r.va.extractLsb' 64 8).zeroExtend 64]
  let dws (bs : List Byte) : List DWord := (List.range ((bs.length + 7) / 8)).map fun j => dwordOf ((bs.drop (8 * j)).take 8)
  fitTo 17 (Config.heldWord r.uid :: match r.op with
    | .msg hdr pay => hdr :: pay
    | .store d => va ++ dws (d.map fun b => b.getD 0)
    | .amo _ _ a e => va ++ [a, e]
    | _ => va)

/-- The 216 doublewords of a slot block. -/
def slotBlock (s : State) (t k : Nat) : List DWord :=
  let sl := s.slotAt t k
  let held := sl.heldReqs
  sl.rq.toList.map RQueue.headReg ++ sl.rq.toList.map RQueue.tailReg
    ++ sl.ch.toList.map (chanWord s t) ++ sl.ch.toList.flatMap (chanWords s t)
    ++ fitTo 32 (sl.inbox.flatMap fun r => [r.w0, r.w1])
    ++ fitTo 136 (held.flatMap heldWords)
    ++ [BitVec.ofNat 64 (held.length * 32 + sl.inbox.length), 0, 0, 0]

/-- The 1,920 doublewords of a tile image before its granules; bytes that no field takes are zero (R384). -/
def imageWords (s : State) (lid : BitVec 29) (t : Nat) : List DWord :=
  let tl := s.getTile t
  let live := tl.live
  let hold := BitVec.ofNat 64 ((List.range 4).foldl (fun n q => if tl.hold.toList.getD q false then n + 2 ^ q else n) 0)
  let place := BitVec.ofNat 64 (dieOf t * 65536 + bayOf t % Config.baysPerDie * 64 + t % 64)
  [lid.zeroExtend 64, place, BitVec.ofNat 64 live.length, hold, 0, 0, 0, 0] ++ bitmapWords live
    ++ (List.range 8).flatMap (fun k =>
        if (tl.slot k).st = .empty then List.replicate 14 0 else (List.range 14).map (contextWord tl k))
    ++ tl.ma.toList.flatMap (fun row => (List.range 4).map fun j =>
        pairWord (row.toList.getD (2 * j) 0) (row.toList.getD (2 * j + 1) 0))
    ++ [arrayWord tl] ++ fitTo 10 (tl.owedCmds.map owedWord)
    ++ (List.range 8).map (fun j => pairWord (tagWord s t (2 * j)) (tagWord s t (2 * j + 1)))
    ++ List.replicate 5 0 ++ (List.range 8).flatMap (slotBlock s t)

/-- Bytes of a tile image with `g` live granules, and the distance from one image to the next (R345, R416). -/
def imageBytes (g : Nat) : Nat := 0x3C00 + 32 * g
def imageStride : Nat := 49152
/-- Where image `ix` of a launch lies. -/
def imageVa (s : State) (tenant ix : Nat) : Nat := (s.getTenant tenant).save.toNat + imageStride * ix

/-- Store doublewords one after another through a die's port, stopping at the first that fails, with its VA. -/
def portWriteSpan (die tenant : Nat) : List DWord → Nat → State → State × Option (PortStop × Nat)
  | [], _, s => (s, none)
  | d :: r, va, s =>
    let x := portWrite s die va ((bytesOf 8 d).map some) tenant
    match x.2 with
    | some e => (x.1, some (e, va))
    | none => portWriteSpan die tenant r (va + 8) x.1

/-- The doublewords of some granules of a tile. -/
def granuleWords (s : State) (t : Nat) (gs : List Nat) : List DWord :=
  gs.flatMap fun g => (List.range 4).map fun j => dwordOf (readBytes s.mem (spadBase t + 32 * g + 8 * j) 8)

/-- The words of a live granule include one whose check fails (R414). -/
def Tile.liveBad (tl : Tile) : Bool := tl.bad.any fun d => tl.live.contains (d / 4)

/-! ### Saving -/

/-- What a slot owes or is owed beyond its image. -/
def keptOf (s : State) (ix t k : Nat) : Kept :=
  let sl := s.slotAt t k
  { ix := ix, slot := k, held := sl.heldReqs, derr := sl.derr, perr := sl.perr, merr := sl.merr, rq := sl.rq, ch := sl.ch,
    drop := sl.drop, fresh := sl.st == .empty, entered := sl.entered, ir := sl.ir, fences := sl.fences,
    links := if k = 0 then (List.range 4).map (fun d => (d, s.link t (BitVec.ofNat 2 d))) else [] }

/-- The image of a tile is written: the tile gives up its generation and its slots are EMPTY (R343); with the last of a
bay the bay's memory circuit goes (R216). -/
def tileSaved (l : Launch) (t ix : Nat) (s : State) : State :=
  let g := (s.getTile t).live.length
  let kept := (List.range 8).map (keptOf s ix t)
  let lost := ((s.getTile t).ring.toList.filter (·.valid)).length
  let s1 := flushCounts t (s.modTile t fun tl => tl.meter 10 lost)
  let s2 := (s1.modTile t Tile.vacated).hubMeter l.tenant 7 (imageBytes g)
  let s3 := s2.modLaunch l.lid fun l =>
    { l with saved := l.saved ++ [t], kept := l.kept ++ kept, park := none }
  if l.tiles.all fun u => bayOf u != bayOf t || u == t || l.saved.contains u then uprootMemory s3 (bayOf t) else s3

/-- `TILE_SAVE` (R345). -/
def tileSaveBody (t : Nat) (s : State) : Option State := do
  let x ← (s.getTile t).launch
  let l ← s.findLaunch x.lid
  if l.st != .saving || l.saved.contains t || !saveTurn l t || l.waits then none
  else if l.dismissed then some (abortLaunch l 0x46 s)
  else if !(List.range 8).all (slotDrained s t) || !tileQuiet s t then none
  else if (s.getTile t).liveBad then
    some (abortLaunch l 0x46 (s.modTile t fun tl => tl.seeBad (spCheckTrap (8 * (tl.bad.find? fun d => tl.live.contains (d / 4)).getD 0))))
  else
    let ix := l.tiles.findIdx (· == t)
    let words := imageWords s l.lid t ++ granuleWords s t (s.getTile t).live
    let w := portWriteSpan (dieOf t) l.tenant words (imageVa s l.tenant ix) s
    match w.2 with
    | none => some (tileSaved l t ix w.1)
    | some (.absent k, va) => some (parkLaunch l (dieOf t) k va 2 w.1)
    | some (.busy, _) => none
    | some (.err _, _) => some (abortLaunch l 0x46 w.1)
def execTileSave (t : Nat) (s : State) : Result := event (tileOk t) s (tileSaveBody t)

/-- `SAVE_COMPLETE` (R343): the record enters PREEMPTED and the bays are free. -/
def saveCompleteBody (lid : Nat) (s : State) : Option State := do
  let l ← s.findLaunch (BitVec.ofNat 29 lid)
  if l.st == .saving && l.tiles.all (l.saved.contains ·) then
    let s0 := (baysTiles s l.bays).foldl (fun s t => flushCounts t s) (sleepFrom l.lid l.tiles (uprootOwn l.tiles s))
    let s1 := (clearLinks l.tiles.contains s0).modLaunch l.lid fun l => { l with st := .preempted, bays := [], park := none }
    some (l.bays.foldl freeBay s1)
  else none
def execSaveComplete (lid : Nat) (s : State) : Result := event true s (saveCompleteBody lid)

/-! ### Restoring tiles -/

/-- A saved image: its first 1,920 doublewords and its granules. -/
structure Image where
  words : List DWord
  grans : List Byte

def Image.word (im : Image) (off : Nat) : DWord := im.words.getD (off / 8) 0
/-- Live granules by the bitmap. -/
def Image.live (im : Image) : List Nat := (List.range 1024).filter fun g => (im.word (0x40 + g / 64 * 8)).getLsbD (g % 64)

/-- Read an image through a die's port, or where reading stops. -/
def readImage (s : State) (die tenant va : Nat) : Except (PortStop × Nat) Image := do
  let split (bs : List Byte) : List DWord := (List.range (bs.length / 8)).map fun j => dwordOf ((bs.drop (8 * j)).take 8)
  let head ← (portReadSpan die tenant 1920 va s).2
  let im : Image := ⟨split head, []⟩
  let gs ← (portReadSpan die tenant (4 * im.live.length) (va + 0x3C00) s).2
  .ok { im with grans := gs }

/-- Read every image of a launch. -/
def readImages (s : State) (tenant : Nat) : Nat → List Nat → Except (Nat × PortStop × Nat) (List Image)
  | _, [] => .ok []
  | ix, t :: r =>
    match readImage s (dieOf t) tenant (imageVa s tenant ix) with
    | .error e => .error (dieOf t, e)
    | .ok im => match readImages s tenant (ix + 1) r with
      | .ok ims => .ok (im :: ims)
      | .error e => .error e

/-- Live granules written back, stamped with the new generation. -/
def restoreGranules (t : Nat) (gen : BitVec 12) : List Nat → List Byte → State → State
  | [], _, s => s
  | g :: r, bs, s =>
    let s1 := { s with mem := writeBytes s.mem (spadBase t + 32 * g) (bs.take 32) }.modTile t fun tl =>
      { tl.setTag g gen with bad := tl.bad.filter fun d => decide (d / 4 ≠ g) }
    restoreGranules t gen r (bs.drop 32) s1

/-- A receive queue of an image, with the report that was kept. -/
def restoreQueue (head tail : DWord) (q : RQueue) : RQueue :=
  { q with logsz := head.extractLsb' 16 4, head := head.extractLsb' 0 15, tail := tail.extractLsb' 0 15, ovf := tail.getLsbD 16 }

/-- The held requests of a slot, as requests of the restored context. -/
def restoreHeld (s : State) (ks : List (Nat × Nat)) (t : Nat) (sl : Slot) (rs : List Req) : List Req :=
  rs.zipIdx.map fun ri => { rekeyReq s ks ri.1 with tile := t, run := sl.run, seq := sl.nextSeq + ri.2 }
/-- A fence over held requests in their new numbers. -/
def restoreFence (sl : Slot) (rs : List Req) (f : Fence) : Fence :=
  { f with seq := sl.nextSeq + (rs.filter fun r => decide (r.seq < f.seq)).length }

/-- The waves that a thread has joined at a level: those that list its contribution, or as many as every other member. -/
def joinedWaves (s : State) (l : Launch) (th : Thread) (level : Nat) : Nat :=
  let path := th.path.take (level + 1)
  let ws := s.waves.filter fun w => w.lid == l.lid && w.level.toNat == level && w.path == path
  let ix := radix l.levels th.path
  let own := (ws.filter fun w => w.contribs.any (·.1 == ix)).map (·.num)
  match own with
  | [] => match ws with
    | [] => 0
    | w :: r => r.foldl (fun n x => min n x.num) w.num - 1
  | n :: r => r.foldl max n

/-- A load or atomic of a restored context that `ACAS` is: Z is pending, too (R260). -/
def Req.isAcas (r : Req) : Bool := match r.op with | .amo fn _ _ _ => fn == .acas | _ => false

/-- A slot restored from its context, its block and what was kept (R349); a thread's context waits for the release, and
one that had not started starts at it. What a handler that has returned still owed is the work of an earlier run. -/
def restoreSlot (ks : List (Nat × Nat)) (l : Launch) (s : State) (t : Nat) (im : Image) (k : Nat) (kp : Kept) (ne : Nat)
    (sl : Slot) : Slot :=
  let th := l.threads.find? fun th => th.tile == t && th.slot == k && !th.ended && !kp.fresh
  let b := 0x600 + 0x6C0 * k
  let held := restoreHeld s ks t sl kp.held
  let ctx := (List.range 12).foldl (fun sl j => setContextWord j (im.word (0xC0 + 112 * k + 8 * j)) sl) sl
  let full := restoreWords (im.word (0xC0 + 112 * k + 88)) (im.word (0xC0 + 112 * k + 96)) (im.word (0xC0 + 112 * k + 104)) ctx
  let base := match th.isSome, (s.getTile t).launch with
    | true, x =>
      let y := match x with | some x => { full with gen := x.gen, dom := x.dom } | none => full
      { y with st := .stopping, entered := kp.entered, ir := kp.ir, fences := kp.fences.map (restoreFence sl kp.held),
               user := { y.user with zPend := held.any Req.isAcas } }
    | _, _ => { sl with run := sl.run + 1 }
  let waves := Vector.ofFn fun (i : Fin 16) => match th with | some x => joinedWaves s l x i | none => 0
  { base with
    rq := Vector.ofFn fun q => restoreQueue (im.word (b + 8 * q)) (im.word (b + 32 + 8 * q)) (kp.rq[q])
    ch := kp.ch.map (rekeyChan ks)
    inbox := (List.range ((im.word (b + 0x6A0)).extractLsb' 0 5).toNat).map fun j =>
      ⟨im.word (b + 0x160 + 16 * j), im.word (b + 0x168 + 16 * j)⟩
    drop := kp.drop, derr := kp.derr, perr := kp.perr, merr := kp.merr
    niq := held
    accs := held.map fun r => ⟨r.seq, r.isRead, !(match r.op with | .load _ _ => true | _ => false), false, false⟩
    nb := BitVec.ofNat 16 (if th.isSome then (held.filter Req.isStore).length else 0)
    nm := BitVec.ofNat 16 (if th.isSome then (held.filter Req.isMsg).length else 0)
    ne := BitVec.ofNat 16 (if th.isSome then ne else 0)
    firstSeq := if th.isSome then sl.nextSeq else sl.nextSeq + held.length
    nextSeq := sl.nextSeq + held.length, heldTo := sl.nextSeq + held.length
    waves := waves
    wave := base.wave.map fun w => if bindAt l.levels w.level.toNat = 0
      then { w with result := some w.contrib } else { w with num := waves[w.level.toNat]'w.level.isLt } }

/-- An owed command of an image, for the context that its slot held: the one restored, or a handler's that has ended. -/
def restoreCmd (tl : Tile) (w : DWord) : PlaneCmd :=
  let k := (w.extractLsb' 42 3).toNat
  { kind := if w.extractLsb' 46 2 = 1 then .pdot else if w.extractLsb' 46 2 = 2 then .ppack else .punpk,
    slot := k, run := (tl.slot k).run, cfg := w.extractLsb' 33 9, row := w.extractLsb' 30 3, ea1 := w.extractLsb' 0 15,
    ea2 := w.extractLsb' 15 15 }

/-- The tag table of an image. -/
def restoreTag (w : Word) : TagEntry := ⟨w.getLsbD 31, w.extractLsb' 27 3, w.extractLsb' 14 2, w.extractLsb' 0 14⟩

/-- The words and credits of a bound channel, as the image holds them. -/
def restoreChannel (t : Nat) (im : Image) (k : Nat) (s : State) (c : Nat) : State :=
  let b := 0x600 + 0x6C0 * k
  let w := im.word (b + 0x40 + 8 * c)
  let ch := (s.slotAt t k).ch.toList.getD c Channel.reset
  let words := (List.range (w.extractLsb' 24 4).toNat).map fun j => im.word (b + 0x60 + 64 * c + 8 * j)
  let s1 := match ch.r with
    | some (.circuit die cid) => s.setCircuit (circuitKey die cid) { s.circuit (circuitKey die cid) with buf := words }
    | some (.link d) => s.setLink t d { s.link t d with buf := words }
    | none => s
  match ch.w with
  | some (.circuit die cid) =>
    s1.setCircuit (circuitKey die cid) { s1.circuit (circuitKey die cid) with credits := (w.extractLsb' 16 4).toNat }
  | some (.link d) => s1.setLink t d { s1.link t d with credits := (w.extractLsb' 16 4).toNat }
  | none => s1

/-- What was kept for a slot of a tile. -/
def keptFor (l : Launch) (ix k : Nat) (s : State) (t : Nat) : Kept :=
  (l.kept.find? fun x => x.ix == ix && x.slot == k).getD (keptOf s ix t k)

/-- One tile of the launch at its new place: tables, granules, MA, owed commands, slots (R347, R349). -/
def restoreTile (ks : List (Nat × Nat)) (l : Launch) (combs : List (BitVec 4)) (ix t : Nat) (im : Image) (s : State) : State :=
  let s1 := loadTile l l.hdr l.levels combs l.threads s t
  let gen := match (s1.getTile t).launch with | some x => x.gen | none => 0xFFF
  let s2 := restoreGranules t gen im.live im.grans s1
  let tl := s2.getTile t
  let aw := im.word 0x540
  let cmds := (List.range (aw.extractLsb' 9 4).toNat).map fun j => restoreCmd tl (im.word (0x548 + 8 * j))
  let kp := l.kept.find? fun x => x.ix == ix && x.slot == 0
  let half (w : DWord) (hi : Bool) : Word := if hi then w.extractLsb' 32 32 else w.extractLsb' 0 32
  let tl1 : Tile := { tl with
    slots := Vector.ofFn fun k =>
      restoreSlot ks l s2 t im k (keptFor l ix k s t) ((cmds.filter (·.slot == k.val)).length) (tl.slots[k])
    tagtab := Vector.ofFn fun i => restoreTag (half (im.word (0x598 + 8 * (i.val / 2))) (i.val % 2 == 1))
    ma := Vector.ofFn fun r => Vector.ofFn fun i => half (im.word (0x440 + 32 * r.val + 8 * (i.val / 2))) (i.val % 2 == 1)
    masat := aw.getLsbD 4
    owner := if aw.getLsbD 8 then some (aw.extractLsb' 5 3) else none
    ownerRun := if aw.getLsbD 8 then (tl.slot (aw.extractLsb' 5 3).toNat).run else 0
    rel := aw.getLsbD 8 && ((im.word (0xC0 + 112 * (aw.extractLsb' 5 3).toNat + 104)).getLsbD 8
      || (keptFor l ix (aw.extractLsb' 5 3).toNat s t).fresh)
    planeQ := cmds
    hold := Vector.ofFn fun q => (im.word 0x18).getLsbD q.val }
  let s3 := s2.setTile t tl1
  let s4 := match kp with
    | some x => x.links.foldl (fun (s : State) (dl : Nat × Link) => s.setLink t (BitVec.ofNat 2 dl.1) dl.2) s3
    | none => s3
  (List.range 8).foldl (fun s k => (List.range 4).foldl (restoreChannel t im k) s) s4

/-- Restore tile after tile. -/
def restoreTiles (ks : List (Nat × Nat)) (l : Launch) (combs : List (BitVec 4)) : Nat → List Nat → List Image → State → State
  | ix, t :: ts, im :: ims, s => restoreTiles ks l combs (ix + 1) ts ims (restoreTile ks l combs ix t im s)
  | _, _, _, s => s

/-- A wave combines again from its saved contributions (R315). -/
def recombine (lid : BitVec 29) (w : WaveRun) : WaveRun :=
  if w.lid = lid then { w with acc := none, chain := [], started := false } else w

/-- The images are read and the circuits re-pointed: the launch runs once its tiles are released. -/
def resumeLaunch (l : Launch) (ks : List (Nat × Nat)) (ims : List Image) (s : State) : State :=
  let b := loadBays l l.hdr (l.hdr.drop 0x60) l.levels l.threads { s with waves := s.waves.map (recombine l.lid) }
  let s3 := settleLinks l.tiles (restoreTiles ks l b.2 0 l.tiles ims b.1)
  let bytes := ims.foldl (fun n im => n + imageBytes im.live.length) 0
  (s3.hubMeter l.tenant 7 bytes).modLaunch l.lid fun l =>
    { l with st := .running, released := [], saved := [], kept := [], combs := b.2, park := none,
             fillAt := 0, cycAt := bayCycles s3 l.bays }

/-- The memory circuits of a launch's bays, set up before the images are read (R216). -/
def plantBays (l : Launch) (s : State) : State :=
  l.bays.foldl (fun s b => if (s.getBay b).memCid.isNone then plantMemory l.tenant b s else s) s
/-- A launch's circuits find room at its new place. -/
def resumeFits (l : Launch) (s : State) : Bool := (repointFit l l.levels l.threads s).toOption.isSome

/-- `RESUMPTION` (R349): the rotation that R359 permits, where it leaves room for the circuits; the memory circuits; the
images. Where another circuit has taken a slot since the selection, the record waits in PLACING until its circuits can be
re-pointed (R171, R337, assumption 44). -/
def resumptionBody (lid : Nat) (s : State) : Option State := do
  let l ← s.findLaunch (BitVec.ofNat 29 lid)
  if l.st != .placing || l.saved.isEmpty || l.waits || !holdsBays s l then none
  else if l.dismissed then some (abortLaunch l 0x46 s)
  else match rotateStep l (resumeFits l) s with
  | some s1 => some s1
  | none =>
    if l.bays.any fun b => (s.getBay b).memCid.isNone then (if resumeFits l s then some (plantBays l s) else none)
    else match readImages s l.tenant 0 l.tiles with
    | .error (die, .absent k, va) => some (parkLaunch l die k va 1 s)
    | .error (_, .busy, _) => none
    | .error (_, .err _, _) => some (abortLaunch l 0x46 s)
    | .ok ims => do
      let r ← (repointFit l l.levels l.threads s).toOption
      some (resumeLaunch l r.2 ims r.1)
def execResumption (lid : Nat) (s : State) : Result := event true s (resumptionBody lid)

end Sys2Proof.Machine
end

