-- ==== Sys2Proof/Machine/Fabric.lean ====
section
/-! DEFINITION. Dies, crossings and links: resets (R145, R391, R392), losses (R393), calibration (R390, R399), bay
retirement (R394), and RDMA at its target (R402 to R404). -/

namespace Sys2Proof.Machine

/-! ### What a loss ends (R257, R332, R393) -/

/-- What is lost: dies, tiles, circuits, and homes as the entry port of a die reaches them. -/
structure Loss where
  die  : Nat → Bool
  tile : Nat → Bool
  keys : List Nat
  home : Nat → Nat → Bool

def Loss.route (x : Loss) (r : Req) : Bool :=
  match r.route with
  | .tile die cid dst _ => x.tile dst || x.keys.contains (circuitKey die cid)
  | .config => match configDie r.va with | some d => x.die d | none => false
  | .mem => false

/-- The home that a bulk request's answer comes from is lost. -/
def Loss.from (x : Loss) (s : State) (r : Req) : Bool :=
  r.route == .mem && vaSpace r.va != 0xF &&
    match (translate s (dieOf r.tile) r.va.toNat).2 with
    | .leaf l => x.home (dieOf r.tile) (leafPlace l (dieOf r.tile) r.va.toNat).1
    | _ => false

/-- A flight whose reply has not arrived and never will. -/
def Loss.flight (x : Loss) (s : State) (f : Flight) : Bool :=
  let die := dieOf f.req.tile
  match f.phase with
  | .reply _ _ err early => x.route f.req || (!(err.isSome && early) && x.from s f.req)
  | .ack _ => x.route f.req || x.from s f.req
  | .home l => x.home die (leafPlace l die f.req.va.toNat).1
  | .copies _ left => left.any (x.home die)
  | _ => x.route f.req

/-- Requests still in their NIs that can never arrive. -/
def Loss.held (x : Loss) (s : State) : List Req :=
  s.tileNos.flatMap fun t => (s.getTile t).slots.toList.flatMap fun sl => sl.niq.filter x.route

/-- Complete every lost request (R393, step 3). -/
def loseRequests (x : Loss) (s : State) : State :=
  let held := x.held s
  let lost := (s.flights.filter (x.flight s)).map (·.req) ++ held
  let s1 := { s with flights := s.flights.filter (!x.flight s ·) }.mapTiles fun tl =>
    { tl with slots := tl.slots.map fun (sl : Slot) => { sl with niq := sl.niq.filter (!x.route ·) } }
  lost.foldl (fun s r => loseReq r s) s1

/-- A side of a running copy that is a window of something lost. -/
def Loss.copySide (x : Loss) (s : State) (t : Nat) (c : Copy) (src : Bool) : Bool :=
  let va : VA := BitVec.ofNat 72 (copyStart src c.dw)
  let e := windowHome s t va
  !copyLocal src c.dw && vaSpace va == 0xC && e.valid &&
    (x.tile (e.tileNo s.modNo) ||
      match s.findCircuit t ((s.getTile t).circuitSlot c.slot) (e.tileNo s.modNo) with
      | some key => x.keys.contains key
      | none => false)

/-- Where a copy that has come to doubleword `c.pos` meets what is lost. -/
def Loss.copyVa (x : Loss) (s : State) (t : Nat) (c : Copy) : Option Nat :=
  if x.copySide s t c false then some (copyAddr false c.dw (if c.pos < copyTotal c.dw then c.pos else 0))
  else if x.copySide s t c true then some (copyAddr true c.dw c.pos)
  else none
/-- Copies end with status 4, running or queued (R393, step 4). -/
def loseCopies (x : Loss) (s : State) : State :=
  s.tileNos.foldl (fun s t =>
    let tl := s.getTile t
    let s1 := match tl.copyRun with
      | some c => (match x.copyVa s t c with | some va => copyDone c t 4 va s | none => s)
      | none => s
    let queued := tl.copyQ.filter fun c => (x.copyVa s t c).isSome
    queued.foldl (fun s c =>
        let va := (x.copyVa s t c).getD 0
        s.complete t c.slot c.run 1 4 (BitVec.ofNat 8 (va / 2 ^ 64)) c.block (BitVec.ofNat 64 va))
      (s1.modTile t fun y => { y with copyQ := y.copyQ.filter fun c => (x.copyVa s t c).isNone })) s

/-- Streams whose offerer or circuit is lost end with status 4: the bytes before the loss are written, and how many those
are is free (R180). -/
def loseStreams (x : Loss) (s : State) : State :=
  let lost (st : Stream) : Bool := !st.done && (x.tile st.offTile ||
    match s.findCircuit st.offTile st.offSlot st.tile with | some key => x.keys.contains key | none => false)
  let cut (n : Nat) (st : Stream) : Stream :=
    { st with status := 4, data := st.data.take (8 * (Config.streamLoss n % (st.data.length / 8 + 1))), noticed := true }
  { s with streams := s.streams.zipIdx.map fun si => if lost si.1 then cut (s.free + si.2) si.1 else si.1
           free := s.free + s.streams.length }

/-- Rank entries that name a lost tile are invalid. -/
def loseRanks (lost : Nat → Bool) (s : State) : State :=
  let end_ (re : Nat × RankEntry) : Nat × RankEntry :=
    if lost (re.2.tileNo s.modNo) then (re.1, { re.2 with valid := false }) else re
  s.mapTiles fun tl => { tl with ranks := tl.ranks.map end_ }
/-- An entry that an invalidation leaves at the reset value is no longer listed. -/
def trimRanks (s : State) : State :=
  s.mapTiles fun tl => { tl with ranks := tl.ranks.filter fun re => re.2 ≠ RankEntry.reset }

/-- Commands queued at the joiners for circuits that are lost end with status 4 (R393, step 4). -/
def loseJoins (keys : List Nat) (s : State) : State :=
  let gone (w : JoinWork) : Option JoinReq := match w with
    | .own r => if r.op ≠ 0 ∧ keys.contains (circuitKey (dieOf r.tile) r.cid) ∧ ownsCircuit s r then some r else none
    | .far _ => none
  { s with dies := s.dies.map fun d =>
      { d with work := d.work.filter fun w => (gone w).isNone
               replies := d.replies ++ (d.work.filterMap gone).map fun r => refusal r 4 r.cid 0 } }

/-- The whole of R393 for one loss; `ranks` says which tiles' rank entries become invalid. A set-up under way over what is
lost ends with its circuit (`cancelJoin`). -/
def suffer (x : Loss) (ranks : Nat → Bool) (s : State) : State :=
  let s1 := loseStreams x (loseCopies x (loseJoins x.keys s))
  let s2 := loseRequests x (x.keys.foldl killCircuit s1)
  trimRanks (loseRanks ranks s2)

/-! ### Circuits across a die or a crossing -/

/-- The dies of a path's ports, in order. -/
def pathDies (c : Circuit) : List Nat := (c.fwd.map fun h => portDie h.port).filter (· < 16)
/-- The dies that a circuit touches within this module. -/
def circuitDies (c : Circuit) : List Nat :=
  dieOf c.src :: (if c.dst < tileCount then [dieOf c.dst] else []) ++ pathDies c
def State.circuitsWith (s : State) (p : Circuit → Bool) : List Nat := (s.circuits.filter fun kc => p kc.2).map (·.1)

/-- The die beyond an edge, where the edge has a crossing (R389). -/
def dieBeyond (die e : Nat) : Option Nat :=
  match e with
  | 0 => if die / 4 = 0 then none else some (die - 4)
  | 1 => if die % 4 = 3 then none else some (die + 1)
  | 2 => if die / 4 = 3 then none else some (die + 4)
  | 3 => if die % 4 = 0 then none else some (die - 1)
  | _ => none
/-- A pair of neighbouring dies occurs in a list, either way round. -/
def crossesPair (a b : Nat) (l : List Nat) : Bool :=
  (l.zip (l.drop 1)).any fun xy => (xy.1 == a && xy.2 == b) || (xy.1 == b && xy.2 == a)

/-- Change both ends of a crossing. -/
def modCrossing (die e : Nat) (f : LinkStat → LinkStat) (s : State) : State :=
  let one (d k : Nat) (s : State) : State := s.modDie d fun x => { x with links := x.links.set! k (f (x.links.toList.getD k LinkStat.reset)) }
  match dieBeyond die e with
  | some b => one b ((e + 2) % 4) (one die e s)
  | none => s
def linkDown (l : LinkStat) : LinkStat := { l with up := false, offset := 0 }

/-! ### Losing -/

/-- A tile after tile reset; a retirement of its bay that is due stays due (R394). The model's own numbering of contexts and accesses goes on, so that no answer to an earlier
context finds a later one (assumption 3). -/
def Tile.afterReset (tl : Tile) : Tile :=
  { Tile.reset with retire := tl.retire, slots := tl.slots.map fun sl =>
      { Slot.reset with nextSeq := sl.nextSeq, firstSeq := sl.nextSeq, run := sl.run + 1 } }
/-- Tiles take tile reset (R27), and their links with them. -/
def State.resetWhere (p : Nat → Bool) (s : State) : State :=
  let s1 := clearLinks p s
  { s1 with tile := if p s.tid then s.tile.afterReset else s.tile
            others := s.others.map fun kt => if p kt.1 then (kt.1, kt.2.afterReset) else kt }

/-- The circuits that a lost die's joiner was clearing: the entries on other dies go, each by its die's own joiner. -/
def handDrains (die : Nat) (s : State) : State :=
  (s.drains.filter (·.die == die)).foldl (fun s d =>
    let es := (d.keys.filter fun k => keyDie k != die).map fun k => (k, (0 : Word))
    (s.writeEntries (es.filter fun kv => decide (16 ≤ keyDie kv.1))).sendFar 16 (farDies die es) es) s
/-- What other joiners await of a lost die's joiner never comes: the command ends with status 4 (R393, step 4). -/
def dropFar (die : Nat) (s : State) : State :=
  let cut (r : JoinReply) : JoinReply := if r.far.contains die then { farDone die r with status := 4 } else r
  { s with dies := s.dies.map fun d => { d with replies := d.replies.map cut } }
/-- Everything that the tiles of some die hold or have asked for is gone. -/
def clearDieWork (die : Nat) (s0 : State) : State :=
  let here (t : Nat) : Bool := dieOf t == die
  let s := dropFar die (handDrains die s0)
  { s.resetWhere here with
    flights := s.flights.filter fun f => !here f.req.tile
    streams := s.streams.filter fun st => !here st.tile
    gran := s.gran.filter fun g => !here g.tile
    subs := s.subs.filter fun u => !here u.tile
    metr := s.metr.filter fun m => !here m.tile
    slotTab := s.slotTab.filter fun ke => keyDie ke.1 != die
    drains := (s.drains.filter fun d => d.die != die).map fun d => { d with keys := d.keys.filter fun k => keyDie k != die } }

/-- A die is lost: its contexts with it. -/
def loseDie (d : Nat) (s : State) : State :=
  let x : Loss :=
    { die := (· == d), tile := fun t => decide (t < tileCount) && dieOf t == d, keys := s.circuitsWith fun c => (circuitDies c).contains d,
      home := fun die h => h == d || (diePath die h).contains d }
  let s1 := suffer x x.tile s
  let s2 := [0, 1, 2, 3].foldl (fun s e => modCrossing d e linkDown s) s1
  let s3 := { s2 with dies := s2.dies.map fun (y : Die) => { y with tlb := y.tlb.filter fun l => l.stack.toNat != d } }
  let s4 := { s3 with boot := { s3.boot with dies := s3.boot.dies &&& ~~~(1#16 <<< d) } }
  clearDieWork d (s4.modDie d fun y => { y with up := false, work := [], replies := [], tlb := [] })

/-- A crossing is lost: circuits and bulk accesses that cross it end (R393). -/
def loseCrossing (die e : Nat) (s : State) : State :=
  match dieBeyond die e with
  | some b =>
    let x : Loss :=
      { die := fun _ => false, tile := fun _ => false, keys := s.circuitsWith fun c => crossesPair die b (pathDies c),
        home := fun d h => crossesPair die b (d :: diePath d h) }
    suffer x (fun _ => false) (modCrossing die e linkDown s)
  | none => s

/-- Another module is lost. -/
def loseModule (m : Nat) (s : State) : State :=
  let far (t : Nat) : Bool := t / tileCount == m + 1
  let x : Loss := { die := fun _ => false, tile := far, keys := s.circuitsWith fun c => far c.dst, home := fun _ _ => false }
  let s1 := suffer x far s
  { s1 with lostMods := if s1.lostMods.contains m then s1.lostMods else s1.lostMods ++ [m] }

/-- A spline link is lost: the circuits over it, and the modules that only it leads to (assumption 34). -/
def loseSpline (p : Nat) (s : State) : State :=
  let far (t : Nat) : Bool := decide (tileCount ≤ t) && Config.splineTo (t / tileCount - 1) % 16 == p
  let x : Loss := { die := fun _ => false, tile := far,
                    keys := s.circuitsWith fun c => c.fwd.any fun h => splineOf h.port == some p, home := fun _ _ => false }
  suffer x far { s with splines := s.splines.set! p { s.splines.toList.getD p SplStat.reset with up := false } }

/-- `TARGET_LOSS` (R393). -/
def targetLossBody (x : LostTarget) (s : State) : Option State :=
  match x with
  | .die d => some (loseDie d s)
  | .module m => some (loseModule m s)
  | .crossing die e => some (loseCrossing die e s)
  | .spline p => some (loseSpline p s)
def lostOk : LostTarget → Bool
  | .die d => decide (d < 16)
  | .module m => decide (m < 4096)
  | .crossing die e => decide (die < 16) && decide (e < 4) && (dieBeyond die e).isSome
  | .spline p => decide (p < 16)
def execTargetLoss (x : LostTarget) (s : State) : Result := event (lostOk x) s (targetLossBody x)

/-! ### Resets -/

/-- The bay map as the retirement record leaves it (R408, step 6): the logical bay that stands for a retired physical bay
takes the spare, or leaves service where the spare is 1,023, which stands for none. -/
def noPhys : Nat := 1023
def loadBayMap (die : Nat) (s : State) : State :=
  (s.retireRec.filter fun r => r.1 == die).foldl (fun s r => s.modDie die fun d =>
    let d1 := { d with retired := d.retired ++ [r.2.1] }
    match d.logicalOf r.2.1 with
    | some b =>
      if r.2.2 = noPhys then d1.setBayMap b { d.bayMap b with insrv := false }
      else d1.setBayMap b { d.bayMap b with phys := BitVec.ofNat 10 r.2.2, retold := true }
    | none => d1) s

/-- The die trains and leaves reset. -/
def dieWorks (s : State) (d : Nat) : Bool := s.okDies.getLsbD d && s.okStacks.getLsbD d

/-- A bay after die reset, with the launch that held it still on record. -/
def resetBay (b : Bay) : Bay := { Bay.reset with launch := b.launch }

/-- `DIE_RESET` (R27, R145, R393): the die is lost to what waits on it, then everything on it takes its reset values. -/
def dieResetBody (die : Nat) (s : State) : Option State :=
  let s1 := loseDie die s
  let d : Die := { Die.reset with up := dieWorks s die }
  let s2 := s1.setDie die d
  some (loadBayMap die { s2 with
    boot := if dieWorks s die then { s2.boot with dies := s2.boot.dies ||| (1#16 <<< die) } else s2.boot
    bays := s2.bays.filterMap fun kb =>
      if kb.1 / Config.baysPerDie ≠ die then some kb
      else if resetBay kb.2 = Bay.reset then none else some (kb.1, resetBay kb.2) })
def execDieReset (die : Nat) (s : State) : Result := event (decide (die < 16)) s (dieResetBody die)

/-- The tiles of some bays take tile reset, their permission tables with them, and their lofts read zero (R391, step 4;
R170). -/
def resetTiles (bays : List Nat) (s : State) : State :=
  let here (t : Nat) : Bool := bays.contains (bayOf t)
  let loft (a : Nat) : Bool := decide (loftBase 0 ≤ a) && decide (a < 2 ^ 37) && bays.contains ((a - loftBase 0) / 65536)
  let s1 := { s.resetWhere here with mem := s.mem.filter fun c => !loft c.1 }
  bays.foldl (fun s b => s.modBay b fun x => { x with cyc := 0, ran := [], winDone := 0, perms := [] }) s1

/-- What a tenant's contexts have under way to tiles of some bays, injected or still in its NI, completes with
`TARGET_LOST`, so that no counter waits for it (R332, R391, step 3). -/
def loseInBays (bays : List Nat) (s : State) : State :=
  let here (t : Nat) : Bool := decide (t < tileCount) && bays.contains (bayOf t)
  let x : Loss := { die := fun _ => false, tile := here, keys := [], home := fun _ _ => false }
  trimRanks (loseRanks here (loseRequests x (loseStreams x s)))

/-- `PARTITION_RESET` (R391). -/
def partitionResetBody (tenant : Nat) (s : State) : Option State :=
  let part := (s.getTenant tenant).part
  let s1 := (holders s part).foldl (fun s l => abortLaunch l 0x46 s) s
  let keys := s1.circuitsWith fun c => c.tenant == tenant &&
    (part.contains (bayOf c.src) || (decide (c.dst < tileCount) && part.contains (bayOf c.dst)))
  let s2 := loseInBays part (keys.foldl killCircuit s1)
  let s3 := resetTiles part s2
  some (part.foldl (fun s b => s.modBay b fun x => { x with launch := claimant s b }) s3)
def execPartitionReset (tenant : Nat) (s : State) : Result :=
  event (decide (tenant < 512)) s (partitionResetBody tenant)

/-- A record of a reset function: one that has not reached RUNNING is removed, any other ends FAULTED; both store
−0x46. The bays of a running one are reset (R392). -/
def flrRecord (l : Launch) (s : State) : State :=
  match l.st with
  | .running => resetTiles l.bays (loseInBays l.bays (abortLaunch l 0x46 s))
  | .saving => abortLaunch l 0x46 s
  | .preempted => abortLaunch l 0x46 s
  | st =>
    if st = .placing ∧ !l.saved.isEmpty then abortLaunch l 0x46 s
    else
      let held := l.bays.filter fun b => (s.getBay b).launch == some l.lid
      storeDone l.holdsQueue l.tenant (recDone l.dw) (some (BitVec.ofInt 64 (-0x46)))
        (held.foldl freeBay (endRotation (l.remap.getD []) (s.dropLaunch l.lid)))
/-- `FUNCTION_LEVEL_RESET`: of the records that reach the hub in the same hub cycle none is left (R398). -/
def functionResetBody (vf : Nat) (s : State) : Option State :=
  let new (l : Launch) : Bool := l.vf == vf && l.st == .queued && s.newLids.contains l.lid
  let s1 := { s with launches := s.launches.filter (!new ·), flrs := s.flrs ++ [vf] }
  some ((s1.launches.filter (·.vf == vf)).foldl (fun s l => flrRecord l s) s1)
def execFunctionLevelReset (vf : Nat) (s : State) : Result := event (decide (vf < 256)) s (functionResetBody vf)

/-! ### Calibration (R155, R390, R399, R400) -/

def bump16 (x : BitVec 16) : BitVec 16 := if x = 0xFFFF then x else x + 1

/-- `CROSSING_CALIBRATION` (R390): an attempt takes one fabric cycle; 4,096 failures in a row lose the link. -/
def crossingCalibrationBody (die e : Nat) (ok : Bool) (s : State) : Option State := do
  let b ← dieBeyond die e
  if ok && (s.getDie die).up && (s.getDie b).up then
    some (modCrossing die e (fun l => { up := true, present := true, retrain := bump16 l.retrain, offset := 16, failing := 0 }) s)
  else
    let s1 := modCrossing die e (fun l =>
      { linkDown l with present := true, retrain := bump16 l.retrain, failing := l.failing + 1 }) s
    some (if ((s1.getDie die).links.toList.getD e LinkStat.reset).failing = 4096 then loseCrossing die e s1 else s1)
def execCrossingCalibration (die e : Nat) (ok : Bool) (s : State) : Result :=
  event (decide (die < 16) && decide (e < 4) && (dieBeyond die e).isSome) s (crossingCalibrationBody die e ok)

/-- The delay of a two-way exchange: half the round trip less the far side's time, rounded up (R399). -/
def exchangeDelay (t1 t2 t3 t4 : Nat) : BitVec 16 :=
  BitVec.ofInt 16 ((((t4 : Int) - t1) - ((t3 : Int) - t2) + 1) / 2)
/-- `SPLINE_EXCHANGE` (R399): values that differ from those in force make the link lost (R393). -/
def splineExchangeBody (p t1 t2 t3 t4 : Nat) (offset : BitVec 6) (s : State) : Option State :=
  let x := s.splines.toList.getD p SplStat.reset
  let d := exchangeDelay t1 t2 t3 t4
  let x1 := { x with present := true, realign := bump16 x.realign }
  let set (y : SplStat) : State := { s with splines := s.splines.set! p y }
  some (if x.up && (x.lat != d || x.off != offset) then loseSpline p (set x1) else set { x1 with up := true, lat := d, off := offset })
def execSplineExchange (p t1 t2 t3 t4 : Nat) (offset : BitVec 6) (s : State) : Result :=
  event (decide (p < 16)) s (splineExchangeBody p t1 t2 t3 t4 offset)

/-! ### Bay retirement (R394) -/

/-- A free spare of the logical bay's column class. -/
def freeSpare (s : State) (bay : Nat) : Option Nat :=
  let d := s.getDie (bay / Config.baysPerDie)
  [640, 641, 642, 643].find? fun p =>
    columnClass (spareColumn p) == columnClass (bayColumn bay) && !d.retired.contains p
      && !d.baymap.any fun bm => bm.2.phys.toNat == p

/-- A free logical bay is in transit while it moves to a spare (R394, step 2). -/
def startRetirement (bay : Nat) (s : State) : State :=
  let b := bay % Config.baysPerDie
  s.modDie (bay / Config.baysPerDie) fun d => d.setBayMap b { d.bayMap b with transit := true }
/-- Point a free logical bay at a spare, out of transit, or take it out of service; the old physical bay is retired. -/
def retireBay (bay : Nat) (s : State) : State :=
  let die := bay / Config.baysPerDie
  let b := bay % Config.baysPerDie
  let spare := freeSpare s bay
  let s1 := s.modDie die fun d =>
    let m := d.bayMap b
    let d1 := { d with retired := d.retired ++ [m.phys.toNat] }
    match spare with
    | some p => d1.setBayMap b { m with phys := BitVec.ofNat 10 p, transit := false, retold := true }
    | none => d1.setBayMap b { m with insrv := false, transit := false }
  let old := ((s.getDie die).bayMap b).phys.toNat
  let s2 := s1.resetWhere (bayOf · == bay)
  { (s2.bayTiles bay).foldl (fun s t => s.modTile t fun tl => { tl with retire := false }) s2 with
    retireRec := s2.retireRec ++ [(die, old, spare.getD noPhys)] }

/-- `BAY_RETIREMENT`: a running launch is pre-empted first; the move happens once the bay is free, in two events. -/
def bayRetirementBody (bay : Nat) (s : State) : Option State :=
  if !retireAsked s bay then none
  else match (s.getBay bay).launch with
  | none =>
    let m := (s.getDie (bay / Config.baysPerDie)).bayMap (bay % Config.baysPerDie)
    some (if m.transit || (freeSpare s bay).isNone then retireBay bay s else startRetirement bay s)
  | some lid => match s.findLaunch lid with
    | some l => if l.st = .running then some (beginSave l s) else none
    | none => none
def execBayRetirement (bay : Nat) (s : State) : Result := event (decide (bay < 10240)) s (bayRetirementBody bay)

/-! ### RDMA at the target (R402 to R404) -/

/-- The tile and slot that a packet's VA names; a row beyond 159 names no tile, and what is written there is lost
(assumption 99). -/
def packetTile (va : VA) : Nat :=
  let y := (va.extractLsb' 43 8).toNat
  if y < 160 then tileAt (va.extractLsb' 59 4).toNat (va.extractLsb' 51 8).toNat y else noTile
def packetSlot (va : VA) : Nat := (va.extractLsb' 40 3).toNat

/-- Write a doubleword at a tile as an access of the named slot, while the tile holds a launch of the tenant (R256). -/
def packetWrite (tenant : Nat) (va : VA) (bs : List Byte) (s : State) : State :=
  let t := packetTile va
  match homeIdentity (s.getTile t) (packetSlot va) tenant with
  | some (g, _) => (match s.spWrite t g (va.extractLsb' 0 15).toNat (bs.map some) with | .ok s' => s' | .error _ => s)
  | none => s

/-- Doublewords of a packet, one after another. -/
def packetWrites (tenant : Nat) : Nat → VA → List Byte → State → State
  | 0, _, _, s => s
  | n + 1, va, bs, s => packetWrites tenant n (va + 8) (bs.drop 8) (packetWrite tenant va (bs.take 8) s)

/-- Connections are found by tenant and source module. -/
def connIndex (s : State) (tenant source : Nat) : Option Nat := s.conns.findIdx? fun c => c.tenant == tenant && c.source == source
def newConn (tenant source : Nat) : Conn := { tenant := tenant, source := source, last := 0, window := [], cached := true }

/-- Connections beyond the 4,096 cached ones are evicted, the oldest first, and the `n`-th kept (R404). -/
def evictConns (n : Nat) (l : List Conn) : List Conn :=
  if (l.filter (·.cached)).length ≤ 4096 then l
  else match l.zipIdx.find? fun ci => ci.1.cached && ci.2 != n with
  | some ci => l.set ci.2 { ci.1 with cached := false }
  | none => l

/-- How far a sequence number lies above the last completed one; 0 or less was completed. -/
def seqAhead (c : Conn) (q : BitVec 32) : Int := (q - c.last).toInt

/-- A connection takes a packet that is new to it: every byte but the flagged doubleword is performed. -/
def takePacket (c : Conn) (p : Packet) (s : State) : Conn × State :=
  let x := (c.window.find? (·.seq == p.seq)).getD { seq := p.seq, total := p.total, got := [], flag := none }
  let final := decide (p.offset + p.bytes.length = p.total)
  let n := if final then p.bytes.length - 8 else p.bytes.length
  let flag := if final then some (p.base + BitVec.ofNat 72 n, p.bytes.drop n) else x.flag
  let y := { x with got := (p.offset, p.bytes.length) :: x.got, flag := flag }
  ({ c with window := (c.window.filter (·.seq != p.seq)) ++ [y] }, packetWrites p.tenant (n / 8) p.base (p.bytes.take n) s)

/-- A packet is discarded: its copy is complete, lies beyond the bitmap, or its offset lies in what has been written. -/
def packetStale (c : Conn) (p : Packet) : Bool :=
  let d := seqAhead c p.seq
  decide (d ≤ 0) || decide (64 < d) ||
    c.window.any fun x => x.seq == p.seq && x.got.any fun g => decide (g.1 ≤ p.offset) && decide (p.offset < g.1 + g.2)

/-- `RDMA_PACKET` (R402, R403): a packet at its target. -/
def packetBody (p : Packet) (s : State) : Option State :=
  let s0 := match connIndex s p.tenant p.source with
    | some _ => s
    | none => { s with conns := evictConns s.conns.length (s.conns ++ [newConn p.tenant p.source]) }
  do
    let i ← connIndex s0 p.tenant p.source
    let c ← s0.conns[i]?
    if packetStale c p then some s0
    else
      let r := takePacket c p s0
      some { r.2 with conns := r.2.conns.set i r.1 }
/-- A packet holds whole doublewords, up to 256 bytes, of a copy that it lies within. -/
def packetOk (p : Packet) : Bool :=
  decide (p.tenant < 512) && decide (p.source < 4096) && decide (0 < p.bytes.length) && decide (p.bytes.length ≤ 256)
    && p.bytes.length % 8 == 0 && p.offset % 8 == 0 && decide (p.offset + p.bytes.length ≤ p.total)
/-- A packet, or an acknowledgement for a copy of this module's (R403). -/
def rdmaPacketBody (x : RdmaIn) (s : State) : Option State :=
  match x with
  | .data p => packetBody p s
  | .ack m tenant seq => some { s with rdmaAcks := s.rdmaAcks ++ [(m, tenant, seq)] }
def rdmaOk : RdmaIn → Bool
  | .data p => packetOk p
  | .ack m tenant _ => decide (m < 4096) && decide (tenant < 512)
def execRdmaPacket (p : RdmaIn) (s : State) : Result := event (rdmaOk p) s (rdmaPacketBody p)

/-- Every byte of the copy has arrived. -/
def RdmaCopy.whole (x : RdmaCopy) : Bool :=
  (List.range (x.total / 8)).all fun j => x.got.any fun g => decide (g.1 ≤ 8 * j) && decide (8 * j + 8 ≤ g.1 + g.2)

/-- `RDMA_FLAG_WRITE` (R402, R403): the next copy of the connection, once it is whole; the source is told. -/
def rdmaFlagWriteBody (n : Nat) (s : State) : Option State := do
  let c ← s.conns[n]?
  let x ← c.window.find? (·.seq == c.last + 1)
  let f ← x.flag
  if x.whole then
    let s1 := packetWrite c.tenant f.1 f.2 s
    some { s1 with conns := s1.conns.set n { c with last := x.seq, window := c.window.filter (·.seq != x.seq) },
                   out := s1.out ++ [.rdmaAck c.source c.tenant x.seq] }
  else none
def execRdmaFlagWrite (n : Nat) (s : State) : Result := event true s (rdmaFlagWriteBody n)

/-- `CONNECTION_MISS` (R404): the state comes back into the cache and another entry is evicted; nothing else changes. -/
def connectionMissBody (n : Nat) (s : State) : Option State := do
  let c ← s.conns[n]?
  if c.cached then none else some { s with conns := evictConns n (s.conns.set n { c with cached := true }) }
def execConnectionMiss (n : Nat) (s : State) : Result := event true s (connectionMissBody n)

end Sys2Proof.Machine
end

