-- ==== Sys2Proof/Machine/Slh.lean ====
section
/-! DEFINITION. SLH-DSA-SHA2-128s (R352, R405, R407), which the spec names and does not define: it is taken from FIPS 205
(assumption 47). The parameters are n = 16, h = 63, d = 7, h' = 9, a = 12, k = 14, lg w = 4 and m = 30. -/

namespace Sys2Proof.Machine

/-- Bytes as a number, the first the most significant. -/
def beNat (bs : List Byte) : Nat := bs.foldl (fun n b => 256 * n + b.toNat) 0
/-- The first `n` digits of `b` bits. -/
def bitDigits (b n : Nat) (bs : List Byte) : List Nat :=
  (List.range n).map fun i => beNat bs / 2 ^ (8 * bs.length - b * (i + 1)) % 2 ^ b

/-- The address of a hash: layer, tree, type and three words. -/
structure HashAddr where
  layer : Nat
  tree  : Nat
  kind  : Nat
  a     : Nat
  b     : Nat
  c     : Nat
deriving DecidableEq, Repr

/-- The compressed address of 22 bytes. -/
def HashAddr.bytes (x : HashAddr) : List Byte :=
  beBytes 1 x.layer ++ beBytes 8 x.tree ++ beBytes 1 x.kind ++ beBytes 4 x.a ++ beBytes 4 x.b ++ beBytes 4 x.c
/-- The tweakable hash, and with a secret seed as its message the function that makes secret values. -/
def tweakHash (seed : List Byte) (x : HashAddr) (m : List Byte) : List Byte :=
  (sha256 (seed ++ List.replicate 48 0 ++ x.bytes ++ m)).take 16

/-! ### One-time signatures -/

/-- `n` steps of a chain from place `i` on. -/
def wotsChain (seed : List Byte) (x : HashAddr) : Nat → Nat → List Byte → List Byte
  | 0, _, v => v
  | n + 1, i, v => wotsChain seed x n (i + 1) (tweakHash seed { x with c := i } v)
/-- The 32 digits of a message, and the three of their checksum. -/
def wotsDigits (m : List Byte) : List Nat :=
  let d := bitDigits 4 32 m
  d ++ bitDigits 4 3 (beBytes 2 (16 * d.foldl (fun n x => n + (15 - x)) 0))
/-- The secret value of chain `i`; the address's first word is the key pair. -/
def wotsSecret (sk seed : List Byte) (x : HashAddr) (i : Nat) : List Byte := tweakHash seed { x with kind := 5, b := i, c := 0 } sk
def wotsCompress (seed : List Byte) (x : HashAddr) (ends : List Byte) : List Byte :=
  tweakHash seed { x with kind := 1, b := 0, c := 0 } ends
def wotsPublic (sk seed : List Byte) (x : HashAddr) : List Byte :=
  wotsCompress seed x ((List.range 35).flatMap fun i => wotsChain seed { x with kind := 0, b := i } 15 0 (wotsSecret sk seed x i))
def wotsSign (sk seed : List Byte) (x : HashAddr) (m : List Byte) : List Byte :=
  (wotsDigits m).zipIdx.flatMap fun di => wotsChain seed { x with kind := 0, b := di.2 } di.1 0 (wotsSecret sk seed x di.2)
/-- The public value that a signature of 560 bytes gives. -/
def wotsFrom (seed : List Byte) (x : HashAddr) (sig m : List Byte) : List Byte :=
  wotsCompress seed x ((wotsDigits m).zipIdx.flatMap fun di =>
    wotsChain seed { x with kind := 0, b := di.2 } (15 - di.1) di.1 ((sig.drop (16 * di.2)).take 16))

/-! ### Trees of one-time keys, and trees over them -/

/-- The node at a height of a tree. -/
def xmssNode (sk seed : List Byte) (x : HashAddr) : Nat → Nat → List Byte
  | 0, i => wotsPublic sk seed { x with kind := 0, a := i }
  | z + 1, i => tweakHash seed { x with kind := 2, a := 0, b := z + 1, c := i }
      (xmssNode sk seed x z (2 * i) ++ xmssNode sk seed x z (2 * i + 1))
def xmssSign (sk seed : List Byte) (x : HashAddr) (m : List Byte) (leaf : Nat) : List Byte :=
  wotsSign sk seed { x with a := leaf } m ++ (List.range 9).flatMap fun j => xmssNode sk seed x j ((leaf / 2 ^ j) ^^^ 1)
/-- A node and its neighbour at height `j` of a path, in their order. -/
def joinPath (seed : List Byte) (x : HashAddr) (j ix : Nat) (node other : List Byte) : List Byte :=
  tweakHash seed { x with b := j + 1, c := ix / 2 ^ (j + 1) } (if ix / 2 ^ j % 2 = 0 then node ++ other else other ++ node)
/-- The root that a signature of 704 bytes gives. -/
def xmssFrom (seed : List Byte) (x : HashAddr) (leaf : Nat) (sig m : List Byte) : List Byte :=
  (List.range 9).foldl (fun node j =>
    joinPath seed { x with kind := 2, a := 0 } j leaf node ((sig.drop (560 + 16 * j)).take 16))
    (wotsFrom seed { x with a := leaf } sig m)

/-- The tree and leaf of each of the seven layers. -/
def layerPlaces (tree leaf : Nat) : List (Nat × Nat × Nat) :=
  (List.range 7).map fun j => (j, tree / 2 ^ (9 * j), if j = 0 then leaf else tree / 2 ^ (9 * (j - 1)) % 512)
def layerAddr (j tree : Nat) : HashAddr := ⟨j, tree, 0, 0, 0, 0⟩
/-- The signatures of the seven layers; each signs the root of the one below. -/
def treeSign (sk seed : List Byte) (m : List Byte) (tree leaf : Nat) : List Byte :=
  ((layerPlaces tree leaf).foldl (fun (acc : List Byte × List Byte) p =>
    let x := layerAddr p.1 p.2.1
    let sig := xmssSign sk seed x acc.2 p.2.2
    (acc.1 ++ sig, xmssFrom seed x p.2.2 sig acc.2)) ([], m)).1
/-- The root that the seven signatures give. -/
def treeFrom (seed : List Byte) (sig m : List Byte) (tree leaf : Nat) : List Byte :=
  (layerPlaces tree leaf).foldl (fun node p =>
    xmssFrom seed (layerAddr p.1 p.2.1) p.2.2 ((sig.drop (704 * p.1)).take 704) node) m

/-! ### The few-time signature of the digest -/

def forsSecret (sk seed : List Byte) (x : HashAddr) (i : Nat) : List Byte := tweakHash seed { x with kind := 6, b := 0, c := i } sk
def forsNode (sk seed : List Byte) (x : HashAddr) : Nat → Nat → List Byte
  | 0, i => tweakHash seed { x with kind := 3, b := 0, c := i } (forsSecret sk seed x i)
  | z + 1, i => tweakHash seed { x with kind := 3, b := z + 1, c := i } (forsNode sk seed x z (2 * i) ++ forsNode sk seed x z (2 * i + 1))
def forsSign (sk seed : List Byte) (x : HashAddr) (md : List Byte) : List Byte :=
  (bitDigits 12 14 md).zipIdx.flatMap fun di =>
    forsSecret sk seed x (4096 * di.2 + di.1) ++ (List.range 12).flatMap fun j =>
      forsNode sk seed x j (di.2 * 2 ^ (12 - j) + ((di.1 / 2 ^ j) ^^^ 1))
/-- The public value that a signature of 2,912 bytes gives. -/
def forsFrom (seed : List Byte) (x : HashAddr) (sig md : List Byte) : List Byte :=
  let root (di : Nat × Nat) : List Byte :=
    let ix := 4096 * di.2 + di.1
    let part := (sig.drop (208 * di.2)).take 208
    (List.range 12).foldl (fun node j => joinPath seed { x with kind := 3 } j ix node ((part.drop (16 + 16 * j)).take 16))
      (tweakHash seed { x with kind := 3, b := 0, c := ix } (part.take 16))
  tweakHash seed { x with kind := 4, b := 0, c := 0 } ((bitDigits 12 14 md).zipIdx.flatMap root)

/-! ### The scheme -/

/-- A key pair: the secret seed, the key of the message randomizer, the public seed, and the root. -/
structure SlhKey where
  skSeed : List Byte
  skPrf  : List Byte
  pkSeed : List Byte
  pkRoot : List Byte

/-- The key pair of 48 bytes: SK.seed, SK.prf and PK.seed in this order. -/
def slhKey (bs : List Byte) : SlhKey :=
  let sk := bs.take 16
  let seed := (bs.drop 32).take 16
  ⟨sk, (bs.drop 16).take 16, seed, xmssNode sk seed (layerAddr 6 0) 9 0⟩
/-- The public key's 32 bytes. -/
def SlhKey.public (k : SlhKey) : List Byte := k.pkSeed ++ k.pkRoot

/-- The 30 bytes that a message and its randomizer hash to. -/
def slhDigest (r pkSeed pkRoot m : List Byte) : List Byte :=
  (sha256 (r ++ pkSeed ++ sha256 (r ++ pkSeed ++ pkRoot ++ m) ++ List.replicate 4 0)).take 30
/-- The digest's tree and leaf. -/
def digestTree (d : List Byte) : Nat := beNat ((d.drop 21).take 7) % 2 ^ 54
def digestLeaf (d : List Byte) : Nat := beNat ((d.drop 28).take 2) % 512
def forsAddr (d : List Byte) : HashAddr := ⟨0, digestTree d, 3, digestLeaf d, 0, 0⟩
/-- A message as the scheme signs it, with an empty context. -/
def slhMessage (m : List Byte) : List Byte := 0#8 :: 0#8 :: m

/-- Sign a message with 16 bytes of randomness: 7,856 bytes. -/
def slhSign (k : SlhKey) (rand m : List Byte) : List Byte :=
  let m1 := slhMessage m
  let r := (hmac k.skPrf (rand ++ m1)).take 16
  let d := slhDigest r k.pkSeed k.pkRoot m1
  let fors := forsSign k.skSeed k.pkSeed (forsAddr d) (d.take 21)
  r ++ fors ++ treeSign k.skSeed k.pkSeed (forsFrom k.pkSeed (forsAddr d) fors (d.take 21)) (digestTree d) (digestLeaf d)
/-- Check a signature against a public key of 32 bytes. -/
def slhVerify (pk m sig : List Byte) : Bool :=
  let seed := pk.take 16
  let root := pk.drop 16
  let d := slhDigest (sig.take 16) seed root (slhMessage m)
  let node := forsFrom seed (forsAddr d) ((sig.drop 16).take 2912) (d.take 21)
  pk.length == 32 && sig.length == 7856 && treeFrom seed (sig.drop 2928) node (digestTree d) (digestLeaf d) == root

end Sys2Proof.Machine
end

