-- ==== Sys2Proof/Machine/Boot.lean ====
section
/-! DEFINITION. Hub reset and the boot sequence (R405 to R408), measurements, attestation (R409) and metering
snapshots (R352). -/

namespace Sys2Proof.Machine

/-! ### Measurements (R406) -/

/-- Extend a measurement register by a digest. -/
def extendMeas (i : Nat) (m : List Byte) (s : State) : State :=
  { s with meas := s.meas.set! i (digestOf (sha256 (digestBytes (s.meas.toList.getD i 0) ++ m))) }
/-- `MEAS_EXTEND`: the runtime extends MEAS5 to MEAS7 for the host, once it runs (R405, step 5). -/
def measExtendBody (i : Nat) (m : BitVec 256) (s : State) : Option State :=
  if 5 ≤ i ∧ 5 ≤ s.boot.stage then some (extendMeas i (digestBytes m) s) else none
def execMeasExtend (i : Nat) (m : BitVec 256) (s : State) : Result := event (decide (i < 8)) s (measExtendBody i m)

/-! ### Verified firmware (Table 27.1) -/

def Firmware.header (f : Firmware) : List Byte := Config.headerBytes f.length f.svn f.key
/-- Steps 2 and 3 on an image: 0, or the failure code. -/
def verifyImage (s : State) (f : Firmware) : Nat :=
  if digestOf (sha256 f.key) ≠ s.fuseKey then 2
  else if f.svn < s.fuseSvn then 4
  else if !slhVerify f.key (f.header ++ f.image) f.sig then 3
  else 0

def setStage (n : Nat) (s : State) : State := { s with boot := { s.boot with stage := BitVec.ofNat 8 n } }
def setErr (n : Nat) (s : State) : State := { s with boot := { s.boot with err := BitVec.ofNat 8 n } }

/-- Verify and measure an image of the flash: an absent one has no key that matches. -/
def takeImage (i : Nat) (s : State) : Except Nat State :=
  match s.flash[i]? with
  | none => .error 2
  | some f =>
    let c := verifyImage s f
    if c ≠ 0 then .error c else .ok (extendMeas i (sha256 (f.header ++ f.image)) s)

/-- Steps 1 to 4. -/
def bootFirst (s : State) : Except (Nat × State) State :=
  match s.flash[0]? with
  | none => .error (1, s)
  | some f =>
    if 2 ^ 20 < f.length then .error (1, s)
    else match takeImage 0 (setStage 1 s) with
    | .error c => .error (c, setStage (if c = 3 then 2 else 1) s)
    | .ok s1 => .ok (setStage 4 { s1 with boot := { s1.boot with svn := f.svn } })

/-- Step 5: the reeve runtime, the power firmware, and the device runtime. -/
def bootStages (s : State) : Except (Nat × State) State :=
  [1, 2, 3].foldl (fun acc i => match acc with
    | .ok s => (match takeImage i s with | .ok s' => .ok s' | .error c => .error (c, s))
    | e => e) (.ok s)

/-! ### Die bring-up (R408) -/

/-- Granary dies in service: those whose UCIe link calibrates (R408, step 5). -/
def granUp (s : State) : BitVec 8 := s.okGran
def diesUp (s : State) : BitVec 16 := s.okDies &&& s.okStacks

/-- Calibrate the crossings whose dies are both up. -/
def calibrateAll (s : State) : State :=
  (List.range 16).foldl (fun s d => [1, 2].foldl (fun s e => (crossingCalibrationBody d e true s).getD s) s) s

/-- Align the spline links whose peers answer (R408, step 7): the values that the exchange finds are free. -/
def alignSplines (s : State) : State :=
  { s with
    free := s.free + 1
    splines := Vector.ofFn fun p =>
      if s.okSplines.getLsbD p then
        { up := true, present := true, realign := bump16 s.splines[p].realign, lat := Config.splineDelay s.free p,
          off := Config.splineOffset s.free p }
      else s.splines[p] }

/-- R408: a die whose stack or reset fails stays down. -/
def bringUp (s : State) : State :=
  let s1 := (List.range 16).foldl (fun s d => (dieResetBody d s).getD s) s
  let s2 := calibrateAll s1
  alignSplines { s2 with boot := { s2.boot with dies := diesUp s, gran := granUp s } }

/-- What hub reset leaves of the module: its flash and fuses, its memory, what has been counted and sent, and what the
outside has still to do. -/
def hubCleared (s : State) : State :=
  { State.reset with
    mem := s.mem, badBulk := s.badBulk, meters := s.meters, snapSeq := s.snapSeq, modNo := s.modNo, identity := s.identity,
    flash := s.flash, fuseKey := s.fuseKey, fuseSvn := s.fuseSvn, secret := s.secret, okStacks := s.okStacks,
    okDies := s.okDies, okGran := s.okGran, okSplines := s.okSplines, retireRec := s.retireRec, out := s.out, turns := s.turns, uid := s.uid, free := s.free }

/-! ### Keys (R407) -/

def infoBytes (x : String) : List Byte := x.toList.map fun c => BitVec.ofNat 8 c.toNat
/-- The 48 bytes of the identity key and of the metering key. -/
def identitySeed (s : State) : List Byte := hkdf48 (List.replicate 32 0) s.secret (infoBytes "ident")
def meteringSeed (s : State) : List Byte :=
  hkdf48 (sha256 ((s.meas.toList.take 4).flatMap digestBytes)) s.secret (infoBytes "meter")
/-- A signature with the key of some 48 bytes; its randomness is free (assumption 47). -/
def sign (seed body : List Byte) (s : State) : List Byte :=
  slhSign (slhKey seed) (beBytes 16 (Config.signRand s.free).toNat) body
/-- Step 6: the keys, and the metering key's certificate under the identity key. -/
def deriveKeys (s : State) : State :=
  let body := Config.meteringBody (slhKey (meteringSeed s)).public
  { s with keys := some ⟨identitySeed s, meteringSeed s, body ++ sign (identitySeed s) body s⟩, free := s.free + 1 }

/-- The boot sequence, or recovery with the failure code in BOOTSTAT. -/
def boot (s : State) : State :=
  match bootFirst s with
  | .error (c, s1) => setErr c s1
  | .ok s1 => match bootStages s1 with
    | .error (c, s2) => setErr c s2
    | .ok s2 =>
      let s3 := bringUp (setStage 6 (deriveKeys s2))
      if s3.boot.dies = 0 then setErr 5 s3
      else setStage 8 (extendMeas 4 (sha256 (Config.bringUpRecord s3.boot.dies s3.boot.gran)) s3)

/-- `HUB_RESET` (R405). -/
def hubResetBody (s : State) : Option State := some (boot (hubCleared s))
def execHubReset (s : State) : Result := event true s hubResetBody

/-! ### Snapshots (R352) -/

/-- The 192-byte body. -/
def snapshotBody (s : State) (tenant : Nat) (nonce : BitVec 256) : List Byte :=
  bytesOfNat 8 tenant ++ bytesOf 8 s.snapSeq ++ digestBytes nonce ++ bytesOf 8 s.hubCyc
    ++ (s.identity ++ List.replicate 8 0).take 8 ++ (List.range 16).flatMap fun i => bytesOf 8 (counterOf s tenant i)
/-- `METERING_SNAPSHOT`: none before the boot has derived the metering key. -/
def meteringSnapshotBody (tenant : Nat) (nonce : BitVec 256) (s : State) : Option State := do
  let k ← s.keys
  let s1 := { s with snapSeq := s.snapSeq + 1, free := s.free + 1 }
  let body := snapshotBody s1 tenant nonce
  some { s1 with out := s1.out ++ [.snapshot body (sign k.metering body s)] }
def execMeteringSnapshot (tenant : Nat) (nonce : BitVec 256) (s : State) : Result :=
  event (decide (tenant < 512)) s (meteringSnapshotBody tenant nonce)

/-! ### Attestation (R409) -/

def answer (o : Out) (s : State) : Option State := some { s with out := s.out ++ [o] }
/-- The certificate chain of slot 0, the identity certificate issued at manufacture, and of slot 1, which adds the metering
key's under it once the boot has derived the keys (R407). -/
def chain (s : State) (i : Nat) : Option (List Byte) :=
  let root := Config.identityCert (slhKey (identitySeed s)).public
  match i with
  | 0 => some root
  | 1 => s.keys.map fun k => root ++ k.cert
  | _ => none
/-- The error codes of SPDM 1.3 that the responder uses (assumption 105). -/
def invalidRequest : Nat := 1
def unsupportedRequest : Nat := 7

def execGetVersion (s : State) : Result := event true s (answer .spdmVersion)
def execGetCapabilities (s : State) : Result := event true s (answer .spdmCapabilities)
def execNegotiateAlgorithms (s : State) : Result := event true s (answer (.spdmAlgorithms [.sha256, .stolnelSlhDsaSha2_128s]))
/-- `GET_DIGESTS`. -/
def execGetDigests (s : State) : Result :=
  event true s fun s => answer (.spdmDigests (([0, 1].filterMap (chain s)).map fun c => digestOf (sha256 c))) s
/-- `GET_CERTIFICATE`: a slot that holds no chain is answered with an error. -/
def execGetCertificate (i : Nat) (s : State) : Result :=
  event true s fun s => answer (match chain s i with | some c => .spdmCertificate i c | none => .spdmError invalidRequest) s
/-- `CHALLENGE`, signed with the key of the slot: 0 the identity key, 1 the metering key. -/
def challengeAnswer (c : Challenge) (s : State) : Out :=
  match s.keys, decide (c.slot < 2) with
  | some k, true =>
    .spdmChallenge c.slot (sign (if c.slot = 0 then k.identity else k.metering) (Config.challengeBody c.slot (digestBytes c.nonce)) s)
  | _, _ => .spdmError invalidRequest
def execChallenge (c : Challenge) (s : State) : Result :=
  event true s fun s => answer (challengeAnswer c s) { s with free := s.free + 1 }
/-- `GET_MEASUREMENTS`: one register, or all eight, copied at once. -/
def measBlocks (i : Nat) (s : State) : Out :=
  if i = 0xFF then .spdmMeasurements s.meas.toList
  else if 1 ≤ i ∧ i ≤ 8 then .spdmMeasurements [s.meas.toList.getD (i - 1) 0]
  else .spdmError invalidRequest
def execGetMeasurements (i : Nat) (s : State) : Result := event true s fun s => answer (measBlocks i s) s
/-- Any other request code. -/
def execSpdmUnsupported (code : Nat) (s : State) : Result := event true s fun s => let _ := code; answer (.spdmError unsupportedRequest) s

end Sys2Proof.Machine
end

