-- ==== Sys2Proof/Machine/Scalar.lean ====
section
/-! DEFINITION. FALU (R102 to R105). -/

namespace Sys2Proof.Machine

/-- The format that sz selects (R102). -/
def faluFmt (sz : BitVec 2) : Fmt := match sz with | 0#2 => bf16 | 1#2 => fp16 | _ => fp32
/-- The operand's bytes. -/
def faluBytes (sz : BitVec 2) : Nat := match sz with | 2#2 => 4 | _ => 2

/-- A's low bits in a format. -/
def lowBits (f : Fmt) (a : DWord) : Nat := a.toNat % 2 ^ f.width
/-- Write A from an encoding, with higher bits zero (R102). -/
def setA (s : State) (r : DWord) : State := s.setBank { s.bank with a := r }

/-- A member with one operand: A becomes the encoding of its result. -/
def faluBody (g : Fmt → Nat → Nat → Nat) (o : SOp) (s : State) : Body := do
  holdW o.w s
  let f := faluFmt o.sz
  let x ← srcRead o (o.ea s.bank) (faluBytes o.sz) s
  .ok (srcDone o false (setA s (BitVec.ofNat 64 (g f (lowBits f s.bank.a) x.toNat))))

/-- `FMA` (Table 5.9): the first operand, then [Pq]. -/
def fmaBody (o : SOp) (s : State) : Body := do
  holdW o.w s
  let f := faluFmt o.sz
  let n := faluBytes o.sz
  let x ← srcRead o (o.eaSplit s.bank) n s
  let y ← memRead s (o.ea2 s.bank) n n
  .ok (srcDone o true (setA s (BitVec.ofNat 64 (f.fma (lowBits f s.bank.a) x.toNat (leNat y)))))

/-- `FCMP` (R103): the flags only. -/
def fcmpBody (o : SOp) (s : State) : Body := do
  holdW o.w s
  let f := faluFmt o.sz
  let x ← srcRead o (o.ea s.bank) (faluBytes o.sz) s
  .ok (srcDone o false (s.setBank { s.bank with f := fcmpFlags (f.frel (lowBits f s.bank.a) x.toNat) s.bank.f }))

/-- An in-place member (R83): A becomes a function of A. -/
def inPlaceA (o : SOp) (g : DWord → DWord) (s : State) : Body := do
  holdW o.w s
  .ok (setA s (g s.bank.a))

/-- `FSGN` (R105): clear, invert or set the sign bit; the other bits of the format pass unchanged. -/
def fsgn (f : Fmt) (k : BitVec 2) (a : DWord) : DWord :=
  let x := BitVec.ofNat 64 (lowBits f a)
  let sign := BitVec.ofNat 64 (2 ^ (f.width - 1))
  match k with
  | 0#2 => x &&& ~~~sign
  | 1#2 => x ^^^ sign
  | _ => x ||| sign

/-- `FADD` (Table 5.9). -/
def execFadd (o : SOp) (s : State) : Result := word (.fadd o) useA s (faluBody Fmt.fadd o)
/-- `FSUB` (Table 5.9). -/
def execFsub (o : SOp) (s : State) : Result := word (.fsub o) useA s (faluBody Fmt.fsub o)
/-- `FMUL` (Table 5.9). -/
def execFmul (o : SOp) (s : State) : Result := word (.fmul o) useA s (faluBody Fmt.fmul o)
/-- `FMIN` (Table 5.9). -/
def execFmin (o : SOp) (s : State) : Result := word (.fmin o) useA s (faluBody (fun f => f.minMax false) o)
/-- `FMAX` (Table 5.9). -/
def execFmax (o : SOp) (s : State) : Result := word (.fmax o) useA s (faluBody (fun f => f.minMax true) o)
/-- `FDIV` (Table 5.9). -/
def execFdiv (o : SOp) (s : State) : Result := word (.fdiv o) useA s (faluBody Fmt.fdiv o)
/-- `FMA`. -/
def execFma (o : SOp) (s : State) : Result := word (.fma o) useA s (fmaBody o)
/-- `FSQRT`. -/
def execFsqrt (o : SOp) (s : State) : Result :=
  word (.fsqrt o) useA s (inPlaceA o fun a =>
    BitVec.ofNat 64 ((faluFmt o.sz).fsqrt (lowBits (faluFmt o.sz) a)))
/-- `FCMP`. -/
def execFcmp (o : SOp) (s : State) : Result := word (.fcmp o) useAF s (fcmpBody o)
/-- `FCVT` (R104). -/
def execFcvt (o : SOp) (s : State) : Result :=
  word (.fcvt o) useA s (inPlaceA o fun a => convert o.d a.toNat)
/-- `FSGN` (R105). -/
def execFsgn (o : SOp) (s : State) : Result :=
  word (.fsgn o) useA s (inPlaceA o (fsgn (faluFmt o.sz) (o.d.extractLsb' 0 2)))

end Sys2Proof.Machine
end

