-- ==== Sys2Proof/Machine/VectorOps.lean ====
section
/-! DEFINITION. VALU, VFPU and VDATA (R106 to R111). -/

namespace Sys2Proof.Machine

/-- Write V of the issuing bank. -/
def setV (s : State) (v : Vector Word 8) : State := s.setBank { s.bank with v := v }
/-- A function of V and an operand, lane by lane. -/
def zipLanes (g : Word → Word → Word) (v x : Vector Word 8) : Vector Word 8 := vec8 fun i => g v[i] x[i]
def mapLanes (g : Word → Word) (v : Vector Word 8) : Vector Word 8 := vec8 fun i => g v[i]

/-- A VALU member (R106): enabled lanes only. -/
def valuBody (g : Word → Word → Word) (o : SOp) (s : State) : Body := do
  holdW o.w s
  let x ← vecSrc o (o.ea s.bank) false s
  .ok (srcDone o false (setV s (maskLanes s.bank.f.m s.bank.v (zipLanes g s.bank.v (mapLanes (intLane o.sz) x)))))

/-- `VMAC`: V + low 32 bits of x · y. -/
def vmacBody (o : SOp) (s : State) : Body := do
  holdW o.w s
  let x ← vecSrc o (o.eaSplit s.bank) false s
  let y ← vecMem o.sz (o.ea2 s.bank) false s
  let p := zipLanes (· * ·) (mapLanes (intLane o.sz) x) (vec8 fun i => intLane o.sz (elemBits o.sz y i))
  .ok (srcDone o true (setV s (maskLanes s.bank.f.m s.bank.v (zipLanes (· + ·) s.bank.v p))))

/-- `VSEL` (R106): M selects, and all eight lanes are read and written. -/
def vselBody (o : SOp) (s : State) : Body := do
  holdW o.w s
  let x ← vecSrc o (o.ea s.bank) true s
  .ok (srcDone o false (setV s (maskLanes s.bank.f.m (mapLanes (intLane o.sz) x) s.bank.v)))

/-- −1, 0 or +1 as the first is less than, equal to or greater than the second, signed. -/
def cmpLane (a x : Word) : Word := if a.toInt < x.toInt then 0xFFFFFFFF else if a = x then 0 else 1

/-- `VADD` (Table 5.13). -/
def execVadd (o : SOp) (s : State) : Result := word (.vadd o) useV s (valuBody (· + ·) o)
/-- `VSUB` (Table 5.13). -/
def execVsub (o : SOp) (s : State) : Result := word (.vsub o) useV s (valuBody (· - ·) o)
/-- `VMUL` (Table 5.13). -/
def execVmul (o : SOp) (s : State) : Result := word (.vmul o) useV s (valuBody (· * ·) o)
/-- `VMIN` (Table 5.13). -/
def execVmin (o : SOp) (s : State) : Result := word (.vmin o) useV s (valuBody (fun a x => if a.toInt ≤ x.toInt then a else x) o)
/-- `VMAX` (Table 5.13). -/
def execVmax (o : SOp) (s : State) : Result := word (.vmax o) useV s (valuBody (fun a x => if a.toInt ≤ x.toInt then x else a) o)
/-- `VAND` (Table 5.13). -/
def execVand (o : SOp) (s : State) : Result := word (.vand o) useV s (valuBody (· &&& ·) o)
/-- `VOR` (Table 5.13). -/
def execVor (o : SOp) (s : State) : Result := word (.vor o) useV s (valuBody (· ||| ·) o)
/-- `VXOR` (Table 5.13). -/
def execVxor (o : SOp) (s : State) : Result := word (.vxor o) useV s (valuBody (· ^^^ ·) o)
/-- `VSHL` (Table 5.13). -/
def execVshl (o : SOp) (s : State) : Result := word (.vshl o) useV s (valuBody (fun a x => a <<< (x.toNat % 32)) o)
/-- `VSHR` (Table 5.13). -/
def execVshr (o : SOp) (s : State) : Result := word (.vshr o) useV s (valuBody (fun a x => a >>> (x.toNat % 32)) o)
/-- `VSRA` (Table 5.13). -/
def execVsra (o : SOp) (s : State) : Result := word (.vsra o) useV s (valuBody (fun a x => a.sshiftRight (x.toNat % 32)) o)
/-- `VCMP` (Table 5.13). -/
def execVcmp (o : SOp) (s : State) : Result := word (.vcmp o) useV s (valuBody cmpLane o)
/-- `VMAC` (Table 5.13). -/
def execVmac (o : SOp) (s : State) : Result := word (.vmac o) useV s (vmacBody o)
/-- `VSEL` (Table 5.13). -/
def execVsel (o : SOp) (s : State) : Result := word (.vsel o) useV s (vselBody o)

/-! ### VFPU (R107) -/

/-- A floating-point lane: bits of an element type widened exactly to FP32 (R48, R81). -/
def floatLane (et : BitVec 2) (x : Word) : Nat :=
  match et with
  | 1#2 => fp32.encode 0 (bf16.decode (x.toNat % 65536))
  | 2#2 => fp32.encode 0 (e4m3.decode (x.toNat % 256))
  | _ => x.toNat

/-- Lanes from a function of encodings. -/
def zipFloat (g : Nat → Nat → Nat) (v x : Vector Word 8) : Vector Word 8 :=
  zipLanes (fun a b => BitVec.ofNat 32 (g a.toNat b.toNat)) v x

/-- The operand's lanes as FP32. -/
def floatLanes (et : BitVec 2) (x : Vector Word 8) : Vector Word 8 := mapLanes (fun w => BitVec.ofNat 32 (floatLane et w)) x

/-- A VFPU member with one operand: enabled lanes only. -/
def vfpuBody (g : Nat → Nat → Nat) (o : SOp) (s : State) : Body := do
  holdW o.w s
  let x ← vecSrc o (o.ea s.bank) false s
  .ok (srcDone o false (setV s (maskLanes s.bank.f.m s.bank.v (zipFloat g s.bank.v (floatLanes o.sz x)))))

/-- `VFMA`: one rounding of V + x · y. -/
def vfmaBody (o : SOp) (s : State) : Body := do
  holdW o.w s
  let x ← vecSrc o (o.eaSplit s.bank) false s
  let y ← vecMem o.sz (o.ea2 s.bank) false s
  let fx := floatLanes o.sz x
  let fy := floatLanes o.sz (vec8 fun i => elemBits o.sz y i)
  .ok (srcDone o true (setV s (maskLanes s.bank.f.m s.bank.v
    (vec8 fun i => BitVec.ofNat 32 (fp32.fma s.bank.v[i].toNat fx[i].toNat fy[i].toNat)))))

/-- `VFCMP`: −1, 0, +1, or +2 for unordered. -/
def vfcmpLane (a x : Nat) : Nat :=
  match fp32.frel a x with | .less => 0xFFFFFFFF | .equal => 0 | .greater => 1 | .unordered => 2

/-- An in-place vector member (R83): enabled lanes become a function of themselves. -/
def inPlaceV (o : SOp) (g : Word → Nat) (s : State) : Body := do
  holdW o.w s
  .ok (setV s (maskLanes s.bank.f.m s.bank.v (mapLanes (fun w => BitVec.ofNat 32 (g w)) s.bank.v)))

/-- `VFADD` (Table 5.14). -/
def execVfadd (o : SOp) (s : State) : Result := word (.vfadd o) useV s (vfpuBody fp32.fadd o)
/-- `VFSUB` (Table 5.14). -/
def execVfsub (o : SOp) (s : State) : Result := word (.vfsub o) useV s (vfpuBody fp32.fsub o)
/-- `VFMUL` (Table 5.14). -/
def execVfmul (o : SOp) (s : State) : Result := word (.vfmul o) useV s (vfpuBody fp32.fmul o)
/-- `VFMIN` (Table 5.14). -/
def execVfmin (o : SOp) (s : State) : Result := word (.vfmin o) useV s (vfpuBody (fp32.minMax false) o)
/-- `VFMAX` (Table 5.14). -/
def execVfmax (o : SOp) (s : State) : Result := word (.vfmax o) useV s (vfpuBody (fp32.minMax true) o)
/-- `VFCMP` (Table 5.14). -/
def execVfcmp (o : SOp) (s : State) : Result := word (.vfcmp o) useV s (vfpuBody vfcmpLane o)
/-- `VFMA` (Table 5.14). -/
def execVfma (o : SOp) (s : State) : Result := word (.vfma o) useV s (vfmaBody o)
/-- `VFCVT` (Table 5.14): the low 32 bits of R104's destination. -/
def execVfcvt (o : SOp) (s : State) : Result :=
  word (.vfcvt o) useV s (inPlaceV o fun w => (convert o.d w.toNat).toNat % 2 ^ 32)
/-- `VFRCP` (R55, R56). -/
def execVfrcp (o : SOp) (s : State) : Result := word (.vfrcp o) useV s (inPlaceV o vfrcp)
/-- `VFRSQ` (R55, R56). -/
def execVfrsq (o : SOp) (s : State) : Result := word (.vfrsq o) useV s (inPlaceV o vfrsq)
/-- `VFEXP` (R55, R56). -/
def execVfexp (o : SOp) (s : State) : Result := word (.vfexp o) useV s (inPlaceV o vfexp)
/-- `VFLOG` (R55, R56). -/
def execVflog (o : SOp) (s : State) : Result := word (.vflog o) useV s (inPlaceV o vflog)

/-! ### VDATA (R108 to R111) -/

/-- `VLD`. -/
def vldBody (o : SOp) (s : State) : Body := do
  holdW o.w s
  let x ← vecSrc o (o.ea s.bank) false s
  .ok (srcDone o false (setV s (maskLanes s.bank.f.m s.bank.v (mapLanes (intLane o.sz) x))))
/-- `VLD` (R108). -/
def execVld (o : SOp) (s : State) : Result := word (.vld o) useV s (vldBody o)

/-- The bytes that `VST` stores: each enabled lane's low bytes, nothing for a disabled lane. -/
def vstBytes (et : BitVec 2) (m : BitVec 8) (v : Vector Word 8) : List (Option Byte) :=
  (List.range 8).flatMap fun i =>
    (bytesOf (elemBytes et) (v.toList.getD i 0)).map fun b => if m.getLsbD i then some b else none

/-- `VST` (R82, R108): range and alignment always; with M = 0 no granule is checked and no byte moves. -/
def vstBody (o : SOp) (s : State) : Body := do
  holdW o.w s
  let n := vecBytes o.sz
  let ea := o.ea s.bank
  if s.bank.f.m = 0 then do
    let _ ← liftT (spAddr ea n n)
    .ok (srcDone o false s)
  else do
    let s' ← memWrite s ea n (vstBytes o.sz s.bank.f.m s.bank.v)
    .ok (srcDone o false s')
/-- `VST` (R108). -/
def execVst (o : SOp) (s : State) : Result := word (.vst o) useV s (vstBody o)

/-- `VSPLAT`: enabled lanes ← A[31:0]. -/
def execVsplat (o : SOp) (s : State) : Result :=
  word (.vsplat o) useAV s fun s => do
    holdW o.w s
    .ok (setV s (maskLanes s.bank.f.m s.bank.v (vec8 fun _ => s.bank.a.extractLsb' 0 32)))

/-- The lane that d12[2:0] names. -/
def laneOf (o : SOp) : Fin 8 := ⟨(o.d.extractLsb' 0 3).toNat, (o.d.extractLsb' 0 3).isLt⟩

/-- `VEXT`: A ← sext of a lane, whatever M holds. -/
def execVext (o : SOp) (s : State) : Result :=
  word (.vext o) useAV s fun s => do
    holdW o.w s
    .ok (setA s (s.bank.v[laneOf o].signExtend 64))

/-- `VINS`: a lane ← A[31:0] when M enables it. -/
def execVins (o : SOp) (s : State) : Result :=
  word (.vins o) useAV s fun s => do
    holdW o.w s
    .ok (if s.bank.f.m.getLsbD (laneOf o) then setV s (s.bank.v.set (laneOf o) (s.bank.a.extractLsb' 0 32)) else s)

/-- `VPERM`: V[i] ← W[x[i] AND 7] for enabled lanes. -/
def vpermBody (o : SOp) (s : State) : Body := do
  holdW o.w s
  let x ← vecSrc o (o.ea s.bank) false s
  let w := s.bank.v
  .ok (srcDone o false (setV s (maskLanes s.bank.f.m w
    (vec8 fun i => w[((intLane o.sz x[i]).extractLsb' 0 3).toNat]'((intLane o.sz x[i]).extractLsb' 0 3).isLt))))
/-- `VPERM` (R109). -/
def execVperm (o : SOp) (s : State) : Result := word (.vperm o) useV s (vpermBody o)

/-- `VSLIDE`: V[i] ← W[i + s] where that lane exists, and A[31:0] otherwise, for enabled lanes. -/
def execVslide (o : SOp) (s : State) : Result :=
  word (.vslide o) useAV s fun s => do
    holdW o.w s
    let w := s.bank.v
    let d := (o.d.extractLsb' 0 4).toInt
    .ok (setV s (maskLanes s.bank.f.m w (vec8 fun i =>
      if 0 ≤ (i.val : Int) + d ∧ (i.val : Int) + d ≤ 7 then w.toList.getD ((i.val : Int) + d).toNat 0
      else s.bank.a.extractLsb' 0 32)))

/-- The enabled lanes in ascending order (R110). -/
def enabledLanes (b : Bank) : List Word :=
  (List.range 8).filterMap fun i => if b.f.m.getLsbD i then b.v.toList[i]? else none

/-- Where a floating-point reduction starts: the first lane, a NaN as the canonical one (R44, assumption 19). -/
def firstLane (x : Word) : Nat := match fp32.decode x.toNat with | .nan => fp32.nan | _ => x.toNat

/-- `VSUM` (R110): an exact int64 sum, or a left fold of rounded FP32 sums. -/
def vsum (float : Bool) (ls : List Word) : DWord :=
  if float then
    match ls with
    | [] => 0
    | x :: r => BitVec.ofNat 64 (r.foldl (fun acc y => fp32.fadd acc y.toNat) (firstLane x))
  else BitVec.ofInt 64 (ls.foldl (fun acc y => acc + y.toInt) (0 : Int))

/-- `VMAXR` (R110). -/
def vmaxr (float : Bool) (ls : List Word) : DWord :=
  match ls with
  | [] => if float then 0xFF800000 else BitVec.ofInt 64 (-2147483648)
  | x :: r =>
    if float then BitVec.ofNat 64 (r.foldl (fun acc y => fp32.minMax true acc y.toNat) (firstLane x))
    else BitVec.ofInt 64 (r.foldl (fun acc y => max acc y.toInt) x.toInt)

/-- `VSUM` (R110). -/
def execVsum (o : SOp) (s : State) : Result :=
  word (.vsum o) useAV s fun s => do
    holdW o.w s
    .ok (setA s (vsum (o.d.getLsbD 0) (enabledLanes s.bank)))
/-- `VMAXR` (R110). -/
def execVmaxr (o : SOp) (s : State) : Result :=
  word (.vmaxr o) useAV s fun s => do
    holdW o.w s
    .ok (setA s (vmaxr (o.d.getLsbD 0) (enabledLanes s.bank)))

/-- The lane conditions 0 to 5 of Table 5.15. -/
def laneTest (c : BitVec 3) (w : Word) : Bool :=
  match c with
  | 0#3 => w == 0
  | 1#3 => w != 0
  | 2#3 => decide (w.toInt < 0)
  | 3#3 => decide (0 ≤ w.toInt)
  | 4#3 => decide (0 < w.toInt)
  | _ => decide (w.toInt ≤ 0)

/-- M from a test of all eight lanes. -/
def maskFrom (c : BitVec 3) (v : Vector Word 8) : BitVec 8 :=
  BitVec.ofNat 8 ((List.range 8).foldl (fun n i => n + if laneTest c (v.toList.getD i 0) then 2 ^ i else 0) 0)

/-- `VMASK` (Table 5.15). -/
def vmaskBody (c : BitVec 3) (s : State) : State :=
  let b := s.bank
  if c = 7 then setA s (b.f.m.zeroExtend 64)
  else s.setBank { b with f := { b.f with m := if c = 6 then b.a.extractLsb' 0 8 else maskFrom c b.v } }
/-- What of A and V `VMASK` reads or writes (Table 5.15). -/
def vmaskUses (c : BitVec 3) : Uses := if c = 6 ∨ c = 7 then useA else useV
/-- `VMASK` (R111). -/
def execVmask (o : SOp) (s : State) : Result :=
  word (.vmask o) (vmaskUses (o.d.extractLsb' 0 3)) s fun s => do
    holdW o.w s
    .ok (vmaskBody (o.d.extractLsb' 0 3) s)

end Sys2Proof.Machine
end

