-- ==== Sys2Proof/Machine/Latency.lean ====
section
/-! DEFINITION. Latencies and what depends on what (R112, R113; Tables 5.17, 9.7, 13.3, 17.6, 22.4). -/

namespace Sys2Proof.Machine

/-! ### State items (R112), by number -/

def itemA : Nat := 0
def itemV : Nat := 1
def itemF : Nat := 2
def itemM : Nat := 3
def itemP (p : BitVec 3) : Nat := 4 + p.toNat
/-- Everything: what follows a control transfer waits, whatever it uses. The return stack and the repeat frame are
written by control transfers alone, or in one tile cycle. -/
def itemAll : Nat := 12
/-- The supervisor bank's items follow the user bank's, and then the scratchpad's bytes. -/
def bankItem (priv : Bool) (k : Nat) : Nat := if priv then k + 16 else k
def byteItem (a : Nat) : Nat := 32 + a

/-- What an instruction reads or writes: the items it reads only, the items it writes, and the spans of its scratchpad
that it reads and writes. -/
structure Touch where
  used   : List Nat
  out    : List Nat
  reads  : List (Nat × Nat)
  writes : List (Nat × Nat)
deriving DecidableEq, Repr

def Touch.none : Touch := ⟨[], [], [], []⟩
/-- Items alone. -/
def Touch.items (used out : List Nat) : Touch := ⟨used, out, [], []⟩
def Touch.with (t : Touch) (used out : List Nat) : Touch := { t with used := used ++ t.used, out := out ++ t.out }

/-- Pointers that form an address, written too where the form advances them. -/
def addrTouch (i : Bool) (ps : List (BitVec 3)) (reads writes : List (Nat × Nat)) : Touch :=
  ⟨ps.map itemP, if i then ps.map itemP else [], reads, writes⟩

/-- A scalar operand of `n` bytes (Table 5.1). -/
def operandTouch (o : SOp) (n : Nat) (b : Bank) : Touch :=
  if o.src = 0 then addrTouch o.i [b.sel o.p] [((o.ea b).toNat, n)] [] else .none
/-- A scalar operand and the second of the split form. -/
def splitTouch (o : SOp) (n : Nat) (b : Bank) : Touch :=
  if o.src = 0 then addrTouch o.i [b.sel o.p, b.sel o.q] [((o.eaSplit b).toNat, n), ((o.ea2 b).toNat, n)] []
  else addrTouch o.i [b.sel o.q] [((o.ea2 b).toNat, n)] []

/-- The elements that a vector access touches: those of the enabled lanes, or all (R82). -/
def laneSpans (et : BitVec 2) (all : Bool) (ea : Nat) (b : Bank) : List (Nat × Nat) :=
  if et = 3 then (if all || b.f.m != 0 then [(ea, 4)] else [])
  else ((List.range 8).filter fun k => all || b.f.m.getLsbD k).map fun k => (ea + elemBytes et * k, elemBytes et)
def lanesTouch (o : SOp) (all : Bool) (b : Bank) : Touch :=
  if o.src = 0 then addrTouch o.i [b.sel o.p] (laneSpans o.sz all (o.ea b).toNat b) [] else .none
def lanesSplitTouch (o : SOp) (b : Bank) : Touch :=
  let second := laneSpans o.sz false (o.ea2 b).toNat b
  if o.src = 0 then
    addrTouch o.i [b.sel o.p, b.sel o.q] (laneSpans o.sz false (o.eaSplit b).toNat b ++ second) []
  else addrTouch o.i [b.sel o.q] second []

/-- The address cell of a remote access. -/
def cellTouch (o : SOp) (ea : Int) (b : Bank) : Touch := addrTouch o.i [b.sel o.p] [(ea.toNat, 16)] []
/-- An atomic: its own bytes for src = 0, else its cell. -/
def atomicTouch (o : SOp) (used out : List Nat) (b : Bank) : Touch :=
  if o.src = 0 then
    (addrTouch o.i [b.sel o.p] [((o.ea b).toNat, sizeOf2 o.sz)] [((o.ea b).toNat, sizeOf2 o.sz)]).with used out
  else (cellTouch o (if o.src = 1 then o.ea b else o.eaOrd b) b).with used out
/-- A command block of 32 bytes. -/
def blockTouch (o : EOp) (b : Bank) : Touch := addrTouch o.i [b.sel o.pa] [((o.ea b).toNat, 32)] []
/-- The pointers of a plane-array command; the array reads its operands. -/
def planeTouch (o : EOp) (b : Bank) : Touch := addrTouch o.i [b.sel o.pa, b.sel o.pb] [] []
/-- The pointer that imm12[10:8] names, with the spans read at it. -/
def cTouch (o : COp) (n : Nat) (b : Bank) : Touch := addrTouch (o.imm.getLsbD 11) [o.p] [(o.addr b, n)] []

/-- The items of IALU and IALUI members. -/
def aluItems (f : AluFn) (t : Touch) : Touch :=
  match f with
  | .adc | .sbc => t.with [itemA, itemF] [itemA, itemF]
  | .cmp => t.with [itemA] [itemF]
  | _ => t.with [itemA] [itemA, itemF]

/-- What an instruction touches, by its form; a queue's head record is read where the queue stands. A `B` depends on F
under every condition, 0 and 1 among them, though their outcome does not use it (assumption 94). -/
def touchOf (i : Instr) (sl : Slot) : Touch :=
  let b := sl.bank
  let alu (f : AluFn) (o : SOp) : Touch := aluItems f (operandTouch o (sizeOf2 o.sz) b)
  let quot (o : SOp) : Touch := (operandTouch o (sizeOf2 o.sz) b).with [itemA] [itemA, itemF]
  let falu (o : SOp) (out : List Nat) : Touch := (operandTouch o (faluBytes o.sz) b).with [itemA] out
  let lanes (o : SOp) : Touch := (lanesTouch o false b).with [itemV, itemM] [itemV]
  let imm (f : AluFn) : Touch := aluItems f .none
  let bits : Touch := .items [itemA] [itemA, itemF]
  let atomic (o : SOp) : Touch := atomicTouch o [itemA] [itemA] b
  match i with
  | .add o => alu .add o | .sub o => alu .sub o | .adc o => alu .adc o | .sbc o => alu .sbc o
  | .and o => alu .and o | .or o => alu .or o | .xor o => alu .xor o | .andn o => alu .andn o
  | .min o => alu .min o | .max o => alu .max o | .minu o => alu .minu o | .maxu o => alu .maxu o
  | .mul o => alu .mul o | .mulh o => alu .mulh o | .mulhu o => alu .mulhu o | .cmp o => alu .cmp o
  | .addImm _ => imm .add | .subImm _ => imm .sub | .adcImm _ => imm .adc | .sbcImm _ => imm .sbc
  | .andImm _ => imm .and | .orImm _ => imm .or | .xorImm _ => imm .xor | .andnImm _ => imm .andn
  | .minImm _ => imm .min | .maxImm _ => imm .max | .minuImm _ => imm .minu | .maxuImm _ => imm .maxu
  | .mulImm _ => imm .mul | .mulhImm _ => imm .mulh | .mulhuImm _ => imm .mulhu | .cmpImm _ => imm .cmp
  | .ximm _ op _ => match op with | .li => .items [] [itemA] | .alu f => imm f
  | .div o | .divu o | .rem o | .remu o => quot o
  | .shl _ | .shr _ | .sra _ | .rol _ | .clz _ | .ctz _ | .popc _ | .brev _ | .bfx _ | .bfi _ | .sext _ | .zext _ => bits
  | .ld o | .ldx o => (operandTouch o (sizeOf2 o.sz) b).with [] [itemA]
  | .st o => (addrTouch o.i [b.sel o.p] [] [((o.ea b).toNat, sizeOf2 o.sz)]).with [itemA] []
  | .pld o => ⟨[itemP (b.sel o.p)], (List.range 8).map (4 + ·), [((o.ea b).toNat, 32)], []⟩
  | .pst o => ⟨(List.range 8).map (4 + ·), [], [], [((o.ea b).toNat, 32)]⟩
  | .li _ => .items [] [itemA]
  | .pset o | .pstride o | .padd o => .items [itemP o.ptrSel] [itemP o.ptrSel]
  | .pmov o => .items [itemA] [itemP o.ptrSel]
  | .pget o => .items [itemP o.ptrSel] [itemA]
  | .pcmp o => .items [itemP o.ptrSel] [itemF]
  | .b c _ => .items [itemF] (if b.f.holds c then [itemAll] else [])
  | .j _ | .call _ | .ret _ => .items [] [itemAll]
  | .ja _ | .calla _ => .items [itemA] [itemAll]
  | .rptA _ _ => .items [itemA] []
  | .fadd o | .fsub o | .fmul o | .fmin o | .fmax o | .fdiv o => falu o [itemA]
  | .fma o => (splitTouch o (faluBytes o.sz) b).with [itemA] [itemA]
  | .fcmp o => falu o [itemF]
  | .fsqrt _ | .fcvt _ | .fsgn _ => .items [itemA] [itemA]
  | .vadd o | .vsub o | .vmul o | .vmin o | .vmax o | .vand o | .vor o | .vxor o | .vshl o | .vshr o | .vsra o
  | .vcmp o | .vfadd o | .vfsub o | .vfmul o | .vfmin o | .vfmax o | .vfcmp o | .vld o | .vperm o => lanes o
  | .vmac o | .vfma o => (lanesSplitTouch o b).with [itemV, itemM] [itemV]
  | .vsel o => (lanesTouch o true b).with [itemV, itemM] [itemV]
  | .vfcvt _ | .vfrcp _ | .vfrsq _ | .vfexp _ | .vflog _ => .items [itemV, itemM] [itemV]
  | .vst o => (addrTouch o.i [b.sel o.p] [] (laneSpans o.sz false (o.ea b).toNat b)).with [itemV, itemM] []
  | .vsplat _ | .vins _ | .vslide _ => .items [itemA, itemV, itemM] [itemV]
  | .vext _ => .items [itemV] [itemA]
  | .vsum _ | .vmaxr _ => .items [itemV, itemM] [itemA]
  | .vmask o =>
    let c := o.d.extractLsb' 0 3
    if c = 7 then .items [itemM] [itemA] else if c = 6 then .items [itemA] [itemM] else .items [itemV] [itemM]
  | .send o => (cTouch o (8 * (o.imm.extractLsb' 0 4).toNat) b).with [itemA] []
  | .sendv _ => .items [itemA, itemV] []
  | .recv o | .peek o =>
    let rq := sl.queue o.ch
    ⟨[], if rq.empty then [itemA, itemF] else [itemA, itemF, itemP o.p],
      if rq.empty then [] else [(rq.head.toNat, 8)], []⟩
  | .offer o => (cTouch o 0 b).with [itemA] []
  | .pull o => (addrTouch (o.imm.getLsbD 11) [o.p] [(o.addr b + 8, 16)] []).with [itemA] []
  | .circ o => cTouch o 32 b
  | .tagset _ | .tagclr _ | .bart _ => .items [] [itemF]
  | .chr _ => .items [] [itemA, itemF]
  | .chw _ => .items [itemA] []
  | .chwv _ => .items [itemV] []
  | .chst _ => .items [itemA] [itemF]
  | .waitq _ => .items [] [itemA]
  | .rank o => if o.ch = 0 then .items [] [itemA] else if o.ch = 1 then .items [itemA] [itemA]
      else .items [itemA] [itemA, itemF]
  | .tree _ => .items [] [itemA]
  | .rld o => (cellTouch o (o.ea b) b).with [itemA] [itemA]
  | .rldAcq o => (cellTouch o (o.eaOrd b) b).with [itemA] [itemA]
  | .rst o => (cellTouch o (o.ea b) b).with [itemA] []
  | .rstRel o => (cellTouch o (o.eaOrd b) b).with [itemA] []
  | .rldv o => (cellTouch o (o.ea b) b).with [itemM] [itemV]
  | .rstv o => (cellTouch o (o.ea b) b).with [itemV, itemM] []
  | .aadd o | .aand o | .aor o | .axor o | .amin o | .amax o | .aminu o | .amaxu o | .aswp o => atomic o
  | .acas o => atomicTouch o [itemA, itemV] [itemA, itemF] b
  | .gtag _ => .items [itemA] [itemA, itemF]
  | .gnew _ => .items [] [itemA]
  | .pdot o | .ppack o | .punpk o => planeTouch o b
  | .maclm _ => .items [] [itemF]
  | .mard _ => .items [itemM] [itemV]
  | .mawm _ => .items [] [itemA, itemF]
  | .cpy o | .grnw o | .grn o => blockTouch o b
  | .cpyq _ => .items [] [itemA]
  | .inbox o => (addrTouch o.i [b.sel o.pa] [] (if sl.inbox.isEmpty then [] else [((o.ea b).toNat, 16)])).with [] [itemA, itemF]
  | .coll _ => .items [itemA] []
  | .collw _ => .items [] [itemA, itemF]
  | .trap _ | .sysc _ | .eret _ => .items [] [itemAll]
  | .gets _ | .wdog _ | .metr _ => .items [] [itemA]
  | .sets _ | .plbi _ => .items [itemA] []
  | .launch _ => .items [itemA] []
  | .plbw _ => .items [itemA] []
  | _ => .none

/-- Significant bits of a number. -/
def sigBits (n : Nat) : Nat := if n = 0 then 0 else n.log2 + 1

/-- The divisor that a division will read; zero where the read fails or must wait. -/
def divisorOf (signed : Bool) (o : SOp) (s : State) : DWord :=
  match srcRead o (o.ea s.bank) (sizeOf2 o.sz) s with
  | .ok x => extN signed (sizeOf2 o.sz) x
  | .error _ => 0
/-- 18 + ⌈b/4⌉ (Table 5.17). -/
def divLatency (signed : Bool) (o : SOp) (s : State) : Nat :=
  let d := divisorOf signed o s
  let q := if d = 0 then 0
    else if signed then (s.bank.a.toInt.tdiv d.toInt).natAbs else s.bank.a.toNat / d.toNat
  18 + (sigBits q + 3) / 4

/-- The latency of an instruction (R112): from its issue to the earliest issue of one that depends on it. A form with a
scratchpad operand takes the 2 cycles more by its form, with M = 0 too (assumption 94). -/
def latencyOf (i : Instr) (s : State) : Nat :=
  let mem (o : SOp) (n : Nat) : Nat := if o.src = 0 then n + 2 else n
  match i with
  | .mul o | .mulh o | .mulhu o => mem o 3
  | .mulImm _ | .mulhImm _ | .mulhuImm _ => 3
  | .ximm _ op _ => match op with | .alu .mul | .alu .mulh | .alu .mulhu => 3 | _ => 1
  | .add o | .sub o | .adc o | .sbc o | .and o | .or o | .xor o | .andn o | .min o | .max o | .minu o | .maxu o
  | .cmp o => mem o 1
  | .div o | .rem o => mem o (divLatency true o s)
  | .divu o | .remu o => mem o (divLatency false o s)
  | .ld o | .ldx o => if o.src = 0 then 2 else 1
  | .pld _ => 2
  | .vld o => if o.src = 0 then 2 else 1
  | .b _ _ | .j _ | .call _ | .ret _ | .ja _ | .calla _ => 2
  | .fadd o | .fsub o | .fmul o => mem o 4
  | .fma _ => 6
  | .fmin o | .fmax o | .fcmp o => mem o 2
  | .fcvt _ => 2
  | .fdiv o => mem o 16
  | .fsqrt _ => 16
  | .vadd o | .vsub o | .vmin o | .vmax o | .vand o | .vor o | .vxor o | .vshl o | .vshr o | .vsra o | .vcmp o
  | .vsel o => mem o 2
  | .vmul o => mem o 3
  | .vmac _ => 5
  | .vfadd o | .vfsub o | .vfmul o => mem o 4
  | .vfma _ => 6
  | .vfmin o | .vfmax o | .vfcmp o => mem o 2
  | .vfcvt _ => 2
  | .vfrcp _ | .vfrsq _ | .vfexp _ | .vflog _ => 8
  | .vperm o => mem o 2
  | .vext _ | .vslide _ => 2
  | .vsum o => if o.d.getLsbD 0 then 8 else 2
  | .vmaxr o => if o.d.getLsbD 0 then 4 else 2
  | .send o => 1 + ((o.imm.extractLsb' 0 4).toNat + 3) / 4
  | .sendv _ | .chst _ | .circ _ => 2
  | .recv _ | .peek _ | .pull _ => 3
  | .rank o => if o.ch = 0 then 1 else 2
  | .rld _ | .rst _ | .rstRel _ | .rldv _ | .rstv _ => 3
  | .aadd _ | .aand _ | .aor _ | .axor _ | .amin _ | .amax _ | .aminu _ | .amaxu _ | .aswp _ | .acas _ => 3
  | .gtag _ | .gnew _ => 2
  | .mard _ => 2
  | .cpy _ | .grnw _ | .grn _ | .inbox _ => 3
  | .coll _ => 2
  | .trap _ | .sysc _ | .eret _ => 4
  | .plbw _ | .launch _ | .metr _ => 3
  | _ => 1

/-- The spans of its scratchpad that an instruction reads, those named by A among them. -/
def readSpans (i : Instr) (s : State) : List (Nat × Nat) :=
  let a := (s.bank.a.extractLsb' 0 15).toNat
  match i with
  | .launch _ => [(a, 64)]
  | .plbw _ => [(a, 16)]
  | _ => (touchOf i s.slot).reads

/-- The spans of its scratchpad that an instruction writes: the granule that `GTAG #1` zero-fills among them (R263). -/
def writeSpans (i : Instr) (s : State) : List (Nat × Nat) :=
  let g := (s.bank.a.extractLsb' 0 15).toNat / 32
  match i with
  | .gtag arg => if arg.getLsbD 0 && s.tile.tagClass s.slot.gen g == .stale then [(32 * g, 32)] else []
  | _ => (touchOf i s.slot).writes

/-! ### Waiting for a latency -/

/-- A span holds a byte that is not yet to be used. -/
def busySpan (busy : SMap Nat) (sp : Nat × Nat) : Bool :=
  busy.any fun kv => decide (byteItem sp.1 ≤ kv.1) && decide (kv.1 < byteItem (sp.1 + sp.2))
/-- No earlier instruction's latency holds this one (R112). -/
def operandsReady (i : Instr) (s : State) : Bool :=
  let sl := s.slot
  let t := touchOf i sl
  sl.busy.isEmpty ||
    !((itemAll :: (t.used ++ t.out)).any (fun k => (SMap.get 0 sl.busy (bankItem sl.priv k)) != 0)
      || (readSpans i s ++ writeSpans i s).any (busySpan sl.busy))
/-- Every control transfer before has taken its latency: the prefix of a pair, and a fetch that traps, wait for no more. -/
def controlReady (sl : Slot) : Bool := SMap.get 0 sl.busy (bankItem sl.priv itemAll) == 0

/-- The instruction uses the tile's divider (R113). -/
def usesDivider : Instr → Bool
  | .div _ | .divu _ | .rem _ | .remu _ | .fdiv _ | .fsqrt _ => true
  | _ => false

/-- Record the latency of an instruction that issued in state `s` and left `s'`: its items in the bank that it ran in, and
a control transfer for the bank that runs on. -/
def markLatency (i : Instr) (s s' : State) : State :=
  let n := latencyOf i s
  let t := touchOf i s.slot
  if n ≤ 1 then s'
  else
    let ks := t.out.map (fun k => bankItem (if k = itemAll then s'.slot.priv else s.slot.priv) k) ++ (writeSpans i s).flatMap fun sp => (List.range sp.2).map fun j => byteItem (sp.1 + j)
    let s1 := s'.modSlot fun sl => { sl with busy := ks.foldl (fun m k => SMap.set 0 m k n) sl.busy }
    if usesDivider i then { s1 with tile := { s1.tile with div := n } } else s1

/-- One tile cycle passes for the latencies of a slot. -/
def Slot.tickBusy (sl : Slot) : Slot :=
  if sl.busy.isEmpty then sl
  else { sl with busy := (sl.busy.map fun kv => (kv.1, kv.2 - 1)).filter fun kv => kv.2 != 0 }

end Sys2Proof.Machine
end

