-- ==== Sys2Proof/Machine/Words.lean ====
section
/-! DEFINITION. What a word of the opcode table does: the same meanings as the dispatch of all instructions, for those that
a context issues. An event is no word and changes nothing here. -/

namespace Sys2Proof.Machine

def execWord (i : Instr) (s : State) : Result :=
  match i with
  | .add o => execAdd o s
  | .sub o => execSub o s
  | .adc o => execAdc o s
  | .sbc o => execSbc o s
  | .and o => execAnd o s
  | .or o => execOr o s
  | .xor o => execXor o s
  | .andn o => execAndn o s
  | .min o => execMin o s
  | .max o => execMax o s
  | .minu o => execMinu o s
  | .maxu o => execMaxu o s
  | .mul o => execMul o s
  | .mulh o => execMulh o s
  | .mulhu o => execMulhu o s
  | .cmp o => execCmp o s
  | .addImm o => execAddImm o s
  | .subImm o => execSubImm o s
  | .adcImm o => execAdcImm o s
  | .sbcImm o => execSbcImm o s
  | .andImm o => execAndImm o s
  | .orImm o => execOrImm o s
  | .xorImm o => execXorImm o s
  | .andnImm o => execAndnImm o s
  | .minImm o => execMinImm o s
  | .maxImm o => execMaxImm o s
  | .minuImm o => execMinuImm o s
  | .maxuImm o => execMaxuImm o s
  | .mulImm o => execMulImm o s
  | .mulhImm o => execMulhImm o s
  | .mulhuImm o => execMulhuImm o s
  | .cmpImm o => execCmpImm o s
  | .div o => execDiv o s
  | .divu o => execDivu o s
  | .rem o => execRem o s
  | .remu o => execRemu o s
  | .shl o => execShl o s
  | .shr o => execShr o s
  | .sra o => execSra o s
  | .rol o => execRol o s
  | .clz o => execClz o s
  | .ctz o => execCtz o s
  | .popc o => execPopc o s
  | .brev o => execBrev o s
  | .bfx o => execBfx o s
  | .bfi o => execBfi o s
  | .sext o => execSext o s
  | .zext o => execZext o s
  | .ld o => execLd o s
  | .ldx o => execLdx o s
  | .st o => execSt o s
  | .pld o => execPld o s
  | .pst o => execPst o s
  | .li o => execLi o s
  | .pset o => execPset o s
  | .pstride o => execPstride o s
  | .padd o => execPadd o s
  | .pmov o => execPmov o s
  | .pget o => execPget o s
  | .pcmp o => execPcmp o s
  | .b cond off => execB cond off s
  | .j off => execJ off s
  | .call off => execCall off s
  | .ret off => execRet off s
  | .ja off => execJa off s
  | .calla off => execCalla off s
  | .rpt len stag count => execRpt len stag count s
  | .rptA len stag => execRptA len stag s
  | .fadd o => execFadd o s
  | .fsub o => execFsub o s
  | .fmul o => execFmul o s
  | .fma o => execFma o s
  | .fmin o => execFmin o s
  | .fmax o => execFmax o s
  | .fdiv o => execFdiv o s
  | .fsqrt o => execFsqrt o s
  | .fcmp o => execFcmp o s
  | .fcvt o => execFcvt o s
  | .fsgn o => execFsgn o s
  | .vadd o => execVadd o s
  | .vsub o => execVsub o s
  | .vmul o => execVmul o s
  | .vmac o => execVmac o s
  | .vmin o => execVmin o s
  | .vmax o => execVmax o s
  | .vand o => execVand o s
  | .vor o => execVor o s
  | .vxor o => execVxor o s
  | .vshl o => execVshl o s
  | .vshr o => execVshr o s
  | .vsra o => execVsra o s
  | .vcmp o => execVcmp o s
  | .vsel o => execVsel o s
  | .vfadd o => execVfadd o s
  | .vfsub o => execVfsub o s
  | .vfmul o => execVfmul o s
  | .vfma o => execVfma o s
  | .vfmin o => execVfmin o s
  | .vfmax o => execVfmax o s
  | .vfcmp o => execVfcmp o s
  | .vfcvt o => execVfcvt o s
  | .vfrcp o => execVfrcp o s
  | .vfrsq o => execVfrsq o s
  | .vfexp o => execVfexp o s
  | .vflog o => execVflog o s
  | .vld o => execVld o s
  | .vst o => execVst o s
  | .vsplat o => execVsplat o s
  | .vext o => execVext o s
  | .vins o => execVins o s
  | .vperm o => execVperm o s
  | .vsum o => execVsum o s
  | .vmaxr o => execVmaxr o s
  | .vmask o => execVmask o s
  | .vslide o => execVslide o s
  | .send o => execSend o s
  | .sendv o => execSendv o s
  | .recv o => execRecv o s
  | .peek o => execPeek o s
  | .offer o => execOffer o s
  | .pull o => execPull o s
  | .hret o => execHret o s
  | .tagset o => execTagset o s
  | .tagclr o => execTagclr o s
  | .chr o => execChr o s
  | .chw o => execChw o s
  | .chwv o => execChwv o s
  | .chst o => execChst o s
  | .barw o => execBarw o s
  | .bart o => execBart o s
  | .pause o => execPause o s
  | .waitq o => execWaitq o s
  | .yield o => execYield o s
  | .stkh o => execStkh o s
  | .align o => execAlign o s
  | .circ o => execCirc o s
  | .rank o => execRank o s
  | .tree o => execTree o s
  | .rld o => execRld o s
  | .rldAcq o => execRldAcq o s
  | .rst o => execRst o s
  | .rstRel o => execRstRel o s
  | .rldv o => execRldv o s
  | .rstv o => execRstv o s
  | .aadd o => execAadd o s
  | .aand o => execAand o s
  | .aor o => execAor o s
  | .axor o => execAxor o s
  | .amin o => execAmin o s
  | .amax o => execAmax o s
  | .aminu o => execAminu o s
  | .amaxu o => execAmaxu o s
  | .aswp o => execAswp o s
  | .acas o => execAcas o s
  | .fence arg => execFence arg s
  | .waitc arg => execWaitc arg s
  | .gtag arg => execGtag arg s
  | .gnew arg => execGnew arg s
  | .pcfg o => execPcfg o s
  | .pdot o => execPdot o s
  | .ppack o => execPpack o s
  | .punpk o => execPunpk o s
  | .maclm o => execMaclm o s
  | .marel o => execMarel o s
  | .mard o => execMard o s
  | .mawm o => execMawm o s
  | .maclr o => execMaclr o s
  | .cpy o => execCpy o s
  | .cpyq o => execCpyq o s
  | .inbox o => execInbox o s
  | .grnw o => execGrnw o s
  | .grn o => execGrn o s
  | .coll o => execColl o s
  | .collw o => execCollw o s
  | .trap arg => execTrap arg s
  | .sysc arg => execSysc arg s
  | .eret arg => execEret arg s
  | .gets arg => execGets arg s
  | .sets arg => execSets arg s
  | .exit arg => execExit arg s
  | .launch arg => execLaunch arg s
  | .wdog arg => execWdog arg s
  | .metr arg => execMetr arg s
  | .plbw arg => execPlbw arg s
  | .plbi arg => execPlbi arg s
  | .halt arg => execHalt arg s
  | .ximm hi op lo => execXimm hi op lo s
  | _ => .next s

end Sys2Proof.Machine
end

