-- ==== Sys2Proof/Machine/Issue.lean ====
section
/-! DEFINITION. One tile cycle: what passes with the cycle, the choice of a context (R132 to R134, R412),
its issue, and the weights, permits and meters that go with it (R136 to R144, R350, R354). -/

namespace Sys2Proof.Machine

/-! ### What passes with a tile cycle -/

/-- A slot's counts: its timer, its handler budget and its latencies (R112, R184, R192, R198). A timer at 1 is left to
the event that ends it. -/
def Slot.tick (sl : Slot) : Slot :=
  { sl.tickBusy with
    timer := if 1 < sl.timer then sl.timer - 1 else sl.timer,
    hleft := if sl.st = .handler then sl.hleft - (if sl.hleft = 0 then 0 else 1) else sl.hleft,
    hout := sl.hout || (sl.st == .handler && sl.hleft == 0) }

/-- A timer at 1 has had its last cycle: the limit of `ALIGN` is over, or a barrier has timed out (R192, R198). -/
def expire (t k : Nat) (s : State) : State :=
  if (s.slotAt t k).timer = 1 then
    ((alignTimeoutBody t k s).orElse fun _ => barrierTimeoutBody t k s).getD s
  else s

/-- How long the tile has seen the messages of its handler queues (R165). -/
def tickAges (tl : Tile) : Tile :=
  if tl.hasHandlers then tl.setSlot 7 { tl.slot 7 with rq := (tl.slot 7).rq.map RQueue.tick } else tl

/-- The tile's own counts: ages, permits, the divider; the array of a throttled cycle goes on; lines are asked for. -/
def tickTile (s : State) : State :=
  let tl := refillTile (s.getBay (bayOf s.tid)) (s.getDie (dieOf s.tid)).pwr.scale.toNat (tickAges s.tile)
  let tl := { tl with slots := tl.slots.map (fun sl : Slot => sl.endPause.tick), div := tl.div - 1, frozen := false, port := 0 }
  { s with tile := tl.request s s.tid }

/-! ### One context's turn -/

/-- What a context can do in this cycle. -/
inductive Try where
  /-- It is not ready, and what it waits for. -/
  | idle (w : Option Wait)
  /-- The first word of a pair takes its turn (R74). -/
  | half (s : State)
  /-- It issues: the state after, the instruction's class and weight, and whether it trapped. -/
  | issue (s : State) (cls : PClass) (weight : Nat) (trapped : Bool)
  | refuse (r : Refusal)

/-- The code of the newest fault record: after a step that halted a slot, its stop's (R326). -/
def haltCode (s s' : State) : BitVec 8 :=
  let r := if s.heldFaults.length < s'.heldFaults.length then s'.heldFaults.getLast? else s'.faults.getLast?
  match r with
  | some r => r.va.extractLsb' 0 8
  | none => 0
/-- The instruction has trapped. The CODE_SEGMENT of a segment's end comes after an instruction that completed (R24). -/
def tookTrap (s s' : State) : Bool :=
  (!s.slot.priv && s'.slot.priv && s'.slot.tcause != causeCodeSegment)
    || (!s.slot.halted && s'.slot.halted && haltCode s s' != causeCodeSegment)
/-- Taking a trap is the instruction's own effect. -/
def isCall : Instr → Bool
  | .trap _ | .sysc _ => true
  | _ => false

/-- An instruction has issued and waits after its effect (R412). -/
def Slot.hasEntered (sl : Slot) : Bool := sl.entered != .no
def Entered.wait : Entered → Option Wait
  | .no => none
  | .barrier => some .barrier
  | .align _ _ => some .align
  | .acquire _ _ _ _ => some .acquire
  | .gnew _ => some .sweep

/-- A prefix may not stand here, and the pair traps at its first word's turn. -/
def pairBarred (b : Bank) : Bool := match pairPlace b with | .error _ => true | .ok _ => false

/-- The reads of the issuing context correct what they meet (R231). -/
def correctReads (i : Instr) (s s' : State) : State :=
  if s'.tile.soft.isEmpty then s' else (readSpans i s).foldl (fun x sp => x.correctAt s.tid sp.1 sp.2) s'

/-- The state that an issue leaves: the word of an instruction that waits on, corrections, latencies. -/
def afterIssue (i : Instr) (word : Word) (s s' : State) : State :=
  let s1 := if s'.slot.hasEntered then s'.modSlot fun sl => { sl with ir := word } else s'
  let s2 := correctReads i s s1
  if tookTrap s s' && !isCall i then s2 else markLatency i s s2

/-- A load into A is outstanding in the bank that runs. -/
def loadOwed (s : State) : Bool :=
  (s.slot.niq ++ s.flights.map (·.req)).any fun r => r.ownedBy s.tid s.cur s.slot.run && r.sup == s.slot.priv &&
    (match r.op with | .load _ none => true | _ => false)
/-- A wait for an outstanding reply that is a remote load's (R140). -/
def replyWait (i : Instr) (s : State) (w : Option Wait) : Option Wait :=
  let t := touchOf i s.slot
  let ks := t.used ++ t.out
  if w = some .pending ∧ ((ks.contains itemV && s.bank.vPend) || (ks.contains itemA && s.bank.aPend && loadOwed s)) then
    some .reply
  else w

/-- Nothing but a wait of its own keeps the instruction: no earlier latency, no busy divider, no lack of a permit. -/
def canIssue (i : Instr) (s : State) : Bool :=
  operandsReady i s && !(usesDivider i && s.tile.div != 0) && s.tile.permitLevel i.permit != 0

/-- An instruction whose words are at hand: `half` holds both words of a pair whose first word has still to take its
turn. It takes it when the pair as one instruction would not wait (assumption 23). -/
def tryNew (i : Instr) (word : Word) (half : Option (Word × Word)) (s : State) : Try :=
  match execWord i s with
  | .next s' =>
    if s'.slot.wait.isSome && !s'.slot.hasEntered then .idle (replyWait i s s'.slot.wait)
    else if !canIssue i s then .idle none
    else if half.isSome && !pairBarred s.bank then .half (s.modSlot fun sl => { sl with pre := half })
    else .issue (afterIssue i word s s') i.permit i.weight (tookTrap s s')
  | .fault _ => .idle none
  | .refused r => if canIssue i s then .refuse r else .idle none

/-- The slot in turn, with its last wait forgotten. -/
def State.turnTo (s : State) (k : Fin 8) : State := setWait none { s with cur := k }

/-- The two words of a pair at the PC. -/
def pairWords (s : State) (w : Word) : Word × Word := (w, loftWord s (bayOf s.tid) (s.bank.pc.toNat + 1))

/-- What the context in slot `k` could do now, whatever event is pending for it (R132, R412). A word that traps at fetch
or decode weighs as scalar (assumption 15). -/
def tryWord (k : Fin 8) (s0 : State) : Try :=
  let s := s0.turnTo k
  let sl := s.slot
  if !sl.running then .idle none
  else if sl.hasEntered then .idle sl.entered.wait
  else if sl.niq.any (fun r => decide (r.seq < sl.heldTo)) then .idle (some .niRemote)
  else if !controlReady sl then .idle none
  else if !sl.lineReady s s.tid then .idle (some .inFlight)
  else match fetch s with
  | .trap t => .issue (trapHere t (s.modSlot fun sl => { sl with pre := none })) .none 2 true
  | .instr i w pair =>
    let half := if pair && sl.pre.isNone then some (pairWords s w) else none
    tryNew i w half (s.modSlot fun sl => { sl with pre := none })

/-- Why the context does not issue. -/
def Try.why : Try → Option Wait
  | .idle w => w
  | _ => none

/-- An event is pending at the context's boundary: nothing of it issues (R327). -/
def eventPending (k : Fin 8) (s : State) : Bool :=
  let sl := s.tile.slots[k]
  sl.interruptible && (s.tile.trapPending k || (sl.st == .user && sl.stopReq))

/-- What the context in slot `k` can do now. -/
def tryIssue (k : Fin 8) (s : State) : Try :=
  if eventPending k s then .idle (tryWord k s).why else tryWord k s

def Try.ready : Try → Bool
  | .idle _ => false
  | _ => true

/-! ### Between two instructions of a context: no issue turn, and no tile cycle (R327, R412, assumption 27) -/

/-- An instruction that waits after its effect completes, where its wait has ended. A `GNEW` that goes on waiting has
the sweep for the present next value started (R225); one that completes has its latency before it (R265). -/
def completeEntered (k : Fin 8) (s0 : State) : State :=
  let s := s0.turnTo k
  if !s.slot.running || !s.slot.hasEntered then s0
  else match decodeWord s.slot.ir with
  | some i => (match execWord i s with
    | .next s' =>
      if s'.slot.wait.isSome then { s0 with tile := { s0.tile with sweepVal := s'.tile.sweepVal, sweepPos := s'.tile.sweepPos } }
      else match i with
        | .gnew _ => markLatency i s s'
        | _ => s'
    | _ => s0)
  | none => s0

/-- A wait that a request keeps up (R258): for its reply, for a counter, at a fence, at the start of `EXIT` or `GNEW`. -/
def Wait.onRequest : Wait → Bool
  | .pending | .reply | .counter | .fence | .quiet => true
  | _ => false
/-- The slot with nothing outstanding but its parked requests. -/
def Slot.onlyParked (rs : List Req) (sl : Slot) : Slot :=
  let into (p : ReqOp → Bool) (sup : Bool) : Bool := rs.any fun r => r.sup == sup && p r.op
  let toA : ReqOp → Bool := fun o => match o with | .load _ none => true | .amo _ _ _ _ => true | _ => false
  let toV : ReqOp → Bool := fun o => match o with | .load _ (some _) => true | _ => false
  let toZ : ReqOp → Bool := fun o => match o with | .amo fn _ _ _ => fn == .acas | _ => false
  let own (sup : Bool) (b : Bank) : Bank := { b with aPend := into toA sup, vPend := into toV sup, zPend := into toZ sup }
  { sl with user := own false sl.user, sup := own true sl.sup, nm := 0, ne := 0
            nb := BitVec.ofNat 16 (rs.filter fun r => match r.op with | .store _ => true | _ => false).length
            accs := sl.accs.filter fun a => rs.any fun r => r.seq == a.seq }
/-- The requests of the context in slot `k` of the focus tile that are parked by a page fault (R222). -/
def parkedReqs (s : State) (k : Nat) : List Req :=
  (s.flights.filter fun f => (match f.phase with | .parked _ => true | _ => false)
    && f.req.ownedBy s.tid k (s.tile.slot k).run).map (·.req)
/-- The context waits for a parked request: it would, if nothing else of it were outstanding. It takes no trap then, but a
handler's exhausted budget (R328). -/
def trapHeld (k : Fin 8) (s : State) : Bool :=
  parkedReq s s.tid k && !(s.tile.slots[k]).overBudget &&
    (match (tryWord k (s.modSlotAt s.tid k (Slot.onlyParked (parkedReqs s k)))).why with
      | some w => w.onRequest | none => false)

/-- The first pending event of a context is taken, unless a parked request holds it (R328). -/
def takeEvent (k : Fin 8) (s : State) : State :=
  if abortDue s s.tid k then takePending (s.turnTo k)
  else if !eventPending k s then s
  else if s.tile.trapPending k then (if trapHeld k s then s else takePending (s.turnTo k))
  else (preemptionBody s.tid k s).getD s

/-- `TRAP_ENTRY` (R326, R327). -/
def trapEntryBody (t k : Nat) (s : State) : Option State :=
  let sl := s.slotAt t k
  if abortDue s t k || (sl.interruptible && (s.getTile t).trapPending k && !trapHeld (Fin.ofNat 8 k) (s.focus t)) then
    some (inCtx t k takePending s)
  else none
def execTrapEntry (t k : Nat) (s : State) : Result := event (ctxOk t k) s (trapEntryBody t k)

/-- One body for each number, where it can happen. -/
def eachOf (n : Nat) (f : Nat → State → State) (s : State) : State := (List.range n).foldl (fun s k => f k s) s

/-- What happens to the focus tile before it chooses: timers end, handlers start (R165), its counts pass, and its contexts
meet what waits for them; its local counts go to the hub every 65,536 cycles (R351). -/
def tick (s : State) : State :=
  let s1 := eachOf 8 (fun k s => expire s.tid k s) s
  let s2 := tickTile (eachOf 4 (fun _ s => (handlerDispatchBody s.tid s).getD s) s1)
  let s3 := if (s2.getBay (bayOf s2.tid)).cyc.extractLsb' 0 16 = 0 then flushCounts s2.tid s2 else s2
  eachOf 8 (fun k s => takeEvent (Fin.ofNat 8 k) (completeEntered (Fin.ofNat 8 k) s)) s3

/-! ### The choice (R133) -/

/-- Slots from the one after the last that issued, wrapping. -/
def slotOrder (last : BitVec 3) : List (Fin 8) :=
  (List.range 8).map fun j => Fin.ofNat 8 (last.toNat + 1 + j)

/-- Unpaused contexts before paused ones. -/
def issueOrder (tl : Tile) : List (Fin 8) :=
  let o := slotOrder tl.last
  o.filter (fun k => (tl.slots[k]).pause = 0) ++ o.filter (fun k => (tl.slots[k]).pause ≠ 0)

/-- Other contexts that a yielded one still lets go first: those of its set that are ready (R196). -/
def yieldHeld (k : Fin 8) (s : State) : Bool :=
  (List.range 8).any fun j =>
    ((s.tile.slots[k]).yielded.getLsbD j) && decide (j ≠ k.val) && (tryIssue (Fin.ofNat 8 j) s).ready

/-- The context that the tile takes in this cycle. -/
def choose (s : State) : Option (Fin 8) :=
  (issueOrder s.tile).find? fun k => (tryIssue k s).ready && !yieldHeld k s

/-- After a cycle, a yielded context waits only for those that were ready in it and did not issue; one that issued
`YIELD` in it, for those that were ready (R196). -/
def strikeYield (ready : Fin 8 → Bool) (issued : Option (Fin 8)) (tl : Tile) : Tile :=
  let keep (y : BitVec 8) : BitVec 8 := (List.range 8).foldl (fun (m : BitVec 8) j =>
    let k := Fin.ofNat 8 j
    if y.getLsbD j && issued != some k && ready k then m ||| (1#8 <<< j) else m) 0
  { tl with slots := tl.slots.map fun sl => if sl.yielded = 0 then sl else { sl with yielded := keep sl.yielded } }

/-! ### What a cycle leaves -/

/-- Count for the tenant of the launch on the tile; a tile without one meters nothing (R143). -/
def Tile.meterHere (tl : Tile) (ix n : Nat) : Tile := if tl.launch.isSome then tl.meter ix n else tl
/-- The cycle's weight enters the window (R137). -/
def addWeight (w : Nat) (s : State) : State := { s with tile := { s.tile with weight := s.tile.weight + (w - 1) } }

/-- A filler step goes with a cycle of natural weight `w`: there is a budget (R139), and the bay holds a launch (R143). -/
def fillerDue (w : Nat) (s : State) : Bool :=
  decide (0 < s.tile.fillD) && decide (w < 6) && (s.getBay (bayOf s.tid)).launch.isSome
/-- The cycle's natural weight (R136), and the filler step beside it where there is a budget (R139): a real command that
can start does so instead (R141). -/
def weigh (issued : Nat) (s : State) : State :=
  let w := s.tile.naturalWeight issued
  if fillerDue w s then
    match planeStartBody s.tid s with
    | some s1 => addWeight 6 s1
    | none => fillerStep s.tid w (addWeight w s)
  else addWeight w s

/-- After an issue: the slot issued last, the permit drawn, and the ISSUE meter (R133, R350, R354). -/
def settle (k : Fin 8) (cls : PClass) (trapped : Bool) (s : State) : State :=
  let tl := { s.tile with last := BitVec.ofFin k }.meterHere 1 1
  { s with tile := if trapped then tl else tl.draw cls }

/-- Why each running context waits, for the message-stall rule of R140; one that is ready waits for nothing. -/
def markWaits (s : State) : State :=
  { s with tile := (List.range 8).foldl (fun tl k =>
      if (tl.slot k).running then tl.setSlot k { tl.slot k with wait := (tryIssue (Fin.ofNat 8 k) s).why } else tl) s.tile }

/-- A context is present on the tile. -/
def Tile.occupied (tl : Tile) : Bool := tl.slots.toList.any fun sl => sl.st != .empty

/-- A cycle with no issue: the STALL meter where a context is present, and the message-stall mark. -/
def idleCycle (s : State) : State :=
  let tl := if s.tile.occupied then s.tile.meterHere 2 1 else s.tile
  { s with tile := { tl with stalled := tl.stalled || tl.messageWaits false } }

/-- The pauses pass, after the choice (assumption 26). -/
def tickPauses (s : State) : State :=
  { s with tile := { s.tile with slots := s.tile.slots.map Slot.tickPause } }

/-- The sweep comes after the cycle's access (R26, R235). -/
def endCycle (ready : Fin 8 → Bool) (issued : Option (Fin 8)) (s : State) : State :=
  { s with tile := (strikeYield ready issued s.tile).sweepStep }

/-- The context that issues has had its turn: what it yielded to is forgotten. -/
def unyield (k : Fin 8) (s : State) : State :=
  { s with tile := { s.tile with slots := s.tile.slots.set k { s.tile.slots[k] with yielded := 0 } } }

/-- The issue weight of a turn; 1 for no issue. -/
def Try.weight : Try → Nat
  | .issue _ _ w _ => w
  | .half _ => 2
  | _ => 1

/-- What the chosen context does in the cycle. -/
def chosenTry (c : Option (Fin 8)) (s : State) : Try :=
  match c with
  | some k => tryIssue k (unyield k s)
  | none => .idle none

/-- The natural weight of a cycle that has begun, were it not throttled (R136). -/
def cycleWeight (s0 : State) : Nat := s0.tile.naturalWeight (chosenTry (choose s0) (tickPauses s0)).weight
/-- The stook throttles the tile in a cycle that has begun (R139). -/
def throttleDue (s0 : State) : Bool := decide (0 < s0.tile.thrE) && decide (1 < cycleWeight s0)
/-- The throttled cycle: nothing issues, and the array stands still. -/
def throttledCycle (s0 : State) : State :=
  let s1 := markWaits (tickPauses s0)
  endCycle (fun _ => false) none { s1 with tile := throttleStep (cycleWeight s0) s1.tile }

/-- One tile cycle of the focus tile once it has begun: the chosen context acts, or none can, or the stook throttles the
tile (R139). Whether one acted, and what the cycle leaves. -/
def runCycle (s0 : State) : Bool × Result :=
  let c := choose s0
  let s := tickPauses s0
  let ready (k : Fin 8) : Bool := (tryIssue k s0).ready
  if throttleDue s0 then (false, .next (throttledCycle s0))
  else match chosenTry c s with
  | .issue s' cls weight trapped => (true, .next (endCycle ready c (weigh weight (settle (c.getD 0) cls trapped s'))))
  | .half s' => (true, .next (endCycle ready c (weigh 2 (settle (c.getD 0) .none false s'))))
  | .refuse r => (true, .refused r)
  | .idle _ => (false, .next (endCycle ready none (idleCycle (weigh 1 (markWaits s)))))

/-! ### The bay's clock (R19, R136, R137, assumption 24) -/

/-- The windows of the bay that have still to end with its last cycle. -/
def endWindows (bay : Nat) (s : State) : State :=
  if (s.getBay bay).cyc.extractLsb' 0 4 == 15 then
    eachOf 16 (fun k s => if (s.getBay bay).winDone.getLsbD k then s else windowEnd bay k s) s
  else s

/-- The bay's next cycle begins, with a tile of it. -/
def nextBayCycle (bay t : Nat) (s : State) : State :=
  (endWindows bay s).modBay bay fun b => { b with cyc := b.cyc + 1, ran := [t], winDone := 0 }

/-- The tile whose turn it is takes the bay's cycle under way, if it has not; else another tile that has not; and where
every tile of the bay has, the next cycle begins. -/
def takeCycle (s : State) : State :=
  let bay := bayOf s.tid
  let ran := (s.getBay bay).ran
  if !ran.contains s.tid then s.modBay bay fun b => { b with ran := s.tid :: ran }
  else match (s.bayTiles bay).find? fun t => !ran.contains t with
    | some t => (s.modBay bay fun b => { b with ran := t :: ran }).focus t
    | none => nextBayCycle bay s.tid s

/-- The focus tile's cycle begins. -/
def beginCycle (s : State) : State := tick (takeCycle s)

/-! ### The stook's events (R139): the tile's own cycle, as the balancer acts in it -/

/-- Tile `t` can take the bay's cycle now: it has not taken the one under way, or every tile of the bay has. -/
def cycleOpen (s : State) (t : Nat) : Bool := !(s.getBay (bayOf t)).ran.contains t || bayCycleDone (s.focus t) (bayOf t)
/-- The focus that stood before comes back. -/
def State.refocus (s0 s : State) : State := { s.focus s0.tid with cur := s0.cur }

/-- `STOOK_THROTTLE`: the tile's cycle, where it is one that the balancer throttles. -/
def stookThrottleBody (t : Nat) (s : State) : Option State :=
  let s0 := beginCycle (s.focus t)
  if cycleOpen s t && throttleDue s0 then some (s.refocus (throttledCycle s0)) else none
def execStookThrottle (t : Nat) (s : State) : Result := event (tileOk t) s (stookThrottleBody t)

/-- `STOOK_FILLER_STEP`: the tile's cycle, where a filler step goes with it. -/
def stookFillerBody (t : Nat) (s : State) : Option State :=
  let s0 := beginCycle (s.focus t)
  if cycleOpen s t && !throttleDue s0 && fillerDue (cycleWeight s0) s0 then
    match (runCycle s0).2 with
    | .next s1 => some (s.refocus s1)
    | _ => none
  else none
def execStookFillerStep (t : Nat) (s : State) : Result := event (tileOk t) s (stookFillerBody t)

end Sys2Proof.Machine
end

