-- ==== Sys2Proof/Machine/Dispatch.lean ====
section
/-! DEFINITION. Every constructor of `Instr` to its meaning. -/

namespace Sys2Proof.Machine

def exec (i : Instr) (s : State) : Host.Outcome State Fault Refusal :=
  match i with
  | .ximm hi op lo => Sys2Proof.Machine.execXimm hi op lo s
  | .add o => Sys2Proof.Machine.execAdd o s
  | .sub o => Sys2Proof.Machine.execSub o s
  | .adc o => Sys2Proof.Machine.execAdc o s
  | .sbc o => Sys2Proof.Machine.execSbc o s
  | .and o => Sys2Proof.Machine.execAnd o s
  | .or o => Sys2Proof.Machine.execOr o s
  | .xor o => Sys2Proof.Machine.execXor o s
  | .andn o => Sys2Proof.Machine.execAndn o s
  | .min o => Sys2Proof.Machine.execMin o s
  | .max o => Sys2Proof.Machine.execMax o s
  | .minu o => Sys2Proof.Machine.execMinu o s
  | .maxu o => Sys2Proof.Machine.execMaxu o s
  | .mul o => Sys2Proof.Machine.execMul o s
  | .mulh o => Sys2Proof.Machine.execMulh o s
  | .mulhu o => Sys2Proof.Machine.execMulhu o s
  | .cmp o => Sys2Proof.Machine.execCmp o s
  | .addImm o => Sys2Proof.Machine.execAddImm o s
  | .subImm o => Sys2Proof.Machine.execSubImm o s
  | .adcImm o => Sys2Proof.Machine.execAdcImm o s
  | .sbcImm o => Sys2Proof.Machine.execSbcImm o s
  | .andImm o => Sys2Proof.Machine.execAndImm o s
  | .orImm o => Sys2Proof.Machine.execOrImm o s
  | .xorImm o => Sys2Proof.Machine.execXorImm o s
  | .andnImm o => Sys2Proof.Machine.execAndnImm o s
  | .minImm o => Sys2Proof.Machine.execMinImm o s
  | .maxImm o => Sys2Proof.Machine.execMaxImm o s
  | .minuImm o => Sys2Proof.Machine.execMinuImm o s
  | .maxuImm o => Sys2Proof.Machine.execMaxuImm o s
  | .mulImm o => Sys2Proof.Machine.execMulImm o s
  | .mulhImm o => Sys2Proof.Machine.execMulhImm o s
  | .mulhuImm o => Sys2Proof.Machine.execMulhuImm o s
  | .cmpImm o => Sys2Proof.Machine.execCmpImm o s
  | .div o => Sys2Proof.Machine.execDiv o s
  | .divu o => Sys2Proof.Machine.execDivu o s
  | .rem o => Sys2Proof.Machine.execRem o s
  | .remu o => Sys2Proof.Machine.execRemu o s
  | .shl o => Sys2Proof.Machine.execShl o s
  | .shr o => Sys2Proof.Machine.execShr o s
  | .sra o => Sys2Proof.Machine.execSra o s
  | .rol o => Sys2Proof.Machine.execRol o s
  | .clz o => Sys2Proof.Machine.execClz o s
  | .ctz o => Sys2Proof.Machine.execCtz o s
  | .popc o => Sys2Proof.Machine.execPopc o s
  | .brev o => Sys2Proof.Machine.execBrev o s
  | .bfx o => Sys2Proof.Machine.execBfx o s
  | .bfi o => Sys2Proof.Machine.execBfi o s
  | .sext o => Sys2Proof.Machine.execSext o s
  | .zext o => Sys2Proof.Machine.execZext o s
  | .ld o => Sys2Proof.Machine.execLd o s
  | .ldx o => Sys2Proof.Machine.execLdx o s
  | .st o => Sys2Proof.Machine.execSt o s
  | .pld o => Sys2Proof.Machine.execPld o s
  | .pst o => Sys2Proof.Machine.execPst o s
  | .li o => Sys2Proof.Machine.execLi o s
  | .pset o => Sys2Proof.Machine.execPset o s
  | .pstride o => Sys2Proof.Machine.execPstride o s
  | .padd o => Sys2Proof.Machine.execPadd o s
  | .pmov o => Sys2Proof.Machine.execPmov o s
  | .pget o => Sys2Proof.Machine.execPget o s
  | .pcmp o => Sys2Proof.Machine.execPcmp o s
  | .b cond off => Sys2Proof.Machine.execB cond off s
  | .j off => Sys2Proof.Machine.execJ off s
  | .call off => Sys2Proof.Machine.execCall off s
  | .ret off => Sys2Proof.Machine.execRet off s
  | .ja off => Sys2Proof.Machine.execJa off s
  | .calla off => Sys2Proof.Machine.execCalla off s
  | .rpt len stag count => Sys2Proof.Machine.execRpt len stag count s
  | .rptA len stag => Sys2Proof.Machine.execRptA len stag s
  | .fadd o => Sys2Proof.Machine.execFadd o s
  | .fsub o => Sys2Proof.Machine.execFsub o s
  | .fmul o => Sys2Proof.Machine.execFmul o s
  | .fma o => Sys2Proof.Machine.execFma o s
  | .fmin o => Sys2Proof.Machine.execFmin o s
  | .fmax o => Sys2Proof.Machine.execFmax o s
  | .fdiv o => Sys2Proof.Machine.execFdiv o s
  | .fsqrt o => Sys2Proof.Machine.execFsqrt o s
  | .fcmp o => Sys2Proof.Machine.execFcmp o s
  | .fcvt o => Sys2Proof.Machine.execFcvt o s
  | .fsgn o => Sys2Proof.Machine.execFsgn o s
  | .vadd o => Sys2Proof.Machine.execVadd o s
  | .vsub o => Sys2Proof.Machine.execVsub o s
  | .vmul o => Sys2Proof.Machine.execVmul o s
  | .vmac o => Sys2Proof.Machine.execVmac o s
  | .vmin o => Sys2Proof.Machine.execVmin o s
  | .vmax o => Sys2Proof.Machine.execVmax o s
  | .vand o => Sys2Proof.Machine.execVand o s
  | .vor o => Sys2Proof.Machine.execVor o s
  | .vxor o => Sys2Proof.Machine.execVxor o s
  | .vshl o => Sys2Proof.Machine.execVshl o s
  | .vshr o => Sys2Proof.Machine.execVshr o s
  | .vsra o => Sys2Proof.Machine.execVsra o s
  | .vcmp o => Sys2Proof.Machine.execVcmp o s
  | .vsel o => Sys2Proof.Machine.execVsel o s
  | .vfadd o => Sys2Proof.Machine.execVfadd o s
  | .vfsub o => Sys2Proof.Machine.execVfsub o s
  | .vfmul o => Sys2Proof.Machine.execVfmul o s
  | .vfma o => Sys2Proof.Machine.execVfma o s
  | .vfmin o => Sys2Proof.Machine.execVfmin o s
  | .vfmax o => Sys2Proof.Machine.execVfmax o s
  | .vfcmp o => Sys2Proof.Machine.execVfcmp o s
  | .vfcvt o => Sys2Proof.Machine.execVfcvt o s
  | .vfrcp o => Sys2Proof.Machine.execVfrcp o s
  | .vfrsq o => Sys2Proof.Machine.execVfrsq o s
  | .vfexp o => Sys2Proof.Machine.execVfexp o s
  | .vflog o => Sys2Proof.Machine.execVflog o s
  | .vld o => Sys2Proof.Machine.execVld o s
  | .vst o => Sys2Proof.Machine.execVst o s
  | .vsplat o => Sys2Proof.Machine.execVsplat o s
  | .vext o => Sys2Proof.Machine.execVext o s
  | .vins o => Sys2Proof.Machine.execVins o s
  | .vperm o => Sys2Proof.Machine.execVperm o s
  | .vsum o => Sys2Proof.Machine.execVsum o s
  | .vmaxr o => Sys2Proof.Machine.execVmaxr o s
  | .vmask o => Sys2Proof.Machine.execVmask o s
  | .vslide o => Sys2Proof.Machine.execVslide o s
  | .send o => Sys2Proof.Machine.execSend o s
  | .sendv o => Sys2Proof.Machine.execSendv o s
  | .recv o => Sys2Proof.Machine.execRecv o s
  | .peek o => Sys2Proof.Machine.execPeek o s
  | .offer o => Sys2Proof.Machine.execOffer o s
  | .pull o => Sys2Proof.Machine.execPull o s
  | .hret o => Sys2Proof.Machine.execHret o s
  | .tagset o => Sys2Proof.Machine.execTagset o s
  | .tagclr o => Sys2Proof.Machine.execTagclr o s
  | .chr o => Sys2Proof.Machine.execChr o s
  | .chw o => Sys2Proof.Machine.execChw o s
  | .chwv o => Sys2Proof.Machine.execChwv o s
  | .chst o => Sys2Proof.Machine.execChst o s
  | .barw o => Sys2Proof.Machine.execBarw o s
  | .bart o => Sys2Proof.Machine.execBart o s
  | .pause o => Sys2Proof.Machine.execPause o s
  | .waitq o => Sys2Proof.Machine.execWaitq o s
  | .yield o => Sys2Proof.Machine.execYield o s
  | .stkh o => Sys2Proof.Machine.execStkh o s
  | .align o => Sys2Proof.Machine.execAlign o s
  | .circ o => Sys2Proof.Machine.execCirc o s
  | .rank o => Sys2Proof.Machine.execRank o s
  | .tree o => Sys2Proof.Machine.execTree o s
  | .rld o => Sys2Proof.Machine.execRld o s
  | .rldAcq o => Sys2Proof.Machine.execRldAcq o s
  | .rst o => Sys2Proof.Machine.execRst o s
  | .rstRel o => Sys2Proof.Machine.execRstRel o s
  | .rldv o => Sys2Proof.Machine.execRldv o s
  | .rstv o => Sys2Proof.Machine.execRstv o s
  | .aadd o => Sys2Proof.Machine.execAadd o s
  | .aand o => Sys2Proof.Machine.execAand o s
  | .aor o => Sys2Proof.Machine.execAor o s
  | .axor o => Sys2Proof.Machine.execAxor o s
  | .amin o => Sys2Proof.Machine.execAmin o s
  | .amax o => Sys2Proof.Machine.execAmax o s
  | .aminu o => Sys2Proof.Machine.execAminu o s
  | .amaxu o => Sys2Proof.Machine.execAmaxu o s
  | .aswp o => Sys2Proof.Machine.execAswp o s
  | .acas o => Sys2Proof.Machine.execAcas o s
  | .fence arg => Sys2Proof.Machine.execFence arg s
  | .waitc arg => Sys2Proof.Machine.execWaitc arg s
  | .gtag arg => Sys2Proof.Machine.execGtag arg s
  | .gnew arg => Sys2Proof.Machine.execGnew arg s
  | .gnewAllocation t k => Sys2Proof.Machine.execGnewAllocation t k s
  | .pcfg o => Sys2Proof.Machine.execPcfg o s
  | .pdot o => Sys2Proof.Machine.execPdot o s
  | .ppack o => Sys2Proof.Machine.execPpack o s
  | .punpk o => Sys2Proof.Machine.execPunpk o s
  | .maclm o => Sys2Proof.Machine.execMaclm o s
  | .marel o => Sys2Proof.Machine.execMarel o s
  | .mard o => Sys2Proof.Machine.execMard o s
  | .mawm o => Sys2Proof.Machine.execMawm o s
  | .maclr o => Sys2Proof.Machine.execMaclr o s
  | .cpy o => Sys2Proof.Machine.execCpy o s
  | .cpyq o => Sys2Proof.Machine.execCpyq o s
  | .inbox o => Sys2Proof.Machine.execInbox o s
  | .grnw o => Sys2Proof.Machine.execGrnw o s
  | .grn o => Sys2Proof.Machine.execGrn o s
  | .coll o => Sys2Proof.Machine.execColl o s
  | .collw o => Sys2Proof.Machine.execCollw o s
  | .trap arg => Sys2Proof.Machine.execTrap arg s
  | .sysc arg => Sys2Proof.Machine.execSysc arg s
  | .eret arg => Sys2Proof.Machine.execEret arg s
  | .gets arg => Sys2Proof.Machine.execGets arg s
  | .sets arg => Sys2Proof.Machine.execSets arg s
  | .exit arg => Sys2Proof.Machine.execExit arg s
  | .launch arg => Sys2Proof.Machine.execLaunch arg s
  | .wdog arg => Sys2Proof.Machine.execWdog arg s
  | .metr arg => Sys2Proof.Machine.execMetr arg s
  | .plbw arg => Sys2Proof.Machine.execPlbw arg s
  | .plbi arg => Sys2Proof.Machine.execPlbi arg s
  | .halt arg => Sys2Proof.Machine.execHalt arg s
  | .trapEntry t k => Sys2Proof.Machine.execTrapEntry t k s
  | .preemptionEvent t k => Sys2Proof.Machine.execPreemptionEvent t k s
  | .handlerDispatch t => Sys2Proof.Machine.execHandlerDispatch t s
  | .watchdog t k => Sys2Proof.Machine.execWatchdog t k s
  | .pauseExpiry t k => Sys2Proof.Machine.execPauseExpiry t k s
  | .messageInjection t k n => Sys2Proof.Machine.execMessageInjection t k n s
  | .releaseInjection t k n => Sys2Proof.Machine.execReleaseInjection t k n s
  | .messageVisible n => Sys2Proof.Machine.execMessageVisible n s
  | .channelWordArrival n => Sys2Proof.Machine.execChannelWordArrival n s
  | .creditReturn n => Sys2Proof.Machine.execCreditReturn n s
  | .joinerRequest die => Sys2Proof.Machine.execJoinerRequest die s
  | .farJoinerWrite die => Sys2Proof.Machine.execFarJoinerWrite die s
  | .circuitTeardownDrain n => Sys2Proof.Machine.execCircuitTeardownDrain n s
  | .joinerReply die => Sys2Proof.Machine.execJoinerReply die s
  | .pullRequest n => Sys2Proof.Machine.execPullRequest n s
  | .pullCompletion n => Sys2Proof.Machine.execPullCompletion n s
  | .pullReleaseNotice n => Sys2Proof.Machine.execPullReleaseNotice n s
  | .homeNiAccess n => Sys2Proof.Machine.execHomeNiAccess n s
  | .remoteReply n => Sys2Proof.Machine.execRemoteReply n s
  | .storeAcknowledge n => Sys2Proof.Machine.execStoreAcknowledge n s
  | .entryPortRequest n => Sys2Proof.Machine.execEntryPortRequest n s
  | .faultRecordWrite n => Sys2Proof.Machine.execFaultRecordWrite n s
  | .faultFlush => Sys2Proof.Machine.execFaultFlush s
  | .faultDismiss n => Sys2Proof.Machine.execFaultDismiss n s
  | .homePortAccess n => Sys2Proof.Machine.execHomePortAccess n s
  | .replicaWrite n copy => Sys2Proof.Machine.execReplicaWrite n copy s
  | .invalidation lo hi => Sys2Proof.Machine.execInvalidation lo hi s
  | .invalidationAcknowledge n => Sys2Proof.Machine.execInvalidationAcknowledge n s
  | .generationSweep t => Sys2Proof.Machine.execGenerationSweep t s
  | .scratchpadWriteback t => Sys2Proof.Machine.execScratchpadWriteback t s
  | .barrierCompletion n => Sys2Proof.Machine.execBarrierCompletion n s
  | .barrierTimeout t k => Sys2Proof.Machine.execBarrierTimeout t k s
  | .alignRelease t k => Sys2Proof.Machine.execAlignRelease t k s
  | .alignTimeout t k => Sys2Proof.Machine.execAlignTimeout t k s
  | .stookWindowEnd bay stook => Sys2Proof.Machine.execStookWindowEnd bay stook s
  | .stookFillerStep t => Sys2Proof.Machine.execStookFillerStep t s
  | .stookThrottle t => Sys2Proof.Machine.execStookThrottle t s
  | .permitRefill t => Sys2Proof.Machine.execPermitRefill t s
  | .powerControl die => Sys2Proof.Machine.execPowerControl die s
  | .planeCommandStart t => Sys2Proof.Machine.execPlaneCommandStart t s
  | .pdotAddition t => Sys2Proof.Machine.execPdotAddition t s
  | .packWrite t => Sys2Proof.Machine.execPackWrite t s
  | .copyStart bay => Sys2Proof.Machine.execCopyStart bay s
  | .copyCompletion t => Sys2Proof.Machine.execCopyCompletion t s
  | .granaryLoad n => Sys2Proof.Machine.execGranaryLoad n s
  | .granaryCompute n => Sys2Proof.Machine.execGranaryCompute n s
  | .combineForward n => Sys2Proof.Machine.execCombineForward n s
  | .collectiveResult t k => Sys2Proof.Machine.execCollectiveResult t k s
  | .submission src => Sys2Proof.Machine.execSubmission src s
  | .launchSubmissionRecord n => Sys2Proof.Machine.execLaunchSubmissionRecord n s
  | .queueDispatch q => Sys2Proof.Machine.execQueueDispatch q s
  | .signalRead lid => Sys2Proof.Machine.execSignalRead lid s
  | .sliceBoundary => Sys2Proof.Machine.execSliceBoundary s
  | .placement lid => Sys2Proof.Machine.execPlacement lid s
  | .launchRelease lid t => Sys2Proof.Machine.execLaunchRelease lid t s
  | .launchCompletion lid => Sys2Proof.Machine.execLaunchCompletion lid s
  | .launchAbort lid => Sys2Proof.Machine.execLaunchAbort lid s
  | .budgetExhaustion tenant => Sys2Proof.Machine.execBudgetExhaustion tenant s
  | .tileSave t => Sys2Proof.Machine.execTileSave t s
  | .saveComplete lid => Sys2Proof.Machine.execSaveComplete lid s
  | .resumption lid => Sys2Proof.Machine.execResumption lid s
  | .meterFlush t => Sys2Proof.Machine.execMeterFlush t s
  | .meteringSnapshot tenant nonce => Sys2Proof.Machine.execMeteringSnapshot tenant nonce s
  | .metrSample n => Sys2Proof.Machine.execMetrSample n s
  | .rqhWrite t k q v => Sys2Proof.Machine.execRqhWrite t k q v s
  | .tmsgDrop t k => Sys2Proof.Machine.execTmsgDrop t k s
  | .tmsgRetry t k => Sys2Proof.Machine.execTmsgRetry t k s
  | .oinfoFree t ix => Sys2Proof.Machine.execOinfoFree t ix s
  | .oinfoRedo t ix => Sys2Proof.Machine.execOinfoRedo t ix s
  | .oovfClear t v => Sys2Proof.Machine.execOovfClear t v s
  | .bayrateWrite die bay v => Sys2Proof.Machine.execBayrateWrite die bay v s
  | .rankEntryWrite t r v => Sys2Proof.Machine.execRankEntryWrite t r v s
  | .serviceSlotWrite stack ix v => Sys2Proof.Machine.execServiceSlotWrite stack ix v s
  | .debugDataRead t off => Sys2Proof.Machine.execDebugDataRead t off s
  | .debugDataWrite t off v => Sys2Proof.Machine.execDebugDataWrite t off v s
  | .debugTagRead t off => Sys2Proof.Machine.execDebugTagRead t off s
  | .debugTagWrite t off v => Sys2Proof.Machine.execDebugTagWrite t off v s
  | .contextWindowAccess t k off v => Sys2Proof.Machine.execContextWindowAccess t k off v s
  | .loftWindowWrite bay word v => Sys2Proof.Machine.execLoftWindowWrite bay word v s
  | .fleetListWrite tenant mods => Sys2Proof.Machine.execFleetListWrite tenant mods s
  | .measExtend ix m => Sys2Proof.Machine.execMeasExtend ix m s
  | .binGrant g bin tenant => Sys2Proof.Machine.execBinGrant g bin tenant s
  | .binGenerationAdvance g tenant => Sys2Proof.Machine.execBinGenerationAdvance g tenant s
  | .registerWrite r v => Sys2Proof.Machine.execRegisterWrite r v s
  | .bulkWindowAccess vf off n v => Sys2Proof.Machine.execBulkWindowAccess vf off n v s
  | .hubReset => Sys2Proof.Machine.execHubReset s
  | .dieReset die => Sys2Proof.Machine.execDieReset die s
  | .partitionReset tenant => Sys2Proof.Machine.execPartitionReset tenant s
  | .functionLevelReset vf => Sys2Proof.Machine.execFunctionLevelReset vf s
  | .targetLoss x => Sys2Proof.Machine.execTargetLoss x s
  | .crossingCalibration die edge ok => Sys2Proof.Machine.execCrossingCalibration die edge ok s
  | .splineExchange p t1 t2 t3 t4 offset => Sys2Proof.Machine.execSplineExchange p t1 t2 t3 t4 offset s
  | .bayRetirement bay => Sys2Proof.Machine.execBayRetirement bay s
  | .rdmaPacket p => Sys2Proof.Machine.execRdmaPacket p s
  | .rdmaFlagWrite n => Sys2Proof.Machine.execRdmaFlagWrite n s
  | .connectionMiss n => Sys2Proof.Machine.execConnectionMiss n s
  | .getVersion => Sys2Proof.Machine.execGetVersion s
  | .getCapabilities => Sys2Proof.Machine.execGetCapabilities s
  | .negotiateAlgorithms => Sys2Proof.Machine.execNegotiateAlgorithms s
  | .getDigests => Sys2Proof.Machine.execGetDigests s
  | .getCertificate ix => Sys2Proof.Machine.execGetCertificate ix s
  | .challenge c => Sys2Proof.Machine.execChallenge c s
  | .getMeasurements ix => Sys2Proof.Machine.execGetMeasurements ix s
  | .spdmUnsupported code => Sys2Proof.Machine.execSpdmUnsupported code s
  | .loftLineFetch bay line => Sys2Proof.Machine.execLoftLineFetch bay line s
  | .pcieCompletion n ok bytes => Sys2Proof.Machine.execPcieCompletion n ok bytes s
  | .tenantDeletion tenant => Sys2Proof.Machine.execTenantDeletion tenant s

end Sys2Proof.Machine
end

