-- ==== Sys2Proof/Machine/Run.lean ====
section
/-! DEFINITION. A turn of the module: one tile cycle, an event, or time passing (assumption 2). -/

namespace Sys2Proof.Machine

/-! ### Events that wait to happen -/

/-- The place of R235 that the access of request `n` of the network takes in a tile's cycle: 2 for the NI, 4 for the debug
window. -/
def flightPlace (s : State) (n : Nat) : Option (Nat × Nat) :=
  match s.flights[n]? with
  | some f => (match f.req.route with
    | .tile _ _ dst _ => some (dst, 2)
    | .config => if vaBlock f.req.va = 1 ∧ vaSpace f.req.va = 0xE then (vaTile f.req.va).toOption.map (·, 4) else none
    | .mem => none)
  | none => none
/-- The place of the stream that request `n` starts: an engine reads the region. -/
def pullPlace (s : State) (n : Nat) : Option (Nat × Nat) :=
  match s.flights[n]? with
  | some f => (match f.req.route with | .tile _ _ dst _ => some (dst, 3) | _ => none)
  | none => none
/-- The place of the flag that connection `n` writes next: the NI writes it. -/
def flagPlace (s : State) (n : Nat) : Option (Nat × Nat) :=
  match s.conns[n]? with
  | some c => (c.window.find? (·.seq == c.last + 1)).bind fun x => x.flag.map fun f => (packetTile f.1, 2)
  | none => none
/-- The tile whose scratchpad the event accesses, and the event's place in the tile's cycle (R235): 2 for the NI, 3 for
the engines, 4 for the debug window. -/
def eventPlace (e : Instr) (s : State) : Option (Nat × Nat) :=
  match e with
  | .messageVisible n | .homeNiAccess n => flightPlace s n
  | .rdmaPacket (.data p) => some (packetTile p.base, 2)
  | .rdmaFlagWrite n => flagPlace s n
  | .pullRequest n => pullPlace s n
  | .pullCompletion n => s.streams[n]?.map fun st => (st.tile, 3)
  | .granaryCompute n => s.gran[n]?.map fun g => (g.tile, 3)
  | .planeCommandStart t | .pdotAddition t | .packWrite t | .copyCompletion t => some (t, 3)
  | .debugDataRead t _ | .debugDataWrite t _ _ | .debugTagRead t _ | .debugTagWrite t _ _ => some (t, 4)
  | _ => none
/-- The place is still to come in the tile's cycle: no access of a later place has been made in it (R235). -/
def placeOpen (s : State) : Option (Nat × Nat) → Bool
  | some tp => decide ((s.getTile tp.1).port ≤ tp.2)
  | none => true
/-- An access has been made at its place. -/
def notePlace (place : Option (Nat × Nat)) (s : State) : State :=
  match place with | some tp => s.modTile tp.1 fun tl => { tl with port := tp.2 } | none => s
/-- An access at its place in the tile's cycle. -/
def inPlace (place : Option (Nat × Nat)) (f : State → Result) (s : State) : Result :=
  match f s with
  | .next s' => .next (notePlace place s')
  | r => r

/-- The body of an event, with the place of its access. -/
abbrev Pending := Option (Nat × Nat) × (State → Option State)
/-- Bodies that access no scratchpad of a tile whose order R235 fixes. -/
def free (l : List (State → Option State)) : List Pending := l.map fun f => (none, f)
/-- The first of some events that can happen. -/
def firstBody (s : State) : List Pending → Option State
  | [] => none
  | p :: r => match (if placeOpen s p.1 then p.2 s else none) with
    | some s' => some (notePlace p.1 s')
    | none => firstBody s r
/-- A body for every number below a bound. -/
def upTo (n : Nat) (f : Nat → State → Option State) : List (State → Option State) := (List.range n).map f

/-- What the NI of the focus tile can send. -/
def niBodies (s : State) : List Pending :=
  free ((List.range 8).flatMap fun k => (List.range (s.tile.slot k).niq.length).flatMap fun n =>
    [messageInjectionBody s.tid k n, releaseInjectionBody s.tid k n])
/-- What is under way in the network and the memory system. -/
def flightBodies (s : State) : List Pending :=
  (List.range (s.flights.length + s.metr.length)).flatMap (fun n =>
    [(none, remoteReplyBody n), (none, storeAcknowledgeBody n), (flightPlace s n, messageVisibleBody n),
     (none, entryPortBody n), (none, homePortBody n), (pullPlace s n, pullRequestBody n)]
      ++ free (upTo 16 (replicaWriteBody n)))
    ++ free (upTo s.words.length channelWordArrivalBody ++ upTo s.credits.length creditReturnBody)
    ++ s.streams.mapIdx (fun n st => (some (st.tile, 3), pullCompletionBody n))
    ++ free (upTo s.streams.length pullReleaseNoticeBody ++ upTo s.heldFaults.length faultRecordBody
      ++ upTo s.invals.length invalidationAckBody)
/-- What the joiners have to do. -/
def joinerBodies (s : State) : List Pending :=
  free (upTo 16 farJoinerWriteBody ++ upTo 16 joinerReplyBody ++ upTo 16 joinerRequestBody
    ++ upTo s.drains.length teardownDrainBody)
/-- What the focus tile's engines have to do, and what its contexts wait for. -/
def tileBodies (s : State) : List Pending :=
  [(some (s.tid, 3), planeStartBody s.tid), (some (s.tid, 3), pdotAdditionBody s.tid), (some (s.tid, 3), packWriteBody s.tid)]
    ++ free ([copyStartBody (bayOf s.tid), scratchpadWritebackBody s.tid]
      ++ (List.range 8).flatMap fun k => [gnewAllocationBody s.tid k, alignReleaseBody s.tid k, collectiveResultBody s.tid k])
    ++ s.gran.mapIdx (fun n g => (some (g.tile, 3), granaryComputeBody n))
    ++ free (upTo s.episodes.length barrierCompletionBody ++ upTo s.waves.length combineForwardBody)
/-- What a launch record waits for. -/
def recordBodies (l : Launch) : List (State → Option State) :=
  let lid := l.lid.toNat
  [queueDispatchBody l.q] ++ l.tiles.map (launchReleaseBody lid) ++ [launchCompletionBody lid] ++ l.tiles.map tileSaveBody
    ++ [saveCompleteBody lid, resumptionBody lid]
/-- A body counts as happening only where something changes: what its access waits for comes later. -/
def changing (f : State → Option State) (s : State) : Option State :=
  match f s with | some s' => if s' = s then none else some s' | none => none
/-- The same of an event that answers a result. -/
def changed (s : State) : Result → Option Result
  | .next s' => if s' = s then none else some (.next s')
  | r => some r
/-- What the hub has to do. -/
def hubBodies (s : State) : List Pending :=
  free (upTo s.metr.length metrSampleBody ++ upTo s.subs.length (fun n => submissionBody (.launch n))
      ++ upTo s.subs.length launchRecordBody)
    ++ (List.range s.conns.length).map (fun n => (flagPlace s n, changing (rdmaFlagWriteBody n)))
    ++ free (s.launches.flatMap recordBodies ++ s.tenants.map (fun kt => budgetExhaustionBody kt.1)
      ++ s.launches.flatMap fun l => [changing (signalReadBody l.lid.toNat), changing (placementBody l.lid.toNat)])

/-- The line that the focus tile asks for. -/
def lineBody (s : State) : List Pending :=
  match firstAsked s with
  | some l => free [loftLineFetchBody (bayOf s.tid) l]
  | none => []

/-- A window access that its home NI can perform. -/
def homeNiReady (s : State) (n : Nat) : Bool :=
  placeOpen s (flightPlace s n) && match firstOnWire s n with
  | some f => (match f.req.op, f.req.route with
    | .msg _ _, _ => false
    | .pull _ _ _ _, _ => false
    | _, .mem => false
    | _, _ => true)
  | none => false
/-- The focus tile's copy can go on. -/
def copyReady (s : State) : Bool := placeOpen s (some (s.tid, 3)) && match s.tile.copyRun with | some c => !c.waits | none => false

/-- The first event that can happen. -/
def progress (s : State) : Option Result :=
  match firstBody s (lineBody s ++ (niBodies s ++ flightBodies s ++ joinerBodies s ++ tileBodies s)) with
  | some s' => some (.next s')
  | none =>
    match (List.range s.flights.length).find? (homeNiReady s) with
    | some n => some (inPlace (flightPlace s n) (execHomeNiAccess n) s)
    | none =>
      match (if copyReady s then changed s (inPlace (some (s.tid, 3)) (execCopyCompletion s.tid) s) else none) with
      | some r => some r
      | none => match (List.range s.gran.length).findSome? fun n => changed s (execGranaryLoad n s) with
        | some r => some r
        | none => (firstBody s (hubBodies s)).map .next

/-- One tile cycle. -/
def tileCycle (s : State) : Result := (runCycle (beginCycle s)).2

/-- The instruction is an event of the opcode table: it has no encoding. -/
def isEvent (i : Instr) : Bool := (encode i).isEmpty

/-! ### Time -/

/-- Slot-cycles of the circuits of a die, memory, granary and combining circuits among them (R153, R216, R294, R295),
for `n` fabric cycles. -/
def meterCircuits (die n : Nat) (s : State) : State :=
  s.circuits.foldl (fun (s : State) (kc : Nat × Circuit) =>
    if dieOf kc.2.src = die then s.hubMeter kc.2.tenant 4 (kc.2.base.length * n) else s) s
/-- Service slot-cycles of a die's stack (R221). -/
def meterService (die n : Nat) (s : State) : State :=
  (List.range 64).foldl (fun s ix =>
    let e := SMap.get 0 s.wheelOn (serviceKey die ix)
    if e.getLsbD 9 then s.hubMeter (e.extractLsb' 0 9).toNat 5 n else s) s
/-- Charge every tenant for the bays it holds in `n` hub cycles (R341, R350). -/
def chargeBays (n : Nat) (s : State) : State :=
  s.bays.foldl (fun (s : State) (kb : Nat × Bay) =>
    match s.bayTenant kb.1 with
    | some t =>
      let x := s.getTenant t
      (s.setTenant t { x with deficit := x.deficit - BitVec.ofNat 64 n, budget := x.budget - n }).hubMeter t 0 n
    | none => s) s

/-- Fabric cycles of a die pass for its stack's wheel: a revolution of 64 slots starts where the die's count is a multiple
of 64 (R145, R411). -/
def spinWheel (die n : Nat) (s : State) : State :=
  let left := 64 - (s.getDie die).fc % 64
  if n < left then meterService die n s else meterService die (n - left) (turnWheel die (meterService die left s))
/-- A hub cycle has passed: what it held is past. -/
def newHubCycle (hub : Nat) (s : State) : State :=
  if hub = 0 then s else { s with hubCyc := s.hubCyc + BitVec.ofNat 64 hub, flrs := [], newLids := [] }
/-- Time passes on a die and at the hub. -/
def passTime (die fabric hub : Nat) (s : State) : State :=
  newHubCycle hub ((spinWheel die fabric (meterCircuits die fabric (chargeBays hub s))).modDie die fun d =>
    { d with fc := d.fc + fabric })

/-- Take a turn. -/
def runTurn : Turn → State → Result
  | .issue t, s => if tileOk t then tileCycle (s.focus t) else .fault .noSuchUnit
  | .act e, s => if isEvent e then inPlace (eventPlace e s) (exec e) s else .next s
  | .time die fabric hub, s => .next (passTime die fabric hub s)

/-- The tile after the focus tile that holds more than the reset state, or the first. -/
def nextTile (s : State) : Nat :=
  match s.others.find? fun kt => decide (s.tid < kt.1) with
  | some kt => kt.1
  | none => match s.others with | kt :: _ => kt.1 | [] => s.tid

/-- What comes with the time that has passed: the power controller every 4,096 fabric cycles (R357), and the slice
boundary (R341). -/
def onTime (die : Nat) (s : State) : State :=
  let s1 := if (s.getDie die).fc % 4096 = 0 then (powerControlBody die s).getD s else s
  if s1.hubCyc.toNat % s1.slice = 0 then (sliceBoundaryBody s1).getD s1 else s1

/-- The first pending event happens, if there is one; a fabric cycle of the focus die and a hub cycle pass (assumption
25); and the next tile becomes the focus. -/
def betweenTurns (s : State) : Result :=
  match (progress s).getD (.next s) with
  | .next s' => .next ((onTime (dieOf s'.tid) (passTime (dieOf s'.tid) 1 1 s')).focus (nextTile s'))
  | r => r

/-- With no turn listed, the focus tile takes a cycle. After a cycle in which a context acted, the next such step is
another's: a pending event happens and the focus moves on. Where nothing can act, both happen at once. -/
def freeTurn (s : State) : Result :=
  if s.acted then betweenTurns { s with acted := false }
  else match runCycle (beginCycle s) with
    | (true, .next s') => .next { s' with acted := true }
    | (false, .next s') => betweenTurns s'
    | (_, r) => r

/-- The tile whose next cycle has to come before the turn: the place of the event's access has passed in the cycle under
way (R235). -/
def turnWaits (s : State) : Turn → Option Nat
  | .act e => if placeOpen s (eventPlace e s) then none else (eventPlace e s).map Prod.fst
  | _ => none

/-- One step of the module. -/
def runStep (s : State) : Result :=
  match s.turns with
  | [] => freeTurn s
  | t :: r => match turnWaits s t with
    | some n => tileCycle (s.focus n)
    | none => runTurn t { s with turns := r }

/-! ### Placing one instruction for the next step -/

/-- A user thread at the PC of the focus tile's slot 0, where that slot is empty; it is next to issue and waits for
nothing, its instruction fetched: both words of a pair, whose first has then had its turn. -/
def readySlot (pre : Option (Word × Word)) (lines : List Nat) (sl : Slot) : Slot :=
  { sl with st := if sl.st = .empty then .user else sl.st, pause := 0, pauseDue := false, yielded := 0, wait := none, entered := .no,
            busy := [], pre := pre, lines := lines }

/-- The bytes of the instruction in the loft at the PC, and slot 0 to issue it next. -/
def placeWord (s : State) (w : Nat) : State :=
  let bytes := bytesOfNat 8 w
  let w0 := wordOf (bytes.take 4)
  let pc := (s.tile.slot 0).bank.pc.toNat
  let pre := if isPair w0 then some (w0, wordOf (bytes.drop 4)) else none
  let s1 := { s with turns := [], acted := false, cur := 0, mem := writeBytes s.mem (loftBase (bayOf s.tid) + 4 * pc) bytes }
  let tl := s.tile.setSlot 0 (readySlot pre [pc / 4, pc / 4 + 1] (s.tile.slot 0))
  ({ s1 with tile := { tl with last := 7 } }).modBay (bayOf s.tid) fun b => { b with ran := [] }

end Sys2Proof.Machine
end

