-- ==== Sys2Proof/Safety.lean ====
section
/-! DEFINITION. A safe state and a safe run. -/

namespace Sys2Proof.Safety
open Sys2Proof.Machine

/-- The parts of a state that hold data in canonical form. -/
def Canonical (s : State) : Prop := s.mem.wf = true

/-- No step from the state stops the machine with a fault. -/
def NoFault (s : State) : Prop := ∀ f, step s ≠ .fault f

end Sys2Proof.Safety
end

