-- ==== Sys2Proof/Certificates/Slice0/Obligations.lean ====
section
/-! DEFINITION. The statements for the provers. Under Sys2Proof.Claims stand the spec-level notions that they use:
when an operand can be read and what it holds, and the results of the spec's tables, written independently of the meanings. -/

namespace Sys2Proof.Claims
open Sys2Proof Sys2Proof.Machine

/-! ### Conditions on a state that several statements share -/

/-- The counter that a w field names is zero (R59). -/
def CounterZero (w : BitVec 2) (s : State) : Prop :=
  (w = 1 → s.slot.nb = 0) ∧ (w = 2 → s.slot.nm = 0) ∧ (w = 3 → s.slot.ne = 0)

/-- No fence of the context holds a read or a write (R243). -/
def Unfenced (read write : Bool) (s : State) : Prop := fenceGate read write s = .ok ()

/-- `n` bytes at `ea` lie in scratchpad and are aligned to `al` (R21, items 1 and 2). -/
def InReach (ea : Int) (n al : Nat) : Prop := 0 ≤ ea ∧ ea + n ≤ 32768 ∧ ea.toNat % al = 0

/-- The tag of the granule at an address stands to the context's generation as `c` (R25). -/
def TagIs (s : State) (a : Nat) (c : TagClass) : Prop := s.tile.tagClass s.slot.gen (a / 32) = c

/-- The issuing context's read of `n` bytes at `ea` completes, giving `bs` (R21, R25, Table 1.6): the data of a granule of
its own generation, zeros of a stale one under policy ZERO. No command of its own has still to write the bytes (R272). The
cell, payload or block of a store, message or engine command is read so, whatever fences hold loads. -/
def CellRead (s : State) (ea : Int) (n al : Nat) (bs : List Byte) : Prop :=
  InReach ea n al ∧ planeGate false ea.toNat n s = .ok () ∧
  ((TagIs s ea.toNat .own ∧ s.tile.badIn ea.toNat n = none ∧ bs = readBytes s.mem (spadBase s.tid + ea.toNat) n) ∨
   (TagIs s ea.toNat .stale ∧ s.slot.gpol = false ∧ bs = List.replicate n 0))

/-- A load of `n` bytes at `ea` completes, giving `bs`: no fence holds a read (R243). -/
def LocalRead (s : State) (ea : Int) (n al : Nat) (bs : List Byte) : Prop :=
  Unfenced true false s ∧ CellRead s ea n al bs

/-- The issuing context's write of `n` bytes at `ea` completes (R21, R25): the granule is not ahead, no command of its own
has still to read or write the bytes, and no doubleword that it writes in part fails its check (R414). -/
def CellWrite (s : State) (ea : Int) (al : Nat) (bs : List (Option Byte)) : Prop :=
  InReach ea bs.length al ∧ planeGate true ea.toNat bs.length s = .ok () ∧
  (TagIs s ea.toNat .stale ∨
   (TagIs s ea.toNat .own ∧
    ∀ d ∈ touchedDwords ea.toNat bs, d ∈ s.tile.bad → d ∈ coveredDwords ea.toNat bs))

/-- A store at `ea` completes: no fence holds a write (R243). -/
def LocalWrite (s : State) (ea : Int) (al : Nat) (bs : List (Option Byte)) : Prop :=
  Unfenced false true s ∧ CellWrite s ea al bs

/-- The head word of the channel that p names (R80). -/
def HeadWord (s : State) (p : BitVec 3) (w : DWord) : Prop :=
  ∃ e r, (s.slot.chan (p.extractLsb' 0 2)).r = some e ∧ s.chanBuf s.tid e = w :: r

/-- The first source operand of `n` bytes is `x` (Table 5.1): bytes of scratchpad, least significant first, or the low
bits of a channel's head word. -/
def ScalarSource (o : SOp) (ea : Int) (n : Nat) (s : State) (x : DWord) : Prop :=
  (o.src = 0 ∧ ∃ bs, LocalRead s ea n n bs ∧ x = dwordOf bs) ∨
  (o.src ≠ 0 ∧ ∃ w, HeadWord s o.p w ∧ x = w &&& BitVec.ofNat 64 (2 ^ (8 * n) - 1))

/-- Where the state after an instruction that completes at the next word or body position comes from: `t` holds the
instruction's effects, and `advance` moves PC and the repeat frame alone (R24, R99). -/
def Completes (i : Instr) (s t : State) : Prop := exec i s = .next (advance false t)

/-- An instruction traps and does nothing else: the trap registers take its cause and address, and %TPC its PC. -/
def Traps (i : Instr) (s : State) (t : Trap) : Prop := exec i s = .next (takeTrap t s.bank.pc s)

/-- Operand size of a size code (R59). -/
def bytesOfSize (sz : BitVec 2) : Nat := match sz with | 0#2 => 1 | 1#2 => 2 | 2#2 => 4 | _ => 8

/-- The low `n` bytes of `x` as a signed or an unsigned number, written in 64 bits. -/
def widen (signed : Bool) (n : Nat) (x : DWord) : DWord :=
  let m := x.toNat % 2 ^ (8 * n)
  if signed && decide (2 ^ (8 * n - 1) ≤ m) then BitVec.ofInt 64 ((m : Int) - 2 ^ (8 * n)) else BitVec.ofNat 64 m

/-! ### Integer arithmetic (Tables 5.3 to 5.5) -/

/-- Out of the range of int64. -/
def outside64 (x : Int) : Bool := decide (x < -(2 ^ 63)) || decide (2 ^ 63 ≤ x)

/-- The 64-bit result that the flags of a Table 5.3 member come from. -/
def aluRes (fn : AluFn) (a x : DWord) (c : Bool) : DWord :=
  match fn with
  | .add => a + x
  | .sub | .cmp => a - x
  | .adc => a + x + (if c then 1 else 0)
  | .sbc => a - x - (if c then 0 else 1)
  | .and => a &&& x
  | .or => a ||| x
  | .xor => a ^^^ x
  | .andn => a &&& ~~~x
  | .min => if x.slt a then x else a
  | .max => if a.slt x then x else a
  | .minu => if x.ult a then x else a
  | .maxu => if a.ult x then x else a
  | .mul => a * x
  | .mulh => ((a.signExtend 128 * x.signExtend 128) >>> 64).setWidth 64
  | .mulhu => ((a.zeroExtend 128 * x.zeroExtend 128) >>> 64).setWidth 64

/-- C after a member (R86): the carry of a sum, the not-borrow of a difference; else kept. -/
def aluC (fn : AluFn) (a x : DWord) (c : Bool) : Bool :=
  match fn with
  | .add => decide (2 ^ 64 ≤ a.toNat + x.toNat)
  | .adc => decide (2 ^ 64 ≤ a.toNat + x.toNat + c.toNat)
  | .sub | .cmp => decide (x.toNat ≤ a.toNat)
  | .sbc => decide (x.toNat + (!c).toNat ≤ a.toNat)
  | _ => c

/-- V after a member (R86): the exact signed result leaves int64; else kept. -/
def aluV (fn : AluFn) (a x : DWord) (c v : Bool) : Bool :=
  match fn with
  | .add => outside64 (a.toInt + x.toInt)
  | .adc => outside64 (a.toInt + x.toInt + c.toNat)
  | .sub | .cmp => outside64 (a.toInt - x.toInt)
  | .sbc => outside64 (a.toInt - x.toInt - (!c).toNat)
  | .mul => outside64 (a.toInt * x.toInt)
  | _ => v

/-- The bank after a member: A its result, or unchanged for `CMP`; N and Z from the result. -/
def aluBank (fn : AluFn) (x : DWord) (b : Bank) : Bank :=
  let r := aluRes fn b.a x b.f.c
  { b with
    a := if fn = .cmp then b.a else r
    f := { b.f with n := r.getLsbD 63, z := decide (r = 0), c := aluC fn b.a x b.f.c, v := aluV fn b.a x b.f.c b.f.v } }

/-- Sign extension in the operand form (Table 5.3, third column). -/
def aluSext : AluFn → Bool
  | .add | .sub | .adc | .sbc | .min | .max | .mul | .mulh | .cmp => true
  | _ => false

/-- The instruction of a member with an operand, and with an immediate. -/
def aluInstr : AluFn → SOp → Instr
  | .add => .add | .sub => .sub | .adc => .adc | .sbc => .sbc | .and => .and | .or => .or | .xor => .xor
  | .andn => .andn | .min => .min | .max => .max | .minu => .minu | .maxu => .maxu | .mul => .mul | .mulh => .mulh
  | .mulhu => .mulhu | .cmp => .cmp
def aluImmInstr : AluFn → IOp → Instr
  | .add => .addImm | .sub => .subImm | .adc => .adcImm | .sbc => .sbcImm | .and => .andImm | .or => .orImm
  | .xor => .xorImm | .andn => .andnImm | .min => .minImm | .max => .maxImm | .minu => .minuImm | .maxu => .maxuImm
  | .mul => .mulImm | .mulh => .mulhImm | .mulhu => .mulhuImm | .cmp => .cmpImm

/-- The immediate of an I-format word (Table 4.4): extended, then shifted left by 16 · sh. -/
def immValue (o : IOp) : DWord :=
  let x : Int := if o.mod.getLsbD 0 then o.imm.toNat else o.imm.toInt
  BitVec.ofInt 64 (x * 2 ^ (16 * o.sh.toNat))
/-- The immediate of a prefixed pair (Table 4.4): a signed number of 42 bits. -/
def pairValue (hi : BitVec 26) (lo : BitVec 16) : DWord := BitVec.ofInt 64 (hi.toInt * 2 ^ 16 + lo.toNat)

/-- Quotient, remainder and V (R87). -/
def quotRem (signed : Bool) (a x : DWord) : DWord × DWord × Bool :=
  if x = 0 then (BitVec.allOnes 64, a, true)
  else if signed && a == BitVec.intMin 64 && x == BitVec.allOnes 64 then (BitVec.intMin 64, 0, true)
  else if signed then (a.sdiv x, a.srem x, false)
  else (a / x, a % x, false)

/-- A and F after a division: N and Z from A, C kept. -/
def divBank (fn : DivFn) (x : DWord) (b : Bank) : Bank :=
  let d := quotRem (match fn with | .div | .rem => true | _ => false) b.a x
  let r := match fn with | .div | .divu => d.1 | _ => d.2.1
  { b with a := r, f := { b.f with n := r.getLsbD 63, z := decide (r = 0), v := d.2.2 } }
def divInstr : DivFn → SOp → Instr
  | .div => .div | .divu => .divu | .rem => .rem | .remu => .remu

/-- The bits of a Table 5.5 result, bit by bit: bit `j` of the result of each member on A. -/
def bitsBit (i : Instr) (a : DWord) (j : Nat) : Bool :=
  match i with
  | .shl o => decide ((o.imm.extractLsb' 0 6).toNat ≤ j) && a.getLsbD (j - (o.imm.extractLsb' 0 6).toNat)
  | .shr o => a.getLsbD (j + (o.imm.extractLsb' 0 6).toNat)
  | .sra o => if j + (o.imm.extractLsb' 0 6).toNat < 64 then a.getLsbD (j + (o.imm.extractLsb' 0 6).toNat) else a.getLsbD 63
  | .rol o => a.getLsbD ((j + 64 - (o.imm.extractLsb' 0 6).toNat) % 64)
  | .brev _ => a.getLsbD (63 - j)
  | .bfx o =>
    decide (j ≤ (o.imm.extractLsb' 6 6).toNat) && a.getLsbD ((o.imm.extractLsb' 0 6).toNat + j)
  | .bfi o =>
    let pos := (o.imm.extractLsb' 0 6).toNat
    if pos ≤ j ∧ j ≤ pos + (o.imm.extractLsb' 6 6).toNat then a.getLsbD (j - pos) else a.getLsbD j
  | .sext o =>
    let n := 8 * 2 ^ (o.imm.extractLsb' 0 2).toNat
    if j < n then a.getLsbD j else a.getLsbD (n - 1)
  | .zext o => decide (j < 8 * 2 ^ (o.imm.extractLsb' 0 2).toNat) && a.getLsbD j
  | _ => false

/-- N and Z follow a result written to A; C and V are kept (R88). -/
def nzBank (r : DWord) (b : Bank) : Bank :=
  { b with a := r, f := { b.f with n := r.getLsbD 63, z := decide (r = 0) } }

end Sys2Proof.Claims

open Sys2Proof Sys2Proof.Machine Sys2Proof.Claims

/-! ## Encoding and decoding -/

/-- Every well-formed instruction that has an encoding decodes from its bytes to itself, whatever follows them, with every
operand at every value the encoding admits (R58 to R78). -/
def Obligations.EncodeDecode : Prop :=
  ∀ (i : Instr) (rest : List Byte), i.wf = true → isEvent i = false →
    decode (encodeBytes i ++ rest) = .ok (i, (encodeBytes i).length)

/-- What the decoder accepts is well-formed, and its encoding is the bytes that were read: no bit of a word is ignored, so
a word with a reserved bit set is refused (R71). -/
def Obligations.DecodeEncode : Prop :=
  ∀ (bs : List Byte) (i : Instr) (n : Nat), decode bs = .ok (i, n) →
    i.wf = true ∧ isEvent i = false ∧ encodeBytes i = bs.take n ∧ (n = 4 ∨ n = 8)

/-- The words of Tables 4.7 and 4.8 decode as the tables say. -/
def Obligations.SampleWords : Prop :=
  decodeWord 0x181CC008 = some (.ld ⟨3, true, 0, 3, 0, 8⟩) ∧
  decodeWord 0x08298FFC = some (.add ⟨5, false, 1, 2, 0, 0xFFC⟩) ∧
  decodeWord 0x0810D000 = some (.add ⟨2, false, 0, 3, 1, 0⟩) ∧
  decodeWord 0x38C80420 = some (.vfma ⟨1, false, 0, 0, 0, 0x420⟩) ∧
  decodeWord 0x20FFFFFC = some (.b 3 0x3FFFFC) ∧
  decodeWord 0x80300005 = some (.gets 5) ∧
  decodeWord 0x28880064 = some (.rpt 2 1 100) ∧
  decodeWord 0 = none ∧ decodeWord 0x2C000000 = none ∧ decodeWord 0x11000000 = none ∧ decodeWord 0x58400000 = none ∧
  decodeWord 0x08003000 = none ∧ decodeWord 0x0814D000 = none ∧ decodeWord 0x0C020005 = none ∧
  decodeWord 0x24800001 = none ∧ decodeWord 0xFFFFFFFF = none ∧
  decodePair 0x04000001 0x08000000 = none ∧ decodePair 0x04000000 0x0C100001 = none ∧
  decodeWord 0x20400000 = some (.b 1 0) ∧ decodeWord 0x24400008 = some (.call 8)

/-! ## Integer instructions -/

/-- IALU (R84 to R86, Table 5.3): a member with a scratchpad or channel operand of any size writes A and the flags that the
table names, from A and the extended operand, and changes nothing else but what R84's step 5 moves. -/
def Sys2Proof.Claims.AluOperand : Prop :=
  ∀ (fn : AluFn) (o : SOp) (s : State) (x : DWord), (aluInstr fn o).wf = true → s.bank.free useAF = true →
    CounterZero o.w s → ScalarSource o (o.ea s.bank) (bytesOfSize o.sz) s x →
    Completes (aluInstr fn o) s
      (srcDone o false (s.setBank (aluBank fn (widen (aluSext fn) (bytesOfSize o.sz) x) s.bank)))

/-- IALUI, `LI` and the prefixed pair (R74, R85, R92, Table 4.4): the operand is the 64-bit immediate. -/
def Sys2Proof.Claims.AluImmediate : Prop :=
  (∀ (fn : AluFn) (o : IOp) (s : State), (aluImmInstr fn o).wf = true → s.bank.free useAF = true →
    Completes (aluImmInstr fn o) s (s.setBank (aluBank fn (immValue o) s.bank))) ∧
  (∀ (o : IOp) (s : State), (Instr.li o).wf = true → s.bank.free useA = true →
    Completes (.li o) s (s.setBank { s.bank with a := immValue o })) ∧
  (∀ (hi : BitVec 26) (op : PairOp) (lo : BitVec 16) (s : State), (Instr.ximm hi op lo).wf = true →
    s.bank.free useAF = true → s.bank.pc.toNat % 4096 ≠ 4095 → (s.bank.rpt.count = 0 ∨ s.bank.rpt.idx ≠ s.bank.rpt.len) →
    exec (.ximm hi op lo) s = .next (advance true (s.setBank
      (match op with
       | .li => { s.bank with a := pairValue hi lo }
       | .alu f => aluBank f (pairValue hi lo) s.bank))))

/-- IDIV (R87): quotient or remainder into A, N and Z from it, V as the rule says, C kept. No divisor traps. -/
def Obligations.Division : Prop :=
  ∀ (fn : DivFn) (o : SOp) (s : State) (x : DWord), (divInstr fn o).wf = true → s.bank.free useAF = true →
    CounterZero o.w s → ScalarSource o (o.ea s.bank) (bytesOfSize o.sz) s x →
    Completes (divInstr fn o) s
      (srcDone o false (s.setBank (divBank fn (widen (fn = .div ∨ fn = .rem) (bytesOfSize o.sz) x) s.bank)))

/-- BITS (R88, Table 5.5): each shift, rotation, reversal, field and extension gives the 64 bits that the table names, the
three counts their numbers; N and Z follow, and nothing else changes. -/
def Obligations.BitOperations : Prop :=
  (∀ (o : IOp) (s : State) (i : Instr),
    i ∈ [Instr.shl o, .shr o, .sra o, .rol o, .brev o, .bfx o, .bfi o, .sext o, .zext o] → i.wf = true →
    s.bank.free useAF = true →
    ∃ r : DWord, (∀ j < 64, r.getLsbD j = bitsBit i s.bank.a j) ∧ Completes i s (s.setBank (nzBank r s.bank))) ∧
  (∀ (o : IOp) (s : State), (Instr.clz o).wf = true → s.bank.free useAF = true →
    ∃ n ≤ 64, (∀ j < 64, 64 - n ≤ j → s.bank.a.getLsbD j = false) ∧ (n < 64 → s.bank.a.getLsbD (63 - n) = true) ∧
      Completes (.clz o) s (s.setBank (nzBank (BitVec.ofNat 64 n) s.bank))) ∧
  (∀ (o : IOp) (s : State), (Instr.ctz o).wf = true → s.bank.free useAF = true →
    ∃ n ≤ 64, (∀ j < n, s.bank.a.getLsbD j = false) ∧ (n < 64 → s.bank.a.getLsbD n = true) ∧
      Completes (.ctz o) s (s.setBank (nzBank (BitVec.ofNat 64 n) s.bank))) ∧
  (∀ (o : IOp) (s : State), (Instr.popc o).wf = true → s.bank.free useAF = true →
    Completes (.popc o) s (s.setBank
      (nzBank (BitVec.ofNat 64 ((List.range 64).countP fun j => s.bank.a.getLsbD j)) s.bank)))

/-- Integer arithmetic with an operand.
The clauses are `Sys2Proof.Claims.AluOperand`. -/
def Obligations.IntegerOperand : Prop :=
  Sys2Proof.Claims.AluOperand

/-! ## Loads, stores and pointers -/

namespace Sys2Proof.Claims

/-- The byte of memory at a physical address, as the model reads one byte. -/
def byteAt (s : State) (a : Nat) : Byte := readByte s.mem a

/-- What a write of `bs` at `ea` by the issuing context leaves of scratchpad (R25, Table 1.6): the bytes given are stored;
in a stale granule every other byte of the granule becomes zero; every byte of memory outside the bytes stored, or outside
the stale granule, is unchanged. -/
def StoredAt (s t : State) (ea : Int) (bs : List (Option Byte)) : Prop :=
  ∀ a : Nat, byteAt t a =
    let off := a - (spadBase s.tid + ea.toNat)
    if spadBase s.tid + ea.toNat ≤ a ∧ off < bs.length ∧ (bs.getD off none).isSome then (bs.getD off none).getD 0
    else if s.tile.tagClass s.slot.gen (ea.toNat / 32) = .stale ∧ a / 32 = (spadBase s.tid + ea.toNat) / 32 then 0
    else byteAt s a

/-- The rest of what such a write leaves: the granule carries the context's generation, every other tag stands, and nothing
else of the state changes but the records of doublewords whose check fails or was corrected (R230). -/
def OnlyStored (s t : State) (ea : Int) : Prop :=
  (∀ g, t.tile.tag g = if g = ea.toNat / 32 then s.slot.gen else s.tile.tag g) ∧
  t = { s with mem := t.mem, tile := { s.tile with tags := t.tile.tags, bad := t.tile.bad, soft := t.tile.soft, corr := t.tile.corr } }

/-- Tags and memory are in canonical form, as every step keeps them. -/
def Tidy (s : State) : Prop := s.mem.wf = true ∧ SMap.wfFrom 0xFFF 0 s.tile.tags = true

/-- The tables of circuits and of links are in canonical form, as every step keeps them. -/
def Tabled (s : State) : Prop := SMap.wfFrom Circuit.none 0 s.circuits = true ∧ SMap.wfFrom Link.reset 0 s.links = true

/-- Every tile's tags are in canonical form. -/
def TagsTidy (s : State) : Prop :=
  SMap.wfFrom 0xFFF 0 s.tile.tags = true ∧ ∀ kt ∈ s.others, SMap.wfFrom 0xFFF 0 kt.2.tags = true

/-- The low `n` bytes of a value, least significant first, all present. -/
def lowBytes (n : Nat) (x : DWord) : List (Option Byte) :=
  (List.range n).map fun j => some (x.extractLsb' (8 * j) 8)

/-- The pointer that 32 bits describe (Table 1.2): bit 15 is discarded. -/
def ptrFrom (w : Word) : Ptr := ⟨w.extractLsb' 16 16, w.extractLsb' 0 15⟩
/-- A pointer as 32 bits: bit 15 reads zero. -/
def ptrBits (p : Ptr) : Word := BitVec.ofNat 32 (p.stride.toNat * 65536 + p.addr.toNat)

/-- A PTR member's effect on pointer `n` (Table 5.6), given A. -/
def ptrEffect (i : Instr) (a : DWord) (p : Ptr) : Ptr :=
  match i with
  | .pset o => ⟨p.stride, BitVec.ofNat 15 o.imm.toNat⟩
  | .pstride o => ⟨o.imm, p.addr⟩
  | .padd o => ⟨p.stride, BitVec.ofInt 15 (p.addr.toNat + o.imm.toInt)⟩
  | _ => ptrFrom (a.setWidth 32)

/-- PC moved by a transfer, and the repeat frame ended (R96). -/
def jumped (t : BitVec 14) (b : Bank) : Bank := { b with pc := t, rpt := ⟨0, 0, 0, 0, 0, 0⟩ }

/-- A trap with a word index or an address in %TADDR and nothing in %TADDRX. -/
def plainTrap (cause : BitVec 8) (addr : Int) : Trap := ⟨cause, BitVec.ofInt 64 addr, ⟨false, false, 0, 0⟩⟩

/-- A read of `n` bytes at `ea` raises the trap (R21, R25, R84 step 3), each check after those before it: range, alignment,
and of the granule's generation `STALE` under policy STRICT or `GEN_FUTURE`. -/
def ReadTrap (s : State) (ea : Int) (n : Nat) (t : Trap) : Prop :=
  ((ea < 0 ∨ 32768 < ea + n) ∧ t = plainTrap 0x04 ea) ∨
  (0 ≤ ea ∧ ea + n ≤ 32768 ∧ ea % n ≠ 0 ∧ t = plainTrap 0x03 ea) ∨
  (InReach ea n n ∧ planeGate false ea.toNat n s = .ok () ∧
    ((TagIs s ea.toNat .stale ∧ s.slot.gpol = true ∧ t = plainTrap 0x05 ea) ∨
     (TagIs s ea.toNat .ahead ∧ t = plainTrap 0x06 ea)))

/-- A write of `n` bytes at `ea` raises the trap: range, alignment, `GEN_FUTURE`. -/
def WriteTrap (s : State) (ea : Int) (n : Nat) (t : Trap) : Prop :=
  ((ea < 0 ∨ 32768 < ea + n) ∧ t = plainTrap 0x04 ea) ∨
  (0 ≤ ea ∧ ea + n ≤ 32768 ∧ ea % n ≠ 0 ∧ t = plainTrap 0x03 ea) ∨
  (InReach ea n n ∧ planeGate true ea.toNat n s = .ok () ∧ TagIs s ea.toNat .ahead ∧ t = plainTrap 0x06 ea)

end Sys2Proof.Claims

/-- `LD` and `LDX` (R90): A takes the operand, sign- or zero-extended; F, memory and all else stand but for R84's step 5. -/
def Sys2Proof.Claims.Loads : Prop :=
  ∀ (o : SOp) (s : State) (x : DWord), s.bank.free useA = true → CounterZero o.w s →
    ScalarSource o (o.ea s.bank) (bytesOfSize o.sz) s x →
    ((Instr.ld o).wf = true → Completes (.ld o) s
      (srcDone o false (s.setBank { s.bank with a := widen true (bytesOfSize o.sz) x }))) ∧
    ((Instr.ldx o).wf = true → Completes (.ldx o) s
      (srcDone o false (s.setBank { s.bank with a := widen false (bytesOfSize o.sz) x })))

/-- `ST` and `PST` (R25, R90, R91): the low bytes of A, or the eight pointers, are stored at the effective address; a stale
granule is zero-filled and stamped in the same step; no other byte of memory, and nothing else of the context, changes. -/
def Sys2Proof.Claims.ScalarStores : Prop :=
  ∀ (o : SOp) (s : State), Tidy s → CounterZero o.w s →
    ((Instr.st o).wf = true → s.bank.free useA = true →
      LocalWrite s (o.ea s.bank) (bytesOfSize o.sz) (lowBytes (bytesOfSize o.sz) s.bank.a) →
      ∃ t, StoredAt s t (o.ea s.bank) (lowBytes (bytesOfSize o.sz) s.bank.a) ∧ OnlyStored s t (o.ea s.bank) ∧
        Completes (.st o) s (srcDone o false t)) ∧
    ((Instr.pst o).wf = true → ∀ bs, bs.length = 32 →
      (∀ k j : Nat, (hk : k < 8) → j < 4 →
        bs[4 * k + j]? = some (some ((ptrBits s.bank.p[k]).extractLsb' (8 * j) 8))) →
      LocalWrite s (o.ea s.bank) 32 bs →
      ∃ t, StoredAt s t (o.ea s.bank) bs ∧ OnlyStored s t (o.ea s.bank) ∧ Completes (.pst o) s t)

/-- `PLD` and PTR (R91, R92, Table 5.6): `PLD` fills the eight pointers from 32 bytes, the address formed before the load;
each PTR member changes the one pointer that mod names, A, or the flags of `PCMP`, and nothing else. -/
def Sys2Proof.Claims.Pointers : Prop :=
  (∀ (o : SOp) (s : State) (bs : List Byte), (Instr.pld o).wf = true → CounterZero o.w s →
    LocalRead s (o.ea s.bank) 32 32 bs →
    ∃ p : Vector Ptr 8, (∀ k : Nat, (hk : k < 8) → p[k] = ptrFrom (wordOf ((bs.drop (4 * k)).take 4))) ∧
      Completes (.pld o) s (s.setBank { s.bank with p := p })) ∧
  (∀ (o : IOp) (s : State) (i : Instr), i ∈ [Instr.pset o, .pstride o, .padd o, .pmov o] → i.wf = true →
    (i = .pmov o → s.bank.free useA = true) →
    Completes i s (s.setBank (s.bank.setPtr o.ptrSel (ptrEffect i s.bank.a (s.bank.ptr o.ptrSel))))) ∧
  (∀ (o : IOp) (s : State), (Instr.pget o).wf = true → s.bank.free useA = true →
    Completes (.pget o) s (s.setBank { s.bank with a := (ptrBits (s.bank.ptr o.ptrSel)).setWidth 64 })) ∧
  (∀ (o : IOp) (s : State), (Instr.pcmp o).wf = true → s.bank.free useF = true →
    let d : Int := (s.bank.ptr o.ptrSel).addr.toNat - o.imm.toNat
    Completes (.pcmp o) s (s.setBank { s.bank with
      f := { s.bank.f with n := decide (d < 0), z := decide (d = 0), c := decide (0 ≤ d), v := false } }))

/-- What step 5 of R84 moves: each distinct pointer used as an address advances once by its stride, modulo 32,768, where
i = 1 (R22), and no other pointer; a src = 1 operand takes the head word off its channel's end and sends one credit back
(R157); a src = 2 operand leaves its word; and nothing else changes. -/
def Obligations.SourceDone : Prop :=
  ∀ (o : SOp) (split : Bool) (s : State),
    (∀ p : BitVec 3, (srcDone o split s).bank.ptr p =
      if o.i = true ∧ ((o.src = 0 ∧ p = s.bank.sel o.p) ∨ (split = true ∧ p = s.bank.sel o.q))
      then ⟨(s.bank.ptr p).stride, BitVec.ofInt 15 ((s.bank.ptr p).addr.toNat + (s.bank.ptr p).stride.toInt)⟩
      else s.bank.ptr p) ∧
    (o.src ≠ 1 → ∃ p, srcDone o split s = s.setBank { s.bank with p := p }) ∧
    (∀ die cid, o.src = 1 → (s.slot.chan (o.p.extractLsb' 0 2)).r = some (.circuit die cid) →
      let c := s.circuit (circuitKey die cid)
      ∃ p, srcDone o split s =
        { (s.setBank { s.bank with p := p }).setCircuit (circuitKey die cid) { c with buf := c.buf.tail } with
          credits := s.credits ++ [.circuit die cid] }) ∧
    (∀ d u, o.src = 1 → (s.slot.chan (o.p.extractLsb' 0 2)).r = some (.link d) → neighbour s s.tid d = some u →
      let l := s.link s.tid d
      ∃ p, srcDone o split s =
        { (s.setBank { s.bank with p := p }).setLink s.tid d { l with buf := l.buf.tail } with
          credits := s.credits ++ [.link u (d + 2)] })

/-- The traps of a scratchpad operand of an integer instruction, a load or `PLD` (`ReadTrap`): the instruction has no effect,
and %TADDR is the address. -/
def Sys2Proof.Claims.OperandTraps : Prop :=
  ∀ (o : SOp) (s : State) (i : Instr) (u : Uses) (n : Nat) (t : Trap),
    (((∃ fn, i = aluInstr fn o) ∨ ∃ fn, i = divInstr fn o) ∧ u = useAF ∧ n = bytesOfSize o.sz) ∨
      ((i = .ld o ∨ i = .ldx o) ∧ u = useA ∧ n = bytesOfSize o.sz) ∨ (i = .pld o ∧ u = useNone ∧ n = 32) →
    i.wf = true → o.src = 0 → s.bank.free u = true → CounterZero o.w s → Unfenced true false s →
    ReadTrap s (o.ea s.bank) n t → Traps i s t

/-- The traps of `ST` and `PST` (`WriteTrap`), which store nothing then. A store never raises `STALE`: in a stale granule it
completes under either policy. -/
def Sys2Proof.Claims.StoreTraps : Prop :=
  ∀ (o : SOp) (s : State) (i : Instr) (u : Uses) (n : Nat),
    (i = .st o ∧ u = useA ∧ n = bytesOfSize o.sz) ∨ (i = .pst o ∧ u = useNone ∧ n = 32) →
    i.wf = true → s.bank.free u = true → CounterZero o.w s → Unfenced false true s →
    (∀ t, WriteTrap s (o.ea s.bank) n t → Traps i s t) ∧
    (InReach (o.ea s.bank) n n → planeGate true (o.ea s.bank).toNat n s = .ok () → TagIs s (o.ea s.bank).toNat .stale →
      ∃ t, Completes i s t)

/-! ## Control flow -/

/-- BR (R93): a condition that fails completes with no effect; one that holds transfers to pc + off22, ends a repeat frame
(R96) and changes no flag. A target outside 0 to 16,383 raises `CODE_SEGMENT` and has no effect (R95, item 1). -/
def Sys2Proof.Claims.BranchTransfers : Prop :=
  ∀ (cond : BitVec 4) (off : BitVec 22) (s : State), s.bank.free useF = true →
    let t : Int := s.bank.pc.toNat + off.toInt
    let i := Instr.b cond off
    (s.bank.f.holds cond = false → Completes i s s) ∧
    (s.bank.f.holds cond = true → 0 ≤ t → t ≤ 16383 → exec i s = .next (s.setBank (jumped (BitVec.ofInt 14 t) s.bank))) ∧
    (s.bank.f.holds cond = true → t < 0 ∨ 16383 < t → Traps i s (plainTrap 0x08 (t % 2 ^ 22)))

/-- Each branch condition tests the flags that Table 4.6 names, and conditions 2k and 2k + 1 are opposite. -/
def Sys2Proof.Claims.BranchConditions : Prop :=
  ∀ (f : Flags),
    f.holds 0 = true ∧ (f.holds 2 = f.z) ∧ (f.holds 4 = (f.n != f.v)) ∧ (f.holds 6 = !f.c) ∧
    (f.holds 8 = (!f.z && f.n == f.v)) ∧ (f.holds 10 = (f.c && !f.z)) ∧ (f.holds 12 = f.n) ∧ (f.holds 14 = f.v) ∧
    ∀ c : BitVec 4, f.holds (c ^^^ 1) = !f.holds c

/-- JMP (R18, R94 to R96): `J` and `JA` transfer; `CALL` and `CALLA` push pc + 1 at the old depth and transfer; `RET` pops.
Every one ends a repeat frame and changes no flag. -/
def Sys2Proof.Claims.JumpTransfers : Prop :=
  ∀ (off : BitVec 22) (s : State),
    let rel : Int := s.bank.pc.toNat + off.toInt
    let abs : Int := s.bank.a.toInt + off.toInt
    let pushed := fun (h : s.bank.depth.toNat < 4) =>
      { s.bank with rs := s.bank.rs.set s.bank.depth.toNat (s.bank.pc + 1), depth := s.bank.depth + 1 }
    (0 ≤ rel → rel ≤ 16383 → exec (.j off) s = .next (s.setBank (jumped (BitVec.ofInt 14 rel) s.bank))) ∧
    (s.bank.free useA = true → 0 ≤ abs → abs ≤ 16383 →
      exec (.ja off) s = .next (s.setBank (jumped (BitVec.ofInt 14 abs) s.bank))) ∧
    (∀ h : s.bank.depth.toNat < 4, s.bank.pc.toNat % 4096 ≠ 4095 →
      (0 ≤ rel → rel ≤ 16383 → exec (.call off) s = .next (s.setBank (jumped (BitVec.ofInt 14 rel) (pushed h)))) ∧
      (s.bank.free useA = true → 0 ≤ abs → abs ≤ 16383 →
        exec (.calla off) s = .next (s.setBank (jumped (BitVec.ofInt 14 abs) (pushed h))))) ∧
    (∀ h : 0 < s.bank.depth.toNat ∧ s.bank.depth.toNat ≤ 4, (Instr.ret off).wf = true →
      exec (.ret off) s = .next (s.setBank
        (jumped (s.bank.rs[s.bank.depth.toNat - 1]'(by omega)) { s.bank with depth := s.bank.depth - 1 })))

/-- The traps of a transfer (R18, R95), in their order: the target, the point of return at a segment's end, then the
return stack at depth 4 or 0; the stack, the depth, PC and the repeat frame are unchanged. (That a depth of 5 to 7, which
no instruction writes, counts as full is the model's choice, log entry 9.) -/
def Sys2Proof.Claims.JumpTraps : Prop :=
  ∀ (off : BitVec 22) (s : State) (i : Instr) (t : Int),
    (t = s.bank.pc.toNat + off.toInt ∧ (i = .j off ∨ i = .call off)) ∨
      (t = s.bank.a.toInt + off.toInt ∧ s.bank.free useA = true ∧ (i = .ja off ∨ i = .calla off)) →
    (t < 0 ∨ 16383 < t → Traps i s (plainTrap 0x08 (t % 2 ^ 22))) ∧
    (0 ≤ t → t ≤ 16383 → (i = .call off ∨ i = .calla off) →
      (s.bank.pc.toNat % 4096 = 4095 → Traps i s (plainTrap 0x08 (s.bank.pc.toNat + 1))) ∧
      (s.bank.pc.toNat % 4096 ≠ 4095 → 4 ≤ s.bank.depth.toNat → Traps i s (plainTrap 0x09 0))) ∧
    (s.bank.depth = 0 → Traps (.ret 0) s (plainTrap 0x0A 0))

/-- `RPT` (R97, R98), with an immediate count or with A[19:0]: a body that leaves the segment traps; a count of 0 skips the
body, discarding any frame, and traps where the word after it would leave the segment; any other count starts the frame,
discarding one that is active. -/
def Obligations.Repeats : Prop :=
  ∀ (len : BitVec 4) (stag : BitVec 3) (count : BitVec 18) (s : State) (i : Instr) (c : Nat),
    (i = .rpt len stag count ∧ c = count.toNat) ∨
      (i = .rptA len stag ∧ s.bank.free useA = true ∧ c = s.bank.a.toNat % 2 ^ 20) →
    let x := s.bank.pc.toNat
    let last := x + len.toNat + 1
    (last / 4096 ≠ x / 4096 → Traps i s (plainTrap 0x08 (4096 * (x / 4096 + 1) : Nat))) ∧
    (last / 4096 = x / 4096 → c = 0 →
      (last % 4096 = 4095 → Traps i s (plainTrap 0x08 (last + 1 : Nat))) ∧
      (last % 4096 ≠ 4095 → exec i s = .next (s.setBank (jumped (BitVec.ofNat 14 (last + 1)) s.bank)))) ∧
    (last / 4096 = x / 4096 → c ≠ 0 →
      exec i s = .next (s.setBank { s.bank with
        pc := BitVec.ofNat 14 (x + 1), rpt := ⟨BitVec.ofNat 20 c, BitVec.ofNat 14 (x + 1), len, 0, stag, 0⟩ }))

/-- Where a prefix may not stand (R76, R78): at word 4,095 of a segment it raises `CODE_SEGMENT`, and at the last position
of a repeat body `ILLEGAL`, each with %TADDR the word that would have been its successor. -/
def Sys2Proof.Claims.PairPlacement : Prop :=
  ∀ (hi : BitVec 26) (op : PairOp) (lo : BitVec 16) (s : State), (Instr.ximm hi op lo).wf = true → s.bank.free useAF = true →
    (s.bank.pc.toNat % 4096 = 4095 → Traps (.ximm hi op lo) s (plainTrap 0x08 (s.bank.pc.toNat + 1))) ∧
    (s.bank.pc.toNat % 4096 ≠ 4095 → s.bank.rpt.count ≠ 0 → s.bank.rpt.idx = s.bank.rpt.len →
      Traps (.ximm hi op lo) s (plainTrap 0x01 (s.bank.pc.toNat + 1)))

/-- Where PC and the repeat frame go when an instruction completes without transferring control (R24, R99): `pos` is IDX, or
IDX + 1 for a pair. Outside a frame PC goes to the next word. Where the next word would leave the segment, the instruction's
effects stand and `CODE_SEGMENT` is raised at the last word. -/
def Obligations.Advance : Prop :=
  ∀ (pair : Bool) (s : State),
    let b := s.bank
    let r := b.rpt
    let pos := r.idx.toNat + pair.toNat
    let after := fun (last : Nat) (s : State) =>
      if last % 4096 = 4095 then takeTrap (plainTrap 0x08 (last + 1)) (BitVec.ofNat 14 last) s
      else s.setBank { s.bank with pc := BitVec.ofNat 14 (last + 1) }
    (r.count = 0 → b.pc.toNat + pair.toNat < 16384 → advance pair s = after (b.pc.toNat + pair.toNat) s) ∧
    (r.count ≠ 0 → pos < r.len.toNat →
      advance pair s = s.setBank { b with rpt := { r with idx := BitVec.ofNat 4 (pos + 1) },
                                          pc := BitVec.ofNat 14 (r.body.toNat + pos + 1) }) ∧
    (r.count = 1 → r.len.toNat ≤ pos → pos < 16 → r.body.toNat + r.len.toNat < 16384 →
      advance pair s = after (r.body.toNat + r.len.toNat) (s.setBank { b with rpt := ⟨0, 0, 0, 0, 0, 0⟩ })) ∧
    (1 < r.count.toNat → r.len.toNat ≤ pos → pos < 16 →
      advance pair s = s.setBank { b with
        rpt := { r with count := BitVec.ofNat 20 (r.count.toNat - 1), k := BitVec.ofNat 3 ((r.k.toNat + 1) % 8), idx := 0 },
        pc := r.body })

/-- Integer arithmetic with an immediate and prefixed pairs.
The clauses are `Sys2Proof.Claims.AluImmediate`, `Sys2Proof.Claims.PairPlacement`. -/
def Obligations.IntegerImmediate : Prop :=
  Sys2Proof.Claims.AluImmediate ∧
  Sys2Proof.Claims.PairPlacement

/-- Loads and the pointer registers.
The clauses are `Sys2Proof.Claims.Loads`, `Sys2Proof.Claims.Pointers`. -/
def Obligations.LoadsAndPointers : Prop :=
  Sys2Proof.Claims.Loads ∧
  Sys2Proof.Claims.Pointers

/-- Branches.
The clauses are `Sys2Proof.Claims.BranchTransfers`, `Sys2Proof.Claims.BranchConditions`. -/
def Obligations.Branches : Prop :=
  Sys2Proof.Claims.BranchTransfers ∧
  Sys2Proof.Claims.BranchConditions

/-- Jumps, calls and returns.
The clauses are `Sys2Proof.Claims.JumpTransfers`, `Sys2Proof.Claims.JumpTraps`. -/
def Obligations.Jumps : Prop :=
  Sys2Proof.Claims.JumpTransfers ∧
  Sys2Proof.Claims.JumpTraps

/-! ## Reset -/

namespace Sys2Proof.Claims

/-- Every field of the record of an empty slot that Tables 1.2 to 1.4 and R27 name. -/
def EmptySlot (sl : Slot) : Prop :=
  sl.st = .empty ∧ sl.priv = false ∧ sl.gen = 0xFFF ∧ sl.dom = 0 ∧ sl.nb = 0 ∧ sl.nm = 0 ∧ sl.ne = 0 ∧
  sl.user.pc = 0 ∧ sl.user.a = 0 ∧ sl.user.depth = 0 ∧ sl.user.pcfg = 0 ∧ sl.user.rpt = ⟨0, 0, 0, 0, 0, 0⟩ ∧
  sl.user.f = ⟨0xFF, false, false, false, false⟩ ∧
  (∀ k : Nat, (h : k < 8) → sl.user.v[k] = 0 ∧ sl.user.p[k] = ⟨0, 0⟩)

/-- Where a fetch or an instruction traps before any effect. -/
def trapTo (cause : BitVec 8) (addr : Nat) : Trap := plainTrap cause addr

/-- The bytes at the PC of the issuing context. -/
def bytesAtPc (s : State) : List Byte := readBytes s.mem (loftBase (bayOf s.tid) + 4 * s.bank.pc.toNat) 8

/-- The bytes that the issuing context decodes: those at its PC, or a pair whose prefix has had its turn (R79). -/
def bytesFetched (s : State) : List Byte :=
  match s.slot.pre with
  | some (p, w) => bytesOf 4 p ++ bytesOf 4 w
  | none => bytesAtPc s

/-- The context in turn, its fetched words taken. -/
def taken (c : State) : State := c.modSlot fun sl => { sl with pre := none }

/-- No event is pending for the issuing context (R327), no held request of a save is uninjected (R348), no instruction of
its own still waits after its effect (R412), and every transfer before has taken its latency (R112). -/
def Undisturbed (c : State) : Prop :=
  c.slot.running = true ∧ c.slot.entered = .no ∧
  ¬ (c.slot.interruptible = true ∧ (c.tile.trapPending c.cur = true ∨ (c.slot.st = .user ∧ c.slot.stopReq = true))) ∧
  (∀ r ∈ c.slot.niq, c.slot.heldTo ≤ r.seq) ∧ controlReady c.slot = true

/-- The issuing context can take its turn with the instruction `i` of `n` bytes: nothing else of its own comes first; its
words are fetched, or its fetch is not barred (R24) and its line is at hand (R135); they decode to `i`; the items that `i`
uses have passed their latencies (R112), and the divider if it uses it (R113); its class's permit allows it (R354). -/
def TakesTurn (c : State) (i : Instr) (n : Nat) : Prop :=
  Undisturbed c ∧
  (c.slot.pre = none → (c.slot.priv = false → c.bank.pc.toNat < 0x3000) ∧ c.slot.lineReady c c.tid = true) ∧
  decode (bytesFetched c) = .ok (i, n) ∧ (n = 8 → c.bank.pc.toNat % 4096 ≠ 4095) ∧
  operandsReady i (taken c) = true ∧ (usesDivider i = true → c.tile.div = 0) ∧ c.tile.permitLevel i.permit ≠ 0

/-- Where a tile cycle starts from: a listed tile cycle of a tile of the module, or the focus tile's where no turn is
listed and it is a context's turn. -/
def CycleFrom (s s0 : State) (free : Bool) : Prop :=
  (free = true ∧ s.turns = [] ∧ s.acted = false ∧ s0 = s) ∨
    (free = false ∧ ∃ r t, t < tileCount ∧ s.turns = .issue t :: r ∧ s0 = State.focus { s with turns := r } t)

/-- What a tile cycle of the state `b` leaves once the context in slot `k` has acted: the slot is the last that issued, the
weight, permit and meter are counted, the contexts that a YIELD let go first are struck off, and the sweep goes on (R26,
R133, R136, R139, R196, R350, R354). -/
def cycleAfter (b : State) (k : Fin 8) (cls : PClass) (weight : Nat) (trapped free : Bool) (s' : State) : State :=
  let e := endCycle (fun j => (tryIssue j b).ready) (some k) (weigh weight (settle k cls trapped s'))
  { e with acted := free || e.acted }

end Sys2Proof.Claims

/-- Tile reset (R27): every tag is void, every slot is empty with the values that the rule and Tables 1.2 to 1.4 give, CUR is
4,094 and the sweep for the next value, 0, counts as complete, so the first allocation takes generation 0 at once; scratchpad
reads as zeros or raises `STALE`; and no slot issues. (That PC is zero is the model's choice, log entry 10.) -/
def Obligations.TileReset : Prop :=
  ∀ t : Nat, t < tileCount →
    let tl := State.reset.getTile t
    (∀ k < 8, EmptySlot (tl.slot k)) ∧ (∀ g < 1024, tl.tag g = 0xFFF) ∧ tl.cur = 4094 ∧
    tl.nextValue = 0 ∧ tl.swept 0 = true ∧ tl.allocate.2 = 0 ∧
    (∀ (a n : Nat) (g : BitVec 12), g ≠ 0xFFF → a % 32 + n ≤ 32 → a + n ≤ 32768 →
      State.reset.spRead t g false a n = .ok (List.replicate n 0) ∧
      State.reset.spRead t g true a n = .error (plainTrap 0x05 a)) ∧
    (∀ (k : Fin 8) (s : State), s.tile.slots[k] = tl.slot k → tryIssue k s = .idle none)

/-- The memory and the tables of the reset state are in canonical form. -/
def Obligations.ResetCanonical : Prop := Memory.wf State.reset.mem = true ∧ Tabled State.reset ∧ TagsTidy State.reset

/-- Every step keeps memory in its canonical form, so that equal memories are equal data. -/
def Obligations.StepKeepsMemory : Prop :=
  ∀ s t : State, s.mem.wf = true → step s = .next t → t.mem.wf = true

/-- Every step keeps the tables of circuits, of links and of generation tags in their canonical form. -/
def Obligations.StepKeepsTables : Prop :=
  ∀ s t : State, Tabled s → TagsTidy s → step s = .next t → Tabled t ∧ TagsTidy t

/-! ## The step -/

/-- A step runs the decoded instruction. Where a listed turn is an event, the step is that event's meaning, which takes its
place among the tile's scratchpad accesses of the cycle (R235); where that place has passed, the tile's next cycle comes
first. Where it is a tile cycle, or no turn is listed, what passes with the cycle happens first (`beginCycle`); the tile then chooses a context
(R133) and, where the words that it fetched decode to a well-formed instruction that need not wait and the stook does not
throttle the tile, the step is the meaning of that instruction, then what an issue leaves (`afterIssue`, `cycleAfter`). The
prefix of a pair takes a turn of its own, in which both words are fetched and nothing else happens (R74, R79). -/
def Obligations.StepRunsDecoded : Prop :=
  (∀ (s : State) (e : Instr) (r : List Turn), s.turns = .act e :: r → isEvent e = true →
    (placeOpen s (eventPlace e s) = true →
      (∀ s', exec e { s with turns := r } = .next s' → step s = .next (notePlace (eventPlace e s) s')) ∧
      (∀ f, exec e { s with turns := r } = .fault f → step s = .fault f) ∧
      (∀ f, exec e { s with turns := r } = .refused f → step s = .refused f)) ∧
    (∀ t port, eventPlace e s = some (t, port) → port < (s.getTile t).port → step s = tileCycle (s.focus t))) ∧
  (∀ (s s0 : State) (k : Fin 8) (i : Instr) (n : Nat) (s' : State) (free : Bool), CycleFrom s s0 free →
    let b := beginCycle s0
    let c := (unyield k (tickPauses b)).turnTo k
    let x := taken c
    let w := wordOf ((bytesFetched c).take 4)
    choose b = some k → b.tile.thrE ≤ 0 → TakesTurn c i n → exec i x = .next s' →
    (s'.slot.wait = none ∨ s'.slot.hasEntered = true) →
    (n = 4 ∨ c.slot.pre.isSome = true →
      step s = .next (cycleAfter b k i.permit i.weight (tookTrap x s') free (Machine.afterIssue i w x s'))) ∧
    (n = 8 → c.slot.pre = none → pairBarred c.bank = false →
      step s = .next (cycleAfter b k .none 2 false free
        (x.modSlot fun sl => { sl with pre := some (w, wordOf ((bytesAtPc c).drop 4)) }))))

/-- What a fetch finds (R24, R72, R75, R76): a user context may not fetch from segment 3; a word that does not decode raises
`ILLEGAL` with %TADDR its own PC; a prefix at a segment's end raises `CODE_SEGMENT`, and one whose successor cannot follow it
raises `ILLEGAL`, each with %TADDR the next PC; the context then issues that trap, whose effect is trap entry alone. (That the cycle weighs 2 is log entry 15.) -/
def Sys2Proof.Claims.FetchTraps : Prop :=
  ∀ (s : State),
    let pc := s.bank.pc.toNat
    let w := wordOf ((bytesAtPc s).take 4)
    let w2 := wordOf ((bytesAtPc s).drop 4)
    (s.slot.pre = none → s.slot.priv = false → 0x3000 ≤ pc → fetch s = .trap (trapTo 0x02 pc)) ∧
    (s.slot.pre = none → (s.slot.priv = true ∨ pc < 0x3000) →
      (w.toNat / 2 ^ 26 ≠ 1 → decodeWord w = none → fetch s = .trap (trapTo 0x01 pc)) ∧
      (w.toNat / 2 ^ 26 = 1 → pc % 4096 = 4095 → fetch s = .trap (trapTo 0x08 (pc + 1))) ∧
      (w.toNat / 2 ^ 26 = 1 → pc % 4096 ≠ 4095 → decodePair w w2 = none → fetch s = .trap (trapTo 0x01 (pc + 1)))) ∧
    (∀ (k : Fin 8) (s0 : State) (t : Trap), s = s0.turnTo k → s.slot.pre = none → Undisturbed s →
      s.slot.lineReady s s.tid = true → fetch s = .trap t →
      tryIssue k s0 = .issue (takeTrap t s.bank.pc s) .none 2 true)

/-- An instruction whose fields the spec rejects raises `ILLEGAL` at its PC and has no other effect (R71, R72). -/
def Sys2Proof.Claims.IllegalFields : Prop :=
  ∀ (i : Instr) (s : State), isEvent i = false → i.wf = false → Traps i s (trapTo 0x01 s.bank.pc.toNat)

/-- An instruction that reads or writes A, or V, waits, changing nothing, while a reply into it is outstanding (R253, R255):
each member of IALU, IDIV, `LD` and `LDX` for A, and `VADD`, `VFADD`, `VLD`, `VST` and `VPERM` for V. -/
def Sys2Proof.Claims.PendingReply : Prop :=
  ∀ (o : SOp) (s : State) (i : Instr), i.wf = true →
    (s.bank.aPend = true → ((∃ fn, i = aluInstr fn o) ∨ (∃ fn, i = divInstr fn o) ∨ i = .ld o ∨ i = .ldx o) →
      exec i s = .next (s.setSlot { s.slot with wait := some .pending })) ∧
    (s.bank.vPend = true → i ∈ [Instr.vadd o, .vfadd o, .vld o, .vst o, .vperm o] →
      exec i s = .next (s.setSlot { s.slot with wait := some .pending }))

/-! ## Exceptions -/

/-- A trap in a user thread (R326): the trap registers take the cause, the addresses and %TPC, with HND 0; privilege becomes
supervisor and the supervisor bank's PC becomes %TVEC; the user bank, memory and every other item of the state stand. (A
scratchpad check also enters the count that R394 keeps of failing addresses.) -/
def Sys2Proof.Claims.TrapInThread : Prop :=
  ∀ (t : Trap) (pc : BitVec 14) (s : State), s.slot.priv = false → s.slot.st ≠ .handler →
    let s' := takeTrap t pc s
    s'.slot = { s.slot with hnd := false, tcause := t.cause, taddr := t.addr, taddrx := t.addrx, tpc := pc, priv := true,
                            st := .supervisor, sup := { s.slot.sup with pc := s.slot.tvec }, entered := .no, wait := none } ∧
    s'.slot.user = s.slot.user ∧ s'.bank.pc = s.slot.tvec ∧ s'.mem = s.mem ∧
    s' = { s with tile := { s.tile with slots := s'.tile.slots, badSeen := s'.tile.badSeen, retire := s'.tile.retire } } ∧
    (∀ k : Fin 8, k ≠ s.cur → s'.tile.slots[k] = s.tile.slots[k]) ∧
    (t.addrx.spchk = false → s'.tile.badSeen = s.tile.badSeen ∧ s'.tile.retire = s.tile.retire)

/-- A trap in a handler (R183, R326): its held messages are discarded, its queue is held with the message at its head, %TMSG
names the queue and the message, and the trap is taken in the same slot with HND 1; scratchpad and the requests that the NI
already holds stand. -/
def Sys2Proof.Claims.TrapInHandler : Prop :=
  ∀ (t : Trap) (pc : BitVec 14) (s : State), s.slot.priv = false → s.slot.st = .handler →
    let s' := takeTrap t pc s
    let hdr := dwordOf (readBytes s.mem (spadBase s.tid + ((s.tile.slots[7]).rq[s.slot.hq.toNat]'s.slot.hq.isLt).head.toNat) 8)
    s'.slot.hnd = true ∧ s'.slot.tcause = t.cause ∧ s'.slot.taddr = t.addr ∧ s'.slot.taddrx = t.addrx ∧ s'.slot.tpc = pc ∧
    s'.slot.priv = true ∧ s'.bank.pc = s.slot.tvec ∧ s'.slot.held = [] ∧
    s'.slot.tmsg = ⟨s.slot.hq, true, hdr.extractLsb' 24 16⟩ ∧
    (∀ q : Fin 4, s'.tile.hold[q] = (if q.val = s.slot.hq.toNat then true else s.tile.hold[q])) ∧
    s'.slot.rq = s.slot.rq ∧ (s.cur ≠ 7 → s'.tile.slots[7] = s.tile.slots[7]) ∧ s'.slot.niq = s.slot.niq ∧
    s'.slot.user.pc = s.slot.user.pc ∧ s'.slot.user.a = s.slot.user.a ∧ s'.mem = s.mem ∧ s'.tile.copyQ = s.tile.copyQ ∧
    s'.tile.planeQ = s.tile.planeQ

/-- A trap raised in supervisor privilege does not vector (R326): the slot stops issuing, and a record with KIND 15, the cause
in VA[7:0], the supervisor PC in VA[29:16] and the tile's die in DIE enters the fault buffer, or is held while it is full. -/
def Sys2Proof.Claims.TrapInSupervisor : Prop :=
  ∀ (t : Trap) (pc : BitVec 14) (s : State), s.slot.priv = true →
    let s' := takeTrap t pc s
    s'.slot.halted = true ∧ s'.slot.running = false ∧ s'.slot.sup = s.slot.sup ∧ s'.slot.user = s.slot.user ∧
    s'.slot.tcause = s.slot.tcause ∧ s'.slot.tpc = s.slot.tpc ∧ s'.mem = s.mem ∧
    ∃ r : FaultRec, r.kind = 15 ∧ r.va.toNat = s.slot.sup.pc.toNat * 65536 + t.cause.toNat ∧
      r.die.toNat = dieOf s.tid % 16 ∧ r.tenant = BitVec.ofNat 9 s.tile.tenant ∧
      (if s.faults.length < 4096 then s'.faults = s.faults ++ [r] ∧ s'.heldFaults = s.heldFaults
       else s'.faults = s.faults ∧ s'.heldFaults = s.heldFaults ++ [r])

/-! ## What no instruction can do -/

/-- An instruction that a context issues acts on its own tile: no byte of memory outside that tile's scratchpad, no other
tile, bay, tenant, queue binding, boot register, measurement or service wheel changes, and the focus stays where it was. -/
def Obligations.Confinement : Prop :=
  ∀ (i : Instr) (s t : State), isEvent i = false → s.mem.wf = true → exec i s = .next t →
    t.tid = s.tid ∧ t.cur = s.cur ∧ t.others = s.others ∧ t.bays = s.bays ∧ t.tenants = s.tenants ∧ t.queues = s.queues ∧
    t.boot = s.boot ∧ t.meas = s.meas ∧ t.wheels = s.wheels ∧ t.wheelOn = s.wheelOn ∧ t.turns = s.turns ∧
    (∀ a, a < spadBase s.tid ∨ spadBase s.tid + 32768 ≤ a → byteAt t a = byteAt s a)

/-- An instruction in user privilege leaves the tile's PLB and rank table, and its slot's %TVEC and %WDOGB;
and if it leaves the context in supervisor privilege, the supervisor bank stands at %TVEC: the only way in is the vector
(R326, R363, R368, R370). -/
def Obligations.UserProtection : Prop :=
  ∀ (i : Instr) (s t : State), isEvent i = false → s.slot.priv = false → exec i s = .next t →
    t.tile.plb = s.tile.plb ∧ t.tile.ranks = s.tile.ranks ∧ t.slot.tvec = s.slot.tvec ∧ t.slot.wdogb = s.slot.wdogb ∧
    (t.slot.priv = true → t.slot.sup.pc = t.slot.tvec ∧ t.slot.st = .supervisor)

/-- Fetch traps, illegal fields, pending replies.
The clauses are `Sys2Proof.Claims.FetchTraps`, `Sys2Proof.Claims.IllegalFields`, `Sys2Proof.Claims.PendingReply`. -/
def Obligations.FetchAndRefusals : Prop :=
  Sys2Proof.Claims.FetchTraps ∧
  Sys2Proof.Claims.IllegalFields ∧
  Sys2Proof.Claims.PendingReply

/-- Taking a trap.
The clauses are `Sys2Proof.Claims.TrapInThread`, `Sys2Proof.Claims.TrapInHandler`,
`Sys2Proof.Claims.TrapInSupervisor`. -/
def Obligations.TrapEntry : Prop :=
  Sys2Proof.Claims.TrapInThread ∧
  Sys2Proof.Claims.TrapInHandler ∧
  Sys2Proof.Claims.TrapInSupervisor

/-! ## Floating point -/

namespace Sys2Proof.Claims

/-- A finite value as a rational. -/
def valueOf : FVal → Option Rat
  | .fin neg m e => some ((if neg then -1 else 1) * (m : Rat) * (2 : Rat) ^ e)
  | _ => none

/-- The value of an encoding, where it is finite. -/
def finiteOf (f : Fmt) (x : Nat) : Option Rat := valueOf (f.decode x)

/-- The formats of Table 3.1. -/
def formats : List Fmt := [fp32, fp16, bf16, e4m3, e5m2, e2m1]

/-- `y` is the value of the finite encoding `z`. -/
def IsValue (f : Fmt) (z : Nat) (y : ℝ) : Prop := ∃ q : Rat, finiteOf f z = some q ∧ (q : ℝ) = y

/-- The magnitude bits with a sign. -/
def withSign (f : Fmt) (neg : Bool) (mag : Nat) : Nat := if neg then 2 ^ (f.width - 1) + mag else mag
/-- What overflow gives (R46, step 3): an infinity, the canonical NaN in E4M3, the largest finite value in E2M1. -/
def overflowCode (f : Fmt) (neg : Bool) : Nat := if f = e4m3 then 0x7F else withSign f neg f.ovf

/-- `r` is the encoding of `x`, of sign `neg`, rounded once in a mode (R45, R46, Table 3.2). `top` is the largest finite
value and `below` the one before it; a magnitude overflows to nearest from half a spacing beyond `top`, the tie going to the
even fraction; no directed mode overflows against its direction. -/
def Rounds (f : Fmt) (mode : Nat) (neg : Bool) (x : ℝ) (r : Nat) : Prop :=
  ∀ top below : ℝ, IsValue f f.maxMag top → IsValue f (f.maxMag - 1) below →
    let limit := top + (top - below) / 2
    let beyond : Prop := match mode with
      | 0 => limit < |x| ∨ (|x| = limit ∧ f.maxMag % 2 = 1)
      | 1 => False
      | 2 => top < x
      | _ => x < -top
    (beyond → r = overflowCode f neg) ∧
    (¬ beyond → r < 2 ^ f.width ∧ decide (2 ^ (f.width - 1) ≤ r) = neg ∧ ∃ y, IsValue f r y ∧
      match mode with
      | 0 => ∀ z q, z < 2 ^ f.width → IsValue f z q →
          |y - x| ≤ |q - x| ∧ (|y - x| = |q - x| → q ≠ y → r % 2 = 0)
      | 1 => |y| ≤ |x| ∧ ∀ z q, IsValue f z q → |q| ≤ |x| → |q| ≤ |y|
      | 2 => x ≤ y ∧ ∀ z q, IsValue f z q → x ≤ q → y ≤ q
      | _ => y ≤ x ∧ ∀ z q, IsValue f z q → q ≤ x → q ≤ y)

/-- The exact value of a sign, an integer and an exponent. -/
def exactly (neg : Bool) (m : Nat) (e : Int) (x : ℝ) : Prop := x = (if neg then -1 else 1) * (m : ℝ) * (2 : ℝ) ^ e

/-- `r` is the minimum or the maximum of two encodings (R47): a NaN gives way, and −0 is below +0. -/
def IsMinMax (f : Fmt) (max : Bool) (a b r : Nat) : Prop :=
  let u := f.decode a
  let v := f.decode b
  (u = .nan → v = .nan → r = f.nan) ∧ (u = .nan → v ≠ .nan → r = b) ∧ (u ≠ .nan → v = .nan → r = a) ∧
  (u.rel v = .less → r = if max then b else a) ∧ (u.rel v = .greater → r = if max then a else b) ∧
  (u.rel v = .equal → (r = a ∨ r = b) ∧ (f.decode r).isNeg = if max then u.isNeg && v.isNeg else u.isNeg || v.isNeg)

/-- `r` is the conversion of the bits `x` that the selector names (R48, R49, R104). -/
def Converts (d : BitVec 12) (x : Nat) (r : DWord) : Prop :=
  let mode := (d.extractLsb' 10 2).toNat
  let sat := d.getLsbD 9
  let v := (ctypeOf (d.extractLsb' 1 4)).value x
  match ctypeOf (d.extractLsb' 5 4) with
  | .float f =>
    r.toNat = f.encode mode (if sat then f.sat v else v) ∧
    (v = .nan → r.toNat = f.nan) ∧
    (∀ neg, v = .inf neg → r.toNat =
      if sat = true ∨ f = e2m1 then withSign f neg f.maxMag else if f = e4m3 then f.nan else withSign f neg f.ovf) ∧
    (∀ neg m e y, v = .fin neg m e → exactly neg m e y → ∀ top, IsValue f f.maxMag top →
      (sat = true → top < |y| → r.toNat = withSign f neg f.maxMag) ∧
      (sat = false ∨ |y| ≤ top → Rounds f mode neg y r.toNat))
  | .int w => r.toInt = (match v with
      | .nan => 0
      | .inf neg => if neg then -(2 ^ (w - 1)) else 2 ^ (w - 1) - 1
      | .fin neg m e => max (-(2 ^ (w - 1))) (min (2 ^ (w - 1) - 1)
          ((if neg then -1 else 1) * (roundAt mode neg m e 0 : Int))))
  | .word w => (r.toNat : Int) = (match v with
      | .nan => 0
      | .inf neg => if neg then 0 else 2 ^ w - 1
      | .fin neg m e => max 0 (min (2 ^ w - 1) ((if neg then -1 else 1) * (roundAt mode neg m e 0 : Int))))

/-- The lane holds a finite FP32 value within `c` ulp of `y` (R55). -/
def WithinUlps (c : ℝ) (y : ℝ) (r : Word) : Prop :=
  ∃ v, IsValue fp32 r.toNat v ∧ |v - y| ≤ c * (2 : ℝ) ^ (max ⌊Real.logb 2 |y|⌋ (-126) - 23)

/-- The rows of Table 3.7 for a NaN, +∞, −∞, +0 and −0. -/
def SpecialRows (g : Word → Word) (nan pinf minf pzero mzero : Word) : Prop :=
  (∀ x : Word, fp32.decode x.toNat = .nan → g x = nan) ∧ g 0x7F800000 = pinf ∧ g 0xFF800000 = minf ∧ g 0 = pzero ∧
  g 0x80000000 = mzero

/-- The format of a FALU size code (R102), and its operand's bytes. -/
def scalarFmt (sz : BitVec 2) : Fmt := match sz with | 0#2 => bf16 | 1#2 => fp16 | _ => fp32
def scalarBytes (sz : BitVec 2) : Nat := match sz with | 2#2 => 4 | _ => 2

/-- A's low bits in a format. -/
def scalarA (sz : BitVec 2) (s : State) : Nat := s.bank.a.toNat % 2 ^ (scalarFmt sz).width

/-- The new A: an encoding, with higher bits zero. -/
def putA (s : State) (x : Nat) : State := s.setBank { s.bank with a := BitVec.ofNat 64 x }

/-- The one-operand members of Table 5.9, and the exact value that each rounds. -/
def faluExact : List ((SOp → Instr) × (FVal → FVal → FVal)) :=
  [(.fadd, FVal.add), (.fsub, fun a x => a.add x.neg), (.fmul, FVal.mul), (.fdiv, FVal.div)]

/-- Lane `i` of a scratchpad operand: its stored bits (Table 5.2). -/
def laneBits (et : BitVec 2) (bs : List Byte) (i : Nat) : Word :=
  match et with
  | 0#2 => wordOf ((bs.drop (4 * i)).take 4)
  | 1#2 => wordOf ((bs.drop (2 * i)).take 2)
  | 2#2 => wordOf ((bs.drop i).take 1)
  | _ => wordOf (bs.take 4)
/-- Lane `i` of a channel word: byte i, or its low word in every lane. -/
def laneOfWord (et : BitVec 2) (w : DWord) (i : Nat) : Word :=
  if et = 3 then w.setWidth 32 else (w >>> (8 * i)).setWidth 32 &&& 0xFF

/-- The integer that a lane's stored bits are. -/
def laneInt (et : BitVec 2) (x : Word) : Word :=
  match et with
  | 1#2 => (x.setWidth 16).signExtend 32
  | 2#2 => (x.setWidth 8).signExtend 32
  | _ => x

/-- Bytes of a vector access and of one of its elements. -/
def vecWide (et : BitVec 2) : Nat := match et with | 0#2 => 32 | 1#2 => 16 | 2#2 => 8 | _ => 4
def vecElem (et : BitVec 2) : Nat := match et with | 0#2 => 4 | 1#2 => 2 | 2#2 => 1 | _ => 4
/-- Where lane `i`'s element lies within the access. -/
def elemAt (et : BitVec 2) (i : Nat) : Nat := if et = 3 then 0 else i * vecElem et

/-- A vector read completes (R82): range and alignment on the whole access; with no lane read, no granule is checked and no
byte moves; else the granule is the context's own, with no failing word under a lane that is read, or stale under ZERO.
`all` reads every lane whatever M holds. -/
def VectorRead (et : BitVec 2) (ea : Int) (all : Bool) (s : State) (bs : List Byte) : Prop :=
  InReach ea (vecWide et) (vecWide et) ∧
  ((s.bank.f.m = 0 ∧ all = false ∧ bs = List.replicate (vecWide et) 0) ∨
   ((s.bank.f.m ≠ 0 ∨ all = true) ∧ Unfenced true false s ∧ planeGate false ea.toNat (vecWide et) s = .ok () ∧
    ((TagIs s ea.toNat .own ∧ bs = readBytes s.mem (spadBase s.tid + ea.toNat) (vecWide et) ∧
      ∀ i < 8, (all = true ∨ s.bank.f.m.getLsbD i = true) → s.tile.badIn (ea.toNat + elemAt et i) (vecElem et) = none) ∨
     (TagIs s ea.toNat .stale ∧ s.slot.gpol = false ∧ bs = List.replicate (vecWide et) 0))))

/-- The eight lanes' stored bits of a vector instruction's first operand (Tables 5.1, 5.2). -/
def VectorSource (o : SOp) (ea : Int) (all : Bool) (s : State) (x : Vector Word 8) : Prop :=
  (o.src = 0 ∧ ∃ bs, VectorRead o.sz ea all s bs ∧ ∀ i : Nat, (h : i < 8) → x[i] = laneBits o.sz bs i) ∨
  (o.src ≠ 0 ∧ 2 ≤ o.sz.toNat ∧ ∃ w, HeadWord s o.p w ∧ ∀ i : Nat, (h : i < 8) → x[i] = laneOfWord o.sz w i)

/-- V with each lane that M enables replaced (R16). -/
def putLanes (s : State) (g : Fin 8 → Word) : State :=
  s.setBank { s.bank with v := Vector.ofFn fun i => if s.bank.f.m.getLsbD i then g i else s.bank.v[i] }

/-- The lane results of Table 5.13, but for `VMAC` and `VSEL`. -/
def valuTable : List ((SOp → Instr) × (Word → Word → Word)) :=
  [(.vadd, (· + ·)), (.vsub, (· - ·)), (.vmul, (· * ·)), (.vmin, fun a x => if x.slt a then x else a),
   (.vmax, fun a x => if a.slt x then x else a), (.vand, (· &&& ·)), (.vor, (· ||| ·)), (.vxor, (· ^^^ ·)),
   (.vshl, fun a x => a <<< (x &&& 31)), (.vshr, fun a x => a >>> (x &&& 31)), (.vsra, fun a x => a.sshiftRight' (x &&& 31)),
   (.vcmp, fun a x => if a.slt x then -1 else if x.slt a then 1 else 0)]

/-- A floating-point lane: its stored bits widened exactly to FP32 (R48, R81). -/
def laneFloat (et : BitVec 2) (x : Word) : Nat :=
  match et with
  | 1#2 => fp32.encode 0 (bf16.decode (x.toNat % 2 ^ 16))
  | 2#2 => fp32.encode 0 (e4m3.decode (x.toNat % 2 ^ 8))
  | _ => x.toNat

/-- The rounded lane results of Table 5.14 with one operand. -/
def vfpuTable : List ((SOp → Instr) × (Nat → Nat → Nat)) :=
  [(.vfadd, fun a x => fp32.encode 0 ((fp32.decode a).add (fp32.decode x))),
   (.vfsub, fun a x => fp32.encode 0 ((fp32.decode a).add (fp32.decode x).neg)),
   (.vfmul, fun a x => fp32.encode 0 ((fp32.decode a).mul (fp32.decode x))),
   (.vfmin, fp32.minMax false), (.vfmax, fp32.minMax true),
   (.vfcmp, fun a x => match (fp32.decode a).rel (fp32.decode x) with
      | .less => 2 ^ 32 - 1 | .equal => 0 | .greater => 1 | .unordered => 2)]

/-- The bytes that `VST` writes: the low bytes of each enabled lane, nothing for a disabled one. -/
def vstData (et : BitVec 2) (s : State) : List (Option Byte) :=
  (List.range (vecWide et)).map fun j =>
    let i := j / vecElem et
    if s.bank.f.m.getLsbD i then some ((s.bank.v.toList.getD i 0).extractLsb' (8 * (j % vecElem et)) 8) else none

/-- The enabled lanes, in ascending order. -/
def laneList (s : State) : List Word := (List.range 8).filterMap fun i => if s.bank.f.m.getLsbD i then s.bank.v[i]? else none

end Sys2Proof.Claims

/-- Rounding (R45, R46): in each of the six formats and each of the four modes, the rounded encoding of an exact value is the
one that R46 names: the nearest finite value, ties to an even fraction, or the neighbour in the mode's direction, with the
sign of the exact value, or overflow; conversion into a format rounds so too, E2M1 saturating. -/
def Obligations.RoundNearest : Prop :=
  ∀ (f : Fmt) (mode : Nat) (neg : Bool) (m : Nat) (e : Int) (x : ℝ), f ∈ formats → mode < 4 → exactly neg m e x →
    Rounds f mode neg x (f.round mode neg m e) ∧ Rounds f mode neg x (f.encode mode (.fin neg m e))

/-- The exact values that arithmetic rounds are exact (R47): sums and products of finite values, an exact zero sum of opposite
signs being +0 (R46); and the order is that of the values, +0 and −0 being equal. -/
def Sys2Proof.Claims.ExactValues : Prop :=
  ∀ (u v : FVal) (p q : Rat), valueOf u = some p → valueOf v = some q →
    valueOf (u.add v) = some (p + q) ∧ valueOf (u.mul v) = some (p * q) ∧ valueOf u.neg = some (-p) ∧
    u.rel v = (if p < q then .less else if p = q then .equal else .greater) ∧
    (p + q = 0 → u.isNeg ≠ v.isNeg → (u.add v).isNeg = false)

/-- The operations on infinities and NaN (R47): an invalid operation gives NaN, any other the infinity that arithmetic gives;
an infinity is greater or less than every finite value by its sign, and a NaN is unordered. -/
def Sys2Proof.Claims.SpecialValues : Prop :=
  ∀ (u : FVal) (s t : Bool) (m : Nat) (e : Int),
    u.add .nan = .nan ∧ FVal.nan.add u = .nan ∧ u.mul .nan = .nan ∧ FVal.nan.mul u = .nan ∧ u.div .nan = .nan ∧
    FVal.nan.div u = .nan ∧ FVal.nan.sqrt = .nan ∧ u.rel .nan = .unordered ∧ FVal.nan.rel u = .unordered ∧
    (FVal.inf s).add (.inf t) = (if s = t then .inf s else .nan) ∧ (FVal.inf s).add (.fin t m e) = .inf s ∧
    (FVal.fin t m e).add (.inf s) = .inf s ∧ (FVal.inf s).mul (.inf t) = .inf (s != t) ∧
    (FVal.inf s).mul (.fin t m e) = (if m = 0 then .nan else .inf (s != t)) ∧
    (FVal.fin t m e).mul (.inf s) = (if m = 0 then .nan else .inf (s != t)) ∧
    (FVal.inf s).div (.inf t) = .nan ∧ (FVal.inf s).div (.fin t m e) = .inf (s != t) ∧
    (∃ e', (FVal.fin s m e).div (.inf t) = .fin (s != t) 0 e') ∧ (FVal.inf s).sqrt = (if s then .nan else .inf false) ∧
    (FVal.inf s).rel (.inf t) = (if s = t then .equal else if s then .less else .greater) ∧
    (FVal.inf s).rel (.fin t m e) = (if s then .less else .greater) ∧
    (FVal.fin t m e).rel (.inf s) = (if s then .greater else .less)

/-- Each operation of R47 on finite operands gives the exact mathematical result rounded once to nearest (R46), overflow and
subnormal results among them; a division by zero gives an infinity or, of zero, the canonical NaN; the square root of a value
below −0 is the canonical NaN and that of a zero the zero; minimum and maximum take R47's course. -/
def Sys2Proof.Claims.RoundedOperations : Prop :=
  ∀ f ∈ [fp32, fp16, bf16], ∀ a < 2 ^ f.width, ∀ b < 2 ^ f.width,
    IsMinMax f false a b (f.minMax false a b) ∧ IsMinMax f true a b (f.minMax true a b) ∧
    ∀ x y : ℝ, IsValue f a x → IsValue f b y →
      let u := f.decode a
      let v := f.decode b
      (∃ neg : Bool, Rounds f 0 neg (x + y) (f.encode 0 (u.add v)) ∧ (x + y ≠ 0 → (neg = true ↔ x + y < 0)) ∧
        (x + y = 0 → neg = (u.isNeg && v.isNeg))) ∧
      (∃ neg : Bool, Rounds f 0 neg (x - y) (f.encode 0 (u.add v.neg)) ∧ (x - y ≠ 0 → (neg = true ↔ x - y < 0)) ∧
        (x - y = 0 → neg = (u.isNeg && !v.isNeg))) ∧
      Rounds f 0 (u.isNeg != v.isNeg) (x * y) (f.encode 0 (u.mul v)) ∧
      (y ≠ 0 → Rounds f 0 (u.isNeg != v.isNeg) (x / y) (f.encode 0 (u.div v))) ∧
      (y = 0 → x ≠ 0 → f.encode 0 (u.div v) = withSign f (u.isNeg != v.isNeg) f.ovf) ∧
      (y = 0 → x = 0 → f.encode 0 (u.div v) = f.nan) ∧
      (0 < x → Rounds f 0 false (Real.sqrt x) (f.encode 0 u.sqrt)) ∧ (x < 0 → f.encode 0 u.sqrt = f.nan) ∧
      (x = 0 → f.encode 0 u.sqrt = a) ∧
      ∀ c z, c < 2 ^ f.width → IsValue f c z → ∃ neg : Bool,
        Rounds f 0 neg (z + x * y) (f.encode 0 ((f.decode c).add (u.mul v))) ∧
        (z + x * y ≠ 0 → (neg = true ↔ z + x * y < 0))

/-- Widening into FP32 is exact (R48): every bf16, FP16, E4M3, E5M2 and E2M1 encoding becomes the FP32 encoding of the same value,
zeros keep their sign, infinities become infinities, and a NaN the canonical NaN. -/
def Sys2Proof.Claims.WideningExact : Prop :=
  ∀ f ∈ [bf16, fp16, e4m3, e5m2, e2m1], ∀ x < 2 ^ f.width,
    let y := fp32.encode 0 (f.decode x)
    y < 2 ^ 32 ∧ finiteOf fp32 y = finiteOf f x ∧
    (f.decode x = .nan → y = 0x7FC00000) ∧ (∀ s, f.decode x = .inf s → fp32.decode y = .inf s) ∧
    (∀ s e, f.decode x = .fin s 0 e → y = if s then 2 ^ 31 else 0)

/-- FALU (R102, Table 5.9): in the format that sz selects, each member rounds its exact result once and writes its encoding to
A with higher bits zero; the minimum and maximum write an operand's encoding; no flag changes. -/
def Sys2Proof.Claims.FloatArithmetic : Prop :=
  (∀ (o : SOp) (s : State) (x : DWord), s.bank.free useA = true → CounterZero o.w s →
    ScalarSource o (o.ea s.bank) (scalarBytes o.sz) s x →
    (∀ m ∈ faluExact, (m.1 o).wf = true →
      Completes (m.1 o) s (srcDone o false (putA s ((scalarFmt o.sz).encode 0
        (m.2 ((scalarFmt o.sz).decode (scalarA o.sz s)) ((scalarFmt o.sz).decode x.toNat)))))) ∧
    ((Instr.fmin o).wf = true →
      Completes (.fmin o) s (srcDone o false (putA s ((scalarFmt o.sz).minMax false (scalarA o.sz s) x.toNat)))) ∧
    ((Instr.fmax o).wf = true →
      Completes (.fmax o) s (srcDone o false (putA s ((scalarFmt o.sz).minMax true (scalarA o.sz s) x.toNat))))) ∧
  (∀ (o : SOp) (s : State) (x : DWord) (ys : List Byte), (Instr.fma o).wf = true → s.bank.free useA = true →
    CounterZero o.w s → ScalarSource o (o.eaSplit s.bank) (scalarBytes o.sz) s x →
    LocalRead s (o.ea2 s.bank) (scalarBytes o.sz) (scalarBytes o.sz) ys →
    let d := (scalarFmt o.sz).decode
    Completes (.fma o) s (srcDone o true (putA s
      ((scalarFmt o.sz).encode 0 ((d (scalarA o.sz s)).add ((d x.toNat).mul (d (leNat ys)))))))) ∧
  (∀ (o : SOp) (s : State), (Instr.fsqrt o).wf = true → s.bank.free useA = true → CounterZero o.w s →
    Completes (.fsqrt o) s (putA s ((scalarFmt o.sz).encode 0 ((scalarFmt o.sz).decode (scalarA o.sz s)).sqrt)))

/-- `FCMP` (R103, Table 5.10): the flags alone change, by the relation of A's value to the operand's; M is kept. -/
def Sys2Proof.Claims.FloatCompare : Prop :=
  ∀ (o : SOp) (s : State) (x : DWord), (Instr.fcmp o).wf = true → s.bank.free useAF = true → CounterZero o.w s →
    ScalarSource o (o.ea s.bank) (scalarBytes o.sz) s x →
    let r := ((scalarFmt o.sz).decode (scalarA o.sz s)).rel ((scalarFmt o.sz).decode x.toNat)
    Completes (.fcmp o) s (srcDone o false (s.setBank { s.bank with f :=
      ⟨s.bank.f.m, decide (r = .less), decide (r = .equal), decide (r = .equal ∨ r = .greater), decide (r = .unordered)⟩ }))

/-- `FSGN` and `FCVT` (R104, R105): `FSGN` clears, inverts or sets the sign bit and passes the other bits of the format; `FCVT`
writes the conversion that its selector names: between float formats one rounding, to an integer rounded in the mode and
saturated with a NaN giving 0 (R49). -/
def Sys2Proof.Claims.FloatConvert : Prop :=
  (∀ (o : SOp) (s : State), (Instr.fsgn o).wf = true → s.bank.free useA = true → CounterZero o.w s →
    let n := (scalarFmt o.sz).width
    ∃ r : DWord, Completes (.fsgn o) s (s.setBank { s.bank with a := r }) ∧
      (∀ j < 64, j ≠ n - 1 → r.getLsbD j = (decide (j < n) && s.bank.a.getLsbD j)) ∧
      r.getLsbD (n - 1) = (match (o.d.extractLsb' 0 2).toNat with
        | 0 => false | 1 => !s.bank.a.getLsbD (n - 1) | _ => true)) ∧
  (∀ (o : SOp) (s : State), (Instr.fcvt o).wf = true → s.bank.free useA = true → CounterZero o.w s →
    ∃ r : DWord, Completes (.fcvt o) s (s.setBank { s.bank with a := r }) ∧ Converts o.d s.bank.a.toNat r)

/-! ## Vectors -/

/-- VALU (R81, R82, R106, Table 5.13): each enabled lane takes the table's result on int32, wrapping; `VMAC` multiplies two
operands; `VSEL` writes all eight lanes, M choosing between x and V; disabled lanes, F and all else stand (R16). -/
def Obligations.VectorInteger : Prop :=
  (∀ (o : SOp) (s : State) (x : Vector Word 8), s.bank.free useV = true → CounterZero o.w s →
    VectorSource o (o.ea s.bank) false s x → ∀ m ∈ valuTable, (m.1 o).wf = true →
    Completes (m.1 o) s (srcDone o false (putLanes s fun i => m.2 s.bank.v[i] (laneInt o.sz x[i])))) ∧
  (∀ (o : SOp) (s : State) (x : Vector Word 8) (ys : List Byte), (Instr.vmac o).wf = true → s.bank.free useV = true →
    CounterZero o.w s → VectorSource o (o.eaSplit s.bank) false s x → VectorRead o.sz (o.ea2 s.bank) false s ys →
    Completes (.vmac o) s (srcDone o true (putLanes s fun i =>
      s.bank.v[i] + laneInt o.sz x[i] * laneInt o.sz (laneBits o.sz ys i)))) ∧
  (∀ (o : SOp) (s : State) (x : Vector Word 8), (Instr.vsel o).wf = true → s.bank.free useV = true → CounterZero o.w s →
    VectorSource o (o.ea s.bank) true s x →
    Completes (.vsel o) s (srcDone o false (s.setBank { s.bank with
      v := Vector.ofFn fun i : Fin 8 => if s.bank.f.m.getLsbD i then s.bank.v[i] else laneInt o.sz x[i] })))

/-- VFPU with operands (R107, Table 5.14): each enabled lane takes the exact result rounded once, the operand widened exactly;
`VFMA` rounds once; `VFCMP` gives −1, 0, +1 or +2; disabled lanes, F and all else stand. -/
def Sys2Proof.Claims.VectorFloatOperand : Prop :=
  (∀ (o : SOp) (s : State) (x : Vector Word 8), s.bank.free useV = true → CounterZero o.w s →
    VectorSource o (o.ea s.bank) false s x → ∀ m ∈ vfpuTable, (m.1 o).wf = true →
    Completes (m.1 o) s (srcDone o false (putLanes s fun i =>
      BitVec.ofNat 32 (m.2 s.bank.v[i].toNat (laneFloat o.sz x[i]))))) ∧
  (∀ (o : SOp) (s : State) (x : Vector Word 8) (ys : List Byte), (Instr.vfma o).wf = true → s.bank.free useV = true →
    CounterZero o.w s → VectorSource o (o.eaSplit s.bank) false s x → VectorRead o.sz (o.ea2 s.bank) false s ys →
    Completes (.vfma o) s (srcDone o true (putLanes s fun i =>
      BitVec.ofNat 32 (fp32.encode 0 ((fp32.decode s.bank.v[i].toNat).add
        ((fp32.decode (laneFloat o.sz x[i])).mul (fp32.decode (laneFloat o.sz (laneBits o.sz ys i)))))))))

/-- The in-place VFPU members (R55, R56, R104, R107), which write the enabled lanes alone. `VFCVT` converts each. Each special
function is one function of the lane's bits: on NaN, infinities and zeros it gives the values of Table 3.7; the finite rows of
that table hold; every other result lies within the bound of Table 3.6, and the exact results of its last column are
returned exactly. Which value within the bound it is, is a free value (log entry 90). -/
def Sys2Proof.Claims.VectorInPlace : Prop :=
  (∀ (o : SOp) (s : State), s.bank.free useV = true → CounterZero o.w s → (Instr.vfcvt o).wf = true →
    ∃ g : Word → DWord, (∀ x, Converts o.d x.toNat (g x)) ∧
      Completes (.vfcvt o) s (putLanes s fun i => (g s.bank.v[i]).setWidth 32)) ∧
  (∃ g : Word → Word,
    (∀ (o : SOp) (s : State), s.bank.free useV = true → CounterZero o.w s → (Instr.vfrcp o).wf = true →
      Completes (.vfrcp o) s (putLanes s fun i => g s.bank.v[i])) ∧
    SpecialRows g 0x7FC00000 0 0x80000000 0x7F800000 0xFF800000 ∧
    ∀ (x : Word) (v : ℝ), IsValue fp32 x.toNat v → v ≠ 0 →
      ((2 : ℝ) ^ (128 : ℕ) ≤ |1 / v| → g x = if x.getLsbD 31 then 0xFF800000 else 0x7F800000) ∧
      (|1 / v| < (2 : ℝ) ^ (128 : ℕ) → WithinUlps 1 (1 / v) (g x) ∧
        ∀ n : ℤ, |v| = (2 : ℝ) ^ n → IsValue fp32 (g x).toNat (1 / v))) ∧
  (∃ g : Word → Word,
    (∀ (o : SOp) (s : State), s.bank.free useV = true → CounterZero o.w s → (Instr.vfrsq o).wf = true →
      Completes (.vfrsq o) s (putLanes s fun i => g s.bank.v[i])) ∧
    SpecialRows g 0x7FC00000 0 0x7FC00000 0x7F800000 0xFF800000 ∧
    ∀ (x : Word) (v : ℝ), IsValue fp32 x.toNat v →
      (v < 0 → g x = 0x7FC00000) ∧
      (0 < v → WithinUlps 1 (1 / Real.sqrt v) (g x) ∧
        ∀ n : ℤ, v = (2 : ℝ) ^ (2 * n) → IsValue fp32 (g x).toNat ((2 : ℝ) ^ (-n)))) ∧
  (∃ g : Word → Word,
    (∀ (o : SOp) (s : State), s.bank.free useV = true → CounterZero o.w s → (Instr.vfexp o).wf = true →
      Completes (.vfexp o) s (putLanes s fun i => g s.bank.v[i])) ∧
    SpecialRows g 0x7FC00000 0x7F800000 0 0x3F800000 0x3F800000 ∧
    ∀ (x : Word) (v : ℝ), IsValue fp32 x.toNat v → v ≠ 0 →
      (128 ≤ v → g x = 0x7F800000) ∧ (v < -150 → g x = 0) ∧
      (-150 ≤ v → v < 128 → WithinUlps 2 ((2 : ℝ) ^ v) (g x) ∧ (g x).getLsbD 31 = false ∧
        ∀ n : ℤ, -149 ≤ n → n ≤ 127 → v = n → IsValue fp32 (g x).toNat ((2 : ℝ) ^ n))) ∧
  (∃ g : Word → Word,
    (∀ (o : SOp) (s : State), s.bank.free useV = true → CounterZero o.w s → (Instr.vflog o).wf = true →
      Completes (.vflog o) s (putLanes s fun i => g s.bank.v[i])) ∧
    SpecialRows g 0x7FC00000 0x7F800000 0x7FC00000 0xFF800000 0xFF800000 ∧
    ∀ (x : Word) (v : ℝ), IsValue fp32 x.toNat v →
      (v < 0 → g x = 0x7FC00000) ∧
      (0 < v → WithinUlps 2 (Real.logb 2 v) (g x) ∧ ∀ n : ℤ, v = (2 : ℝ) ^ n → IsValue fp32 (g x).toNat n))

/-- VDATA's moves (R108, R109): `VLD` and `VPERM` from an operand, `VSPLAT`, `VINS` and `VSLIDE` from A, for enabled lanes; `VEXT`
reads its lane whatever M holds; W is V before the instruction. -/
def Obligations.VectorMoves : Prop :=
  (∀ (o : SOp) (s : State) (x : Vector Word 8), s.bank.free useV = true → CounterZero o.w s →
    VectorSource o (o.ea s.bank) false s x →
    ((Instr.vld o).wf = true → Completes (.vld o) s (srcDone o false (putLanes s fun i => laneInt o.sz x[i]))) ∧
    ((Instr.vperm o).wf = true → Completes (.vperm o) s (srcDone o false (putLanes s fun i =>
      s.bank.v[(laneInt o.sz x[i]).toNat % 8]'(Nat.mod_lt _ (by decide)))))) ∧
  (∀ (o : SOp) (s : State), s.bank.free useAV = true → CounterZero o.w s →
    let lane : Fin 8 := ⟨o.d.toNat % 8, Nat.mod_lt _ (by decide)⟩
    let a : Word := s.bank.a.setWidth 32
    ((Instr.vsplat o).wf = true → Completes (.vsplat o) s (putLanes s fun _ => a)) ∧
    ((Instr.vext o).wf = true → Completes (.vext o) s (s.setBank { s.bank with a := s.bank.v[lane].signExtend 64 })) ∧
    ((Instr.vins o).wf = true →
      Completes (.vins o) s (putLanes s fun i => if i = lane then a else s.bank.v[i])) ∧
    ((Instr.vslide o).wf = true → Completes (.vslide o) s (putLanes s fun i =>
      let j : Int := i.val + (o.d.extractLsb' 0 4).toInt
      if h : 0 ≤ j ∧ j < 8 then s.bank.v[j.toNat]'(by omega) else a)))

/-- The reductions and `VMASK` (R110, R111, Table 5.15): they read enabled lanes in ascending order, exactly as int64 or as a
left fold of rounded sums or maxima, with the table's values where no lane is enabled; `VMASK` tests all eight lanes. That
the fold starts from the canonical NaN where the first lane is a NaN is the model's choice (log entry 19). -/
def Obligations.VectorReduce : Prop :=
  ∀ (o : SOp) (s : State), CounterZero o.w s →
    let ls := laneList s
    let first := fun (x : Word) => if fp32.decode x.toNat = .nan then 0x7FC00000 else x.toNat
    let fold := fun (g : FVal → FVal → Nat) (x : Word) (r : List Word) =>
      BitVec.ofNat 64 (r.foldl (fun acc y => g (fp32.decode acc) (fp32.decode y.toNat)) (first x))
    ((Instr.vsum o).wf = true → s.bank.free useAV = true →
      (o.d.getLsbD 0 = false → Completes (.vsum o) s (s.setBank { s.bank with a := BitVec.ofInt 64 (ls.map BitVec.toInt).sum })) ∧
      (o.d.getLsbD 0 = true → Completes (.vsum o) s (s.setBank { s.bank with a :=
        match ls with | [] => 0 | x :: r => fold (fun u v => fp32.encode 0 (u.add v)) x r }))) ∧
    ((Instr.vmaxr o).wf = true → s.bank.free useAV = true →
      (o.d.getLsbD 0 = false → ∃ m : Int, Completes (.vmaxr o) s (s.setBank { s.bank with a := BitVec.ofInt 64 m }) ∧
        (ls = [] → m = -(2 ^ 31)) ∧ (ls ≠ [] → m ∈ ls.map BitVec.toInt ∧ ∀ y ∈ ls, y.toInt ≤ m)) ∧
      (o.d.getLsbD 0 = true → Completes (.vmaxr o) s (s.setBank { s.bank with a :=
        match ls with
        | [] => 0xFF800000
        | x :: r => BitVec.ofNat 64 (r.foldl (fun acc y => fp32.minMax true acc y.toNat) (first x)) }))) ∧
    ((Instr.vmask o).wf = true →
      let c := o.d.toNat % 8
      (c = 7 → s.bank.free useA = true → Completes (.vmask o) s (s.setBank { s.bank with a := s.bank.f.m.setWidth 64 })) ∧
      (c = 6 → s.bank.free useA = true → Completes (.vmask o) s (s.setBank { s.bank with f := { s.bank.f with m := s.bank.a.setWidth 8 } })) ∧
      (c < 6 → s.bank.free useV = true → ∃ m : BitVec 8, Completes (.vmask o) s (s.setBank { s.bank with f := { s.bank.f with m := m } }) ∧
        ∀ i : Fin 8, m.getLsbD i = (let w := s.bank.v[i].toInt
          match c with
          | 0 => decide (w = 0) | 1 => decide (w ≠ 0) | 2 => decide (w < 0) | 3 => decide (0 ≤ w) | 4 => decide (0 < w)
          | _ => decide (w ≤ 0))))

/-- `VST` (R82, R108): each enabled lane's low bytes are stored and no other byte changes, but those of a stale granule, which
become zero; with M = 0 no byte moves and no granule is checked; the pointer advances either way. -/
def Sys2Proof.Claims.VectorStore : Prop :=
  ∀ (o : SOp) (s : State), (Instr.vst o).wf = true → s.bank.free useV = true → CounterZero o.w s → Tidy s →
    (s.bank.f.m = 0 → InReach (o.ea s.bank) (vecWide o.sz) (vecWide o.sz) → Completes (.vst o) s (srcDone o false s)) ∧
    (s.bank.f.m ≠ 0 → LocalWrite s (o.ea s.bank) (vecWide o.sz) (vstData o.sz s) →
      ∃ t, StoredAt s t (o.ea s.bank) (vstData o.sz s) ∧ OnlyStored s t (o.ea s.bank) ∧
        Completes (.vst o) s (srcDone o false t))

/-- The traps of a scratchpad operand of FALU, VALU, VFPU and VDATA (`ReadTrap`, `WriteTrap`, R82). A vector access is checked
for range and alignment whatever M holds, and its granule only where a lane is read or written. A split form checks its
first operand, then, where that can be read, its second. `VST` never raises `STALE`. -/
def Sys2Proof.Claims.LaneTraps : Prop :=
  (∀ (o : SOp) (s : State) (i : Instr) (u : Uses) (t : Trap),
    ((i ∈ [Instr.fadd o, .fsub o, .fmul o, .fdiv o, .fmin o, .fmax o] ∧ u = useA) ∨ (i = .fcmp o ∧ u = useAF)) →
    i.wf = true → o.src = 0 → s.bank.free u = true → CounterZero o.w s → Unfenced true false s →
    ReadTrap s (o.ea s.bank) (scalarBytes o.sz) t → Traps i s t) ∧
  (∀ (o : SOp) (s : State) (t : Trap), (Instr.fma o).wf = true → s.bank.free useA = true → CounterZero o.w s →
    Unfenced true false s →
    (o.src = 0 → ReadTrap s (o.eaSplit s.bank) (scalarBytes o.sz) t → Traps (.fma o) s t) ∧
    (∀ x, ScalarSource o (o.eaSplit s.bank) (scalarBytes o.sz) s x → ReadTrap s (o.ea2 s.bank) (scalarBytes o.sz) t →
      Traps (.fma o) s t)) ∧
  (∀ (o : SOp) (s : State) (i : Instr) (t : Trap),
    ((∃ m ∈ valuTable, i = m.1 o) ∨ (∃ m ∈ vfpuTable, i = m.1 o) ∨ i = .vld o ∨ i = .vperm o ∨ i = .vsel o) →
    i.wf = true → o.src = 0 → s.bank.free useV = true → CounterZero o.w s → Unfenced true false s →
    ReadTrap s (o.ea s.bank) (vecWide o.sz) t →
    (s.bank.f.m ≠ 0 ∨ i = .vsel o ∨ t.cause = 0x03 ∨ t.cause = 0x04) → Traps i s t) ∧
  (∀ (o : SOp) (s : State) (i : Instr) (t : Trap), (i = .vmac o ∨ i = .vfma o) → i.wf = true →
    s.bank.free useV = true → CounterZero o.w s → Unfenced true false s →
    (s.bank.f.m ≠ 0 ∨ t.cause = 0x03 ∨ t.cause = 0x04) →
    (o.src = 0 → ReadTrap s (o.eaSplit s.bank) (vecWide o.sz) t → Traps i s t) ∧
    (∀ x, VectorSource o (o.eaSplit s.bank) false s x → ReadTrap s (o.ea2 s.bank) (vecWide o.sz) t → Traps i s t)) ∧
  (∀ (o : SOp) (s : State), (Instr.vst o).wf = true → s.bank.free useV = true → CounterZero o.w s → Unfenced false true s →
    (∀ t, WriteTrap s (o.ea s.bank) (vecWide o.sz) t → (s.bank.f.m ≠ 0 ∨ t.cause = 0x03 ∨ t.cause = 0x04) →
      Traps (.vst o) s t) ∧
    (InReach (o.ea s.bank) (vecWide o.sz) (vecWide o.sz) → planeGate true (o.ea s.bank).toNat (vecWide o.sz) s = .ok () →
      TagIs s (o.ea s.bank).toNat .stale → ∃ t, Completes (.vst o) s t))

/-- Traps of scratchpad operands.
The clauses are `Sys2Proof.Claims.OperandTraps`, `Sys2Proof.Claims.StoreTraps`, `Sys2Proof.Claims.LaneTraps`. -/
def Obligations.OperandAndStoreTraps : Prop :=
  Sys2Proof.Claims.OperandTraps ∧
  Sys2Proof.Claims.StoreTraps ∧
  Sys2Proof.Claims.LaneTraps

/-- Stores to scratchpad.
The clauses are `Sys2Proof.Claims.ScalarStores`, `Sys2Proof.Claims.VectorStore`. -/
def Obligations.Stores : Prop :=
  Sys2Proof.Claims.ScalarStores ∧
  Sys2Proof.Claims.VectorStore

/-- Arithmetic rounds the exact result once, and widening is exact.
The clauses are `Sys2Proof.Claims.ExactValues`, `Sys2Proof.Claims.SpecialValues`,
`Sys2Proof.Claims.RoundedOperations`, `Sys2Proof.Claims.WideningExact`. -/
def Obligations.ExactArithmetic : Prop :=
  Sys2Proof.Claims.ExactValues ∧
  Sys2Proof.Claims.SpecialValues ∧
  Sys2Proof.Claims.RoundedOperations ∧
  Sys2Proof.Claims.WideningExact

/-- Scalar floating point.
The clauses are `Sys2Proof.Claims.FloatArithmetic`, `Sys2Proof.Claims.FloatCompare`, `Sys2Proof.Claims.FloatConvert`. -/
def Obligations.ScalarFloat : Prop :=
  Sys2Proof.Claims.FloatArithmetic ∧
  Sys2Proof.Claims.FloatCompare ∧
  Sys2Proof.Claims.FloatConvert

/-- Vector floating point.
The clauses are `Sys2Proof.Claims.VectorFloatOperand`, `Sys2Proof.Claims.VectorInPlace`. -/
def Obligations.VectorFloat : Prop :=
  Sys2Proof.Claims.VectorFloatOperand ∧
  Sys2Proof.Claims.VectorInPlace

/-! ## Messages -/

namespace Sys2Proof.Claims

/-- Of the whole state, an instruction changed at most the issuing slot and the count of requests. -/
def SlotOnly (s t : State) : Prop :=
  t = { s with tile := { s.tile with slots := t.tile.slots }, uid := t.uid } ∧
  ∀ k : Fin 8, k ≠ s.cur → t.tile.slots[k] = s.tile.slots[k]

/-- The rank checks of R161 pass, and the context that a handler acts for has a circuit to the rank's tile. -/
def RouteTo (s : State) (rank : Nat) (route : Route) : Prop :=
  let e := s.tile.rank rank
  rank < 4096 ∧ e.valid = true ∧ e.tenant.toNat = s.tile.tenant ∧
  ∃ key, s.findCircuit s.tid (if s.slot.isHandler then 0 else s.cur) (e.tileNo s.modNo) = some key ∧
    route = .tile (key / 4096) (key % 4096) (e.tileNo s.modNo) e.slot.toNat

/-- A's header with the tag and length of the instruction (R174). -/
def header (a : DWord) (tag len : BitVec 4) : DWord :=
  BitVec.ofNat 64 (((a.toNat / 2 ^ 48 * 16 + tag.toNat) * 16 + len.toNat) * 2 ^ 40 + a.toNat % 2 ^ 40)

/-- Payload words at an address: each a doubleword that the context can read. -/
def PayloadAt (s : State) (a : Nat) (pay : List DWord) : Prop :=
  ∀ j : Nat, (h : j < pay.length) → ∃ bs, CellRead s (a + 8 * j : Nat) 8 8 bs ∧ pay[j] = dwordOf bs

/-- What a thread's message leaves: NM one higher, and the message last among the NI's requests of the slot. -/
def MessageSent (s t : State) (hdr : DWord) (pay : List DWord) (route : Route) : Prop :=
  SlotOnly s t ∧ t.slot.nm = s.slot.nm + 1 ∧ t.slot.nb = s.slot.nb ∧ t.slot.ne = s.slot.ne ∧
  ∃ r : Req, t.slot.niq = s.slot.niq ++ [r] ∧ r.op = .msg hdr pay ∧ r.route = route ∧ r.tile = s.tid ∧ r.slot = s.cur.val ∧
    r.run = s.slot.run ∧ r.tenant = s.tile.tenant

/-- The NI can take one more request of the slot (R348), and the counter can rise (R238). -/
def NiTakes (s : State) (counter : BitVec 16) : Prop :=
  counter ≠ 0xFFFF ∧ (s.slot.niq.filter fun r => !r.isPull).length < 8

/-- The pointer that imm12[10:8] names advances where imm12[11] is set (R172). -/
def advanced (o : COp) (b : Bank) : Bank :=
  if o.imm.getLsbD 11 then b.setPtr (o.imm.extractLsb' 8 3)
    ⟨(b.ptr (o.imm.extractLsb' 8 3)).stride, (b.ptr (o.imm.extractLsb' 8 3)).addr +
      (b.ptr (o.imm.extractLsb' 8 3)).stride.setWidth 15⟩
  else b

/-- The record after a position of a queue's ring (R166). -/
def ringNext (q : RQueue) : Nat :=
  let span := 128 * 2 ^ q.logsz.toNat
  q.head.toNat / span * span + (q.head.toNat % span + 128) % span

/-- A queue whose ring is enabled. -/
def Ringed (q : RQueue) : Prop := 1 ≤ q.logsz.toNat ∧ q.logsz.toNat ≤ 8

/-- The inbox limit of R310: fewer than sixteen records present or owed by engines. -/
def InboxRoom (s : State) : Prop := s.tile.engineNe s.cur + s.slot.inbox.length < 16

/-- The checks of a level (R64, R129, R130): declared, not bound to threads or lanes in a handler, within the limit. -/
def LevelOk (s : State) (k : BitVec 4) (limit : Nat) : Prop :=
  k.toNat < s.tile.levels.length ∧ (s.slot.isHandler = true → 1 < bindAt s.tile.levels k.toNat) ∧ s.tile.extent k ≤ limit

/-- The barrier limit (R190). -/
def BarrierOk (s : State) (k : BitVec 4) : Prop :=
  LevelOk s k 5 ∧ (s.tile.extent k < 3 ∨ ∃ l, s.tile.launch = some l ∧ k ∈ l.planes)

/-- Bit `j` of the condition mask of Table 9.4. -/
def waitBit (s : State) (tag : BitVec 4) (j : Nat) : Bool :=
  if j < 4 then (s.slot.rq.toList.getD j RQueue.reset).head != (s.slot.rq.toList.getD j RQueue.reset).tail
  else if j = 4 then !s.slot.inbox.isEmpty
  else if j < 9 then
    match (s.slot.ch.toList.getD (j - 5) Channel.reset).r with | some e => !(s.chanBuf s.tid e).isEmpty | none => false
  else if j = 9 then pendOf s s.tid tag.toNat else false

/-- The product of the fan-outs below level `k`, leaving lane-bound levels out. -/
def lanesBelow (s : State) (k : BitVec 4) : Nat := fanProduct (s.tile.levels.drop (k.toNat + 1))

/-- The four words of V, lane 2k + 1 above lane 2k. -/
def wordsOfV (v : Vector Word 8) : List DWord := [v[1] ++ v[0], v[3] ++ v[2], v[5] ++ v[4], v[7] ++ v[6]]

end Sys2Proof.Claims

/-- `SEND` and `SENDV` (R172, R174, R181): a thread's message goes to the NI on its circuit with NM one higher; a handler's is
held in its slot, and NM does not rise; the header is A's with the tag and length set; only the pointer named advances. -/
def Obligations.Sends : Prop :=
  ∀ (o : COp) (s : State) (i : Instr) (hdr : DWord) (pay : List DWord) (route : Route), i.wf = true →
    s.bank.free useAV = true →
    (i = .send o ∧ pay.length = (o.imm.extractLsb' 0 4).toNat ∧ PayloadAt s (s.bank.ptr (o.imm.extractLsb' 8 3)).addr.toNat pay ∧
        hdr = header s.bank.a o.tag (o.imm.extractLsb' 0 4)) ∨
      (i = .sendv o ∧ pay = wordsOfV s.bank.v ∧ hdr = header s.bank.a o.tag 4) →
    Unfenced false true s → RouteTo s (s.bank.a.toNat / 2 ^ 48) route →
    let b := if i = .send o then advanced o s.bank else s.bank
    (s.slot.st ≠ .handler → NiTakes s s.slot.nm →
      ∃ t, MessageSent s t hdr pay route ∧ t.bank = b ∧ Completes i s t) ∧
    (s.slot.st = .handler → s.slot.held.length < 8 →
      ∃ t, SlotOnly s t ∧ t.slot.held = s.slot.held ++ [(hdr, pay)] ∧ t.slot.nm = s.slot.nm ∧ t.slot.niq = s.slot.niq ∧
        t.bank = b ∧ Completes i s t) ∧
    (s.slot.st = .handler → 8 ≤ s.slot.held.length → Traps i s (plainTrap 0x1B 1))

/-- `OFFER` and `PULL` (R178, R179) in a thread: the offer is a message of two words, the source range and the offerer's rank;
the pull reads an offer's record, counts in NE, and its request goes to the NI on the circuit to the offerer. -/
def Sys2Proof.Claims.OffersAndPulls : Prop :=
  (∀ (o : COp) (s : State) (route : Route), (Instr.offer o).wf = true → s.bank.free useA = true → s.slot.isHandler = false →
    let p := s.bank.ptr (o.imm.extractLsb' 8 3)
    let n := p.stride.toInt
    8 ≤ n → p.addr.toNat + n ≤ 32768 → p.addr.toNat % 8 = 0 → n % 8 = 0 → Unfenced false true s →
    RouteTo s (s.bank.a.toNat / 2 ^ 48) route → NiTakes s s.slot.nm →
    ∃ t, MessageSent s t (header s.bank.a o.tag 2) [BitVec.ofInt 64 (p.addr.toNat + n * 65536), BitVec.ofInt 64 (ownRank s)] route ∧
      t.bank = s.bank ∧ Completes (.offer o) s t) ∧
  (∀ (o : COp) (s : State) (route : Route) (w1 w2 : List Byte), (Instr.pull o).wf = true → s.bank.free useA = true →
    s.slot.isHandler = false →
    let e : Nat := (s.bank.ptr (o.imm.extractLsb' 8 3)).addr.toNat
    let n := (dwordOf w1).toNat / 65536 % 32768
    let dst := s.bank.a.toNat % 32768
    CellRead s (e + 8 : Nat) 8 8 w1 → CellRead s (e + 16 : Nat) 8 8 w2 → 8 ≤ n → dst + n ≤ 32768 → dst % 8 = 0 → n % 8 = 0 →
    n ≤ 32760 → Unfenced false true s → RouteTo s ((dwordOf w2).toNat % 65536) route → InboxRoom s → s.slot.ne ≠ 0xFFFF →
    ∃ t, SlotOnly s t ∧ t.slot.ne = s.slot.ne + 1 ∧ t.slot.nm = s.slot.nm ∧ t.bank = s.bank ∧
      (∃ r : Req, t.slot.niq = s.slot.niq ++ [r] ∧ r.op = .pull ((dwordOf w1).toNat % 32768) n dst 0 ∧ r.route = route) ∧
      Completes (.pull o) s t)

/-- `RECV` and `PEEK` (R176): with a record at the head of queue ch, A takes its header, the pointer named by ch's field p the
record with stride 8, and Z is 0; `RECV` alone advances HEAD by one record of the ring. On an empty queue `PEEK` answers A = 0
and Z = 1, and `RECV` waits. A handler may issue neither. -/
def Sys2Proof.Claims.Receiving : Prop :=
  ∀ (o : COp) (s : State) (bs : List Byte), (Instr.recv o).wf = true → (Instr.peek o).wf = true → s.bank.free useAF = true →
    let q := s.slot.rq[o.ch.toNat]'o.ch.isLt
    let b := { s.bank with a := dwordOf bs, f := { s.bank.f with z := false } }.setPtr (o.imm.extractLsb' 8 3) ⟨8, q.head⟩
    (s.slot.isHandler = false → q.head ≠ q.tail → LocalRead s q.head.toNat 8 8 bs →
      Completes (.peek o) s (s.setBank b) ∧
      (Ringed q → ∃ q' : RQueue, q'.head.toNat = ringNext q % 32768 ∧ q'.tail = q.tail ∧ q'.logsz = q.logsz ∧ q'.ovf = q.ovf ∧
        Completes (.recv o) s ((s.setBank b).setSlot
          { (s.setBank b).slot with rq := s.slot.rq.set o.ch.toNat q' o.ch.isLt }))) ∧
    (s.slot.isHandler = false → q.head = q.tail →
      Completes (.peek o) s (s.setBank { s.bank with a := 0, f := { s.bank.f with z := true } }) ∧
      exec (.recv o) s = .next (s.setSlot { s.slot with wait := some .queue })) ∧
    (s.slot.isHandler = true → Traps (.recv o) s (plainTrap 0x18 16) ∧ Traps (.peek o) s (plainTrap 0x18 16))

/-- `HRET` (R182): the held messages go to the NI in issue order, the queue
that dispatched the handler advances past the head, and the slot is empty; a thread's `HRET` raises `LEVEL_MISMATCH`. -/
def Sys2Proof.Claims.HandlerReturn : Prop :=
  ∀ (o : COp) (s : State), (Instr.hret o).wf = true →
    (s.slot.st = .handler → (s.slot.niq.filter fun r => !r.isPull).length + s.slot.held.length ≤ 8 →
      (∀ m ∈ s.slot.held, ∃ route, RouteTo s (m.1.toNat / 2 ^ 48) route) →
      ∃ t, exec (.hret o) s = .next t ∧ t.slot.st = .empty ∧ t.slot.priv = false ∧ t.slot.held = [] ∧ t.slot.nm = 0 ∧
        (t.slot.niq.map fun r => r.op) = (s.slot.niq.map fun r => r.op) ++ s.slot.held.map (fun m => ReqOp.msg m.1 m.2) ∧
        (∀ k : Fin 8, k ≠ s.cur → k ≠ 7 → t.tile.slots[k] = s.tile.slots[k]) ∧
        (let q := (s.tile.slots[7]).rq[s.slot.hq.toNat]'s.slot.hq.isLt
         Ringed q → ((t.tile.slots[7]).rq[s.slot.hq.toNat]'s.slot.hq.isLt).head.toNat = ringNext q % 32768) ∧
        t.mem = s.mem) ∧
    (s.slot.st ≠ .handler → Traps (.hret o) s (plainTrap 0x18 16))

/-- `TAGSET` and `TAGCLR` (R185): the tag's EN alone of the tag table is set or cleared, and Z is 0; where the image has no handler
for the tag, `TAGSET` changes nothing but Z, which becomes 1. -/
def Sys2Proof.Claims.Tags : Prop :=
  ∀ (o : COp) (s : State), s.bank.free useF = true →
    let has := match s.tile.launch with | some l => l.h != 0 && l.hmask.getLsbD o.tag.toNat | none => false
    let zed := fun (z : Bool) => s.setBank { s.bank with f := { s.bank.f with z := z } }
    let entry := fun (en : Bool) => { zed false with tile := { (zed false).tile with
      tagtab := s.tile.tagtab.set o.tag.toNat { s.tile.tagtab[o.tag.toNat]'o.tag.isLt with en := en } o.tag.isLt } }
    ((Instr.tagset o).wf = true → has = true → Completes (.tagset o) s (entry true)) ∧
    ((Instr.tagset o).wf = true → has = false → Completes (.tagset o) s (zed true)) ∧
    ((Instr.tagclr o).wf = true → Completes (.tagclr o) s (entry false))

/-! ## Channels -/

/-- `CHR`, `CHW` and `CHWV` (R157, R187): a read of a bound side takes the head word into A, sends a credit back and sets Z to 0, and
answers Z = 1 at once where no word waits; a write spends a credit for each word, one from A or four from V, and puts the words
under way to the far end in order. An unbound side raises `RANK_INVALID`. -/
def Sys2Proof.Claims.ChannelData : Prop :=
  ∀ (o : COp) (s : State), s.slot.isHandler = false → s.bank.free useAll = true →
    let c := s.slot.ch[o.ch.toNat]'o.ch.isLt
    ((Instr.chr o).wf = true →
      (∀ e, c.r = some e →
        (∀ w r, s.chanBuf s.tid e = w :: r → Completes (.chr o) s
          ((s.setBank { s.bank with a := w, f := { s.bank.f with z := false } }).consumeAt s.tid e)) ∧
        (s.chanBuf s.tid e = [] → Completes (.chr o) s (s.setBank { s.bank with f := { s.bank.f with z := true } }))) ∧
      (c.r = none → Traps (.chr o) s (plainTrap 0x16 (0x11000 + o.ch.toNat)))) ∧
    (∀ i ws, i.wf = true → Tabled s → (i = .chw o ∧ ws = [s.bank.a]) ∨ (i = .chwv o ∧ ws = wordsOfV s.bank.v) →
      (∀ e, c.w = some e → ws.length ≤ s.chanCredits s.tid e →
        ∃ t, Completes i s t ∧ t.chanCredits s.tid e = s.chanCredits s.tid e - ws.length ∧
          t.words.map (fun x => (x.dst, x.word)) =
            s.words.map (fun x => (x.dst, x.word)) ++ ws.map (fun w => (chanTarget s s.tid e, w)) ∧
          t.tile = s.tile ∧ t.mem = s.mem) ∧
      (∀ e, c.w = some e → s.chanCredits s.tid e < ws.length → exec i s = .next (s.setSlot { s.slot with wait := some .credit })) ∧
      (c.w = none → Traps i s (plainTrap 0x16 (0x11000 + o.ch.toNat))))

/-- What one end's read takes (R157, R158): the head word leaves the end's buffer and one credit is put under way to the sender. -/
def Sys2Proof.Claims.ChannelConsume : Prop :=
  ∀ (s : State) (t : Nat),
    (∀ die cid, Tabled s →
      let s' := s.consumeAt t (.circuit die cid)
      s'.chanBuf t (.circuit die cid) = (s.chanBuf t (.circuit die cid)).tail ∧
      s'.credits = s.credits ++ [.circuit die cid] ∧ s'.tile = s.tile ∧ s'.mem = s.mem ∧ s'.words = s.words) ∧
    (∀ d u, Tabled s → neighbour s t d = some u →
      let s' := s.consumeAt t (.link d)
      s'.chanBuf t (.link d) = (s.chanBuf t (.link d)).tail ∧ s'.credits = s.credits ++ [.link u (d + 2)] ∧
      s'.tile = s.tile ∧ s'.mem = s.mem ∧ s'.words = s.words)

/-- `CHST` (R186, Table 9.3): mode 0 unbinds both sides, mode 1 the write side to a channel circuit that starts here, mode 2 the read
side to one that ends here, mode 3 both sides to a mesh link in use; each sets Z to 0. A binding that fails, in each of the ways
of the table's last column, changes nothing but Z, which becomes 1; modes 0 and 1 wait for the credits of a bound write side. -/
def Obligations.ChannelBinding : Prop :=
  ∀ (o : COp) (s : State), (Instr.chst o).wf = true → s.slot.isHandler = false → s.bank.free useAF = true →
    let c := s.slot.ch[o.ch.toNat]'o.ch.isLt
    let mode := o.imm.toNat / 1024
    let bound := fun (x : Channel) (t : State) =>
      t.slot.ch = s.slot.ch.set o.ch.toNat x o.ch.isLt ∧ t.bank = { s.bank with f := { s.bank.f with z := false } } ∧
      t.circuits = s.circuits ∧ t.words = s.words ∧ t.mem = s.mem ∧ Completes (.chst o) s t
    let refused := Completes (.chst o) s (s.setBank { s.bank with f := { s.bank.f with z := true } })
    let far := s.circuit (circuitKey (if mode = 1 then dieOf s.tid else s.bank.a.toNat / 4096 % 16) (s.bank.a.toNat % 4096))
    let unread := ∃ e, c.r = some e ∧ s.chanBuf s.tid e ≠ []
    let home := ∀ e, c.w = some e → 8 ≤ s.chanCredits s.tid e
    let waits := exec (.chst o) s = .next (s.setSlot { s.slot with wait := some .credit })
    let foreign := far.base = [] ∨ far.kind ≠ .channel ∨ far.tenant ≠ s.tile.tenant
    (mode = 0 → (unread → refused) ∧ (¬ unread → home → ∃ t, bound ⟨none, none⟩ t) ∧ (¬ unread → ¬ home → waits)) ∧
    (mode = 1 → far.base ≠ [] → far.kind = .channel → far.tenant = s.tile.tenant → far.src = s.tid → far.sslot = s.cur.val →
      (home → ∃ t, bound ⟨some (.circuit (dieOf s.tid) (s.bank.a.toNat % 4096)), c.r⟩ t) ∧ (¬ home → waits)) ∧
    (mode = 2 → far.base ≠ [] → far.kind = .channel → far.tenant = s.tile.tenant → far.dst = s.tid → far.dslot = s.cur.val →
      ¬ unread → ∃ t, bound ⟨c.w, some (.circuit (s.bank.a.toNat / 4096 % 16) (s.bank.a.toNat % 4096))⟩ t) ∧
    (mode = 1 → foreign ∨ far.src ≠ s.tid ∨ far.sslot ≠ s.cur.val → refused) ∧
    (mode = 2 → foreign ∨ far.dst ≠ s.tid ∨ far.dslot ≠ s.cur.val ∨ unread → refused) ∧
    (mode = 3 → let d := o.imm.extractLsb' 0 2
      (linkLive s s.tid d = true → (∀ k, (s.link s.tid d).bound = some k → k = s.cur.val) → ¬ unread → home →
        ∃ t, bound ⟨some (.link d), some (.link d)⟩ t) ∧
      (linkLive s s.tid d = false ∨ (∃ k, (s.link s.tid d).bound = some k ∧ k ≠ s.cur.val) ∨ unread ∨ ¬ home → refused))

/-! ## Synchronisation -/

/-- `BARW` and `BART` (R191): a join that is complete ends, and the instruction completes, with Z 1 in `BART`; otherwise `BART` answers
Z = 0, joining where no join is open, and `BARW` joins and waits after that effect. A join open at another level raises
`LEVEL_MISMATCH`. An access before a fence that the join would make visible is complete (R248, log entry 20). -/
def Sys2Proof.Claims.Barriers : Prop :=
  ∀ (o : COp) (s : State), s.slot.isHandler = false → BarrierOk s o.lvl → s.bank.free useF = true →
    (s.slot.join = some ⟨o.lvl, true⟩ →
      ((Instr.barw o).wf = true →
        Completes (.barw o) s (s.setSlot { s.slot with join := none, entered := .no, timer := 0 })) ∧
      ((Instr.bart o).wf = true →
        Completes (.bart o) s (((s.setBank { s.bank with f := { s.bank.f with z := true } })).setSlot
          { (s.setBank { s.bank with f := { s.bank.f with z := true } }).slot with join := none }))) ∧
    (s.slot.join = some ⟨o.lvl, false⟩ → (Instr.bart o).wf = true →
      Completes (.bart o) s (s.setBank { s.bank with f := { s.bank.f with z := false } })) ∧
    (s.slot.join = none → joinGate s = .ok () →
      ((Instr.bart o).wf = true → ∃ t, Completes (.bart o) s t ∧ t.slot.join = some ⟨o.lvl, false⟩ ∧ t.bank.f.z = false ∧
        t.mem = s.mem ∧ ∃ e ∈ t.episodes, e.lid = s.tile.lid ∧ e.level = o.lvl ∧ s.tile.launchIndex s.cur ∈ e.joined) ∧
      ((Instr.barw o).wf = true → s.slot.entered = .no →
        ∃ t, exec (.barw o) s = .next t ∧ t.slot.join = some ⟨o.lvl, false⟩ ∧ t.slot.wait = some .barrier ∧
          t.slot.entered = .barrier ∧ t.bank = s.bank ∧
          t.slot.timer = (let e := (o.imm.extractLsb' 0 5).toNat; if e = 0 then 2 ^ 20 else if e ≤ 9 then 2 ^ 10 else 2 ^ e))) ∧
    (∀ k c, s.slot.join = some ⟨k, c⟩ → k ≠ o.lvl →
      ((Instr.bart o).wf = true → Traps (.bart o) s (plainTrap 0x18 o.lvl.toNat)) ∧
      ((Instr.barw o).wf = true → Traps (.barw o) s (plainTrap 0x18 o.lvl.toNat)))

/-- `PAUSE`, `YIELD`, `STKH`, `WAITQ` and `ALIGN` (R194 to R198): each completes with only the effect its rule gives: the pause count
n · 16^s; the set of other running contexts that go first; the hint, 7 acting as 0 and none in a handler; the conditions that hold
among those selected, in A, waiting where none does; the hold of an `ALIGN`, and its end once released. -/
def Sys2Proof.Claims.Waiting : Prop :=
  ∀ (o : COp) (s : State),
    ((Instr.pause o).wf = true →
      Completes (.pause o) s (s.setSlot { s.slot with pause := o.imm.toNat * 16 ^ o.ch.toNat, pauseDue := false })) ∧
    ((Instr.yield o).wf = true → ∃ m : BitVec 8, Completes (.yield o) s (s.setSlot { s.slot with yielded := m }) ∧
      ∀ k : Fin 8, m.getLsbD k = (decide (k ≠ s.cur) && s.tile.slots[k].running)) ∧
    ((Instr.stkh o).wf = true →
      (s.slot.isHandler = true → Completes (.stkh o) s s) ∧
      (s.slot.isHandler = false → ∃ h, Completes (.stkh o) s { s.setSlot { s.slot with hint :=
          (if o.imm.toNat % 8 = 7 then 0 else o.imm.extractLsb' 0 3) } with
        tile := { (s.setSlot { s.slot with hint :=
          (if o.imm.toNat % 8 = 7 then 0 else o.imm.extractLsb' 0 3) }).tile with hintNew := h } })) ∧
    ((Instr.waitq o).wf = true → s.slot.isHandler = false → s.bank.free useA = true →
      let sel := fun j => o.imm.getLsbD j && waitBit s o.tag j
      ((o.imm.toNat % 1024 = 0 ∨ ∃ j < 10, sel j = true) → ∃ m : BitVec 10, (∀ j < 10, m.getLsbD j = sel j) ∧
        Completes (.waitq o) s (s.setBank { s.bank with a := m.setWidth 64 })) ∧
      (o.imm.toNat % 1024 ≠ 0 → (∀ j < 10, sel j = false) →
        exec (.waitq o) s = .next (s.setSlot { s.slot with wait := some .waitq }))) ∧
    ((Instr.align o).wf = true → s.slot.isHandler = false → LevelOk s o.lvl 7 →
      (s.slot.entered = .no → exec (.align o) s = .next (s.setSlot { s.slot with
        entered := .align false o.lvl, timer := (if o.imm = 0 then 4096 else o.imm.toNat), wait := some .align })) ∧
      (s.slot.entered = .align true o.lvl → Completes (.align o) s (s.setSlot { s.slot with entered := .no, timer := 0 })))

/-! ## Fabric -/

/-- `CIRC` (R199) in a thread: with a readable block, a valid rank where it sets up, and room in the inbox, the joiner of the tile's die
receives a request with the block's fields, and NE is one higher; nothing else of the context changes. -/
def Sys2Proof.Claims.Circuits : Prop :=
  ∀ (o : COp) (s : State) (bs : List Byte), (Instr.circ o).wf = true → s.slot.isHandler = false → dieOf s.tid < 16 →
    let a := (s.bank.ptr (o.imm.extractLsb' 8 3)).addr.toNat
    let d := (dwordOf (bs.take 8)).toNat
    let e := s.tile.rank (d % 65536)
    CellRead s a 32 32 bs → Unfenced false true s → InboxRoom s → s.slot.ne ≠ 0xFFFF →
    ((o.ch ≠ 0 ∨ (d % 65536 < 4096 ∧ e.valid = true ∧ e.tenant.toNat = s.tile.tenant)) →
      ∃ t r, Completes (.circ o) s t ∧ t.slot.ne = s.slot.ne + 1 ∧ t.bank = s.bank ∧ t.mem = s.mem ∧
        (t.getDie (dieOf s.tid)).work = (s.getDie (dieOf s.tid)).work ++ [.own r] ∧ r.tile = s.tid ∧ r.slot = s.cur.val ∧ r.op = o.ch ∧
        r.tenant = s.tile.tenant ∧ r.chan = decide (d / 2 ^ 24 % 2 = 1) ∧ r.cid = d / 2 ^ 32 % 4096 ∧
        r.slots = (if o.ch = 0 ∧ d / 2 ^ 16 % 64 = 0 then 1 else d / 2 ^ 16 % 64) ∧ r.dst = e.tileNo s.modNo ∧
        r.block.toNat = a) ∧
    (o.ch = 0 → ¬ (d % 65536 < 4096 ∧ e.valid = true ∧ e.tenant.toNat = s.tile.tenant) →
      Traps (.circ o) s (plainTrap 0x16 (d % 65536)))

/-- `RANK` and `TREE` (R201, R202, Table 9.6): a context's own rank, the entry of a rank, the rank of the thread at another coordinate
of a level, the rank of a launch index, with Z and all ones where the rank is not valid; and a level's block of launch indexes, the
index within it, its extent, and the launch index. Only A, and Z where the table says so, change. -/
def Sys2Proof.Claims.RanksAndTree : Prop :=
  ∀ (o : COp) (s : State),
    let ls := s.tile.levels
    let me : Nat := if s.slot.isHandler then 0 else s.cur
    let cs := (s.tile.slot me).coords
    let ix := radix ls cs
    let own : Int := (ix : Int) - s.tile.rankBase
    let k := o.lvl.toNat
    let answer := fun (r : Int) (ok : Bool) =>
      let good := ok && decide (0 ≤ r) && decide (r < 4096) && (s.tile.rank r.toNat).valid
      s.setBank { s.bank with a := (if good then BitVec.ofInt 64 r else BitVec.allOnes 64), f := { s.bank.f with z := !good } }
    ((Instr.rank o).wf = true → s.bank.free useAF = true →
      (o.ch = 0 → Completes (.rank o) s (s.setBank { s.bank with a := BitVec.ofInt 64 own })) ∧
      (o.ch = 1 → Completes (.rank o) s (s.setBank { s.bank with a :=
        (if 4096 ≤ s.bank.a.toNat % 65536 then 0 else (s.tile.rank (s.bank.a.toNat % 65536)).toDWord) })) ∧
      (o.ch = 2 → LevelOk s o.lvl 7 → let x := s.bank.a.toNat % 65536
        Completes (.rank o) s (answer (own + ((x : Int) - cs.getD k 0) * lanesBelow s o.lvl)
          (decide (bindAt ls k ≠ 0) && decide (x < fanAt ls k)))) ∧
      (o.ch = 3 → Completes (.rank o) s (answer ((s.bank.a.toNat % 2 ^ 32 : Nat) - (s.tile.rankBase : Int)) true))) ∧
    ((Instr.tree o).wf = true → s.bank.free useA = true →
      (o.ch = 3 → Completes (.tree o) s (s.setBank { s.bank with a := BitVec.ofNat 64 ix })) ∧
      (LevelOk s o.lvl 7 →
        (o.ch = 0 → Completes (.tree o) s (s.setBank { s.bank with a := BitVec.ofNat 64 (lanesBelow s o.lvl) })) ∧
        (o.ch = 1 → bindAt ls k ≠ 0 →
          Completes (.tree o) s (s.setBank { s.bank with a := BitVec.ofNat 64 (radix (ls.drop (k + 1)) (cs.drop (k + 1))) })) ∧
        (o.ch = 1 → bindAt ls k = 0 → Completes (.tree o) s (s.setBank { s.bank with a := 0 })) ∧
        (o.ch = 2 → Completes (.tree o) s (s.setBank { s.bank with a := BitVec.ofNat 64 (s.tile.extent o.lvl) }))))

/-- OFFER and PULL.
The clauses are `Sys2Proof.Claims.OffersAndPulls`. -/
def Obligations.Transfers : Prop :=
  Sys2Proof.Claims.OffersAndPulls

/-- Receiving, returning from a handler, tags.
The clauses are `Sys2Proof.Claims.Receiving`, `Sys2Proof.Claims.HandlerReturn`, `Sys2Proof.Claims.Tags`. -/
def Obligations.Receives : Prop :=
  Sys2Proof.Claims.Receiving ∧
  Sys2Proof.Claims.HandlerReturn ∧
  Sys2Proof.Claims.Tags

/-- Channel reads and writes.
The clauses are `Sys2Proof.Claims.ChannelData`, `Sys2Proof.Claims.ChannelConsume`. -/
def Obligations.Channels : Prop :=
  Sys2Proof.Claims.ChannelData ∧
  Sys2Proof.Claims.ChannelConsume

/-- Barriers, pauses, hints and waits.
The clauses are `Sys2Proof.Claims.Barriers`, `Sys2Proof.Claims.Waiting`. -/
def Obligations.Synchronisation : Prop :=
  Sys2Proof.Claims.Barriers ∧
  Sys2Proof.Claims.Waiting

/-- Circuits, ranks and the tree.
The clauses are `Sys2Proof.Claims.Circuits`, `Sys2Proof.Claims.RanksAndTree`. -/
def Obligations.Fabric : Prop :=
  Sys2Proof.Claims.Circuits ∧
  Sys2Proof.Claims.RanksAndTree

/-! ## Remote accesses, atomics, ordering -/

namespace Sys2Proof.Claims

/-- The address in a cell: VA[63:0], then VA[71:64] in the next byte (R213). -/
def cellVa (bs : List Byte) : VA := BitVec.ofNat 72 ((dwordOf (bs.take 8)).toNat + (bs.getD 8 0).toNat * 2 ^ 64)

/-- The cell of a plain form, and of an ordering form (R251). -/
def plainCell (o : SOp) (s : State) : Int := (s.bank.ptr (s.bank.sel o.p)).addr.toNat + o.d.toInt
def orderCell (o : SOp) (s : State) : Int :=
  (s.bank.ptr (s.bank.sel o.p)).addr.toNat + 16 * (o.d.extractLsb' 4 8).toInt

/-- The address checks at issue pass and give the route (R211, R212, R214, R252, item 6): a tile window through a valid rank of
the tenant whose module the address names, a supervisor's loft window or device register, or bulk and host memory that the lowest
matching PLB entry of the context's domain permits. -/
def AddressOk (s : State) (va : VA) (n : Nat) (need : Rights) (route : Route) : Prop :=
  let sp := va.toNat / 2 ^ 68
  va.toNat % n = 0 ∧ vaZeroOk va = true ∧
  ((sp = 0xC ∧ RouteTo s (va.toNat / 2 ^ 40 % 2 ^ 16) route ∧
      (s.tile.rank (va.toNat / 2 ^ 40 % 2 ^ 16)).module.toNat = va.toNat / 2 ^ 56 % 2 ^ 12) ∨
   ((sp = 0xD ∨ sp = 0xE) ∧ s.slot.priv = true ∧ route = .config) ∨
   (sp ≠ 0xC ∧ sp ≠ 0xD ∧ sp ≠ 0xE ∧ route = .mem ∧
     (s.slot.priv = true ∨ ∃ e, s.tile.plb.toList.find? (fun e => e.matchesRange s.slot.dom va.toNat n) = some e ∧
       (need.r = true → e.r = true) ∧ (need.w = true → e.w = true) ∧ (need.a = true → e.a = true))))

/-- The NI has taken one request of the context, with the access listed for fences and releases: `t` is `s` with that request last,
the counter NB raised by `nb`, and the bank `b`; memory and every other slot stand. -/
def Requested (s t : State) (va : VA) (op : ReqOp) (route : Route) (rel acq : Option (BitVec 3)) (nb : Nat) (b : Bank) : Prop :=
  SlotOnly s t ∧ t.slot.nb.toNat = s.slot.nb.toNat + nb ∧ t.slot.nm = s.slot.nm ∧ t.slot.ne = s.slot.ne ∧ t.bank = b ∧
  ∃ r : Req, t.slot.niq = s.slot.niq ++ [r] ∧ r.va = va ∧ r.op = op ∧ r.route = route ∧ r.rel = rel ∧ r.acq = acq ∧
    r.tile = s.tid ∧ r.slot = s.cur.val ∧ r.run = s.slot.run ∧ r.pc = s.bank.pc ∧
    ∃ a : Acc, t.slot.accs = s.slot.accs ++ [a] ∧ a.seq = s.slot.nextSeq ∧ r.seq = s.slot.nextSeq

/-- The pointer of the cell advances where i = 1 (R251). -/
def cellDone (o : SOp) (b : Bank) : Bank :=
  let p := b.sel o.p
  if o.i then b.setPtr p ⟨(b.ptr p).stride, (b.ptr p).addr + (b.ptr p).stride.setWidth 15⟩ else b

/-- A request of the context can go to the NI (R348), and NB can rise (R238). -/
def NiRoom (s : State) : Prop := (s.slot.niq.filter fun r => !r.isPull).length < 8

/-- The level of an ordering form is declared and open to the context; its extent as the request carries it (R239). -/
def OrderLevel (s : State) (o : SOp) (ext : BitVec 3) : Prop :=
  LevelOk s (o.d.extractLsb' 0 4) 7 ∧ ext = BitVec.ofNat 3 (s.tile.extent (o.d.extractLsb' 0 4))

/-- The bytes of `RSTV`: the eight lanes' words, the bytes of disabled lanes absent (R255). -/
def rstvData (s : State) : List (Option Byte) :=
  (List.range 32).map fun j =>
    if s.bank.f.m.getLsbD (j / 4) then some ((s.bank.v.toList.getD (j / 4) 0).extractLsb' (8 * (j % 4)) 8) else none

/-- The instructions of Table 13.2 and their functions. -/
def amoTable : List ((SOp → Instr) × AmoFn) :=
  [(.aadd, .aadd), (.aand, .aand), (.aor, .aor), (.axor, .axor), (.amin, .amin), (.amax, .amax), (.aminu, .aminu),
   (.amaxu, .amaxu), (.aswp, .aswp), (.acas, .acas)]

/-- The value that an atomic of `w` bits writes, if any (Table 13.2). -/
def amoWrites {w : Nat} (fn : AmoFn) (old a e : BitVec w) : Option (BitVec w) :=
  match fn with
  | .aadd => some (old + a)
  | .aand => some (old &&& a)
  | .aor => some (old ||| a)
  | .axor => some (old ^^^ a)
  | .amin => some (if a.slt old then a else old)
  | .amax => some (if old.slt a then a else old)
  | .aminu => some (if a.ult old then a else old)
  | .amaxu => some (if old.ult a then a else old)
  | .aswp => some a
  | .acas => if old = e then some a else none

/-- A after an atomic: the old value, extended as the table says. -/
def amoOld (fn : AmoFn) (n : Nat) (old : DWord) : DWord :=
  widen (match fn with | .aand | .aor | .axor | .aminu | .amaxu => false | _ => true) n old

/-- The remote forms (Tables 13.1, 13.2): the items of the bank that each uses, whether its cell is the ordering one, the bytes
that it moves, the rights that it needs, and whether it reads and writes. -/
def RemoteForm (o : SOp) (i : Instr) (u : Uses) (order : Bool) (n : Nat) (need : Rights) (read write : Bool) : Prop :=
  (n = bytesOfSize o.sz ∧ u = useA ∧
    ((i = .rld o ∧ order = false ∧ need = needR ∧ read = true ∧ write = false) ∨
     (i = .rldAcq o ∧ order = true ∧ need = needR ∧ read = true ∧ write = false) ∨
     (i = .rst o ∧ order = false ∧ need = needW ∧ read = false ∧ write = true) ∨
     (i = .rstRel o ∧ order = true ∧ need = needW ∧ read = false ∧ write = true))) ∨
  (n = 32 ∧ u = useV ∧ order = false ∧
    ((i = .rldv o ∧ need = needR ∧ read = true ∧ write = false) ∨ (i = .rstv o ∧ need = needW ∧ read = false ∧ write = true))) ∨
  (n = bytesOfSize o.sz ∧ u = useAll ∧ o.src ≠ 0 ∧ order = decide (o.src ≠ 1) ∧ need = needRWA ∧ read = true ∧ write = true ∧
    ∃ m ∈ amoTable, i = m.1 o)

/-- `ACAS`'s expected value, V[1] above V[0]. -/
def expectedOf (s : State) : DWord := s.bank.v[1] ++ s.bank.v[0]

end Sys2Proof.Claims

/-- `RLD` and `RLDV` (R251 to R253, R255): with the cell readable and the address checks passed, the NI takes a load of n bytes, or of 32
with M, and A or V is pending; the thread goes on. With M = 0 `RLDV` changes nothing. `RLD.ACQ` sends the load with its level's extent
and holds the thread, and completes once the reply has come. -/
def Sys2Proof.Claims.RemoteReads : Prop :=
  ∀ (o : SOp) (s : State) (bs : List Byte) (route : Route), CounterZero o.w s → NiRoom s → Unfenced true false s →
    let n := bytesOfSize o.sz
    (CellRead s (plainCell o s) 16 16 bs →
      ((Instr.rld o).wf = true → s.bank.free useA = true → AddressOk s (cellVa bs) n needR route →
        ∃ t, Requested s t (cellVa bs) (.load n none) route none none 0 (cellDone o { s.bank with aPend := true }) ∧
          Completes (.rld o) s t) ∧
      ((Instr.rldv o).wf = true → s.bank.free useV = true → AddressOk s (cellVa bs) 32 needR route →
        (s.bank.f.m ≠ 0 →
          ∃ t, Requested s t (cellVa bs) (.load 32 (some s.bank.f.m)) route none none 0 (cellDone o { s.bank with vPend := true }) ∧
            Completes (.rldv o) s t) ∧
        (s.bank.f.m = 0 → Completes (.rldv o) s s))) ∧
    (∀ ext, (Instr.rldAcq o).wf = true → s.bank.free useA = true → CellRead s (orderCell o s) 16 16 bs → OrderLevel s o ext →
      AddressOk s (cellVa bs) n needR route → s.slot.entered = .no →
      ∃ t, exec (.rldAcq o) s = .next t ∧
        Requested s t (cellVa bs) (.load n none) route none (some ext) 0 (cellDone o { s.bank with aPend := true }) ∧
        t.slot.wait = some .acquire ∧ t.slot.acquiring = true)

/-- The end of an acquire (R242, R253, R257): once its reply has come the instruction completes; an error that arose before
performance is raised at the instruction, at its PC, with its pointer as it stood before it. -/
def Sys2Proof.Claims.AcquireEnds : Prop :=
  ∀ (o : SOp) (s : State) (i : Instr) (sel : BitVec 3) (old : Ptr),
    i = .rldAcq o ∨ (o.src = 2 ∧ ∃ m ∈ amoTable, i = m.1 o) → i.wf = true → s.bank.free useAll = true →
    (s.slot.entered = .acquire sel old none true → Completes i s (s.setSlot { s.slot with entered := .no })) ∧
    (s.slot.entered = .acquire sel old none false → exec i s = .next (s.setSlot { s.slot with wait := some .acquire })) ∧
    (∀ t, s.slot.entered = .acquire sel old (some t) true →
      exec i s = .next (takeTrap t s.bank.pc ((s.setBank (s.bank.setPtr sel old)).setSlot
        { (s.setBank (s.bank.setPtr sel old)).slot with entered := .no })))

/-- `RST`, `RST.REL` and `RSTV` (R251, R252, R254, R255): the NI takes a posted store of A's low bytes, with the release's extent in
`RST.REL`, or of the enabled lanes of V, and NB is one higher; the thread does not wait. With M = 0 `RSTV` changes nothing. -/
def Obligations.RemoteStores : Prop :=
  ∀ (o : SOp) (s : State) (bs : List Byte) (route : Route), CounterZero o.w s → NiRoom s → s.slot.nb ≠ 0xFFFF →
    Unfenced false true s →
    let n := bytesOfSize o.sz
    (CellRead s (plainCell o s) 16 16 bs →
      ((Instr.rst o).wf = true → s.bank.free useA = true → AddressOk s (cellVa bs) n needW route →
        ∃ t, Requested s t (cellVa bs) (.store (lowBytes n s.bank.a)) route none none 1 (cellDone o s.bank) ∧
          Completes (.rst o) s t) ∧
      ((Instr.rstv o).wf = true → s.bank.free useV = true → AddressOk s (cellVa bs) 32 needW route →
        (s.bank.f.m ≠ 0 →
          ∃ t, Requested s t (cellVa bs) (.store (rstvData s)) route none none 1 (cellDone o s.bank) ∧ Completes (.rstv o) s t) ∧
        (s.bank.f.m = 0 → Completes (.rstv o) s s))) ∧
    (∀ ext, (Instr.rstRel o).wf = true → s.bank.free useA = true → CellRead s (orderCell o s) 16 16 bs → OrderLevel s o ext →
      AddressOk s (cellVa bs) n needW route →
      ∃ t, Requested s t (cellVa bs) (.store (lowBytes n s.bank.a)) route (some ext) none 1 (cellDone o s.bank) ∧
        Completes (.rstRel o) s t)

/-- The address traps of a remote access of any form, ordering forms and atomics among them, in their order (R212, R252): a zero
field, a privileged space, alignment, the rank of a tile window, the PLB; %TADDR and %TADDRX hold the address and nothing else
changes. -/
def Obligations.RemoteTraps : Prop :=
  ∀ (o : SOp) (s : State) (bs : List Byte) (i : Instr) (u : Uses) (order : Bool) (n : Nat) (need : Rights) (read write : Bool),
    RemoteForm o i u order n need read write → i.wf = true → s.bank.free u = true → CounterZero o.w s →
    Unfenced read write s → s.slot.entered = .no → (order = true → ∃ ext, OrderLevel s o ext) →
    CellRead s (if order then orderCell o s else plainCell o s) 16 16 bs →
    let va := cellVa bs
    let sp := va.toNat / 2 ^ 68
    let t := fun (c : BitVec 8) => (⟨c, va.setWidth 64, ⟨false, false, 0, BitVec.ofNat 8 (va.toNat / 2 ^ 64)⟩⟩ : Trap)
    let e := s.tile.rank (va.toNat / 2 ^ 40 % 2 ^ 16)
    (vaZeroOk va = false → Traps i s (t 0x10)) ∧
    (vaZeroOk va = true →
      (s.slot.priv = false → sp = 0xD ∨ sp = 0xE → Traps i s (t 0x02)) ∧
      ((s.slot.priv = true ∨ (sp ≠ 0xD ∧ sp ≠ 0xE)) →
        (va.toNat % n ≠ 0 → Traps i s (t 0x03)) ∧
        (va.toNat % n = 0 →
          (sp = 0xC → (4096 ≤ va.toNat / 2 ^ 40 % 2 ^ 16 ∨ e.valid = false ∨ e.tenant.toNat ≠ s.tile.tenant ∨
              e.module.toNat ≠ va.toNat / 2 ^ 56 % 2 ^ 12) → Traps i s (t 0x16)) ∧
          (sp ≠ 0xC → sp ≠ 0xD → sp ≠ 0xE → s.slot.priv = false →
            (∀ p, s.tile.plb.toList.find? (fun p => p.matchesRange s.slot.dom va.toNat n) = some p →
              (need.r = true ∧ p.r = false) ∨ (need.w = true ∧ p.w = false) ∨ (need.a = true ∧ p.a = false)) →
            Traps i s (t 0x10)))))

/-- An atomic on the context's own scratchpad (R259, R260, Table 13.2), of 4 or 8 bytes: A takes the old value; the new one is stored
where there is one to store; `ACAS` sets Z by the comparison and writes nothing where it fails; no other flag, and no other byte but
those of a stale granule, changes. -/
def Sys2Proof.Claims.LocalAtomics : Prop :=
  ∀ (o : SOp) (s : State) (bs : List Byte), ∀ m ∈ amoTable, (m.1 o).wf = true → o.src = 0 → s.bank.free useAll = true → Tidy s →
    CounterZero o.w s → Unfenced true true s →
    let n := bytesOfSize o.sz
    let ea := plainCell o s
    let old := dwordOf bs
    let new : Option DWord :=
      if n = 4 then (amoWrites m.2 (old.setWidth 32) (s.bank.a.setWidth 32) ((expectedOf s).setWidth 32)).map (·.setWidth 64)
      else amoWrites m.2 old s.bank.a (expectedOf s)
    let b := { s.bank with a := amoOld m.2 n old,
                           f := { s.bank.f with z := if m.2 = .acas then decide (new ≠ none) else s.bank.f.z } }
    CellRead s ea n n bs → planeGate true ea.toNat n s = .ok () →
    (∀ x, new = some x → (∀ d ∈ touchedDwords ea.toNat (lowBytes n x), d ∈ s.tile.bad → d ∈ coveredDwords ea.toNat (lowBytes n x)) →
      ∃ t, StoredAt s t ea (lowBytes n x) ∧ OnlyStored s t ea ∧ Completes (m.1 o) s (t.setBank (cellDone o b))) ∧
    (new = none → Completes (m.1 o) s (s.setBank (cellDone o b)))

/-- An atomic on a remote target (R251, R252, R259, R260): the NI takes the request with A's and the expected low bytes and, in the
ordering forms, the extent of the acquire or the release; A, and Z for `ACAS`, are pending; NB does not rise; src = 2 holds the thread. -/
def Sys2Proof.Claims.RemoteAtomics : Prop :=
  ∀ (o : SOp) (s : State) (bs : List Byte) (route : Route) (ext : BitVec 3), ∀ m ∈ amoTable, (m.1 o).wf = true →
    s.bank.free useAll = true → CounterZero o.w s → NiRoom s → Unfenced true true s →
    let n := bytesOfSize o.sz
    let b := cellDone o { s.bank with aPend := true, zPend := m.2 = .acas || s.bank.zPend }
    let op := ReqOp.amo m.2 n (widen false n s.bank.a) (widen false n (expectedOf s))
    AddressOk s (cellVa bs) n needRWA route →
    (o.src = 1 → CellRead s (plainCell o s) 16 16 bs →
      ∃ t, Requested s t (cellVa bs) op route none none 0 b ∧ Completes (m.1 o) s t) ∧
    (o.src = 3 → CellRead s (orderCell o s) 16 16 bs → OrderLevel s o ext →
      ∃ t, Requested s t (cellVa bs) op route (some ext) none 0 b ∧ Completes (m.1 o) s t) ∧
    (o.src = 2 → CellRead s (orderCell o s) 16 16 bs → OrderLevel s o ext → s.slot.entered = .no →
      ∃ t, exec (m.1 o) s = .next t ∧ Requested s t (cellVa bs) op route none (some ext) 0 b ∧ t.slot.wait = some .acquire)

/-- `FENCE` and `WAITC` (R243, R261, R262): a fence with a kind at an extent above thread is put in force for the accesses after it, those
before it keeping their numbers; one with no kind, or at an extent of thread, completes with no effect; `WAITC` completes once every
selected counter is at most t, changing nothing, and waits until then. -/
def Sys2Proof.Claims.FenceAndCount : Prop :=
  ∀ (arg : BitVec 20) (s : State),
    ((Instr.fence arg).wf = true → LevelOk s (arg.extractLsb' 0 4) 7 →
      let ext := BitVec.ofNat 3 (s.tile.extent (arg.extractLsb' 0 4))
      (arg.toNat / 16 % 16 = 0 ∨ ext.toNat ≤ 1 → Completes (.fence arg) s s) ∧
      (arg.toNat / 16 % 16 ≠ 0 → 1 < ext.toNat → parkedOwn s = false →
        ∃ fs, (∀ f ∈ fs, f ∈ s.slot.fences) ∧ (∀ f ∈ s.slot.fences, (∃ a ∈ s.slot.accs, a.seq < f.seq) → f ∈ fs) ∧
          Completes (.fence arg) s (s.setSlot { s.slot with
            fences := fs ++ [⟨arg.extractLsb' 4 4, ext, s.slot.nextSeq⟩] }))) ∧
    ((Instr.waitc arg).wf = true →
      let t := arg.toNat / 16
      let met := (arg.getLsbD 0 = true → s.slot.nb.toNat ≤ t) ∧ (arg.getLsbD 1 = true → s.slot.nm.toNat ≤ t) ∧
        (arg.getLsbD 2 = true → s.slot.ne.toNat ≤ t)
      (met → Completes (.waitc arg) s s) ∧
      (¬ met → exec (.waitc arg) s = .next (s.setSlot { s.slot with wait := some .counter })))

/-- What a fence in force holds (R243): a later access of a later class waits while an access before the fence is not complete for the
fence's extent, a read until its reply has come (it then leaves the list), a write until it is performed for the extent. -/
def Sys2Proof.Claims.FenceHolds : Prop :=
  ∀ (s : State) (read write : Bool), Unfenced read write s ↔
    ∀ f ∈ s.slot.fences, ∀ a ∈ s.slot.accs, s.slot.firstSeq ≤ a.seq → a.seq < f.seq →
      (a.read = true → ¬ ((f.kinds.getLsbD 0 = true ∧ read = true) ∨ (f.kinds.getLsbD 1 = true ∧ write = true))) ∧
      (a.write = true → (if f.ext.toNat ≤ 5 then a.die else a.mod) = false →
        ¬ ((f.kinds.getLsbD 2 = true ∧ read = true) ∨ (f.kinds.getLsbD 3 = true ∧ write = true)))

/-- `GTAG` (R263): A tells how the granule's tag stands to the context's generation, and Z whether it is its own; with c = 1 a stale
granule is zero-filled and stamped in the same step, and one ahead raises `GEN_FUTURE`; `GTAG #0` never traps. -/
def Sys2Proof.Claims.TagProbe : Prop :=
  ∀ (arg : BitVec 20) (s : State), (Instr.gtag arg).wf = true → s.bank.free useAF = true → Tidy s →
    let a : Nat := s.bank.a.toNat % 32768
    let told := fun (c : Nat) (t : State) =>
      Completes (.gtag arg) s (t.setBank { s.bank with a := BitVec.ofNat 64 c, f := { s.bank.f with z := decide (c = 0) } })
    (arg.getLsbD 0 = false → (TagIs s a .own → told 0 s) ∧ (TagIs s a .stale → told 1 s) ∧ (TagIs s a .ahead → told 2 s)) ∧
    (arg.getLsbD 0 = true → Unfenced false true s →
      (TagIs s a .own → told 0 s) ∧
      (TagIs s a .stale → ∃ t, StoredAt s t (a / 32 * 32 : Nat) [] ∧ OnlyStored s t (a / 32 * 32 : Nat) ∧ told 1 t) ∧
      (TagIs s a .ahead → Traps (.gtag arg) s (plainTrap 0x06 (a / 32 * 32 : Nat))))

/-- `GNEW` (R225, R264): with NE zero, no reply outstanding and the sweep for the next value complete, the slot takes that value, A reads
it, the granules from first to last that carried the old one carry it, every other tag stands, CUR takes it and the sweep for the new
next value starts; memory is unchanged. Where the sweep is not complete the instruction waits after it has issued. -/
def Sys2Proof.Claims.NewGeneration : Prop :=
  ∀ (arg : BitVec 20) (s : State), (Instr.gnew arg).wf = true → s.bank.free useA = true → s.slot.isHandler = false → Tidy s →
    s.slot.entered = .no → s.slot.ne = 0 → s.slot.quiet = true →
    let first := arg.toNat / 1024
    let last := arg.toNat % 1024
    let g := s.tile.nextValue
    (s.tile.swept g = true →
      ∃ t, Completes (.gnew arg) s t ∧ t.slot.gen = g ∧ t.bank = { s.bank with a := g.setWidth 64 } ∧ t.mem = s.mem ∧
        t.tile.cur = g ∧ t.tile.sweepPos = 0 ∧ t.tile.sweepVal ≠ g ∧
        (∀ j, t.tile.tag j = if first ≤ j ∧ j ≤ last ∧ s.tile.tag j = s.slot.gen then g else s.tile.tag j) ∧
        ∀ k : Fin 8, k ≠ s.cur → t.tile.slots[k] = s.tile.slots[k]) ∧
    (s.tile.swept g = false → ∃ t, exec (.gnew arg) s = .next t ∧ t.slot.wait = some .sweep ∧ t.slot.entered = .gnew none ∧
      t.tile.sweepVal = g ∧ t.slot.gen = s.slot.gen ∧ t.bank = s.bank ∧ t.tile.tags = s.tile.tags)

/-- Remote loads and the end of an acquire.
The clauses are `Sys2Proof.Claims.RemoteReads`, `Sys2Proof.Claims.AcquireEnds`. -/
def Obligations.RemoteLoads : Prop :=
  Sys2Proof.Claims.RemoteReads ∧
  Sys2Proof.Claims.AcquireEnds

/-- Atomics.
The clauses are `Sys2Proof.Claims.LocalAtomics`, `Sys2Proof.Claims.RemoteAtomics`. -/
def Obligations.Atomics : Prop :=
  Sys2Proof.Claims.LocalAtomics ∧
  Sys2Proof.Claims.RemoteAtomics

/-- Fences and counters.
The clauses are `Sys2Proof.Claims.FenceAndCount`, `Sys2Proof.Claims.FenceHolds`. -/
def Obligations.Ordering : Prop :=
  Sys2Proof.Claims.FenceAndCount ∧
  Sys2Proof.Claims.FenceHolds

/-- Granule generations.
The clauses are `Sys2Proof.Claims.TagProbe`, `Sys2Proof.Claims.NewGeneration`. -/
def Obligations.Generations : Prop :=
  Sys2Proof.Claims.TagProbe ∧
  Sys2Proof.Claims.NewGeneration

/-! ## Engines -/

namespace Sys2Proof.Claims

/-- The addresses of an E-format word (R66). -/
def firstEa (o : EOp) (s : State) : Int := (s.bank.ptr (s.bank.sel o.pa)).addr.toNat + o.imm.toInt
def secondEa (o : EOp) (s : State) : Int := (s.bank.ptr (s.bank.sel o.pb)).addr.toNat

/-- The issuing context owns MA (R279). -/
def OwnsMa (s : State) : Prop := s.tile.owner = some (BitVec.ofNat 3 s.cur) ∧ s.tile.ownerRun = s.slot.run

/-- A span that a command reads lies in scratchpad, aligned to 8, in granules of the context's generation or stale ones under ZERO;
one that it writes, in granules that are not ahead (R273, R302). -/
def SpanOk (s : State) (ea : Int) (n : Nat) (write : Bool) : Prop :=
  0 ≤ ea ∧ ea + n ≤ 32768 ∧ ea % 8 = 0 ∧
  ∀ g : Nat, ea.toNat / 32 ≤ g → g ≤ (ea.toNat + n - 1) / 32 →
    if write then s.tile.tagClass s.slot.gen g ≠ .ahead
    else s.tile.tagClass s.slot.gen g = .own ∨ (s.tile.tagClass s.slot.gen g = .stale ∧ s.slot.gpol = false)

/-- The pointers that an E-format instruction used advance once each where i = 1 (R299). -/
def pairDone (o : EOp) (two : Bool) (s : State) (b : Bank) : Prop :=
  (∃ p, b = { s.bank with p := p }) ∧
  ∀ q : BitVec 3, b.ptr q =
    if o.i = true ∧ (q = s.bank.sel o.pa ∨ (two = true ∧ q = s.bank.sel o.pb))
    then ⟨(s.bank.ptr q).stride, (s.bank.ptr q).addr + (s.bank.ptr q).stride.setWidth 15⟩ else s.bank.ptr q

/-- A plane-array command has entered the queue: last there, NE one higher, the pointers moved, memory and all else as it was. -/
def PlaneQueued (o : EOp) (s t : State) (c : PlaneCmd) : Prop :=
  t.tile.planeQ = s.tile.planeQ ++ [c] ∧ t.slot.ne = s.slot.ne + 1 ∧ pairDone o true s t.bank ∧ t.mem = s.mem ∧
  t.tile.ma = s.tile.ma ∧ t.tile.owner = s.tile.owner ∧ t.slot.inbox = s.slot.inbox ∧
  ∀ k : Fin 8, k ≠ s.cur → t.tile.slots[k] = s.tile.slots[k]

/-- There is room in the command queue of the plane array, and NE can rise. -/
def PlaneRoom (s : State) : Prop := Unfenced false true s ∧ s.tile.planeQ.length < 2 ∧ s.slot.ne ≠ 0xFFFF

/-- A 32-byte command block as four doublewords. -/
def blockOf (bs : List Byte) : Vector DWord 4 :=
  #v[dwordOf (bs.take 8), dwordOf ((bs.drop 8).take 8), dwordOf ((bs.drop 16).take 8), dwordOf ((bs.drop 24).take 8)]

/-- An engine command has gone: NE one higher, and the block's pointer moved. -/
def EngineIssued (o : EOp) (s t : State) : Prop :=
  t.slot.ne = s.slot.ne + 1 ∧ pairDone o false s t.bank ∧ t.mem = s.mem ∧ t.slot.inbox = s.slot.inbox ∧
  ∀ k : Fin 8, k ≠ s.cur → t.tile.slots[k] = s.tile.slots[k]

/-- A `GRNW` slab is aligned to 32, and its VA range passes the checks of R212 and R214 for reading (R312). -/
def SlabOk (s : State) (ea lo n : Nat) : Prop :=
  lo % 32 = 0 ∧ rangeCheck lo (lo + n : Nat) (BitVec.ofNat 64 ea) s = .ok () ∧
  rangePlb lo (lo + n : Nat) needR s = .ok ()

end Sys2Proof.Claims

/-- `PCFG` (R300): the plane configuration of the bank takes the immediate's low nine bits; nothing else changes. -/
def Sys2Proof.Claims.PlaneConfig : Prop :=
  ∀ (o : EOp) (s : State), (Instr.pcfg o).wf = true → CounterZero o.w s →
    Completes (.pcfg o) s (s.setBank { s.bank with pcfg := o.imm.setWidth 9 })

/-- `PDOT`, `PPACK` and `PUNPK` (R273, R274, R301, R302): the owner's `PDOT`, and any context's packing, enters the command queue with the
bank's configuration or the immediate's, its row after stagger and its two addresses; NE rises; the pointers advance; nothing is read
or written yet. A `PDOT` of a context that does not own MA raises `MA_OWNED`. -/
def Sys2Proof.Claims.PlaneCommands : Prop :=
  (∀ (o : EOp) (s : State), (Instr.pdot o).wf = true → CounterZero o.w s →
    let cfg := s.bank.pcfg
    let nA := (if planeDual cfg then 2 else 1) * blockA cfg
    (OwnsMa s → PlaneRoom s → SpanOk s (firstEa o s) nA false → SpanOk s (secondEa o s) (8 * blockB cfg) false →
      ∃ t, PlaneQueued o s t ⟨.pdot, s.cur, s.slot.run, cfg, s.bank.sel o.row, BitVec.ofInt 15 (firstEa o s),
        BitVec.ofInt 15 (secondEa o s)⟩ ∧ Completes (.pdot o) s t) ∧
    (¬ OwnsMa s → Traps (.pdot o) s (plainTrap 0x1C 0))) ∧
  (∀ (o : EOp) (s : State), CounterZero o.w s → PlaneRoom s →
    let cfg : BitVec 9 := (o.imm.extractLsb' 5 5).setWidth 9
    let ea1 : Int := (s.bank.ptr (s.bank.sel o.pa)).addr.toNat + 8 * (o.imm.extractLsb' 0 5).toInt
    let c := fun k => (⟨k, s.cur, s.slot.run, cfg, 0, BitVec.ofInt 15 ea1, BitVec.ofInt 15 (secondEa o s)⟩ : PlaneCmd)
    ((Instr.ppack o).wf = true → SpanOk s ea1 (packElems cfg) false → SpanOk s (secondEa o s) (8 * packBits cfg) true →
      ∃ t, PlaneQueued o s t (c .ppack) ∧ Completes (.ppack o) s t) ∧
    ((Instr.punpk o).wf = true → SpanOk s ea1 (8 * packBits cfg) false → SpanOk s (secondEa o s) (packElems cfg) true →
      ∃ t, PlaneQueued o s t (c .punpk) ∧ Completes (.punpk o) s t))

/-- MACC (R279, R280, R304 to R307): `MACLM` takes a free MA and sets Z where another context owns it; `MAREL` gives it up, at once or after
the last `PDOT`; `MARD` reads a row into the enabled lanes once no addition is owed to it or to a lower one, and may clear it; `MAWM`
answers the watermark, MASAT and Z; `MACLR` clears the rows that its mask names. All but `MACLM` are the owner's alone. -/
def Sys2Proof.Claims.MatrixAccumulator : Prop :=
  ∀ (o : EOp) (s : State), CounterZero o.w s → s.bank.free useAll = true →
    ((Instr.maclm o).wf = true →
      (s.tile.owner = none → Completes (.maclm o) s { s.setBank { s.bank with f := { s.bank.f with z := false } } with
        tile := { (s.setBank { s.bank with f := { s.bank.f with z := false } }).tile with
          owner := some (BitVec.ofNat 3 s.cur), ownerRun := s.slot.run, rel := false } }) ∧
      (OwnsMa s → Completes (.maclm o) s (s.setBank { s.bank with f := { s.bank.f with z := false } })) ∧
      (s.tile.owner ≠ none → ¬ OwnsMa s → Completes (.maclm o) s
        (s.setBank { s.bank with f := { s.bank.f with z := true } }))) ∧
    (OwnsMa s →
      ((Instr.marel o).wf = true →
        (s.tile.pdotOwed = false → Completes (.marel o) s { s with tile := { s.tile with owner := none, rel := false } }) ∧
        (s.tile.pdotOwed = true → Completes (.marel o) s { s with tile := { s.tile with rel := true } })) ∧
      ((Instr.mard o).wf = true → (∀ q : BitVec 3, q ≤ s.bank.sel o.row → s.tile.rowPending q = false) →
        let r := s.bank.sel o.row
        ∃ t, Completes (.mard o) s t ∧
          t.bank = { s.bank with v := Vector.ofFn fun i : Fin 8 =>
            if s.bank.f.m.getLsbD i then (s.tile.ma[r.toNat]'r.isLt)[i] else s.bank.v[i] } ∧
          t.tile.ma = (if o.imm.getLsbD 0 then s.tile.ma.set r.toNat (Vector.replicate 8 0) r.isLt else s.tile.ma) ∧
          t.mem = s.mem ∧ t.tile.owner = s.tile.owner) ∧
      ((Instr.mawm o).wf = true → o.imm.toNat ≤ s.tile.mawm →
        Completes (.mawm o) s (s.setBank { s.bank with
          a := BitVec.ofNat 64 (s.tile.mawm + 256 * s.tile.masat.toNat),
          f := { s.bank.f with z := decide (s.tile.mawm = 8) } })) ∧
      ((Instr.maclr o).wf = true → (∀ r : BitVec 3, o.imm.getLsbD r.toNat = true → s.tile.rowPending r = false) →
        ∃ t, Completes (.maclr o) s t ∧
          (∀ r : Fin 8, t.tile.ma[r] = if o.imm.getLsbD r then Vector.replicate 8 0 else s.tile.ma[r]) ∧
          t.tile.masat = (s.tile.masat && !o.imm.getLsbD 8) ∧ t.slot = s.slot ∧ t.mem = s.mem)) ∧
    (¬ OwnsMa s → ∀ i ∈ [Instr.marel o, .mard o, .mawm o, .maclr o], i.wf = true → Traps i s (plainTrap 0x1C 0))

/-- The watermark (R280): the lowest row to which an addition is owed, or 8. -/
def Sys2Proof.Claims.Watermark : Prop :=
  ∀ (tl : Tile), tl.mawm ≤ 8 ∧ (∀ r : BitVec 3, r.toNat < tl.mawm → tl.rowPending r = false) ∧
    (tl.mawm < 8 → tl.rowPending (BitVec.ofNat 3 tl.mawm) = true)

/-- What `CPYQ` answers (R309): the queue's room, a running copy, NE up to 255, the records in the inbox. -/
def Sys2Proof.Claims.copyStatus (s : State) : Nat :=
  s.slot.inbox.length * 2 ^ 16 + min s.slot.ne.toNat 255 * 2 ^ 8 + (if s.tile.copyRun.isSome then 4 else 0)
    + (2 - s.tile.copyQ.length)

/-- `CPY` and `CPYQ` (R308, R309): a block whose fields pass the checks of R283 enters the tile's copy queue with the context's identity,
rights and the cycle of its issue (R281); NE rises; `CPYQ` answers the queue's room, a running copy, NE up to 255 and the records in the inbox. -/
def Sys2Proof.Claims.Copies : Prop :=
  ∀ (o : EOp) (s : State), CounterZero o.w s →
    (∀ bs : List Byte, (Instr.cpy o).wf = true → CellRead s (firstEa o s) 32 32 bs →
      copyChecks (firstEa o s).toNat (blockOf bs) s = .ok () → Unfenced false true s → s.tile.copyQ.length < 2 → InboxRoom s →
      s.slot.ne ≠ 0xFFFF →
      ∃ t c, Completes (.cpy o) s t ∧ EngineIssued o s t ∧ t.tile.copyQ = s.tile.copyQ ++ [c] ∧ c.slot = s.cur.val ∧
        c.run = s.slot.run ∧ c.sup = s.slot.priv ∧ c.tenant = s.tile.tenant ∧ c.dom = s.slot.dom ∧ c.dw = blockOf bs ∧
        c.block.toNat = (firstEa o s).toNat ∧ c.pos = 0 ∧ c.order = (s.getBay (bayOf s.tid)).cyc.toNat) ∧
    ((Instr.cpyq o).wf = true → s.bank.free useA = true →
      Completes (.cpyq o) s (s.setBank { s.bank with a := BitVec.ofNat 64 (copyStatus s) }))

/-- The checks of R283 on a copy between two ranges of the context's own scratchpad: with reserved fields zero, rows and length not zero,
everything a multiple of 8, and both ranges in scratchpad, the block passes; a block of zero rows or length raises `PROT` at the block's
address, and one that leaves scratchpad raises `SP_RANGE` with the lowest byte of its range, the source first. -/
def Sys2Proof.Claims.CopyBlocks : Prop :=
  ∀ (ea : Nat) (d : Vector DWord 4) (s : State), d[2].extractLsb' 40 4 = 0 →
    (copyRows d = 0 ∨ copyLen d = 0 → copyChecks ea d s = .error (.trap (plainTrap 0x10 ea))) ∧
    (copyRows d ≠ 0 → copyLen d ≠ 0 → copyLocal true d = true → copyLocal false d = true →
      d[0].toNat < 2 ^ 15 → d[1].toNat < 2 ^ 15 → d[2].toNat / 2 ^ 48 = 0 →
      copyLen d % 8 = 0 → copyStride true d % 8 = 0 → copyStride false d % 8 = 0 → d[0].toNat % 8 = 0 → d[1].toNat % 8 = 0 →
      let lo := fun (x : DWord) (st : Int) => min (x.toNat : Int) (x.toNat + (copyRows d - 1) * st)
      let hi := fun (x : DWord) (st : Int) => max (x.toNat : Int) (x.toNat + (copyRows d - 1) * st) + copyLen d
      let inside := fun (x : DWord) (st : Int) => 0 ≤ lo x st ∧ hi x st ≤ 32768
      (inside d[0] (copyStride true d) → inside d[1] (copyStride false d) → copyChecks ea d s = .ok ()) ∧
      (¬ inside d[0] (copyStride true d) →
        copyChecks ea d s = .error (.trap (plainTrap 0x04 (lo d[0] (copyStride true d))))) ∧
      (inside d[0] (copyStride true d) → ¬ inside d[1] (copyStride false d) →
        copyChecks ea d s = .error (.trap (plainTrap 0x04 (lo d[1] (copyStride false d))))))

/-- The checks on a VA range that an engine reads or writes (R212, R214, R283): a range of bulk memory, or of host memory with VA[67:64]
zero, passes for the supervisor, and for a user where the lowest PLB entry of its domain that holds all of it has the right; without such
an entry it raises `PROT` with the range's lowest address; one that leaves the address space raises `PROT` at the block. -/
def Sys2Proof.Claims.RangeChecks : Prop :=
  ∀ (lo hi : Nat) (blk : DWord) (need : Rights) (s : State), lo < hi →
    let bulk := hi ≤ 12 * 2 ^ 68
    let host := 15 * 2 ^ 68 ≤ lo ∧ hi ≤ 15 * 2 ^ 68 + 2 ^ 64
    let entry := s.tile.plb.toList.find? (fun e => e.matchesRange s.slot.dom lo (hi - lo))
    let t := (⟨0x10, BitVec.ofNat 64 lo, ⟨false, false, 0, BitVec.ofNat 8 (lo / 2 ^ 64)⟩⟩ : Trap)
    (bulk ∨ host →
      rangeCheck lo hi blk s = .ok () ∧
      (s.slot.priv = true → rangePlb lo hi need s = .ok ()) ∧
      (∀ e, s.slot.priv = false → entry = some e → (need.r = true → e.r = true) → (need.w = true → e.w = true) →
        (need.a = true → e.a = true) → rangePlb lo hi need s = .ok ()) ∧
      (s.slot.priv = false → entry = none → rangePlb lo hi need s = .error (.trap t))) ∧
    (2 ^ 72 < hi → rangeCheck lo hi blk s = .error (.trap ⟨0x10, blk, ⟨false, false, 0, 0⟩⟩))

/-- `INBOX` (R311): the oldest record goes to the 16 bytes at the address and its first word to A, C is 1 and Z tells STATUS 0, the record
leaves the inbox, and the pointer advances; with the inbox empty and nothing owed A is 0, C 0 and Z 1; with a record owed it waits. -/
def Sys2Proof.Claims.InboxRecords : Prop :=
  ∀ (o : EOp) (s : State), (Instr.inbox o).wf = true → s.bank.free useAF = true → CounterZero o.w s → Tidy s →
    InReach (firstEa o s) 16 16 → Unfenced true false s →
    (∀ r rest, s.slot.inbox = r :: rest → CellWrite s (firstEa o s) 16 (lowBytes 8 r.w0 ++ lowBytes 8 r.w1) →
      ∃ t u, StoredAt s t (firstEa o s) (lowBytes 8 r.w0 ++ lowBytes 8 r.w1) ∧ OnlyStored s t (firstEa o s) ∧
        Completes (.inbox o) s u ∧ u.mem = t.mem ∧ u.tile.tags = t.tile.tags ∧ u.slot.inbox = rest ∧
        u.bank.a = r.w0 ∧ u.bank.f = { s.bank.f with c := true, z := decide (r.w0.extractLsb' 48 8 = 0) } ∧
        u.bank.v = s.bank.v ∧ u.slot.ne = s.slot.ne ∧
        (∀ q, u.bank.ptr q = if o.i = true ∧ q = s.bank.sel o.pa
          then ⟨(s.bank.ptr q).stride, (s.bank.ptr q).addr + (s.bank.ptr q).stride.setWidth 15⟩ else s.bank.ptr q)) ∧
    (s.slot.inbox = [] → s.tile.engineNe s.cur = 0 →
      ∃ u, Completes (.inbox o) s u ∧ u.mem = s.mem ∧ u.bank.a = 0 ∧ u.bank.f = { s.bank.f with c := false, z := true } ∧
        u.slot.ne = s.slot.ne) ∧
    (s.slot.inbox = [] → s.tile.engineNe s.cur ≠ 0 →
      exec (.inbox o) s = .next (s.setSlot { s.slot with wait := some .inbox }))

/-- `GRNW` and `GRN` (R312, R313): a block whose reserved fields are zero, whose slab or vectors are in range, aligned and permitted, goes
to the granary with the context's identity; NE rises and the pointer advances. -/
def Sys2Proof.Claims.GranaryCommands : Prop :=
  ∀ (o : EOp) (s : State) (bs : List Byte), CounterZero o.w s → CellRead s (firstEa o s) 32 32 bs → Unfenced false true s →
    InboxRoom s → s.slot.ne ≠ 0xFFFF →
    let d0 := (dwordOf (bs.take 8)).toNat
    let d1 := (dwordOf ((bs.drop 8).take 8)).toNat
    let zeros := (bs.drop 16).all (· == 0)
    let sent := fun (i : Instr) (load : Bool) => ∃ t g, Completes i s t ∧ EngineIssued o s t ∧ t.gran = s.gran ++ [g] ∧ g.load = load ∧
      g.tile = s.tid ∧ g.slot = s.cur.val ∧ g.run = s.slot.run ∧ g.tenant = s.tile.tenant ∧ g.dom = s.slot.dom ∧
      g.dw[0].toNat = d0 ∧ g.dw[1].toNat = d1 ∧ g.block.toNat = (firstEa o s).toNat
    bs.length = 32 → zeros = true →
    ((Instr.grnw o).wf = true →
      let rows := d1 / 2 ^ 16 % 512 + 1
      let wide := decide (d1 / 2 ^ 32 % 2 = 1)
      d1 / 2 ^ 33 % 2 ^ 23 = 0 → d1 / 2 ^ 25 % 2 ^ 7 = 0 → d1 / 2 ^ 12 % 16 = 0 → (wide = true → rows ≤ 256) →
      SlabOk s (firstEa o s).toNat (d0 + d1 / 2 ^ 56 * 2 ^ 64) (rows * (if wide then 1056 else 544)) →
      sent (.grnw o) true) ∧
    ((Instr.grn o).wf = true →
      let wide := decide (d0 / 2 ^ 61 % 2 = 1)
      let out := if d0 / 2 ^ 60 % 2 = 1 then 128 else 4
      let first := d0 / 2 ^ 32 % 512
      let last := d0 / 2 ^ 48 % 512
      let dst := d0 / 2 ^ 16 % 2 ^ 15
      let act := d0 % 2 ^ 15
      d0 / 2 ^ 62 = 0 → d0 / 2 ^ 57 % 8 = 0 → d0 / 2 ^ 41 % 2 ^ 7 = 0 → d0 / 2 ^ 31 % 2 = 0 → d0 / 2 ^ 15 % 2 = 0 →
      d1 / 2 ^ 12 = 0 → first ≤ last → (wide = true → last ≤ 255) → act + (if wide then 1056 else 544) ≤ 32768 →
      dst + out * (last + 1 - first) ≤ 32768 → act % 32 = 0 → dst % 32 = 0 → sent (.grn o) false)

/-- `COLL` and `COLLW` (R296, R314, R315) in a thread: a contribution joins the wave of its level, which the thread then holds; at a
lane-bound level the result is the contribution at once. `COLLW` takes a result into A with Z 0, waits while it is outstanding, and answers
Z = 1 where the thread holds no wave; a second `COLL` raises `LEVEL_MISMATCH` with %TADDR 17. -/
def Sys2Proof.Claims.Collectives : Prop :=
  ∀ (o : COp) (s : State), s.slot.isHandler = false → s.bank.free useAF = true →
    ((Instr.coll o).wf = true → LevelOk s o.lvl 6 → (s.tile.extent o.lvl < 3 ∨ ∃ l, s.tile.launch = some l ∧ o.lvl ∈ l.combs) →
      let op := o.imm.extractLsb' 0 2
      (s.slot.wave = none → bindAt s.tile.levels o.lvl.toNat = 0 →
        Completes (.coll o) s (s.setSlot { s.slot with wave := some ⟨o.lvl, op, s.bank.a, 0, some s.bank.a⟩ })) ∧
      (s.slot.wave = none → bindAt s.tile.levels o.lvl.toNat ≠ 0 →
        ∃ t num, Completes (.coll o) s t ∧ num = s.slot.waves[o.lvl.toNat]'o.lvl.isLt + 1 ∧
          t.slot.wave = some ⟨o.lvl, op, s.bank.a, num, none⟩ ∧ t.bank = s.bank ∧ t.mem = s.mem ∧
          ∃ w ∈ t.waves, w.lid = s.tile.lid ∧ w.level = o.lvl ∧ w.num = num ∧
            (s.tile.launchIndex s.cur, op, s.bank.a) ∈ w.contribs) ∧
      (s.slot.wave ≠ none → Traps (.coll o) s (plainTrap 0x18 17))) ∧
    ((Instr.collw o).wf = true →
      (s.slot.wave = none → Completes (.collw o) s (s.setBank { s.bank with f := { s.bank.f with z := true } })) ∧
      (∀ w, s.slot.wave = some w → w.result = none →
        exec (.collw o) s = .next (s.setSlot { s.slot with wait := some .wave })) ∧
      (∀ w r, s.slot.wave = some w → w.result = some r →
        Completes (.collw o) s ((s.setSlot { s.slot with wave := none }).setBank
          { s.bank with a := r, f := { s.bank.f with z := false } })))

/-- The plane array and its accumulator.
The clauses are `Sys2Proof.Claims.PlaneConfig`, `Sys2Proof.Claims.PlaneCommands`,
`Sys2Proof.Claims.MatrixAccumulator`, `Sys2Proof.Claims.Watermark`. -/
def Obligations.PlaneArray : Prop :=
  Sys2Proof.Claims.PlaneConfig ∧
  Sys2Proof.Claims.PlaneCommands ∧
  Sys2Proof.Claims.MatrixAccumulator ∧
  Sys2Proof.Claims.Watermark

/-- Copy and granary commands.
The clauses are `Sys2Proof.Claims.Copies`, `Sys2Proof.Claims.CopyBlocks`, `Sys2Proof.Claims.RangeChecks`,
`Sys2Proof.Claims.GranaryCommands`. -/
def Obligations.EngineCommands : Prop :=
  Sys2Proof.Claims.Copies ∧
  Sys2Proof.Claims.CopyBlocks ∧
  Sys2Proof.Claims.RangeChecks ∧
  Sys2Proof.Claims.GranaryCommands

/-- Inbox records and collectives.
The clauses are `Sys2Proof.Claims.InboxRecords`, `Sys2Proof.Claims.Collectives`. -/
def Obligations.EngineResults : Prop :=
  Sys2Proof.Claims.InboxRecords ∧
  Sys2Proof.Claims.Collectives

/-! ## The system instructions -/

namespace Sys2Proof.Claims

def bit (b : Bool) : Nat := if b then 1 else 0

/-- What a special register reads as in the issuing context (Table 22.2 and the tables that it names). -/
def regValue (r : Nat) (s : State) : DWord :=
  let sl := s.slot
  let bay := s.getBay (bayOf s.tid)
  let stook := s.tid % 64 / 4
  match r with
  | 0x00 => BitVec.ofNat 64 s.cur
  | 0x01 => BitVec.ofNat 64 (dieOf s.tid * 2 ^ 16 + tileX s.tid * 2 ^ 8 + tileY s.tid)
  | 0x02 => BitVec.ofNat 64 s.tile.lid.toNat
  | 0x03 => BitVec.ofNat 64 sl.dom.toNat
  | 0x04 => BitVec.ofNat 64 sl.gen.toNat
  | 0x05 => bay.cyc
  | 0x06 => BitVec.ofNat 64 sl.nb.toNat
  | 0x07 => BitVec.ofNat 64 sl.nm.toNat
  | 0x08 => BitVec.ofNat 64 sl.ne.toNat
  | 0x09 => bay.imb.toList.getD stook 0
  | 0x0A => bay.fill.toList.getD stook 0
  | 0x0B => BitVec.ofNat 64 (s.tile.px.level.toNat + s.tile.ps.level.toNat * 2 ^ 8 + s.tile.pv.level.toNat * 2 ^ 16
      + s.tile.pm.level.toNat * 2 ^ 24)
  | 0x0C => BitVec.ofNat 64 (bit sl.hnd * 2 ^ 8 + sl.tcause.toNat)
  | 0x0D => sl.taddr
  | 0x0E => BitVec.ofNat 64 (bit sl.taddrx.spchk * 2 ^ 63 + bit sl.taddrx.defer * 2 ^ 62 + sl.taddrx.apc.toNat * 2 ^ 48
      + sl.taddrx.vax.toNat)
  | 0x0F => BitVec.ofNat 64 sl.tpc.toNat
  | 0x10 => BitVec.ofNat 64 (sl.tmsg.q.toNat * 2 ^ 20 + bit sl.tmsg.hold * 2 ^ 16 + sl.tmsg.mid.toNat)
  | 0x11 => BitVec.ofNat 64 sl.tvec.toNat
  | 0x12 => BitVec.ofNat 64 sl.wdogb.toNat
  | 0x13 => BitVec.ofNat 64 (bit sl.gpol)
  | r =>
    if r < 0x18 then
      let q := sl.rq.toList.getD (r - 0x14) RQueue.reset
      BitVec.ofNat 64 (q.logsz.toNat * 2 ^ 16 + q.head.toNat)
    else if r < 0x1C then
      let q := sl.rq.toList.getD (r - 0x18) RQueue.reset
      BitVec.ofNat 64 (bit q.ovf * 2 ^ 16 + q.tail.toNat)
    else if r < 0x30 then BitVec.ofNat 64 (sl.tc.toList.getD (r - 0x20) 0).toNat
    else if r < 0x40 then BitVec.ofNat 64 (fanAt s.tile.levels (r - 0x30))
    else BitVec.ofNat 64 (bindAt s.tile.levels (r - 0x40))

/-- A number that Table 22.2 assigns. -/
def assigned (r : Nat) : Prop := r < 0x1C ∨ (0x20 ≤ r ∧ r < 0x50)

/-- A register that a privilege may write (Table 22.2). -/
def writable (sup : Bool) (r : Nat) : Prop := (0x14 ≤ r ∧ r < 0x18) ∨ (sup = true ∧ 0x0C ≤ r ∧ r < 0x14)

/-- The slot after a write of the trap registers, %TVEC, %WDOGB or %GPOL: each field by its own rule. %TVEC keeps its value
where the new one lies outside segment 3; a budget of 0 sets 65,536. -/
def regWritten (r : Nat) (v : DWord) (sl : Slot) : Slot :=
  match r with
  | 0x0C => { sl with hnd := v.getLsbD 8, tcause := v.setWidth 8 }
  | 0x0D => { sl with taddr := v }
  | 0x0E => { sl with taddrx := ⟨v.getLsbD 63, v.getLsbD 62, (v >>> 48).setWidth 14, v.setWidth 8⟩ }
  | 0x0F => { sl with tpc := v.setWidth 14 }
  | 0x11 => if v.toNat % 2 ^ 14 / 4096 = 3 then { sl with tvec := v.setWidth 14 } else sl
  | 0x12 => { sl with wdogb := if v.toNat % 2 ^ 20 = 0 then 65536 else v.setWidth 20 }
  | _ => { sl with gpol := v.getLsbD 0 }

/-- The word about to complete is the last of a segment, and no frame returns from it (R24, R99, R361). -/
def AtEnd (s : State) : Prop :=
  (s.bank.rpt.count = 0 ∧ s.bank.pc.toNat % 4096 = 4095) ∨
  (s.bank.rpt.count = 1 ∧ s.bank.rpt.idx = s.bank.rpt.len ∧
    (s.bank.rpt.body + s.bank.rpt.len.setWidth 14).toNat % 4096 = 4095)

/-- A record of KIND 14 or 15 (R326, R366): a code in VA[7:0], a PC in VA[29:16], the tile's die. -/
def StopRecord (s : State) (kind : Nat) (code pc : Nat) (r : FaultRec) : Prop :=
  r.kind.toNat = kind ∧ r.va.toNat = pc * 65536 + code ∧ r.vax = 0 ∧ r.die.toNat = dieOf s.tid % 16 ∧
  r.tenant = BitVec.ofNat 9 s.tile.tenant

/-- A 16-byte image of a PLB entry (Table 11.2). -/
def plbImage (bs : List Byte) : Plb :=
  let lo := leNat (bs.take 8)
  let hi := leNat (bs.drop 8)
  { base := BitVec.ofNat 56 hi, valid := decide (lo / 2 ^ 63 % 2 = 1), r := decide (lo / 2 ^ 59 % 2 = 1),
    w := decide (lo / 2 ^ 58 % 2 = 1), a := decide (lo / 2 ^ 57 % 2 = 1), logsz := BitVec.ofNat 7 (lo / 2 ^ 50),
    dom := BitVec.ofNat 16 lo }

/-- A valid entry whose BASE is not a multiple of its size (R370). -/
def Misplaced (e : Plb) : Prop :=
  e.valid = true ∧ 16 ≤ e.logsz.toNat ∧ e.logsz.toNat ≤ 72 ∧ e.base.toNat % 2 ^ (e.logsz.toNat - 16) ≠ 0

/-- The entries that a `PLBI` names (R371). -/
def plbNamed (arg : BitVec 20) (a : DWord) (k : Nat) (e : Plb) : Bool :=
  match arg.toNat / 16 % 4 with
  | 0 => decide (k = arg.toNat % 16)
  | 1 => true
  | _ => decide (e.dom.toNat = a.toNat % 2 ^ 16)

/-- A launch record of eight doublewords from its 64 bytes. -/
def recordWords (bs : List Byte) : Vector DWord 8 := Vector.ofFn fun i => dwordOf ((bs.drop (8 * i.val)).take 8)

end Sys2Proof.Claims

/-- `GETS` (R363, Table 22.2): A takes the register's value; a register closed to the privilege raises `PRIV` with its number; a
number that the table leaves unassigned raises `ILLEGAL`. -/
def Sys2Proof.Claims.GetsRegister : Prop :=
  ∀ (arg : BitVec 20) (s : State), (Instr.gets arg).wf = true → s.bank.free useA = true →
    (assigned arg.toNat → ¬ (arg.toNat = 0x11 ∧ s.slot.priv = false) →
      Completes (.gets arg) s (s.setBank { s.bank with a := regValue arg.toNat s })) ∧
    (arg.toNat = 0x11 → s.slot.priv = false → Traps (.gets arg) s (plainTrap 0x02 0x11)) ∧
    (¬ assigned arg.toNat → Traps (.gets arg) s (plainTrap 0x01 s.bank.pc.toNat))

/-- `SETS` (R363, Tables 8.6, 19.1 to 19.4, 22.2): A goes into a register that the privilege may write, by the rules of its
fields; a write of a read-only register is ignored; a closed one raises `PRIV`, an unassigned number `ILLEGAL`. A write of %RQH
moves HEAD within the ring in force up to TAIL, is ignored at another position of it or out of alignment, and else makes the
queue that it describes, empty. A write of DROP or RETRY alone to %TMSG releases the held queue, past its message or at it. -/
def Sys2Proof.Claims.SetsRegister : Prop :=
  ∀ (arg : BitVec 20) (s : State), (Instr.sets arg).wf = true → s.bank.free useA = true →
    let r := arg.toNat
    let v := s.bank.a
    (writable s.slot.priv r → 0x0C ≤ r → r < 0x14 → r ≠ 0x10 → Completes (.sets arg) s (s.setSlot (regWritten r v s.slot))) ∧
    (s.slot.priv = true → r = 0x10 →
      (v.getLsbD 17 = v.getLsbD 18 ∨ s.slot.tmsg.hold = false → Completes (.sets arg) s s) ∧
      (v.getLsbD 17 ≠ v.getLsbD 18 → s.slot.tmsg.hold = true →
        let q := s.slot.tmsg.q
        ∃ t, Completes (.sets arg) s t ∧ t.slot.tmsg = { s.slot.tmsg with hold := false } ∧
          (∀ k : Fin 4, t.tile.hold[k] = (if k.val = q.toNat then false else s.tile.hold[k])) ∧
          t.tile.handlerQueue q = (if v.getLsbD 18 then (s.tile.handlerQueue q).pop else s.tile.handlerQueue q) ∧
          t.mem = s.mem ∧ t.bank = s.bank)) ∧
    (0x14 ≤ r → r < 0x18 →
      let i := BitVec.ofNat 2 (r - 0x14)
      let q := s.slot.queue i
      let head := v.toNat % 2 ^ 15
      let log := BitVec.setWidth 4 (v >>> 16)
      let q' : RQueue := { q with logsz := log, head := BitVec.ofNat 15 head, tail := BitVec.ofNat 15 head, age := [] }
      let inForce := q'.size = q.size ∧ 0 < q.size ∧ q.base ≤ head ∧ head < q.base + q.span
      let held := fun x : RQueue => Completes (.sets arg) s (s.setSlot (s.slot.setQueue i x))
      (head % 128 ≠ 0 → held q) ∧
      (head % 128 = 0 → inForce → q.dist (BitVec.ofNat 15 head) ≤ q.count →
        held { q with head := BitVec.ofNat 15 head, age := q.age.drop (q.dist (BitVec.ofNat 15 head)) }.rearmed) ∧
      (head % 128 = 0 → inForce → q.count < q.dist (BitVec.ofNat 15 head) → held q) ∧
      (head % 128 = 0 → ¬ inForce → held q'.rearmed)) ∧
    (assigned r → ¬ writable s.slot.priv r → ¬ (r = 0x11 ∧ s.slot.priv = false) → Completes (.sets arg) s s) ∧
    (r = 0x11 → s.slot.priv = false → Traps (.sets arg) s (plainTrap 0x02 0x11)) ∧
    (¬ assigned r → Traps (.sets arg) s (plainTrap 0x01 s.bank.pc.toNat))

/-- `TRAP` and `SYSC` (R361): each completes, as a body instruction in a frame, and then raises cause 0x21 or 0x20 with %TADDR its
argument and %TPC the PC that completion leaves; at the end of a segment it raises `CODE_SEGMENT` in its place. -/
def Sys2Proof.Claims.RuntimeCalls : Prop :=
  ∀ (n : BitVec 20) (s : State), ∀ ci ∈ [((0x21 : BitVec 8), Instr.trap n), (0x20, .sysc n)],
    (¬ AtEnd s → exec ci.2 s = .next (takeTrap (plainTrap ci.1 n.toNat) (advance false s).bank.pc (advance false s))) ∧
    (s.bank.rpt.count = 0 → s.bank.pc.toNat % 4096 = 4095 →
      exec ci.2 s = .next (takeTrap (plainTrap 0x08 (s.bank.pc.toNat + 1)) s.bank.pc s))

/-- `ERET` (R329, R362): from a thread's trap the context runs on in user privilege at %TPC, its repeat state cleared where %TPC is
not the body position that the frame stands at, and nothing else of the user bank changes; from a handler's abort the slot becomes
free and nothing resumes. It waits for the context's own window accesses, and in user privilege raises `PRIV`. -/
def Sys2Proof.Claims.RuntimeReturn : Prop :=
  ∀ s : State,
    (s.slot.priv = true → windowOwed s = false → s.slot.hnd = false →
      let u := s.slot.user
      let at_ := u.rpt.count ≠ 0 ∧ s.slot.tpc ≠ u.rpt.body + u.rpt.idx.setWidth 14
      let u' : Bank := { u with pc := s.slot.tpc, rpt := if at_ then ⟨0, 0, 0, 0, 0, 0⟩ else u.rpt }
      exec (.eret 0) s = .next (s.setSlot { s.slot with priv := false, st := .user, user := u' })) ∧
    (s.slot.priv = true → windowOwed s = false → s.slot.hnd = true →
      ∃ t, exec (.eret 0) s = .next t ∧ t.slot.st = .empty ∧ t.slot.priv = false ∧ t.slot.running = false ∧
        t.slot.sup = s.slot.sup ∧ t.slot.rq = s.slot.rq ∧ t.tile.hold = s.tile.hold ∧ t.mem = s.mem ∧
        (∀ k : Fin 8, k ≠ s.cur → t.tile.slots[k] = s.tile.slots[k])) ∧
    (s.slot.priv = true → windowOwed s = true → exec (.eret 0) s = .next (s.setSlot { s.slot with wait := some .fence })) ∧
    (s.slot.priv = false → Traps (.eret 0) s (plainTrap 0x02 0))

/-- `EXIT` (R29, R365): with its counters zero and no reply outstanding the context ends: its inbox and its unread channel words
are discarded, its queues disabled, its thread marked ended, its ownership of MA given up at once or after its last `PDOT`, and the
slot is EMPTY; the supervisor bank and memory stand. A handler raises `LEVEL_MISMATCH`. -/
def Sys2Proof.Claims.Exiting : Prop :=
  ∀ s : State, Tabled s →
    (s.slot.st ≠ .handler → s.slot.nb = 0 → s.slot.nm = 0 → s.slot.ne = 0 → s.slot.quiet = true →
      ∃ t, exec (.exit 0) s = .next t ∧ t.slot.st = .empty ∧ t.slot.priv = false ∧ t.slot.user = Bank.reset ∧
        t.slot.sup = s.slot.sup ∧ t.slot.inbox = [] ∧ (∀ q : Fin 4, t.slot.rq[q].logsz = 0) ∧
        (∀ n e, (s.slot.chan n).r = some e → t.chanBuf s.tid e = []) ∧ t.mem = s.mem ∧
        (OwnsMa s → (t.tile.owner = none ∨ (s.tile.pdotOwed = true ∧ t.tile.rel = true))) ∧
        (s.tile.launch.isSome = true → ∀ l ∈ t.launches, l.lid = s.tile.lid → ∀ th ∈ l.threads,
          th.tile = s.tid → th.slot = s.cur.val → th.ended = true) ∧
        (∀ k : Fin 8, k ≠ s.cur → t.tile.slots[k] = s.tile.slots[k])) ∧
    (s.slot.st ≠ .handler → (s.slot.nb ≠ 0 ∨ s.slot.nm ≠ 0 ∨ s.slot.ne ≠ 0) →
      exec (.exit 0) s = .next (s.setSlot { s.slot with wait := some .quiet })) ∧
    (s.slot.st = .handler → Traps (.exit 0) s (plainTrap 0x18 16))

/-- `HALT` (R366): the slot issues nothing more, and a record of KIND 14 with the code and the PC enters the fault buffer, or is
held while the buffer is full; in user privilege it raises `PRIV`. -/
def Sys2Proof.Claims.Halting : Prop :=
  ∀ (arg : BitVec 20) (s : State), (Instr.halt arg).wf = true →
    (s.slot.priv = true → ∃ t r, exec (.halt arg) s = .next t ∧ t.slot = { s.slot with halted := true } ∧ t.mem = s.mem ∧
      StopRecord s 14 (arg.toNat % 256) s.bank.pc.toNat r ∧
      (if s.faults.length < 4096 then t.faults = s.faults ++ [r] ∧ t.heldFaults = s.heldFaults
       else t.faults = s.faults ∧ t.heldFaults = s.heldFaults ++ [r])) ∧
    (s.slot.priv = false → Traps (.halt arg) s (plainTrap 0x02 0))

/-- `LAUNCH` (R367): the 64-byte record at `A`[14:0] is read at issue and goes to the hub with its queue and the context's identity, and
NE rises; a queue that is not bound to the tenant raises `PERMISSION` with its number; an address not aligned to 64 `ALIGN`. -/
def Sys2Proof.Claims.Launching : Prop :=
  ∀ (arg : BitVec 20) (s : State) (x y : List Byte), (Instr.launch arg).wf = true → s.bank.free useA = true →
    Unfenced false true s →
    let a : Nat := s.bank.a.toNat % 2 ^ 15
    (a % 64 ≠ 0 → a + 64 ≤ 32768 → Traps (.launch arg) s (plainTrap 0x03 a)) ∧
    (32768 < a + 64 → Traps (.launch arg) s (plainTrap 0x04 a)) ∧
    (a % 64 = 0 → planeGate false a 64 s = .ok () →
      s.spRead s.tid s.slot.gen s.slot.gpol a 32 = .ok x → s.spRead s.tid s.slot.gen s.slot.gpol (a + 32) 32 = .ok y →
      ((SMap.get (512, 0) s.queues arg.toNat).1 ≠ s.tile.tenant → Traps (.launch arg) s (plainTrap 0x15 arg.toNat)) ∧
      ((SMap.get (512, 0) s.queues arg.toNat).1 = s.tile.tenant → InboxRoom s → s.slot.ne ≠ 0xFFFF →
        ∃ t sub, Completes (.launch arg) s t ∧ t.subs = s.subs ++ [sub] ∧ sub.dw = recordWords (x ++ y) ∧
          sub.q = arg.toNat ∧ sub.tile = s.tid ∧ sub.slot = s.cur.val ∧ sub.run = s.slot.run ∧ sub.block.toNat = a ∧
          sub.answer = none ∧ t.slot.ne = s.slot.ne + 1 ∧ t.bank = s.bank ∧ t.mem = s.mem))

/-- `WDOG` (R368). -/
def Obligations.Watchdogs : Prop :=
  ∀ (n : BitVec 20) (s : State), s.bank.free useA = true →
    (s.slot.priv = true → Completes (.wdog n) s ((s.setSlot { s.slot with wdogb := if n = 0 then 65536 else n }).setBank
      { s.bank with a := BitVec.ofNat 64 s.slot.wdogb.toNat })) ∧
    (s.slot.priv = false → s.slot.st = .handler →
      ∃ t, Completes (.wdog n) s t ∧ t.bank = { s.bank with a := BitVec.ofNat 64 s.slot.hleft.toNat } ∧
        t.slot.hleft.toNat = (if n = 0 then s.slot.hleft.toNat else min s.slot.hleft.toNat n.toNat) ∧ t.mem = s.mem) ∧
    (s.slot.priv = false → s.slot.st ≠ .handler →
      (n = 0 → Completes (.wdog n) s (s.setBank { s.bank with a := BitVec.ofNat 64 s.slot.wdogb.toNat })) ∧
      (n ≠ 0 → Traps (.wdog n) s (plainTrap 0x02 0)))

/-- `METR` (R369): the request goes to the hub with the counter's number and the tenant, and A is pending; another tenant's is for the
supervisor alone. -/
def Sys2Proof.Claims.MeterReads : Prop :=
  ∀ (arg : BitVec 20) (s : State), (Instr.metr arg).wf = true → s.bank.free useA = true →
    let other := decide (arg.toNat / 2 ^ 13 % 2 = 1)
    (other = false ∨ s.slot.priv = true →
      ∃ t r, Completes (.metr arg) s t ∧ t.metr = s.metr ++ [r] ∧ t.bank = { s.bank with aPend := true } ∧ t.mem = s.mem ∧
        r.tile = s.tid ∧ r.slot = s.cur.val ∧ r.run = s.slot.run ∧ r.sup = s.slot.priv ∧ r.idx = arg.toNat % 16 ∧
        r.tenant = (if other then arg.toNat / 16 % 512 else s.tile.tenant) ∧ r.value = none) ∧
    (other = true → s.slot.priv = false → Traps (.metr arg) s (plainTrap 0x02 0))

/-- `PLBW` (R370): the supervisor writes an entry from its 16-byte image; an image whose BASE is not a multiple of its size raises
`PROT` with `A`[14:0], and no entry changes. -/
def Sys2Proof.Claims.PlbWrites : Prop :=
  ∀ (arg : BitVec 20) (s : State) (bs : List Byte), (Instr.plbw arg).wf = true → s.bank.free useA = true →
    let a : Nat := s.bank.a.toNat % 2 ^ 15
    (s.slot.priv = true → LocalRead s a 16 16 bs →
      (¬ Misplaced (plbImage bs) → ∃ t, Completes (.plbw arg) s t ∧
        (∀ k : Fin 16, t.tile.plb[k] = if k.val = arg.toNat then plbImage bs else s.tile.plb[k]) ∧
        t = { s with tile := { s.tile with plb := t.tile.plb } }) ∧
      (Misplaced (plbImage bs) → Traps (.plbw arg) s (plainTrap 0x10 a))) ∧
    (s.slot.priv = false → Traps (.plbw arg) s (plainTrap 0x02 0))

/-- `PLBI` (R371): VALID of the named entry, of all, or of those of the domain in A becomes 0; nothing else changes. -/
def Sys2Proof.Claims.PlbInvalidations : Prop :=
  ∀ (arg : BitVec 20) (s : State), (Instr.plbi arg).wf = true → s.bank.free useA = true →
    (s.slot.priv = true → ∃ t, Completes (.plbi arg) s t ∧
      (∀ k : Fin 16, t.tile.plb[k] =
        if plbNamed arg s.bank.a k.val s.tile.plb[k] then { s.tile.plb[k] with valid := false } else s.tile.plb[k]) ∧
      t = { s with tile := { s.tile with plb := t.tile.plb } }) ∧
    (s.slot.priv = false → Traps (.plbi arg) s (plainTrap 0x02 0))

/-- Special registers.
The clauses are `Sys2Proof.Claims.GetsRegister`, `Sys2Proof.Claims.SetsRegister`. -/
def Obligations.SpecialRegisters : Prop :=
  Sys2Proof.Claims.GetsRegister ∧
  Sys2Proof.Claims.SetsRegister

/-- System calls and the return from a trap.
The clauses are `Sys2Proof.Claims.RuntimeCalls`, `Sys2Proof.Claims.RuntimeReturn`. -/
def Obligations.RuntimeEntry : Prop :=
  Sys2Proof.Claims.RuntimeCalls ∧
  Sys2Proof.Claims.RuntimeReturn

/-- The other system instructions.
The clauses are `Sys2Proof.Claims.Exiting`, `Sys2Proof.Claims.Halting`, `Sys2Proof.Claims.Launching`,
`Sys2Proof.Claims.MeterReads`, `Sys2Proof.Claims.PlbWrites`, `Sys2Proof.Claims.PlbInvalidations`. -/
def Obligations.SystemInstructions : Prop :=
  Sys2Proof.Claims.Exiting ∧
  Sys2Proof.Claims.Halting ∧
  Sys2Proof.Claims.Launching ∧
  Sys2Proof.Claims.MeterReads ∧
  Sys2Proof.Claims.PlbWrites ∧
  Sys2Proof.Claims.PlbInvalidations

/-! ## Events: what happens to contexts -/

namespace Sys2Proof.Claims

/-- The tile and the slot exist (R1, R12). -/
def Unit_ (t k : Nat) : Prop := t < tileCount ∧ k < 8

/-- The context in slot `k` of tile `t` takes a trap at its boundary, `f` having struck the event off its slot; the focus stays. -/
def entersAt (t k : Nat) (tr : Trap) (f : State → State) (s : State) : State :=
  inCtx t k (fun x => takeTrap tr (f x).bank.pc (f x)) s

/-- %TADDR of `RQ_OVERFLOW` (Table 19.6). -/
def overflowWord (q : Nat) (rq : RQueue) : Nat :=
  q % 4 + rq.mid.toNat * 2 ^ 16 + bit rq.lost * 2 ^ 32 + bit rq.ahead * 2 ^ 33

/-- Of some threads' slots, those of the threads that `p` picks change by `f`. -/
def slotsOf (ths : List Thread) (p : Thread → Bool) (f : Slot → Slot) (s : State) : State :=
  ths.foldl (fun s th => if p th then s.modSlotAt th.tile th.slot f else s) s

/-- The open join of a slot at a level is completed (R191). -/
def joinDone (level : BitVec 4) (sl : Slot) : Slot :=
  { sl with join := sl.join.map fun j => if j.level = level then { j with completed := true } else j }

end Sys2Proof.Claims

/-- `TRAP_ENTRY` and `WATCHDOG` (R184, R326, R327): at a boundary in user privilege the first pending event is taken, in the order
exhausted handler budget, deferred error, plane-array event, message check, queue overflow; each is struck off as it is taken, and the
overflow report names the queue, the message, a loss and an ahead granule. While the context waits for a request that a page
fault has parked, none of them but the budget is taken (R328); a handler whose budget is exhausted inside an acquire that waits
for such a request aborts there. (Which waits hold a trap so is the model's reading, log entry 28.) -/
def Sys2Proof.Claims.EventEntry : Prop :=
  (∀ (t k : Nat) (s : State), Unit_ t k → abortDue s t k = true →
    exec (.trapEntry t k) s = .next (entersAt t k (plainTrap 0x1B 0) (fun x => x.modSlot fun y => { y with hout := false }) s)) ∧
  ∀ (t k : Nat) (s : State), Unit_ t k → (s.slotAt t k).interruptible = true →
    let sl := s.slotAt t k
    let held := trapHeld (Fin.ofNat 8 k) (s.focus t)
    let e := Instr.trapEntry t k
    (sl.st = .handler → sl.hout = true →
      exec e s = .next (entersAt t k (plainTrap 0x1B 0) (fun x => x.modSlot fun y => { y with hout := false }) s) ∧
      exec (.watchdog t k) s = exec e s) ∧
    (¬ (sl.st = .handler ∧ sl.hout = true) → held = true → exec e s = .next s) ∧
    (¬ (sl.st = .handler ∧ sl.hout = true) → held = false →
      (∀ d r, sl.derr = d :: r → exec e s = .next (entersAt t k d.trap (fun x => x.modSlot fun y => { y with derr := r }) s)) ∧
      (sl.derr = [] →
        (∀ d r, sl.perr = d :: r → exec e s = .next (entersAt t k d.trap (fun x => x.modSlot fun y => { y with perr := r }) s)) ∧
        (sl.perr = [] →
          (∀ d r, sl.merr = d :: r → exec e s = .next (entersAt t k d.trap (fun x => x.modSlot fun y => { y with merr := r }) s)) ∧
          (sl.merr = [] → ∀ j q, nextReport (s.getTile t) k = some (j, q) →
            exec e s = .next (entersAt t k (plainTrap 0x14 (overflowWord q ((s.slotAt t j).queue (BitVec.ofNat 2 q))))
              (fun x => { x with tile := x.tile.setSlot j ((x.tile.slot j).setQueue (BitVec.ofNat 2 q)
                { (x.tile.slot j).queue (BitVec.ofNat 2 q) with report := false, lost := false, ahead := false }) }) s)))))

/-- `PREEMPTION_EVENT` (R327, R343, R348): a user context with the request and no pending trap enters STOPPING; so does one whose
acquire the NI holds behind a parked circuit, which goes on waiting for it after the launch resumes (the model's reading, log
entry 28). -/
def Sys2Proof.Claims.PreemptionEntry : Prop :=
  ∀ (t k : Nat) (s : State), Unit_ t k →
    let sl := s.slotAt t k
    sl.st = .user → sl.stopReq = true →
    ((s.getTile t).trapPending k = false → sl.interruptible = true → exec (.preemptionEvent t k) s = .next (s.setSlotAt t k
      { sl with st := .stopping, stopReq := false, entered := .no, wait := none, timer := 0 })) ∧
    (∀ p q x d, sl.running = true → sl.priv = false → sl.entered = .acquire p q x d → acquireHeld s t k = true →
      exec (.preemptionEvent t k) s = .next (s.setSlotAt t k
        { sl with st := .stopping, stopReq := false, wait := none, timer := 0 }))

/-- `HANDLER_DISPATCH` (R28, R116, R165): a free handler slot, while fewer than min(H, 4) are busy, starts on the candidate of the highest
effective priority, the lower queue on a tie, among the heads that the tile has seen for 8 tile cycles (of those so due the best is
taken: the model's reading, log entry 29): PC the tag's HPC, A the header, P0 the record's address with stride 8, the launch's
generation and domain, the slot's budget; the rest of the context at its start value. -/
def Sys2Proof.Claims.HandlerStart : Prop :=
  (∀ (t : Nat) (s : State) (l : TileLaunch) (k : Nat) (q : BitVec 2), t < tileCount →
    let tl := s.getTile t
    let hdr := headHeader s t (tl.handlerQueue q)
    tl.launch = some l → tileSaving s t = false → freeHandlerSlot tl = some k → bestCandidate s t = some q →
    ∃ sl, exec (.handlerDispatch t) s = .next (s.setTile t (tl.setSlot k sl)) ∧
      sl.st = .handler ∧ sl.priv = false ∧ sl.user.pc = (tl.tagEntry (hdr.toNat / 2 ^ 44 % 16)).hpc ∧ sl.user.a = hdr ∧
      (∀ p : BitVec 3, sl.user.ptr p = if p = 0 then ⟨8, (tl.handlerQueue q).head⟩ else ⟨0, 0⟩) ∧
      sl.user.f = ⟨0xFF, false, false, false, false⟩ ∧ sl.user.depth = 0 ∧ sl.user.rpt = ⟨0, 0, 0, 0, 0, 0⟩ ∧ sl.gen = l.gen ∧
      sl.dom = l.dom ∧ sl.hq = q ∧ sl.hleft = (tl.slot k).wdogb ∧ sl.inbox = [] ∧ sl.held = []) ∧
  (∀ (tl : Tile) (l : TileLaunch) (k : Nat), tl.launch = some l → freeHandlerSlot tl = some k →
    8 - l.h.toNat ≤ k ∧ k < 8 ∧ (tl.slot k).st = .empty ∧
    ((List.range 8).filter fun j => decide (8 - l.h.toNat ≤ j) && ((tl.slot j).st != .empty)).length < min l.h.toNat 4) ∧
  (∀ (t : Nat) (s : State) (q : BitVec 2), bestCandidate s t = some q →
    let due := fun q : BitVec 2 => isCandidate (s.getTile t) q = true ∧ 8 ≤ ((s.getTile t).handlerQueue q).headAge
    due q ∧ ∀ q' : BitVec 2, due q' →
      effectivePrio s t q' < effectivePrio s t q ∨ (effectivePrio s t q' = effectivePrio s t q ∧ q ≤ q'))

/-- `PAUSE_EXPIRY` (R194): a pause whose last cycle has passed is over; before that nothing happens. -/
def Sys2Proof.Claims.PauseEnds : Prop :=
  ∀ (t k : Nat) (s : State), Unit_ t k →
    ((s.slotAt t k).pauseDue = true →
      exec (.pauseExpiry t k) s = .next (s.setSlotAt t k { s.slotAt t k with pause := 0, pauseDue := false })) ∧
    ((s.slotAt t k).pauseDue = false → exec (.pauseExpiry t k) s = .next s)

/-- `BARRIER_COMPLETION` (R191): once every thread of the scope has joined or ended, the open join of each that runs is completed, and the
episode is over. While its launch does not run, nothing happens (R193). -/
def Sys2Proof.Claims.BarrierEnds : Prop :=
  ∀ (n : Nat) (s : State) (e : Episode) (l : Launch), s.episodes[n]? = some e → s.findLaunch e.lid = some l →
    (∀ th ∈ l.threads, th.path.take e.path.length = e.path → th.ended = true ∨ radix l.levels th.path ∈ e.joined) →
    let s' := slotsOf l.threads (fun th => th.path.take e.path.length == e.path && !th.ended) (joinDone e.level) s
    (l.st = .running → exec (.barrierCompletion n) s = .next { s' with episodes := s'.episodes.eraseIdx n }) ∧
    (l.st ≠ .running → exec (.barrierCompletion n) s = .next s)

/-- `BARRIER_TIMEOUT` (R191, R192): the waiting thread takes `BARRIER_TIMEOUT` with the level; its join stays open. -/
def Sys2Proof.Claims.BarrierLate : Prop :=
  ∀ (t k : Nat) (s : State) (j : Join), Unit_ t k →
    let sl := s.slotAt t k
    sl.entered = .barrier → sl.timer ≤ 1 → sl.join = some j → j.completed = false →
    exec (.barrierTimeout t k) s = .next
      (entersAt t k (plainTrap 0x1A j.level.toNat) (fun x => x.modSlot fun y => { y with timer := 0 }) s)

/-- `ALIGN_RELEASE` and `ALIGN_TIMEOUT` (R198): the running threads of the scope on the bay go on together once all of them wait at the same
`ALIGN`; at the limit the thread goes on alone. -/
def Sys2Proof.Claims.AlignEnds : Prop :=
  ∀ (t k : Nat) (s : State) (level : BitVec 4), Unit_ t k →
    let sl := s.slotAt t k
    sl.entered = .align false level →
    ((∀ th ∈ alignGroup s t k level, (s.slotAt th.tile th.slot).alignedAt sl.bank.pc = true) →
      exec (.alignRelease t k) s = .next ((slotsOf (alignGroup s t k level) (fun _ => true) releaseAlign s).modSlotAt t k releaseAlign)) ∧
    (sl.timer ≤ 1 → exec (.alignTimeout t k) s = .next (s.setSlotAt t k { sl with entered := .align true level }))

/-- `GNEW_ALLOCATION` and `GENERATION_SWEEP` (R225, R226): the sweep visits one granule and voids its tag where it is the value swept; a
waiting `GNEW` takes the next value once its sweep is complete, and the sweep for the value after it starts; where another value
has become the next one, the sweep for that starts. -/
def Sys2Proof.Claims.SweepAndAllocate : Prop :=
  (∀ (t : Nat) (s : State), t < tileCount →
    let tl := s.getTile t
    tl.sweepPos < 1024 →
    exec (.generationSweep t) s = .next (s.setTile t
      { (if tl.tag tl.sweepPos = tl.sweepVal then tl.setTag tl.sweepPos 0xFFF else tl) with sweepPos := tl.sweepPos + 1 })) ∧
  (∀ (t k : Nat) (s : State), Unit_ t k →
    let tl := s.getTile t
    let g := tl.nextValue
    (tl.slot k).entered = .gnew none → tl.sweepVal = g → 1024 ≤ tl.sweepPos →
    ∃ tl' : Tile, exec (.gnewAllocation t k) s = .next (s.setTile t (tl'.setSlot k { tl.slot k with entered := .gnew (some g) })) ∧
      tl' = { tl with cur := g, sweepVal := tl'.sweepVal, sweepPos := 0 } ∧
      tl'.sweepVal = ({ tl with cur := g } : Tile).nextValue) ∧
  (∀ (t k : Nat) (s : State), Unit_ t k →
    let tl := s.getTile t
    (tl.slot k).entered = .gnew none → tl.sweepVal ≠ tl.nextValue →
    exec (.gnewAllocation t k) s = .next (s.setTile t { tl with sweepVal := tl.nextValue, sweepPos := 0 }))

/-- `SCRATCHPAD_WRITEBACK` (R231, R394): a corrected word is written back and counted in its bank; the sixteenth within 2^24 tile cycles asks
for the bay's retirement. Memory stands. -/
def Sys2Proof.Claims.Writeback : Prop :=
  ∀ (t : Nat) (s : State) (d : Nat) (r : List Nat), t < tileCount → (s.getTile t).corr = d :: r →
    let tl := s.getTile t
    let now := (s.getBay (bayOf t)).cyc.toNat
    let seen := (now :: SMap.get [] tl.bankErr (d % 128)).take 16
    let many := decide (seen.length = 16) && decide (now ≤ seen.getLastD 0 + 2 ^ 24)
    exec (.scratchpadWriteback t) s = .next (s.setTile t
      { tl with corr := r, bankErr := SMap.set [] tl.bankErr (d % 128) seen, retire := tl.retire || many })

/-- Events at contexts.
The clauses are `Sys2Proof.Claims.EventEntry`, `Sys2Proof.Claims.PreemptionEntry`, `Sys2Proof.Claims.HandlerStart`,
`Sys2Proof.Claims.PauseEnds`, `Sys2Proof.Claims.BarrierEnds`, `Sys2Proof.Claims.BarrierLate`,
`Sys2Proof.Claims.AlignEnds`, `Sys2Proof.Claims.SweepAndAllocate`, `Sys2Proof.Claims.Writeback`. -/
def Obligations.ContextEvents : Prop :=
  Sys2Proof.Claims.EventEntry ∧
  Sys2Proof.Claims.PreemptionEntry ∧
  Sys2Proof.Claims.HandlerStart ∧
  Sys2Proof.Claims.PauseEnds ∧
  Sys2Proof.Claims.BarrierEnds ∧
  Sys2Proof.Claims.BarrierLate ∧
  Sys2Proof.Claims.AlignEnds ∧
  Sys2Proof.Claims.SweepAndAllocate ∧
  Sys2Proof.Claims.Writeback

/-! ## Events: the runtime's and the management's writes -/

namespace Sys2Proof.Claims

/-- A context's slot after an access of the debug window counts for the tenant that holds the bay (R229). -/
def debugMetered (t : Nat) (s : State) : State :=
  match s.bayTenant (bayOf t) with | some n => s.hubMeter n 8 1 | none => s

/-- An answer to whoever asked from outside. -/
def answered (o : Out) (s : State) : State := { s with out := s.out ++ [o] }

/-- A record of the overflow ring as it reads when its place is free. -/
def ringFreed (ix : Nat) (tl : Tile) : Tile :=
  { tl with ring := tl.ring.set! ix { tl.ring.toList.getD ix OvfRec.reset with valid := false } }

end Sys2Proof.Claims

/-- `RQH_WRITE` (R167): a queue's HEAD register takes the value by the rule of `SETS` to %RQH. -/
def Sys2Proof.Claims.HeadWrite : Prop :=
  ∀ (t k q : Nat) (v : DWord) (s : State), Unit_ t k → q < 4 →
    exec (.rqhWrite t k q v) s = .next (s.modSlotAt t k fun sl =>
      { sl with rq := sl.rq.set! q ((sl.rq.toList.getD q RQueue.reset).writeHead v) })

/-- `TMSG_DROP` and `TMSG_RETRY` (R329, Table 19.4): a held handler queue is released, with HEAD past the aborted message or at it. -/
def Sys2Proof.Claims.QueueRelease : Prop :=
  ∀ (t k : Nat) (drop : Bool) (s : State), Unit_ t k → (s.slotAt t k).tmsg.hold = true →
    let tl := s.getTile t
    let q := (tl.slot k).tmsg.q
    ∃ tl' : Tile, exec (if drop then .tmsgDrop t k else .tmsgRetry t k) s = .next (s.setTile t tl') ∧
      (tl'.slot k).tmsg = { (tl.slot k).tmsg with hold := false } ∧
      (∀ j : Fin 4, tl'.hold[j] = (if j.val = q.toNat then false else tl.hold[j])) ∧
      tl'.handlerQueue q = (if drop then (tl.handlerQueue q).pop else tl.handlerQueue q) ∧
      (∀ j : BitVec 2, j ≠ q → tl'.handlerQueue j = tl.handlerQueue j)

/-- `OINFO_FREE`, `OINFO_REDO` and `OOVF_CLEAR` (R373, R415): a record's place is freed, and it counts as lost where no thread and no
handler queue of a launch can still take it; a redelivered record enters its queue, or the ring again where its granules are ahead, or is
refused while the queue is full, its report to be armed again; a write of OOVF clears the OVF bits that it names. That a redelivery takes a
new arrival number is the model's reading (log entry 21). -/
def Sys2Proof.Claims.OverflowRing : Prop :=
  ∀ (t ix : Nat) (s : State), t < tileCount → ix < 8 →
    let tl := s.getTile t
    let r := tl.ring.toList.getD ix OvfRec.reset
    let shared := r.slot = 7 ∧ tl.hasHandlers = true
    let rq := (tl.slot r.slot.toNat).queue r.q
    let g := tl.stampGen r.slot.toNat (decide (r.slot = 7) && tl.hasHandlers)
    (r.valid = true →
      (tl.launch = none ∨ ((tl.slot r.slot.toNat).st = .empty ∧ ¬ shared) →
        exec (.oinfoFree t ix) s = .next (s.setTile t ((ringFreed ix tl).meter 10 1))) ∧
      (tl.launch ≠ none → ((tl.slot r.slot.toNat).st ≠ .empty ∨ shared) →
        exec (.oinfoFree t ix) s = .next (s.setTile t (ringFreed ix tl))) ∧
      (rq.full = true → exec (.oinfoRedo t ix) s =
        .next (s.modSlotAt t r.slot.toNat fun sl => sl.setQueue r.q { rq with rearm := true })) ∧
      (let c := s.modTile t fun tl => { tl with oseq := tl.oseq + 1 }
       (rq.full = false → c.recordAhead t r.slot.toNat r.q g = false → exec (.oinfoRedo t ix) s =
         .next ((c.putRecord t r.slot.toNat r.q g r.words).modTile t (ringFreed ix))) ∧
       (rq.full = false → c.recordAhead t r.slot.toNat r.q g = true → exec (.oinfoRedo t ix) s =
         .next ((c.divert t r.slot.toNat r.q r.words true).modTile t (ringFreed ix))))) ∧
    (∀ v : DWord, ∃ tl' : Tile, exec (.oovfClear t v) s = .next (s.setTile t tl') ∧
      ∀ (k : Nat) (q : BitVec 2), k < 8 → (tl'.slot k).queue q =
        if v.getLsbD (4 * k + q.toNat) then { (tl.slot k).queue q with ovf := false, report := false, rearm := false }
        else (tl.slot k).queue q)

/-- The debug window (R229): an aligned data access reads or writes a doubleword whatever its tag, the tag standing, a read correcting what the code can; a tag access reads or
writes the tag of the granule; either counts for the tenant that holds the bay; any other address is refused. -/
def Sys2Proof.Claims.DebugWindow : Prop :=
  ∀ (t off : Nat) (v : DWord) (s : State), t < tileCount →
    (off % 8 = 0 → off < 32768 →
      exec (.debugDataRead t off) s =
        .next (answered (.read (dwordOf (readBytes s.mem (spadBase t + off) 8))) ((debugMetered t s).correctAt t off 8)) ∧
      exec (.debugDataWrite t off v) s = .next (({ debugMetered t s with
        mem := writeBytes s.mem (spadBase t + off) (bytesOf 8 v) } : State).modTile t fun tl =>
          { tl with bad := tl.bad.filter (· ≠ off / 8), soft := tl.soft.filter (· ≠ off / 8) }) ∧
      (off % 32 = 0 →
        exec (.debugTagRead t off) s =
          .next (answered (.read (((s.getTile t).tag (off / 32)).setWidth 64)) (debugMetered t s)) ∧
        exec (.debugTagWrite t off v) s = .next ((debugMetered t s).modTile t fun tl =>
          { tl with tags := SMap.set 0xFFF tl.tags (off / 32) (v.setWidth 12) }))) ∧
    (off % 8 ≠ 0 ∨ 32768 ≤ off → ∀ e ∈ [Instr.debugDataRead t off, .debugDataWrite t off v, .debugTagRead t off,
      .debugTagWrite t off v], exec e s = .next (answered .refused s))

/-- `CONTEXT_WINDOW_ACCESS` (R372): in a slot that is in supervisor state, stopping or empty, each of the 14 doublewords of the user
context reads as Table 20.4 lays it out and a write sets its writable fields; any other access is refused. -/
def Sys2Proof.Claims.ContextWindow : Prop :=
  ∀ (t k j : Nat) (v : DWord) (s : State), Unit_ t k →
    ((s.slotAt t k).st ∈ [.supervisor, .stopping, .empty] → j < 14 →
      exec (.contextWindowAccess t k (8 * j) none) s = .next (answered (.read (contextWord (s.getTile t) k j)) s) ∧
      exec (.contextWindowAccess t k (8 * j) (some v)) s = .next (s.modSlotAt t k (setContextWord j v))) ∧
    (((s.slotAt t k).st ∈ [.user, .handler] ∨ 14 ≤ j) → ∀ x : Option DWord,
      exec (.contextWindowAccess t k (8 * j) x) s = .next (answered .refused s))

/-- What the context window shows and sets of A, PC and the plane configuration, F and the repeat state, and the return stack
(Tables 1.3, 1.4, 20.4). -/
def Sys2Proof.Claims.ContextLayout : Prop :=
  ∀ (tl : Tile) (k : Nat) (v : DWord), k < 8 →
    let sl := tl.slot k
    let u := sl.user
    contextWord tl k 0 = u.a ∧ (setContextWord 0 v sl).user.a = v ∧
    (contextWord tl k 9).toNat = ((u.f.m.toNat * 256 + bit u.f.n * 8 + bit u.f.z * 4 + bit u.f.c * 2 + bit u.f.v) * 2 ^ 48
      + u.rpt.count.toNat * 2 ^ 28 + u.rpt.body.toNat * 2 ^ 14 + u.rpt.len.toNat * 2 ^ 10 + u.rpt.idx.toNat * 2 ^ 6
      + u.rpt.stag.toNat * 2 ^ 3 + u.rpt.k.toNat) ∧
    contextWord (tl.setSlot k (setContextWord 9 (contextWord tl k 9) sl)) k 9 = contextWord tl k 9 ∧
    (contextWord tl k 11).toNat % 2 ^ 14 = u.pc.toNat ∧ (contextWord tl k 11).toNat / 2 ^ 16 % 2 ^ 9 = u.pcfg.toNat ∧
    (setContextWord 11 v sl).user.pc.toNat = v.toNat % 2 ^ 14 ∧ (setContextWord 11 v sl).user.aPend = u.aPend ∧
    (setContextWord 12 v sl) = sl ∧ (setContextWord 13 v sl) = sl

/-- The loft (R24, R79, R135): a write of a loft word changes its four bytes and drops every buffered line that holds it; a fetch of
the line of the bay's oldest request, while the port has served fewer than four lines in the fabric cycle, gives it, with the next line
where a pair spans both, to every context that asks for it. -/
def Sys2Proof.Claims.LoftWindow : Prop :=
  (∀ (bay word : Nat) (v : Word) (s : State), bay < 10240 → word < 16384 → ∃ t : State,
    exec (.loftWindowWrite bay word v) s = .next t ∧ t.mem = writeBytes s.mem (loftBase bay + 4 * word) (bytesOf 4 v) ∧
    t.bays = s.bays ∧ t.circuits = s.circuits ∧ t.launches = s.launches ∧
    (bayOf s.tid = bay → ∀ k : Fin 8, word / 4 ∉ t.tile.slots[k].lines ∧ t.tile.slots[k].user = s.tile.slots[k].user)) ∧
  (∀ (bay line : Nat) (s0 : State), bay < 10240 → line < 4096 → bayOf s0.tid = bay →
    let s := requestLines bay s0
    let fc := (s.getDie (bay / 640)).fc
    let n := if (s.getBay bay).port.1 = fc then (s.getBay bay).port.2 else 0
    let ls := servedLines s bay line
    (firstRequest s bay).map (·.1) = some line → n + ls.length ≤ 4 →
    ∃ t : State, exec (.loftLineFetch bay line) s0 = .next t ∧ t.mem = s0.mem ∧ (t.getBay bay).port = (fc, n + ls.length) ∧
      ∀ k : Fin 8,
        let sl := s.tile.slots[k]
        let need := linesNeeded s bay sl.bank.pc
        t.tile.slots[k] = if sl.wantsLine s s.tid = true ∧ ∀ l ∈ need, l ∈ ls then { sl with lines := need, ask := none } else sl)

/-- `BAYRATE_WRITE`, `REGISTER_WRITE`, `SERVICE_SLOT_WRITE`, `FLEET_LIST_WRITE` (R10, R170, R356, R395, R401, R411; Tables 8.8, 21.3, 21.4,
25.2, 27.3): the register takes its writable fields, and its read-only fields stand; a bay map entry is written only while the bay holds no
launch. That a PHYS of 644 to 1,023, which names no physical bay, stops as no register is the model's choice (log entry 99). -/
def Sys2Proof.Claims.ManagementWrites : Prop :=
  ∀ (die bay : Nat) (v : DWord) (s : State), die < 16 → bay < 640 →
    let b := 640 * die + bay
    let d := s.dies.toList.getD die Die.reset
    let rate := fun lo => (⟨(v >>> (lo + 10)).setWidth 6, (v >>> lo).setWidth 9⟩ : Rate)
    exec (.bayrateWrite die bay v) s = .next (s.modBay b fun x =>
      { x with rm := rate 48, rv := rate 32, rs := rate 16, rx := rate 0 }) ∧
    exec (.registerWrite (.pwrctl die) v) s = .next (s.setDie die { d with pwr :=
      { d.pwr with budget := (v >>> 48).setWidth 16, rot := v.getLsbD 7, t := v.setWidth 7 } }) ∧
    let phys := v.toNat / 2 ^ 48 % 1024
    (644 ≤ phys → exec (.registerWrite (.baymap die bay) v) s = .fault .noSuchUnit) ∧
    (phys < 644 → (s.getBay b).launch = none → exec (.registerWrite (.baymap die bay) v) s = .next (s.setDie die
      (d.setBayMap bay { d.bayMap bay with insrv := v.getLsbD 63, transit := v.getLsbD 62, phys := (v >>> 48).setWidth 10 }))) ∧
    (phys < 644 → (s.getBay b).launch ≠ none → exec (.registerWrite (.baymap die bay) v) s = .next s) ∧
    (∀ e : Nat, e < 32 → ∃ ps : List Perm,
      exec (.registerWrite (.permission b e) v) s = .next (s.modBay b fun x => { x with perms := ps }) ∧ ps.length = 32 ∧
      ∀ j : Nat, j < 32 → ps.getD j Perm.reset = if j = e then
        ⟨v.getLsbD 63, (v >>> 40).setWidth 12, (v >>> 36).setWidth 4, (v >>> 16).setWidth 10, v.setWidth 10⟩
        else (s.getBay b).perms.getD j Perm.reset) ∧
    (∀ ix : Nat, ix < 64 → exec (.serviceSlotWrite die ix v) s =
      .next { s with wheels := SMap.set 0 s.wheels (64 * die + ix) (v.setWidth 10) }) ∧
    (∀ (tenant : Nat) (mods : List Nat), tenant < 512 → exec (.fleetListWrite tenant mods) s =
      .next (s.setTenant tenant { s.getTenant tenant with fleet := mods.take 16 })) ∧
    (∀ edge port : Nat, edge < 4 → port < 16 → ∀ r ∈ [DevReg.linkstat die edge, .splstat port, .bootstat],
      exec (.registerWrite r v) s = .next s)

/-- The memory service wheel (R411): what its registers hold comes into force for a stack at the start of the wheel's next
revolution, where the die's count of fabric cycles reaches a multiple of 64 (R145); the other stacks' entries in force stand, and
until then nothing in force changes. (That the revolution follows that count is log entry 45.) -/
def Sys2Proof.Claims.WheelTurns : Prop :=
  ∀ (die n hub : Nat) (s : State), n ≤ 64 → SMap.wfFrom 0 0 s.wheels = true → SMap.wfFrom 0 0 s.wheelOn = true →
    let t := passTime die n hub s
    let turned := 64 ≤ (s.getDie die).fc % 64 + n
    ∀ stack ix : Nat, ix < 64 →
      SMap.get 0 t.wheelOn (64 * stack + ix) =
        if turned ∧ stack = die then SMap.get 0 s.wheels (64 * stack + ix) else SMap.get 0 s.wheelOn (64 * stack + ix)

/-- `RANK_ENTRY_WRITE` (R161, R162, Table 8.4): the entry takes its fields; where that clears TRANSIT, the messages to the rank that the
NI holds go where the entry now says. -/
def Sys2Proof.Claims.RankWrite : Prop :=
  ∀ (t r : Nat) (v : DWord) (s : State), t < tileCount → r < 4096 →
    let n := v.toNat
    let e : RankEntry := ⟨v.getLsbD 63, v.getLsbD 62, BitVec.ofNat 12 (n / 2 ^ 40), BitVec.ofNat 4 (n / 2 ^ 36),
      BitVec.ofNat 8 (n / 2 ^ 28), BitVec.ofNat 8 (n / 2 ^ 20), BitVec.ofNat 3 (n / 2 ^ 17), BitVec.ofNat 9 n⟩
    let s1 := s.modTile t fun tl => { tl with ranks := SMap.set RankEntry.reset tl.ranks r e }
    (((s.getTile t).rank r).transit = false ∨ e.transit = true → exec (.rankEntryWrite t r v) s = .next s1) ∧
    (((s.getTile t).rank r).transit = true → e.transit = false → exec (.rankEntryWrite t r v) s =
      .next (s1.modTile t fun tl => { tl with slots := tl.slots.map fun sl => { sl with niq := sl.niq.map (Req.reroute s1 r e) } })) ∧
    ∀ (q : Req) (die cid dst slot key : Nat), q.rank = r → (∃ h p, q.op = .msg h p) → q.route = .tile die cid dst slot →
      q.slot < 8 - ((s1.getTile q.tile).launch.map (·.h.toNat)).getD 0 →
      s1.findCircuit q.tile q.slot (e.tileNo s1.modNo) = some key →
      Req.reroute s1 r e q = { q with route := .tile (key / 4096) (key % 4096) (e.tileNo s1.modNo) e.slot.toNat }

/-- Writes of the runtime and of the host into the module.
The clauses are `Sys2Proof.Claims.HeadWrite`, `Sys2Proof.Claims.QueueRelease`, `Sys2Proof.Claims.OverflowRing`,
`Sys2Proof.Claims.DebugWindow`, `Sys2Proof.Claims.ContextWindow`, `Sys2Proof.Claims.ContextLayout`,
`Sys2Proof.Claims.LoftWindow`, `Sys2Proof.Claims.ManagementWrites`, `Sys2Proof.Claims.WheelTurns`,
`Sys2Proof.Claims.RankWrite`. -/
def Obligations.RuntimeWrites : Prop :=
  Sys2Proof.Claims.HeadWrite ∧
  Sys2Proof.Claims.QueueRelease ∧
  Sys2Proof.Claims.OverflowRing ∧
  Sys2Proof.Claims.DebugWindow ∧
  Sys2Proof.Claims.ContextWindow ∧
  Sys2Proof.Claims.ContextLayout ∧
  Sys2Proof.Claims.LoftWindow ∧
  Sys2Proof.Claims.ManagementWrites ∧
  Sys2Proof.Claims.WheelTurns ∧
  Sys2Proof.Claims.RankWrite

/-! ## Events: circuits, messages, channels -/

namespace Sys2Proof.Claims

/-- The request leaves the NI of its slot for its circuit. -/
def injected (t k : Nat) (r : Req) (s : State) : State :=
  let s1 := s.modSlotAt t k fun sl => { sl with niq := sl.niq.filter (·.uid ≠ r.uid) }
  { s1 with flights := s1.flights ++ [⟨r, .wire⟩] }

/-- An earlier access of the context that a release at the extent must follow is not yet complete (R241). -/
def ReleaseOwes (sl : Slot) (r : Req) (ext : BitVec 3) : Prop :=
  2 ≤ ext.toNat ∧ ∃ a ∈ sl.accs, sl.firstSeq ≤ a.seq ∧ a.seq < r.seq ∧
    (a.read = true ∨ (a.write = true ∧ (if ext.toNat ≤ 5 then a.die else a.mod) = false))

/-- NM falls, and the access is complete, at the context that sent a message. -/
def messageDone (r : Req) (s : State) : State :=
  s.modSlotAt r.tile r.slot fun sl =>
    { sl with accs := sl.accs.filter (·.seq ≠ r.seq), nm := if sl.run = r.run then sl.nm - 1 else sl.nm }

/-- The flight, first on its circuit, has arrived. -/
def arrivedFlight (n : Nat) (s : State) : State := { s with flights := s.flights.eraseIdx n }

/-- A discarded message or word is told at a slot while the tenant's launch holds the tile; else it counts for the tenant (R330). -/
def told (tenant t k v : Nat) (s : State) : State :=
  if (s.getTile t).launch.map (·.tenant) = some tenant then
    s.modSlotAt t k fun sl => { sl with merr := sl.merr ++ [⟨plainTrap 0x13 v⟩] }
  else s.hubMeter tenant 9 1

/-- Base slots are added to a circuit of a die (R151, R152): the answer is 0 with the slots held; where entries lie on other dies, each of
their joiners has its own in its work, and neither the source die's entries nor the base slots stand before they are done. -/
def Added (die cid : Nat) (c : Circuit) (bs : List Nat) (s t : State) : Prop :=
  let es := circuitEntries c cid bs
  ∃ x, (t.getDie die).replies = (s.getDie die).replies ++ [x] ∧ x.status = 0 ∧ x.cid = cid ∧ x.slots = (c.base ++ bs).length ∧
    x.far = farDies die es ∧
    (farDies die es = [] → t.slotTab = (nearEntries die es).foldl (fun m (kv : Nat × Word) => SMap.set 0 m kv.1 kv.2) s.slotTab ∧
      t.circuit (die * 4096 + cid) = { c with base := c.base ++ bs }) ∧
    (farDies die es ≠ [] → x.base = c.base ++ bs ∧ x.near = nearEntries die es ∧ t.slotTab = s.slotTab ∧
      t.circuit (die * 4096 + cid) = c ∧
      ∀ j ∈ farDies die es, (t.getDie j).work = (s.getDie j).work ++ [.far ⟨die, es.filter fun kv => keyDie kv.1 == j⟩])

/-- A circuit is left with its first `n` base slots (R152, R153): the injection entries of the others are cleared at once, their other
entries are drained after the last word already injected has arrived, and the answer waits for that. -/
def Shrunk (die cid n : Nat) (c : Circuit) (x : JoinReply) (s t : State) : Prop :=
  let keys := (circuitEntries c 0 (c.base.drop n)).map (·.1)
  let now := fun k => keyInjects k && keyDie k == die
  t.slotTab = (keys.filter now).foldl (fun m (k : Nat) => SMap.set 0 m k 0) s.slotTab ∧
  t.circuit (die * 4096 + cid) = { c with base := c.base.filter fun b => !(c.base.drop n).contains b } ∧
  ∃ d, t.drains = s.drains ++ [d] ∧ d.die = die ∧ d.key = die * 4096 + cid ∧ d.reply = some x ∧ d.keys = keys.filter (!now ·) ∧
    ∀ b ∈ c.base.drop n, (s.getDie die).fc + travel s b c.fwd < d.due

/-- Word 0 of an inbox record (Table 17.2). -/
def recordWord (kind status vax drop block : Nat) : DWord :=
  BitVec.ofNat 64 (kind * 2 ^ 56 + status * 2 ^ 48 + vax * 2 ^ 40 + drop * 2 ^ 24 + block)

end Sys2Proof.Claims

/-- `MESSAGE_INJECTION` and `RELEASE_INJECTION` (R160, R175, R241): in its turn a request leaves its NI for its circuit; one that carries a
release does so only once every earlier access of its context is complete, and its writes performed, for the extent. -/
def Sys2Proof.Claims.Injection : Prop :=
  ∀ (t k n : Nat) (s : State) (r : Req), Unit_ t k → (s.slotAt t k).niq[n]? = some r →
    (r.rel = none → injectTurn s t k r = true → exec (.messageInjection t k n) s = .next (injected t k r s)) ∧
    (∀ ext, r.rel = some ext →
      (injectTurn s t k r = true → ¬ ReleaseOwes (s.slotAt t k) r ext →
        exec (.releaseInjection t k n) s = .next (injected t k r s)) ∧
      (ReleaseOwes (s.slotAt t k) r ext → exec (.releaseInjection t k n) s = .next s))

/-- The order of injection (R149, R175, R216, R236, R348): a request goes before none that its tile gave the same circuit earlier, and one
held at a save before none of its context that issued earlier; one to a tile needs the circuit live, neither parked nor asleep, with no stream on it, and a message its rank out of transit. -/
def Sys2Proof.Claims.InjectionOrder : Prop :=
  ∀ (t k : Nat) (s : State) (r : Req), injectTurn s t k r = true →
    (∀ x ∈ (s.slotAt t k).niq, sameCircuit x r = true → r.uid ≤ x.uid) ∧
    (∀ x ∈ (s.slotAt t k).niq, r.seq < (s.slotAt t k).heldTo → r.seq ≤ x.seq) ∧
    (∀ die cid dst slot, r.route = .tile die cid dst slot →
      let c := s.circuit (circuitKey die cid)
      c.base ≠ [] ∧ c.parked = false ∧ c.asleep = false ∧
      (∀ h p, r.op = .msg h p → ((s.getTile t).rank r.rank).transit = false) ∧
      ∀ sl ∈ (s.getTile t).slots.toList, ∀ x ∈ sl.niq, sameCircuit x r = true → r.uid ≤ x.uid)

/-- A record placed at TAIL (R166): its 16 doublewords stand there in granules of the generation, TAIL is one record on, and no byte outside
the record changes. -/
def Sys2Proof.Claims.RecordPlaced : Prop :=
  ∀ (s : State) (k : Fin 8) (q : BitVec 2) (g : BitVec 12) (ws : List DWord), Tidy s → ws.length = 16 → s.tile.bad = [] → g ≠ 0xFFF →
    let rq := s.tile.slots[k].queue q
    let a := rq.tail.toNat
    a % 128 = 0 → s.recordAhead s.tid k q g = false →
    let t := s.putRecord s.tid k q g ws
    (∀ j : Nat, j < 16 → dwordOf (readBytes t.mem (spadBase s.tid + a + 8 * j) 8) = ws.getD j 0) ∧
    (∀ j : Nat, j < 4 → t.tile.tag (a / 32 + j) = g) ∧
    (∀ b : Nat, b < spadBase s.tid + a ∨ spadBase s.tid + a + 128 ≤ b → byteAt t b = byteAt s b) ∧
    t.tile.slots[k].queue q = { rq with tail := rq.after rq.tail } ∧
    (∀ j : Fin 8, j ≠ k → t.tile.slots[j] = s.tile.slots[j])

/-- `MESSAGE_VISIBLE` (R160, R164 to R168, R175, R330, R373): the message enters the queue that its tag's entry names, of the slot or of slot
7 where EN is set, in granules of the launch's or the context's generation, and counts as an arrival of the tile; a full queue, one that
overflowed, or an ahead granule diverts it; one that fails its check is discarded and reported; NM falls at its sender. In one fabric cycle
messages enter a queue in ascending order of source die and CID. That one out of that order waits for a later cycle is the model's choice
(log entry 41), and so is what it does with a message to another module, which leaves this one (log entry 70). -/
def Sys2Proof.Claims.MessageArrives : Prop :=
  ∀ (n : Nat) (s : State) (f : Flight) (hdr : DWord) (pay : List DWord) (die cid dst slot : Nat),
    firstOnWire s n = some f → f.req.op = .msg hdr pay → f.req.route = .tile die cid dst slot →
    let s0 := arrivedFlight n s
    let tl := s0.getTile dst
    let e := tl.tagtab.toList.getD (hdr.toNat / 2 ^ 44 % 16) TagEntry.reset
    let k := if e.en then 7 else slot
    let rq := (s0.slotAt dst k).queue e.q
    let now := (s.getDie (dieOf dst)).fc + 1
    let turn := rq.arrFc ≠ now ∨ rq.arrKey ≤ die * 4096 + cid
    let c0 := s0.modTile dst fun tl => { tl with oseq := tl.oseq + 1 }
    let g := match tl.launch with
      | some l => if e.en = true ∨ (tl.slot k).st = .empty then l.gen else (tl.slot k).gen
      | none => (tl.slot k).gen
    let words := ((hdr :: pay) ++ List.replicate 16 0).take 16
    let noted := fun x : State => x.modSlotAt dst k fun sl =>
      sl.setQueue e.q { sl.queue e.q with arrFc := (x.getDie (dieOf dst)).fc + 1, arrKey := die * 4096 + cid }
    let after := fun x => exec (.messageVisible n) s = .next (noted (messageDone f.req x))
    (dst < tileCount → ¬ turn → exec (.messageVisible n) s = .next s) ∧
    (dst < tileCount → turn → f.req.bad = false → rq.full = false → rq.ovf = false → c0.recordAhead dst k e.q g = false →
      after (c0.putRecord dst k e.q g words)) ∧
    (dst < tileCount → turn → f.req.bad = false → (rq.full = true ∨ rq.ovf = true ∨ c0.recordAhead dst k e.q g = true) →
      after (c0.divert dst k e.q words (!rq.full && c0.recordAhead dst k e.q g))) ∧
    (dst < tileCount → turn → f.req.bad = true →
      after (told f.req.tenant dst (if e.en then 0 else slot) (cid % 4096 + bit e.en * 2 ^ 12) s0)) ∧
    (tileCount ≤ dst → exec (.messageVisible n) s =
      .next (messageDone f.req { s0 with out := s0.out ++ [.message dst slot (hdr :: pay)] }))

/-- `CHANNEL_WORD_ARRIVAL` and `CREDIT_RETURN` (R148, R156, R157, R171, R330): the oldest word of a circuit or link enters its end's buffer,
last; one that fails its check is discarded, its credit returns, and the bound slot is told; a word of a parked circuit or an idle link
waits, and so does a credit of an idle link; a credit adds one. Which slot is told of a bad word and that a link's has CID 0 are the model's
choice (log entry 71). -/
def Sys2Proof.Claims.ChannelTraffic : Prop :=
  ∀ (n : Nat) (s : State),
    (∀ w, s.words[n]? = some w → (∀ x ∈ s.words.take n, x.dst ≠ w.dst) →
      let s0 := { s with words := s.words.eraseIdx n }
      (∀ die cid, w.dst = .circuit die cid →
        let key := die * 4096 + cid
        let c := s.circuit key
        (c.parked = true → exec (.channelWordArrival n) s = .next s) ∧
        (c.parked = false → w.bad = false →
          exec (.channelWordArrival n) s = .next (s0.setCircuit key { c with buf := c.buf ++ [w.word] })) ∧
        (c.parked = false → w.bad = true → exec (.channelWordArrival n) s =
          .next (told c.tenant c.dst c.dslot (cid % 4096) { s0 with credits := s.credits ++ [w.dst] }))) ∧
      (∀ t d, w.dst = .link t d →
        (linkLive s t d = false → exec (.channelWordArrival n) s = .next s) ∧
        (linkLive s t d = true → w.bad = false →
          exec (.channelWordArrival n) s = .next (s0.setLink t d { s.link t d with buf := (s.link t d).buf ++ [w.word] })) ∧
        (∀ u k, linkLive s t d = true → w.bad = true → neighbour s t d = some u → (s.link t d).bound = some k →
          exec (.channelWordArrival n) s =
            .next (told (s.getTile t).tenant t k 0 { s0 with credits := s.credits ++ [.link u (d + 2)] })))) ∧
    (∀ c, s.credits[n]? = some c →
      let s0 := { s with credits := s.credits.eraseIdx n }
      (∀ die cid, c = .circuit die cid →
        let key := die * 4096 + cid
        exec (.creditReturn n) s = .next (s0.setCircuit key { s.circuit key with credits := (s.circuit key).credits + 1 })) ∧
      (∀ t d, c = .link t d →
        (linkLive s t d = true →
          exec (.creditReturn n) s = .next (s0.setLink t d { s.link t d with credits := (s.link t d).credits + 1 })) ∧
        (linkLive s t d = false → exec (.creditReturn n) s = .next s)))

/-- A completion (R299, R310, Table 17.2): while the command's context is there, its record enters the inbox last, carrying the DROP count,
which restarts, and NE falls; owed to a context that has ended it is discarded. -/
def Sys2Proof.Claims.CompletionRecord : Prop :=
  ∀ (s : State) (k : Fin 8) (run kind status : Nat) (vax : BitVec 8) (block : BitVec 15) (w1 : DWord),
    kind < 256 → status < 256 →
    let sl := s.tile.slots[k]
    let t := s.complete s.tid k run kind status vax block w1
    let rec_ : InboxRec := ⟨recordWord kind status vax.toNat sl.drop.toNat block.toNat, w1⟩
    let sl' : Slot := { sl with inbox := sl.inbox ++ [rec_], drop := 0, ne := sl.ne - 1 }
    (sl.run = run → t = { s with tile := { s.tile with slots := s.tile.slots.set k sl' } }) ∧
    (sl.run ≠ run → t = s)

/-- `JOINER_REQUEST` (R151, R152, R153, R170, R199): a request that the bay's permission table does not allow is answered 2, one that
names a circuit of another tenant 5, a query with the slots held; a circuit whose path, number, quota and lowest usable base slots are there
is set up with them and 8 credits, and else refused with what it lacks; a circuit of the tenant is resized, and torn down as to 0 slots;
where entries lie on other dies, the answer waits for their joiners. The lowest free number (log entry 18), the slots that a resize removes
(log entry 16), status 1 where no number is free (log entry 101) and the CID 0 of a refused set-up (log entry 102) are the model's
choice. -/
def Sys2Proof.Claims.JoinerWork : Prop :=
  ∀ (die : Nat) (s : State) (r : JoinReq) (rest : List JoinWork), die < 16 → dieOf r.tile = die → r.cid < 4096 → Tabled s →
    let d := s.getDie die
    let s0 := s.setDie die { d with work := rest }
    let c := s0.circuit (die * 4096 + r.cid)
    let owned := c.base ≠ [] ∧ c.tenant = r.tenant ∧ (c.kind = .message ∨ c.kind = .channel)
    let reply := fun (status cid slots : Nat) => (
      { tile := r.tile, slot := r.slot, run := r.run, block := r.block, status := status, cid := cid, slots := slots, far := [], key := 0,
        base := [], near := [] } : JoinReply)
    let tells := fun x => exec (.joinerRequest die) s = .next (s0.modDie die fun y => { y with replies := y.replies ++ [x] })
    let fresh := r.op = 0 ∧ permitted s0 r.tile r.dst r.dmod = true ∧ (r.chan = true ∨ s0.findCircuit r.tile r.slot r.dst = none)
    let made : List Hop → List Hop → Circuit := fun fwd rev =>
      { kind := if r.chan then .channel else .message, tenant := r.tenant, src := r.tile, sslot := r.slot, dst := r.dst, dslot := r.dslot,
        base := [], parked := false, asleep := false, buf := [], credits := 8, fwd := fwd, rev := rev }
    d.work = .own r :: rest → joinerWaits s die = false →
    (r.op = 0 → permitted s0 r.tile r.dst r.dmod = false → tells (reply 2 0 0)) ∧
    (r.op ≠ 0 → ¬ owned → tells (reply 5 r.cid 0)) ∧
    (r.op = 3 → owned → tells (reply 0 r.cid c.base.length)) ∧
    (fresh → requestPath s0 r = .error .lost → tells (reply 4 0 0)) ∧
    (fresh → requestPath s0 r = .error .noSlot → tells (reply 1 0 0) ∨ tells (reply 3 0 0)) ∧
    (∀ fwd rev, fresh → requestPath s0 r = .ok (fwd, rev) →
      (overQuota s0 r.tenant fwd r.slots = true → tells (reply 3 0 0)) ∧
      (overQuota s0 r.tenant fwd r.slots = false →
        (freeCid s0 die = none → tells (reply 1 0 0)) ∧
        (∀ cid, freeCid s0 die = some cid → (∀ h ∈ fwd, portDown s0 h.port = false) →
          (takeBases s0 fwd rev r.slots = none → tells (reply 1 0 0)) ∧
          (∀ bs, takeBases s0 fwd rev r.slots = some bs →
            ∃ t, exec (.joinerRequest die) s = .next t ∧ Added die cid (made fwd rev) bs s0 t)))) ∧
    (∀ n, (r.op = 1 ∧ n = r.slots) ∨ (r.op = 2 ∧ n = 0) → owned → dieOf c.src = die →
      (n = c.base.length → tells (reply 0 r.cid n)) ∧
      (n < c.base.length → ∃ t, exec (.joinerRequest die) s = .next t ∧ Shrunk die r.cid n c (reply 0 r.cid n) s0 t) ∧
      (c.base.length < n →
        (overQuota s0 r.tenant c.fwd (n - c.base.length) = true → tells (reply 3 r.cid c.base.length)) ∧
        (overQuota s0 r.tenant c.fwd (n - c.base.length) = false →
          ((∃ h ∈ c.fwd, portDown s0 h.port = true) → tells (reply 4 r.cid c.base.length)) ∧
          ((∀ h ∈ c.fwd, portDown s0 h.port = false) →
            (takeBases s0 c.fwd c.rev (n - c.base.length) = none → tells (reply 1 r.cid c.base.length)) ∧
            (∀ bs, takeBases s0 c.fwd c.rev (n - c.base.length) = some bs →
              ∃ t, exec (.joinerRequest die) s = .next t ∧ Added die r.cid c bs s0 t)))))

/-- The base slots that a joiner takes (R146, R152, step 2): as many as asked, none of them slot 0 or 32, each with every entry of the
forward and the reverse path free. -/
def Sys2Proof.Claims.BaseSlots : Prop :=
  ∀ (s : State) (fwd rev : List Hop) (n : Nat) (bs : List Nat), takeBases s fwd rev n = some bs →
    bs.length = n ∧ ∀ b ∈ bs, b < 64 ∧ b ≠ 0 ∧ b ≠ 32 ∧
      ∀ uh ∈ baseSlots b fwd ++ baseSlots b rev, SMap.get 0 s.slotTab (uh.2.port * 64 + uh.1) = 0 ∧
        uh.1 < 64 ∧ uh.1 ≠ 0 ∧ (uh.2.mesh = true → uh.1 ≠ 32)

/-- `FAR_JOINER_WRITE`, `JOINER_REPLY` and `CIRCUIT_TEARDOWN_DRAIN` (R151, R152, R200): a far joiner writes the entries that come next in
its work, and the source's replies no longer wait for it; a reply that waits for no die enters the inbox as KIND 4 with status, CID and
slots; once the words already injected have arrived, a drained slot's entries are cleared and the reply that waits for it is given. That a
joiner which waits for other joiners takes their oldest work is the model's choice (log entry 33). -/
def Sys2Proof.Claims.JoinerAnswers : Prop :=
  (∀ (die : Nat) (s : State) (w : FarWork), die < 16 → (farAwaited s die = true ∨ joinerWaits s die = false) →
    nextFar (farAwaited s die) (s.getDie die).work = some w →
    let s1 := s.setDie die { s.getDie die with work := (s.getDie die).work.erase (.far w) }
    let s2 := { s1 with slotTab := w.keys.foldl (fun m (kv : Nat × Word) => SMap.set 0 m kv.1 kv.2) s1.slotTab }
    exec (.farJoinerWrite die) s = .next (settleReplies (s2.getDie w.src).replies die (s2.modDie w.src fun x =>
      { x with replies := x.replies.map fun r => { r with far := r.far.filter (· ≠ die) } }))) ∧
  (∀ (w : FarWork) (rest : List JoinWork) (waits : Bool), nextFar waits (.far w :: rest) = some w) ∧
  (∀ (r : JoinReq) (rest : List JoinWork), nextFar false (.own r :: rest) = none ∧
    nextFar true (.own r :: rest) = nextFar true rest) ∧
  (∀ (die : Nat) (s : State) (r : JoinReply) (rest : List JoinReply), die < 16 → (s.getDie die).replies = r :: rest → r.far = [] →
    exec (.joinerReply die) s = .next ((s.setDie die { s.getDie die with replies := rest }).complete r.tile r.slot r.run 4 r.status 0
      r.block (BitVec.ofNat 64 (r.status + r.cid * 2 ^ 16 + r.slots * 2 ^ 32)))) ∧
  (∀ (n : Nat) (s : State) (d : Drain), s.drains[n]? = some d →
    let cleared : State := { s with drains := s.drains.eraseIdx n, slotTab := d.keys.foldl (fun m (k : Nat) => SMap.set 0 m k 0) s.slotTab }
    ((s.getDie d.die).fc < d.due → exec (.circuitTeardownDrain n) s = .next s) ∧
    (d.due ≤ (s.getDie d.die).fc → (∀ k ∈ d.keys, keyDie k = d.die) →
      (d.reply = none → exec (.circuitTeardownDrain n) s = .next cleared) ∧
      (∀ r, d.reply = some r → exec (.circuitTeardownDrain n) s =
        .next (cleared.modDie d.die fun x => { x with replies := x.replies ++ [{ r with far := [] }] }))))

/-- The pull (R179, R180, R227): the request reads the offered region as a stream, or finds no circuit back (status 1); the stream is written
as the puller's, an ahead granule ending it with `GEN_FUTURE`, and its record, KIND 2, enters the puller's inbox; the offerer is told by a
record of KIND 3, counted in DROP where its inbox is full, discarded where no thread is there. That the region is read when the request arrives
(log entry 68) and that the records owed to the offerer count as present (log entry 36) are the model's readings. -/
def Sys2Proof.Claims.Pulls : Prop :=
  (∀ (n : Nat) (s : State) (f : Flight) (src len dstA blk die cid dst slot : Nat), firstOnWire s n = some f →
    f.req.op = .pull src len dstA blk → f.req.route = .tile die cid dst slot →
    (s.findCircuit dst slot f.req.tile = none → ∃ st : Stream, exec (.pullRequest n) s =
        .next { arrivedFlight n s with streams := s.streams ++ [st] } ∧ st.status = 1 ∧ st.data = [] ∧ st.tile = f.req.tile ∧
        st.slot = f.req.slot ∧ st.run = f.req.run ∧ st.offTile = dst ∧ st.offSlot = slot ∧ st.noticed = true) ∧
    ((s.findCircuit dst slot f.req.tile).isSome = true →
      (streamRead s dst (s.slotAt dst slot).gen (len / 8 + 1) src len).2 = 0 → ∃ st : Stream, exec (.pullRequest n) s =
        .next (({ arrivedFlight n s with streams := s.streams ++ [st] } : State).correctAt dst src st.data.length) ∧ st.status = 0 ∧ st.tile = f.req.tile ∧ st.slot = f.req.slot ∧
        st.run = f.req.run ∧ st.offTile = dst ∧ st.offSlot = slot ∧ st.done = false ∧ st.noticed = false ∧ st.len = len ∧
        st.data = (streamRead s dst (s.slotAt dst slot).gen (len / 8 + 1) src len).1)) ∧
  (∀ (n : Nat) (s : State) (st : Stream), s.streams[n]? = some st →
    (st.done = false → streamFirst s n st = true → exec (.pullCompletion n) s =
      .next (((streamWrite st s).complete st.tile st.slot st.run 2 st.status 0 0 (pullWord st.offRank st.len st.dst)).setStream n
        { st with done := true })) ∧
    (st.noticed = false → exec (.pullReleaseNotice n) s = .next ((postNotice st s).setStream n { st with noticed := true }))) ∧
  (∀ (st : Stream) (s : State),
    let sl := s.slotAt st.offTile st.offSlot
    let w := pullWord st.pullerRank st.len st.src
    let owed := (s.getTile st.offTile).engineNe st.offSlot
    (sl.st = .empty → postNotice st s = s) ∧
    (sl.st ≠ .empty → sl.inbox.length + owed < 16 → postNotice st s = s.setSlotAt st.offTile st.offSlot
      { sl with inbox := sl.inbox ++ [⟨recordWord 3 0 0 sl.drop.toNat 0, w⟩], drop := 0 }) ∧
    (sl.st ≠ .empty → 16 ≤ sl.inbox.length + owed → postNotice st s = s.setSlotAt st.offTile st.offSlot
      { sl with drop := if sl.drop = 255 then 255 else sl.drop + 1 }) ∧
    (((s.slotAt st.tile st.slot).run ≠ st.run → streamWrite st s = s) ∧
      ((s.slotAt st.tile st.slot).run = st.run →
        let x := s.spWriteSpan st.tile (s.slotAt st.tile st.slot).gen 1025 st.dst.toNat st.data
        (x.2 = none → streamWrite st s = x.1) ∧
        (∀ e, x.2 = some e → streamWrite st s = x.1.modSlotAt st.tile st.slot fun y => { y with perr := y.perr ++ [⟨e⟩] }))))

/-- Events of the network.
The clauses are `Sys2Proof.Claims.Injection`, `Sys2Proof.Claims.InjectionOrder`, `Sys2Proof.Claims.RecordPlaced`,
`Sys2Proof.Claims.MessageArrives`, `Sys2Proof.Claims.ChannelTraffic`, `Sys2Proof.Claims.CompletionRecord`,
`Sys2Proof.Claims.JoinerWork`, `Sys2Proof.Claims.BaseSlots`, `Sys2Proof.Claims.JoinerAnswers`,
`Sys2Proof.Claims.Pulls`. -/
def Obligations.NetworkEvents : Prop :=
  Sys2Proof.Claims.Injection ∧
  Sys2Proof.Claims.InjectionOrder ∧
  Sys2Proof.Claims.RecordPlaced ∧
  Sys2Proof.Claims.MessageArrives ∧
  Sys2Proof.Claims.ChannelTraffic ∧
  Sys2Proof.Claims.CompletionRecord ∧
  Sys2Proof.Claims.JoinerWork ∧
  Sys2Proof.Claims.BaseSlots ∧
  Sys2Proof.Claims.JoinerAnswers ∧
  Sys2Proof.Claims.Pulls

/-! ## Events: memory -/

namespace Sys2Proof.Claims

/-- A deferred error of an access (R257): cause, VA, the PC of the instruction, DEFER 1. -/
def lateError (r : Req) (cause : BitVec 8) : PendErr :=
  ⟨⟨cause, r.va.setWidth 64, ⟨false, true, r.pc, (r.va >>> 64).setWidth 8⟩⟩⟩

/-- The answered error of a request: a store's in its acknowledgement, any other's in its reply. -/
def failed (r : Req) (cause : BitVec 8) : Phase :=
  match r.op with | .store _ => .ack (some cause) | _ => .reply [] false (some cause) true

/-- A flight in a new phase, in its place; and accepted, last in the order. -/
def inPhase (n : Nat) (r : Req) (p : Phase) (s : State) : State := { s with flights := s.flights.set n ⟨r, p⟩ }
def takenAs (n : Nat) (r : Req) (p : Phase) (s : State) : State := { s with flights := s.flights.eraseIdx n ++ [⟨r, p⟩] }

/-- At the context that issued a write, it is performed for an extent of die, or of module, too (R240). -/
def performedAt (r : Req) (die mod : Bool) (s : State) : State :=
  s.modSlotAt r.tile r.slot fun sl =>
    { sl with accs := sl.accs.map fun a => if a.seq = r.seq then { a with die := a.die || die, mod := a.mod || mod } else a }

/-- Bytes of a store, those given, over what stood there. -/
def storedOver (s : State) (a : Nat) (d : List (Option Byte)) (b : Nat) : Byte :=
  if a ≤ b ∧ b < a + d.length then ((d.getD (b - a) none)).getD (byteAt s b) else byteAt s b

/-- A record is new to the fault buffer: no page record of an older FGEN, nor one like another that it holds (R223). -/
def NewFault (s : State) (r : FaultRec) : Prop :=
  4 ≤ r.kind.toNat ∨ (r.fgen = s.fgen ∧ ∀ x ∈ s.faults, ¬ (x.level = r.level ∧ x.region = r.region ∧ x.dom = r.dom ∧ x.kind = r.kind
    ∧ x.fgen = r.fgen))

end Sys2Proof.Claims

/-- `REMOTE_REPLY` (R112, R253, R255, R257, R369): in the order of its circuit an answer reaches its slot: the access is complete; a value goes
to the bank that it was issued from, extended as the instruction says, and is pending no longer; an error leaves the destination as it was
and waits as a deferred error; for a context that has ended it is discarded, but what a supervisor was owed comes to the supervisor bank,
which every context of the slot shares (R325). -/
def Sys2Proof.Claims.Replies : Prop :=
  (∀ (n : Nat) (s : State) (f : Flight) (val : List Byte) (hit : Bool) (err : Option (BitVec 8)) (early : Bool),
    s.flights[n]? = some f → f.phase = .reply val hit err early → answerAhead s n f.req = false →
    exec (.remoteReply n) s =
      .next ((arrivedFlight n s).modSlotAt f.req.tile f.req.slot (slotReply f.req val hit err early))) ∧
  (∀ (r : Req) (val : List Byte) (hit early : Bool) (sl : Slot),
    let x : Slot := { sl with accs := sl.accs.filter (·.seq ≠ r.seq) }
    let b := if r.sup then sl.sup else sl.user
    let put := fun (c : Bank) => if r.sup then { x with sup := c } else { x with user := c }
    (r.sup = false → sl.run ≠ r.run → ∀ err, slotReply r val hit err early sl = x) ∧
    (r.sup = true ∨ sl.run = r.run → r.acq = none →
      (∀ m ∈ [1, 2, 4, 8], r.op = .load m none → b.aPend = true →
        slotReply r val hit none early sl = put { b with a := widen true m (dwordOf val), aPend := false } ∧
        ∀ c, slotReply r val hit (some c) early sl =
          if sl.run = r.run then { put { b with aPend := false } with derr := sl.derr ++ [lateError r c] }
          else put { b with aPend := false }) ∧
      (∀ mask, r.op = .load 32 (some mask) → b.vPend = true →
        let taken : Vector Word 8 := Vector.ofFn fun (i : Fin 8) =>
          if mask.getLsbD i then wordOf ((val.drop (4 * i.val)).take 4) else b.v[i]
        slotReply r val hit none early sl = put { b with vPend := false, v := taken }) ∧
      (∀ fn, ∀ m ∈ [4, 8], ∀ a e, r.op = .amo fn m a e → b.aPend = true →
        let flags := if fn = .acas then { b.f with z := hit } else b.f
        let pending := if fn = .acas then false else b.zPend
        slotReply r val hit none early sl =
          put { b with a := amoOld fn m (dwordOf val), aPend := false, f := flags, zPend := pending }))) ∧
  (∀ (j : Nat) (s : State) (m : MetrReq) (v : DWord), s.metr[j]? = some m → m.value = some v →
    exec (.remoteReply (s.flights.length + j)) s =
      .next (({ s with metr := s.metr.eraseIdx j } : State).modSlotAt m.tile m.slot fun sl =>
        if (m.sup = true ∨ sl.run = m.run) ∧ (if m.sup then sl.sup else sl.user).aPend = true then
          (if m.sup then { sl with sup := { sl.sup with a := v, aPend := false } }
           else { sl with user := { sl.user with a := v, aPend := false } })
        else sl))

/-- `STORE_ACKNOWLEDGE` (R238, R254, R257): NB falls, and an error waits as a deferred one. -/
def Sys2Proof.Claims.Acknowledgements : Prop :=
  ∀ (n : Nat) (s : State) (f : Flight) (err : Option (BitVec 8)), s.flights[n]? = some f → f.phase = .ack err →
    answerAhead s n f.req = false →
    exec (.storeAcknowledge n) s = .next ((arrivedFlight n s).modSlotAt f.req.tile f.req.slot fun sl =>
      let x : Slot := { sl with accs := sl.accs.filter (·.seq ≠ f.req.seq) }
      if sl.run ≠ f.req.run then x
      else match err with
        | none => { x with nb := x.nb - 1 }
        | some c => { x with nb := x.nb - 1, derr := x.derr ++ [lateError f.req c] })

/-- `HOME_NI_ACCESS` at a tile (R256, R258): while the tile holds a launch of the issuer's tenant the access is performed with the named slot's
generation and policy, or the launch's where the slot is empty; an error of the scratchpad answers it; else it is answered `TARGET_LOST`. A
supervisor's load from a loft reads its bytes, of a die that is down it answers `TARGET_LOST` (R393). -/
def Sys2Proof.Claims.HomeAccess : Prop :=
  ∀ (n : Nat) (s : State) (f : Flight), firstOnWire s n = some f →
    let r := f.req
    (∀ die cid dst slot, r.route = .tile die cid dst slot → dst < tileCount → r.bad = false →
      let tl := s.getTile dst
      let a := r.va.toNat % 2 ^ 15
      (∀ l, tl.launch = some l → l.tenant = r.tenant →
        let g := if (tl.slot slot).st = .empty then l.gen else (tl.slot slot).gen
        let strict := if (tl.slot slot).st = .empty then l.gpol else (tl.slot slot).gpol
        (∀ m k, r.op = .load m k →
          (∀ bs, s.spRead dst g strict a m = .ok bs → exec (.homeNiAccess n) s = .next (inPhase n r (.reply bs false none false) (s.correctAt dst a m))) ∧
          (∀ e, s.spRead dst g strict a m = .error e → e.cause ≠ 0x13 →
            exec (.homeNiAccess n) s = .next (inPhase n r (.reply [] false (some e.cause) true) s))) ∧
        (∀ d s', r.op = .store d → s.spWrite dst g a d = .ok s' →
          exec (.homeNiAccess n) s = .next (inPhase n r (.ack none) (performedAt r true true s'))) ∧
        (∀ fn, ∀ m ∈ [4, 8], ∀ x e old new s', r.op = .amo fn m x e → s.spRead dst g strict a m = .ok old →
          amoNew fn m (dwordOf old) x e = some new → (s.correctAt dst a m).spWrite dst g a ((bytesOf m new).map some) = .ok s' →
          exec (.homeNiAccess n) s = .next (inPhase n r
            (.reply old (decide ((dwordOf old).toNat % 2 ^ (8 * m) = e.toNat % 2 ^ (8 * m))) none false) (performedAt r true true s')))) ∧
      ((tl.launch = none ∨ ∃ l, tl.launch = some l ∧ l.tenant ≠ r.tenant) →
        (∀ h p, r.op ≠ .msg h p) → (∀ x y z w, r.op ≠ .pull x y z w) →
        exec (.homeNiAccess n) s = .next (inPhase n r (failed r 0x12) s))) ∧
    (r.route = .config → vaSpace r.va = 0xD → (r.va.extractLsb' 38 10).toNat < 640 →
      let base := loftBase (640 * (r.va.toNat / 2 ^ 56 % 16) + (r.va.extractLsb' 38 10).toNat) + r.va.toNat % 2 ^ 16
      ∀ m k, r.op = .load m k →
        ((s.getDie (r.va.toNat / 2 ^ 56 % 16)).up = true →
          exec (.homeNiAccess n) s = .next (inPhase n r (.reply (readBytes s.mem base m) false none false) s)) ∧
        ((s.getDie (r.va.toNat / 2 ^ 56 % 16)).up = false →
          exec (.homeNiAccess n) s = .next (inPhase n r (failed r 0x12) s)))

/-- A walk that ends at a leaf (R217 to R219): the page holds the address, is aligned to its size of 64 KiB, 2 MiB, 256 MiB or 16 GiB, lies
within its stack, or its sixteenth within each when interleaved, and is not both replicated and interleaved. -/
def Sys2Proof.Claims.Leaves : Prop :=
  ∀ (m : Memory) (va stack base : Nat) (l : Leaf), walkFrom m va 6 0 stack base = .leaf l →
    l.va ≤ va ∧ va < l.va + l.size ∧ l.va % l.size = 0 ∧ l.size ∈ [2 ^ 16, 2 ^ 21, 2 ^ 28, 2 ^ 34] ∧
    l.base + (if l.ilv then l.size / 16 else l.size) ≤ 0xC00000000 ∧ ¬ (l.repl = true ∧ l.ilv = true)

/-- `ENTRY_PORT_REQUEST` (R215 to R222, R256, R260): a request in its turn is translated: an absent page parks it and enters a fault record; a
malformed entry answers `PAGE`, a page of a foreign colour, or a replicated one for an atomic, `PROT`, a home that is not reached
`TARGET_LOST`; else it is accepted for its home, a write then performed for the die, a store to a replicated page for every copy. A load,
store or permitted atomic of host memory goes to the host as the request of its function (R398). -/
def Sys2Proof.Claims.EntryPort : Prop :=
  ∀ (n : Nat) (s : State) (f : Flight), s.flights[n]? = some f → f.req.route = .mem → entryReady s n f = true →
    let r := f.req
    let die := dieOf r.tile
    let va := r.va.toNat
    let amo := match r.op with | .amo _ _ _ _ => true | _ => false
    let answers := fun x => exec (.entryPortRequest n) s = .next x
    (vaSpace r.va ≠ 0xF →
      (∀ s1 k, translate s die va = (s1, .absent k) →
        answers ((inPhase n r (.parked (parkOf s1 va k r.dom r.kindCode)) s1).addFault
          (pageRecord s1 die va k r.tenant r.dom r.kindCode))) ∧
      (∀ s1, translate s die va = (s1, .malformed) → answers (takenAs n r (failed r 0x11) s1)) ∧
      (∀ s1 l, translate s die va = (s1, .leaf l) →
        let owned := (s.getTenant r.tenant).colours.getLsbD l.colour.toNat
        (owned = false ∨ (amo = true ∧ l.repl = true) → answers (takenAs n r (failed r 0x10) s1)) ∧
        (owned = true → (amo = true → l.repl = false) →
          (homeReached s die (leafPlace l die va).1 = false → answers (takenAs n r (failed r 0x12) s1)) ∧
          (homeReached s die (leafPlace l die va).1 = true → r.bad = false →
            let s2 : State := { s1 with free := s1.free + 1 }
            (∀ d, r.op = .store d → l.repl = false → answers (takenAs n r (.home l) (performedAt r true false s2))) ∧
            (∀ d, r.op = .store d → l.repl = true →
              answers (takenAs n r (.copies l ((List.range 16).filter fun d => (s.getDie d).up)) s2)) ∧
            (amo = true → answers (takenAs n r (.home l) (performedAt r true false s2))) ∧
            (∀ m k, r.op = .load m k →
              (l.prop = true ∨ l.repl = true ∨ r.acq.isSome = true → answers (takenAs n r (.home l) s2)) ∧
              (answers (takenAs n r (.home l) s2) ∨
                ∃ bs, newestHeld s1 die va m = some bs ∧ bs.all Option.isSome = true ∧
                  answers (takenAs n r (.reply (bs.map fun b => b.getD 0) false none false) s2))))))) ∧
    (vaSpace r.va = 0xF →
      (∀ m k, r.op = .load m k →
        answers (takenAs n r .host { s with out := s.out ++ [.hostRequest (r.vf) r.uid] })) ∧
      (∀ d, r.op = .store d → answers (takenAs n r (.ack none)
        (performedAt r true true { s with out := s.out ++ [.hostStore (r.vf) r.va d] }))) ∧
      (∀ fn m a e, r.op = .amo fn m a e →
        (fn ∈ [.aadd, .aswp, .acas] → answers (takenAs n r .host
          (performedAt r true true { s with out := s.out ++ [.hostRequest (r.vf) r.uid] }))) ∧
        (fn ∉ [.aadd, .aswp, .acas] → answers (takenAs n r (failed r 0x10) s))))

/-- `HOME_PORT_ACCESS` and `REPLICA_WRITE` (R220, R221, R233, R240): in its turn at its stack, where the tenant owns a service slot, an access
is performed on the page's bytes: a load answers them, a store changes the bytes it gives and no other, an atomic answers the old ones and
stores the new value; a store to a replicated page is acknowledged with its last copy. -/
def Sys2Proof.Claims.HomePort : Prop :=
  ∀ (n : Nat) (s : State) (f : Flight), s.flights[n]? = some f → s.mem.wf = true →
    let r := f.req
    let die := dieOf r.tile
    (∀ l, f.phase = .home l → homeTurn s n (leafPlace l die r.va.toNat).1 r = true →
      servedAt s (leafPlace l die r.va.toNat).1 r.tenant = true →
      let a := leafAddr l die r.va.toNat
      (∀ m k, r.op = .load m k → badBulkIn s a m = false →
        exec (.homePortAccess n) s = .next (inPhase n r (.reply (readBytes s.mem a m) false none false) s)) ∧
      (∀ m k, r.op = .load m k → badBulkIn s a m = true →
        exec (.homePortAccess n) s = .next (inPhase n r (.reply [] false (some 0x13) true) s)) ∧
      (∀ d, r.op = .store d → ∃ t, exec (.homePortAccess n) s = .next (inPhase n r (.ack none) (performedAt r true true t)) ∧
        (∀ b, byteAt t b = storedOver s a d b) ∧ t = { s with mem := t.mem, badBulk := t.badBulk }) ∧
      (∀ fn, ∀ m ∈ [4, 8], ∀ x e, r.op = .amo fn m x e → badBulkIn s a m = false →
        let old := readBytes s.mem a m
        ∃ t, exec (.homePortAccess n) s = .next (inPhase n r
            (.reply old (decide ((dwordOf old).toNat % 2 ^ (8 * m) = e.toNat % 2 ^ (8 * m))) none false) (performedAt r true true t)) ∧
          (∀ b, byteAt t b = match amoNew fn m (dwordOf old) x e with
            | some new => storedOver s a ((bytesOf m new).map some) b
            | none => byteAt s b))) ∧
    (∀ l left copy d, f.phase = .copies l left → r.op = .store d → copy < 16 → copy ∈ left → homeTurn s n copy r = true →
      servedAt s copy r.tenant = true →
      let rest := left.filter (· ≠ copy)
      ∃ t, exec (.replicaWrite n copy) s = .next (inPhase n r (if rest = [] then .ack none else .copies l rest)
          (performedAt r (decide (copy = die)) (decide (rest = [])) t)) ∧
        (∀ b, byteAt t b = storedOver s (bulkBase copy + l.base + (r.va.toNat - l.va)) d b))

/-- `PCIE_COMPLETION` (R256, R260): the host's answer becomes the reply of the request; a refusal answers `PROT`, of an
atomic after it was performed, and of a load by the model's choice (log entry 64). -/
def Sys2Proof.Claims.HostAnswers : Prop :=
  ∀ (n : Nat) (s : State) (f : Flight) (bytes : List Byte), s.flights[n]? = some f → f.phase = .host →
    ((∀ fn m a e, f.req.op ≠ .amo fn m a e) → exec (.pcieCompletion n false bytes) s = .next (inPhase n f.req (failed f.req 0x10) s)) ∧
    (∀ fn m a e, f.req.op = .amo fn m a e →
      exec (.pcieCompletion n false bytes) s = .next (inPhase n f.req (.reply [] false (some 0x10) false) s)) ∧
    (∀ m k, f.req.op = .load m k → bytes.length = m →
      exec (.pcieCompletion n true bytes) s = .next (inPhase n f.req (.reply bytes false none false) s)) ∧
    (∀ fn, ∀ m ∈ [4, 8], ∀ a e, f.req.op = .amo fn m a e → bytes.length = m →
      exec (.pcieCompletion n true bytes) s = .next (inPhase n f.req
        (.reply bytes (decide ((dwordOf bytes).toNat % 2 ^ (8 * m) = e.toNat % 2 ^ (8 * m))) none false) s))

/-- The fault buffer (R222 to R224): a new record enters it, or is held while it has 4,096; a held one is written when there is room; a flush
raises FGEN, discards the records of KIND 1 to 3 (log entry 60) and lets every parked walk be tried again; a dismissal answers `PAGE` to the requests that its record
covers. -/
def Sys2Proof.Claims.FaultBuffer : Prop :=
  (∀ (r : FaultRec) (s : State),
    (NewFault s r → s.addFault r = if s.faults.length < 4096 then { s with faults := s.faults ++ [r] }
      else { s with heldFaults := s.heldFaults ++ [r] }) ∧
    (¬ NewFault s r → s.addFault r = s)) ∧
  (∀ (n : Nat) (s : State) (r : FaultRec), s.heldFaults[n]? = some r → s.faults.length < 4096 →
    exec (.faultRecordWrite n) s = .next (({ s with heldFaults := s.heldFaults.eraseIdx n } : State).addFault r)) ∧
  (∀ s : State, ∃ t, exec .faultFlush s = .next t ∧ t.fgen = s.fgen + 1 ∧
    t.flights = s.flights.map (fun f => match f.phase with
      | .parked p => ⟨f.req, .parked { p with retry := true }⟩
      | _ => f) ∧
    (s.owed = [] → t.faults = s.faults.filter (fun r => decide (4 ≤ r.kind.toNat)) ∧ t.mem = s.mem ∧ t.owed = [])) ∧
  (∀ (n : Nat) (s : State) (r : FaultRec), s.faults[n]? = some r → ∃ t, exec (.faultDismiss n) s = .next t ∧
    t.faults = s.faults.eraseIdx n ∧ t.mem = s.mem ∧ t.fgen = s.fgen ∧
    t.flights = s.flights.map (fun f => match f.phase with
      | .parked p => if p.level = r.level.toNat ∧ p.region = r.region ∧ p.dom = r.dom ∧ p.kind = r.kind ∧ p.fgen = r.fgen
          then ⟨f.req, failed f.req 0x11⟩ else f
      | _ => f))

/-- `INVALIDATION` and `INVALIDATION_ACKNOWLEDGE` (R224): every die's cache drops the entries that overlap the range; the invalidation is
acknowledged only when no request that was translated with such an entry has still to be performed. -/
def Sys2Proof.Claims.Invalidations : Prop :=
  (∀ (lo hi : VA) (s : State), ∃ (t : State) (v : Inval), exec (.invalidation lo hi) s = .next t ∧ t.invals = s.invals ++ [v] ∧
    v.lo = lo.toNat ∧ v.hi = hi.toNat ∧ t.mem = s.mem ∧ t.flights = s.flights ∧
    (∀ d : Fin 16, t.dies[d].invSeq = s.dies[d].invSeq + 1 ∧
      ∀ l, l ∈ t.dies[d].tlb ↔ l ∈ s.dies[d].tlb ∧ (hi.toNat < l.va ∨ l.va + l.size ≤ lo.toNat)) ∧
    (∀ f ∈ s.flights, ∀ l, f.phase = .home l → l.va ≤ hi.toNat → lo.toNat < l.va + l.size → f.req.uid ∈ v.uids)) ∧
  (∀ (n : Nat) (s : State) (v : Inval), s.invals[n]? = some v →
    let owes := ∃ f ∈ s.flights, f.req.uid ∈ v.uids ∧ f.phase.usesLeaf v.lo v.hi = true
    (¬ owes → exec (.invalidationAcknowledge n) s = .next { s with invals := s.invals.eraseIdx n }) ∧
    (owes → exec (.invalidationAcknowledge n) s = .next s))

/-- `BULK_WINDOW_ACCESS` (R396, R405): through BAR2, which boot opens with its last step, the host reads and writes the bound tenant's bulk
memory from the function's base; an access beyond 16 GiB, or of a function with no tenant, is refused. One that is not refused waits where
the tenant owns no service slot of a stack (R221). That an absent page and one of another colour refuse it is the model's choice (log
entry 65). -/
def Sys2Proof.Claims.BulkWindow : Prop :=
  ∀ (vf off : Nat) (s : State), vf < 256 →
    let q := SMap.get (512, 0) s.vfs vf
    let tenant := (SMap.get (512, 0) s.queues q.1).1
    let open_ := s.boot.stage = 8 ∧ tenant < 512
    (∀ n, 2 ^ 34 < off + n ∨ ¬ open_ → exec (.bulkWindowAccess vf off n none) s = .next (answered .refused s)) ∧
    (∀ (n : Nat) (bs : List Byte), 2 ^ 34 < off + bs.length ∨ ¬ open_ →
      exec (.bulkWindowAccess vf off n (some bs)) s = .next (answered .refused s)) ∧
    (off + 1 ≤ 2 ^ 34 → open_ →
      (∀ s1 bs, portRead s 16 (q.2.toNat + off) 1 tenant = (s1, .ok bs) →
        exec (.bulkWindowAccess vf off 1 none) s = .next (answered (.bytes bs) s1)) ∧
      (∀ s1, portRead s 16 (q.2.toNat + off) 1 tenant = (s1, .error .busy) → exec (.bulkWindowAccess vf off 1 none) s = .next s) ∧
      (∀ n b s1, portWrite s 16 (q.2.toNat + off) [some b] tenant = (s1, none) →
        exec (.bulkWindowAccess vf off n (some [b])) s = .next s1) ∧
      (∀ n b s1, portWrite s 16 (q.2.toNat + off) [some b] tenant = (s1, some .busy) →
        exec (.bulkWindowAccess vf off n (some [b])) s = .next s)) ∧
    (∀ n, off + n ≤ 2 ^ 34 → open_ → exec (.bulkWindowAccess vf off n none) s = .next s ∨
      ∃ (t : State) (o : Out), exec (.bulkWindowAccess vf off n none) s = .next t ∧
        t.out = s.out ++ [o] ∧ t.mem = s.mem ∧ (o = .refused ∨ ∃ bs, o = .bytes bs ∧ bs.length = n)) ∧
    (∀ n, off + n ≤ 2 ^ 34 → open_ → (∀ stack < 16, servedAt s stack tenant = true) →
      (∀ f ∈ s.flights, dieOf f.req.tile ≠ 16) → ∃ t : State,
        exec (.bulkWindowAccess vf off n none) s = .next t ∧ t.out.length = s.out.length + 1 ∧ t.mem = s.mem)

/-- Events of memory.
The clauses are `Sys2Proof.Claims.Replies`, `Sys2Proof.Claims.Acknowledgements`, `Sys2Proof.Claims.HomeAccess`,
`Sys2Proof.Claims.Leaves`, `Sys2Proof.Claims.EntryPort`, `Sys2Proof.Claims.HomePort`, `Sys2Proof.Claims.HostAnswers`,
`Sys2Proof.Claims.FaultBuffer`, `Sys2Proof.Claims.Invalidations`, `Sys2Proof.Claims.BulkWindow`. -/
def Obligations.MemoryEvents : Prop :=
  Sys2Proof.Claims.Replies ∧
  Sys2Proof.Claims.Acknowledgements ∧
  Sys2Proof.Claims.HomeAccess ∧
  Sys2Proof.Claims.Leaves ∧
  Sys2Proof.Claims.EntryPort ∧
  Sys2Proof.Claims.HomePort ∧
  Sys2Proof.Claims.HostAnswers ∧
  Sys2Proof.Claims.FaultBuffer ∧
  Sys2Proof.Claims.Invalidations ∧
  Sys2Proof.Claims.BulkWindow

/-! ## Events: engines -/

namespace Sys2Proof.Claims

/-- Element `i` of the bit-plane block at byte `off` (R53): plane b − 1 of a signed block carries weight −2^(b−1). -/
def planeValue (bs : List Byte) (off b : Nat) (signed : Bool) (i : Nat) : Int :=
  ((List.range b).map fun (j : Nat) =>
    if (bs.getD (off + 8 * j + i / 8) 0).getLsbD (i % 8) then (if signed = true ∧ j = b - 1 then -(2 : Int) ^ j else 2 ^ j) else 0).sum

/-- s_j of R276, for the A block at byte `aOff` of what the command read. -/
def dotSum (r : PlaneRun) (aOff j : Nat) : Int :=
  let cfg := r.cmd.cfg
  let a := (cfg.extractLsb' 0 3).toNat + 1
  let b := (cfg.extractLsb' 4 3).toNat + 1
  let column := (8 * b + if cfg.getLsbD 8 then 8 else 0) * j
  ((List.range 64).map fun (i : Nat) =>
    planeValue r.a aOff a (cfg.getLsbD 3) i * planeValue r.b column b (cfg.getLsbD 7) i).sum

/-- The row element after an addition in integer mode, and whether it saturated (R276). -/
def satAdded (r : PlaneRun) (aOff : Nat) (row : Vector Word 8) (j : Nat) : Word × Bool :=
  let x := (row.toList.getD j 0).toInt + dotSum r aOff j
  (BitVec.ofInt 32 (max (-2 ^ 31) (min (2 ^ 31 - 1) x)), decide (x < -2 ^ 31 ∨ 2 ^ 31 ≤ x))

/-- The scale doubleword at a byte: its exponent field, and its value (R54). -/
def wideE (bs : List Byte) (off : Nat) : Nat := (dwordOf ((bs.drop off).take 8)).toNat / 2 ^ 12 % 256
def wideS (bs : List Byte) (off : Nat) : FVal :=
  .fin false (4096 + (dwordOf ((bs.drop off).take 8)).toNat % 4096) ((wideE bs off : Int) - 127 - 12)

/-- The row element after an addition in block mode (R277): one rounding of the exact sum. -/
def blockAdded (r : PlaneRun) (aOff : Nat) (row : Vector Word 8) (j : Nat) : Word :=
  let a := (r.cmd.cfg.extractLsb' 0 3).toNat + 1
  let b := (r.cmd.cfg.extractLsb' 4 3).toNat + 1
  let offA := aOff + 8 * a
  let offB := (8 * b + 8) * j + 8 * b
  let x := dotSum r aOff j
  let c : FVal :=
    if wideE r.a offA = 255 ∨ wideE r.b offB = 255 then .nan
    else if wideE r.a offA = 0 ∨ wideE r.b offB = 0 then .fin false 0 0
    else ((FVal.fin (decide (x < 0)) x.natAbs 0).mul (wideS r.a offA)).mul (wideS r.b offB)
  BitVec.ofNat 32 (fp32.encode 0 ((fp32.decode (row.toList.getD j 0).toNat).add c))

/-- NE falls for the context that issued the command, while it is there. -/
def neDown (t k run : Nat) (s : State) : State :=
  s.modSlotAt t k fun sl => if sl.run = run then { sl with ne := sl.ne - 1 } else sl

/-- Bytes of a span as the plane array reads them (R273, R303): eight at a time, zeros from a granule of another tag. -/
def SpanTaken (s : State) (t : Nat) (g : BitVec 12) (a n : Nat) (bs : List Byte) : Prop :=
  bs.length = n ∧ ∀ j < n / 8,
    ((s.getTile t).tagClass g ((a + 8 * j) / 32) = .own → (s.getTile t).badIn (a + 8 * j) 8 = none →
      (bs.drop (8 * j)).take 8 = readBytes s.mem (spadBase t + (a + 8 * j)) 8) ∧
    ((s.getTile t).tagClass g ((a + 8 * j) / 32) ≠ .own → (bs.drop (8 * j)).take 8 = List.replicate 8 0)

/-- Element `i` of a `PPACK` source, and the element clamped to `b` bits (R302). -/
def packSource (cfg : BitVec 9) (bs : List Byte) (i : Nat) : Int :=
  let w := if cfg.getLsbD 4 then 16 else 8
  let u := if cfg.getLsbD 4 then (bs.getD (2 * i) 0).toNat + 256 * (bs.getD (2 * i + 1) 0).toNat else (bs.getD i 0).toNat
  if cfg.getLsbD 3 = true ∧ 2 ^ (w - 1) ≤ u then (u : Int) - 2 ^ w else u
def packClamped (cfg : BitVec 9) (bs : List Byte) (i : Nat) : Int :=
  let b := (cfg.extractLsb' 0 3).toNat + 1
  if cfg.getLsbD 3 then max (-2 ^ (b - 1)) (min (2 ^ (b - 1) - 1) (packSource cfg bs i))
  else max 0 (min (2 ^ b - 1) (packSource cfg bs i))

/-- The address of doubleword `i` of a copy on a side (Table 16.1, R284). -/
def copySpot (src : Bool) (d : Vector DWord 4) (i : Nat) : Int :=
  let row := (d[2].extractLsb' 0 24).toNat / 8
  let stride := if src then (d[3].extractLsb' 32 32).toInt else (d[3].extractLsb' 0 32).toInt
  ((if src then d[0] else d[1]).extractLsb' 0 15).toNat + stride * (i / row : Nat) + 8 * (i % row : Nat)

/-- A local side of a copy lies in scratchpad granules of the command's generation. -/
def SideOwn (s : State) (t : Nat) (c : Copy) (src : Bool) (n : Nat) : Prop :=
  ∀ i < n, 0 ≤ copySpot src c.dw i ∧ copySpot src c.dw i ≤ 32760 ∧ copySpot src c.dw i % 8 = 0 ∧
    (s.getTile t).tagClass ((s.getTile t).slot c.slot).gen ((copySpot src c.dw i).toNat / 32) = .own

/-- The VA of doubleword `i` of a side of a copy that is no scratchpad's (Table 16.1, R282). -/
def copyVa (src : Bool) (d : Vector DWord 4) (i : Nat) : Nat :=
  let row := (d[2].extractLsb' 0 24).toNat / 8
  let stride := if src then (d[3].extractLsb' 32 32).toInt else (d[3].extractLsb' 0 32).toInt
  let start := if src then (d[2].extractLsb' 56 8).toNat * 2 ^ 64 + d[0].toNat else (d[2].extractLsb' 48 8).toNat * 2 ^ 64 + d[1].toNat
  ((start : Int) + stride * (i / row : Nat) + 8 * (i % row : Nat)).toNat

/-- A copy's window access to a tile is performed there: the rank's circuit is there and free for it, and the tile holds a launch of the
tenant, in whose generation `g` and policy it is performed (R256, R284, R285). -/
def WindowHome (c : Copy) (t va : Nat) (s : State) (dst : Nat) (g : BitVec 12) (strict : Bool) : Prop :=
  let v := BitVec.ofNat 72 va
  let e := windowHome s t v
  va / 2 ^ 68 % 16 = 12 ∧ windowOpenTo s c t v = true ∧ windowQueued s c t v = false ∧ dst = e.tileNo s.modNo ∧ dst < tileCount ∧
    homeIdentity (s.getTile dst) e.slot.toNat c.tenant = some (g, strict)

/-- Doubleword `i` of the source is read (R284, R285): from the scratchpad in the context's generation, from bulk memory through the die's
port, from a tile window at its home, or from a loft or a device block. -/
def ReadsDw (c : Copy) (t i : Nat) (s : State) (bs : List Byte) (s1 : State) : Prop :=
  let va := copyVa true c.dw i
  bs.length = 8 ∧
  if c.dw[2].getLsbD 47 then
    let a := (copySpot true c.dw i).toNat
    s.spRead t ((s.getTile t).genFor c.slot c.run) false a 8 = .ok bs ∧ s1 = s.correctAt t a 8
  else
    (va / 2 ^ 68 % 16 < 12 ∧ portRead s (dieOf t) va 8 c.tenant = (s1, .ok bs)) ∨
    (∃ dst g strict, WindowHome c t va s dst g strict ∧ s.spRead dst g strict (va % 2 ^ 15) 8 = .ok bs ∧ s1 = s.correctAt dst (va % 2 ^ 15) 8) ∨
    (va / 2 ^ 68 % 16 ∈ [13, 14] ∧ configRead (BitVec.ofNat 72 va) 8 s = .ok (bs, s1))

/-- Doubleword `i` of the destination is written, with the bytes given. -/
def WritesDw (c : Copy) (t i : Nat) (s : State) (bs : List Byte) (s1 : State) : Prop :=
  let va := copyVa false c.dw i
  let v := BitVec.ofNat 72 va
  if c.dw[2].getLsbD 46 then
    s.spWrite t ((s.getTile t).genFor c.slot c.run) (copySpot false c.dw i).toNat (bs.map some) = .ok s1
  else
    (va / 2 ^ 68 % 16 < 12 ∧ portWrite s (dieOf t) va (bs.map some) c.tenant = (s1, none)) ∨
    (∃ dst g strict u, WindowHome c t va s dst g strict ∧ s.spWrite dst g (va % 2 ^ 15) (bs.map some) = .ok u ∧
      s1 = markPerformed (engineReq c t v (.store (bs.map some)) s) true true u) ∨
    (va / 2 ^ 68 % 16 ∈ [13, 14] ∧ configWrite v (bs.map some) s = .ok s1) ∨
    (va / 2 ^ 68 % 16 = 15 ∧ s1 = { s with out := s.out ++ [.hostStore (tileVf s t) v (bs.map some)] })

/-- The doublewords from `i` on are moved one after another, each to its place (R284). -/
def MoveAll (c : Copy) (t : Nat) : Nat → Nat → State → State → Prop
  | 0, _, s, s' => s' = s
  | n + 1, i, s, s' => ∃ bs s1 s2, ReadsDw c t i s bs s1 ∧ WritesDw c t i s1 bs s2 ∧ MoveAll c t n (i + 1) s2 s'

/-- Doublewords from `i` on are read, or written. -/
def ReadAll (c : Copy) (t : Nat) : List (List Byte) → Nat → State → State → Prop
  | [], _, s, s' => s' = s
  | bs :: rest, i, s, s' => ∃ s1, ReadsDw c t i s bs s1 ∧ ReadAll c t rest (i + 1) s1 s'
def WriteAll (c : Copy) (t : Nat) : List (List Byte) → Nat → State → State → Prop
  | [], _, s, s' => s' = s
  | bs :: rest, i, s, s' => ∃ s1, WritesDw c t i s bs s1 ∧ WriteAll c t rest (i + 1) s1 s'
/-- Chunks of up to 4,096 bytes of a copy of `total` doublewords are read and written, one after another: the destination gets the very
bytes that the source gave (R287). -/
def MoveChunks (c : Copy) (t total : Nat) : List (List (List Byte)) → Nat → State → State → Prop
  | [], i, s, s' => i = total ∧ s' = s
  | x :: rest, i, s, s' => x.length = min (total - i) (512 - i % 512) ∧
      ∃ s1 s2, ReadAll c t x i s s1 ∧ WriteAll c t x i s1 s2 ∧ MoveChunks c t total rest (i + x.length) s2 s'

/-- An E2M1 code doubled, an int8 byte: element `i` of a row of a bin's type (R51, R293). -/
def mxValue (wide : Bool) (bs : List Byte) (i : Nat) : Int :=
  if wide then (bs.getD i 0).toInt
  else
    let code := (bs.getD (i / 2) 0).toNat / 16 ^ (i % 2) % 16
    let m : Int := if code % 8 < 4 then code % 8 else if code % 8 = 4 then 4 else if code % 8 = 5 then 6 else if code % 8 = 6 then 8 else 12
    if code < 8 then m else -m
/-- p[b] of R293. -/
def mxDot (wide : Bool) (w : WeightRow) (x : List Byte) (b : Nat) : Int :=
  ((List.range 32).map fun (i : Nat) => mxValue wide w.elems (32 * b + i) * mxValue wide x (32 * b + i)).sum

/-- The command has left the granary, with a record of its status. -/
def granFinished (n : Nat) (r : GranReq) (status : Nat) (s : State) : State :=
  { s with gran := s.gran.eraseIdx n }.complete r.tile r.slot r.run (if r.load then 5 else 6) status 0 r.block
    (BitVec.ofNat 64 (dieOf r.tile / 2 * 4096 + r.dw[1].toNat % 4096))

end Sys2Proof.Claims

/-- `PLANE_COMMAND_START` (R139, R231, R273, R274, R303, R386, R414): the head of the queue starts while fewer than eight are started, no `PPACK`
or `PUNPK` occupies the array, the stook does not throttle the tile and its launch is released; its operand bytes are taken then; a word
among them that fails its check is reported to its context, and one that the code corrects awaits its write-back. -/
def Sys2Proof.Claims.PlaneStart : Prop :=
  ∀ (t : Nat) (s : State) (c : PlaneCmd) (rest : List PlaneCmd), t < tileCount → (s.getTile t).planeQ = c :: rest →
    let tl := s.getTile t
    let g := tl.genFor c.slot c.run
    (8 ≤ tl.planeRun.length ∨ tl.arrayBusy = true ∨ tl.frozen = true ∨ tileReleased s t = false → exec (.planeCommandStart t) s = .next s) ∧
    (tl.planeRun.length < 8 → tl.arrayBusy = false → tl.frozen = false → tileReleased s t = true → ∃ r : PlaneRun, r.cmd = c ∧
      (∀ sp, c.reads[0]? = some sp → SpanTaken s t g sp.1 sp.2 r.a) ∧
      (∀ sp, c.reads[1]? = some sp → SpanTaken s t g sp.1 sp.2 r.b) ∧
      let started := c.reads.foldl (fun x sp => x.correctAt t sp.1 sp.2)
        (s.setTile t { tl with planeQ := rest, planeRun := tl.planeRun ++ [r] })
      (r.bad = none → exec (.planeCommandStart t) s = .next started) ∧
      (∀ a, r.bad = some a → exec (.planeCommandStart t) s = .next (started.modSlotAt t c.slot fun sl =>
        if sl.run = c.run then { sl with perr := sl.perr ++ [⟨⟨0x13, BitVec.ofNat 64 a, ⟨true, false, 0, 0⟩⟩⟩] } else sl)) ∧
      ((∀ sp ∈ c.reads, ∀ j < sp.2 / 8, tl.tagClass g ((sp.1 + 8 * j) / 32) = .own → tl.badIn (sp.1 + 8 * j) 8 = none) → r.bad = none))

/-- `PDOT_ADDITION` (R274, R276, R277, R279, R414): the oldest started `PDOT` adds its sums into its row, in dual form its second A block into
the next one; in integer mode each sum saturates and MASAT tells it, in block mode each is rounded once; no other row changes; where it
read a bad word it adds nothing; NE falls; a released owner's ownership ends with its last `PDOT`. A throttled array adds nothing. -/
def Sys2Proof.Claims.PlaneSums : Prop :=
  ∀ (t : Nat) (s : State) (before after : List PlaneRun) (r : PlaneRun), t < tileCount →
    (s.getTile t).planeRun = before ++ r :: after → (∀ x ∈ before, x.cmd.kind ≠ .pdot) → r.cmd.kind = .pdot →
    ((s.getTile t).frozen = true → exec (.pdotAddition t) s = .next s) ∧
    ((s.getTile t).frozen = false →
    let tl := s.getTile t
    let dual := decide (r.cmd.cfg.extractLsb' 0 3 = 0 ∧ r.cmd.cfg.extractLsb' 4 3 = 0)
    let second := 8 + if r.cmd.cfg.getLsbD 8 then 8 else 0
    let owed := (tl.planeQ ++ (before ++ after).map (·.cmd)).any (·.kind == .pdot)
    ∃ (ma : Vector (Vector Word 8) 8) (sat : Bool),
      exec (.pdotAddition t) s = .next (neDown t r.cmd.slot r.cmd.run (s.setTile t
        { tl with planeRun := before ++ after, ma := ma, masat := sat,
                  owner := if tl.rel = true ∧ owed = false then none else tl.owner,
                  rel := if tl.rel = true ∧ owed = false then false else tl.rel })) ∧
      (r.bad ≠ none → ma = tl.ma ∧ sat = tl.masat) ∧
      (r.bad = none → ∀ q : BitVec 3,
        let old := tl.ma[q.toNat]'q.isLt
        let new := ma[q.toNat]'q.isLt
        let add := fun (off : Nat) => if r.cmd.cfg.getLsbD 8 then ∀ j : Nat, j < 8 → new.toList.getD j 0 = blockAdded r off old j
          else ∀ j : Nat, j < 8 → new.toList.getD j 0 = (satAdded r off old j).1 ∧ ((satAdded r off old j).2 = true → sat = true)
        (q = r.cmd.row → add 0) ∧ (dual = true → q = r.cmd.row + 1 → add second) ∧
        (q ≠ r.cmd.row → (dual = true → q ≠ r.cmd.row + 1) → new = old)) ∧
      (tl.masat = true → sat = true) ∧
      (r.cmd.cfg.getLsbD 8 = true → sat = tl.masat) ∧
      (sat = true → tl.masat = true ∨ ∃ j < 8, (satAdded r 0 (tl.ma[r.cmd.row.toNat]'r.cmd.row.isLt) j).2 = true ∨
        (dual = true ∧ (satAdded r second (tl.ma[(r.cmd.row + 1).toNat]'(r.cmd.row + 1).isLt) j).2 = true)))

/-- `PACK_WRITE` (R302, R303): the bytes go to the destination, no byte elsewhere changes, the command is finished and NE falls; after a bad
word it writes nothing. `PPACK` clamps each element and lays its bits out in planes; `PUNPK` gives each element back. -/
def Sys2Proof.Claims.PackWrites : Prop :=
  (∀ (t : Nat) (s : State) (before after : List PlaneRun) (r : PlaneRun), t < tileCount → s.mem.wf = true →
    (s.getTile t).planeRun = before ++ r :: after → (∀ x ∈ before, x.cmd.kind = .pdot) → r.cmd.kind ≠ .pdot →
    (s.getTile t).frozen = false → SMap.wfFrom Tile.reset 0 s.others = true →
    let tl := s.getTile t
    let c := r.cmd
    let done := s.setTile t { tl with planeRun := before ++ after }
    let out := packOutput r
    (r.bad ≠ none → exec (.packWrite t) s = .next (neDown t c.slot c.run done)) ∧
    (r.bad = none → tl.bad = [] → c.ea2.toNat + out.length ≤ 32768 →
      (∀ x < out.length, tl.tagClass (tl.genFor c.slot c.run) ((c.ea2.toNat + x) / 32) = .own) →
      ∃ u, exec (.packWrite t) s = .next (neDown t c.slot c.run u) ∧
        (u.getTile t).planeRun = before ++ after ∧
        ∀ b, byteAt u b = if spadBase t + c.ea2.toNat ≤ b ∧ b < spadBase t + c.ea2.toNat + out.length
          then out.getD (b - (spadBase t + c.ea2.toNat)) 0 else byteAt s b)) ∧
  (∀ r : PlaneRun,
    let cfg := r.cmd.cfg
    let b := (cfg.extractLsb' 0 3).toNat + 1
    (r.cmd.kind = .ppack → (packOutput r).length = 8 * b ∧ ∀ i < 64, ∀ j < b,
      ((packOutput r).getD (8 * j + i / 8) 0).getLsbD (i % 8) = (BitVec.ofInt 8 (packClamped cfg r.a i)).getLsbD j) ∧
    (r.cmd.kind = .punpk →
      (cfg.getLsbD 4 = false → (packOutput r).length = 64 ∧ ∀ i < 64,
        ((packOutput r).getD i 0).toInt % 256 = planeValue r.a 0 b (cfg.getLsbD 3) i % 256) ∧
      (cfg.getLsbD 4 = true → (packOutput r).length = 128 ∧ ∀ i < 64,
        (((packOutput r).getD (2 * i) 0).toNat + 256 * ((packOutput r).getD (2 * i + 1) 0).toNat : Int)
          = planeValue r.a 0 b (cfg.getLsbD 3) i % 65536)))

/-- `COPY_START` (R281): while a bay's engine runs fewer than eight commands, the oldest head command of a waiting tile starts, the lower tile
first among equals. That the command leaves its tile's queue when it starts is the model's choice (log entry 58). -/
def Sys2Proof.Claims.CopyStarts : Prop :=
  ∀ (bay : Nat) (s : State), bay < 10240 →
    (8 ≤ copiesRunning s bay → exec (.copyStart bay) s = .next s) ∧
    (∀ (t : Nat) (c : Copy) (rest : List Copy), copiesRunning s bay < 8 → bayOf t = bay →
      (s.getTile t).copyQ = c :: rest → (s.getTile t).copyRun = none →
      (∀ u d ds, bayOf u = bay → u ≠ t → (s.getTile u).copyQ = d :: ds → (s.getTile u).copyRun = none →
        c.order < d.order ∨ (c.order = d.order ∧ t < u)) →
      exec (.copyStart bay) s = .next (s.setTile t { s.getTile t with copyRun := some c, copyQ := rest }))

/-- `COPY_COMPLETION` (R284 to R286): a copy within the tile's scratchpad moves each doubleword to its place, changes no other byte, and its
record has KIND 1, STATUS 0 and the block; one that stops names its status and the VA; one that meets an absent page is parked with a
record of KIND 1 or 2; one that must wait for its circuit or home goes on later from where it stood; a dismissed one ends with STATUS 2. A
copy of any sides moves each doubleword, read at its place on the source, to its place on the destination, coded or not. The generation that
a command of an ended context takes is the model's choice (log entry 75). -/
def Sys2Proof.Claims.CopyEnds : Prop :=
  ∀ (t : Nat) (s : State) (c : Copy), t < tileCount → (s.getTile t).copyRun = some c →
    let n := (c.dw[2].extractLsb' 24 16).toNat * ((c.dw[2].extractLsb' 0 24).toNat / 8)
    let ended := fun (s1 : State) (status va : Nat) =>
      (s1.modTile t fun tl => { tl with copyRun := none }).complete t c.slot c.run 1 status (BitVec.ofNat 8 (va / 2 ^ 64)) c.block
        (BitVec.ofNat 64 va)
    let plain := c.waits = false ∧ c.dismissed = false ∧ copyFar c t s = false ∧ c.pos ≤ n
    let parked := fun (pos va k : Nat) (kind : BitVec 4) (s1 : State) => (s1.modTile t fun tl =>
      { tl with copyRun := some { c with pos := pos, park := some (parkOf s1 va k c.dom kind) } }).addFault
        (pageRecord s1 (dieOf t) va k c.tenant c.dom kind)
    (plain → c.dw[2].getLsbD 45 = false → ∀ s1, MoveAll c t (n - c.pos) c.pos s s1 → exec (.copyCompletion t) s = .next (ended s1 0 0)) ∧
    (plain → c.dw[2].getLsbD 45 = true → ∀ cs s1, MoveChunks c t n cs c.pos s s1 → exec (.copyCompletion t) s = .next (ended s1 0 0)) ∧
    (plain → c.dw[2].getLsbD 45 = false → c.dw[2].getLsbD 47 = false → ∀ k s1, c.pos + k < n → MoveAll c t k c.pos s s1 →
      let va := copyVa true c.dw (c.pos + k)
      va / 2 ^ 68 % 16 < 12 →
      (∀ x s2, portRead s1 (dieOf t) va 8 c.tenant = (s2, .error (.err x)) → exec (.copyCompletion t) s =
        .next (ended s2 (if x = 0x11 then 2 else if x = 0x10 then 3 else if x = 0x12 then 4 else 7) va)) ∧
      (∀ l s2, portRead s1 (dieOf t) va 8 c.tenant = (s2, .error (.absent l)) →
        exec (.copyCompletion t) s = .next (parked (c.pos + k) va l 1 s2)) ∧
      (∀ s2, portRead s1 (dieOf t) va 8 c.tenant = (s2, .error .busy) → exec (.copyCompletion t) s =
        .next (s2.modTile t fun tl => { tl with copyRun := some { c with pos := c.pos + k, park := none } }))) ∧
    (plain → c.dw[2].getLsbD 45 = false → c.dw[2].getLsbD 46 = true → ∀ k s1 s2 bs e, c.pos + k < n → MoveAll c t k c.pos s s1 →
      ReadsDw c t (c.pos + k) s1 bs s2 →
      let a := (copySpot false c.dw (c.pos + k)).toNat
      s2.spWrite t ((s2.getTile t).genFor c.slot c.run) a (bs.map some) = .error e → e.cause = 0x06 →
      exec (.copyCompletion t) s = .next (ended s2 6 a)) ∧
    (c.park = none → c.pos = 0 → c.dw[2].getLsbD 47 = true → c.dw[2].getLsbD 46 = true → s.mem.wf = true → (s.getTile t).bad = [] →
      ((s.getTile t).slot c.slot).run = c.run → SideOwn s t c true n → SideOwn s t c false n →
      (∀ i < n, ∀ j < n, copySpot true c.dw i ≠ copySpot false c.dw j) →
      (∀ i < n, ∀ j < n, copySpot false c.dw i = copySpot false c.dw j → i = j) →
      ∃ s1, exec (.copyCompletion t) s = .next (ended s1 0 0) ∧
        (∀ i < n, readBytes s1.mem (spadBase t + (copySpot false c.dw i).toNat) 8
          = readBytes s.mem (spadBase t + (copySpot true c.dw i).toNat) 8) ∧
        (∀ b, (∀ i < n, b < spadBase t + (copySpot false c.dw i).toNat ∨ spadBase t + (copySpot false c.dw i).toNat + 8 ≤ b) →
          byteAt s1 b = byteAt s b)) ∧
    (c.waits = false → c.dismissed = false → copyFar c t s = false →
      (c.dw[2].getLsbD 45 = false → copyRest c t s = copyFrom c t (n - c.pos) c.pos s) ∧
      (∀ st va s1, copyRest c t s = .fail st va s1 → exec (.copyCompletion t) s = .next (ended s1 st va)) ∧
      (∀ pos s1, copyRest c t s = .busy pos s1 → exec (.copyCompletion t) s =
        .next (s1.modTile t fun tl => { tl with copyRun := some { c with pos := pos, park := none } })) ∧
      (∀ k va pos w s1, copyRest c t s = .park k va pos w s1 →
        let kind : BitVec 4 := if w then 2 else 1
        exec (.copyCompletion t) s = .next ((s1.modTile t fun tl =>
          { tl with copyRun := some { c with pos := pos, park := some (parkOf s1 va k c.dom kind) } }).addFault
            (pageRecord s1 (dieOf t) va k c.tenant c.dom kind)))) ∧
    (c.dismissed = true → c.waits = false → exec (.copyCompletion t) s = .next (ended s 2 (copyStuck c))) ∧
    (c.waits = true → exec (.copyCompletion t) s = .next s)

/-- Exponent coding (R287 to R289): a chunk of up to 4,096 bytes travels as a header with ESC and N, then either its words as they are
behind ESC = 1, or the length table, the codes and the raw parts in no more words than it has; and the far end gives back the very bytes. -/
def Sys2Proof.Claims.CodedChunks : Prop :=
  ∀ (xt : Bool) (bs : List Byte), bs.length % 8 = 0 → bs.length ≤ 4096 →
    let ws := chunkWords xt bs
    let h := (ws.getD 0 0).toNat
    let us := elemsOf xt (elemCount xt bs) bs
    let lens := chosenLengths (us.map (expPart xt))
    chunkBytes xt bs.length ws = bs ∧
    h % 2 ^ 40 = 0 ∧ h / 2 ^ 40 % 2 ^ 13 = bs.length / (if xt then 4 else 2) ∧ h / 2 ^ 53 % 2 ^ 10 = 0 ∧
    (h / 2 ^ 63 = 1 → ws.length = bs.length / 8 + 1 ∧ ∀ k < bs.length / 8, ws.getD (k + 1) 0 = dwordOf ((bs.drop (8 * k)).take 8)) ∧
    (h / 2 ^ 63 = 0 → ws = codedChunk xt lens us ∧ ws.length = codedSize xt lens (us.map (expPart xt)) ∧ ws.length ≤ bs.length / 8) ∧
    (h / 2 ^ 63 = 1 ↔ bs.length / 8 < codedSize xt lens (us.map (expPart xt)))

/-- `GRANARY_LOAD` (R290, R292, R312): in its turn at its bin a load of another tenant's bin, or of a tile with no granary circuit, ends with
STATUS 8; one whose slab is read places its bytes, TYPE, ROWS and the tenant's BG as TAG, and ends with STATUS 0; one that meets an absent
page is parked with a record of KIND 1; one that fails ends with the failure's STATUS, one whose page was dismissed with 2, and the bin stays
as it was. The bin-cycles of a load are free (log entry 53). -/
def Sys2Proof.Claims.GranaryLoads : Prop :=
  (∀ (n : Nat) (s : State) (r : GranReq), s.gran[n]? = some r → r.load = true → granFirst s n r = true → r.waits = false →
    let g := dieOf r.tile / 2
    let bin := r.dw[1].toNat % 4096
    let wide := r.dw[1].getLsbD 32
    let rows := r.dw[1].toNat / 2 ^ 16 % 512 + 1
    let va := r.dw[1].toNat / 2 ^ 56 * 2 ^ 64 + r.dw[0].toNat
    let slab := slabRead r (rows * (if wide then 132 else 68)) va s
    (granPermitted s r = false → exec (.granaryLoad n) s = .next (granFinished n r 8 s)) ∧
    (granPermitted s r = true → r.dismissed = true → exec (.granaryLoad n) s = .next (granFinished n r 2 s)) ∧
    (granPermitted s r = true → r.dismissed = false →
      (∀ s1 bs x, slab = (.ok bs s1, x) →
        let key := g * 4096 + bin
        let b : Bin := ⟨(SMap.get Bin.reset s1.bins key).tenant, SMap.get 0 s1.bg (g * 512 + r.tenant), wide, BitVec.ofNat 10 (rows - 1)⟩
        ∃ cycles, exec (.granaryLoad n) s = .next (granFinished n r 0
          (({ s1 with mem := writeBytes s1.mem (binBase g bin) bs, bins := SMap.set Bin.reset s1.bins key b, free := s1.free + 1 } :
            State).hubMeter r.tenant 6 cycles))) ∧
      (∀ s1 status x, slab = (.fail status s1, x) → exec (.granaryLoad n) s = .next (granFinished n r status s1)) ∧
      (∀ s1 k x, slab = (.park k s1, x) → exec (.granaryLoad n) s = .next
        (({ s1 with gran := s1.gran.set n { r with park := some (parkOf s1 x k r.dom 1) } } : State).addFault
          (pageRecord s1 (dieOf r.tile) x k r.tenant r.dom 1))) ∧
      (∀ s1 x, slab = (.busy s1, x) → exec (.granaryLoad n) s = .next s1))) ∧
  (∀ (r : GranReq) (va : Nat) (s s1 : State), (va % 2 ^ 72) / 2 ^ 68 < 12 →
    (∀ bs, portRead s (dieOf r.tile) va 8 r.tenant = (s1, .ok bs) → copyReadVa r.asCopy r.tile va s = .ok bs s1) ∧
    (∀ c, portRead s (dieOf r.tile) va 8 r.tenant = (s1, .error (.err c)) →
      ∃ status, copyReadVa r.asCopy r.tile va s = .fail status s1 ∧
        (c = 0x11 → status = 2) ∧ (c = 0x10 → status = 3) ∧ (c = 0x12 → status = 4) ∧ (c = 0x13 → status = 7)) ∧
    (∀ k, portRead s (dieOf r.tile) va 8 r.tenant = (s1, .error (.absent k)) → copyReadVa r.asCopy r.tile va s = .park k s1))

/-- `GRANARY_COMPUTE` (R290, R293, R313): a bin that is not live gives STATUS 5 under STRICT; else each row's result is written, RAW block sums
or one rounding of the exact sum, and NaN marks where a scale is 0xFF; the compute cycles are counted, with those that the filler takes, which
are free (log entry 53). The generation that a command of an ended context takes is the model's choice (log entry 75). -/
def Sys2Proof.Claims.GranaryComputes : Prop :=
  (∀ (n : Nat) (s : State) (r : GranReq), s.gran[n]? = some r → r.load = false → granFirst s n r = true →
    let tl := s.getTile r.tile
    let g := dieOf r.tile / 2
    let bin := r.dw[1].toNat % 4096
    let b := SMap.get Bin.reset s.bins (g * 4096 + bin)
    let d := r.dw[0].toNat
    let wide := decide (d / 2 ^ 61 % 2 = 1)
    let raw := decide (d / 2 ^ 60 % 2 = 1)
    let first := d / 2 ^ 32 % 512
    let count := d / 2 ^ 48 % 512 + 1 - first
    let live := decide (b.tag = SMap.get 0 s.bg (g * 512 + r.tenant) ∧ b.type = wide)
    (granPermitted s r = false → exec (.granaryCompute n) s = .next (granFinished n r 8 s)) ∧
    (granPermitted s r = true →
      (live = false → (tl.slot r.slot).gpol = true → exec (.granaryCompute n) s = .next (granFinished n r 5 s)) ∧
      (live = true ∨ (tl.slot r.slot).gpol = false →
        ∀ x, s.spReadSpan r.tile (tl.genFor r.slot r.run) false 34 (d % 2 ^ 15) (if wide then 1056 else 544) = .ok x →
        ∀ s1, (s.correctAt r.tile (d % 2 ^ 15) (if wide then 1056 else 544)).spWriteSpan r.tile (tl.genFor r.slot r.run) 1025 (d / 2 ^ 16 % 2 ^ 15)
            ((List.range count).flatMap fun i => rowResult wide raw (binRow s g bin live (first + i)) x) = (s1, none) →
          ∃ filler, exec (.granaryCompute n) s = .next (granFinished n r 0
            (({ s1 with free := s1.free + 1 } : State).hubMeter r.tenant 6 ((if wide then count else (count + 1) / 2) + filler)))))) ∧
  (∀ (wide : Bool) (w : WeightRow) (x : List Byte),
    let scale := fun (b : Nat) => (x.getD ((if wide then 1024 else 512) + b) 0).toNat
    let isNan := fun (b : Nat) => decide ((w.scales.getD b 0).toNat = 255 ∨ scale b = 255)
    (∀ b < 32, wordOf (((rowResult wide true w x).drop (4 * b)).take 4)
      = if isNan b then 0x80000000 else BitVec.ofInt 32 (mxDot wide w x b)) ∧
    ((List.range 32).any isNan = true → wordOf (rowResult wide false w x) = 0x7FC00000) ∧
    ((List.range 32).any isNan = false → ∃ q : FVal,
      wordOf (rowResult wide false w x) = BitVec.ofNat 32 (fp32.encode 0 q) ∧
      valueOf q = some (((List.range 32).map fun (b : Nat) => (mxDot wide w x b : Rat) *
        (2 : Rat) ^ (((w.scales.getD b 0).toNat : Int) + (scale b : Int) - 254 - (if wide then 12 else 2))).sum)))

/-- `BIN_GRANT` and `BIN_GENERATION_ADVANCE` (R290): a grant sets TENANT and makes TAG void; the other moves the tenant's BG on; no byte of a
bin changes. That BG's next value is the one after it, the void value left out, is the model's choice (log entry 74). -/
def Sys2Proof.Claims.BinGrants : Prop :=
  ∀ (g bin tenant : Nat) (s : State), g < 8 → bin < 4096 → tenant < 512 →
    (let b := SMap.get Bin.reset s.bins (g * 4096 + bin)
     exec (.binGrant g bin tenant) s =
      .next { s with bins := SMap.set Bin.reset s.bins (g * 4096 + bin) ⟨BitVec.ofNat 9 tenant, 0xFFF, b.type, b.rows⟩ }) ∧
    (let bg := SMap.get 0 s.bg (g * 512 + tenant)
     exec (.binGenerationAdvance g tenant) s =
      .next { s with bg := SMap.set 0 s.bg (g * 512 + tenant) (if bg = 4094 then 0 else bg + 1) })

/-- `COMBINE_FORWARD` (R295 to R297): at the next tile of the chain, once each of its threads has contributed or ended, the partial is combined
with its contributions. Tiles come in descending order of their highest launch index, and a tile's threads in descending index; the
combining steps are those of Table 16.4. -/
def Sys2Proof.Claims.Combining : Prop :=
  (∀ (n : Nat) (s : State) (w : WaveRun) (l : Launch) (t : Nat) (rest : List Nat), s.waves[n]? = some w →
    s.findLaunch w.lid = some l → (if w.started then w.chain else chainTiles (waveThreads l w)) = t :: rest →
    let ths := waveThreads l w
    ((∀ x ∈ ths, x.2.tile = t → x.2.ended = true ∨ ∃ c ∈ w.contribs, c.1 = x.1) →
      exec (.combineForward n) s =
        .next { s with waves := s.waves.set n { w with started := true, chain := rest, acc := foldTile ths w t } }) ∧
    ((∃ x ∈ ths, x.2.tile = t ∧ x.2.ended = false ∧ ∀ c ∈ w.contribs, c.1 ≠ x.1) → exec (.combineForward n) s = .next s)) ∧
  (∀ (ths : List (Nat × Thread)), (ths.map (·.1)).Nodup →
    (∀ t, (tileIndices ths t).Pairwise (· > ·) ∧ ∀ ix, ix ∈ tileIndices ths t ↔ ∃ th, (ix, th) ∈ ths ∧ th.tile = t) ∧
    (chainTiles ths).Pairwise (fun a b => ∃ x ∈ ths, x.2.tile = a ∧ ∀ y ∈ ths, y.2.tile = b → y.1 < x.1) ∧
    (∀ t, t ∈ chainTiles ths ↔ ∃ x ∈ ths, x.2.tile = t)) ∧
  (∀ (ths : List (Nat × Thread)) (w : WaveRun) (t : Nat) (a : DWord), w.acc = some a → (∀ ix ∈ tileIndices ths t, ∃ c ∈ w.contribs, c.1 = ix) →
    foldTile ths w t = some ((tileIndices ths t).foldl (fun acc ix =>
      match w.contribs.find? (·.1 == ix) with | some c => combine (waveOp w) acc c.2.2 | none => acc) a)) ∧
  (∀ x y : DWord, combine 0 x y = x + y ∧ (combine 2 x y).toInt = max x.toInt y.toInt ∧ (combine 3 x y).toInt = min x.toInt y.toInt ∧
    (combine 1 x y).extractLsb' 0 32 = BitVec.ofNat 32 (fp32.encode 0
      ((fp32.decode (x.extractLsb' 0 32).toNat).add (fp32.decode (y.extractLsb' 0 32).toNat))) ∧
    (combine 1 x y).extractLsb' 32 32 = BitVec.ofNat 32 (fp32.encode 0
      ((fp32.decode (x.extractLsb' 32 32).toNat).add (fp32.decode (y.extractLsb' 32 32).toNat))))

/-- `COLLECTIVE_RESULT` (R296, R297): the result of a finished wave reaches a member that still waits for it. -/
def Sys2Proof.Claims.WaveResults : Prop :=
  ∀ (t k : Nat) (s : State) (h : HeldWave) (w : WaveRun) (r : DWord), Unit_ t k → (s.slotAt t k).wave = some h → h.result = none →
    let mine := fun (x : WaveRun) => x.started = true ∧ x.chain = [] ∧ x.lid = (s.getTile t).lid ∧ x.level = h.level ∧ x.num = h.num ∧
      x.path = scopePath ((s.getTile t).path k) h.level.toNat
    w ∈ s.waves → mine w → w.acc = some r → (∀ x ∈ s.waves, mine x → x = w) →
    ∃ u, exec (.collectiveResult t k) s = .next u ∧ u.slotAt t k = { s.slotAt t k with wave := some { h with result := some r } } ∧
      u.mem = s.mem ∧ ∀ x ∈ u.waves, x ∈ s.waves

/-- Events of the engines.
The clauses are `Sys2Proof.Claims.PlaneStart`, `Sys2Proof.Claims.PlaneSums`, `Sys2Proof.Claims.PackWrites`,
`Sys2Proof.Claims.CopyStarts`, `Sys2Proof.Claims.CopyEnds`, `Sys2Proof.Claims.CodedChunks`,
`Sys2Proof.Claims.GranaryLoads`, `Sys2Proof.Claims.GranaryComputes`, `Sys2Proof.Claims.BinGrants`,
`Sys2Proof.Claims.Combining`, `Sys2Proof.Claims.WaveResults`. -/
def Obligations.EngineEvents : Prop :=
  Sys2Proof.Claims.PlaneStart ∧
  Sys2Proof.Claims.PlaneSums ∧
  Sys2Proof.Claims.PackWrites ∧
  Sys2Proof.Claims.CopyStarts ∧
  Sys2Proof.Claims.CopyEnds ∧
  Sys2Proof.Claims.CodedChunks ∧
  Sys2Proof.Claims.GranaryLoads ∧
  Sys2Proof.Claims.GranaryComputes ∧
  Sys2Proof.Claims.BinGrants ∧
  Sys2Proof.Claims.Combining ∧
  Sys2Proof.Claims.WaveResults

/-! ## Events: balancer, permits, meters -/

namespace Sys2Proof.Claims

/-- W of a tile at a window's end (R136, R137, R144). -/
def windowW (tl : Tile) : Nat :=
  let hint := tl.slots.toList.foldl (fun m sl => if sl.running then max m sl.hint.toNat else m) 0
  if (tl.hintNew = true ∨ hint ≠ tl.lastHint.toNat) ∧ hint ≠ 0 then 16 * hint else 16 + tl.weight

/-- The largest hint of the tile's contexts. -/
def hintOf (tl : Tile) : Nat := tl.slots.toList.foldl (fun m sl => if sl.running then max m sl.hint.toNat else m) 0

/-- The tables of the other tiles and of the bays are in order. -/
def Listed (s : State) : Prop := SMap.wfFrom Tile.reset 0 s.others = true ∧ SMap.wfFrom Bay.reset 0 s.bays = true

/-- The counters are a table in order. -/
def MetersTidy (s : State) : Prop := SMap.wfFrom 0 0 s.meters = true

/-- The natural weight of a tile cycle that has begun (R136, Table 7.1): 6 while the plane array works; else the weight of the class of the
instruction whose turn it is, 2 for the prefix of a pair, and 1 where no context is ready. -/
def NaturalWeight (b : State) (w : Nat) : Prop :=
  (b.tile.planeRun ≠ [] ∧ w = 6) ∨
  (b.tile.planeRun = [] ∧ choose b = none ∧ w = 1) ∨
  (b.tile.planeRun = [] ∧ ∃ (k : Fin 8) (i : Instr) (n : Nat) (s' : State),
    let c := (unyield k (tickPauses b)).turnTo k
    choose b = some k ∧ TakesTurn c i n ∧ exec i (taken c) = .next s' ∧ (s'.slot.wait = none ∨ s'.slot.hasEntered = true) ∧
    ((n = 4 ∨ c.slot.pre.isSome = true) ∧ w = i.weight ∨ (n = 8 ∧ c.slot.pre = none ∧ pairBarred c.bank = false) ∧ w = 2))

/-- The cycle's weight enters the tile's window. -/
def weighed (w : Nat) (x : State) : State := { x with tile := { x.tile with weight := x.tile.weight + (w - 1) } }

/-- A bay's stook counter one step on. -/
def bumped (v : Vector DWord 16) (i n : Nat) : Vector DWord 16 := v.set! i (v.toList.getD i 0 + BitVec.ofNat 64 n)

end Sys2Proof.Claims

/-- `STOOK_WINDOW_END` (R137, R140, R144): at the end of a window of 16 cycles, once every tile of the bay has taken its sixteenth cycle,
the gap of the four tiles' weights beyond the tolerance gives budgets for the next window, filler in FILL mode or when a low tile was
stalled on messages, throttle otherwise, and adds to STKIMB; within the tolerance they are zero. A window ends once. -/
def Sys2Proof.Claims.StookWindows : Prop :=
  ∀ (bay stook : Nat) (s : State), bay < 10240 → stook < 16 → Listed s →
    let b := s.getBay bay
    let due := b.cyc.toNat % 16 = 15 ∧ bayCycleDone s bay = true ∧ b.winDone.getLsbD stook = false
    (¬ due → exec (.stookWindowEnd bay stook) s = .next s) ∧
    (due →
      let at_ := fun (j : Nat) => s.getTile (64 * bay + 4 * stook + j)
      let w := fun (j : Nat) => windowW (at_ j)
      let hi := max (max (w 0) (w 1)) (max (w 2) (w 3))
      let lo := min (min (w 0) (w 1)) (min (w 2) (w 3))
      let tol := (s.getDie (bay / 640)).pwr.t.toNat
      let throttle := (at_ 0).throttleMode || (at_ 1).throttleMode || (at_ 2).throttleMode || (at_ 3).throttleMode
      let low := fun (j : Nat) => (at_ j).stalled = true ∧ w j + tol < hi
      let filler := throttle = false ∨ low 0 ∨ low 1 ∨ low 2 ∨ low 3
      ∃ u, exec (.stookWindowEnd bay stook) s = .next u ∧ u.mem = s.mem ∧
        (∀ j < 4, ∃ d e : Nat, u.getTile (64 * bay + 4 * stook + j) =
            { at_ j with weight := 0, stalled := false, hintNew := false, lastHint := BitVec.ofNat 3 (hintOf (at_ j)),
                         fillD := d, thrE := e } ∧
          (hi - lo ≤ tol → d = 0 ∧ e = 0) ∧
          (tol < hi - lo → filler → d = hi - tol - w j ∧ e = 0) ∧
          (tol < hi - lo → ¬ filler → d = 0 ∧ e = w j - lo - tol)) ∧
        (∀ t, t / 4 ≠ 16 * bay + stook → u.getTile t = s.getTile t) ∧
        (∀ c, c ≠ bay → u.getBay c = s.getBay c) ∧
        let ended : Bay := { b with winDone := b.winDone ||| (1#16 <<< stook) }
        u.getBay bay = if tol < hi - lo then { ended with imb := bumped b.imb stook (hi - lo) } else ended)

/-- `STOOK_FILLER_STEP` and `STOOK_THROTTLE` (R136, R139 to R141, R143) are the tile's own cycle, where the balancer acts in it. While a
throttle budget lasts, a cycle of natural weight above 1 is throttled: nothing issues, the array stands still, the budget falls by the weight
above 1, and the cycle counts as stalled. While a filler budget lasts, a cycle of weight below 6 on a bay that holds a launch takes a filler
step for the rest of the 6, which counts in the meter and in STKFILL, or starts the tile's next plane command in its place. -/
def Sys2Proof.Claims.StookSteps : Prop :=
  (∀ (t : Nat) (s : State) (w : Nat), t < tileCount →
    let bay := s.getBay (bayOf t)
    let open_ := t ∉ bay.ran ∨ bayCycleDone (s.focus t) (bayOf t) = true
    let b := beginCycle (s.focus t)
    let m := markWaits (tickPauses b)
    NaturalWeight b w →
    (open_ → 0 < b.tile.thrE → 1 < w → exec (.stookThrottle t) s = .next (s.refocus (endCycle (fun _ => false) none
      { m with tile := ({ m.tile with thrE := m.tile.thrE - (w - 1 : Nat), weight := m.tile.weight + (w - 1), frozen := true,
                                      stalled := m.tile.stalled || m.tile.messageWaits true } : Tile).meter 2 1 }))) ∧
    (¬ open_ ∨ b.tile.thrE ≤ 0 ∨ w ≤ 1 → exec (.stookThrottle t) s = .next s) ∧
    (open_ → b.tile.thrE ≤ 0 ∨ w ≤ 1 → 0 < b.tile.fillD → w < 6 → (b.getBay (bayOf b.tid)).launch ≠ none →
      ∀ u, (runCycle b).2 = .next u → exec (.stookFillerStep t) s = .next (s.refocus u)) ∧
    (¬ open_ ∨ b.tile.fillD ≤ 0 ∨ 6 ≤ w ∨ (b.getBay (bayOf b.tid)).launch = none → exec (.stookFillerStep t) s = .next s)) ∧
  (∀ (issued : Nat) (x : State), x.tid < tileCount →
    let w := if x.tile.planeRun = [] then issued else 6
    let fills := 0 < x.tile.fillD ∧ w < 6 ∧ (x.getBay (bayOf x.tid)).launch ≠ none
    let startable := x.tile.canStart = true ∧ tileReleased x x.tid = true
    (fills → ¬ startable → weigh issued x =
      ((weighed w x).modTile x.tid fun tl => ({ tl with fillD := tl.fillD - (6 - w : Nat) } : Tile).meter 3 1).modBay (bayOf x.tid) fun b =>
        { b with fill := bumped b.fill (x.tid % 64 / 4) 1 }) ∧
    (fills → startable → ∃ u, exec (.planeCommandStart x.tid) x = .next u ∧ weigh issued x = weighed 6 u) ∧
    (¬ fills → weigh issued x = weighed w x)) ∧
  ((∀ o, (Instr.ld o).weight = 2) ∧ (∀ o, (Instr.send o).weight = 3) ∧ (∀ o, (Instr.rld o).weight = 3) ∧ (∀ o, (Instr.vadd o).weight = 4) ∧
    (∀ o, (Instr.vfrcp o).weight = 5) ∧ (∀ o, (Instr.pdot o).weight = 6))

/-- `PERMIT_REFILL` (R354, R356): each class's counter takes one step: below its cap ACC rises by the scaled rate, at least 1, and LEVEL by one
when ACC reaches 256; at or above the cap LEVEL is the cap and ACC zero. A CAP of 0 acts as 1, a RATE above 256 as 256. -/
def Sys2Proof.Claims.PermitSteps : Prop :=
  ∀ (t : Nat) (s : State), t < tileCount →
    let b := s.getBay (bayOf t)
    let scale := (s.getDie (dieOf t)).pwr.scale.toNat
    ∃ q : Rate → Permit → Permit,
      exec (.permitRefill t) s = .next (s.modTile t fun tl =>
        { tl with pm := q b.rm tl.pm, pv := q b.rv tl.pv, ps := q b.rs tl.ps, px := q b.rx tl.px }) ∧
      ∀ (r : Rate) (p : Permit), p.acc.toNat < 256 →
        let cap := max 1 r.cap.toNat
        let acc := p.acc.toNat + max 1 (min 256 r.rate.toNat * scale / 256)
        (cap ≤ p.level.toNat → (q r p).level.toNat = cap ∧ (q r p).acc = 0) ∧
        (p.level.toNat < cap → acc < 256 → (q r p).level = p.level ∧ (q r p).acc.toNat = acc) ∧
        (p.level.toNat < cap → 256 ≤ acc → (q r p).level.toNat = p.level.toNat + 1 ∧ (q r p).acc.toNat = acc - 256)

/-- `POWER_CONTROL` (R356, R357): the sensor's new DRAW, a free value, enters; then SCALE falls by 16, not below 16, where DRAW exceeds
BUDGET; rises by 16, not above 256, where DRAW is more than 8 below it; else it stands. -/
def Sys2Proof.Claims.PowerScale : Prop :=
  ∀ (die : Nat) (s : State), die < 16 →
    let d := s.getDie die
    let p := d.pwr
    let seen := Config.measuredDraw die s.free
    let goes := fun (n : Nat) => exec (.powerControl die) s =
      .next (({ s with free := s.free + 1 } : State).setDie die { d with pwr := { p with draw := seen, scale := BitVec.ofNat 9 n } })
    (p.budget.toNat < seen.toNat → goes (max 16 (p.scale.toNat - 16))) ∧
    (seen.toNat + 8 < p.budget.toNat → goes (min 256 (p.scale.toNat + 16))) ∧
    (seen.toNat ≤ p.budget.toNat → p.budget.toNat ≤ seen.toNat + 8 → goes p.scale.toNat)

/-- `METER_FLUSH` (R143, R351): a tile's local counts enter the counters of the tenant whose launch the tile, or else its bay, holds, modulo
2^64, and are zero afterwards; no other counter changes. -/
def Sys2Proof.Claims.MeterFlushes : Prop :=
  ∀ (t : Nat) (s : State), t < tileCount → MetersTidy s → SMap.wfFrom 0 0 (s.getTile t).counts = true →
    (∀ kc ∈ (s.getTile t).counts, kc.1 < 16) →
    ∃ m : SMap DWord, exec (.meterFlush t) s = .next (({ s with meters := m } : State).modTile t fun tl => { tl with counts := [] }) ∧
      ((s.getTile t).launch = none → s.bayTenant (bayOf t) = none → m = s.meters) ∧
      (∀ tenant, (∃ l, (s.getTile t).launch = some l ∧ l.tenant = tenant) ∨
          ((s.getTile t).launch = none ∧ s.bayTenant (bayOf t) = some tenant) →
        (∀ ix < 16, SMap.get 0 m (tenant * 16 + ix)
          = SMap.get 0 s.meters (tenant * 16 + ix) + BitVec.ofNat 64 (SMap.get 0 (s.getTile t).counts ix)) ∧
        (∀ key, key / 16 ≠ tenant → SMap.get 0 m key = SMap.get 0 s.meters key))

/-- `METR_SAMPLE` and `TENANT_DELETION` (R350, R369): a `METR` takes the hub counter's value as it stands, counter 15 reading zero; a tenant's
counters are zero once it is deleted, and no other tenant's change. -/
def Sys2Proof.Claims.MeterValues : Prop :=
  (∀ (n : Nat) (s : State) (m : MetrReq), s.metr[n]? = some m →
    let v := if m.idx = 15 then 0 else SMap.get 0 s.meters (m.tenant * 16 + m.idx)
    (m.value = none → exec (.metrSample n) s = .next { s with metr := s.metr.set n { m with value := some v } }) ∧
    (m.value ≠ none → exec (.metrSample n) s = .next s)) ∧
  (∀ (tenant : Nat) (s : State), tenant < 512 → MetersTidy s → ∃ m : SMap DWord,
    exec (.tenantDeletion tenant) s = .next { s with meters := m } ∧
    ∀ key, SMap.get 0 m key = if key / 16 = tenant then 0 else SMap.get 0 s.meters key)

/-- Balancer, permits, power and meters.
The clauses are `Sys2Proof.Claims.StookWindows`, `Sys2Proof.Claims.StookSteps`, `Sys2Proof.Claims.PermitSteps`,
`Sys2Proof.Claims.PowerScale`, `Sys2Proof.Claims.MeterFlushes`, `Sys2Proof.Claims.MeterValues`. -/
def Obligations.PowerEvents : Prop :=
  Sys2Proof.Claims.StookWindows ∧
  Sys2Proof.Claims.StookSteps ∧
  Sys2Proof.Claims.PermitSteps ∧
  Sys2Proof.Claims.PowerScale ∧
  Sys2Proof.Claims.MeterFlushes ∧
  Sys2Proof.Claims.MeterValues

/-! ## Events: launches -/

namespace Sys2Proof.Claims

/-- A record as a queue takes it (R336): QUEUED, under its launch id, with nothing of a placement. -/
def freshRecord (lid : BitVec 29) (q vf : Nat) (dom : BitVec 16) (dw : Vector DWord 8) : Launch :=
  ⟨lid, q, vf, (dw[0]).toNat / 2 ^ 48 % 512, dw, .queued, [], [], [], [], [], [], none, 0, 0, 0, false, [], [], [], [], dom, none⟩

/-- A submission as the hub answers it: refused, with −1 into DONE and SUBREF one higher, or accepted. -/
def submitted (q vf : Nat) (dw : Vector DWord 8) (s : State) : State × Option (BitVec 29) :=
  let b := SMap.get (512, 0) s.queues q
  let tenant := (dw[0]).toNat / 2 ^ 48 % 512
  if tenant ≠ b.1 ∨ 256 ≤ (s.launches.filter (·.q == q)).length then
    (storeDone none tenant ((dw[6]).toNat % 2 ^ 48) (some (-1)) (if b.1 < 512 then s.hubMeter b.1 11 1 else s), none)
  else
    let lid : BitVec 29 := BitVec.ofNat 29 (q % 512 * 2 ^ 20 + b.2.toNat)
    ({ s with queues := SMap.set (512, 0) s.queues q (b.1, b.2 + 1), newLids := s.newLids ++ [lid],
               launches := s.launches ++ [freshRecord lid q vf (recordDom s b.1 q) dw] }, some lid)

/-- A record in a new state. -/
def withRecord (lid : BitVec 29) (f : Launch → Launch) (s : State) : State :=
  { s with launches := s.launches.map fun l => if l.lid = lid then f l else l }

/-- The tables of tenants are in order. -/
def TenantsTidy (s : State) : Prop := SMap.wfFrom Tenant.reset 0 s.tenants = true

/-- The active tenants of a boundary, the sum of their weights, and the bays in service of their partitions (R341). -/
def isActive (s : State) (t : Nat) : Bool := s.launches.any fun l => l.tenant == t && l.st.active
def weightSum (s : State) : Nat := (((List.range 512).filter (isActive s)).map fun t => (s.getTenant t).weight).sum
def servingBays (s : State) : Nat :=
  ((List.range 10240).filter fun b => ((s.getDie (b / 640)).bayMap (b % 640)).insrv && (List.range 512).any fun t => isActive s t && (s.getTenant t).part.contains b).length

/-- A bay's holder after its launch has left: a launch that waits for it. -/
def nextHolder (s : State) (lid : BitVec 29) (b : Nat) : Option (BitVec 29) :=
  (s.launches.find? fun x => x.lid != lid && x.st == .placing && x.bays.contains b).map (·.lid)

end Sys2Proof.Claims

/-- `SUBMISSION` and `LAUNCH_SUBMISSION_RECORD` (R336, R367): 64 aligned bytes at a bound window enter its queue under the next launch id of
that queue, in the domain that the reeve has set for the queue, else for the tenant (the model's choice, log entry 8), or are refused, with −1 into DONE, where the tenant differs or the queue is full; any other write is discarded, and so is a record that meets a reset of its function in the same hub cycle (R398); a read answers zero. Nothing enters before boot has taken its last step. Whose colours the −1 is written with is the model's choice (log entry 81). A `LAUNCH` submits
once its release conditions hold, and its completion record has KIND 7 with the launch id, or STATUS 1. -/
def Sys2Proof.Claims.Submissions : Prop :=
  (∀ (vf off n : Nat) (s : State), vf < 256 → off < 65536 → s.boot.stage = 8 →
    exec (.submission (.windowRead vf off n)) s = .next (answered (.bytes (List.replicate n 0)) s)) ∧
  (∀ (vf off : Nat) (bytes : List Byte) (s : State), vf < 256 → off < 65536 →
    let q := (SMap.get (512, 0) s.vfs vf).1
    let tenant := (SMap.get (512, 0) s.queues q).1
    (s.boot.stage ≠ 8 ∨ 512 ≤ tenant ∨ vf ∈ s.flrs → exec (.submission (.window vf off bytes)) s = .next s) ∧
    (s.boot.stage = 8 → tenant < 512 → vf ∉ s.flrs →
    (bytes.length ≠ 64 ∨ off % 64 ≠ 0 → exec (.submission (.window vf off bytes)) s = .next (s.hubMeter tenant 11 1)) ∧
    (∀ dw : Vector DWord 8, bytes.length = 64 → off % 64 = 0 →
      (∀ i : Nat, (h : i < 8) → dw[i] = dwordOf ((bytes.drop (8 * i)).take 8)) →
      exec (.submission (.window vf off bytes)) s = .next (submitted q vf dw s).1))) ∧
  (∀ (n : Nat) (s : State) (u : HubSub), s.subs[n]? = some u →
    (s.boot.stage = 8 → u.answer = none → u.vf ∈ s.flrs →
      exec (.submission (.launch n)) s = .next { s with subs := s.subs.eraseIdx n }) ∧
    (s.boot.stage = 8 → u.answer = none → u.vf ∉ s.flrs → submissionReady s u = true →
      let r := submitted u.q u.vf u.dw s
      exec (.submission (.launch n)) s = .next { r.1 with subs := r.1.subs.set n { u with answer := some r.2 } }) ∧
    (s.boot.stage ≠ 8 ∨ (u.vf ∉ s.flrs ∧ submissionReady s u = false) → exec (.submission (.launch n)) s = .next s) ∧
    (∀ a, u.answer = some a → exec (.launchSubmissionRecord n) s =
      .next (({ s with subs := s.subs.eraseIdx n } : State).complete u.tile u.slot u.run 7 (if a.isSome then 0 else 1) 0 u.block
        (match a with | some lid => lid.setWidth 64 | none => 0))))

/-- The granger's writes to a DONE signal (R338, R339): none where DONE is 0; one that is performed stores the value, or adds −1; one that
meets an absent page is kept, with a fault record whose DOM is 0; one whose home does not serve it yet is kept; one that fails in another way
is dropped. -/
def Sys2Proof.Claims.SignalWrites : Prop :=
  ∀ (q : Option Nat) (tenant done : Nat) (v : Option DWord) (s : State),
    let tried := match v with
      | some x => portWrite s 16 done ((bytesOf 8 x).map some) tenant
      | none => portDecrement s 16 done tenant
    let kind : BitVec 4 := if v = none then 3 else 2
    (done = 0 → storeDone q tenant done v s = s) ∧
    (done ≠ 0 →
      (∀ s1, tried = (s1, none) → storeDone q tenant done v s = s1) ∧
      (∀ s1 c, tried = (s1, some (.err c)) → storeDone q tenant done v s = s1) ∧
      (∀ s1, tried = (s1, some .busy) → storeDone q tenant done v s = { s1 with owed := s1.owed ++ [⟨q, tenant, done, v, none⟩] }) ∧
      (∀ s1 k, tried = (s1, some (.absent k)) →
        storeDone q tenant done v s = ({ s1 with owed := s1.owed ++ [⟨q, tenant, done, v, some (parkOf s1 done k 0 kind)⟩] } : State).addFault
          (pageRecord s1 0 done k tenant 0 kind)))

/-- `QUEUE_DISPATCH` (R337): the first QUEUED record of a queue goes to WAITING once every earlier one has reached PLACING or a later state
and no barrier record before it is short of its end. -/
def Sys2Proof.Claims.QueueOrder : Prop :=
  ∀ (q : Nat) (s : State) (before after : List Launch) (l : Launch), q < 512 →
    s.launches.filter (·.q == q) = before ++ l :: after → (∀ b ∈ before, b.st ≠ .queued) → l.st = .queued →
    ((∀ b ∈ before, b.st ≠ .waiting ∧ b.st ≠ .ready ∧ recBarrier b.dw = false) → (∀ o ∈ s.owed, o.q ≠ some q) →
      exec (.queueDispatch q) s = .next (withRecord l.lid (fun x => { x with st := .waiting }) s)) ∧
    ((∃ b ∈ before, b.st = .waiting ∨ b.st = .ready ∨ recBarrier b.dw = true) ∨ (∃ o ∈ s.owed, o.q = some q) →
      exec (.queueDispatch q) s = .next s)

/-- `SIGNAL_READ` (R338): a WAITING record whose named signals have all been read 0 is READY; one that reads a signal negative, or whose read
fails, is FAULTED with `SIGNAL_ABORT`; one that reads a signal positive waits on. -/
def Sys2Proof.Claims.SignalReads : Prop :=
  ∀ (n : Nat) (s : State) (l : Launch), s.findLaunch (BitVec.ofNat 29 n) = some l → l.st = .waiting → l.waits = false →
    (l.dismissed = true → exec (.signalRead n) s = .next (faultRecord l 0x46 s)) ∧
    (l.dismissed = false →
      ((∀ va ∈ recWaits l.dw, va = 0 ∨ readSignal l va s = .zero) → ∃ u z, exec (.signalRead n) s = .next u ∧ u.mem = s.mem ∧
        u.findLaunch l.lid = some { l with st := .ready, park := none, zeros := z }) ∧
      (∀ i va, (recWaits l.dw)[i]? = some va → va ≠ 0 → l.zeros.getLsbD i = false → readSignal l va s = .negative →
        (∀ x ∈ (recWaits l.dw).take i, x = 0 ∨ readSignal l x s = .zero ∨ readSignal l x s = .positive) →
        ∃ s1, exec (.signalRead n) s = .next (faultRecord l 0x46 s1) ∧ s1.mem = s.mem ∧ s1.meters = s.meters) ∧
      (∀ va ∈ recWaits l.dw, va ≠ 0 → l.zeros = 0 → readSignal l va s = .positive →
        (∀ x ∈ recWaits l.dw, x = 0 ∨ readSignal l x s = .zero ∨ readSignal l x s = .positive) →
        ∃ u z, exec (.signalRead n) s = .next u ∧ u.mem = s.mem ∧ u.findLaunch l.lid = some { l with park := none, zeros := z })) ∧
    (∀ va, (∀ bs s1, portRead s 16 va 8 l.tenant = (s1, .ok bs) →
        readSignal l va s = if dwordOf bs = 0 then .zero else if (dwordOf bs).toInt < 0 then .negative else .positive) ∧
      (∀ c s1, portRead s 16 va 8 l.tenant = (s1, .error (.err c)) → readSignal l va s = .negative) ∧
      (∀ k s1, portRead s 16 va 8 l.tenant = (s1, .error (.absent k)) → readSignal l va s = .park k))

/-- `SLICE_BOUNDARY` (R341, R342): each active tenant's deficit gains its weighted share of the bays in service for the slice, each other
tenant's is 0; offers go to tenants in descending deficit, the lower number first among equals, and to each tenant's launches PREEMPTED
before READY, then by PRIO. -/
def Sys2Proof.Claims.SliceBoundaries : Prop :=
  (∀ s : State, TenantsTidy s → (∀ kt ∈ s.tenants, kt.1 < 512) → (∀ l ∈ s.launches, l.tenant < 512) →
    (∀ t < 512, ∀ b ∈ (s.getTenant t).part, b < 10240) →
    ∃ s2 : State, exec .sliceBoundary s = .next
        (((sortBy (fun a b => decide ((s2.getTenant b).deficit.toInt < (s2.getTenant a).deficit.toInt)) (activeTenants s2)).flatMap
          (offerOrder s2)).foldl (offer true) (s2, [])).1 ∧
      s2.mem = s.mem ∧ s2.bays = s.bays ∧
      (∀ t < 512, isActive s t = true → (s2.getTenant t).deficit =
        (s.getTenant t).deficit + BitVec.ofNat 64 ((s.getTenant t).weight * servingBays s * s.slice / weightSum s)) ∧
      (∀ t < 512, isActive s t = false → (s2.getTenant t).deficit = 0) ∧
      (∀ t < 512, t ∈ activeTenants s2 ↔ isActive s t = true) ∧ (activeTenants s2).Pairwise (· < ·)) ∧
  (∀ (s : State) (t : Nat), ∃ ls : List Launch, offerOrder s t = ls.map (·.lid) ∧
    ls.Perm (s.launches.filter fun l => l.tenant == t && (l.st == .ready || l.st == .preempted)) ∧
    ls.Pairwise fun a b => (a.st = .preempted ∨ b.st ≠ .preempted) ∧ (a.st = b.st → recPrio b.dw ≤ recPrio a.dw)) ∧
  (∀ (f : Nat → Int) (ts : List Nat), ts.Pairwise (· < ·) →
    (sortBy (fun a b => decide (f b < f a)) ts).Pairwise fun a b => f b < f a ∨ (f a = f b ∧ a < b))

/-- `PLACEMENT` of a READY record (R123, R342): where its tree binds on free bays of its class and the power admits it, it takes them and is
PLACING; a tenant with less budget than the record needs faults it with `BUDGET`; one whose tree its whole partition cannot hold goes to
PLACING, where its fault is raised; one that only the free bays cannot hold stays as it is (log entry 14). That bays of another SPEED class
are no units for the tree (log entry 79), and that a record or a tree that fails its checks goes to PLACING first (log entry 80), are the
model's readings. -/
def Sys2Proof.Claims.Offers : Prop :=
  (∀ (n : Nat) (s : State) (l : Launch), s.findLaunch (BitVec.ofNat 29 n) = some l → l.st = .ready →
    (l.waits = true → exec (.placement n) s = .next s) ∧
    (l.waits = false → l.dismissed = false →
      (let b := (s.getTenant l.tenant).budget
       (b ≤ 0 ∨ b < (recBudget l.dw * s.slice : Nat)) → exec (.placement n) s = .next (faultRecord l 0x45 s)) ∧
      (budgetShort s l = false → recMalformed l.dw = true → exec (.placement n) s = .next (placeToFault l s)) ∧
      (∀ ls, budgetShort s l = false → recMalformed l.dw = false → launchLevels s l = .levels ls →
        (s.bindOn l ls (admitted s l) = none → exec (.placement n) s = .next (placeToFault l s)) ∧
        ((s.bindOn l ls (admitted s l)).isSome = true →
          (∀ ths, s.bindOn l ls ((admitted s l).filter (freeForLaunch s)) = some ths → energyOk s l (threadBays ths) [] = true →
            exec (.placement n) s = .next (choosePlace l ths s)) ∧
          (s.bindOn l ls ((admitted s l).filter (freeForLaunch s)) = none →
            exec (.placement n) s = .next (withRecord l.lid (fun x => { x with park := none }) s)))) ∧
      (budgetShort s l = false → recMalformed l.dw = false → launchLevels s l = .bad → exec (.placement n) s = .next (placeToFault l s)))) ∧
  (∀ (s : State) (l : Launch) (ths : List Thread), Listed s → s.findLaunch l.lid = some l →
    let u := choosePlace l ths s
    (∃ x, u.findLaunch l.lid = some x ∧ x.st = .placing ∧ x.bays = threadBays ths ∧ x.tiles = threadTiles ths ∧ x.park = none ∧
      x.dw = l.dw ∧ x.threads.map (fun t => (t.tile, t.slot, t.path)) = ths.map (fun t => (t.tile, t.slot, t.path))) ∧
    (∀ b, (u.getBay b).launch = if b ∈ threadBays ths ∧ (s.getBay b).launch = none then some l.lid else (s.getBay b).launch) ∧
    u.mem = s.mem ∧ u.circuits = s.circuits)

/-- `PLACEMENT` of a record in PLACING (R119, R128, R131, R333, R337): it waits until it holds its bays; inputs that fail their checks end it with
their code; an absent page parks it; else, once the rotation that goes before it is over, it is RUNNING with its threads, none of them
started. -/
def Sys2Proof.Claims.Placements : Prop :=
  ∀ (n : Nat) (s : State) (l : Launch), s.findLaunch (BitVec.ofNat 29 n) = some l → l.st = .placing → l.saved = [] →
    (l.waits = true ∨ holdsBays s l = false → exec (.placement n) s = .next s) ∧
    (l.waits = false → holdsBays s l = true → l.dismissed = true → exec (.placement n) s = .next (abortLaunch l 0x44 s)) ∧
    (l.waits = false → holdsBays s l = true → l.dismissed = false →
      (∀ c, loadInputs l s = .fault c → exec (.placement n) s = .next (abortLaunch l c s)) ∧
      (∀ k va, loadInputs l s = .park k va → exec (.placement n) s =
        .next ((withRecord l.lid (fun x => { x with park := some (parkOf s va k 0 1) }) s).addFault (pageRecord s 0 va k l.tenant 0 1))) ∧
      (∀ hdr code ls args ths u, loadInputs l s = .ok hdr code ls args → s.bindOn l ls l.bays = some ths →
        rotateStep l (fun _ => true) s = some u → exec (.placement n) s = .next u) ∧
      (∀ hdr code ls args ths, Listed s → loadInputs l s = .ok hdr code ls args → s.bindOn l ls l.bays = some ths →
        rotateStep l (fun _ => true) s = none →
        ∃ u x, exec (.placement n) s = .next u ∧ u.findLaunch l.lid = some x ∧ x.st = .running ∧ x.levels = ls ∧ x.threads = ths ∧
          x.tiles = threadTiles ths ∧ x.released = [] ∧ x.saved = [] ∧
          ∀ t ∈ threadTiles ths, ∃ tl, (u.getTile t).launch = some tl ∧ tl.lid = l.lid ∧ tl.tenant = l.tenant ∧ tl.levels = ls ∧
            tl.dom = l.dom ∧ tl.entry.toNat = hdrEntry hdr % 2 ^ 14 ∧ (u.getTile t).cur = tl.gen ∧ (u.getTile t).tag 1023 = tl.gen ∧
            (∀ k : Fin 8, (u.getTile t).slots[k].st = .empty)))

/-- The rotation of a placement (R359): each bay may go to the coolest physical bay of its row and class that is free, not retired and at
least two degrees cooler; the bay of that place takes the other; both are in transit; the next event of the placement ends the transit, and
then there is no more of it. That the granger takes a permitted remap at its own choice is log entry 48. -/
def Sys2Proof.Claims.Rotations : Prop :=
  (∀ (s : State) (bay : Nat), bay < 10240 →
    let die := bay / 640
    let b := bay % 640
    let d := s.getDie die
    let e := (rotateBay s bay).getDie die
    let own := (d.bayMap b).phys.toNat
    let temp := Config.bayTemp s.free die
    e = d ∨ ∃ p < 644, p ≠ own ∧ physRow p = physRow own ∧ physClass p = physClass own ∧ temp p + 2 ≤ temp own ∧ p ∉ d.retired ∧
      d.pwr.rot = true ∧ physFree s die p = true ∧
      (∀ q < 644, physRow q = physRow own → physClass q = physClass own → temp p ≤ temp q) ∧
      (d.logicalOf p ≠ some b → e.bayMap b = { d.bayMap b with phys := BitVec.ofNat 10 p, transit := true }) ∧
      (∀ x, d.logicalOf p = some x → e.bayMap x = { d.bayMap x with phys := BitVec.ofNat 10 own, transit := true }) ∧
      (∀ y, y ≠ b → d.logicalOf p ≠ some y → e.bayMap y = d.bayMap y)) ∧
  (∀ (s : State) (l : Launch) (fits : State → Bool), s.findLaunch l.lid = some l →
    (∀ bays, l.remap = some bays → bays ≠ [] → (∀ b ∈ bays, b < 10240) → ∃ u, rotateStep l fits s = some u ∧
      (∀ b ∈ bays, ((u.getDie (b / 640)).bayMap (b % 640)).transit = false ∧
        ((u.getDie (b / 640)).bayMap (b % 640)).phys = ((s.getDie (b / 640)).bayMap (b % 640)).phys) ∧
      u.findLaunch l.lid = some { l with remap := some [] }) ∧
    (l.remap = some [] → rotateStep l fits s = none) ∧
    (l.remap = none → ∀ u, rotateStep l fits s = some u → fits (l.bays.foldl rotateBay s) = true ∧
      u.dies = (l.bays.foldl rotateBay s).dies ∧ ∃ moved, u.findLaunch l.lid = some { l with remap := some moved } ∧ moved ≠ []))

/-- `LAUNCH_RELEASE` (R28, R131, R167, R349): on a tile of a RUNNING launch each thread that has not ended and has not started starts at the
entry with a reset bank, the launch's generation, domain and policy, disabled and empty queues, in user state; a restored context goes on. -/
def Sys2Proof.Claims.Releases : Prop :=
  ∀ (n t : Nat) (s : State) (l : Launch) (x : TileLaunch), s.findLaunch (BitVec.ofNat 29 n) = some l → t < tileCount → l.st = .running →
    t ∈ l.tiles → (s.getTile t).launch = some x →
    (t ∈ l.released → exec (.launchRelease n t) s = .next s) ∧
    (t ∉ l.released → ∃ tl : Tile,
      exec (.launchRelease n t) s = .next (withRecord l.lid (fun r => { r with released := r.released ++ [t] }) (s.setTile t tl)) ∧
      tl = { s.getTile t with slots := tl.slots } ∧
      ∀ k : Fin 8, let sl := (s.getTile t).slots[k]
        let here := l.threads.any fun th => th.tile == t && th.slot == k.val && !th.ended
        (here = false → tl.slots[k] = sl) ∧
        (here = true → sl.st = .empty → tl.slots[k] =
          { Slot.reset with
            st := .user, user := { Bank.reset with pc := x.entry }, sup := sl.sup, gen := x.gen, dom := x.dom, gpol := x.gpol, tc := sl.tc,
            rq := sl.rq.map (fun q => { q with logsz := 0, head := 0, tail := 0 }), merr := sl.merr, nextSeq := sl.nextSeq,
            firstSeq := sl.nextSeq, run := sl.run }) ∧
        (here = true → sl.st = .stopping → tl.slots[k] = { sl with st := .user, priv := false, halted := false }))

/-- The end of a launch (R216, R339, R340): `LAUNCH_COMPLETION` of one whose threads have ended and that has nothing under way adds −1 to DONE;
`LAUNCH_ABORT` of one that is RUNNING, SAVING or PREEMPTED, or is being placed again, ends it FAULTED with −0x46; in either case it is no
longer on record. A completed launch leaves its tiles empty and its bays, without their memory circuits, to a launch that waits for them.
That an ended record is no longer listed is log entry 82; the states on which LAUNCH_ABORT acts, log entry 83. -/
def Sys2Proof.Claims.LaunchEnds : Prop :=
  (∀ (n : Nat) (s : State) (l : Launch), s.findLaunch (BitVec.ofNat 29 n) = some l →
    (launchDrained s l = false → exec (.launchCompletion n) s = .next s) ∧
    (launchDrained s l = true → Listed s → (∀ t ∈ l.tiles, t < tileCount) → ∃ s1, exec (.launchCompletion n) s =
        .next (storeDone (if recBarrier l.dw then some l.q else none) l.tenant (recDone l.dw) none s1) ∧
      s1.findLaunch l.lid = none ∧
      (∀ t ∈ l.tiles, (s1.getTile t).launch = none ∧ (s1.getTile t).owner = none ∧ (s1.getTile t).planeQ = [] ∧
        ∀ k : Fin 8, (s1.getTile t).slots[k].st = .empty) ∧
      (∀ b ∈ l.bays, (s1.getBay b).launch = nextHolder s l.lid b ∧ (s1.getBay b).memCid = none)) ∧
    (l.st ∈ [.running, .saving, .preempted] ∨ (l.st = .placing ∧ l.saved ≠ []) → ∃ s1, exec (.launchAbort n) s = .next (faultRecord l 0x46 s1)) ∧
    (l.st ∈ [.queued, .waiting, .ready] ∨ (l.st = .placing ∧ l.saved = []) → exec (.launchAbort n) s = .next s)) ∧
  (∀ (l : Launch) (code : Nat) (s : State), code < 256 →
    faultRecord l code s = storeDone (if recBarrier l.dw then some l.q else none) l.tenant (recDone l.dw) (some (BitVec.ofInt 64 (-code)))
      (({ s with launches := s.launches.filter (·.lid ≠ l.lid) } : State).hubMeter l.tenant 13 1) ∧
    (faultRecord l code s).findLaunch l.lid = none)

/-- `BUDGET_EXHAUSTION` (R342): where a tenant has no budget left, every running launch of it is to be saved. -/
def Sys2Proof.Claims.BudgetEnds : Prop :=
  ∀ (tenant : Nat) (s : State), tenant < 512 →
    (0 < (s.getTenant tenant).budget → exec (.budgetExhaustion tenant) s = .next s) ∧
    ((s.getTenant tenant).budget ≤ 0 → ∃ u, exec (.budgetExhaustion tenant) s = .next u ∧
      (∀ l ∈ u.launches, l.tenant = tenant → l.st ≠ .running) ∧
      u.launches.map (·.lid) = s.launches.map (·.lid))

/-- `TILE_SAVE` (R343, R345, R347): in its turn a tile whose slots are drained and that is quiet has its image written at its place of the save
region; the tile then holds no launch, its slots are empty, and it counts as saved; what no field of Table 24.5 takes is zero (R384). The order
of tiles, the record of KIND 2 with DOM 0 for an absent page, and the end with −0x46 after a write that fails are log entry 78. -/
def Sys2Proof.Claims.TileSaves : Prop :=
  (∀ (t : Nat) (s : State) (x : TileLaunch) (l : Launch), t < tileCount → (s.getTile t).launch = some x → s.findLaunch x.lid = some l →
    l.st = .saving → t ∉ l.saved → saveTurn l t = true → l.waits = false → l.dismissed = false →
    (∀ k < 8, slotDrained s t k = true) → tileQuiet s t = true → (s.getTile t).liveBad = false →
    let ix := l.tiles.findIdx (· == t)
    let image := imageWords s l.lid t ++ granuleWords s t (s.getTile t).live
    let va := (s.getTenant l.tenant).save.toNat + 49152 * ix
    (∀ s1, portWriteSpan (dieOf t) l.tenant image va s = (s1, none) → Listed s1 → ∃ u r, exec (.tileSave t) s = .next u ∧ u.mem = s1.mem ∧
      u.findLaunch l.lid = some r ∧ (∀ r0, s1.findLaunch l.lid = some r0 → r.saved = r0.saved ++ [t] ∧ r.st = r0.st) ∧
      (u.getTile t).launch = none ∧ ∀ k : Fin 8, (u.getTile t).slots[k].st = .empty) ∧
    (∀ s1 c a, portWriteSpan (dieOf t) l.tenant image va s = (s1, some (.err c, a)) →
      exec (.tileSave t) s = .next (abortLaunch l 0x46 s1)) ∧
    (∀ s1 k a, portWriteSpan (dieOf t) l.tenant image va s = (s1, some (.absent k, a)) → exec (.tileSave t) s =
      .next ((withRecord l.lid (fun x => { x with park := some (parkOf s1 a k 0 2) }) s1).addFault
        (pageRecord s1 (dieOf t) a k l.tenant 0 2)))) ∧
  (∀ (s : State) (lid : BitVec 29) (t : Nat),
    let w := imageWords s lid t
    let tl := s.getTile t
    w.length = 1920 ∧ w.getD 0 0 = lid.setWidth 64 ∧ w.getD 2 0 = BitVec.ofNat 64 tl.live.length ∧
    (∀ j, 187 ≤ j → j < 192 → w.getD j 0 = 0) ∧
    (∀ k < 8, ∀ j < 14, w.getD (24 + 14 * k + j) 0 = if (tl.slot k).st = .empty then 0 else contextWord tl k j) ∧
    (∀ r : Fin 8, ∀ j < 4, w.getD (136 + 4 * r.val + j) 0 =
      (tl.ma[r].toList.getD (2 * j + 1) 0) ++ (tl.ma[r].toList.getD (2 * j) 0)))

/-- A context that is saved and restored (R344, R349, Table 20.4): every register of the user bank, the pending marks, the PAUSE count, the
open join, the hint, and the slot's %GPOL and %WDOGB come back as they were; of a held wave, its level, operation and contribution. -/
def Sys2Proof.Claims.SavedContext : Prop :=
  ∀ (tl : Tile) (k : Nat) (fresh : Slot), k < 8 →
    let sl := tl.slot k
    let back := restoreWords (contextWord tl k 11) (contextWord tl k 12) (contextWord tl k 13)
      ((List.range 12).foldl (fun x j => setContextWord j (contextWord tl k j) x) fresh)
    back.user = { sl.user with zPend := fresh.user.zPend } ∧ back.join = sl.join ∧ back.hint = sl.hint ∧ back.gpol = sl.gpol ∧
    back.wdogb = sl.wdogb ∧ (sl.pause < 2 ^ 24 → back.pause = sl.pause) ∧
    (sl.wave = none → back.wave = none) ∧
    (∀ w, sl.wave = some w → back.wave = some ⟨w.level, w.op, w.contrib, 0, none⟩)

/-- `SAVE_COMPLETE` (R343): once every tile is saved the record is PREEMPTED and its bays are free, or held by a launch that waits for them. -/
def Sys2Proof.Claims.SaveEnds : Prop :=
  ∀ (n : Nat) (s : State) (l : Launch), s.findLaunch (BitVec.ofNat 29 n) = some l → Listed s → l.st = .saving →
    ((∀ t ∈ l.tiles, t ∈ l.saved) → ∃ u, exec (.saveComplete n) s = .next u ∧ u.mem = s.mem ∧
      u.findLaunch l.lid = some { l with st := .preempted, bays := [], park := none } ∧
      (∀ b ∈ l.bays, (u.getBay b).launch = nextHolder s l.lid b) ∧ (∀ b, b ∉ l.bays → u.getBay b = s.getBay b)) ∧
    ((∃ t ∈ l.tiles, t ∉ l.saved) → exec (.saveComplete n) s = .next s)

/-- `RESUMPTION` (R171, R216, R337, R349, R359): a saved launch that holds its new bays takes the rotation that R359 permits where its circuits
still find room then, has its memory circuits set up, reads its images and re-points its circuits; it is then RUNNING, to be released. While
a circuit cannot be re-pointed it stays in PLACING (log entry 44); where an image cannot be read it ends with −0x46, and an absent page
parks it with a record of DOM 0 (log entry 78). -/
def Sys2Proof.Claims.Resumptions : Prop :=
  ∀ (n : Nat) (s : State) (l : Launch), s.findLaunch (BitVec.ofNat 29 n) = some l → l.st = .placing → l.saved ≠ [] → l.waits = false →
    holdsBays s l = true →
    let fits := fun x => (repointFit l l.levels l.threads x).toOption.isSome
    (l.dismissed = true → exec (.resumption n) s = .next (abortLaunch l 0x46 s)) ∧
    (l.dismissed = false →
      (∀ u, rotateStep l fits s = some u → exec (.resumption n) s = .next u) ∧
      (rotateStep l fits s = none →
        ((∃ b ∈ l.bays, (s.getBay b).memCid = none) →
          (fits s = true → exec (.resumption n) s = .next (plantBays l s)) ∧ (fits s = false → exec (.resumption n) s = .next s)) ∧
        ((∀ b ∈ l.bays, (s.getBay b).memCid ≠ none) →
          (∀ die c va, readImages s l.tenant 0 l.tiles = .error (die, .err c, va) →
            exec (.resumption n) s = .next (abortLaunch l 0x46 s)) ∧
          (∀ die k va, readImages s l.tenant 0 l.tiles = .error (die, .absent k, va) → exec (.resumption n) s =
            .next ((withRecord l.lid (fun x => { x with park := some (parkOf s va k 0 1) }) s).addFault
              (pageRecord s die va k l.tenant 0 1))) ∧
          (∀ ims, readImages s l.tenant 0 l.tiles = .ok ims →
            (∀ s1 ks, repointFit l l.levels l.threads s = .ok (s1, ks) → s1.findLaunch l.lid = some l → ∃ u x,
              exec (.resumption n) s = .next u ∧ u.findLaunch l.lid = some x ∧ x.st = .running ∧ x.released = [] ∧
              x.saved = [] ∧ x.kept = [] ∧ x.tiles = l.tiles ∧ x.threads = l.threads) ∧
            (fits s = false → exec (.resumption n) s = .next s)))))

/-- Launches from submission to their end.
The clauses are `Sys2Proof.Claims.Submissions`, `Sys2Proof.Claims.SignalWrites`, `Sys2Proof.Claims.QueueOrder`,
`Sys2Proof.Claims.SignalReads`, `Sys2Proof.Claims.SliceBoundaries`, `Sys2Proof.Claims.Offers`,
`Sys2Proof.Claims.Placements`, `Sys2Proof.Claims.Rotations`, `Sys2Proof.Claims.Releases`,
`Sys2Proof.Claims.LaunchEnds`, `Sys2Proof.Claims.BudgetEnds`. -/
def Obligations.LaunchEvents : Prop :=
  Sys2Proof.Claims.Submissions ∧
  Sys2Proof.Claims.SignalWrites ∧
  Sys2Proof.Claims.QueueOrder ∧
  Sys2Proof.Claims.SignalReads ∧
  Sys2Proof.Claims.SliceBoundaries ∧
  Sys2Proof.Claims.Offers ∧
  Sys2Proof.Claims.Placements ∧
  Sys2Proof.Claims.Rotations ∧
  Sys2Proof.Claims.Releases ∧
  Sys2Proof.Claims.LaunchEnds ∧
  Sys2Proof.Claims.BudgetEnds

/-- Saving and resuming launches.
The clauses are `Sys2Proof.Claims.TileSaves`, `Sys2Proof.Claims.SavedContext`, `Sys2Proof.Claims.SaveEnds`,
`Sys2Proof.Claims.Resumptions`. -/
def Obligations.SaveEvents : Prop :=
  Sys2Proof.Claims.TileSaves ∧
  Sys2Proof.Claims.SavedContext ∧
  Sys2Proof.Claims.SaveEnds ∧
  Sys2Proof.Claims.Resumptions

/-! ## Events: dies, links, resets, RDMA, boot and attestation -/

namespace Sys2Proof.Claims

/-- A tile as tile reset leaves it (R27); the model's own numbering of contexts and accesses goes on (log entry 3), and so does a retirement
of its bay that is due (R394). -/
def TileCleared (x : Tile) : Prop :=
  { x with retire := false, slots := x.slots.map fun sl => { sl with run := 0, nextSeq := 0, firstSeq := 0 } } = Tile.reset

/-- A signature of the scheme with the key of some 48 bytes: 7,856 bytes (R352, R407). Its randomness is free (log entry 47). -/
def Signed (sig seed body : List Byte) : Prop := sig.length = 7856 ∧ ∃ rand, rand.length = 16 ∧ sig = slhSign (slhKey seed) rand body

/-- What hub reset leaves besides reset values. -/
def AfterHubReset (s u : State) : Prop :=
  u.mem = s.mem ∧ u.meters = s.meters ∧ u.retireRec = s.retireRec ∧ u.flash = s.flash ∧ u.launches = [] ∧ u.queues = [] ∧ u.vfs = [] ∧
  u.circuits = [] ∧ u.flights = [] ∧ u.faults = [] ∧ u.bins = [] ∧ TileCleared u.tile ∧ u.others = []

/-- Up to 16 bits, saturating. -/
def saturated (x : BitVec 16) : BitVec 16 := BitVec.ofNat 16 (min 65535 (x.toNat + 1))

/-- Edge `e` of a die. -/
def edgeOf (s : State) (die e : Nat) : LinkStat := (s.getDie die).links.toList.getD e LinkStat.reset

/-- The die across an edge (R389). -/
def across (die e : Nat) : Nat := match e with | 0 => die - 4 | 1 => die + 1 | 2 => die + 4 | _ => die - 1
def HasCrossing (die e : Nat) : Prop :=
  die < 16 ∧ ((e = 0 ∧ 4 ≤ die) ∨ (e = 1 ∧ die % 4 ≠ 3) ∨ (e = 2 ∧ die < 12) ∨ (e = 3 ∧ die % 4 ≠ 0))

end Sys2Proof.Claims

/-- `HUB_RESET` (R405, R406, R408): the hub's tables take their reset values while memory and counters stand, and the boot runs: an absent or
overlong first stage stops it with 1, one that fails its checks with 2, 3 or 4; with all four images verified it brings up every die whose
stack trains and every spline link whose peer answers, derives the keys (R407) and ends at stage 8, or with 5 where none comes up. What hub
reset keeps is log entry 89; the code of an absent later image, 87; SHA-256 and the signature scheme are taken from their standards (log
entries 88 and 47). -/
def Sys2Proof.Claims.HubResets : Prop :=
  (∀ s : State, ∃ u, exec .hubReset s = .next u ∧ AfterHubReset s u ∧
    ((s.flash[0]? = none ∨ ∃ f, s.flash[0]? = some f ∧ 2 ^ 20 < f.length) → u.boot.stage = 0 ∧ u.boot.err = 1) ∧
    (∀ f c, s.flash[0]? = some f → f.length ≤ 2 ^ 20 → verifyImage s f = c → c ≠ 0 →
      u.boot.err = BitVec.ofNat 8 c ∧ u.boot.stage = if c = 3 then 2 else 1) ∧
    (∀ f, s.flash[0]? = some f → f.length ≤ 2 ^ 20 → (∀ i < 4, ∃ g, s.flash[i]? = some g ∧ verifyImage s g = 0) →
      (s.okDies &&& s.okStacks = 0 → u.boot.err = 5 ∧ u.boot.stage = 6) ∧
      (s.okDies &&& s.okStacks ≠ 0 → u.boot.err = 0 ∧ u.boot.stage = 8 ∧ u.boot.dies = (s.okDies &&& s.okStacks) ∧
        u.boot.gran = s.okGran ∧ u.boot.svn = f.svn ∧
        (∀ p : Fin 16, s.okSplines.getLsbD p = true → u.splines[p].up = true ∧ u.splines[p].present = true) ∧
        (∃ k, u.keys = some k ∧ k.identity = hkdf48 (List.replicate 32 0) s.secret ("ident".toList.map fun x => BitVec.ofNat 8 x.toNat) ∧
          k.metering = hkdf48 (sha256 ((u.meas.toList.take 4).flatMap digestBytes)) s.secret
            ("meter".toList.map fun x => BitVec.ofNat 8 x.toNat)) ∧
        ∀ d < 16, (u.getDie d).up = (s.okDies.getLsbD d && s.okStacks.getLsbD d)))) ∧
  (∀ (s : State) (f : Firmware), verifyImage s f =
    if digestOf (sha256 f.key) ≠ s.fuseKey then 2
    else if f.svn.toNat < s.fuseSvn.toNat then 4
    else if slhVerify f.key (Config.headerBytes f.length f.svn f.key ++ f.image) f.sig = false then 3 else 0)

/-- `MEAS_EXTEND` (R406): once the reeve runtime runs, MEAS5 to MEAS7 are extended by a digest; the others are not the host's to extend. -/
def Sys2Proof.Claims.Measurements : Prop :=
  ∀ (i : Nat) (m : BitVec 256) (s : State), i < 8 →
    let v := digestOf (sha256 (digestBytes (s.meas.toList.getD i 0) ++ digestBytes m))
    (5 ≤ i → 5 ≤ s.boot.stage.toNat → exec (.measExtend i m) s = .next { s with meas := s.meas.set! i v }) ∧
    (i < 5 ∨ s.boot.stage.toNat < 5 → exec (.measExtend i m) s = .next s)

/-- `METERING_SNAPSHOT` (R352): once boot has derived the metering key, the sequence number rises by one, and the 192-byte body holds the
tenant, the number, the nonce, the hub cycle count, the module's identity and the sixteen counters; it goes out with its signature, of 7,856
bytes. That the first number is 1 is log entry 83. -/
def Sys2Proof.Claims.Snapshots : Prop :=
  ∀ (tenant : Nat) (nonce : BitVec 256) (s : State), tenant < 512 →
    (s.keys = none → exec (.meteringSnapshot tenant nonce) s = .next s) ∧
    (∀ k, s.keys = some k → ∃ body sig : List Byte,
      exec (.meteringSnapshot tenant nonce) s =
        .next { s with snapSeq := s.snapSeq + 1, free := s.free + 1, out := s.out ++ [.snapshot body sig] } ∧
      body.length = 192 ∧ (dwordOf (body.take 8)).toNat = tenant ∧ dwordOf ((body.drop 8).take 8) = s.snapSeq + 1 ∧
      (body.drop 16).take 32 = bytesOf 32 nonce ∧ dwordOf ((body.drop 48).take 8) = s.hubCyc ∧
      (∀ ix < 16, dwordOf ((body.drop (64 + 8 * ix)).take 8) = if ix = 15 then 0 else SMap.get 0 s.meters (tenant * 16 + ix)) ∧
      Signed sig k.metering body)

/-- The attestation responder (R409): each request is answered; SHA-256 and SLH-DSA-SHA2-128s are offered; measurements come singly by index 1
to 8 or all at 0xFF; slot 0 holds the identity key's chain, slot 1, once boot has derived the keys, that chain and the metering key's
certificate; a challenge is signed with the key of its slot; every other request code is UnsupportedRequest. What a challenge signs, the
certificates and an index or slot that is not there are the model's own (log entries 47, 87, 105). -/
def Sys2Proof.Claims.Attestation : Prop :=
  ∀ s : State,
    exec .getVersion s = .next (answered .spdmVersion s) ∧ exec .getCapabilities s = .next (answered .spdmCapabilities s) ∧
    exec .negotiateAlgorithms s = .next (answered (.spdmAlgorithms [.sha256, .stolnelSlhDsaSha2_128s]) s) ∧
    (∃ root : List Byte,
      (s.keys = none → exec .getDigests s = .next (answered (.spdmDigests [digestOf (sha256 root)]) s)) ∧
      (∀ k, s.keys = some k → exec .getDigests s =
        .next (answered (.spdmDigests [digestOf (sha256 root), digestOf (sha256 (root ++ k.cert))]) s)) ∧
      exec (.getCertificate 0) s = .next (answered (.spdmCertificate 0 root) s) ∧
      (∀ k, s.keys = some k → exec (.getCertificate 1) s = .next (answered (.spdmCertificate 1 (root ++ k.cert)) s)) ∧
      (∀ i, 2 ≤ i ∨ (i = 1 ∧ s.keys = none) → exec (.getCertificate i) s = .next (answered (.spdmError 1) s))) ∧
    (∀ nonce slot k, s.keys = some k → slot < 2 → ∃ sig body,
      exec (.challenge ⟨slot, nonce⟩) s = .next (answered (.spdmChallenge slot sig) { s with free := s.free + 1 }) ∧
      Signed sig (if slot = 0 then k.identity else k.metering) body) ∧
    (∀ nonce slot, s.keys = none ∨ 2 ≤ slot →
      exec (.challenge ⟨slot, nonce⟩) s = .next (answered (.spdmError 1) { s with free := s.free + 1 })) ∧
    exec (.getMeasurements 0xFF) s = .next (answered (.spdmMeasurements s.meas.toList) s) ∧
    (∀ i : Fin 8, exec (.getMeasurements (i.val + 1)) s = .next (answered (.spdmMeasurements [s.meas[i]]) s)) ∧
    (∀ i, i = 0 ∨ 8 < i → i ≠ 0xFF → exec (.getMeasurements i) s = .next (answered (.spdmError 1) s)) ∧
    (∀ code, exec (.spdmUnsupported code) s = .next (answered (.spdmError 7) s))

/-- `CROSSING_CALIBRATION` (R389, R390): a successful attempt between dies that are up puts both ends UP with offset 16; a failing one leaves
them down, and the 4,096th in a row loses the link, as R393 says; RETRAIN counts attempts, saturating. -/
def Sys2Proof.Claims.Calibrations : Prop :=
  ∀ (die e : Nat) (ok : Bool) (s : State), HasCrossing die e →
    let b := across die e
    let f := (e + 2) % 4
    let good := ok = true ∧ (s.getDie die).up = true ∧ (s.getDie b).up = true
    ∃ u, exec (.crossingCalibration die e ok) s = .next u ∧ u.mem = s.mem ∧
      (good → edgeOf u die e = ⟨true, true, saturated (edgeOf s die e).retrain, 16, 0⟩ ∧
        edgeOf u b f = ⟨true, true, saturated (edgeOf s b f).retrain, 16, 0⟩ ∧ u = { s with dies := u.dies }) ∧
      (¬ good → (edgeOf u die e).up = false ∧ (edgeOf u b f).up = false ∧ (edgeOf u die e).offset = 0 ∧
        (edgeOf u die e).retrain = saturated (edgeOf s die e).retrain ∧
        ((edgeOf s die e).failing ≠ 4095 → u = { s with dies := u.dies } ∧ (edgeOf u die e).failing = (edgeOf s die e).failing + 1) ∧
        ((edgeOf s die e).failing = 4095 → (∃ v, v = { s with dies := v.dies } ∧ exec (.targetLoss (.crossing die e)) v = .next u) ∧
          (Tabled s → ∀ kc ∈ u.circuits, crossesPair die b (pathDies kc.2) = false)))

/-- `SPLINE_EXCHANGE` (R393, R399): the first exchange takes the link up with the measured delay and offset; a later one that agrees leaves it
up; one that differs loses the link: it is down, no circuit goes over it, and what is under way over it ends as R393 says. -/
def Sys2Proof.Claims.SplineExchanges : Prop :=
  ∀ (p t1 t2 t3 t4 : Nat) (off : BitVec 6) (s : State), p < 16 →
    let x := s.splines.toList.getD p SplStat.reset
    let d := BitVec.ofInt 16 (((t4 - t1 : Int) - (t3 - t2) + 1) / 2)
    let n := saturated x.realign
    let set := fun (y : SplStat) => ({ s with splines := s.splines.set! p y } : State)
    (x.up = false ∨ (x.lat = d ∧ x.off = off) → exec (.splineExchange p t1 t2 t3 t4 off) s = .next (set ⟨true, true, n, d, off⟩)) ∧
    (x.up = true → (x.lat ≠ d ∨ x.off ≠ off) → ∃ u, exec (.splineExchange p t1 t2 t3 t4 off) s = .next u ∧
      exec (.targetLoss (.spline p)) (set ⟨true, true, n, x.lat, x.off⟩) = .next u ∧
      u.splines = s.splines.set! p ⟨false, true, n, x.lat, x.off⟩ ∧ u.mem = s.mem ∧
      (Tabled s → ∀ kc ∈ u.circuits, ∀ h ∈ kc.2.fwd, splineOf h.port ≠ some p))

/-- What a loss does to a request that can never arrive (R332, R393): it completes with `TARGET_LOST`: a store at NB, a message at NM with its
header in %TADDR (log entry 85), a load or an atomic at the register it was to write, a pull with its record, STATUS 4. -/
def Sys2Proof.Claims.LostRequests : Prop :=
  ∀ (r : Req) (s : State),
    let closed := fun (sl : Slot) => ({ sl with accs := sl.accs.filter (·.seq ≠ r.seq) } : Slot)
    (∀ d, r.op = .store d → loseReq r s = s.modSlotAt r.tile r.slot fun sl =>
      if sl.run = r.run then { closed sl with nb := sl.nb - 1, derr := sl.derr ++ [lateError r 0x12] } else closed sl) ∧
    (∀ hdr pay, r.op = .msg hdr pay → loseReq r s = s.modSlotAt r.tile r.slot fun sl =>
      if sl.run = r.run then { closed sl with nm := sl.nm - 1, derr := sl.derr ++ [⟨⟨0x12, hdr, ⟨false, true, r.pc, 0⟩⟩⟩] } else closed sl) ∧
    (∀ m k, r.op = .load m k → loseReq r s = s.modSlotAt r.tile r.slot (slotReply r [] false (some 0x12) false)) ∧
    (∀ fn m a e, r.op = .amo fn m a e → loseReq r s = s.modSlotAt r.tile r.slot (slotReply r [] false (some 0x12) false)) ∧
    (∀ src len dst blk, r.op = .pull src len dst blk → loseReq r s =
      s.complete r.tile r.slot r.run 2 4 0 0 (pullWord (BitVec.ofNat 16 r.rank) len (BitVec.ofNat 15 dst)))

/-- `TARGET_LOSS` (R393): the die is down, no circuit touches it, no request is on its way to it, and no rank names a tile of it; a lost
crossing is down at both ends, and no circuit crosses it; a lost module is on record; a lost spline link is down, and no circuit goes over it;
no request is on a circuit that was lost. What a loss does to bulk accesses over a crossing is log entry 85; to the circuits of a spline
link, 34. -/
def Sys2Proof.Claims.Losses : Prop :=
  (∀ (d : Nat) (s : State), d < 16 → Tabled s → ∃ u, exec (.targetLoss (.die d)) s = .next u ∧ (u.getDie d).up = false ∧
    u.mem = s.mem ∧ (∀ kc ∈ u.circuits, d ∉ circuitDies kc.2) ∧
    (∀ f ∈ u.flights, f.phase = .wire → ∀ die cid dst slot, f.req.route = .tile die cid dst slot → dst < tileCount → dieOf dst ≠ d) ∧
    (∀ t r, let e := (u.getTile t).rank r
      e.valid = true → e.tileNo s.modNo < tileCount → dieOf (e.tileNo s.modNo) ≠ d) ∧
    (∀ t, dieOf t = d → TileCleared (u.getTile t))) ∧
  (∀ (m : Nat) (s : State), m < 4096 → ∃ u, exec (.targetLoss (.module m)) s = .next u ∧ m ∈ u.lostMods ∧ u.mem = s.mem ∧
    ∀ t r, let e := (u.getTile t).rank r
      e.valid = true → e.tileNo s.modNo / tileCount ≠ m + 1) ∧
  (∀ (die e : Nat) (s : State), HasCrossing die e → ∃ u, exec (.targetLoss (.crossing die e)) s = .next u ∧
    (edgeOf u die e).up = false ∧ (edgeOf u (across die e) ((e + 2) % 4)).up = false ∧ u.mem = s.mem ∧
    (Tabled s → ∀ kc ∈ u.circuits, crossesPair die (across die e) (pathDies kc.2) = false) ∧
    (∀ f ∈ u.flights, f.phase = .wire → ∀ c cid dst slot, f.req.route = .tile c cid dst slot →
      circuitKey c cid ∉ s.circuitsWith fun x => crossesPair die (across die e) (pathDies x))) ∧
  (∀ (p : Nat) (s : State), p < 16 → ∃ u, exec (.targetLoss (.spline p)) s = .next u ∧ u.mem = s.mem ∧
    u.splines = s.splines.set! p { s.splines.toList.getD p SplStat.reset with up := false } ∧
    (Tabled s → ∀ kc ∈ u.circuits, ∀ h ∈ kc.2.fwd, splineOf h.port ≠ some p) ∧
    (∀ f ∈ u.flights, f.phase = .wire → ∀ c cid dst slot, f.req.route = .tile c cid dst slot →
      circuitKey c cid ∉ s.circuitsWith fun x => x.fwd.any fun h => splineOf h.port == some p))

/-- `DIE_RESET`, `PARTITION_RESET` and `FUNCTION_LEVEL_RESET` (R27, R145, R391, R392): every tile of a reset die is as after tile reset and its
links are down; a partition's tiles are too, its lofts read zero, its bays are free or with a launch that waits for them, their permission
tables empty, no word or credit of their neighbour links is under way, and bins are not reset; no record of a reset function is left, and the
others stay. -/
def Sys2Proof.Claims.Resets : Prop :=
  (∀ (d : Nat) (s : State), d < 16 → ∃ u, exec (.dieReset d) s = .next u ∧ u.mem = s.mem ∧ u.launches = s.launches ∧
    (∀ t, dieOf t = d → TileCleared (u.getTile t)) ∧ (∀ e < 4, edgeOf u d e = ⟨false, false, 0, 0, 0⟩) ∧
    (u.getDie d).fc = 0 ∧ (u.getDie d).tlb = [] ∧ (u.getDie d).pwr = ⟨320, 0, 256, true, 12⟩ ∧
    (u.getDie d).up = (s.okDies.getLsbD d && s.okStacks.getLsbD d)) ∧
  (∀ (tenant : Nat) (s : State), tenant < 512 → Listed s → (∀ b ∈ (s.getTenant tenant).part, b < 10240) →
    ∃ u, exec (.partitionReset tenant) s = .next u ∧ u.bins = s.bins ∧
      ∀ b ∈ (s.getTenant tenant).part, (∀ t, bayOf t = b → TileCleared (u.getTile t)) ∧ (u.getBay b).cyc = 0 ∧ (u.getBay b).perms = [] ∧
        (∀ w ∈ u.words, ∀ t e, w.dst = .link t e → bayOf t ≠ b) ∧ (∀ t e, .link t e ∈ u.credits → bayOf t ≠ b) ∧
        (∀ a < 65536, byteAt u (loftBase b + a) = 0) ∧
        ((∀ l ∈ u.launches, l.st = .placing → b ∉ l.bays) → (u.getBay b).launch = none)) ∧
  (∀ (vf : Nat) (s : State), vf < 256 → ∃ u, exec (.functionLevelReset vf) s = .next u ∧ (∀ l ∈ u.launches, l.vf ≠ vf) ∧
    ∀ l ∈ s.launches, (∀ x ∈ s.launches, x.vf = vf → x.lid ≠ l.lid) → l ∈ u.launches)

/-- `BAY_RETIREMENT` (R394): a bay whose retirement a tile has asked for is pre-empted where a launch runs on it; once free it is in transit,
then moves to a free spare of its column class; where there is none it leaves service; its physical bay is retired and the record, which names
it, kept; a bay that no tile asks for stays. That this takes two events is log entry 46. -/
def Sys2Proof.Claims.Retirements : Prop :=
  ∀ (bay : Nat) (s : State), bay < 10240 →
    let d := s.getDie (bay / 640)
    let b := bay % 640
    let m := d.bayMap b
    let gone : Die := { d with retired := d.retired ++ [m.phys.toNat] }
    (retireAsked s bay = false → exec (.bayRetirement bay) s = .next s) ∧
    (∀ lid l, retireAsked s bay = true → (s.getBay bay).launch = some lid → s.findLaunch lid = some l →
      (l.st = .running → ∃ u, exec (.bayRetirement bay) s = .next u ∧ u.findLaunch lid = some { l with st := .saving, saved := [] }) ∧
      (l.st ≠ .running → exec (.bayRetirement bay) s = .next s)) ∧
    (∀ p, retireAsked s bay = true → (s.getBay bay).launch = none → m.transit = false → freeSpare s bay = some p →
      ∃ u, exec (.bayRetirement bay) s = .next u ∧ u = { s with dies := u.dies } ∧
        u.getDie (bay / 640) = d.setBayMap b { m with transit := true }) ∧
    (retireAsked s bay = true → (s.getBay bay).launch = none → (m.transit = true ∨ freeSpare s bay = none) →
      ∃ u, exec (.bayRetirement bay) s = .next u ∧ u.mem = s.mem ∧
      (∀ t, bayOf t = bay → TileCleared (u.getTile t) ∧ (Listed s → (u.getTile t).retire = false)) ∧
      (freeSpare s bay = none → u.getDie (bay / 640) = gone.setBayMap b { m with insrv := false, transit := false } ∧
        u.retireRec = s.retireRec ++ [(bay / 640, m.phys.toNat, 1023)]) ∧
      (∀ p, freeSpare s bay = some p →
        u.getDie (bay / 640) = gone.setBayMap b { m with phys := BitVec.ofNat 10 p, transit := false, retold := true } ∧
        u.retireRec = s.retireRec ++ [(bay / 640, m.phys.toNat, p)])) ∧
    (∀ p, freeSpare s bay = some p → p ∈ [640, 641, 642, 643] ∧ p ∉ d.retired ∧ (∀ bm ∈ d.baymap, bm.2.phys.toNat ≠ p) ∧
      columnClass (match p with | 640 => 2 | 641 => 8 | 642 => 24 | _ => 15) = columnClass (b % 32))

/-- RDMA (R402 to R404): at the source, a copy to another module sends its doublewords in packets of up to 256 bytes of one row, under the next
sequence number of its connection, and ends when the target acknowledges it; at the target, a packet of a completed copy, of one beyond the
window, or with an offset already received writes nothing; a new one writes all its bytes but the flagged doubleword, which is kept; the
flagged write of the next copy in sequence is performed once every byte of it has arrived, and acknowledged. A miss of the connection cache
changes no connection. Packets beyond the window and how a packet names a tile are log entry 86. -/
def Sys2Proof.Claims.RemoteCopies : Prop :=
  (∀ (t : Nat) (s : State) (c : Copy), t < tileCount → (s.getTile t).copyRun = some c → c.park = none → copyFar c t s = true →
    let row := (c.dw[2].extractLsb' 0 24).toNat / 8
    let n := (c.dw[2].extractLsb' 24 16).toNat * row
    let e := fun (x : State) => windowHome x t (BitVec.ofNat 72 (copyStart false c.dw))
    let ack := fun q => ((e s).module.toNat, c.tenant, q)
    (c.pos = n → ∀ q, c.seq = some q →
      (ack q ∈ s.rdmaAcks → exec (.copyCompletion t) s =
        .next ((({ s with rdmaAcks := s.rdmaAcks.erase (ack q) } : State).modTile t fun tl => { tl with copyRun := none }).complete t c.slot c.run
          1 0 0 c.block 0)) ∧
      (ack q ∉ s.rdmaAcks → exec (.copyCompletion t) s = .next s)) ∧
    (c.pos < n → windowOpenTo s c t (BitVec.ofNat 72 (copyStart false c.dw)) = false → exec (.copyCompletion t) s =
      .next ((s.modTile t fun tl => { tl with copyRun := none }).complete t c.slot c.run 1 1
        (BitVec.ofNat 8 (copyStart false c.dw / 2 ^ 64)) c.block (BitVec.ofNat 64 (copyStart false c.dw)))) ∧
    (∀ data s1, windowOpenTo s c t (BitVec.ofNat 72 (copyStart false c.dw)) = true → ReadAll c t data c.pos s s1 → 0 < data.length →
      c.pos + data.length = n →
      let m := (e s1).module.toNat
      let q := c.seq.getD (SMap.get 0 s1.rdmaSeq (c.tenant * 4096 + m) + 1)
      ∃ (ps : List Out) (u : State), exec (.copyCompletion t) s = .next u ∧ u.out = s1.out ++ ps ∧ u.mem = s1.mem ∧
        (u.getTile t).copyRun = some { c with pos := n, seq := some q } ∧
        (c.seq = none → SMap.get 0 u.rdmaSeq (c.tenant * 4096 + m) = q) ∧
        (∀ o ∈ ps, ∃ i k, c.pos ≤ i ∧ 0 < k ∧ k ≤ 32 ∧ i + k ≤ n ∧ i / row = (i + k - 1) / row ∧
          o = .rdma m c.tenant (farBase (e s1) (copyVa false c.dw i)) q (8 * i) (((data.drop (i - c.pos)).take k).flatten) (8 * n)) ∧
        (∀ i, c.pos ≤ i → i < n → ∃ o ∈ ps, ∃ va lo bs, o = .rdma m c.tenant va q lo bs (8 * n) ∧ lo ≤ 8 * i ∧ 8 * i + 8 ≤ lo + bs.length))) ∧
  (∀ (m tenant : Nat) (q : BitVec 32) (s : State), m < 4096 → tenant < 512 →
    exec (.rdmaPacket (.ack m tenant q)) s = .next { s with rdmaAcks := s.rdmaAcks ++ [(m, tenant, q)] }) ∧
  (∀ (p : Packet) (s : State) (i : Nat) (c : Conn), packetOk p = true → connIndex s p.tenant p.source = some i → s.conns[i]? = some c →
    let ahead := (p.seq - c.last).toInt
    let seen := ∃ x ∈ c.window, x.seq = p.seq ∧ ∃ g ∈ x.got, g.1 ≤ p.offset ∧ p.offset < g.1 + g.2
    (ahead ≤ 0 ∨ 64 < ahead ∨ seen → exec (.rdmaPacket (.data p)) s = .next s) ∧
    (0 < ahead → ahead ≤ 64 → ¬ seen →
      let len := p.bytes.length
      let last := decide (p.offset + len = p.total)
      let now := if last then len - 8 else len
      ∃ c' y, exec (.rdmaPacket (.data p)) s = .next { packetWrites p.tenant (now / 8) p.base (p.bytes.take now) s with conns := s.conns.set i c' } ∧
        c'.last = c.last ∧ y ∈ c'.window ∧ y.seq = p.seq ∧ (p.offset, len) ∈ y.got ∧
        (last = true → y.flag = some (p.base + BitVec.ofNat 72 now, p.bytes.drop now)))) ∧
  (∀ (n : Nat) (s : State) (c : Conn) (x : RdmaCopy), s.conns[n]? = some c → c.window.find? (·.seq == c.last + 1) = some x →
    let whole := ∀ j < x.total / 8, ∃ g ∈ x.got, g.1 ≤ 8 * j ∧ 8 * j + 8 ≤ g.1 + g.2
    (∀ va bs, x.flag = some (va, bs) → whole → ∃ c',
      let acked := s.out ++ [Out.rdmaAck c.source c.tenant x.seq]
      exec (.rdmaFlagWrite n) s = .next { packetWrite c.tenant va bs s with conns := s.conns.set n c', out := acked } ∧
      c'.last = c.last + 1 ∧ ∀ y ∈ c'.window, y.seq ≠ c.last + 1) ∧
    (x.flag = none ∨ ¬ whole → exec (.rdmaFlagWrite n) s = .next s)) ∧
  (∀ (n : Nat) (s : State), ∃ cs : List Conn, exec (.connectionMiss n) s = .next { s with conns := cs } ∧
    cs.map (fun c => { c with cached := true }) = s.conns.map (fun c => { c with cached := true })) ∧
  (∀ (tenant : Nat) (va : VA) (bs : List Byte) (s : State),
    let t := packetTile va
    (∀ l g s1, (s.getTile t).launch = some l → l.tenant = tenant →
      g = (if ((s.getTile t).slot (va.toNat / 2 ^ 40 % 8)).st = .empty then l.gen else ((s.getTile t).slot (va.toNat / 2 ^ 40 % 8)).gen) →
      s.spWrite t g (va.toNat % 2 ^ 15) (bs.map some) = .ok s1 → packetWrite tenant va bs s = s1) ∧
    ((∀ l, (s.getTile t).launch = some l → l.tenant ≠ tenant) → packetWrite tenant va bs s = s))

/-- Boot, links, losses, resets and remote copies.
The clauses are `Sys2Proof.Claims.HubResets`, `Sys2Proof.Claims.Measurements`, `Sys2Proof.Claims.Snapshots`,
`Sys2Proof.Claims.Attestation`, `Sys2Proof.Claims.Calibrations`, `Sys2Proof.Claims.SplineExchanges`,
`Sys2Proof.Claims.LostRequests`, `Sys2Proof.Claims.Losses`, `Sys2Proof.Claims.Resets`, `Sys2Proof.Claims.Retirements`,
`Sys2Proof.Claims.RemoteCopies`. -/
def Obligations.OutsideEvents : Prop :=
  Sys2Proof.Claims.HubResets ∧
  Sys2Proof.Claims.Measurements ∧
  Sys2Proof.Claims.Snapshots ∧
  Sys2Proof.Claims.Attestation ∧
  Sys2Proof.Claims.Calibrations ∧
  Sys2Proof.Claims.SplineExchanges ∧
  Sys2Proof.Claims.LostRequests ∧
  Sys2Proof.Claims.Losses ∧
  Sys2Proof.Claims.Resets ∧
  Sys2Proof.Claims.Retirements ∧
  Sys2Proof.Claims.RemoteCopies
end

