-- ==== Sys2Proof/Laws/State.lean ====
section
/-! SUPPORT. What each update of the state leaves unchanged and what reading it back gives: one lemma per field
per update. -/

set_option Elab.async false

namespace Sys2Proof.Machine

/-! ### The issuing slot and bank -/

@[simp] theorem slot_setSlot (s : State) (x : Slot) : (s.setSlot x).slot = x := by simp [State.setSlot, State.slot]
@[simp] theorem setSlot_setSlot (s : State) (x y : Slot) : (s.setSlot x).setSlot y = s.setSlot y := by
  simp [State.setSlot]
@[simp] theorem modSlot_eq (s : State) (f : Slot → Slot) : s.modSlot f = s.setSlot (f s.slot) := rfl
@[simp] theorem setWait_eq (s : State) (w : Option Wait) : setWait w s = s.setSlot { s.slot with wait := w } := rfl
@[simp] theorem bank_setBank (s : State) (b : Bank) : (s.setBank b).bank = b := by
  simp only [State.setBank, State.bank, slot_setSlot, Slot.setBank, Slot.bank]
  by_cases h : s.slot.priv <;> simp [h]
@[simp] theorem setBank_setBank (s : State) (b c : Bank) : (s.setBank b).setBank c = s.setBank c := by
  simp only [State.setBank, slot_setSlot, setSlot_setSlot, Slot.setBank]
  by_cases h : s.slot.priv <;> simp [h]

@[simp] theorem tid_setSlot (s : State) (x : Slot) : (s.setSlot x).tid = s.tid := rfl
@[simp] theorem cur_setSlot (s : State) (x : Slot) : (s.setSlot x).cur = s.cur := rfl
@[simp] theorem others_setSlot (s : State) (x : Slot) : (s.setSlot x).others = s.others := rfl
@[simp] theorem bays_setSlot (s : State) (x : Slot) : (s.setSlot x).bays = s.bays := rfl
@[simp] theorem dies_setSlot (s : State) (x : Slot) : (s.setSlot x).dies = s.dies := rfl
@[simp] theorem mem_setSlot (s : State) (x : Slot) : (s.setSlot x).mem = s.mem := rfl
@[simp] theorem slotTab_setSlot (s : State) (x : Slot) : (s.setSlot x).slotTab = s.slotTab := rfl
@[simp] theorem circuits_setSlot (s : State) (x : Slot) : (s.setSlot x).circuits = s.circuits := rfl
@[simp] theorem links_setSlot (s : State) (x : Slot) : (s.setSlot x).links = s.links := rfl
@[simp] theorem drains_setSlot (s : State) (x : Slot) : (s.setSlot x).drains = s.drains := rfl
@[simp] theorem flights_setSlot (s : State) (x : Slot) : (s.setSlot x).flights = s.flights := rfl
@[simp] theorem words_setSlot (s : State) (x : Slot) : (s.setSlot x).words = s.words := rfl
@[simp] theorem credits_setSlot (s : State) (x : Slot) : (s.setSlot x).credits = s.credits := rfl
@[simp] theorem streams_setSlot (s : State) (x : Slot) : (s.setSlot x).streams = s.streams := rfl
@[simp] theorem gran_setSlot (s : State) (x : Slot) : (s.setSlot x).gran = s.gran := rfl
@[simp] theorem bins_setSlot (s : State) (x : Slot) : (s.setSlot x).bins = s.bins := rfl
@[simp] theorem bg_setSlot (s : State) (x : Slot) : (s.setSlot x).bg = s.bg := rfl
@[simp] theorem episodes_setSlot (s : State) (x : Slot) : (s.setSlot x).episodes = s.episodes := rfl
@[simp] theorem waves_setSlot (s : State) (x : Slot) : (s.setSlot x).waves = s.waves := rfl
@[simp] theorem launches_setSlot (s : State) (x : Slot) : (s.setSlot x).launches = s.launches := rfl
@[simp] theorem owed_setSlot (s : State) (x : Slot) : (s.setSlot x).owed = s.owed := rfl
@[simp] theorem tenants_setSlot (s : State) (x : Slot) : (s.setSlot x).tenants = s.tenants := rfl
@[simp] theorem queues_setSlot (s : State) (x : Slot) : (s.setSlot x).queues = s.queues := rfl
@[simp] theorem vfs_setSlot (s : State) (x : Slot) : (s.setSlot x).vfs = s.vfs := rfl
@[simp] theorem meters_setSlot (s : State) (x : Slot) : (s.setSlot x).meters = s.meters := rfl
@[simp] theorem snapSeq_setSlot (s : State) (x : Slot) : (s.setSlot x).snapSeq = s.snapSeq := rfl
@[simp] theorem hubCyc_setSlot (s : State) (x : Slot) : (s.setSlot x).hubCyc = s.hubCyc := rfl
@[simp] theorem slice_setSlot (s : State) (x : Slot) : (s.setSlot x).slice = s.slice := rfl
@[simp] theorem ptRoot_setSlot (s : State) (x : Slot) : (s.setSlot x).ptRoot = s.ptRoot := rfl
@[simp] theorem fgen_setSlot (s : State) (x : Slot) : (s.setSlot x).fgen = s.fgen := rfl
@[simp] theorem faults_setSlot (s : State) (x : Slot) : (s.setSlot x).faults = s.faults := rfl
@[simp] theorem heldFaults_setSlot (s : State) (x : Slot) : (s.setSlot x).heldFaults = s.heldFaults := rfl
@[simp] theorem invals_setSlot (s : State) (x : Slot) : (s.setSlot x).invals = s.invals := rfl
@[simp] theorem metr_setSlot (s : State) (x : Slot) : (s.setSlot x).metr = s.metr := rfl
@[simp] theorem subs_setSlot (s : State) (x : Slot) : (s.setSlot x).subs = s.subs := rfl
@[simp] theorem wheels_setSlot (s : State) (x : Slot) : (s.setSlot x).wheels = s.wheels := rfl
@[simp] theorem wheelOn_setSlot (s : State) (x : Slot) : (s.setSlot x).wheelOn = s.wheelOn := rfl
@[simp] theorem flrs_setSlot (s : State) (x : Slot) : (s.setSlot x).flrs = s.flrs := rfl
@[simp] theorem newLids_setSlot (s : State) (x : Slot) : (s.setSlot x).newLids = s.newLids := rfl
@[simp] theorem boot_setSlot (s : State) (x : Slot) : (s.setSlot x).boot = s.boot := rfl
@[simp] theorem meas_setSlot (s : State) (x : Slot) : (s.setSlot x).meas = s.meas := rfl
@[simp] theorem splines_setSlot (s : State) (x : Slot) : (s.setSlot x).splines = s.splines := rfl
@[simp] theorem modNo_setSlot (s : State) (x : Slot) : (s.setSlot x).modNo = s.modNo := rfl
@[simp] theorem identity_setSlot (s : State) (x : Slot) : (s.setSlot x).identity = s.identity := rfl
@[simp] theorem flash_setSlot (s : State) (x : Slot) : (s.setSlot x).flash = s.flash := rfl
@[simp] theorem fuseKey_setSlot (s : State) (x : Slot) : (s.setSlot x).fuseKey = s.fuseKey := rfl
@[simp] theorem fuseSvn_setSlot (s : State) (x : Slot) : (s.setSlot x).fuseSvn = s.fuseSvn := rfl
@[simp] theorem secret_setSlot (s : State) (x : Slot) : (s.setSlot x).secret = s.secret := rfl
@[simp] theorem okStacks_setSlot (s : State) (x : Slot) : (s.setSlot x).okStacks = s.okStacks := rfl
@[simp] theorem okDies_setSlot (s : State) (x : Slot) : (s.setSlot x).okDies = s.okDies := rfl
@[simp] theorem okGran_setSlot (s : State) (x : Slot) : (s.setSlot x).okGran = s.okGran := rfl
@[simp] theorem okSplines_setSlot (s : State) (x : Slot) : (s.setSlot x).okSplines = s.okSplines := rfl
@[simp] theorem keys_setSlot (s : State) (x : Slot) : (s.setSlot x).keys = s.keys := rfl
@[simp] theorem lostMods_setSlot (s : State) (x : Slot) : (s.setSlot x).lostMods = s.lostMods := rfl
@[simp] theorem retireRec_setSlot (s : State) (x : Slot) : (s.setSlot x).retireRec = s.retireRec := rfl
@[simp] theorem conns_setSlot (s : State) (x : Slot) : (s.setSlot x).conns = s.conns := rfl
@[simp] theorem rdmaSeq_setSlot (s : State) (x : Slot) : (s.setSlot x).rdmaSeq = s.rdmaSeq := rfl
@[simp] theorem rdmaAcks_setSlot (s : State) (x : Slot) : (s.setSlot x).rdmaAcks = s.rdmaAcks := rfl
@[simp] theorem badBulk_setSlot (s : State) (x : Slot) : (s.setSlot x).badBulk = s.badBulk := rfl
@[simp] theorem out_setSlot (s : State) (x : Slot) : (s.setSlot x).out = s.out := rfl
@[simp] theorem turns_setSlot (s : State) (x : Slot) : (s.setSlot x).turns = s.turns := rfl
@[simp] theorem acted_setSlot (s : State) (x : Slot) : (s.setSlot x).acted = s.acted := rfl
@[simp] theorem uid_setSlot (s : State) (x : Slot) : (s.setSlot x).uid = s.uid := rfl
@[simp] theorem free_setSlot (s : State) (x : Slot) : (s.setSlot x).free = s.free := rfl

@[simp] theorem tid_setBank (s : State) (b : Bank) : (s.setBank b).tid = s.tid := rfl
@[simp] theorem cur_setBank (s : State) (b : Bank) : (s.setBank b).cur = s.cur := rfl
@[simp] theorem others_setBank (s : State) (b : Bank) : (s.setBank b).others = s.others := rfl
@[simp] theorem bays_setBank (s : State) (b : Bank) : (s.setBank b).bays = s.bays := rfl
@[simp] theorem dies_setBank (s : State) (b : Bank) : (s.setBank b).dies = s.dies := rfl
@[simp] theorem mem_setBank (s : State) (b : Bank) : (s.setBank b).mem = s.mem := rfl
@[simp] theorem slotTab_setBank (s : State) (b : Bank) : (s.setBank b).slotTab = s.slotTab := rfl
@[simp] theorem circuits_setBank (s : State) (b : Bank) : (s.setBank b).circuits = s.circuits := rfl
@[simp] theorem links_setBank (s : State) (b : Bank) : (s.setBank b).links = s.links := rfl
@[simp] theorem drains_setBank (s : State) (b : Bank) : (s.setBank b).drains = s.drains := rfl
@[simp] theorem flights_setBank (s : State) (b : Bank) : (s.setBank b).flights = s.flights := rfl
@[simp] theorem words_setBank (s : State) (b : Bank) : (s.setBank b).words = s.words := rfl
@[simp] theorem credits_setBank (s : State) (b : Bank) : (s.setBank b).credits = s.credits := rfl
@[simp] theorem streams_setBank (s : State) (b : Bank) : (s.setBank b).streams = s.streams := rfl
@[simp] theorem gran_setBank (s : State) (b : Bank) : (s.setBank b).gran = s.gran := rfl
@[simp] theorem bins_setBank (s : State) (b : Bank) : (s.setBank b).bins = s.bins := rfl
@[simp] theorem bg_setBank (s : State) (b : Bank) : (s.setBank b).bg = s.bg := rfl
@[simp] theorem episodes_setBank (s : State) (b : Bank) : (s.setBank b).episodes = s.episodes := rfl
@[simp] theorem waves_setBank (s : State) (b : Bank) : (s.setBank b).waves = s.waves := rfl
@[simp] theorem launches_setBank (s : State) (b : Bank) : (s.setBank b).launches = s.launches := rfl
@[simp] theorem owed_setBank (s : State) (b : Bank) : (s.setBank b).owed = s.owed := rfl
@[simp] theorem tenants_setBank (s : State) (b : Bank) : (s.setBank b).tenants = s.tenants := rfl
@[simp] theorem queues_setBank (s : State) (b : Bank) : (s.setBank b).queues = s.queues := rfl
@[simp] theorem vfs_setBank (s : State) (b : Bank) : (s.setBank b).vfs = s.vfs := rfl
@[simp] theorem meters_setBank (s : State) (b : Bank) : (s.setBank b).meters = s.meters := rfl
@[simp] theorem snapSeq_setBank (s : State) (b : Bank) : (s.setBank b).snapSeq = s.snapSeq := rfl
@[simp] theorem hubCyc_setBank (s : State) (b : Bank) : (s.setBank b).hubCyc = s.hubCyc := rfl
@[simp] theorem slice_setBank (s : State) (b : Bank) : (s.setBank b).slice = s.slice := rfl
@[simp] theorem ptRoot_setBank (s : State) (b : Bank) : (s.setBank b).ptRoot = s.ptRoot := rfl
@[simp] theorem fgen_setBank (s : State) (b : Bank) : (s.setBank b).fgen = s.fgen := rfl
@[simp] theorem faults_setBank (s : State) (b : Bank) : (s.setBank b).faults = s.faults := rfl
@[simp] theorem heldFaults_setBank (s : State) (b : Bank) : (s.setBank b).heldFaults = s.heldFaults := rfl
@[simp] theorem invals_setBank (s : State) (b : Bank) : (s.setBank b).invals = s.invals := rfl
@[simp] theorem metr_setBank (s : State) (b : Bank) : (s.setBank b).metr = s.metr := rfl
@[simp] theorem subs_setBank (s : State) (b : Bank) : (s.setBank b).subs = s.subs := rfl
@[simp] theorem wheels_setBank (s : State) (b : Bank) : (s.setBank b).wheels = s.wheels := rfl
@[simp] theorem wheelOn_setBank (s : State) (b : Bank) : (s.setBank b).wheelOn = s.wheelOn := rfl
@[simp] theorem flrs_setBank (s : State) (b : Bank) : (s.setBank b).flrs = s.flrs := rfl
@[simp] theorem newLids_setBank (s : State) (b : Bank) : (s.setBank b).newLids = s.newLids := rfl
@[simp] theorem boot_setBank (s : State) (b : Bank) : (s.setBank b).boot = s.boot := rfl
@[simp] theorem meas_setBank (s : State) (b : Bank) : (s.setBank b).meas = s.meas := rfl
@[simp] theorem splines_setBank (s : State) (b : Bank) : (s.setBank b).splines = s.splines := rfl
@[simp] theorem modNo_setBank (s : State) (b : Bank) : (s.setBank b).modNo = s.modNo := rfl
@[simp] theorem identity_setBank (s : State) (b : Bank) : (s.setBank b).identity = s.identity := rfl
@[simp] theorem flash_setBank (s : State) (b : Bank) : (s.setBank b).flash = s.flash := rfl
@[simp] theorem fuseKey_setBank (s : State) (b : Bank) : (s.setBank b).fuseKey = s.fuseKey := rfl
@[simp] theorem fuseSvn_setBank (s : State) (b : Bank) : (s.setBank b).fuseSvn = s.fuseSvn := rfl
@[simp] theorem secret_setBank (s : State) (b : Bank) : (s.setBank b).secret = s.secret := rfl
@[simp] theorem okStacks_setBank (s : State) (b : Bank) : (s.setBank b).okStacks = s.okStacks := rfl
@[simp] theorem okDies_setBank (s : State) (b : Bank) : (s.setBank b).okDies = s.okDies := rfl
@[simp] theorem okGran_setBank (s : State) (b : Bank) : (s.setBank b).okGran = s.okGran := rfl
@[simp] theorem okSplines_setBank (s : State) (b : Bank) : (s.setBank b).okSplines = s.okSplines := rfl
@[simp] theorem keys_setBank (s : State) (b : Bank) : (s.setBank b).keys = s.keys := rfl
@[simp] theorem lostMods_setBank (s : State) (b : Bank) : (s.setBank b).lostMods = s.lostMods := rfl
@[simp] theorem retireRec_setBank (s : State) (b : Bank) : (s.setBank b).retireRec = s.retireRec := rfl
@[simp] theorem conns_setBank (s : State) (b : Bank) : (s.setBank b).conns = s.conns := rfl
@[simp] theorem rdmaSeq_setBank (s : State) (b : Bank) : (s.setBank b).rdmaSeq = s.rdmaSeq := rfl
@[simp] theorem rdmaAcks_setBank (s : State) (b : Bank) : (s.setBank b).rdmaAcks = s.rdmaAcks := rfl
@[simp] theorem badBulk_setBank (s : State) (b : Bank) : (s.setBank b).badBulk = s.badBulk := rfl
@[simp] theorem out_setBank (s : State) (b : Bank) : (s.setBank b).out = s.out := rfl
@[simp] theorem turns_setBank (s : State) (b : Bank) : (s.setBank b).turns = s.turns := rfl
@[simp] theorem acted_setBank (s : State) (b : Bank) : (s.setBank b).acted = s.acted := rfl
@[simp] theorem uid_setBank (s : State) (b : Bank) : (s.setBank b).uid = s.uid := rfl
@[simp] theorem free_setBank (s : State) (b : Bank) : (s.setBank b).free = s.free := rfl

/-! ### The focus tile, which a slot or bank update changes in its slots alone -/

@[simp] theorem tile_tags_setSlot (s : State) (x : Slot) : (s.setSlot x).tile.tags = s.tile.tags := rfl
@[simp] theorem tile_cur_setSlot (s : State) (x : Slot) : (s.setSlot x).tile.cur = s.tile.cur := rfl
@[simp] theorem tile_sweepVal_setSlot (s : State) (x : Slot) : (s.setSlot x).tile.sweepVal = s.tile.sweepVal := rfl
@[simp] theorem tile_sweepPos_setSlot (s : State) (x : Slot) : (s.setSlot x).tile.sweepPos = s.tile.sweepPos := rfl
@[simp] theorem tile_plb_setSlot (s : State) (x : Slot) : (s.setSlot x).tile.plb = s.tile.plb := rfl
@[simp] theorem tile_ranks_setSlot (s : State) (x : Slot) : (s.setSlot x).tile.ranks = s.tile.ranks := rfl
@[simp] theorem tile_tagtab_setSlot (s : State) (x : Slot) : (s.setSlot x).tile.tagtab = s.tile.tagtab := rfl
@[simp] theorem tile_hold_setSlot (s : State) (x : Slot) : (s.setSlot x).tile.hold = s.tile.hold := rfl
@[simp] theorem tile_ring_setSlot (s : State) (x : Slot) : (s.setSlot x).tile.ring = s.tile.ring := rfl
@[simp] theorem tile_oseq_setSlot (s : State) (x : Slot) : (s.setSlot x).tile.oseq = s.tile.oseq := rfl
@[simp] theorem tile_last_setSlot (s : State) (x : Slot) : (s.setSlot x).tile.last = s.tile.last := rfl
@[simp] theorem tile_ma_setSlot (s : State) (x : Slot) : (s.setSlot x).tile.ma = s.tile.ma := rfl
@[simp] theorem tile_owner_setSlot (s : State) (x : Slot) : (s.setSlot x).tile.owner = s.tile.owner := rfl
@[simp] theorem tile_ownerRun_setSlot (s : State) (x : Slot) : (s.setSlot x).tile.ownerRun = s.tile.ownerRun := rfl
@[simp] theorem tile_rel_setSlot (s : State) (x : Slot) : (s.setSlot x).tile.rel = s.tile.rel := rfl
@[simp] theorem tile_masat_setSlot (s : State) (x : Slot) : (s.setSlot x).tile.masat = s.tile.masat := rfl
@[simp] theorem tile_planeQ_setSlot (s : State) (x : Slot) : (s.setSlot x).tile.planeQ = s.tile.planeQ := rfl
@[simp] theorem tile_planeRun_setSlot (s : State) (x : Slot) : (s.setSlot x).tile.planeRun = s.tile.planeRun := rfl
@[simp] theorem tile_copyQ_setSlot (s : State) (x : Slot) : (s.setSlot x).tile.copyQ = s.tile.copyQ := rfl
@[simp] theorem tile_copyRun_setSlot (s : State) (x : Slot) : (s.setSlot x).tile.copyRun = s.tile.copyRun := rfl
@[simp] theorem tile_pm_setSlot (s : State) (x : Slot) : (s.setSlot x).tile.pm = s.tile.pm := rfl
@[simp] theorem tile_pv_setSlot (s : State) (x : Slot) : (s.setSlot x).tile.pv = s.tile.pv := rfl
@[simp] theorem tile_ps_setSlot (s : State) (x : Slot) : (s.setSlot x).tile.ps = s.tile.ps := rfl
@[simp] theorem tile_px_setSlot (s : State) (x : Slot) : (s.setSlot x).tile.px = s.tile.px := rfl
@[simp] theorem tile_launch_setSlot (s : State) (x : Slot) : (s.setSlot x).tile.launch = s.tile.launch := rfl
@[simp] theorem tile_bad_setSlot (s : State) (x : Slot) : (s.setSlot x).tile.bad = s.tile.bad := rfl
@[simp] theorem tile_soft_setSlot (s : State) (x : Slot) : (s.setSlot x).tile.soft = s.tile.soft := rfl
@[simp] theorem tile_corr_setSlot (s : State) (x : Slot) : (s.setSlot x).tile.corr = s.tile.corr := rfl
@[simp] theorem tile_bankErr_setSlot (s : State) (x : Slot) : (s.setSlot x).tile.bankErr = s.tile.bankErr := rfl
@[simp] theorem tile_badSeen_setSlot (s : State) (x : Slot) : (s.setSlot x).tile.badSeen = s.tile.badSeen := rfl
@[simp] theorem tile_retire_setSlot (s : State) (x : Slot) : (s.setSlot x).tile.retire = s.tile.retire := rfl
@[simp] theorem tile_counts_setSlot (s : State) (x : Slot) : (s.setSlot x).tile.counts = s.tile.counts := rfl
@[simp] theorem tile_weight_setSlot (s : State) (x : Slot) : (s.setSlot x).tile.weight = s.tile.weight := rfl
@[simp] theorem tile_stalled_setSlot (s : State) (x : Slot) : (s.setSlot x).tile.stalled = s.tile.stalled := rfl
@[simp] theorem tile_hintNew_setSlot (s : State) (x : Slot) : (s.setSlot x).tile.hintNew = s.tile.hintNew := rfl
@[simp] theorem tile_lastHint_setSlot (s : State) (x : Slot) : (s.setSlot x).tile.lastHint = s.tile.lastHint := rfl
@[simp] theorem tile_fillD_setSlot (s : State) (x : Slot) : (s.setSlot x).tile.fillD = s.tile.fillD := rfl
@[simp] theorem tile_thrE_setSlot (s : State) (x : Slot) : (s.setSlot x).tile.thrE = s.tile.thrE := rfl
@[simp] theorem tile_frozen_setSlot (s : State) (x : Slot) : (s.setSlot x).tile.frozen = s.tile.frozen := rfl
@[simp] theorem tile_port_setSlot (s : State) (x : Slot) : (s.setSlot x).tile.port = s.tile.port := rfl
@[simp] theorem tile_div_setSlot (s : State) (x : Slot) : (s.setSlot x).tile.div = s.tile.div := rfl
@[simp] theorem tile_tags_setBank (s : State) (b : Bank) : (s.setBank b).tile.tags = s.tile.tags := rfl
@[simp] theorem tile_cur_setBank (s : State) (b : Bank) : (s.setBank b).tile.cur = s.tile.cur := rfl
@[simp] theorem tile_sweepVal_setBank (s : State) (b : Bank) : (s.setBank b).tile.sweepVal = s.tile.sweepVal := rfl
@[simp] theorem tile_sweepPos_setBank (s : State) (b : Bank) : (s.setBank b).tile.sweepPos = s.tile.sweepPos := rfl
@[simp] theorem tile_plb_setBank (s : State) (b : Bank) : (s.setBank b).tile.plb = s.tile.plb := rfl
@[simp] theorem tile_ranks_setBank (s : State) (b : Bank) : (s.setBank b).tile.ranks = s.tile.ranks := rfl
@[simp] theorem tile_tagtab_setBank (s : State) (b : Bank) : (s.setBank b).tile.tagtab = s.tile.tagtab := rfl
@[simp] theorem tile_hold_setBank (s : State) (b : Bank) : (s.setBank b).tile.hold = s.tile.hold := rfl
@[simp] theorem tile_ring_setBank (s : State) (b : Bank) : (s.setBank b).tile.ring = s.tile.ring := rfl
@[simp] theorem tile_oseq_setBank (s : State) (b : Bank) : (s.setBank b).tile.oseq = s.tile.oseq := rfl
@[simp] theorem tile_last_setBank (s : State) (b : Bank) : (s.setBank b).tile.last = s.tile.last := rfl
@[simp] theorem tile_ma_setBank (s : State) (b : Bank) : (s.setBank b).tile.ma = s.tile.ma := rfl
@[simp] theorem tile_owner_setBank (s : State) (b : Bank) : (s.setBank b).tile.owner = s.tile.owner := rfl
@[simp] theorem tile_ownerRun_setBank (s : State) (b : Bank) : (s.setBank b).tile.ownerRun = s.tile.ownerRun := rfl
@[simp] theorem tile_rel_setBank (s : State) (b : Bank) : (s.setBank b).tile.rel = s.tile.rel := rfl
@[simp] theorem tile_masat_setBank (s : State) (b : Bank) : (s.setBank b).tile.masat = s.tile.masat := rfl
@[simp] theorem tile_planeQ_setBank (s : State) (b : Bank) : (s.setBank b).tile.planeQ = s.tile.planeQ := rfl
@[simp] theorem tile_planeRun_setBank (s : State) (b : Bank) : (s.setBank b).tile.planeRun = s.tile.planeRun := rfl
@[simp] theorem tile_copyQ_setBank (s : State) (b : Bank) : (s.setBank b).tile.copyQ = s.tile.copyQ := rfl
@[simp] theorem tile_copyRun_setBank (s : State) (b : Bank) : (s.setBank b).tile.copyRun = s.tile.copyRun := rfl
@[simp] theorem tile_pm_setBank (s : State) (b : Bank) : (s.setBank b).tile.pm = s.tile.pm := rfl
@[simp] theorem tile_pv_setBank (s : State) (b : Bank) : (s.setBank b).tile.pv = s.tile.pv := rfl
@[simp] theorem tile_ps_setBank (s : State) (b : Bank) : (s.setBank b).tile.ps = s.tile.ps := rfl
@[simp] theorem tile_px_setBank (s : State) (b : Bank) : (s.setBank b).tile.px = s.tile.px := rfl
@[simp] theorem tile_launch_setBank (s : State) (b : Bank) : (s.setBank b).tile.launch = s.tile.launch := rfl
@[simp] theorem tile_bad_setBank (s : State) (b : Bank) : (s.setBank b).tile.bad = s.tile.bad := rfl
@[simp] theorem tile_soft_setBank (s : State) (b : Bank) : (s.setBank b).tile.soft = s.tile.soft := rfl
@[simp] theorem tile_corr_setBank (s : State) (b : Bank) : (s.setBank b).tile.corr = s.tile.corr := rfl
@[simp] theorem tile_bankErr_setBank (s : State) (b : Bank) : (s.setBank b).tile.bankErr = s.tile.bankErr := rfl
@[simp] theorem tile_badSeen_setBank (s : State) (b : Bank) : (s.setBank b).tile.badSeen = s.tile.badSeen := rfl
@[simp] theorem tile_retire_setBank (s : State) (b : Bank) : (s.setBank b).tile.retire = s.tile.retire := rfl
@[simp] theorem tile_counts_setBank (s : State) (b : Bank) : (s.setBank b).tile.counts = s.tile.counts := rfl
@[simp] theorem tile_weight_setBank (s : State) (b : Bank) : (s.setBank b).tile.weight = s.tile.weight := rfl
@[simp] theorem tile_stalled_setBank (s : State) (b : Bank) : (s.setBank b).tile.stalled = s.tile.stalled := rfl
@[simp] theorem tile_hintNew_setBank (s : State) (b : Bank) : (s.setBank b).tile.hintNew = s.tile.hintNew := rfl
@[simp] theorem tile_lastHint_setBank (s : State) (b : Bank) : (s.setBank b).tile.lastHint = s.tile.lastHint := rfl
@[simp] theorem tile_fillD_setBank (s : State) (b : Bank) : (s.setBank b).tile.fillD = s.tile.fillD := rfl
@[simp] theorem tile_thrE_setBank (s : State) (b : Bank) : (s.setBank b).tile.thrE = s.tile.thrE := rfl
@[simp] theorem tile_frozen_setBank (s : State) (b : Bank) : (s.setBank b).tile.frozen = s.tile.frozen := rfl
@[simp] theorem tile_port_setBank (s : State) (b : Bank) : (s.setBank b).tile.port = s.tile.port := rfl
@[simp] theorem tile_div_setBank (s : State) (b : Bank) : (s.setBank b).tile.div = s.tile.div := rfl

/-! ### A slot, which a bank update changes in that bank alone -/

@[simp] theorem slot_setBank (s : State) (b : Bank) : (s.setBank b).slot = s.slot.setBank b := by simp [State.setBank]
@[simp] theorem bank_setBank_slot (sl : Slot) (b : Bank) : (sl.setBank b).bank = b := by
  unfold Slot.setBank Slot.bank; by_cases h : sl.priv <;> simp [h]
@[simp] theorem setBank_bank_slot (sl : Slot) : sl.setBank sl.bank = sl := by
  unfold Slot.setBank Slot.bank; split <;> rfl
@[simp] theorem slot_st_setBank (sl : Slot) (b : Bank) : (sl.setBank b).st = sl.st := by
  unfold Slot.setBank; split <;> rfl
@[simp] theorem slot_priv_setBank (sl : Slot) (b : Bank) : (sl.setBank b).priv = sl.priv := by
  unfold Slot.setBank; split <;> rfl
@[simp] theorem slot_halted_setBank (sl : Slot) (b : Bank) : (sl.setBank b).halted = sl.halted := by
  unfold Slot.setBank; split <;> rfl
@[simp] theorem slot_gen_setBank (sl : Slot) (b : Bank) : (sl.setBank b).gen = sl.gen := by
  unfold Slot.setBank; split <;> rfl
@[simp] theorem slot_dom_setBank (sl : Slot) (b : Bank) : (sl.setBank b).dom = sl.dom := by
  unfold Slot.setBank; split <;> rfl
@[simp] theorem slot_nb_setBank (sl : Slot) (b : Bank) : (sl.setBank b).nb = sl.nb := by
  unfold Slot.setBank; split <;> rfl
@[simp] theorem slot_nm_setBank (sl : Slot) (b : Bank) : (sl.setBank b).nm = sl.nm := by
  unfold Slot.setBank; split <;> rfl
@[simp] theorem slot_ne_setBank (sl : Slot) (b : Bank) : (sl.setBank b).ne = sl.ne := by
  unfold Slot.setBank; split <;> rfl
@[simp] theorem slot_hnd_setBank (sl : Slot) (b : Bank) : (sl.setBank b).hnd = sl.hnd := by
  unfold Slot.setBank; split <;> rfl
@[simp] theorem slot_tcause_setBank (sl : Slot) (b : Bank) : (sl.setBank b).tcause = sl.tcause := by
  unfold Slot.setBank; split <;> rfl
@[simp] theorem slot_taddr_setBank (sl : Slot) (b : Bank) : (sl.setBank b).taddr = sl.taddr := by
  unfold Slot.setBank; split <;> rfl
@[simp] theorem slot_taddrx_setBank (sl : Slot) (b : Bank) : (sl.setBank b).taddrx = sl.taddrx := by
  unfold Slot.setBank; split <;> rfl
@[simp] theorem slot_tpc_setBank (sl : Slot) (b : Bank) : (sl.setBank b).tpc = sl.tpc := by
  unfold Slot.setBank; split <;> rfl
@[simp] theorem slot_tvec_setBank (sl : Slot) (b : Bank) : (sl.setBank b).tvec = sl.tvec := by
  unfold Slot.setBank; split <;> rfl
@[simp] theorem slot_tmsg_setBank (sl : Slot) (b : Bank) : (sl.setBank b).tmsg = sl.tmsg := by
  unfold Slot.setBank; split <;> rfl
@[simp] theorem slot_wdogb_setBank (sl : Slot) (b : Bank) : (sl.setBank b).wdogb = sl.wdogb := by
  unfold Slot.setBank; split <;> rfl
@[simp] theorem slot_gpol_setBank (sl : Slot) (b : Bank) : (sl.setBank b).gpol = sl.gpol := by
  unfold Slot.setBank; split <;> rfl
@[simp] theorem slot_rq_setBank (sl : Slot) (b : Bank) : (sl.setBank b).rq = sl.rq := by
  unfold Slot.setBank; split <;> rfl
@[simp] theorem slot_ch_setBank (sl : Slot) (b : Bank) : (sl.setBank b).ch = sl.ch := by
  unfold Slot.setBank; split <;> rfl
@[simp] theorem slot_inbox_setBank (sl : Slot) (b : Bank) : (sl.setBank b).inbox = sl.inbox := by
  unfold Slot.setBank; split <;> rfl
@[simp] theorem slot_drop_setBank (sl : Slot) (b : Bank) : (sl.setBank b).drop = sl.drop := by
  unfold Slot.setBank; split <;> rfl
@[simp] theorem slot_join_setBank (sl : Slot) (b : Bank) : (sl.setBank b).join = sl.join := by
  unfold Slot.setBank; split <;> rfl
@[simp] theorem slot_pause_setBank (sl : Slot) (b : Bank) : (sl.setBank b).pause = sl.pause := by
  unfold Slot.setBank; split <;> rfl
@[simp] theorem slot_pauseDue_setBank (sl : Slot) (b : Bank) : (sl.setBank b).pauseDue = sl.pauseDue := by
  unfold Slot.setBank; split <;> rfl
@[simp] theorem slot_yielded_setBank (sl : Slot) (b : Bank) : (sl.setBank b).yielded = sl.yielded := by
  unfold Slot.setBank; split <;> rfl
@[simp] theorem slot_hint_setBank (sl : Slot) (b : Bank) : (sl.setBank b).hint = sl.hint := by
  unfold Slot.setBank; split <;> rfl
@[simp] theorem slot_wave_setBank (sl : Slot) (b : Bank) : (sl.setBank b).wave = sl.wave := by
  unfold Slot.setBank; split <;> rfl
@[simp] theorem slot_waves_setBank (sl : Slot) (b : Bank) : (sl.setBank b).waves = sl.waves := by
  unfold Slot.setBank; split <;> rfl
@[simp] theorem slot_tc_setBank (sl : Slot) (b : Bank) : (sl.setBank b).tc = sl.tc := by
  unfold Slot.setBank; split <;> rfl
@[simp] theorem slot_niq_setBank (sl : Slot) (b : Bank) : (sl.setBank b).niq = sl.niq := by
  unfold Slot.setBank; split <;> rfl
@[simp] theorem slot_heldTo_setBank (sl : Slot) (b : Bank) : (sl.setBank b).heldTo = sl.heldTo := by
  unfold Slot.setBank; split <;> rfl
@[simp] theorem slot_accs_setBank (sl : Slot) (b : Bank) : (sl.setBank b).accs = sl.accs := by
  unfold Slot.setBank; split <;> rfl
@[simp] theorem slot_fences_setBank (sl : Slot) (b : Bank) : (sl.setBank b).fences = sl.fences := by
  unfold Slot.setBank; split <;> rfl
@[simp] theorem slot_nextSeq_setBank (sl : Slot) (b : Bank) : (sl.setBank b).nextSeq = sl.nextSeq := by
  unfold Slot.setBank; split <;> rfl
@[simp] theorem slot_firstSeq_setBank (sl : Slot) (b : Bank) : (sl.setBank b).firstSeq = sl.firstSeq := by
  unfold Slot.setBank; split <;> rfl
@[simp] theorem slot_run_setBank (sl : Slot) (b : Bank) : (sl.setBank b).run = sl.run := by
  unfold Slot.setBank; split <;> rfl
@[simp] theorem slot_derr_setBank (sl : Slot) (b : Bank) : (sl.setBank b).derr = sl.derr := by
  unfold Slot.setBank; split <;> rfl
@[simp] theorem slot_perr_setBank (sl : Slot) (b : Bank) : (sl.setBank b).perr = sl.perr := by
  unfold Slot.setBank; split <;> rfl
@[simp] theorem slot_merr_setBank (sl : Slot) (b : Bank) : (sl.setBank b).merr = sl.merr := by
  unfold Slot.setBank; split <;> rfl
@[simp] theorem slot_stopReq_setBank (sl : Slot) (b : Bank) : (sl.setBank b).stopReq = sl.stopReq := by
  unfold Slot.setBank; split <;> rfl
@[simp] theorem slot_hq_setBank (sl : Slot) (b : Bank) : (sl.setBank b).hq = sl.hq := by
  unfold Slot.setBank; split <;> rfl
@[simp] theorem slot_hleft_setBank (sl : Slot) (b : Bank) : (sl.setBank b).hleft = sl.hleft := by
  unfold Slot.setBank; split <;> rfl
@[simp] theorem slot_hout_setBank (sl : Slot) (b : Bank) : (sl.setBank b).hout = sl.hout := by
  unfold Slot.setBank; split <;> rfl
@[simp] theorem slot_held_setBank (sl : Slot) (b : Bank) : (sl.setBank b).held = sl.held := by
  unfold Slot.setBank; split <;> rfl
@[simp] theorem slot_wait_setBank (sl : Slot) (b : Bank) : (sl.setBank b).wait = sl.wait := by
  unfold Slot.setBank; split <;> rfl
@[simp] theorem slot_entered_setBank (sl : Slot) (b : Bank) : (sl.setBank b).entered = sl.entered := by
  unfold Slot.setBank; split <;> rfl
@[simp] theorem slot_ir_setBank (sl : Slot) (b : Bank) : (sl.setBank b).ir = sl.ir := by
  unfold Slot.setBank; split <;> rfl
@[simp] theorem slot_timer_setBank (sl : Slot) (b : Bank) : (sl.setBank b).timer = sl.timer := by
  unfold Slot.setBank; split <;> rfl
@[simp] theorem slot_lines_setBank (sl : Slot) (b : Bank) : (sl.setBank b).lines = sl.lines := by
  unfold Slot.setBank; split <;> rfl
@[simp] theorem slot_ask_setBank (sl : Slot) (b : Bank) : (sl.setBank b).ask = sl.ask := by
  unfold Slot.setBank; split <;> rfl
@[simp] theorem slot_pre_setBank (sl : Slot) (b : Bank) : (sl.setBank b).pre = sl.pre := by
  unfold Slot.setBank; split <;> rfl
@[simp] theorem slot_busy_setBank (sl : Slot) (b : Bank) : (sl.setBank b).busy = sl.busy := by
  unfold Slot.setBank; split <;> rfl

/-! ### A bank, of which a pointer update changes its pointers alone -/

@[simp] theorem pc_setPtr (b : Bank) (k : BitVec 3) (x : Ptr) : (b.setPtr k x).pc = b.pc := rfl
@[simp] theorem a_setPtr (b : Bank) (k : BitVec 3) (x : Ptr) : (b.setPtr k x).a = b.a := rfl
@[simp] theorem v_setPtr (b : Bank) (k : BitVec 3) (x : Ptr) : (b.setPtr k x).v = b.v := rfl
@[simp] theorem f_setPtr (b : Bank) (k : BitVec 3) (x : Ptr) : (b.setPtr k x).f = b.f := rfl
@[simp] theorem rpt_setPtr (b : Bank) (k : BitVec 3) (x : Ptr) : (b.setPtr k x).rpt = b.rpt := rfl
@[simp] theorem rs_setPtr (b : Bank) (k : BitVec 3) (x : Ptr) : (b.setPtr k x).rs = b.rs := rfl
@[simp] theorem depth_setPtr (b : Bank) (k : BitVec 3) (x : Ptr) : (b.setPtr k x).depth = b.depth := rfl
@[simp] theorem pcfg_setPtr (b : Bank) (k : BitVec 3) (x : Ptr) : (b.setPtr k x).pcfg = b.pcfg := rfl
@[simp] theorem aPend_setPtr (b : Bank) (k : BitVec 3) (x : Ptr) : (b.setPtr k x).aPend = b.aPend := rfl
@[simp] theorem zPend_setPtr (b : Bank) (k : BitVec 3) (x : Ptr) : (b.setPtr k x).zPend = b.zPend := rfl
@[simp] theorem vPend_setPtr (b : Bank) (k : BitVec 3) (x : Ptr) : (b.setPtr k x).vPend = b.vPend := rfl
@[simp] theorem ptr_setPtr (b : Bank) (k : BitVec 3) (x : Ptr) : (b.setPtr k x).ptr k = x := by
  simp [Bank.setPtr, Bank.ptr]
theorem ptr_setPtr_other (b : Bank) (k j : BitVec 3) (x : Ptr) (h : j ≠ k) : (b.setPtr k x).ptr j = b.ptr j := by
  have : k.toNat ≠ j.toNat := fun e => h (BitVec.eq_of_toNat_eq e.symm)
  simp [Bank.setPtr, Bank.ptr, Vector.getElem_set_ne, this]

@[simp] theorem pc_incAll (b : Bank) (i : Bool) (ps : List (BitVec 3)) : (b.incAll i ps).pc = b.pc := by
  induction ps generalizing b with
  | nil => rfl
  | cons p r ih => simp only [Bank.incAll]; split <;> simp [ih]
@[simp] theorem a_incAll (b : Bank) (i : Bool) (ps : List (BitVec 3)) : (b.incAll i ps).a = b.a := by
  induction ps generalizing b with
  | nil => rfl
  | cons p r ih => simp only [Bank.incAll]; split <;> simp [ih]
@[simp] theorem v_incAll (b : Bank) (i : Bool) (ps : List (BitVec 3)) : (b.incAll i ps).v = b.v := by
  induction ps generalizing b with
  | nil => rfl
  | cons p r ih => simp only [Bank.incAll]; split <;> simp [ih]
@[simp] theorem f_incAll (b : Bank) (i : Bool) (ps : List (BitVec 3)) : (b.incAll i ps).f = b.f := by
  induction ps generalizing b with
  | nil => rfl
  | cons p r ih => simp only [Bank.incAll]; split <;> simp [ih]
@[simp] theorem rpt_incAll (b : Bank) (i : Bool) (ps : List (BitVec 3)) : (b.incAll i ps).rpt = b.rpt := by
  induction ps generalizing b with
  | nil => rfl
  | cons p r ih => simp only [Bank.incAll]; split <;> simp [ih]
@[simp] theorem rs_incAll (b : Bank) (i : Bool) (ps : List (BitVec 3)) : (b.incAll i ps).rs = b.rs := by
  induction ps generalizing b with
  | nil => rfl
  | cons p r ih => simp only [Bank.incAll]; split <;> simp [ih]
@[simp] theorem depth_incAll (b : Bank) (i : Bool) (ps : List (BitVec 3)) : (b.incAll i ps).depth = b.depth := by
  induction ps generalizing b with
  | nil => rfl
  | cons p r ih => simp only [Bank.incAll]; split <;> simp [ih]
@[simp] theorem pcfg_incAll (b : Bank) (i : Bool) (ps : List (BitVec 3)) : (b.incAll i ps).pcfg = b.pcfg := by
  induction ps generalizing b with
  | nil => rfl
  | cons p r ih => simp only [Bank.incAll]; split <;> simp [ih]
@[simp] theorem aPend_incAll (b : Bank) (i : Bool) (ps : List (BitVec 3)) : (b.incAll i ps).aPend = b.aPend := by
  induction ps generalizing b with
  | nil => rfl
  | cons p r ih => simp only [Bank.incAll]; split <;> simp [ih]
@[simp] theorem zPend_incAll (b : Bank) (i : Bool) (ps : List (BitVec 3)) : (b.incAll i ps).zPend = b.zPend := by
  induction ps generalizing b with
  | nil => rfl
  | cons p r ih => simp only [Bank.incAll]; split <;> simp [ih]
@[simp] theorem vPend_incAll (b : Bank) (i : Bool) (ps : List (BitVec 3)) : (b.incAll i ps).vPend = b.vPend := by
  induction ps generalizing b with
  | nil => rfl
  | cons p r ih => simp only [Bank.incAll]; split <;> simp [ih]
@[simp] theorem incAll_false (b : Bank) (ps : List (BitVec 3)) : b.incAll false ps = b := by
  induction ps with
  | nil => rfl
  | cons p r ih => simp [Bank.incAll, ih]

/-! ### Tiles and slots by number -/

@[simp] theorem getTile_tid (s : State) : s.getTile s.tid = s.tile := by simp [State.getTile]
@[simp] theorem slot_setSlot_tile (tl : Tile) (k : Nat) (x : Slot) (h : k < 8) : (tl.setSlot k x).slot k = x := by
  simp [Tile.setSlot, Tile.slot, h]
theorem slot_setSlot_tile_other (tl : Tile) (k j : Nat) (x : Slot) (h : k ≠ j) : (tl.setSlot k x).slot j = tl.slot j := by
  unfold Tile.setSlot Tile.slot
  by_cases hk : k < 8 <;> by_cases hj : j < 8 <;> simp [hk, hj, Vector.getElem_set_ne, h]
@[simp] theorem tags_setSlot_tile (tl : Tile) (k : Nat) (x : Slot) : (tl.setSlot k x).tags = tl.tags := by
  unfold Tile.setSlot; split <;> rfl
@[simp] theorem cur_setSlot_tile (tl : Tile) (k : Nat) (x : Slot) : (tl.setSlot k x).cur = tl.cur := by
  unfold Tile.setSlot; split <;> rfl
@[simp] theorem sweepVal_setSlot_tile (tl : Tile) (k : Nat) (x : Slot) : (tl.setSlot k x).sweepVal = tl.sweepVal := by
  unfold Tile.setSlot; split <;> rfl
@[simp] theorem sweepPos_setSlot_tile (tl : Tile) (k : Nat) (x : Slot) : (tl.setSlot k x).sweepPos = tl.sweepPos := by
  unfold Tile.setSlot; split <;> rfl
@[simp] theorem plb_setSlot_tile (tl : Tile) (k : Nat) (x : Slot) : (tl.setSlot k x).plb = tl.plb := by
  unfold Tile.setSlot; split <;> rfl
@[simp] theorem ranks_setSlot_tile (tl : Tile) (k : Nat) (x : Slot) : (tl.setSlot k x).ranks = tl.ranks := by
  unfold Tile.setSlot; split <;> rfl
@[simp] theorem tagtab_setSlot_tile (tl : Tile) (k : Nat) (x : Slot) : (tl.setSlot k x).tagtab = tl.tagtab := by
  unfold Tile.setSlot; split <;> rfl
@[simp] theorem hold_setSlot_tile (tl : Tile) (k : Nat) (x : Slot) : (tl.setSlot k x).hold = tl.hold := by
  unfold Tile.setSlot; split <;> rfl
@[simp] theorem ring_setSlot_tile (tl : Tile) (k : Nat) (x : Slot) : (tl.setSlot k x).ring = tl.ring := by
  unfold Tile.setSlot; split <;> rfl
@[simp] theorem oseq_setSlot_tile (tl : Tile) (k : Nat) (x : Slot) : (tl.setSlot k x).oseq = tl.oseq := by
  unfold Tile.setSlot; split <;> rfl
@[simp] theorem last_setSlot_tile (tl : Tile) (k : Nat) (x : Slot) : (tl.setSlot k x).last = tl.last := by
  unfold Tile.setSlot; split <;> rfl
@[simp] theorem ma_setSlot_tile (tl : Tile) (k : Nat) (x : Slot) : (tl.setSlot k x).ma = tl.ma := by
  unfold Tile.setSlot; split <;> rfl
@[simp] theorem owner_setSlot_tile (tl : Tile) (k : Nat) (x : Slot) : (tl.setSlot k x).owner = tl.owner := by
  unfold Tile.setSlot; split <;> rfl
@[simp] theorem ownerRun_setSlot_tile (tl : Tile) (k : Nat) (x : Slot) : (tl.setSlot k x).ownerRun = tl.ownerRun := by
  unfold Tile.setSlot; split <;> rfl
@[simp] theorem rel_setSlot_tile (tl : Tile) (k : Nat) (x : Slot) : (tl.setSlot k x).rel = tl.rel := by
  unfold Tile.setSlot; split <;> rfl
@[simp] theorem masat_setSlot_tile (tl : Tile) (k : Nat) (x : Slot) : (tl.setSlot k x).masat = tl.masat := by
  unfold Tile.setSlot; split <;> rfl
@[simp] theorem planeQ_setSlot_tile (tl : Tile) (k : Nat) (x : Slot) : (tl.setSlot k x).planeQ = tl.planeQ := by
  unfold Tile.setSlot; split <;> rfl
@[simp] theorem planeRun_setSlot_tile (tl : Tile) (k : Nat) (x : Slot) : (tl.setSlot k x).planeRun = tl.planeRun := by
  unfold Tile.setSlot; split <;> rfl
@[simp] theorem copyQ_setSlot_tile (tl : Tile) (k : Nat) (x : Slot) : (tl.setSlot k x).copyQ = tl.copyQ := by
  unfold Tile.setSlot; split <;> rfl
@[simp] theorem copyRun_setSlot_tile (tl : Tile) (k : Nat) (x : Slot) : (tl.setSlot k x).copyRun = tl.copyRun := by
  unfold Tile.setSlot; split <;> rfl
@[simp] theorem pm_setSlot_tile (tl : Tile) (k : Nat) (x : Slot) : (tl.setSlot k x).pm = tl.pm := by
  unfold Tile.setSlot; split <;> rfl
@[simp] theorem pv_setSlot_tile (tl : Tile) (k : Nat) (x : Slot) : (tl.setSlot k x).pv = tl.pv := by
  unfold Tile.setSlot; split <;> rfl
@[simp] theorem ps_setSlot_tile (tl : Tile) (k : Nat) (x : Slot) : (tl.setSlot k x).ps = tl.ps := by
  unfold Tile.setSlot; split <;> rfl
@[simp] theorem px_setSlot_tile (tl : Tile) (k : Nat) (x : Slot) : (tl.setSlot k x).px = tl.px := by
  unfold Tile.setSlot; split <;> rfl
@[simp] theorem launch_setSlot_tile (tl : Tile) (k : Nat) (x : Slot) : (tl.setSlot k x).launch = tl.launch := by
  unfold Tile.setSlot; split <;> rfl
@[simp] theorem bad_setSlot_tile (tl : Tile) (k : Nat) (x : Slot) : (tl.setSlot k x).bad = tl.bad := by
  unfold Tile.setSlot; split <;> rfl
@[simp] theorem soft_setSlot_tile (tl : Tile) (k : Nat) (x : Slot) : (tl.setSlot k x).soft = tl.soft := by
  unfold Tile.setSlot; split <;> rfl
@[simp] theorem corr_setSlot_tile (tl : Tile) (k : Nat) (x : Slot) : (tl.setSlot k x).corr = tl.corr := by
  unfold Tile.setSlot; split <;> rfl
@[simp] theorem bankErr_setSlot_tile (tl : Tile) (k : Nat) (x : Slot) : (tl.setSlot k x).bankErr = tl.bankErr := by
  unfold Tile.setSlot; split <;> rfl
@[simp] theorem badSeen_setSlot_tile (tl : Tile) (k : Nat) (x : Slot) : (tl.setSlot k x).badSeen = tl.badSeen := by
  unfold Tile.setSlot; split <;> rfl
@[simp] theorem retire_setSlot_tile (tl : Tile) (k : Nat) (x : Slot) : (tl.setSlot k x).retire = tl.retire := by
  unfold Tile.setSlot; split <;> rfl
@[simp] theorem counts_setSlot_tile (tl : Tile) (k : Nat) (x : Slot) : (tl.setSlot k x).counts = tl.counts := by
  unfold Tile.setSlot; split <;> rfl
@[simp] theorem weight_setSlot_tile (tl : Tile) (k : Nat) (x : Slot) : (tl.setSlot k x).weight = tl.weight := by
  unfold Tile.setSlot; split <;> rfl
@[simp] theorem stalled_setSlot_tile (tl : Tile) (k : Nat) (x : Slot) : (tl.setSlot k x).stalled = tl.stalled := by
  unfold Tile.setSlot; split <;> rfl
@[simp] theorem hintNew_setSlot_tile (tl : Tile) (k : Nat) (x : Slot) : (tl.setSlot k x).hintNew = tl.hintNew := by
  unfold Tile.setSlot; split <;> rfl
@[simp] theorem lastHint_setSlot_tile (tl : Tile) (k : Nat) (x : Slot) : (tl.setSlot k x).lastHint = tl.lastHint := by
  unfold Tile.setSlot; split <;> rfl
@[simp] theorem fillD_setSlot_tile (tl : Tile) (k : Nat) (x : Slot) : (tl.setSlot k x).fillD = tl.fillD := by
  unfold Tile.setSlot; split <;> rfl
@[simp] theorem thrE_setSlot_tile (tl : Tile) (k : Nat) (x : Slot) : (tl.setSlot k x).thrE = tl.thrE := by
  unfold Tile.setSlot; split <;> rfl
@[simp] theorem frozen_setSlot_tile (tl : Tile) (k : Nat) (x : Slot) : (tl.setSlot k x).frozen = tl.frozen := by
  unfold Tile.setSlot; split <;> rfl
@[simp] theorem port_setSlot_tile (tl : Tile) (k : Nat) (x : Slot) : (tl.setSlot k x).port = tl.port := by
  unfold Tile.setSlot; split <;> rfl
@[simp] theorem div_setSlot_tile (tl : Tile) (k : Nat) (x : Slot) : (tl.setSlot k x).div = tl.div := by
  unfold Tile.setSlot; split <;> rfl
@[simp] theorem tid_setTile (s : State) (t : Nat) (x : Tile) : (s.setTile t x).tid = s.tid := by
  unfold State.setTile; split <;> rfl
@[simp] theorem cur_setTile (s : State) (t : Nat) (x : Tile) : (s.setTile t x).cur = s.cur := by
  unfold State.setTile; split <;> rfl
@[simp] theorem bays_setTile (s : State) (t : Nat) (x : Tile) : (s.setTile t x).bays = s.bays := by
  unfold State.setTile; split <;> rfl
@[simp] theorem dies_setTile (s : State) (t : Nat) (x : Tile) : (s.setTile t x).dies = s.dies := by
  unfold State.setTile; split <;> rfl
@[simp] theorem mem_setTile (s : State) (t : Nat) (x : Tile) : (s.setTile t x).mem = s.mem := by
  unfold State.setTile; split <;> rfl
@[simp] theorem slotTab_setTile (s : State) (t : Nat) (x : Tile) : (s.setTile t x).slotTab = s.slotTab := by
  unfold State.setTile; split <;> rfl
@[simp] theorem circuits_setTile (s : State) (t : Nat) (x : Tile) : (s.setTile t x).circuits = s.circuits := by
  unfold State.setTile; split <;> rfl
@[simp] theorem links_setTile (s : State) (t : Nat) (x : Tile) : (s.setTile t x).links = s.links := by
  unfold State.setTile; split <;> rfl
@[simp] theorem drains_setTile (s : State) (t : Nat) (x : Tile) : (s.setTile t x).drains = s.drains := by
  unfold State.setTile; split <;> rfl
@[simp] theorem flights_setTile (s : State) (t : Nat) (x : Tile) : (s.setTile t x).flights = s.flights := by
  unfold State.setTile; split <;> rfl
@[simp] theorem words_setTile (s : State) (t : Nat) (x : Tile) : (s.setTile t x).words = s.words := by
  unfold State.setTile; split <;> rfl
@[simp] theorem credits_setTile (s : State) (t : Nat) (x : Tile) : (s.setTile t x).credits = s.credits := by
  unfold State.setTile; split <;> rfl
@[simp] theorem streams_setTile (s : State) (t : Nat) (x : Tile) : (s.setTile t x).streams = s.streams := by
  unfold State.setTile; split <;> rfl
@[simp] theorem gran_setTile (s : State) (t : Nat) (x : Tile) : (s.setTile t x).gran = s.gran := by
  unfold State.setTile; split <;> rfl
@[simp] theorem bins_setTile (s : State) (t : Nat) (x : Tile) : (s.setTile t x).bins = s.bins := by
  unfold State.setTile; split <;> rfl
@[simp] theorem bg_setTile (s : State) (t : Nat) (x : Tile) : (s.setTile t x).bg = s.bg := by
  unfold State.setTile; split <;> rfl
@[simp] theorem episodes_setTile (s : State) (t : Nat) (x : Tile) : (s.setTile t x).episodes = s.episodes := by
  unfold State.setTile; split <;> rfl
@[simp] theorem waves_setTile (s : State) (t : Nat) (x : Tile) : (s.setTile t x).waves = s.waves := by
  unfold State.setTile; split <;> rfl
@[simp] theorem launches_setTile (s : State) (t : Nat) (x : Tile) : (s.setTile t x).launches = s.launches := by
  unfold State.setTile; split <;> rfl
@[simp] theorem owed_setTile (s : State) (t : Nat) (x : Tile) : (s.setTile t x).owed = s.owed := by
  unfold State.setTile; split <;> rfl
@[simp] theorem tenants_setTile (s : State) (t : Nat) (x : Tile) : (s.setTile t x).tenants = s.tenants := by
  unfold State.setTile; split <;> rfl
@[simp] theorem queues_setTile (s : State) (t : Nat) (x : Tile) : (s.setTile t x).queues = s.queues := by
  unfold State.setTile; split <;> rfl
@[simp] theorem vfs_setTile (s : State) (t : Nat) (x : Tile) : (s.setTile t x).vfs = s.vfs := by
  unfold State.setTile; split <;> rfl
@[simp] theorem meters_setTile (s : State) (t : Nat) (x : Tile) : (s.setTile t x).meters = s.meters := by
  unfold State.setTile; split <;> rfl
@[simp] theorem snapSeq_setTile (s : State) (t : Nat) (x : Tile) : (s.setTile t x).snapSeq = s.snapSeq := by
  unfold State.setTile; split <;> rfl
@[simp] theorem hubCyc_setTile (s : State) (t : Nat) (x : Tile) : (s.setTile t x).hubCyc = s.hubCyc := by
  unfold State.setTile; split <;> rfl
@[simp] theorem slice_setTile (s : State) (t : Nat) (x : Tile) : (s.setTile t x).slice = s.slice := by
  unfold State.setTile; split <;> rfl
@[simp] theorem ptRoot_setTile (s : State) (t : Nat) (x : Tile) : (s.setTile t x).ptRoot = s.ptRoot := by
  unfold State.setTile; split <;> rfl
@[simp] theorem fgen_setTile (s : State) (t : Nat) (x : Tile) : (s.setTile t x).fgen = s.fgen := by
  unfold State.setTile; split <;> rfl
@[simp] theorem faults_setTile (s : State) (t : Nat) (x : Tile) : (s.setTile t x).faults = s.faults := by
  unfold State.setTile; split <;> rfl
@[simp] theorem heldFaults_setTile (s : State) (t : Nat) (x : Tile) : (s.setTile t x).heldFaults = s.heldFaults := by
  unfold State.setTile; split <;> rfl
@[simp] theorem invals_setTile (s : State) (t : Nat) (x : Tile) : (s.setTile t x).invals = s.invals := by
  unfold State.setTile; split <;> rfl
@[simp] theorem metr_setTile (s : State) (t : Nat) (x : Tile) : (s.setTile t x).metr = s.metr := by
  unfold State.setTile; split <;> rfl
@[simp] theorem subs_setTile (s : State) (t : Nat) (x : Tile) : (s.setTile t x).subs = s.subs := by
  unfold State.setTile; split <;> rfl
@[simp] theorem wheels_setTile (s : State) (t : Nat) (x : Tile) : (s.setTile t x).wheels = s.wheels := by
  unfold State.setTile; split <;> rfl
@[simp] theorem wheelOn_setTile (s : State) (t : Nat) (x : Tile) : (s.setTile t x).wheelOn = s.wheelOn := by
  unfold State.setTile; split <;> rfl
@[simp] theorem flrs_setTile (s : State) (t : Nat) (x : Tile) : (s.setTile t x).flrs = s.flrs := by
  unfold State.setTile; split <;> rfl
@[simp] theorem newLids_setTile (s : State) (t : Nat) (x : Tile) : (s.setTile t x).newLids = s.newLids := by
  unfold State.setTile; split <;> rfl
@[simp] theorem boot_setTile (s : State) (t : Nat) (x : Tile) : (s.setTile t x).boot = s.boot := by
  unfold State.setTile; split <;> rfl
@[simp] theorem meas_setTile (s : State) (t : Nat) (x : Tile) : (s.setTile t x).meas = s.meas := by
  unfold State.setTile; split <;> rfl
@[simp] theorem splines_setTile (s : State) (t : Nat) (x : Tile) : (s.setTile t x).splines = s.splines := by
  unfold State.setTile; split <;> rfl
@[simp] theorem modNo_setTile (s : State) (t : Nat) (x : Tile) : (s.setTile t x).modNo = s.modNo := by
  unfold State.setTile; split <;> rfl
@[simp] theorem identity_setTile (s : State) (t : Nat) (x : Tile) : (s.setTile t x).identity = s.identity := by
  unfold State.setTile; split <;> rfl
@[simp] theorem flash_setTile (s : State) (t : Nat) (x : Tile) : (s.setTile t x).flash = s.flash := by
  unfold State.setTile; split <;> rfl
@[simp] theorem fuseKey_setTile (s : State) (t : Nat) (x : Tile) : (s.setTile t x).fuseKey = s.fuseKey := by
  unfold State.setTile; split <;> rfl
@[simp] theorem fuseSvn_setTile (s : State) (t : Nat) (x : Tile) : (s.setTile t x).fuseSvn = s.fuseSvn := by
  unfold State.setTile; split <;> rfl
@[simp] theorem secret_setTile (s : State) (t : Nat) (x : Tile) : (s.setTile t x).secret = s.secret := by
  unfold State.setTile; split <;> rfl
@[simp] theorem okStacks_setTile (s : State) (t : Nat) (x : Tile) : (s.setTile t x).okStacks = s.okStacks := by
  unfold State.setTile; split <;> rfl
@[simp] theorem okDies_setTile (s : State) (t : Nat) (x : Tile) : (s.setTile t x).okDies = s.okDies := by
  unfold State.setTile; split <;> rfl
@[simp] theorem okGran_setTile (s : State) (t : Nat) (x : Tile) : (s.setTile t x).okGran = s.okGran := by
  unfold State.setTile; split <;> rfl
@[simp] theorem okSplines_setTile (s : State) (t : Nat) (x : Tile) : (s.setTile t x).okSplines = s.okSplines := by
  unfold State.setTile; split <;> rfl
@[simp] theorem keys_setTile (s : State) (t : Nat) (x : Tile) : (s.setTile t x).keys = s.keys := by
  unfold State.setTile; split <;> rfl
@[simp] theorem lostMods_setTile (s : State) (t : Nat) (x : Tile) : (s.setTile t x).lostMods = s.lostMods := by
  unfold State.setTile; split <;> rfl
@[simp] theorem retireRec_setTile (s : State) (t : Nat) (x : Tile) : (s.setTile t x).retireRec = s.retireRec := by
  unfold State.setTile; split <;> rfl
@[simp] theorem conns_setTile (s : State) (t : Nat) (x : Tile) : (s.setTile t x).conns = s.conns := by
  unfold State.setTile; split <;> rfl
@[simp] theorem rdmaSeq_setTile (s : State) (t : Nat) (x : Tile) : (s.setTile t x).rdmaSeq = s.rdmaSeq := by
  unfold State.setTile; split <;> rfl
@[simp] theorem rdmaAcks_setTile (s : State) (t : Nat) (x : Tile) : (s.setTile t x).rdmaAcks = s.rdmaAcks := by
  unfold State.setTile; split <;> rfl
@[simp] theorem badBulk_setTile (s : State) (t : Nat) (x : Tile) : (s.setTile t x).badBulk = s.badBulk := by
  unfold State.setTile; split <;> rfl
@[simp] theorem out_setTile (s : State) (t : Nat) (x : Tile) : (s.setTile t x).out = s.out := by
  unfold State.setTile; split <;> rfl
@[simp] theorem turns_setTile (s : State) (t : Nat) (x : Tile) : (s.setTile t x).turns = s.turns := by
  unfold State.setTile; split <;> rfl
@[simp] theorem acted_setTile (s : State) (t : Nat) (x : Tile) : (s.setTile t x).acted = s.acted := by
  unfold State.setTile; split <;> rfl
@[simp] theorem uid_setTile (s : State) (t : Nat) (x : Tile) : (s.setTile t x).uid = s.uid := by
  unfold State.setTile; split <;> rfl
@[simp] theorem free_setTile (s : State) (t : Nat) (x : Tile) : (s.setTile t x).free = s.free := by
  unfold State.setTile; split <;> rfl
@[simp] theorem tid_modTile (s : State) (t : Nat) (g : Tile → Tile) : (s.modTile t g).tid = s.tid := by
  simp [State.modTile]
@[simp] theorem cur_modTile (s : State) (t : Nat) (g : Tile → Tile) : (s.modTile t g).cur = s.cur := by
  simp [State.modTile]
@[simp] theorem bays_modTile (s : State) (t : Nat) (g : Tile → Tile) : (s.modTile t g).bays = s.bays := by
  simp [State.modTile]
@[simp] theorem dies_modTile (s : State) (t : Nat) (g : Tile → Tile) : (s.modTile t g).dies = s.dies := by
  simp [State.modTile]
@[simp] theorem mem_modTile (s : State) (t : Nat) (g : Tile → Tile) : (s.modTile t g).mem = s.mem := by
  simp [State.modTile]
@[simp] theorem slotTab_modTile (s : State) (t : Nat) (g : Tile → Tile) : (s.modTile t g).slotTab = s.slotTab := by
  simp [State.modTile]
@[simp] theorem circuits_modTile (s : State) (t : Nat) (g : Tile → Tile) : (s.modTile t g).circuits = s.circuits := by
  simp [State.modTile]
@[simp] theorem links_modTile (s : State) (t : Nat) (g : Tile → Tile) : (s.modTile t g).links = s.links := by
  simp [State.modTile]
@[simp] theorem drains_modTile (s : State) (t : Nat) (g : Tile → Tile) : (s.modTile t g).drains = s.drains := by
  simp [State.modTile]
@[simp] theorem flights_modTile (s : State) (t : Nat) (g : Tile → Tile) : (s.modTile t g).flights = s.flights := by
  simp [State.modTile]
@[simp] theorem words_modTile (s : State) (t : Nat) (g : Tile → Tile) : (s.modTile t g).words = s.words := by
  simp [State.modTile]
@[simp] theorem credits_modTile (s : State) (t : Nat) (g : Tile → Tile) : (s.modTile t g).credits = s.credits := by
  simp [State.modTile]
@[simp] theorem streams_modTile (s : State) (t : Nat) (g : Tile → Tile) : (s.modTile t g).streams = s.streams := by
  simp [State.modTile]
@[simp] theorem gran_modTile (s : State) (t : Nat) (g : Tile → Tile) : (s.modTile t g).gran = s.gran := by
  simp [State.modTile]
@[simp] theorem bins_modTile (s : State) (t : Nat) (g : Tile → Tile) : (s.modTile t g).bins = s.bins := by
  simp [State.modTile]
@[simp] theorem bg_modTile (s : State) (t : Nat) (g : Tile → Tile) : (s.modTile t g).bg = s.bg := by
  simp [State.modTile]
@[simp] theorem episodes_modTile (s : State) (t : Nat) (g : Tile → Tile) : (s.modTile t g).episodes = s.episodes := by
  simp [State.modTile]
@[simp] theorem waves_modTile (s : State) (t : Nat) (g : Tile → Tile) : (s.modTile t g).waves = s.waves := by
  simp [State.modTile]
@[simp] theorem launches_modTile (s : State) (t : Nat) (g : Tile → Tile) : (s.modTile t g).launches = s.launches := by
  simp [State.modTile]
@[simp] theorem owed_modTile (s : State) (t : Nat) (g : Tile → Tile) : (s.modTile t g).owed = s.owed := by
  simp [State.modTile]
@[simp] theorem tenants_modTile (s : State) (t : Nat) (g : Tile → Tile) : (s.modTile t g).tenants = s.tenants := by
  simp [State.modTile]
@[simp] theorem queues_modTile (s : State) (t : Nat) (g : Tile → Tile) : (s.modTile t g).queues = s.queues := by
  simp [State.modTile]
@[simp] theorem vfs_modTile (s : State) (t : Nat) (g : Tile → Tile) : (s.modTile t g).vfs = s.vfs := by
  simp [State.modTile]
@[simp] theorem meters_modTile (s : State) (t : Nat) (g : Tile → Tile) : (s.modTile t g).meters = s.meters := by
  simp [State.modTile]
@[simp] theorem snapSeq_modTile (s : State) (t : Nat) (g : Tile → Tile) : (s.modTile t g).snapSeq = s.snapSeq := by
  simp [State.modTile]
@[simp] theorem hubCyc_modTile (s : State) (t : Nat) (g : Tile → Tile) : (s.modTile t g).hubCyc = s.hubCyc := by
  simp [State.modTile]
@[simp] theorem slice_modTile (s : State) (t : Nat) (g : Tile → Tile) : (s.modTile t g).slice = s.slice := by
  simp [State.modTile]
@[simp] theorem ptRoot_modTile (s : State) (t : Nat) (g : Tile → Tile) : (s.modTile t g).ptRoot = s.ptRoot := by
  simp [State.modTile]
@[simp] theorem fgen_modTile (s : State) (t : Nat) (g : Tile → Tile) : (s.modTile t g).fgen = s.fgen := by
  simp [State.modTile]
@[simp] theorem faults_modTile (s : State) (t : Nat) (g : Tile → Tile) : (s.modTile t g).faults = s.faults := by
  simp [State.modTile]
@[simp] theorem heldFaults_modTile (s : State) (t : Nat) (g : Tile → Tile) : (s.modTile t g).heldFaults = s.heldFaults := by
  simp [State.modTile]
@[simp] theorem invals_modTile (s : State) (t : Nat) (g : Tile → Tile) : (s.modTile t g).invals = s.invals := by
  simp [State.modTile]
@[simp] theorem metr_modTile (s : State) (t : Nat) (g : Tile → Tile) : (s.modTile t g).metr = s.metr := by
  simp [State.modTile]
@[simp] theorem subs_modTile (s : State) (t : Nat) (g : Tile → Tile) : (s.modTile t g).subs = s.subs := by
  simp [State.modTile]
@[simp] theorem wheels_modTile (s : State) (t : Nat) (g : Tile → Tile) : (s.modTile t g).wheels = s.wheels := by
  simp [State.modTile]
@[simp] theorem wheelOn_modTile (s : State) (t : Nat) (g : Tile → Tile) : (s.modTile t g).wheelOn = s.wheelOn := by
  simp [State.modTile]
@[simp] theorem flrs_modTile (s : State) (t : Nat) (g : Tile → Tile) : (s.modTile t g).flrs = s.flrs := by
  simp [State.modTile]
@[simp] theorem newLids_modTile (s : State) (t : Nat) (g : Tile → Tile) : (s.modTile t g).newLids = s.newLids := by
  simp [State.modTile]
@[simp] theorem boot_modTile (s : State) (t : Nat) (g : Tile → Tile) : (s.modTile t g).boot = s.boot := by
  simp [State.modTile]
@[simp] theorem meas_modTile (s : State) (t : Nat) (g : Tile → Tile) : (s.modTile t g).meas = s.meas := by
  simp [State.modTile]
@[simp] theorem splines_modTile (s : State) (t : Nat) (g : Tile → Tile) : (s.modTile t g).splines = s.splines := by
  simp [State.modTile]
@[simp] theorem modNo_modTile (s : State) (t : Nat) (g : Tile → Tile) : (s.modTile t g).modNo = s.modNo := by
  simp [State.modTile]
@[simp] theorem identity_modTile (s : State) (t : Nat) (g : Tile → Tile) : (s.modTile t g).identity = s.identity := by
  simp [State.modTile]
@[simp] theorem flash_modTile (s : State) (t : Nat) (g : Tile → Tile) : (s.modTile t g).flash = s.flash := by
  simp [State.modTile]
@[simp] theorem fuseKey_modTile (s : State) (t : Nat) (g : Tile → Tile) : (s.modTile t g).fuseKey = s.fuseKey := by
  simp [State.modTile]
@[simp] theorem fuseSvn_modTile (s : State) (t : Nat) (g : Tile → Tile) : (s.modTile t g).fuseSvn = s.fuseSvn := by
  simp [State.modTile]
@[simp] theorem secret_modTile (s : State) (t : Nat) (g : Tile → Tile) : (s.modTile t g).secret = s.secret := by
  simp [State.modTile]
@[simp] theorem okStacks_modTile (s : State) (t : Nat) (g : Tile → Tile) : (s.modTile t g).okStacks = s.okStacks := by
  simp [State.modTile]
@[simp] theorem okDies_modTile (s : State) (t : Nat) (g : Tile → Tile) : (s.modTile t g).okDies = s.okDies := by
  simp [State.modTile]
@[simp] theorem okGran_modTile (s : State) (t : Nat) (g : Tile → Tile) : (s.modTile t g).okGran = s.okGran := by
  simp [State.modTile]
@[simp] theorem okSplines_modTile (s : State) (t : Nat) (g : Tile → Tile) : (s.modTile t g).okSplines = s.okSplines := by
  simp [State.modTile]
@[simp] theorem keys_modTile (s : State) (t : Nat) (g : Tile → Tile) : (s.modTile t g).keys = s.keys := by
  simp [State.modTile]
@[simp] theorem lostMods_modTile (s : State) (t : Nat) (g : Tile → Tile) : (s.modTile t g).lostMods = s.lostMods := by
  simp [State.modTile]
@[simp] theorem retireRec_modTile (s : State) (t : Nat) (g : Tile → Tile) : (s.modTile t g).retireRec = s.retireRec := by
  simp [State.modTile]
@[simp] theorem conns_modTile (s : State) (t : Nat) (g : Tile → Tile) : (s.modTile t g).conns = s.conns := by
  simp [State.modTile]
@[simp] theorem rdmaSeq_modTile (s : State) (t : Nat) (g : Tile → Tile) : (s.modTile t g).rdmaSeq = s.rdmaSeq := by
  simp [State.modTile]
@[simp] theorem rdmaAcks_modTile (s : State) (t : Nat) (g : Tile → Tile) : (s.modTile t g).rdmaAcks = s.rdmaAcks := by
  simp [State.modTile]
@[simp] theorem badBulk_modTile (s : State) (t : Nat) (g : Tile → Tile) : (s.modTile t g).badBulk = s.badBulk := by
  simp [State.modTile]
@[simp] theorem out_modTile (s : State) (t : Nat) (g : Tile → Tile) : (s.modTile t g).out = s.out := by
  simp [State.modTile]
@[simp] theorem turns_modTile (s : State) (t : Nat) (g : Tile → Tile) : (s.modTile t g).turns = s.turns := by
  simp [State.modTile]
@[simp] theorem acted_modTile (s : State) (t : Nat) (g : Tile → Tile) : (s.modTile t g).acted = s.acted := by
  simp [State.modTile]
@[simp] theorem uid_modTile (s : State) (t : Nat) (g : Tile → Tile) : (s.modTile t g).uid = s.uid := by
  simp [State.modTile]
@[simp] theorem free_modTile (s : State) (t : Nat) (g : Tile → Tile) : (s.modTile t g).free = s.free := by
  simp [State.modTile]

end Sys2Proof.Machine
end

