-- ==== Sys2Proof/Laws/Memory.lean ====
section
/-! SUPPORT. Sparse tables and byte memory: what a write changes, and that every memory operation keeps the
canonical form. -/

set_option Elab.async false

namespace Sys2Proof.Machine

/-! ### Sparse tables -/

section Table
variable {α : Type} [DecidableEq α] {d : α}

theorem get_of_lt {m : SMap α} {lo k : Nat} (h : SMap.wfFrom d lo m = true) (hk : k < lo) : SMap.get d m k = d := by
  induction m generalizing lo with
  | nil => rfl
  | cons e r ih =>
    obtain ⟨a, x⟩ := e
    simp only [SMap.wfFrom, Bool.and_eq_true, decide_eq_true_eq] at h
    simp only [SMap.get, show ¬ a = k by omega, if_false]
    exact ih h.2 (by omega)

theorem wfFrom_mono {m : SMap α} {lo hi : Nat} (h : SMap.wfFrom d hi m = true) (hl : lo ≤ hi) :
    SMap.wfFrom d lo m = true := by
  cases m with
  | nil => rfl
  | cons e r =>
    obtain ⟨a, x⟩ := e
    simp only [SMap.wfFrom, Bool.and_eq_true, decide_eq_true_eq] at h ⊢
    exact ⟨⟨by omega, h.1.2⟩, h.2⟩

/-- A write keeps the canonical form. -/
theorem wfFrom_set {m : SMap α} {lo k : Nat} (v : α) (h : SMap.wfFrom d lo m = true) (hk : lo ≤ k) :
    SMap.wfFrom d lo (SMap.set d m k v) = true := by
  induction m generalizing lo with
  | nil => by_cases hv : v = d <;> simp [SMap.set, SMap.wfFrom, hv, hk]
  | cons e r ih =>
    obtain ⟨a, x⟩ := e
    simp only [SMap.wfFrom, Bool.and_eq_true, decide_eq_true_eq] at h
    by_cases h1 : k < a
    · by_cases hv : v = d
      · simp only [SMap.set, h1, hv, if_true, SMap.wfFrom, Bool.and_eq_true, decide_eq_true_eq]; exact h
      · simp only [SMap.set, h1, hv, if_true, if_false, SMap.wfFrom, Bool.and_eq_true, decide_eq_true_eq]
        exact ⟨⟨hk, hv⟩, ⟨by omega, h.1.2⟩, h.2⟩
    · by_cases h2 : a = k
      · subst h2
        by_cases hv : v = d
        · simp only [SMap.set, h1, hv, if_true, if_false]; exact wfFrom_mono h.2 (by omega)
        · simp only [SMap.set, h1, hv, if_true, if_false, SMap.wfFrom, Bool.and_eq_true, decide_eq_true_eq]
          exact ⟨⟨hk, hv⟩, h.2⟩
      · simp only [SMap.set, h1, h2, if_false, SMap.wfFrom, Bool.and_eq_true, decide_eq_true_eq]
        exact ⟨h.1, ih h.2 (by omega)⟩

/-- A read after a write to the same key gives the value written. -/
theorem get_set_same {m : SMap α} {lo k : Nat} (v : α) (h : SMap.wfFrom d lo m = true) :
    SMap.get d (SMap.set d m k v) k = v := by
  induction m generalizing lo with
  | nil => by_cases hv : v = d <;> simp [SMap.set, SMap.get, hv]
  | cons e r ih =>
    obtain ⟨a, x⟩ := e
    simp only [SMap.wfFrom, Bool.and_eq_true, decide_eq_true_eq] at h
    by_cases h1 : k < a
    · by_cases hv : v = d
      · simp only [SMap.set, h1, hv, if_true, SMap.get, show ¬ a = k by omega, if_false]
        exact get_of_lt h.2 (by omega)
      · simp [SMap.set, h1, hv, SMap.get]
    · by_cases h2 : a = k
      · subst h2
        by_cases hv : v = d
        · simp only [SMap.set, h1, hv, if_true, if_false]; exact get_of_lt h.2 (by omega)
        · simp [SMap.set, hv, SMap.get]
      · simp only [SMap.set, h1, h2, if_false, SMap.get]; exact ih h.2

/-- A write leaves every other key alone. -/
theorem get_set_other {m : SMap α} {lo k j : Nat} (v : α) (h : SMap.wfFrom d lo m = true) (hj : j ≠ k) :
    SMap.get d (SMap.set d m k v) j = SMap.get d m j := by
  induction m generalizing lo with
  | nil => by_cases hv : v = d <;> simp [SMap.set, SMap.get, hv, Ne.symm hj]
  | cons e r ih =>
    obtain ⟨a, x⟩ := e
    simp only [SMap.wfFrom, Bool.and_eq_true, decide_eq_true_eq] at h
    by_cases h1 : k < a
    · by_cases hv : v = d <;> simp [SMap.set, h1, hv, SMap.get, Ne.symm hj]
    · by_cases h2 : a = k
      · subst h2
        by_cases hv : v = d <;> simp [SMap.set, hv, SMap.get, Ne.symm hj]
      · simp only [SMap.set, h1, h2, if_false, SMap.get]
        by_cases h3 : a = j
        · simp [h3]
        · simp only [h3, if_false]; exact ih h.2

/-- Leaving entries out keeps the canonical form. -/
theorem wfFrom_filter {m : SMap α} {lo : Nat} (p : Nat × α → Bool) (h : SMap.wfFrom d lo m = true) :
    SMap.wfFrom d lo (m.filter p) = true := by
  induction m generalizing lo with
  | nil => rfl
  | cons e r ih =>
    obtain ⟨a, x⟩ := e
    simp only [SMap.wfFrom, Bool.and_eq_true, decide_eq_true_eq] at h
    have hr := ih h.2
    by_cases hp : p (a, x) = true
    · rw [List.filter_cons_of_pos hp]
      simp only [SMap.wfFrom, Bool.and_eq_true, decide_eq_true_eq]
      exact ⟨h.1, hr⟩
    · rw [List.filter_cons_of_neg hp]
      exact wfFrom_mono hr (by omega)

end Table

/-! ### Byte memory -/

theorem readByte_writeByte_same {m : Memory} (h : m.wf = true) (a : Nat) (b : Byte) :
    readByte (writeByte m a b) a = b := get_set_same b h
theorem readByte_writeByte_other {m : Memory} (h : m.wf = true) {a c : Nat} (b : Byte) (hc : c ≠ a) :
    readByte (writeByte m a b) c = readByte m c := get_set_other b h hc
theorem wf_writeByte {m : Memory} (h : m.wf = true) (a : Nat) (b : Byte) : (writeByte m a b).wf = true :=
  wfFrom_set b h (Nat.zero_le a)
theorem wf_writeBytes {m : Memory} (h : m.wf = true) (a : Nat) (bs : List Byte) : (writeBytes m a bs).wf = true := by
  induction bs generalizing m a with
  | nil => exact h
  | cons b r ih => exact ih (wf_writeByte h a b) (a + 1)
theorem wf_writeSome {m : Memory} (h : m.wf = true) (a : Nat) (bs : List (Option Byte)) :
    (writeSome m a bs).wf = true := by
  induction bs generalizing m a with
  | nil => exact h
  | cons b r ih =>
    cases b with
    | none => exact ih h (a + 1)
    | some b => exact ih (wf_writeByte h a b) (a + 1)
theorem wf_filter {m : Memory} (h : m.wf = true) (p : Host.Cell → Bool) : Memory.wf (m.filter p) = true :=
  wfFrom_filter p h

/-- Bytes outside a write are unchanged. -/
theorem readByte_writeSome_outside {m : Memory} (h : m.wf = true) (a c : Nat) (bs : List (Option Byte))
    (hc : c < a ∨ a + bs.length ≤ c) : readByte (writeSome m a bs) c = readByte m c := by
  induction bs generalizing m a with
  | nil => rfl
  | cons b r ih =>
    simp only [List.length_cons] at hc
    cases b with
    | none => exact ih h (a + 1) (by omega)
    | some b =>
      rw [writeSome, ih (wf_writeByte h a b) (a + 1) (by omega)]
      exact readByte_writeByte_other h b (by omega)
/-- A byte inside a write holds what was written, or is unchanged where nothing was. -/
theorem readByte_writeSome_inside {m : Memory} (h : m.wf = true) (a j : Nat) (bs : List (Option Byte))
    (hj : j < bs.length) : readByte (writeSome m a bs) (a + j) = (bs[j]).getD (readByte m (a + j)) := by
  induction bs generalizing m a j with
  | nil => simp at hj
  | cons b r ih =>
    cases j with
    | zero =>
      cases b with
      | none => simpa [writeSome] using readByte_writeSome_outside h (a + 1) a r (by omega)
      | some b =>
        have e := readByte_writeSome_outside (wf_writeByte h a b) (a + 1) a r (by omega)
        simpa [writeSome, readByte_writeByte_same h a b] using e
    | succ j =>
      simp only [List.length_cons] at hj
      cases b with
      | none => simpa [writeSome, Nat.add_assoc, Nat.add_comm 1 j] using ih h (a + 1) j (by omega)
      | some b =>
        have e := ih (wf_writeByte h a b) (a + 1) j (by omega)
        rw [readByte_writeByte_other h b (by omega)] at e
        simpa [writeSome, Nat.add_assoc, Nat.add_comm 1 j] using e
theorem writeBytes_eq_writeSome (m : Memory) (a : Nat) (bs : List Byte) :
    writeBytes m a bs = writeSome m a (bs.map some) := by
  induction bs generalizing m a with
  | nil => rfl
  | cons b r ih => simp [writeBytes, writeSome, ih]
theorem readBytes_length (m : Memory) (a n : Nat) : (readBytes m a n).length = n := by
  induction n generalizing a with
  | zero => rfl
  | succ n ih => simp [readBytes, ih]
theorem readBytes_getElem (m : Memory) (a n j : Nat) (h : j < (readBytes m a n).length) :
    (readBytes m a n)[j] = readByte m (a + j) := by
  induction n generalizing a j with
  | zero => simp [readBytes] at h
  | succ n ih =>
    cases j with
    | zero => rfl
    | succ j => simp only [readBytes, List.getElem_cons_succ]; rw [ih]; congr 1; omega

end Sys2Proof.Machine
end

