-- ==== Sys2Proof/Laws/Ops.lean ====
section
/-! SUPPORT. One lemma for each way a shared operation answers: how an instruction ends, what a scratchpad access
gives, where PC goes, and what taking a trap leaves. -/

set_option Elab.async false

namespace Sys2Proof.Machine

/-! ### How an instruction ends -/

@[simp] theorem bind_ok {α β : Type} (a : α) (f : α → Except Stop β) : ((Except.ok a : Except Stop α) >>= f) = f a := rfl
@[simp] theorem bind_error {α β : Type} (e : Stop) (f : α → Except Stop β) :
    ((Except.error e : Except Stop α) >>= f) = .error e := rfl
@[simp] theorem await_true (w : Wait) : await true w = .ok () := rfl
@[simp] theorem await_false (w : Wait) : await false w = .error (.wait w) := rfl
@[simp] theorem check_true (c : BitVec 8) (a : DWord) : check true c a = .ok () := rfl
@[simp] theorem check_false (c : BitVec 8) (a : DWord) : check false c a = .error (.trap (mkTrap c a)) := rfl
@[simp] theorem liftT_ok {α : Type} (a : α) : liftT (.ok a) = .ok a := rfl
@[simp] theorem liftT_error {α : Type} (t : Trap) : (liftT (.error t) : Except Stop α) = .error (.trap t) := rfl

theorem runWord_body {i : Instr} {u : Uses} {s : State} (adv : State → State) (body : State → Body)
    (hw : i.wf = true) (hf : s.bank.free u = true) : runWord i u s adv body = finish s adv (body s) := by
  simp [runWord, hw, hf]
theorem runWord_ok {i : Instr} {u : Uses} {s t : State} {adv : State → State} {body : State → Body}
    (hw : i.wf = true) (hf : s.bank.free u = true) (hb : body s = .ok t) : runWord i u s adv body = .next (adv t) := by
  simp [runWord_body adv body hw hf, hb, finish]
theorem word_ok {i : Instr} {u : Uses} {s t : State} {body : State → Body}
    (hw : i.wf = true) (hf : s.bank.free u = true) (hb : body s = .ok t) :
    word i u s body = .next (advance false t) := runWord_ok hw hf hb
theorem runWord_trap {i : Instr} {u : Uses} {s : State} {adv : State → State} {body : State → Body} {t : Trap}
    (hw : i.wf = true) (hf : s.bank.free u = true) (hb : body s = .error (.trap t)) :
    runWord i u s adv body = .next (trapHere t s) := by simp [runWord_body adv body hw hf, hb, finish]
theorem word_trap {i : Instr} {u : Uses} {s : State} {body : State → Body} {t : Trap}
    (hw : i.wf = true) (hf : s.bank.free u = true) (hb : body s = .error (.trap t)) :
    word i u s body = .next (trapHere t s) := runWord_trap hw hf hb
theorem word_trapAfter {i : Instr} {u : Uses} {s s' : State} {body : State → Body} {t : Trap} {pc : BitVec 14}
    (hw : i.wf = true) (hf : s.bank.free u = true) (hb : body s = .error (.trapAfter t pc s')) :
    word i u s body = .next (takeTrap t pc s') := by simp [word, runWord_body _ body hw hf, hb, finish]
theorem word_wait {i : Instr} {u : Uses} {s : State} {body : State → Body} {w : Wait}
    (hw : i.wf = true) (hf : s.bank.free u = true) (hb : body s = .error (.wait w)) :
    word i u s body = .next (setWait (some w) s) := by simp [word, runWord_body _ body hw hf, hb, finish]
theorem word_waitAfter {i : Instr} {u : Uses} {s s' : State} {body : State → Body} {w : Wait}
    (hw : i.wf = true) (hf : s.bank.free u = true) (hb : body s = .error (.waitAfter w s')) :
    word i u s body = .next (setWait (some w) s') := by simp [word, runWord_body _ body hw hf, hb, finish]
theorem runWord_illegal {i : Instr} {u : Uses} {s : State} (adv : State → State) (body : State → Body)
    (hw : i.wf = false) :
    runWord i u s adv body = .next (trapHere (mkTrap causeIllegal (s.bank.pc.zeroExtend 64)) s) := by
  simp [runWord, hw]
theorem runWord_pending {i : Instr} {u : Uses} {s : State} (adv : State → State) (body : State → Body)
    (hw : i.wf = true) (hf : s.bank.free u = false) : runWord i u s adv body = .next (setWait (some .pending) s) := by
  simp [runWord, hw, hf, finish]
theorem event_some {s t : State} {body : State → Option State} (hb : body s = some t) : event true s body = .next t := by
  simp [event, hb]
theorem event_none {s : State} {body : State → Option State} (hb : body s = none) : event true s body = .next s := by
  simp [event, hb]
theorem event_bad (s : State) (body : State → Option State) : event false s body = .fault .noSuchUnit := rfl

theorem holdW_ok {w : BitVec 2} {s : State} (h1 : w = 1 → s.slot.nb = 0) (h2 : w = 2 → s.slot.nm = 0)
    (h3 : w = 3 → s.slot.ne = 0) : holdW w s = .ok () := by
  have e : (w = 0 || (w = 1 && s.slot.nb = 0) || (w = 2 && s.slot.nm = 0) || (w = 3 && s.slot.ne = 0)) = true := by
    have hw : w = 0 ∨ w = 1 ∨ w = 2 ∨ w = 3 := by
      clear h1 h2 h3; revert w; decide
    rcases hw with rfl | rfl | rfl | rfl
    · simp
    · simp [h1 rfl]
    · simp [h2 rfl]
    · simp [h3 rfl]
  simp only [holdW, e, await_true]

/-! ### Scratchpad access -/

theorem spAddr_ok {ea : Int} {n al : Nat} (h0 : 0 ≤ ea) (h1 : ea + n ≤ 32768) (h2 : ea.toNat % al = 0) :
    spAddr ea n al = .ok ea.toNat := by
  simp [spAddr, show ¬ (ea < 0 ∨ 32768 < ea + n) by omega, h2]
theorem spAddr_range {ea : Int} {n al : Nat} (h : ea < 0 ∨ 32768 < ea + n) :
    spAddr ea n al = .error (mkTrap causeSpRange (BitVec.ofInt 64 ea)) := by simp [spAddr, h]
theorem spAddr_align {ea : Int} {n al : Nat} (h0 : 0 ≤ ea) (h1 : ea + n ≤ 32768) (h2 : ea.toNat % al ≠ 0) :
    spAddr ea n al = .error (mkTrap causeAlign (BitVec.ofInt 64 ea)) := by
  simp [spAddr, show ¬ (ea < 0 ∨ 32768 < ea + n) by omega, h2]

theorem spRead_own {s : State} {t : Nat} {g : BitVec 12} {strict : Bool} {a n : Nat}
    (hc : (s.getTile t).tagClass g (a / 32) = .own) (hb : (s.getTile t).badIn a n = none) :
    s.spRead t g strict a n = .ok (readBytes s.mem (spadBase t + a) n) := by simp [State.spRead, hc, hb]
theorem spRead_stale {s : State} {t : Nat} {g : BitVec 12} {a n : Nat}
    (hc : (s.getTile t).tagClass g (a / 32) = .stale) : s.spRead t g false a n = .ok (List.replicate n 0) := by
  simp [State.spRead, hc]
theorem spRead_strict {s : State} {t : Nat} {g : BitVec 12} {a n : Nat}
    (hc : (s.getTile t).tagClass g (a / 32) = .stale) :
    s.spRead t g true a n = .error (mkTrap causeStale (BitVec.ofNat 64 a)) := by simp [State.spRead, hc]
theorem spRead_ahead {s : State} {t : Nat} {g : BitVec 12} {strict : Bool} {a n : Nat}
    (hc : (s.getTile t).tagClass g (a / 32) = .ahead) :
    s.spRead t g strict a n = .error (mkTrap causeGenFuture (BitVec.ofNat 64 a)) := by simp [State.spRead, hc]

/-- The issuing context's read, where every check passes; a load passes the fences too. -/
theorem cellRead_ok {s : State} {ea : Int} {n al : Nat} {bs : List Byte}
    (h0 : 0 ≤ ea) (h1 : ea + n ≤ 32768) (h2 : ea.toNat % al = 0) (hp : planeGate false ea.toNat n s = .ok ())
    (hr : s.spRead s.tid s.slot.gen s.slot.gpol ea.toNat n = .ok bs) : cellRead s ea n al = .ok bs := by
  simp [cellRead, spAddr_ok h0 h1 h2, hp, hr]
theorem memRead_ok {s : State} {ea : Int} {n al : Nat} {bs : List Byte} (hf : fenceGate true false s = .ok ())
    (h : cellRead s ea n al = .ok bs) : memRead s ea n al = .ok bs := by simp [memRead, hf, h]
/-- The issuing context's write, where every check passes; a store passes the fences too. -/
theorem cellWrite_ok {s t : State} {ea : Int} {al : Nat} {bs : List (Option Byte)}
    (h0 : 0 ≤ ea) (h1 : ea + bs.length ≤ 32768) (h2 : ea.toNat % al = 0)
    (hp : planeGate true ea.toNat bs.length s = .ok ()) (hw : s.spWrite s.tid s.slot.gen ea.toNat bs = .ok t) :
    cellWrite s ea al bs = .ok t := by
  simp [cellWrite, spAddr_ok h0 h1 h2, hp, hw]
theorem memWrite_ok {s t : State} {ea : Int} {al : Nat} {bs : List (Option Byte)} (hf : fenceGate false true s = .ok ())
    (h : cellWrite s ea al bs = .ok t) : memWrite s ea al bs = .ok t := by simp [memWrite, hf, h]
/-- An access out of range or out of line traps before anything is read. -/
theorem memRead_addr {s : State} {ea : Int} {n al : Nat} {t : Trap} (hf : fenceGate true false s = .ok ())
    (h : spAddr ea n al = .error t) : memRead s ea n al = .error (.trap t) := by simp [memRead, cellRead, hf, h]
theorem memWrite_addr {s : State} {ea : Int} {al : Nat} {bs : List (Option Byte)} {t : Trap}
    (hf : fenceGate false true s = .ok ()) (h : spAddr ea bs.length al = .error t) :
    memWrite s ea al bs = .error (.trap t) := by simp [memWrite, cellWrite, hf, h]

/-- What a granule's write leaves of the module: memory and the focus of the tile alone. -/
theorem spWrite_fields {s t : State} {k : Nat} {g : BitVec 12} {a : Nat} {bs : List (Option Byte)}
    (h : s.spWrite k g a bs = .ok t) :
    t.tid = s.tid ∧ t.cur = s.cur ∧ t.bays = s.bays ∧ t.launches = s.launches ∧ t.tenants = s.tenants ∧
    t.circuits = s.circuits ∧ t.links = s.links ∧ t.flights = s.flights ∧ t.dies = s.dies ∧ t.modNo = s.modNo := by
  unfold State.spWrite at h
  simp only at h
  split at h
  · split at h
    · simp at h
    · simp only [Except.ok.injEq] at h; subst h; simp
  · simp only [Except.ok.injEq] at h; subst h; simp
  · simp at h
/-- A granule's write keeps the canonical form of memory. -/
theorem spWrite_wf {s t : State} {k : Nat} {g : BitVec 12} {a : Nat} {bs : List (Option Byte)}
    (hm : s.mem.wf = true) (h : s.spWrite k g a bs = .ok t) : t.mem.wf = true := by
  unfold State.spWrite at h
  simp only at h
  split at h
  · split at h
    · simp at h
    · simp only [Except.ok.injEq] at h; subst h; simpa using wf_writeSome hm _ _
  · simp only [Except.ok.injEq] at h; subst h; simpa using wf_writeSome (wf_writeBytes hm _ _) _ _
  · simp at h
/-- The issuing context's write keeps the canonical form of memory. -/
theorem cellWrite_wf {s t : State} {ea : Int} {al : Nat} {bs : List (Option Byte)} (hm : s.mem.wf = true)
    (h : cellWrite s ea al bs = .ok t) : t.mem.wf = true := by
  unfold cellWrite at h
  rcases ha : spAddr ea bs.length al with e | a
  · simp [ha] at h
  rcases hp : planeGate true a bs.length s with e | _
  · simp [ha, hp] at h
  rcases hw : s.spWrite s.tid s.slot.gen a bs with e | s'
  · simp [ha, hp, hw] at h
  · simp [ha, hp, hw] at h; subst h; exact spWrite_wf hm hw
theorem memWrite_wf {s t : State} {ea : Int} {al : Nat} {bs : List (Option Byte)} (hm : s.mem.wf = true)
    (h : memWrite s ea al bs = .ok t) : t.mem.wf = true := by
  unfold memWrite at h
  rcases hf : fenceGate false true s with e | _
  · simp [hf] at h
  · simp [hf] at h; exact cellWrite_wf hm h

/-! ### Where PC goes -/

theorem nextAfter_next {last : BitVec 14} {s : State} (h : last.extractLsb' 0 12 ≠ 4095) :
    nextAfter last s = s.setBank { s.bank with pc := last + 1 } := by rw [nextAfter, if_neg h]
theorem nextAfter_end {last : BitVec 14} {s : State} (h : last.extractLsb' 0 12 = 4095) :
    nextAfter last s = takeTrap (mkTrap causeCodeSegment (BitVec.ofNat 64 (last.toNat + 1))) last s := by
  simp [nextAfter, h]
/-- Outside a repeat and before the segment's end, PC advances by one. -/
theorem advance_plain {s : State} (hr : s.bank.rpt.count = 0) (h : s.bank.pc.extractLsb' 0 12 ≠ 4095) :
    advance false s = s.setBank { s.bank with pc := s.bank.pc + 1 } := by
  simp only [advance, hr, if_true, Bool.false_eq_true, if_false]; exact nextAfter_next h

/-! ### Traps -/

@[simp] theorem mem_addFault (s : State) (r : FaultRec) : (s.addFault r).mem = s.mem := by
  unfold State.addFault; split <;> [rfl; split <;> rfl]
@[simp] theorem mem_abortHandler (s : State) : (abortHandler s).mem = s.mem := rfl
@[simp] theorem mem_takeTrap (t : Trap) (pc : BitVec 14) (s : State) : (takeTrap t pc s).mem = s.mem := by
  unfold takeTrap
  simp only
  split
  · simp
  · split <;> simp
@[simp] theorem mem_advance (p : Bool) (s : State) : (advance p s).mem = s.mem := by
  have hn : ∀ l (x : State), (nextAfter l x).mem = x.mem := by
    intro l x; unfold nextAfter; split <;> simp
  unfold advance
  simp only
  split
  · simp [hn]
  · repeat' split
    all_goals simp [hn]

/-- A user thread's trap: the registers written, the runtime's privilege and %TVEC; all else stands (R326). -/
theorem takeTrap_thread {t : Trap} {pc : BitVec 14} {s : State} (hp : s.slot.priv = false) (hh : s.slot.st ≠ .handler)
    (hc : t.addrx.spchk = false) :
    takeTrap t pc s = s.setSlot
      { s.slot with hnd := false, tcause := t.cause, taddr := t.addr, taddrx := t.addrx, tpc := pc, priv := true,
                    st := .supervisor, sup := { s.slot.sup with pc := s.slot.tvec }, entered := .no, wait := none } := by
  have e : ({ s with tile := s.tile.seeBad t } : State) = s := by simp [Tile.seeBad, hc]
  have hh' : (s.slot.st == SlotState.handler) = false := by simpa using hh
  simp only [takeTrap, e, hp, Bool.false_eq_true, if_false, hh']

end Sys2Proof.Machine
end

