-- ==== Sys2Proof/Laws/PerInstr.lean ====
section
/-! SUPPORT. Facts about the instruction as syntax, stated per constructor. -/

set_option Elab.async false

namespace Sys2Proof.Laws.Words

/-- An instruction takes no word (an event), one word, or two (a prefixed pair), and weighs 2 to 6 (Table 7.1). -/
def Statement (i : Sys2Proof.Instr) : Prop :=
  (Sys2Proof.encode i).length ≤ 2 ∧ (Sys2Proof.encode i ≠ [] ↔ i.isWord = true) ∧ 2 ≤ i.weight ∧ i.weight ≤ 6

theorem ximm (hi : BitVec 26) (op : PairOp) (lo : BitVec 16) : Statement (Sys2Proof.Instr.ximm hi op lo) :=
  by cases op <;> exact ⟨Nat.le_of_ble_eq_true rfl, ⟨fun _ => rfl, fun _ => List.cons_ne_nil _ _⟩, Nat.le_of_ble_eq_true rfl, Nat.le_of_ble_eq_true rfl⟩
theorem add (o : SOp) : Statement (Sys2Proof.Instr.add o) :=
  ⟨Nat.le_of_ble_eq_true rfl, ⟨fun _ => rfl, fun _ => List.cons_ne_nil _ _⟩, Nat.le_of_ble_eq_true rfl, Nat.le_of_ble_eq_true rfl⟩
theorem sub (o : SOp) : Statement (Sys2Proof.Instr.sub o) :=
  ⟨Nat.le_of_ble_eq_true rfl, ⟨fun _ => rfl, fun _ => List.cons_ne_nil _ _⟩, Nat.le_of_ble_eq_true rfl, Nat.le_of_ble_eq_true rfl⟩
theorem adc (o : SOp) : Statement (Sys2Proof.Instr.adc o) :=
  ⟨Nat.le_of_ble_eq_true rfl, ⟨fun _ => rfl, fun _ => List.cons_ne_nil _ _⟩, Nat.le_of_ble_eq_true rfl, Nat.le_of_ble_eq_true rfl⟩
theorem sbc (o : SOp) : Statement (Sys2Proof.Instr.sbc o) :=
  ⟨Nat.le_of_ble_eq_true rfl, ⟨fun _ => rfl, fun _ => List.cons_ne_nil _ _⟩, Nat.le_of_ble_eq_true rfl, Nat.le_of_ble_eq_true rfl⟩
theorem and (o : SOp) : Statement (Sys2Proof.Instr.and o) :=
  ⟨Nat.le_of_ble_eq_true rfl, ⟨fun _ => rfl, fun _ => List.cons_ne_nil _ _⟩, Nat.le_of_ble_eq_true rfl, Nat.le_of_ble_eq_true rfl⟩
theorem or (o : SOp) : Statement (Sys2Proof.Instr.or o) :=
  ⟨Nat.le_of_ble_eq_true rfl, ⟨fun _ => rfl, fun _ => List.cons_ne_nil _ _⟩, Nat.le_of_ble_eq_true rfl, Nat.le_of_ble_eq_true rfl⟩
theorem xor (o : SOp) : Statement (Sys2Proof.Instr.xor o) :=
  ⟨Nat.le_of_ble_eq_true rfl, ⟨fun _ => rfl, fun _ => List.cons_ne_nil _ _⟩, Nat.le_of_ble_eq_true rfl, Nat.le_of_ble_eq_true rfl⟩
theorem andn (o : SOp) : Statement (Sys2Proof.Instr.andn o) :=
  ⟨Nat.le_of_ble_eq_true rfl, ⟨fun _ => rfl, fun _ => List.cons_ne_nil _ _⟩, Nat.le_of_ble_eq_true rfl, Nat.le_of_ble_eq_true rfl⟩
theorem min (o : SOp) : Statement (Sys2Proof.Instr.min o) :=
  ⟨Nat.le_of_ble_eq_true rfl, ⟨fun _ => rfl, fun _ => List.cons_ne_nil _ _⟩, Nat.le_of_ble_eq_true rfl, Nat.le_of_ble_eq_true rfl⟩
theorem max (o : SOp) : Statement (Sys2Proof.Instr.max o) :=
  ⟨Nat.le_of_ble_eq_true rfl, ⟨fun _ => rfl, fun _ => List.cons_ne_nil _ _⟩, Nat.le_of_ble_eq_true rfl, Nat.le_of_ble_eq_true rfl⟩
theorem minu (o : SOp) : Statement (Sys2Proof.Instr.minu o) :=
  ⟨Nat.le_of_ble_eq_true rfl, ⟨fun _ => rfl, fun _ => List.cons_ne_nil _ _⟩, Nat.le_of_ble_eq_true rfl, Nat.le_of_ble_eq_true rfl⟩
theorem maxu (o : SOp) : Statement (Sys2Proof.Instr.maxu o) :=
  ⟨Nat.le_of_ble_eq_true rfl, ⟨fun _ => rfl, fun _ => List.cons_ne_nil _ _⟩, Nat.le_of_ble_eq_true rfl, Nat.le_of_ble_eq_true rfl⟩
theorem mul (o : SOp) : Statement (Sys2Proof.Instr.mul o) :=
  ⟨Nat.le_of_ble_eq_true rfl, ⟨fun _ => rfl, fun _ => List.cons_ne_nil _ _⟩, Nat.le_of_ble_eq_true rfl, Nat.le_of_ble_eq_true rfl⟩
theorem mulh (o : SOp) : Statement (Sys2Proof.Instr.mulh o) :=
  ⟨Nat.le_of_ble_eq_true rfl, ⟨fun _ => rfl, fun _ => List.cons_ne_nil _ _⟩, Nat.le_of_ble_eq_true rfl, Nat.le_of_ble_eq_true rfl⟩
theorem mulhu (o : SOp) : Statement (Sys2Proof.Instr.mulhu o) :=
  ⟨Nat.le_of_ble_eq_true rfl, ⟨fun _ => rfl, fun _ => List.cons_ne_nil _ _⟩, Nat.le_of_ble_eq_true rfl, Nat.le_of_ble_eq_true rfl⟩
theorem cmp (o : SOp) : Statement (Sys2Proof.Instr.cmp o) :=
  ⟨Nat.le_of_ble_eq_true rfl, ⟨fun _ => rfl, fun _ => List.cons_ne_nil _ _⟩, Nat.le_of_ble_eq_true rfl, Nat.le_of_ble_eq_true rfl⟩
theorem addImm (o : IOp) : Statement (Sys2Proof.Instr.addImm o) :=
  ⟨Nat.le_of_ble_eq_true rfl, ⟨fun _ => rfl, fun _ => List.cons_ne_nil _ _⟩, Nat.le_of_ble_eq_true rfl, Nat.le_of_ble_eq_true rfl⟩
theorem subImm (o : IOp) : Statement (Sys2Proof.Instr.subImm o) :=
  ⟨Nat.le_of_ble_eq_true rfl, ⟨fun _ => rfl, fun _ => List.cons_ne_nil _ _⟩, Nat.le_of_ble_eq_true rfl, Nat.le_of_ble_eq_true rfl⟩
theorem adcImm (o : IOp) : Statement (Sys2Proof.Instr.adcImm o) :=
  ⟨Nat.le_of_ble_eq_true rfl, ⟨fun _ => rfl, fun _ => List.cons_ne_nil _ _⟩, Nat.le_of_ble_eq_true rfl, Nat.le_of_ble_eq_true rfl⟩
theorem sbcImm (o : IOp) : Statement (Sys2Proof.Instr.sbcImm o) :=
  ⟨Nat.le_of_ble_eq_true rfl, ⟨fun _ => rfl, fun _ => List.cons_ne_nil _ _⟩, Nat.le_of_ble_eq_true rfl, Nat.le_of_ble_eq_true rfl⟩
theorem andImm (o : IOp) : Statement (Sys2Proof.Instr.andImm o) :=
  ⟨Nat.le_of_ble_eq_true rfl, ⟨fun _ => rfl, fun _ => List.cons_ne_nil _ _⟩, Nat.le_of_ble_eq_true rfl, Nat.le_of_ble_eq_true rfl⟩
theorem orImm (o : IOp) : Statement (Sys2Proof.Instr.orImm o) :=
  ⟨Nat.le_of_ble_eq_true rfl, ⟨fun _ => rfl, fun _ => List.cons_ne_nil _ _⟩, Nat.le_of_ble_eq_true rfl, Nat.le_of_ble_eq_true rfl⟩
theorem xorImm (o : IOp) : Statement (Sys2Proof.Instr.xorImm o) :=
  ⟨Nat.le_of_ble_eq_true rfl, ⟨fun _ => rfl, fun _ => List.cons_ne_nil _ _⟩, Nat.le_of_ble_eq_true rfl, Nat.le_of_ble_eq_true rfl⟩
theorem andnImm (o : IOp) : Statement (Sys2Proof.Instr.andnImm o) :=
  ⟨Nat.le_of_ble_eq_true rfl, ⟨fun _ => rfl, fun _ => List.cons_ne_nil _ _⟩, Nat.le_of_ble_eq_true rfl, Nat.le_of_ble_eq_true rfl⟩
theorem minImm (o : IOp) : Statement (Sys2Proof.Instr.minImm o) :=
  ⟨Nat.le_of_ble_eq_true rfl, ⟨fun _ => rfl, fun _ => List.cons_ne_nil _ _⟩, Nat.le_of_ble_eq_true rfl, Nat.le_of_ble_eq_true rfl⟩
theorem maxImm (o : IOp) : Statement (Sys2Proof.Instr.maxImm o) :=
  ⟨Nat.le_of_ble_eq_true rfl, ⟨fun _ => rfl, fun _ => List.cons_ne_nil _ _⟩, Nat.le_of_ble_eq_true rfl, Nat.le_of_ble_eq_true rfl⟩
theorem minuImm (o : IOp) : Statement (Sys2Proof.Instr.minuImm o) :=
  ⟨Nat.le_of_ble_eq_true rfl, ⟨fun _ => rfl, fun _ => List.cons_ne_nil _ _⟩, Nat.le_of_ble_eq_true rfl, Nat.le_of_ble_eq_true rfl⟩
theorem maxuImm (o : IOp) : Statement (Sys2Proof.Instr.maxuImm o) :=
  ⟨Nat.le_of_ble_eq_true rfl, ⟨fun _ => rfl, fun _ => List.cons_ne_nil _ _⟩, Nat.le_of_ble_eq_true rfl, Nat.le_of_ble_eq_true rfl⟩
theorem mulImm (o : IOp) : Statement (Sys2Proof.Instr.mulImm o) :=
  ⟨Nat.le_of_ble_eq_true rfl, ⟨fun _ => rfl, fun _ => List.cons_ne_nil _ _⟩, Nat.le_of_ble_eq_true rfl, Nat.le_of_ble_eq_true rfl⟩
theorem mulhImm (o : IOp) : Statement (Sys2Proof.Instr.mulhImm o) :=
  ⟨Nat.le_of_ble_eq_true rfl, ⟨fun _ => rfl, fun _ => List.cons_ne_nil _ _⟩, Nat.le_of_ble_eq_true rfl, Nat.le_of_ble_eq_true rfl⟩
theorem mulhuImm (o : IOp) : Statement (Sys2Proof.Instr.mulhuImm o) :=
  ⟨Nat.le_of_ble_eq_true rfl, ⟨fun _ => rfl, fun _ => List.cons_ne_nil _ _⟩, Nat.le_of_ble_eq_true rfl, Nat.le_of_ble_eq_true rfl⟩
theorem cmpImm (o : IOp) : Statement (Sys2Proof.Instr.cmpImm o) :=
  ⟨Nat.le_of_ble_eq_true rfl, ⟨fun _ => rfl, fun _ => List.cons_ne_nil _ _⟩, Nat.le_of_ble_eq_true rfl, Nat.le_of_ble_eq_true rfl⟩
theorem div (o : SOp) : Statement (Sys2Proof.Instr.div o) :=
  ⟨Nat.le_of_ble_eq_true rfl, ⟨fun _ => rfl, fun _ => List.cons_ne_nil _ _⟩, Nat.le_of_ble_eq_true rfl, Nat.le_of_ble_eq_true rfl⟩
theorem divu (o : SOp) : Statement (Sys2Proof.Instr.divu o) :=
  ⟨Nat.le_of_ble_eq_true rfl, ⟨fun _ => rfl, fun _ => List.cons_ne_nil _ _⟩, Nat.le_of_ble_eq_true rfl, Nat.le_of_ble_eq_true rfl⟩
theorem rem (o : SOp) : Statement (Sys2Proof.Instr.rem o) :=
  ⟨Nat.le_of_ble_eq_true rfl, ⟨fun _ => rfl, fun _ => List.cons_ne_nil _ _⟩, Nat.le_of_ble_eq_true rfl, Nat.le_of_ble_eq_true rfl⟩
theorem remu (o : SOp) : Statement (Sys2Proof.Instr.remu o) :=
  ⟨Nat.le_of_ble_eq_true rfl, ⟨fun _ => rfl, fun _ => List.cons_ne_nil _ _⟩, Nat.le_of_ble_eq_true rfl, Nat.le_of_ble_eq_true rfl⟩
theorem shl (o : IOp) : Statement (Sys2Proof.Instr.shl o) :=
  ⟨Nat.le_of_ble_eq_true rfl, ⟨fun _ => rfl, fun _ => List.cons_ne_nil _ _⟩, Nat.le_of_ble_eq_true rfl, Nat.le_of_ble_eq_true rfl⟩
theorem shr (o : IOp) : Statement (Sys2Proof.Instr.shr o) :=
  ⟨Nat.le_of_ble_eq_true rfl, ⟨fun _ => rfl, fun _ => List.cons_ne_nil _ _⟩, Nat.le_of_ble_eq_true rfl, Nat.le_of_ble_eq_true rfl⟩
theorem sra (o : IOp) : Statement (Sys2Proof.Instr.sra o) :=
  ⟨Nat.le_of_ble_eq_true rfl, ⟨fun _ => rfl, fun _ => List.cons_ne_nil _ _⟩, Nat.le_of_ble_eq_true rfl, Nat.le_of_ble_eq_true rfl⟩
theorem rol (o : IOp) : Statement (Sys2Proof.Instr.rol o) :=
  ⟨Nat.le_of_ble_eq_true rfl, ⟨fun _ => rfl, fun _ => List.cons_ne_nil _ _⟩, Nat.le_of_ble_eq_true rfl, Nat.le_of_ble_eq_true rfl⟩
theorem clz (o : IOp) : Statement (Sys2Proof.Instr.clz o) :=
  ⟨Nat.le_of_ble_eq_true rfl, ⟨fun _ => rfl, fun _ => List.cons_ne_nil _ _⟩, Nat.le_of_ble_eq_true rfl, Nat.le_of_ble_eq_true rfl⟩
theorem ctz (o : IOp) : Statement (Sys2Proof.Instr.ctz o) :=
  ⟨Nat.le_of_ble_eq_true rfl, ⟨fun _ => rfl, fun _ => List.cons_ne_nil _ _⟩, Nat.le_of_ble_eq_true rfl, Nat.le_of_ble_eq_true rfl⟩
theorem popc (o : IOp) : Statement (Sys2Proof.Instr.popc o) :=
  ⟨Nat.le_of_ble_eq_true rfl, ⟨fun _ => rfl, fun _ => List.cons_ne_nil _ _⟩, Nat.le_of_ble_eq_true rfl, Nat.le_of_ble_eq_true rfl⟩
theorem brev (o : IOp) : Statement (Sys2Proof.Instr.brev o) :=
  ⟨Nat.le_of_ble_eq_true rfl, ⟨fun _ => rfl, fun _ => List.cons_ne_nil _ _⟩, Nat.le_of_ble_eq_true rfl, Nat.le_of_ble_eq_true rfl⟩
theorem bfx (o : IOp) : Statement (Sys2Proof.Instr.bfx o) :=
  ⟨Nat.le_of_ble_eq_true rfl, ⟨fun _ => rfl, fun _ => List.cons_ne_nil _ _⟩, Nat.le_of_ble_eq_true rfl, Nat.le_of_ble_eq_true rfl⟩
theorem bfi (o : IOp) : Statement (Sys2Proof.Instr.bfi o) :=
  ⟨Nat.le_of_ble_eq_true rfl, ⟨fun _ => rfl, fun _ => List.cons_ne_nil _ _⟩, Nat.le_of_ble_eq_true rfl, Nat.le_of_ble_eq_true rfl⟩
theorem sext (o : IOp) : Statement (Sys2Proof.Instr.sext o) :=
  ⟨Nat.le_of_ble_eq_true rfl, ⟨fun _ => rfl, fun _ => List.cons_ne_nil _ _⟩, Nat.le_of_ble_eq_true rfl, Nat.le_of_ble_eq_true rfl⟩
theorem zext (o : IOp) : Statement (Sys2Proof.Instr.zext o) :=
  ⟨Nat.le_of_ble_eq_true rfl, ⟨fun _ => rfl, fun _ => List.cons_ne_nil _ _⟩, Nat.le_of_ble_eq_true rfl, Nat.le_of_ble_eq_true rfl⟩
theorem ld (o : SOp) : Statement (Sys2Proof.Instr.ld o) :=
  ⟨Nat.le_of_ble_eq_true rfl, ⟨fun _ => rfl, fun _ => List.cons_ne_nil _ _⟩, Nat.le_of_ble_eq_true rfl, Nat.le_of_ble_eq_true rfl⟩
theorem ldx (o : SOp) : Statement (Sys2Proof.Instr.ldx o) :=
  ⟨Nat.le_of_ble_eq_true rfl, ⟨fun _ => rfl, fun _ => List.cons_ne_nil _ _⟩, Nat.le_of_ble_eq_true rfl, Nat.le_of_ble_eq_true rfl⟩
theorem st (o : SOp) : Statement (Sys2Proof.Instr.st o) :=
  ⟨Nat.le_of_ble_eq_true rfl, ⟨fun _ => rfl, fun _ => List.cons_ne_nil _ _⟩, Nat.le_of_ble_eq_true rfl, Nat.le_of_ble_eq_true rfl⟩
theorem pld (o : SOp) : Statement (Sys2Proof.Instr.pld o) :=
  ⟨Nat.le_of_ble_eq_true rfl, ⟨fun _ => rfl, fun _ => List.cons_ne_nil _ _⟩, Nat.le_of_ble_eq_true rfl, Nat.le_of_ble_eq_true rfl⟩
theorem pst (o : SOp) : Statement (Sys2Proof.Instr.pst o) :=
  ⟨Nat.le_of_ble_eq_true rfl, ⟨fun _ => rfl, fun _ => List.cons_ne_nil _ _⟩, Nat.le_of_ble_eq_true rfl, Nat.le_of_ble_eq_true rfl⟩
theorem li (o : IOp) : Statement (Sys2Proof.Instr.li o) :=
  ⟨Nat.le_of_ble_eq_true rfl, ⟨fun _ => rfl, fun _ => List.cons_ne_nil _ _⟩, Nat.le_of_ble_eq_true rfl, Nat.le_of_ble_eq_true rfl⟩
theorem pset (o : IOp) : Statement (Sys2Proof.Instr.pset o) :=
  ⟨Nat.le_of_ble_eq_true rfl, ⟨fun _ => rfl, fun _ => List.cons_ne_nil _ _⟩, Nat.le_of_ble_eq_true rfl, Nat.le_of_ble_eq_true rfl⟩
theorem pstride (o : IOp) : Statement (Sys2Proof.Instr.pstride o) :=
  ⟨Nat.le_of_ble_eq_true rfl, ⟨fun _ => rfl, fun _ => List.cons_ne_nil _ _⟩, Nat.le_of_ble_eq_true rfl, Nat.le_of_ble_eq_true rfl⟩
theorem padd (o : IOp) : Statement (Sys2Proof.Instr.padd o) :=
  ⟨Nat.le_of_ble_eq_true rfl, ⟨fun _ => rfl, fun _ => List.cons_ne_nil _ _⟩, Nat.le_of_ble_eq_true rfl, Nat.le_of_ble_eq_true rfl⟩
theorem pmov (o : IOp) : Statement (Sys2Proof.Instr.pmov o) :=
  ⟨Nat.le_of_ble_eq_true rfl, ⟨fun _ => rfl, fun _ => List.cons_ne_nil _ _⟩, Nat.le_of_ble_eq_true rfl, Nat.le_of_ble_eq_true rfl⟩
theorem pget (o : IOp) : Statement (Sys2Proof.Instr.pget o) :=
  ⟨Nat.le_of_ble_eq_true rfl, ⟨fun _ => rfl, fun _ => List.cons_ne_nil _ _⟩, Nat.le_of_ble_eq_true rfl, Nat.le_of_ble_eq_true rfl⟩
theorem pcmp (o : IOp) : Statement (Sys2Proof.Instr.pcmp o) :=
  ⟨Nat.le_of_ble_eq_true rfl, ⟨fun _ => rfl, fun _ => List.cons_ne_nil _ _⟩, Nat.le_of_ble_eq_true rfl, Nat.le_of_ble_eq_true rfl⟩
theorem b (cond : BitVec 4) (off : BitVec 22) : Statement (Sys2Proof.Instr.b cond off) :=
  ⟨Nat.le_of_ble_eq_true rfl, ⟨fun _ => rfl, fun _ => List.cons_ne_nil _ _⟩, Nat.le_of_ble_eq_true rfl, Nat.le_of_ble_eq_true rfl⟩
theorem j (off : BitVec 22) : Statement (Sys2Proof.Instr.j off) :=
  ⟨Nat.le_of_ble_eq_true rfl, ⟨fun _ => rfl, fun _ => List.cons_ne_nil _ _⟩, Nat.le_of_ble_eq_true rfl, Nat.le_of_ble_eq_true rfl⟩
theorem call (off : BitVec 22) : Statement (Sys2Proof.Instr.call off) :=
  ⟨Nat.le_of_ble_eq_true rfl, ⟨fun _ => rfl, fun _ => List.cons_ne_nil _ _⟩, Nat.le_of_ble_eq_true rfl, Nat.le_of_ble_eq_true rfl⟩
theorem ret (off : BitVec 22) : Statement (Sys2Proof.Instr.ret off) :=
  ⟨Nat.le_of_ble_eq_true rfl, ⟨fun _ => rfl, fun _ => List.cons_ne_nil _ _⟩, Nat.le_of_ble_eq_true rfl, Nat.le_of_ble_eq_true rfl⟩
theorem ja (off : BitVec 22) : Statement (Sys2Proof.Instr.ja off) :=
  ⟨Nat.le_of_ble_eq_true rfl, ⟨fun _ => rfl, fun _ => List.cons_ne_nil _ _⟩, Nat.le_of_ble_eq_true rfl, Nat.le_of_ble_eq_true rfl⟩
theorem calla (off : BitVec 22) : Statement (Sys2Proof.Instr.calla off) :=
  ⟨Nat.le_of_ble_eq_true rfl, ⟨fun _ => rfl, fun _ => List.cons_ne_nil _ _⟩, Nat.le_of_ble_eq_true rfl, Nat.le_of_ble_eq_true rfl⟩
theorem rpt (len : BitVec 4) (stag : BitVec 3) (count : BitVec 18) : Statement (Sys2Proof.Instr.rpt len stag count) :=
  ⟨Nat.le_of_ble_eq_true rfl, ⟨fun _ => rfl, fun _ => List.cons_ne_nil _ _⟩, Nat.le_of_ble_eq_true rfl, Nat.le_of_ble_eq_true rfl⟩
theorem rptA (len : BitVec 4) (stag : BitVec 3) : Statement (Sys2Proof.Instr.rptA len stag) :=
  ⟨Nat.le_of_ble_eq_true rfl, ⟨fun _ => rfl, fun _ => List.cons_ne_nil _ _⟩, Nat.le_of_ble_eq_true rfl, Nat.le_of_ble_eq_true rfl⟩
theorem fadd (o : SOp) : Statement (Sys2Proof.Instr.fadd o) :=
  ⟨Nat.le_of_ble_eq_true rfl, ⟨fun _ => rfl, fun _ => List.cons_ne_nil _ _⟩, Nat.le_of_ble_eq_true rfl, Nat.le_of_ble_eq_true rfl⟩
theorem fsub (o : SOp) : Statement (Sys2Proof.Instr.fsub o) :=
  ⟨Nat.le_of_ble_eq_true rfl, ⟨fun _ => rfl, fun _ => List.cons_ne_nil _ _⟩, Nat.le_of_ble_eq_true rfl, Nat.le_of_ble_eq_true rfl⟩
theorem fmul (o : SOp) : Statement (Sys2Proof.Instr.fmul o) :=
  ⟨Nat.le_of_ble_eq_true rfl, ⟨fun _ => rfl, fun _ => List.cons_ne_nil _ _⟩, Nat.le_of_ble_eq_true rfl, Nat.le_of_ble_eq_true rfl⟩
theorem fma (o : SOp) : Statement (Sys2Proof.Instr.fma o) :=
  ⟨Nat.le_of_ble_eq_true rfl, ⟨fun _ => rfl, fun _ => List.cons_ne_nil _ _⟩, Nat.le_of_ble_eq_true rfl, Nat.le_of_ble_eq_true rfl⟩
theorem fmin (o : SOp) : Statement (Sys2Proof.Instr.fmin o) :=
  ⟨Nat.le_of_ble_eq_true rfl, ⟨fun _ => rfl, fun _ => List.cons_ne_nil _ _⟩, Nat.le_of_ble_eq_true rfl, Nat.le_of_ble_eq_true rfl⟩
theorem fmax (o : SOp) : Statement (Sys2Proof.Instr.fmax o) :=
  ⟨Nat.le_of_ble_eq_true rfl, ⟨fun _ => rfl, fun _ => List.cons_ne_nil _ _⟩, Nat.le_of_ble_eq_true rfl, Nat.le_of_ble_eq_true rfl⟩
theorem fdiv (o : SOp) : Statement (Sys2Proof.Instr.fdiv o) :=
  ⟨Nat.le_of_ble_eq_true rfl, ⟨fun _ => rfl, fun _ => List.cons_ne_nil _ _⟩, Nat.le_of_ble_eq_true rfl, Nat.le_of_ble_eq_true rfl⟩
theorem fsqrt (o : SOp) : Statement (Sys2Proof.Instr.fsqrt o) :=
  ⟨Nat.le_of_ble_eq_true rfl, ⟨fun _ => rfl, fun _ => List.cons_ne_nil _ _⟩, Nat.le_of_ble_eq_true rfl, Nat.le_of_ble_eq_true rfl⟩
theorem fcmp (o : SOp) : Statement (Sys2Proof.Instr.fcmp o) :=
  ⟨Nat.le_of_ble_eq_true rfl, ⟨fun _ => rfl, fun _ => List.cons_ne_nil _ _⟩, Nat.le_of_ble_eq_true rfl, Nat.le_of_ble_eq_true rfl⟩
theorem fcvt (o : SOp) : Statement (Sys2Proof.Instr.fcvt o) :=
  ⟨Nat.le_of_ble_eq_true rfl, ⟨fun _ => rfl, fun _ => List.cons_ne_nil _ _⟩, Nat.le_of_ble_eq_true rfl, Nat.le_of_ble_eq_true rfl⟩
theorem fsgn (o : SOp) : Statement (Sys2Proof.Instr.fsgn o) :=
  ⟨Nat.le_of_ble_eq_true rfl, ⟨fun _ => rfl, fun _ => List.cons_ne_nil _ _⟩, Nat.le_of_ble_eq_true rfl, Nat.le_of_ble_eq_true rfl⟩
theorem vadd (o : SOp) : Statement (Sys2Proof.Instr.vadd o) :=
  ⟨Nat.le_of_ble_eq_true rfl, ⟨fun _ => rfl, fun _ => List.cons_ne_nil _ _⟩, Nat.le_of_ble_eq_true rfl, Nat.le_of_ble_eq_true rfl⟩
theorem vsub (o : SOp) : Statement (Sys2Proof.Instr.vsub o) :=
  ⟨Nat.le_of_ble_eq_true rfl, ⟨fun _ => rfl, fun _ => List.cons_ne_nil _ _⟩, Nat.le_of_ble_eq_true rfl, Nat.le_of_ble_eq_true rfl⟩
theorem vmul (o : SOp) : Statement (Sys2Proof.Instr.vmul o) :=
  ⟨Nat.le_of_ble_eq_true rfl, ⟨fun _ => rfl, fun _ => List.cons_ne_nil _ _⟩, Nat.le_of_ble_eq_true rfl, Nat.le_of_ble_eq_true rfl⟩
theorem vmac (o : SOp) : Statement (Sys2Proof.Instr.vmac o) :=
  ⟨Nat.le_of_ble_eq_true rfl, ⟨fun _ => rfl, fun _ => List.cons_ne_nil _ _⟩, Nat.le_of_ble_eq_true rfl, Nat.le_of_ble_eq_true rfl⟩
theorem vmin (o : SOp) : Statement (Sys2Proof.Instr.vmin o) :=
  ⟨Nat.le_of_ble_eq_true rfl, ⟨fun _ => rfl, fun _ => List.cons_ne_nil _ _⟩, Nat.le_of_ble_eq_true rfl, Nat.le_of_ble_eq_true rfl⟩
theorem vmax (o : SOp) : Statement (Sys2Proof.Instr.vmax o) :=
  ⟨Nat.le_of_ble_eq_true rfl, ⟨fun _ => rfl, fun _ => List.cons_ne_nil _ _⟩, Nat.le_of_ble_eq_true rfl, Nat.le_of_ble_eq_true rfl⟩
theorem vand (o : SOp) : Statement (Sys2Proof.Instr.vand o) :=
  ⟨Nat.le_of_ble_eq_true rfl, ⟨fun _ => rfl, fun _ => List.cons_ne_nil _ _⟩, Nat.le_of_ble_eq_true rfl, Nat.le_of_ble_eq_true rfl⟩
theorem vor (o : SOp) : Statement (Sys2Proof.Instr.vor o) :=
  ⟨Nat.le_of_ble_eq_true rfl, ⟨fun _ => rfl, fun _ => List.cons_ne_nil _ _⟩, Nat.le_of_ble_eq_true rfl, Nat.le_of_ble_eq_true rfl⟩
theorem vxor (o : SOp) : Statement (Sys2Proof.Instr.vxor o) :=
  ⟨Nat.le_of_ble_eq_true rfl, ⟨fun _ => rfl, fun _ => List.cons_ne_nil _ _⟩, Nat.le_of_ble_eq_true rfl, Nat.le_of_ble_eq_true rfl⟩
theorem vshl (o : SOp) : Statement (Sys2Proof.Instr.vshl o) :=
  ⟨Nat.le_of_ble_eq_true rfl, ⟨fun _ => rfl, fun _ => List.cons_ne_nil _ _⟩, Nat.le_of_ble_eq_true rfl, Nat.le_of_ble_eq_true rfl⟩
theorem vshr (o : SOp) : Statement (Sys2Proof.Instr.vshr o) :=
  ⟨Nat.le_of_ble_eq_true rfl, ⟨fun _ => rfl, fun _ => List.cons_ne_nil _ _⟩, Nat.le_of_ble_eq_true rfl, Nat.le_of_ble_eq_true rfl⟩
theorem vsra (o : SOp) : Statement (Sys2Proof.Instr.vsra o) :=
  ⟨Nat.le_of_ble_eq_true rfl, ⟨fun _ => rfl, fun _ => List.cons_ne_nil _ _⟩, Nat.le_of_ble_eq_true rfl, Nat.le_of_ble_eq_true rfl⟩
theorem vcmp (o : SOp) : Statement (Sys2Proof.Instr.vcmp o) :=
  ⟨Nat.le_of_ble_eq_true rfl, ⟨fun _ => rfl, fun _ => List.cons_ne_nil _ _⟩, Nat.le_of_ble_eq_true rfl, Nat.le_of_ble_eq_true rfl⟩
theorem vsel (o : SOp) : Statement (Sys2Proof.Instr.vsel o) :=
  ⟨Nat.le_of_ble_eq_true rfl, ⟨fun _ => rfl, fun _ => List.cons_ne_nil _ _⟩, Nat.le_of_ble_eq_true rfl, Nat.le_of_ble_eq_true rfl⟩
theorem vfadd (o : SOp) : Statement (Sys2Proof.Instr.vfadd o) :=
  ⟨Nat.le_of_ble_eq_true rfl, ⟨fun _ => rfl, fun _ => List.cons_ne_nil _ _⟩, Nat.le_of_ble_eq_true rfl, Nat.le_of_ble_eq_true rfl⟩
theorem vfsub (o : SOp) : Statement (Sys2Proof.Instr.vfsub o) :=
  ⟨Nat.le_of_ble_eq_true rfl, ⟨fun _ => rfl, fun _ => List.cons_ne_nil _ _⟩, Nat.le_of_ble_eq_true rfl, Nat.le_of_ble_eq_true rfl⟩
theorem vfmul (o : SOp) : Statement (Sys2Proof.Instr.vfmul o) :=
  ⟨Nat.le_of_ble_eq_true rfl, ⟨fun _ => rfl, fun _ => List.cons_ne_nil _ _⟩, Nat.le_of_ble_eq_true rfl, Nat.le_of_ble_eq_true rfl⟩
theorem vfma (o : SOp) : Statement (Sys2Proof.Instr.vfma o) :=
  ⟨Nat.le_of_ble_eq_true rfl, ⟨fun _ => rfl, fun _ => List.cons_ne_nil _ _⟩, Nat.le_of_ble_eq_true rfl, Nat.le_of_ble_eq_true rfl⟩
theorem vfmin (o : SOp) : Statement (Sys2Proof.Instr.vfmin o) :=
  ⟨Nat.le_of_ble_eq_true rfl, ⟨fun _ => rfl, fun _ => List.cons_ne_nil _ _⟩, Nat.le_of_ble_eq_true rfl, Nat.le_of_ble_eq_true rfl⟩
theorem vfmax (o : SOp) : Statement (Sys2Proof.Instr.vfmax o) :=
  ⟨Nat.le_of_ble_eq_true rfl, ⟨fun _ => rfl, fun _ => List.cons_ne_nil _ _⟩, Nat.le_of_ble_eq_true rfl, Nat.le_of_ble_eq_true rfl⟩
theorem vfcmp (o : SOp) : Statement (Sys2Proof.Instr.vfcmp o) :=
  ⟨Nat.le_of_ble_eq_true rfl, ⟨fun _ => rfl, fun _ => List.cons_ne_nil _ _⟩, Nat.le_of_ble_eq_true rfl, Nat.le_of_ble_eq_true rfl⟩
theorem vfcvt (o : SOp) : Statement (Sys2Proof.Instr.vfcvt o) :=
  ⟨Nat.le_of_ble_eq_true rfl, ⟨fun _ => rfl, fun _ => List.cons_ne_nil _ _⟩, Nat.le_of_ble_eq_true rfl, Nat.le_of_ble_eq_true rfl⟩
theorem vfrcp (o : SOp) : Statement (Sys2Proof.Instr.vfrcp o) :=
  ⟨Nat.le_of_ble_eq_true rfl, ⟨fun _ => rfl, fun _ => List.cons_ne_nil _ _⟩, Nat.le_of_ble_eq_true rfl, Nat.le_of_ble_eq_true rfl⟩
theorem vfrsq (o : SOp) : Statement (Sys2Proof.Instr.vfrsq o) :=
  ⟨Nat.le_of_ble_eq_true rfl, ⟨fun _ => rfl, fun _ => List.cons_ne_nil _ _⟩, Nat.le_of_ble_eq_true rfl, Nat.le_of_ble_eq_true rfl⟩
theorem vfexp (o : SOp) : Statement (Sys2Proof.Instr.vfexp o) :=
  ⟨Nat.le_of_ble_eq_true rfl, ⟨fun _ => rfl, fun _ => List.cons_ne_nil _ _⟩, Nat.le_of_ble_eq_true rfl, Nat.le_of_ble_eq_true rfl⟩
theorem vflog (o : SOp) : Statement (Sys2Proof.Instr.vflog o) :=
  ⟨Nat.le_of_ble_eq_true rfl, ⟨fun _ => rfl, fun _ => List.cons_ne_nil _ _⟩, Nat.le_of_ble_eq_true rfl, Nat.le_of_ble_eq_true rfl⟩
theorem vld (o : SOp) : Statement (Sys2Proof.Instr.vld o) :=
  ⟨Nat.le_of_ble_eq_true rfl, ⟨fun _ => rfl, fun _ => List.cons_ne_nil _ _⟩, Nat.le_of_ble_eq_true rfl, Nat.le_of_ble_eq_true rfl⟩
theorem vst (o : SOp) : Statement (Sys2Proof.Instr.vst o) :=
  ⟨Nat.le_of_ble_eq_true rfl, ⟨fun _ => rfl, fun _ => List.cons_ne_nil _ _⟩, Nat.le_of_ble_eq_true rfl, Nat.le_of_ble_eq_true rfl⟩
theorem vsplat (o : SOp) : Statement (Sys2Proof.Instr.vsplat o) :=
  ⟨Nat.le_of_ble_eq_true rfl, ⟨fun _ => rfl, fun _ => List.cons_ne_nil _ _⟩, Nat.le_of_ble_eq_true rfl, Nat.le_of_ble_eq_true rfl⟩
theorem vext (o : SOp) : Statement (Sys2Proof.Instr.vext o) :=
  ⟨Nat.le_of_ble_eq_true rfl, ⟨fun _ => rfl, fun _ => List.cons_ne_nil _ _⟩, Nat.le_of_ble_eq_true rfl, Nat.le_of_ble_eq_true rfl⟩
theorem vins (o : SOp) : Statement (Sys2Proof.Instr.vins o) :=
  ⟨Nat.le_of_ble_eq_true rfl, ⟨fun _ => rfl, fun _ => List.cons_ne_nil _ _⟩, Nat.le_of_ble_eq_true rfl, Nat.le_of_ble_eq_true rfl⟩
theorem vperm (o : SOp) : Statement (Sys2Proof.Instr.vperm o) :=
  ⟨Nat.le_of_ble_eq_true rfl, ⟨fun _ => rfl, fun _ => List.cons_ne_nil _ _⟩, Nat.le_of_ble_eq_true rfl, Nat.le_of_ble_eq_true rfl⟩
theorem vsum (o : SOp) : Statement (Sys2Proof.Instr.vsum o) :=
  ⟨Nat.le_of_ble_eq_true rfl, ⟨fun _ => rfl, fun _ => List.cons_ne_nil _ _⟩, Nat.le_of_ble_eq_true rfl, Nat.le_of_ble_eq_true rfl⟩
theorem vmaxr (o : SOp) : Statement (Sys2Proof.Instr.vmaxr o) :=
  ⟨Nat.le_of_ble_eq_true rfl, ⟨fun _ => rfl, fun _ => List.cons_ne_nil _ _⟩, Nat.le_of_ble_eq_true rfl, Nat.le_of_ble_eq_true rfl⟩
theorem vmask (o : SOp) : Statement (Sys2Proof.Instr.vmask o) :=
  ⟨Nat.le_of_ble_eq_true rfl, ⟨fun _ => rfl, fun _ => List.cons_ne_nil _ _⟩, Nat.le_of_ble_eq_true rfl, Nat.le_of_ble_eq_true rfl⟩
theorem vslide (o : SOp) : Statement (Sys2Proof.Instr.vslide o) :=
  ⟨Nat.le_of_ble_eq_true rfl, ⟨fun _ => rfl, fun _ => List.cons_ne_nil _ _⟩, Nat.le_of_ble_eq_true rfl, Nat.le_of_ble_eq_true rfl⟩
theorem send (o : COp) : Statement (Sys2Proof.Instr.send o) :=
  ⟨Nat.le_of_ble_eq_true rfl, ⟨fun _ => rfl, fun _ => List.cons_ne_nil _ _⟩, Nat.le_of_ble_eq_true rfl, Nat.le_of_ble_eq_true rfl⟩
theorem sendv (o : COp) : Statement (Sys2Proof.Instr.sendv o) :=
  ⟨Nat.le_of_ble_eq_true rfl, ⟨fun _ => rfl, fun _ => List.cons_ne_nil _ _⟩, Nat.le_of_ble_eq_true rfl, Nat.le_of_ble_eq_true rfl⟩
theorem recv (o : COp) : Statement (Sys2Proof.Instr.recv o) :=
  ⟨Nat.le_of_ble_eq_true rfl, ⟨fun _ => rfl, fun _ => List.cons_ne_nil _ _⟩, Nat.le_of_ble_eq_true rfl, Nat.le_of_ble_eq_true rfl⟩
theorem peek (o : COp) : Statement (Sys2Proof.Instr.peek o) :=
  ⟨Nat.le_of_ble_eq_true rfl, ⟨fun _ => rfl, fun _ => List.cons_ne_nil _ _⟩, Nat.le_of_ble_eq_true rfl, Nat.le_of_ble_eq_true rfl⟩
theorem offer (o : COp) : Statement (Sys2Proof.Instr.offer o) :=
  ⟨Nat.le_of_ble_eq_true rfl, ⟨fun _ => rfl, fun _ => List.cons_ne_nil _ _⟩, Nat.le_of_ble_eq_true rfl, Nat.le_of_ble_eq_true rfl⟩
theorem pull (o : COp) : Statement (Sys2Proof.Instr.pull o) :=
  ⟨Nat.le_of_ble_eq_true rfl, ⟨fun _ => rfl, fun _ => List.cons_ne_nil _ _⟩, Nat.le_of_ble_eq_true rfl, Nat.le_of_ble_eq_true rfl⟩
theorem hret (o : COp) : Statement (Sys2Proof.Instr.hret o) :=
  ⟨Nat.le_of_ble_eq_true rfl, ⟨fun _ => rfl, fun _ => List.cons_ne_nil _ _⟩, Nat.le_of_ble_eq_true rfl, Nat.le_of_ble_eq_true rfl⟩
theorem tagset (o : COp) : Statement (Sys2Proof.Instr.tagset o) :=
  ⟨Nat.le_of_ble_eq_true rfl, ⟨fun _ => rfl, fun _ => List.cons_ne_nil _ _⟩, Nat.le_of_ble_eq_true rfl, Nat.le_of_ble_eq_true rfl⟩
theorem tagclr (o : COp) : Statement (Sys2Proof.Instr.tagclr o) :=
  ⟨Nat.le_of_ble_eq_true rfl, ⟨fun _ => rfl, fun _ => List.cons_ne_nil _ _⟩, Nat.le_of_ble_eq_true rfl, Nat.le_of_ble_eq_true rfl⟩
theorem chr (o : COp) : Statement (Sys2Proof.Instr.chr o) :=
  ⟨Nat.le_of_ble_eq_true rfl, ⟨fun _ => rfl, fun _ => List.cons_ne_nil _ _⟩, Nat.le_of_ble_eq_true rfl, Nat.le_of_ble_eq_true rfl⟩
theorem chw (o : COp) : Statement (Sys2Proof.Instr.chw o) :=
  ⟨Nat.le_of_ble_eq_true rfl, ⟨fun _ => rfl, fun _ => List.cons_ne_nil _ _⟩, Nat.le_of_ble_eq_true rfl, Nat.le_of_ble_eq_true rfl⟩
theorem chwv (o : COp) : Statement (Sys2Proof.Instr.chwv o) :=
  ⟨Nat.le_of_ble_eq_true rfl, ⟨fun _ => rfl, fun _ => List.cons_ne_nil _ _⟩, Nat.le_of_ble_eq_true rfl, Nat.le_of_ble_eq_true rfl⟩
theorem chst (o : COp) : Statement (Sys2Proof.Instr.chst o) :=
  ⟨Nat.le_of_ble_eq_true rfl, ⟨fun _ => rfl, fun _ => List.cons_ne_nil _ _⟩, Nat.le_of_ble_eq_true rfl, Nat.le_of_ble_eq_true rfl⟩
theorem barw (o : COp) : Statement (Sys2Proof.Instr.barw o) :=
  ⟨Nat.le_of_ble_eq_true rfl, ⟨fun _ => rfl, fun _ => List.cons_ne_nil _ _⟩, Nat.le_of_ble_eq_true rfl, Nat.le_of_ble_eq_true rfl⟩
theorem bart (o : COp) : Statement (Sys2Proof.Instr.bart o) :=
  ⟨Nat.le_of_ble_eq_true rfl, ⟨fun _ => rfl, fun _ => List.cons_ne_nil _ _⟩, Nat.le_of_ble_eq_true rfl, Nat.le_of_ble_eq_true rfl⟩
theorem pause (o : COp) : Statement (Sys2Proof.Instr.pause o) :=
  ⟨Nat.le_of_ble_eq_true rfl, ⟨fun _ => rfl, fun _ => List.cons_ne_nil _ _⟩, Nat.le_of_ble_eq_true rfl, Nat.le_of_ble_eq_true rfl⟩
theorem waitq (o : COp) : Statement (Sys2Proof.Instr.waitq o) :=
  ⟨Nat.le_of_ble_eq_true rfl, ⟨fun _ => rfl, fun _ => List.cons_ne_nil _ _⟩, Nat.le_of_ble_eq_true rfl, Nat.le_of_ble_eq_true rfl⟩
theorem yield (o : COp) : Statement (Sys2Proof.Instr.yield o) :=
  ⟨Nat.le_of_ble_eq_true rfl, ⟨fun _ => rfl, fun _ => List.cons_ne_nil _ _⟩, Nat.le_of_ble_eq_true rfl, Nat.le_of_ble_eq_true rfl⟩
theorem stkh (o : COp) : Statement (Sys2Proof.Instr.stkh o) :=
  ⟨Nat.le_of_ble_eq_true rfl, ⟨fun _ => rfl, fun _ => List.cons_ne_nil _ _⟩, Nat.le_of_ble_eq_true rfl, Nat.le_of_ble_eq_true rfl⟩
theorem align (o : COp) : Statement (Sys2Proof.Instr.align o) :=
  ⟨Nat.le_of_ble_eq_true rfl, ⟨fun _ => rfl, fun _ => List.cons_ne_nil _ _⟩, Nat.le_of_ble_eq_true rfl, Nat.le_of_ble_eq_true rfl⟩
theorem circ (o : COp) : Statement (Sys2Proof.Instr.circ o) :=
  ⟨Nat.le_of_ble_eq_true rfl, ⟨fun _ => rfl, fun _ => List.cons_ne_nil _ _⟩, Nat.le_of_ble_eq_true rfl, Nat.le_of_ble_eq_true rfl⟩
theorem rank (o : COp) : Statement (Sys2Proof.Instr.rank o) :=
  ⟨Nat.le_of_ble_eq_true rfl, ⟨fun _ => rfl, fun _ => List.cons_ne_nil _ _⟩, Nat.le_of_ble_eq_true rfl, Nat.le_of_ble_eq_true rfl⟩
theorem tree (o : COp) : Statement (Sys2Proof.Instr.tree o) :=
  ⟨Nat.le_of_ble_eq_true rfl, ⟨fun _ => rfl, fun _ => List.cons_ne_nil _ _⟩, Nat.le_of_ble_eq_true rfl, Nat.le_of_ble_eq_true rfl⟩
theorem rld (o : SOp) : Statement (Sys2Proof.Instr.rld o) :=
  ⟨Nat.le_of_ble_eq_true rfl, ⟨fun _ => rfl, fun _ => List.cons_ne_nil _ _⟩, Nat.le_of_ble_eq_true rfl, Nat.le_of_ble_eq_true rfl⟩
theorem rldAcq (o : SOp) : Statement (Sys2Proof.Instr.rldAcq o) :=
  ⟨Nat.le_of_ble_eq_true rfl, ⟨fun _ => rfl, fun _ => List.cons_ne_nil _ _⟩, Nat.le_of_ble_eq_true rfl, Nat.le_of_ble_eq_true rfl⟩
theorem rst (o : SOp) : Statement (Sys2Proof.Instr.rst o) :=
  ⟨Nat.le_of_ble_eq_true rfl, ⟨fun _ => rfl, fun _ => List.cons_ne_nil _ _⟩, Nat.le_of_ble_eq_true rfl, Nat.le_of_ble_eq_true rfl⟩
theorem rstRel (o : SOp) : Statement (Sys2Proof.Instr.rstRel o) :=
  ⟨Nat.le_of_ble_eq_true rfl, ⟨fun _ => rfl, fun _ => List.cons_ne_nil _ _⟩, Nat.le_of_ble_eq_true rfl, Nat.le_of_ble_eq_true rfl⟩
theorem rldv (o : SOp) : Statement (Sys2Proof.Instr.rldv o) :=
  ⟨Nat.le_of_ble_eq_true rfl, ⟨fun _ => rfl, fun _ => List.cons_ne_nil _ _⟩, Nat.le_of_ble_eq_true rfl, Nat.le_of_ble_eq_true rfl⟩
theorem rstv (o : SOp) : Statement (Sys2Proof.Instr.rstv o) :=
  ⟨Nat.le_of_ble_eq_true rfl, ⟨fun _ => rfl, fun _ => List.cons_ne_nil _ _⟩, Nat.le_of_ble_eq_true rfl, Nat.le_of_ble_eq_true rfl⟩
theorem aadd (o : SOp) : Statement (Sys2Proof.Instr.aadd o) :=
  ⟨Nat.le_of_ble_eq_true rfl, ⟨fun _ => rfl, fun _ => List.cons_ne_nil _ _⟩, by unfold Sys2Proof.Instr.weight; dsimp only; split <;> decide, by unfold Sys2Proof.Instr.weight; dsimp only; split <;> decide⟩
theorem aand (o : SOp) : Statement (Sys2Proof.Instr.aand o) :=
  ⟨Nat.le_of_ble_eq_true rfl, ⟨fun _ => rfl, fun _ => List.cons_ne_nil _ _⟩, by unfold Sys2Proof.Instr.weight; dsimp only; split <;> decide, by unfold Sys2Proof.Instr.weight; dsimp only; split <;> decide⟩
theorem aor (o : SOp) : Statement (Sys2Proof.Instr.aor o) :=
  ⟨Nat.le_of_ble_eq_true rfl, ⟨fun _ => rfl, fun _ => List.cons_ne_nil _ _⟩, by unfold Sys2Proof.Instr.weight; dsimp only; split <;> decide, by unfold Sys2Proof.Instr.weight; dsimp only; split <;> decide⟩
theorem axor (o : SOp) : Statement (Sys2Proof.Instr.axor o) :=
  ⟨Nat.le_of_ble_eq_true rfl, ⟨fun _ => rfl, fun _ => List.cons_ne_nil _ _⟩, by unfold Sys2Proof.Instr.weight; dsimp only; split <;> decide, by unfold Sys2Proof.Instr.weight; dsimp only; split <;> decide⟩
theorem amin (o : SOp) : Statement (Sys2Proof.Instr.amin o) :=
  ⟨Nat.le_of_ble_eq_true rfl, ⟨fun _ => rfl, fun _ => List.cons_ne_nil _ _⟩, by unfold Sys2Proof.Instr.weight; dsimp only; split <;> decide, by unfold Sys2Proof.Instr.weight; dsimp only; split <;> decide⟩
theorem amax (o : SOp) : Statement (Sys2Proof.Instr.amax o) :=
  ⟨Nat.le_of_ble_eq_true rfl, ⟨fun _ => rfl, fun _ => List.cons_ne_nil _ _⟩, by unfold Sys2Proof.Instr.weight; dsimp only; split <;> decide, by unfold Sys2Proof.Instr.weight; dsimp only; split <;> decide⟩
theorem aminu (o : SOp) : Statement (Sys2Proof.Instr.aminu o) :=
  ⟨Nat.le_of_ble_eq_true rfl, ⟨fun _ => rfl, fun _ => List.cons_ne_nil _ _⟩, by unfold Sys2Proof.Instr.weight; dsimp only; split <;> decide, by unfold Sys2Proof.Instr.weight; dsimp only; split <;> decide⟩
theorem amaxu (o : SOp) : Statement (Sys2Proof.Instr.amaxu o) :=
  ⟨Nat.le_of_ble_eq_true rfl, ⟨fun _ => rfl, fun _ => List.cons_ne_nil _ _⟩, by unfold Sys2Proof.Instr.weight; dsimp only; split <;> decide, by unfold Sys2Proof.Instr.weight; dsimp only; split <;> decide⟩
theorem aswp (o : SOp) : Statement (Sys2Proof.Instr.aswp o) :=
  ⟨Nat.le_of_ble_eq_true rfl, ⟨fun _ => rfl, fun _ => List.cons_ne_nil _ _⟩, by unfold Sys2Proof.Instr.weight; dsimp only; split <;> decide, by unfold Sys2Proof.Instr.weight; dsimp only; split <;> decide⟩
theorem acas (o : SOp) : Statement (Sys2Proof.Instr.acas o) :=
  ⟨Nat.le_of_ble_eq_true rfl, ⟨fun _ => rfl, fun _ => List.cons_ne_nil _ _⟩, by unfold Sys2Proof.Instr.weight; dsimp only; split <;> decide, by unfold Sys2Proof.Instr.weight; dsimp only; split <;> decide⟩
theorem fence (arg : BitVec 20) : Statement (Sys2Proof.Instr.fence arg) :=
  ⟨Nat.le_of_ble_eq_true rfl, ⟨fun _ => rfl, fun _ => List.cons_ne_nil _ _⟩, Nat.le_of_ble_eq_true rfl, Nat.le_of_ble_eq_true rfl⟩
theorem waitc (arg : BitVec 20) : Statement (Sys2Proof.Instr.waitc arg) :=
  ⟨Nat.le_of_ble_eq_true rfl, ⟨fun _ => rfl, fun _ => List.cons_ne_nil _ _⟩, Nat.le_of_ble_eq_true rfl, Nat.le_of_ble_eq_true rfl⟩
theorem gtag (arg : BitVec 20) : Statement (Sys2Proof.Instr.gtag arg) :=
  ⟨Nat.le_of_ble_eq_true rfl, ⟨fun _ => rfl, fun _ => List.cons_ne_nil _ _⟩, Nat.le_of_ble_eq_true rfl, Nat.le_of_ble_eq_true rfl⟩
theorem gnew (arg : BitVec 20) : Statement (Sys2Proof.Instr.gnew arg) :=
  ⟨Nat.le_of_ble_eq_true rfl, ⟨fun _ => rfl, fun _ => List.cons_ne_nil _ _⟩, Nat.le_of_ble_eq_true rfl, Nat.le_of_ble_eq_true rfl⟩
theorem gnewAllocation (t : Nat) (k : Nat) : Statement (Sys2Proof.Instr.gnewAllocation t k) :=
  ⟨Nat.le_of_ble_eq_true rfl, ⟨fun h => absurd rfl h, fun h => Bool.noConfusion h⟩, Nat.le_of_ble_eq_true rfl, Nat.le_of_ble_eq_true rfl⟩
theorem pcfg (o : EOp) : Statement (Sys2Proof.Instr.pcfg o) :=
  ⟨Nat.le_of_ble_eq_true rfl, ⟨fun _ => rfl, fun _ => List.cons_ne_nil _ _⟩, Nat.le_of_ble_eq_true rfl, Nat.le_of_ble_eq_true rfl⟩
theorem pdot (o : EOp) : Statement (Sys2Proof.Instr.pdot o) :=
  ⟨Nat.le_of_ble_eq_true rfl, ⟨fun _ => rfl, fun _ => List.cons_ne_nil _ _⟩, Nat.le_of_ble_eq_true rfl, Nat.le_of_ble_eq_true rfl⟩
theorem ppack (o : EOp) : Statement (Sys2Proof.Instr.ppack o) :=
  ⟨Nat.le_of_ble_eq_true rfl, ⟨fun _ => rfl, fun _ => List.cons_ne_nil _ _⟩, Nat.le_of_ble_eq_true rfl, Nat.le_of_ble_eq_true rfl⟩
theorem punpk (o : EOp) : Statement (Sys2Proof.Instr.punpk o) :=
  ⟨Nat.le_of_ble_eq_true rfl, ⟨fun _ => rfl, fun _ => List.cons_ne_nil _ _⟩, Nat.le_of_ble_eq_true rfl, Nat.le_of_ble_eq_true rfl⟩
theorem maclm (o : EOp) : Statement (Sys2Proof.Instr.maclm o) :=
  ⟨Nat.le_of_ble_eq_true rfl, ⟨fun _ => rfl, fun _ => List.cons_ne_nil _ _⟩, Nat.le_of_ble_eq_true rfl, Nat.le_of_ble_eq_true rfl⟩
theorem marel (o : EOp) : Statement (Sys2Proof.Instr.marel o) :=
  ⟨Nat.le_of_ble_eq_true rfl, ⟨fun _ => rfl, fun _ => List.cons_ne_nil _ _⟩, Nat.le_of_ble_eq_true rfl, Nat.le_of_ble_eq_true rfl⟩
theorem mard (o : EOp) : Statement (Sys2Proof.Instr.mard o) :=
  ⟨Nat.le_of_ble_eq_true rfl, ⟨fun _ => rfl, fun _ => List.cons_ne_nil _ _⟩, Nat.le_of_ble_eq_true rfl, Nat.le_of_ble_eq_true rfl⟩
theorem mawm (o : EOp) : Statement (Sys2Proof.Instr.mawm o) :=
  ⟨Nat.le_of_ble_eq_true rfl, ⟨fun _ => rfl, fun _ => List.cons_ne_nil _ _⟩, Nat.le_of_ble_eq_true rfl, Nat.le_of_ble_eq_true rfl⟩
theorem maclr (o : EOp) : Statement (Sys2Proof.Instr.maclr o) :=
  ⟨Nat.le_of_ble_eq_true rfl, ⟨fun _ => rfl, fun _ => List.cons_ne_nil _ _⟩, Nat.le_of_ble_eq_true rfl, Nat.le_of_ble_eq_true rfl⟩
theorem cpy (o : EOp) : Statement (Sys2Proof.Instr.cpy o) :=
  ⟨Nat.le_of_ble_eq_true rfl, ⟨fun _ => rfl, fun _ => List.cons_ne_nil _ _⟩, Nat.le_of_ble_eq_true rfl, Nat.le_of_ble_eq_true rfl⟩
theorem cpyq (o : EOp) : Statement (Sys2Proof.Instr.cpyq o) :=
  ⟨Nat.le_of_ble_eq_true rfl, ⟨fun _ => rfl, fun _ => List.cons_ne_nil _ _⟩, Nat.le_of_ble_eq_true rfl, Nat.le_of_ble_eq_true rfl⟩
theorem inbox (o : EOp) : Statement (Sys2Proof.Instr.inbox o) :=
  ⟨Nat.le_of_ble_eq_true rfl, ⟨fun _ => rfl, fun _ => List.cons_ne_nil _ _⟩, Nat.le_of_ble_eq_true rfl, Nat.le_of_ble_eq_true rfl⟩
theorem grnw (o : EOp) : Statement (Sys2Proof.Instr.grnw o) :=
  ⟨Nat.le_of_ble_eq_true rfl, ⟨fun _ => rfl, fun _ => List.cons_ne_nil _ _⟩, Nat.le_of_ble_eq_true rfl, Nat.le_of_ble_eq_true rfl⟩
theorem grn (o : EOp) : Statement (Sys2Proof.Instr.grn o) :=
  ⟨Nat.le_of_ble_eq_true rfl, ⟨fun _ => rfl, fun _ => List.cons_ne_nil _ _⟩, Nat.le_of_ble_eq_true rfl, Nat.le_of_ble_eq_true rfl⟩
theorem coll (o : COp) : Statement (Sys2Proof.Instr.coll o) :=
  ⟨Nat.le_of_ble_eq_true rfl, ⟨fun _ => rfl, fun _ => List.cons_ne_nil _ _⟩, Nat.le_of_ble_eq_true rfl, Nat.le_of_ble_eq_true rfl⟩
theorem collw (o : COp) : Statement (Sys2Proof.Instr.collw o) :=
  ⟨Nat.le_of_ble_eq_true rfl, ⟨fun _ => rfl, fun _ => List.cons_ne_nil _ _⟩, Nat.le_of_ble_eq_true rfl, Nat.le_of_ble_eq_true rfl⟩
theorem trap (arg : BitVec 20) : Statement (Sys2Proof.Instr.trap arg) :=
  ⟨Nat.le_of_ble_eq_true rfl, ⟨fun _ => rfl, fun _ => List.cons_ne_nil _ _⟩, Nat.le_of_ble_eq_true rfl, Nat.le_of_ble_eq_true rfl⟩
theorem sysc (arg : BitVec 20) : Statement (Sys2Proof.Instr.sysc arg) :=
  ⟨Nat.le_of_ble_eq_true rfl, ⟨fun _ => rfl, fun _ => List.cons_ne_nil _ _⟩, Nat.le_of_ble_eq_true rfl, Nat.le_of_ble_eq_true rfl⟩
theorem eret (arg : BitVec 20) : Statement (Sys2Proof.Instr.eret arg) :=
  ⟨Nat.le_of_ble_eq_true rfl, ⟨fun _ => rfl, fun _ => List.cons_ne_nil _ _⟩, Nat.le_of_ble_eq_true rfl, Nat.le_of_ble_eq_true rfl⟩
theorem gets (arg : BitVec 20) : Statement (Sys2Proof.Instr.gets arg) :=
  ⟨Nat.le_of_ble_eq_true rfl, ⟨fun _ => rfl, fun _ => List.cons_ne_nil _ _⟩, Nat.le_of_ble_eq_true rfl, Nat.le_of_ble_eq_true rfl⟩
theorem sets (arg : BitVec 20) : Statement (Sys2Proof.Instr.sets arg) :=
  ⟨Nat.le_of_ble_eq_true rfl, ⟨fun _ => rfl, fun _ => List.cons_ne_nil _ _⟩, Nat.le_of_ble_eq_true rfl, Nat.le_of_ble_eq_true rfl⟩
theorem exit (arg : BitVec 20) : Statement (Sys2Proof.Instr.exit arg) :=
  ⟨Nat.le_of_ble_eq_true rfl, ⟨fun _ => rfl, fun _ => List.cons_ne_nil _ _⟩, Nat.le_of_ble_eq_true rfl, Nat.le_of_ble_eq_true rfl⟩
theorem launch (arg : BitVec 20) : Statement (Sys2Proof.Instr.launch arg) :=
  ⟨Nat.le_of_ble_eq_true rfl, ⟨fun _ => rfl, fun _ => List.cons_ne_nil _ _⟩, Nat.le_of_ble_eq_true rfl, Nat.le_of_ble_eq_true rfl⟩
theorem wdog (arg : BitVec 20) : Statement (Sys2Proof.Instr.wdog arg) :=
  ⟨Nat.le_of_ble_eq_true rfl, ⟨fun _ => rfl, fun _ => List.cons_ne_nil _ _⟩, Nat.le_of_ble_eq_true rfl, Nat.le_of_ble_eq_true rfl⟩
theorem metr (arg : BitVec 20) : Statement (Sys2Proof.Instr.metr arg) :=
  ⟨Nat.le_of_ble_eq_true rfl, ⟨fun _ => rfl, fun _ => List.cons_ne_nil _ _⟩, Nat.le_of_ble_eq_true rfl, Nat.le_of_ble_eq_true rfl⟩
theorem plbw (arg : BitVec 20) : Statement (Sys2Proof.Instr.plbw arg) :=
  ⟨Nat.le_of_ble_eq_true rfl, ⟨fun _ => rfl, fun _ => List.cons_ne_nil _ _⟩, Nat.le_of_ble_eq_true rfl, Nat.le_of_ble_eq_true rfl⟩
theorem plbi (arg : BitVec 20) : Statement (Sys2Proof.Instr.plbi arg) :=
  ⟨Nat.le_of_ble_eq_true rfl, ⟨fun _ => rfl, fun _ => List.cons_ne_nil _ _⟩, Nat.le_of_ble_eq_true rfl, Nat.le_of_ble_eq_true rfl⟩
theorem halt (arg : BitVec 20) : Statement (Sys2Proof.Instr.halt arg) :=
  ⟨Nat.le_of_ble_eq_true rfl, ⟨fun _ => rfl, fun _ => List.cons_ne_nil _ _⟩, Nat.le_of_ble_eq_true rfl, Nat.le_of_ble_eq_true rfl⟩
theorem trapEntry (t : Nat) (k : Nat) : Statement (Sys2Proof.Instr.trapEntry t k) :=
  ⟨Nat.le_of_ble_eq_true rfl, ⟨fun h => absurd rfl h, fun h => Bool.noConfusion h⟩, Nat.le_of_ble_eq_true rfl, Nat.le_of_ble_eq_true rfl⟩
theorem preemptionEvent (t : Nat) (k : Nat) : Statement (Sys2Proof.Instr.preemptionEvent t k) :=
  ⟨Nat.le_of_ble_eq_true rfl, ⟨fun h => absurd rfl h, fun h => Bool.noConfusion h⟩, Nat.le_of_ble_eq_true rfl, Nat.le_of_ble_eq_true rfl⟩
theorem handlerDispatch (t : Nat) : Statement (Sys2Proof.Instr.handlerDispatch t) :=
  ⟨Nat.le_of_ble_eq_true rfl, ⟨fun h => absurd rfl h, fun h => Bool.noConfusion h⟩, Nat.le_of_ble_eq_true rfl, Nat.le_of_ble_eq_true rfl⟩
theorem watchdog (t : Nat) (k : Nat) : Statement (Sys2Proof.Instr.watchdog t k) :=
  ⟨Nat.le_of_ble_eq_true rfl, ⟨fun h => absurd rfl h, fun h => Bool.noConfusion h⟩, Nat.le_of_ble_eq_true rfl, Nat.le_of_ble_eq_true rfl⟩
theorem pauseExpiry (t : Nat) (k : Nat) : Statement (Sys2Proof.Instr.pauseExpiry t k) :=
  ⟨Nat.le_of_ble_eq_true rfl, ⟨fun h => absurd rfl h, fun h => Bool.noConfusion h⟩, Nat.le_of_ble_eq_true rfl, Nat.le_of_ble_eq_true rfl⟩
theorem messageInjection (t : Nat) (k : Nat) (n : Nat) : Statement (Sys2Proof.Instr.messageInjection t k n) :=
  ⟨Nat.le_of_ble_eq_true rfl, ⟨fun h => absurd rfl h, fun h => Bool.noConfusion h⟩, Nat.le_of_ble_eq_true rfl, Nat.le_of_ble_eq_true rfl⟩
theorem releaseInjection (t : Nat) (k : Nat) (n : Nat) : Statement (Sys2Proof.Instr.releaseInjection t k n) :=
  ⟨Nat.le_of_ble_eq_true rfl, ⟨fun h => absurd rfl h, fun h => Bool.noConfusion h⟩, Nat.le_of_ble_eq_true rfl, Nat.le_of_ble_eq_true rfl⟩
theorem messageVisible (n : Nat) : Statement (Sys2Proof.Instr.messageVisible n) :=
  ⟨Nat.le_of_ble_eq_true rfl, ⟨fun h => absurd rfl h, fun h => Bool.noConfusion h⟩, Nat.le_of_ble_eq_true rfl, Nat.le_of_ble_eq_true rfl⟩
theorem channelWordArrival (n : Nat) : Statement (Sys2Proof.Instr.channelWordArrival n) :=
  ⟨Nat.le_of_ble_eq_true rfl, ⟨fun h => absurd rfl h, fun h => Bool.noConfusion h⟩, Nat.le_of_ble_eq_true rfl, Nat.le_of_ble_eq_true rfl⟩
theorem creditReturn (n : Nat) : Statement (Sys2Proof.Instr.creditReturn n) :=
  ⟨Nat.le_of_ble_eq_true rfl, ⟨fun h => absurd rfl h, fun h => Bool.noConfusion h⟩, Nat.le_of_ble_eq_true rfl, Nat.le_of_ble_eq_true rfl⟩
theorem joinerRequest (die : Nat) : Statement (Sys2Proof.Instr.joinerRequest die) :=
  ⟨Nat.le_of_ble_eq_true rfl, ⟨fun h => absurd rfl h, fun h => Bool.noConfusion h⟩, Nat.le_of_ble_eq_true rfl, Nat.le_of_ble_eq_true rfl⟩
theorem farJoinerWrite (die : Nat) : Statement (Sys2Proof.Instr.farJoinerWrite die) :=
  ⟨Nat.le_of_ble_eq_true rfl, ⟨fun h => absurd rfl h, fun h => Bool.noConfusion h⟩, Nat.le_of_ble_eq_true rfl, Nat.le_of_ble_eq_true rfl⟩
theorem circuitTeardownDrain (n : Nat) : Statement (Sys2Proof.Instr.circuitTeardownDrain n) :=
  ⟨Nat.le_of_ble_eq_true rfl, ⟨fun h => absurd rfl h, fun h => Bool.noConfusion h⟩, Nat.le_of_ble_eq_true rfl, Nat.le_of_ble_eq_true rfl⟩
theorem joinerReply (die : Nat) : Statement (Sys2Proof.Instr.joinerReply die) :=
  ⟨Nat.le_of_ble_eq_true rfl, ⟨fun h => absurd rfl h, fun h => Bool.noConfusion h⟩, Nat.le_of_ble_eq_true rfl, Nat.le_of_ble_eq_true rfl⟩
theorem pullRequest (n : Nat) : Statement (Sys2Proof.Instr.pullRequest n) :=
  ⟨Nat.le_of_ble_eq_true rfl, ⟨fun h => absurd rfl h, fun h => Bool.noConfusion h⟩, Nat.le_of_ble_eq_true rfl, Nat.le_of_ble_eq_true rfl⟩
theorem pullCompletion (n : Nat) : Statement (Sys2Proof.Instr.pullCompletion n) :=
  ⟨Nat.le_of_ble_eq_true rfl, ⟨fun h => absurd rfl h, fun h => Bool.noConfusion h⟩, Nat.le_of_ble_eq_true rfl, Nat.le_of_ble_eq_true rfl⟩
theorem pullReleaseNotice (n : Nat) : Statement (Sys2Proof.Instr.pullReleaseNotice n) :=
  ⟨Nat.le_of_ble_eq_true rfl, ⟨fun h => absurd rfl h, fun h => Bool.noConfusion h⟩, Nat.le_of_ble_eq_true rfl, Nat.le_of_ble_eq_true rfl⟩
theorem homeNiAccess (n : Nat) : Statement (Sys2Proof.Instr.homeNiAccess n) :=
  ⟨Nat.le_of_ble_eq_true rfl, ⟨fun h => absurd rfl h, fun h => Bool.noConfusion h⟩, Nat.le_of_ble_eq_true rfl, Nat.le_of_ble_eq_true rfl⟩
theorem remoteReply (n : Nat) : Statement (Sys2Proof.Instr.remoteReply n) :=
  ⟨Nat.le_of_ble_eq_true rfl, ⟨fun h => absurd rfl h, fun h => Bool.noConfusion h⟩, Nat.le_of_ble_eq_true rfl, Nat.le_of_ble_eq_true rfl⟩
theorem storeAcknowledge (n : Nat) : Statement (Sys2Proof.Instr.storeAcknowledge n) :=
  ⟨Nat.le_of_ble_eq_true rfl, ⟨fun h => absurd rfl h, fun h => Bool.noConfusion h⟩, Nat.le_of_ble_eq_true rfl, Nat.le_of_ble_eq_true rfl⟩
theorem entryPortRequest (n : Nat) : Statement (Sys2Proof.Instr.entryPortRequest n) :=
  ⟨Nat.le_of_ble_eq_true rfl, ⟨fun h => absurd rfl h, fun h => Bool.noConfusion h⟩, Nat.le_of_ble_eq_true rfl, Nat.le_of_ble_eq_true rfl⟩
theorem faultRecordWrite (n : Nat) : Statement (Sys2Proof.Instr.faultRecordWrite n) :=
  ⟨Nat.le_of_ble_eq_true rfl, ⟨fun h => absurd rfl h, fun h => Bool.noConfusion h⟩, Nat.le_of_ble_eq_true rfl, Nat.le_of_ble_eq_true rfl⟩
theorem faultFlush : Statement (Sys2Proof.Instr.faultFlush) :=
  ⟨Nat.le_of_ble_eq_true rfl, ⟨fun h => absurd rfl h, fun h => Bool.noConfusion h⟩, Nat.le_of_ble_eq_true rfl, Nat.le_of_ble_eq_true rfl⟩
theorem faultDismiss (n : Nat) : Statement (Sys2Proof.Instr.faultDismiss n) :=
  ⟨Nat.le_of_ble_eq_true rfl, ⟨fun h => absurd rfl h, fun h => Bool.noConfusion h⟩, Nat.le_of_ble_eq_true rfl, Nat.le_of_ble_eq_true rfl⟩
theorem homePortAccess (n : Nat) : Statement (Sys2Proof.Instr.homePortAccess n) :=
  ⟨Nat.le_of_ble_eq_true rfl, ⟨fun h => absurd rfl h, fun h => Bool.noConfusion h⟩, Nat.le_of_ble_eq_true rfl, Nat.le_of_ble_eq_true rfl⟩
theorem replicaWrite (n : Nat) (copy : Nat) : Statement (Sys2Proof.Instr.replicaWrite n copy) :=
  ⟨Nat.le_of_ble_eq_true rfl, ⟨fun h => absurd rfl h, fun h => Bool.noConfusion h⟩, Nat.le_of_ble_eq_true rfl, Nat.le_of_ble_eq_true rfl⟩
theorem invalidation (lo : BitVec 72) (hi : BitVec 72) : Statement (Sys2Proof.Instr.invalidation lo hi) :=
  ⟨Nat.le_of_ble_eq_true rfl, ⟨fun h => absurd rfl h, fun h => Bool.noConfusion h⟩, Nat.le_of_ble_eq_true rfl, Nat.le_of_ble_eq_true rfl⟩
theorem invalidationAcknowledge (n : Nat) : Statement (Sys2Proof.Instr.invalidationAcknowledge n) :=
  ⟨Nat.le_of_ble_eq_true rfl, ⟨fun h => absurd rfl h, fun h => Bool.noConfusion h⟩, Nat.le_of_ble_eq_true rfl, Nat.le_of_ble_eq_true rfl⟩
theorem generationSweep (t : Nat) : Statement (Sys2Proof.Instr.generationSweep t) :=
  ⟨Nat.le_of_ble_eq_true rfl, ⟨fun h => absurd rfl h, fun h => Bool.noConfusion h⟩, Nat.le_of_ble_eq_true rfl, Nat.le_of_ble_eq_true rfl⟩
theorem scratchpadWriteback (t : Nat) : Statement (Sys2Proof.Instr.scratchpadWriteback t) :=
  ⟨Nat.le_of_ble_eq_true rfl, ⟨fun h => absurd rfl h, fun h => Bool.noConfusion h⟩, Nat.le_of_ble_eq_true rfl, Nat.le_of_ble_eq_true rfl⟩
theorem barrierCompletion (n : Nat) : Statement (Sys2Proof.Instr.barrierCompletion n) :=
  ⟨Nat.le_of_ble_eq_true rfl, ⟨fun h => absurd rfl h, fun h => Bool.noConfusion h⟩, Nat.le_of_ble_eq_true rfl, Nat.le_of_ble_eq_true rfl⟩
theorem barrierTimeout (t : Nat) (k : Nat) : Statement (Sys2Proof.Instr.barrierTimeout t k) :=
  ⟨Nat.le_of_ble_eq_true rfl, ⟨fun h => absurd rfl h, fun h => Bool.noConfusion h⟩, Nat.le_of_ble_eq_true rfl, Nat.le_of_ble_eq_true rfl⟩
theorem alignRelease (t : Nat) (k : Nat) : Statement (Sys2Proof.Instr.alignRelease t k) :=
  ⟨Nat.le_of_ble_eq_true rfl, ⟨fun h => absurd rfl h, fun h => Bool.noConfusion h⟩, Nat.le_of_ble_eq_true rfl, Nat.le_of_ble_eq_true rfl⟩
theorem alignTimeout (t : Nat) (k : Nat) : Statement (Sys2Proof.Instr.alignTimeout t k) :=
  ⟨Nat.le_of_ble_eq_true rfl, ⟨fun h => absurd rfl h, fun h => Bool.noConfusion h⟩, Nat.le_of_ble_eq_true rfl, Nat.le_of_ble_eq_true rfl⟩
theorem stookWindowEnd (bay : Nat) (stook : Nat) : Statement (Sys2Proof.Instr.stookWindowEnd bay stook) :=
  ⟨Nat.le_of_ble_eq_true rfl, ⟨fun h => absurd rfl h, fun h => Bool.noConfusion h⟩, Nat.le_of_ble_eq_true rfl, Nat.le_of_ble_eq_true rfl⟩
theorem stookFillerStep (t : Nat) : Statement (Sys2Proof.Instr.stookFillerStep t) :=
  ⟨Nat.le_of_ble_eq_true rfl, ⟨fun h => absurd rfl h, fun h => Bool.noConfusion h⟩, Nat.le_of_ble_eq_true rfl, Nat.le_of_ble_eq_true rfl⟩
theorem stookThrottle (t : Nat) : Statement (Sys2Proof.Instr.stookThrottle t) :=
  ⟨Nat.le_of_ble_eq_true rfl, ⟨fun h => absurd rfl h, fun h => Bool.noConfusion h⟩, Nat.le_of_ble_eq_true rfl, Nat.le_of_ble_eq_true rfl⟩
theorem permitRefill (t : Nat) : Statement (Sys2Proof.Instr.permitRefill t) :=
  ⟨Nat.le_of_ble_eq_true rfl, ⟨fun h => absurd rfl h, fun h => Bool.noConfusion h⟩, Nat.le_of_ble_eq_true rfl, Nat.le_of_ble_eq_true rfl⟩
theorem powerControl (die : Nat) : Statement (Sys2Proof.Instr.powerControl die) :=
  ⟨Nat.le_of_ble_eq_true rfl, ⟨fun h => absurd rfl h, fun h => Bool.noConfusion h⟩, Nat.le_of_ble_eq_true rfl, Nat.le_of_ble_eq_true rfl⟩
theorem planeCommandStart (t : Nat) : Statement (Sys2Proof.Instr.planeCommandStart t) :=
  ⟨Nat.le_of_ble_eq_true rfl, ⟨fun h => absurd rfl h, fun h => Bool.noConfusion h⟩, Nat.le_of_ble_eq_true rfl, Nat.le_of_ble_eq_true rfl⟩
theorem pdotAddition (t : Nat) : Statement (Sys2Proof.Instr.pdotAddition t) :=
  ⟨Nat.le_of_ble_eq_true rfl, ⟨fun h => absurd rfl h, fun h => Bool.noConfusion h⟩, Nat.le_of_ble_eq_true rfl, Nat.le_of_ble_eq_true rfl⟩
theorem packWrite (t : Nat) : Statement (Sys2Proof.Instr.packWrite t) :=
  ⟨Nat.le_of_ble_eq_true rfl, ⟨fun h => absurd rfl h, fun h => Bool.noConfusion h⟩, Nat.le_of_ble_eq_true rfl, Nat.le_of_ble_eq_true rfl⟩
theorem copyStart (bay : Nat) : Statement (Sys2Proof.Instr.copyStart bay) :=
  ⟨Nat.le_of_ble_eq_true rfl, ⟨fun h => absurd rfl h, fun h => Bool.noConfusion h⟩, Nat.le_of_ble_eq_true rfl, Nat.le_of_ble_eq_true rfl⟩
theorem copyCompletion (t : Nat) : Statement (Sys2Proof.Instr.copyCompletion t) :=
  ⟨Nat.le_of_ble_eq_true rfl, ⟨fun h => absurd rfl h, fun h => Bool.noConfusion h⟩, Nat.le_of_ble_eq_true rfl, Nat.le_of_ble_eq_true rfl⟩
theorem granaryLoad (n : Nat) : Statement (Sys2Proof.Instr.granaryLoad n) :=
  ⟨Nat.le_of_ble_eq_true rfl, ⟨fun h => absurd rfl h, fun h => Bool.noConfusion h⟩, Nat.le_of_ble_eq_true rfl, Nat.le_of_ble_eq_true rfl⟩
theorem granaryCompute (n : Nat) : Statement (Sys2Proof.Instr.granaryCompute n) :=
  ⟨Nat.le_of_ble_eq_true rfl, ⟨fun h => absurd rfl h, fun h => Bool.noConfusion h⟩, Nat.le_of_ble_eq_true rfl, Nat.le_of_ble_eq_true rfl⟩
theorem combineForward (n : Nat) : Statement (Sys2Proof.Instr.combineForward n) :=
  ⟨Nat.le_of_ble_eq_true rfl, ⟨fun h => absurd rfl h, fun h => Bool.noConfusion h⟩, Nat.le_of_ble_eq_true rfl, Nat.le_of_ble_eq_true rfl⟩
theorem collectiveResult (t : Nat) (k : Nat) : Statement (Sys2Proof.Instr.collectiveResult t k) :=
  ⟨Nat.le_of_ble_eq_true rfl, ⟨fun h => absurd rfl h, fun h => Bool.noConfusion h⟩, Nat.le_of_ble_eq_true rfl, Nat.le_of_ble_eq_true rfl⟩
theorem submission (src : SubSource) : Statement (Sys2Proof.Instr.submission src) :=
  ⟨Nat.le_of_ble_eq_true rfl, ⟨fun h => absurd rfl h, fun h => Bool.noConfusion h⟩, Nat.le_of_ble_eq_true rfl, Nat.le_of_ble_eq_true rfl⟩
theorem launchSubmissionRecord (n : Nat) : Statement (Sys2Proof.Instr.launchSubmissionRecord n) :=
  ⟨Nat.le_of_ble_eq_true rfl, ⟨fun h => absurd rfl h, fun h => Bool.noConfusion h⟩, Nat.le_of_ble_eq_true rfl, Nat.le_of_ble_eq_true rfl⟩
theorem queueDispatch (q : Nat) : Statement (Sys2Proof.Instr.queueDispatch q) :=
  ⟨Nat.le_of_ble_eq_true rfl, ⟨fun h => absurd rfl h, fun h => Bool.noConfusion h⟩, Nat.le_of_ble_eq_true rfl, Nat.le_of_ble_eq_true rfl⟩
theorem signalRead (lid : Nat) : Statement (Sys2Proof.Instr.signalRead lid) :=
  ⟨Nat.le_of_ble_eq_true rfl, ⟨fun h => absurd rfl h, fun h => Bool.noConfusion h⟩, Nat.le_of_ble_eq_true rfl, Nat.le_of_ble_eq_true rfl⟩
theorem sliceBoundary : Statement (Sys2Proof.Instr.sliceBoundary) :=
  ⟨Nat.le_of_ble_eq_true rfl, ⟨fun h => absurd rfl h, fun h => Bool.noConfusion h⟩, Nat.le_of_ble_eq_true rfl, Nat.le_of_ble_eq_true rfl⟩
theorem placement (lid : Nat) : Statement (Sys2Proof.Instr.placement lid) :=
  ⟨Nat.le_of_ble_eq_true rfl, ⟨fun h => absurd rfl h, fun h => Bool.noConfusion h⟩, Nat.le_of_ble_eq_true rfl, Nat.le_of_ble_eq_true rfl⟩
theorem launchRelease (lid : Nat) (t : Nat) : Statement (Sys2Proof.Instr.launchRelease lid t) :=
  ⟨Nat.le_of_ble_eq_true rfl, ⟨fun h => absurd rfl h, fun h => Bool.noConfusion h⟩, Nat.le_of_ble_eq_true rfl, Nat.le_of_ble_eq_true rfl⟩
theorem launchCompletion (lid : Nat) : Statement (Sys2Proof.Instr.launchCompletion lid) :=
  ⟨Nat.le_of_ble_eq_true rfl, ⟨fun h => absurd rfl h, fun h => Bool.noConfusion h⟩, Nat.le_of_ble_eq_true rfl, Nat.le_of_ble_eq_true rfl⟩
theorem launchAbort (lid : Nat) : Statement (Sys2Proof.Instr.launchAbort lid) :=
  ⟨Nat.le_of_ble_eq_true rfl, ⟨fun h => absurd rfl h, fun h => Bool.noConfusion h⟩, Nat.le_of_ble_eq_true rfl, Nat.le_of_ble_eq_true rfl⟩
theorem budgetExhaustion (tenant : Nat) : Statement (Sys2Proof.Instr.budgetExhaustion tenant) :=
  ⟨Nat.le_of_ble_eq_true rfl, ⟨fun h => absurd rfl h, fun h => Bool.noConfusion h⟩, Nat.le_of_ble_eq_true rfl, Nat.le_of_ble_eq_true rfl⟩
theorem tileSave (t : Nat) : Statement (Sys2Proof.Instr.tileSave t) :=
  ⟨Nat.le_of_ble_eq_true rfl, ⟨fun h => absurd rfl h, fun h => Bool.noConfusion h⟩, Nat.le_of_ble_eq_true rfl, Nat.le_of_ble_eq_true rfl⟩
theorem saveComplete (lid : Nat) : Statement (Sys2Proof.Instr.saveComplete lid) :=
  ⟨Nat.le_of_ble_eq_true rfl, ⟨fun h => absurd rfl h, fun h => Bool.noConfusion h⟩, Nat.le_of_ble_eq_true rfl, Nat.le_of_ble_eq_true rfl⟩
theorem resumption (lid : Nat) : Statement (Sys2Proof.Instr.resumption lid) :=
  ⟨Nat.le_of_ble_eq_true rfl, ⟨fun h => absurd rfl h, fun h => Bool.noConfusion h⟩, Nat.le_of_ble_eq_true rfl, Nat.le_of_ble_eq_true rfl⟩
theorem meterFlush (t : Nat) : Statement (Sys2Proof.Instr.meterFlush t) :=
  ⟨Nat.le_of_ble_eq_true rfl, ⟨fun h => absurd rfl h, fun h => Bool.noConfusion h⟩, Nat.le_of_ble_eq_true rfl, Nat.le_of_ble_eq_true rfl⟩
theorem meteringSnapshot (tenant : Nat) (nonce : BitVec 256) : Statement (Sys2Proof.Instr.meteringSnapshot tenant nonce) :=
  ⟨Nat.le_of_ble_eq_true rfl, ⟨fun h => absurd rfl h, fun h => Bool.noConfusion h⟩, Nat.le_of_ble_eq_true rfl, Nat.le_of_ble_eq_true rfl⟩
theorem metrSample (n : Nat) : Statement (Sys2Proof.Instr.metrSample n) :=
  ⟨Nat.le_of_ble_eq_true rfl, ⟨fun h => absurd rfl h, fun h => Bool.noConfusion h⟩, Nat.le_of_ble_eq_true rfl, Nat.le_of_ble_eq_true rfl⟩
theorem rqhWrite (t : Nat) (k : Nat) (q : Nat) (v : BitVec 64) : Statement (Sys2Proof.Instr.rqhWrite t k q v) :=
  ⟨Nat.le_of_ble_eq_true rfl, ⟨fun h => absurd rfl h, fun h => Bool.noConfusion h⟩, Nat.le_of_ble_eq_true rfl, Nat.le_of_ble_eq_true rfl⟩
theorem tmsgDrop (t : Nat) (k : Nat) : Statement (Sys2Proof.Instr.tmsgDrop t k) :=
  ⟨Nat.le_of_ble_eq_true rfl, ⟨fun h => absurd rfl h, fun h => Bool.noConfusion h⟩, Nat.le_of_ble_eq_true rfl, Nat.le_of_ble_eq_true rfl⟩
theorem tmsgRetry (t : Nat) (k : Nat) : Statement (Sys2Proof.Instr.tmsgRetry t k) :=
  ⟨Nat.le_of_ble_eq_true rfl, ⟨fun h => absurd rfl h, fun h => Bool.noConfusion h⟩, Nat.le_of_ble_eq_true rfl, Nat.le_of_ble_eq_true rfl⟩
theorem oinfoFree (t : Nat) (ix : Nat) : Statement (Sys2Proof.Instr.oinfoFree t ix) :=
  ⟨Nat.le_of_ble_eq_true rfl, ⟨fun h => absurd rfl h, fun h => Bool.noConfusion h⟩, Nat.le_of_ble_eq_true rfl, Nat.le_of_ble_eq_true rfl⟩
theorem oinfoRedo (t : Nat) (ix : Nat) : Statement (Sys2Proof.Instr.oinfoRedo t ix) :=
  ⟨Nat.le_of_ble_eq_true rfl, ⟨fun h => absurd rfl h, fun h => Bool.noConfusion h⟩, Nat.le_of_ble_eq_true rfl, Nat.le_of_ble_eq_true rfl⟩
theorem oovfClear (t : Nat) (v : BitVec 64) : Statement (Sys2Proof.Instr.oovfClear t v) :=
  ⟨Nat.le_of_ble_eq_true rfl, ⟨fun h => absurd rfl h, fun h => Bool.noConfusion h⟩, Nat.le_of_ble_eq_true rfl, Nat.le_of_ble_eq_true rfl⟩
theorem bayrateWrite (die : Nat) (bay : Nat) (v : BitVec 64) : Statement (Sys2Proof.Instr.bayrateWrite die bay v) :=
  ⟨Nat.le_of_ble_eq_true rfl, ⟨fun h => absurd rfl h, fun h => Bool.noConfusion h⟩, Nat.le_of_ble_eq_true rfl, Nat.le_of_ble_eq_true rfl⟩
theorem rankEntryWrite (t : Nat) (r : Nat) (v : BitVec 64) : Statement (Sys2Proof.Instr.rankEntryWrite t r v) :=
  ⟨Nat.le_of_ble_eq_true rfl, ⟨fun h => absurd rfl h, fun h => Bool.noConfusion h⟩, Nat.le_of_ble_eq_true rfl, Nat.le_of_ble_eq_true rfl⟩
theorem serviceSlotWrite (stack : Nat) (ix : Nat) (v : BitVec 64) : Statement (Sys2Proof.Instr.serviceSlotWrite stack ix v) :=
  ⟨Nat.le_of_ble_eq_true rfl, ⟨fun h => absurd rfl h, fun h => Bool.noConfusion h⟩, Nat.le_of_ble_eq_true rfl, Nat.le_of_ble_eq_true rfl⟩
theorem debugDataRead (t : Nat) (off : Nat) : Statement (Sys2Proof.Instr.debugDataRead t off) :=
  ⟨Nat.le_of_ble_eq_true rfl, ⟨fun h => absurd rfl h, fun h => Bool.noConfusion h⟩, Nat.le_of_ble_eq_true rfl, Nat.le_of_ble_eq_true rfl⟩
theorem debugDataWrite (t : Nat) (off : Nat) (v : BitVec 64) : Statement (Sys2Proof.Instr.debugDataWrite t off v) :=
  ⟨Nat.le_of_ble_eq_true rfl, ⟨fun h => absurd rfl h, fun h => Bool.noConfusion h⟩, Nat.le_of_ble_eq_true rfl, Nat.le_of_ble_eq_true rfl⟩
theorem debugTagRead (t : Nat) (off : Nat) : Statement (Sys2Proof.Instr.debugTagRead t off) :=
  ⟨Nat.le_of_ble_eq_true rfl, ⟨fun h => absurd rfl h, fun h => Bool.noConfusion h⟩, Nat.le_of_ble_eq_true rfl, Nat.le_of_ble_eq_true rfl⟩
theorem debugTagWrite (t : Nat) (off : Nat) (v : BitVec 64) : Statement (Sys2Proof.Instr.debugTagWrite t off v) :=
  ⟨Nat.le_of_ble_eq_true rfl, ⟨fun h => absurd rfl h, fun h => Bool.noConfusion h⟩, Nat.le_of_ble_eq_true rfl, Nat.le_of_ble_eq_true rfl⟩
theorem contextWindowAccess (t : Nat) (k : Nat) (off : Nat) (v : Option (BitVec 64)) : Statement (Sys2Proof.Instr.contextWindowAccess t k off v) :=
  ⟨Nat.le_of_ble_eq_true rfl, ⟨fun h => absurd rfl h, fun h => Bool.noConfusion h⟩, Nat.le_of_ble_eq_true rfl, Nat.le_of_ble_eq_true rfl⟩
theorem loftWindowWrite (bay : Nat) (word : Nat) (v : BitVec 32) : Statement (Sys2Proof.Instr.loftWindowWrite bay word v) :=
  ⟨Nat.le_of_ble_eq_true rfl, ⟨fun h => absurd rfl h, fun h => Bool.noConfusion h⟩, Nat.le_of_ble_eq_true rfl, Nat.le_of_ble_eq_true rfl⟩
theorem fleetListWrite (tenant : Nat) (mods : List Nat) : Statement (Sys2Proof.Instr.fleetListWrite tenant mods) :=
  ⟨Nat.le_of_ble_eq_true rfl, ⟨fun h => absurd rfl h, fun h => Bool.noConfusion h⟩, Nat.le_of_ble_eq_true rfl, Nat.le_of_ble_eq_true rfl⟩
theorem measExtend (ix : Nat) (m : BitVec 256) : Statement (Sys2Proof.Instr.measExtend ix m) :=
  ⟨Nat.le_of_ble_eq_true rfl, ⟨fun h => absurd rfl h, fun h => Bool.noConfusion h⟩, Nat.le_of_ble_eq_true rfl, Nat.le_of_ble_eq_true rfl⟩
theorem binGrant (g : Nat) (bin : Nat) (tenant : Nat) : Statement (Sys2Proof.Instr.binGrant g bin tenant) :=
  ⟨Nat.le_of_ble_eq_true rfl, ⟨fun h => absurd rfl h, fun h => Bool.noConfusion h⟩, Nat.le_of_ble_eq_true rfl, Nat.le_of_ble_eq_true rfl⟩
theorem binGenerationAdvance (g : Nat) (tenant : Nat) : Statement (Sys2Proof.Instr.binGenerationAdvance g tenant) :=
  ⟨Nat.le_of_ble_eq_true rfl, ⟨fun h => absurd rfl h, fun h => Bool.noConfusion h⟩, Nat.le_of_ble_eq_true rfl, Nat.le_of_ble_eq_true rfl⟩
theorem registerWrite (r : DevReg) (v : BitVec 64) : Statement (Sys2Proof.Instr.registerWrite r v) :=
  ⟨Nat.le_of_ble_eq_true rfl, ⟨fun h => absurd rfl h, fun h => Bool.noConfusion h⟩, Nat.le_of_ble_eq_true rfl, Nat.le_of_ble_eq_true rfl⟩
theorem bulkWindowAccess (vf : Nat) (off : Nat) (n : Nat) (v : Option (List Byte)) : Statement (Sys2Proof.Instr.bulkWindowAccess vf off n v) :=
  ⟨Nat.le_of_ble_eq_true rfl, ⟨fun h => absurd rfl h, fun h => Bool.noConfusion h⟩, Nat.le_of_ble_eq_true rfl, Nat.le_of_ble_eq_true rfl⟩
theorem hubReset : Statement (Sys2Proof.Instr.hubReset) :=
  ⟨Nat.le_of_ble_eq_true rfl, ⟨fun h => absurd rfl h, fun h => Bool.noConfusion h⟩, Nat.le_of_ble_eq_true rfl, Nat.le_of_ble_eq_true rfl⟩
theorem dieReset (die : Nat) : Statement (Sys2Proof.Instr.dieReset die) :=
  ⟨Nat.le_of_ble_eq_true rfl, ⟨fun h => absurd rfl h, fun h => Bool.noConfusion h⟩, Nat.le_of_ble_eq_true rfl, Nat.le_of_ble_eq_true rfl⟩
theorem partitionReset (tenant : Nat) : Statement (Sys2Proof.Instr.partitionReset tenant) :=
  ⟨Nat.le_of_ble_eq_true rfl, ⟨fun h => absurd rfl h, fun h => Bool.noConfusion h⟩, Nat.le_of_ble_eq_true rfl, Nat.le_of_ble_eq_true rfl⟩
theorem functionLevelReset (vf : Nat) : Statement (Sys2Proof.Instr.functionLevelReset vf) :=
  ⟨Nat.le_of_ble_eq_true rfl, ⟨fun h => absurd rfl h, fun h => Bool.noConfusion h⟩, Nat.le_of_ble_eq_true rfl, Nat.le_of_ble_eq_true rfl⟩
theorem targetLoss (x : LostTarget) : Statement (Sys2Proof.Instr.targetLoss x) :=
  ⟨Nat.le_of_ble_eq_true rfl, ⟨fun h => absurd rfl h, fun h => Bool.noConfusion h⟩, Nat.le_of_ble_eq_true rfl, Nat.le_of_ble_eq_true rfl⟩
theorem crossingCalibration (die : Nat) (edge : Nat) (ok : Bool) : Statement (Sys2Proof.Instr.crossingCalibration die edge ok) :=
  ⟨Nat.le_of_ble_eq_true rfl, ⟨fun h => absurd rfl h, fun h => Bool.noConfusion h⟩, Nat.le_of_ble_eq_true rfl, Nat.le_of_ble_eq_true rfl⟩
theorem splineExchange (p : Nat) (t1 : Nat) (t2 : Nat) (t3 : Nat) (t4 : Nat) (offset : BitVec 6) : Statement (Sys2Proof.Instr.splineExchange p t1 t2 t3 t4 offset) :=
  ⟨Nat.le_of_ble_eq_true rfl, ⟨fun h => absurd rfl h, fun h => Bool.noConfusion h⟩, Nat.le_of_ble_eq_true rfl, Nat.le_of_ble_eq_true rfl⟩
theorem bayRetirement (bay : Nat) : Statement (Sys2Proof.Instr.bayRetirement bay) :=
  ⟨Nat.le_of_ble_eq_true rfl, ⟨fun h => absurd rfl h, fun h => Bool.noConfusion h⟩, Nat.le_of_ble_eq_true rfl, Nat.le_of_ble_eq_true rfl⟩
theorem rdmaPacket (p : RdmaIn) : Statement (Sys2Proof.Instr.rdmaPacket p) :=
  ⟨Nat.le_of_ble_eq_true rfl, ⟨fun h => absurd rfl h, fun h => Bool.noConfusion h⟩, Nat.le_of_ble_eq_true rfl, Nat.le_of_ble_eq_true rfl⟩
theorem rdmaFlagWrite (n : Nat) : Statement (Sys2Proof.Instr.rdmaFlagWrite n) :=
  ⟨Nat.le_of_ble_eq_true rfl, ⟨fun h => absurd rfl h, fun h => Bool.noConfusion h⟩, Nat.le_of_ble_eq_true rfl, Nat.le_of_ble_eq_true rfl⟩
theorem connectionMiss (n : Nat) : Statement (Sys2Proof.Instr.connectionMiss n) :=
  ⟨Nat.le_of_ble_eq_true rfl, ⟨fun h => absurd rfl h, fun h => Bool.noConfusion h⟩, Nat.le_of_ble_eq_true rfl, Nat.le_of_ble_eq_true rfl⟩
theorem getVersion : Statement (Sys2Proof.Instr.getVersion) :=
  ⟨Nat.le_of_ble_eq_true rfl, ⟨fun h => absurd rfl h, fun h => Bool.noConfusion h⟩, Nat.le_of_ble_eq_true rfl, Nat.le_of_ble_eq_true rfl⟩
theorem getCapabilities : Statement (Sys2Proof.Instr.getCapabilities) :=
  ⟨Nat.le_of_ble_eq_true rfl, ⟨fun h => absurd rfl h, fun h => Bool.noConfusion h⟩, Nat.le_of_ble_eq_true rfl, Nat.le_of_ble_eq_true rfl⟩
theorem negotiateAlgorithms : Statement (Sys2Proof.Instr.negotiateAlgorithms) :=
  ⟨Nat.le_of_ble_eq_true rfl, ⟨fun h => absurd rfl h, fun h => Bool.noConfusion h⟩, Nat.le_of_ble_eq_true rfl, Nat.le_of_ble_eq_true rfl⟩
theorem getDigests : Statement (Sys2Proof.Instr.getDigests) :=
  ⟨Nat.le_of_ble_eq_true rfl, ⟨fun h => absurd rfl h, fun h => Bool.noConfusion h⟩, Nat.le_of_ble_eq_true rfl, Nat.le_of_ble_eq_true rfl⟩
theorem getCertificate (ix : Nat) : Statement (Sys2Proof.Instr.getCertificate ix) :=
  ⟨Nat.le_of_ble_eq_true rfl, ⟨fun h => absurd rfl h, fun h => Bool.noConfusion h⟩, Nat.le_of_ble_eq_true rfl, Nat.le_of_ble_eq_true rfl⟩
theorem challenge (c : Challenge) : Statement (Sys2Proof.Instr.challenge c) :=
  ⟨Nat.le_of_ble_eq_true rfl, ⟨fun h => absurd rfl h, fun h => Bool.noConfusion h⟩, Nat.le_of_ble_eq_true rfl, Nat.le_of_ble_eq_true rfl⟩
theorem getMeasurements (ix : Nat) : Statement (Sys2Proof.Instr.getMeasurements ix) :=
  ⟨Nat.le_of_ble_eq_true rfl, ⟨fun h => absurd rfl h, fun h => Bool.noConfusion h⟩, Nat.le_of_ble_eq_true rfl, Nat.le_of_ble_eq_true rfl⟩
theorem spdmUnsupported (code : Nat) : Statement (Sys2Proof.Instr.spdmUnsupported code) :=
  ⟨Nat.le_of_ble_eq_true rfl, ⟨fun h => absurd rfl h, fun h => Bool.noConfusion h⟩, Nat.le_of_ble_eq_true rfl, Nat.le_of_ble_eq_true rfl⟩
theorem loftLineFetch (bay : Nat) (line : Nat) : Statement (Sys2Proof.Instr.loftLineFetch bay line) :=
  ⟨Nat.le_of_ble_eq_true rfl, ⟨fun h => absurd rfl h, fun h => Bool.noConfusion h⟩, Nat.le_of_ble_eq_true rfl, Nat.le_of_ble_eq_true rfl⟩
theorem pcieCompletion (n : Nat) (ok : Bool) (bytes : List Byte) : Statement (Sys2Proof.Instr.pcieCompletion n ok bytes) :=
  ⟨Nat.le_of_ble_eq_true rfl, ⟨fun h => absurd rfl h, fun h => Bool.noConfusion h⟩, Nat.le_of_ble_eq_true rfl, Nat.le_of_ble_eq_true rfl⟩
theorem tenantDeletion (tenant : Nat) : Statement (Sys2Proof.Instr.tenantDeletion tenant) :=
  ⟨Nat.le_of_ble_eq_true rfl, ⟨fun h => absurd rfl h, fun h => Bool.noConfusion h⟩, Nat.le_of_ble_eq_true rfl, Nat.le_of_ble_eq_true rfl⟩

end Sys2Proof.Laws.Words
end

