-- ==== Sys2Proof/Laws/Step.lean ====
section
/-! SUPPORT. The meaning that a tile cycle runs is the one that the opcode table's arm calls. -/

set_option Elab.async false

namespace Sys2Proof.Machine

/-- Of an instruction that has an encoding, the issue step runs what `exec` says. -/
theorem execWord_eq_exec (i : Instr) (s : State) (h : isEvent i = false) : execWord i s = exec i s := by
  cases i <;> first | rfl | (exfalso; simp [isEvent, encode] at h)

end Sys2Proof.Machine
end

