-- ==== Sys2Proof/Tests/Slice0.lean ====
section
/-! SUPPORT. The model's own tests, each about one step: the word of every encoded instruction, written out from Tables 4.1
and 4.5; an ill-formed term for each check of `Instr.wf`; and for the statements, states and operands that meet their
hypotheses, with the result that the spec gives where it is a value. The expected values come from the spec's tables and worked
examples, or from hand calculation. -/

set_option Elab.async false
set_option maxRecDepth 4000

namespace Sys2Proof.Tests
open Sys2Proof Sys2Proof.Machine Sys2Proof.Claims

/-! ### Words (Tables 4.1, 4.5, 4.7) -/

theorem test_decode_ialu :
    decodeWord 0x08000800 = some (.add ⟨0, false, 0, 0, 0, 0x800⟩) ∧
    decodeWord 0x084D0801 = some (.sub ⟨1, true, 1, 0, 0, 0x801⟩) ∧
    decodeWord 0x08924802 = some (.adc ⟨2, false, 2, 1, 0, 0x802⟩) ∧
    decodeWord 0x08DF4803 = some (.sbc ⟨3, true, 3, 1, 0, 0x803⟩) ∧
    decodeWord 0x09208804 = some (.and ⟨4, false, 0, 2, 0, 0x804⟩) ∧
    decodeWord 0x096D8805 = some (.or ⟨5, true, 1, 2, 0, 0x805⟩) ∧
    decodeWord 0x09B2C806 = some (.xor ⟨6, false, 2, 3, 0, 0x806⟩) ∧
    decodeWord 0x09FFC807 = some (.andn ⟨7, true, 3, 3, 0, 0x807⟩) ∧
    decodeWord 0x0A000808 = some (.min ⟨0, false, 0, 0, 0, 0x808⟩) ∧
    decodeWord 0x0A4D0809 = some (.max ⟨1, true, 1, 0, 0, 0x809⟩) ∧
    decodeWord 0x0A92480A = some (.minu ⟨2, false, 2, 1, 0, 0x80A⟩) ∧
    decodeWord 0x0ADF480B = some (.maxu ⟨3, true, 3, 1, 0, 0x80B⟩) ∧
    decodeWord 0x0B20880C = some (.mul ⟨4, false, 0, 2, 0, 0x80C⟩) ∧
    decodeWord 0x0B6D880D = some (.mulh ⟨5, true, 1, 2, 0, 0x80D⟩) ∧
    decodeWord 0x0BB2C80E = some (.mulhu ⟨6, false, 2, 3, 0, 0x80E⟩) ∧
    decodeWord 0x0BFFC80F = some (.cmp ⟨7, true, 3, 3, 0, 0x80F⟩) ∧
    decodeWord 0x08185000 = some (.add ⟨3, false, 0, 1, 1, 0x000⟩) ∧
    decodeWord 0x0BCBE000 = some (.cmp ⟨1, false, 3, 3, 2, 0x000⟩) := by decide +kernel

theorem test_decode_ialui :
    decodeWord 0x0C008001 = some (.addImm ⟨0, 0, 0x8001⟩) ∧
    decodeWord 0x0C518002 = some (.subImm ⟨1, 1, 0x8002⟩) ∧
    decodeWord 0x0CA08003 = some (.adcImm ⟨2, 0, 0x8003⟩) ∧
    decodeWord 0x0CF18004 = some (.sbcImm ⟨3, 1, 0x8004⟩) ∧
    decodeWord 0x0D008005 = some (.andImm ⟨0, 0, 0x8005⟩) ∧
    decodeWord 0x0D518006 = some (.orImm ⟨1, 1, 0x8006⟩) ∧
    decodeWord 0x0DA08007 = some (.xorImm ⟨2, 0, 0x8007⟩) ∧
    decodeWord 0x0DF18008 = some (.andnImm ⟨3, 1, 0x8008⟩) ∧
    decodeWord 0x0E008009 = some (.minImm ⟨0, 0, 0x8009⟩) ∧
    decodeWord 0x0E51800A = some (.maxImm ⟨1, 1, 0x800A⟩) ∧
    decodeWord 0x0EA0800B = some (.minuImm ⟨2, 0, 0x800B⟩) ∧
    decodeWord 0x0EF1800C = some (.maxuImm ⟨3, 1, 0x800C⟩) ∧
    decodeWord 0x0F00800D = some (.mulImm ⟨0, 0, 0x800D⟩) ∧
    decodeWord 0x0F51800E = some (.mulhImm ⟨1, 1, 0x800E⟩) ∧
    decodeWord 0x0FA0800F = some (.mulhuImm ⟨2, 0, 0x800F⟩) ∧
    decodeWord 0x0FF18010 = some (.cmpImm ⟨3, 1, 0x8010⟩) := by decide +kernel

theorem test_decode_idiv :
    decodeWord 0x102D0123 = some (.div ⟨5, true, 1, 0, 0, 0x123⟩) ∧
    decodeWord 0x106D4123 = some (.divu ⟨5, true, 1, 1, 0, 0x123⟩) ∧
    decodeWord 0x10AD8123 = some (.rem ⟨5, true, 1, 2, 0, 0x123⟩) ∧
    decodeWord 0x10EDC123 = some (.remu ⟨5, true, 1, 3, 0, 0x123⟩) := by decide +kernel

theorem test_decode_bits :
    decodeWord 0x1400003F = some (.shl ⟨0, 0, 0x003F⟩) ∧
    decodeWord 0x14400021 = some (.shr ⟨0, 0, 0x0021⟩) ∧
    decodeWord 0x14800001 = some (.sra ⟨0, 0, 0x0001⟩) ∧
    decodeWord 0x14C00015 = some (.rol ⟨0, 0, 0x0015⟩) ∧
    decodeWord 0x15000000 = some (.clz ⟨0, 0, 0x0000⟩) ∧
    decodeWord 0x15400000 = some (.ctz ⟨0, 0, 0x0000⟩) ∧
    decodeWord 0x15800000 = some (.popc ⟨0, 0, 0x0000⟩) ∧
    decodeWord 0x15C00000 = some (.brev ⟨0, 0, 0x0000⟩) ∧
    decodeWord 0x160001C4 = some (.bfx ⟨0, 0, 0x01C4⟩) ∧
    decodeWord 0x16400FC0 = some (.bfi ⟨0, 0, 0x0FC0⟩) ∧
    decodeWord 0x16800002 = some (.sext ⟨0, 0, 0x0002⟩) ∧
    decodeWord 0x16C00001 = some (.zext ⟨0, 0, 0x0001⟩) := by decide +kernel

theorem test_decode_ls :
    decodeWord 0x182D8123 = some (.ld ⟨5, true, 1, 2, 0, 0x123⟩) ∧
    decodeWord 0x1851A000 = some (.ldx ⟨2, false, 1, 2, 2, 0x000⟩) ∧
    decodeWord 0x18AD0123 = some (.st ⟨5, true, 1, 0, 0, 0x123⟩) ∧
    decodeWord 0x18E9C123 = some (.pld ⟨5, false, 1, 3, 0, 0x123⟩) ∧
    decodeWord 0x1929C123 = some (.pst ⟨5, false, 1, 3, 0, 0x123⟩) := by decide +kernel

theorem test_decode_ptr :
    decodeWord 0x1C308000 = some (.li ⟨3, 0, 0x8000⟩) ∧
    decodeWord 0x1C477FFF = some (.pset ⟨0, 7, 0x7FFF⟩) ∧
    decodeWord 0x1C86FFF8 = some (.pstride ⟨0, 6, 0xFFF8⟩) ∧
    decodeWord 0x1CC58000 = some (.padd ⟨0, 5, 0x8000⟩) ∧
    decodeWord 0x1D040000 = some (.pmov ⟨0, 4, 0x0000⟩) ∧
    decodeWord 0x1D430000 = some (.pget ⟨0, 3, 0x0000⟩) ∧
    decodeWord 0x1D82FFFF = some (.pcmp ⟨0, 2, 0xFFFF⟩) := by decide +kernel

theorem test_decode_br :
    decodeWord 0x20200000 = some (.b 0 0x200000) ∧
    decodeWord 0x20600001 = some (.b 1 0x200001) ∧
    decodeWord 0x20A00002 = some (.b 2 0x200002) ∧
    decodeWord 0x20E00003 = some (.b 3 0x200003) ∧
    decodeWord 0x21200004 = some (.b 4 0x200004) ∧
    decodeWord 0x21600005 = some (.b 5 0x200005) ∧
    decodeWord 0x21A00006 = some (.b 6 0x200006) ∧
    decodeWord 0x21E00007 = some (.b 7 0x200007) ∧
    decodeWord 0x22200008 = some (.b 8 0x200008) ∧
    decodeWord 0x22600009 = some (.b 9 0x200009) ∧
    decodeWord 0x22A0000A = some (.b 10 0x20000A) ∧
    decodeWord 0x22E0000B = some (.b 11 0x20000B) ∧
    decodeWord 0x2320000C = some (.b 12 0x20000C) ∧
    decodeWord 0x2360000D = some (.b 13 0x20000D) ∧
    decodeWord 0x23A0000E = some (.b 14 0x20000E) ∧
    decodeWord 0x23E0000F = some (.b 15 0x20000F) := by decide +kernel

theorem test_decode_jmp :
    decodeWord 0x243FFFFF = some (.j 0x3FFFFF) ∧
    decodeWord 0x24400008 = some (.call 0x000008) ∧
    decodeWord 0x24800000 = some (.ret 0x000000) ∧
    decodeWord 0x24E00001 = some (.ja 0x200001) ∧
    decodeWord 0x251FFFFF = some (.calla 0x1FFFFF) := by decide +kernel

theorem test_decode_rpt :
    decodeWord 0x2BFBFFFF = some (.rpt 15 7 0x3FFFF) ∧
    decodeWord 0x28880064 = some (.rpt 2 1 100) ∧
    decodeWord 0x29140000 = some (.rptA 4 2) := by decide +kernel

theorem test_decode_falu :
    decodeWord 0x302D0123 = some (.fadd ⟨5, true, 1, 0, 0, 0x123⟩) ∧
    decodeWord 0x306D4123 = some (.fsub ⟨5, true, 1, 1, 0, 0x123⟩) ∧
    decodeWord 0x30AD8123 = some (.fmul ⟨5, true, 1, 2, 0, 0x123⟩) ∧
    decodeWord 0x30ED0123 = some (.fma ⟨5, true, 1, 0, 0, 0x123⟩) ∧
    decodeWord 0x312D4123 = some (.fmin ⟨5, true, 1, 1, 0, 0x123⟩) ∧
    decodeWord 0x316D8123 = some (.fmax ⟨5, true, 1, 2, 0, 0x123⟩) ∧
    decodeWord 0x31AD0123 = some (.fdiv ⟨5, true, 1, 0, 0, 0x123⟩) ∧
    decodeWord 0x31C14000 = some (.fsqrt ⟨0, false, 1, 1, 0, 0x000⟩) ∧
    decodeWord 0x32099000 = some (.fcmp ⟨1, false, 1, 2, 1, 0x000⟩) ∧
    decodeWord 0x3240C104 = some (.fcvt ⟨0, false, 0, 3, 0, 0x104⟩) ∧
    decodeWord 0x32828002 = some (.fsgn ⟨0, false, 2, 2, 0, 0x002⟩) ∧
    decodeWord 0x30D12E00 = some (.fma ⟨2, false, 1, 0, 2, 0xE00⟩) := by decide +kernel

theorem test_decode_valu :
    decodeWord 0x34390123 = some (.vadd ⟨7, false, 1, 0, 0, 0x123⟩) ∧
    decodeWord 0x34754123 = some (.vsub ⟨6, true, 1, 1, 0, 0x123⟩) ∧
    decodeWord 0x34A98123 = some (.vmul ⟨5, false, 1, 2, 0, 0x123⟩) ∧
    decodeWord 0x34E5C123 = some (.vmac ⟨4, true, 1, 3, 0, 0x123⟩) ∧
    decodeWord 0x35190123 = some (.vmin ⟨3, false, 1, 0, 0, 0x123⟩) ∧
    decodeWord 0x35554123 = some (.vmax ⟨2, true, 1, 1, 0, 0x123⟩) ∧
    decodeWord 0x35898123 = some (.vand ⟨1, false, 1, 2, 0, 0x123⟩) ∧
    decodeWord 0x35C5C123 = some (.vor ⟨0, true, 1, 3, 0, 0x123⟩) ∧
    decodeWord 0x36390123 = some (.vxor ⟨7, false, 1, 0, 0, 0x123⟩) ∧
    decodeWord 0x36754123 = some (.vshl ⟨6, true, 1, 1, 0, 0x123⟩) ∧
    decodeWord 0x36A98123 = some (.vshr ⟨5, false, 1, 2, 0, 0x123⟩) ∧
    decodeWord 0x36E5C123 = some (.vsra ⟨4, true, 1, 3, 0, 0x123⟩) ∧
    decodeWord 0x37190123 = some (.vcmp ⟨3, false, 1, 0, 0, 0x123⟩) ∧
    decodeWord 0x37554123 = some (.vsel ⟨2, true, 1, 1, 0, 0x123⟩) ∧
    decodeWord 0x34199000 = some (.vadd ⟨3, false, 1, 2, 1, 0x000⟩) := by decide +kernel

theorem test_decode_vfpu :
    decodeWord 0x382D0FFF = some (.vfadd ⟨5, true, 1, 0, 0, 0xFFF⟩) ∧
    decodeWord 0x386D4FFF = some (.vfsub ⟨5, true, 1, 1, 0, 0xFFF⟩) ∧
    decodeWord 0x38AD8FFF = some (.vfmul ⟨5, true, 1, 2, 0, 0xFFF⟩) ∧
    decodeWord 0x38EDCFFF = some (.vfma ⟨5, true, 1, 3, 0, 0xFFF⟩) ∧
    decodeWord 0x392D0FFF = some (.vfmin ⟨5, true, 1, 0, 0, 0xFFF⟩) ∧
    decodeWord 0x396D4FFF = some (.vfmax ⟨5, true, 1, 1, 0, 0xFFF⟩) ∧
    decodeWord 0x39AD8FFF = some (.vfcmp ⟨5, true, 1, 2, 0, 0xFFF⟩) ∧
    decodeWord 0x39C30014 = some (.vfcvt ⟨0, false, 3, 0, 0, 0x014⟩) ∧
    decodeWord 0x3A000000 = some (.vfrcp ⟨0, false, 0, 0, 0, 0x000⟩) ∧
    decodeWord 0x3A410000 = some (.vfrsq ⟨0, false, 1, 0, 0, 0x000⟩) ∧
    decodeWord 0x3A820000 = some (.vfexp ⟨0, false, 2, 0, 0, 0x000⟩) ∧
    decodeWord 0x3AC30000 = some (.vflog ⟨0, false, 3, 0, 0, 0x000⟩) := by decide +kernel

theorem test_decode_vdata :
    decodeWord 0x3C2DC123 = some (.vld ⟨5, true, 1, 3, 0, 0x123⟩) ∧
    decodeWord 0x3C6D8123 = some (.vst ⟨5, true, 1, 2, 0, 0x123⟩) ∧
    decodeWord 0x3C810000 = some (.vsplat ⟨0, false, 1, 0, 0, 0x000⟩) ∧
    decodeWord 0x3CC10007 = some (.vext ⟨0, false, 1, 0, 0, 0x007⟩) ∧
    decodeWord 0x3D010005 = some (.vins ⟨0, false, 1, 0, 0, 0x005⟩) ∧
    decodeWord 0x3D6D4123 = some (.vperm ⟨5, true, 1, 1, 0, 0x123⟩) ∧
    decodeWord 0x3D810001 = some (.vsum ⟨0, false, 1, 0, 0, 0x001⟩) ∧
    decodeWord 0x3DC10000 = some (.vmaxr ⟨0, false, 1, 0, 0, 0x000⟩) ∧
    decodeWord 0x3E000006 = some (.vmask ⟨0, false, 0, 0, 0, 0x006⟩) ∧
    decodeWord 0x3E41000F = some (.vslide ⟨0, false, 1, 0, 0, 0x00F⟩) := by decide +kernel

theorem test_decode_msg :
    decodeWord 0x4000970F = some (.send ⟨0, 0, 9, 0x70F⟩) ∧
    decodeWord 0x4040F000 = some (.sendv ⟨0, 0, 15, 0x000⟩) ∧
    decodeWord 0x40B00700 = some (.recv ⟨3, 0, 0, 0x700⟩) ∧
    decodeWord 0x40E00100 = some (.peek ⟨2, 0, 0, 0x100⟩) ∧
    decodeWord 0x41001500 = some (.offer ⟨0, 0, 1, 0x500⟩) ∧
    decodeWord 0x41400300 = some (.pull ⟨0, 0, 0, 0x300⟩) ∧
    decodeWord 0x41800000 = some (.hret ⟨0, 0, 0, 0x000⟩) ∧
    decodeWord 0x41C0C000 = some (.tagset ⟨0, 0, 12, 0x000⟩) ∧
    decodeWord 0x42003000 = some (.tagclr ⟨0, 0, 3, 0x000⟩) := by decide +kernel

theorem test_decode_chan :
    decodeWord 0x44300000 = some (.chr ⟨3, 0, 0, 0x000⟩) ∧
    decodeWord 0x44600000 = some (.chw ⟨2, 0, 0, 0x000⟩) ∧
    decodeWord 0x44900000 = some (.chwv ⟨1, 0, 0, 0x000⟩) ∧
    decodeWord 0x44D00C03 = some (.chst ⟨1, 0, 0, 0xC03⟩) := by decide +kernel

theorem test_decode_sync :
    decodeWord 0x480F001F = some (.barw ⟨0, 15, 0, 0x01F⟩) ∧
    decodeWord 0x48470000 = some (.bart ⟨0, 7, 0, 0x000⟩) ∧
    decodeWord 0x48B00FFF = some (.pause ⟨3, 0, 0, 0xFFF⟩) ∧
    decodeWord 0x48C043FF = some (.waitq ⟨0, 0, 4, 0x3FF⟩) ∧
    decodeWord 0x49000000 = some (.yield ⟨0, 0, 0, 0x000⟩) ∧
    decodeWord 0x49400007 = some (.stkh ⟨0, 0, 0, 0x007⟩) ∧
    decodeWord 0x49820FFF = some (.align ⟨0, 2, 0, 0xFFF⟩) := by decide +kernel

theorem test_decode_fabric :
    decodeWord 0x4C300600 = some (.circ ⟨3, 0, 0, 0x600⟩) ∧
    decodeWord 0x4C690000 = some (.rank ⟨2, 9, 0, 0x000⟩) ∧
    decodeWord 0x4C950000 = some (.tree ⟨1, 5, 0, 0x000⟩) := by decide +kernel

theorem test_decode_remote :
    decodeWord 0x502D0123 = some (.rld ⟨5, true, 1, 0, 0, 0x123⟩) ∧
    decodeWord 0x506D4123 = some (.rldAcq ⟨5, true, 1, 1, 0, 0x123⟩) ∧
    decodeWord 0x50AD8123 = some (.rst ⟨5, true, 1, 2, 0, 0x123⟩) ∧
    decodeWord 0x50EDC123 = some (.rstRel ⟨5, true, 1, 3, 0, 0x123⟩) ∧
    decodeWord 0x512DC123 = some (.rldv ⟨5, true, 1, 3, 0, 0x123⟩) ∧
    decodeWord 0x516DC123 = some (.rstv ⟨5, true, 1, 3, 0, 0x123⟩) := by decide +kernel

theorem test_decode_amo :
    decodeWord 0x542D8F00 = some (.aadd ⟨5, true, 1, 2, 0, 0xF00⟩) ∧
    decodeWord 0x546DDF01 = some (.aand ⟨5, true, 1, 3, 1, 0xF01⟩) ∧
    decodeWord 0x54ADAF02 = some (.aor ⟨5, true, 1, 2, 2, 0xF02⟩) ∧
    decodeWord 0x54EDFF03 = some (.axor ⟨5, true, 1, 3, 3, 0xF03⟩) ∧
    decodeWord 0x552D8F04 = some (.amin ⟨5, true, 1, 2, 0, 0xF04⟩) ∧
    decodeWord 0x556DDF05 = some (.amax ⟨5, true, 1, 3, 1, 0xF05⟩) ∧
    decodeWord 0x55ADAF06 = some (.aminu ⟨5, true, 1, 2, 2, 0xF06⟩) ∧
    decodeWord 0x55EDFF07 = some (.amaxu ⟨5, true, 1, 3, 3, 0xF07⟩) ∧
    decodeWord 0x562D8F08 = some (.aswp ⟨5, true, 1, 2, 0, 0xF08⟩) ∧
    decodeWord 0x566DDF09 = some (.acas ⟨5, true, 1, 3, 1, 0xF09⟩) := by decide +kernel

theorem test_decode_order :
    decodeWord 0x580000F3 = some (.fence 0x000F3) ∧
    decodeWord 0x58112347 = some (.waitc 0x12347) ∧
    decodeWord 0x58200001 = some (.gtag 0x00001) ∧
    decodeWord 0x583FFC01 = some (.gnew 0xFFC01) := by decide +kernel

theorem test_decode_plane :
    decodeWord 0x600021FF = some (.pcfg ⟨0, 0, false, 1, 0, 0x1FF⟩) ∧
    decodeWord 0x606ABFFF = some (.pdot ⟨5, 2, true, 1, 7, 0x3FF⟩) ∧
    decodeWord 0x608EE201 = some (.ppack ⟨1, 6, true, 3, 0, 0x201⟩) ∧
    decodeWord 0x60E340A5 = some (.punpk ⟨4, 3, false, 2, 0, 0x0A5⟩) := by decide +kernel

theorem test_decode_macc :
    decodeWord 0x64002000 = some (.maclm ⟨0, 0, false, 1, 0, 0x000⟩) ∧
    decodeWord 0x64400000 = some (.marel ⟨0, 0, false, 0, 0, 0x000⟩) ∧
    decodeWord 0x64803801 = some (.mard ⟨0, 0, false, 1, 6, 0x001⟩) ∧
    decodeWord 0x64C02008 = some (.mawm ⟨0, 0, false, 1, 0, 0x008⟩) ∧
    decodeWord 0x650021FF = some (.maclr ⟨0, 0, false, 1, 0, 0x1FF⟩) := by decide +kernel

theorem test_decode_copy :
    decodeWord 0x6818A200 = some (.cpy ⟨3, 0, true, 1, 0, 0x200⟩) ∧
    decodeWord 0x68402000 = some (.cpyq ⟨0, 0, false, 1, 0, 0x000⟩) ∧
    decodeWord 0x68B82010 = some (.inbox ⟨7, 0, false, 1, 0, 0x010⟩) := by decide +kernel

theorem test_decode_gran :
    decodeWord 0x6C10A1F0 = some (.grnw ⟨2, 0, true, 1, 0, 0x1F0⟩) ∧
    decodeWord 0x6C7063E0 = some (.grn ⟨6, 0, false, 3, 0, 0x3E0⟩) := by decide +kernel

theorem test_decode_coll :
    decodeWord 0x700B0003 = some (.coll ⟨0, 11, 0, 0x003⟩) ∧
    decodeWord 0x70400000 = some (.collw ⟨0, 0, 0, 0x000⟩) := by decide +kernel

theorem test_decode_sys :
    decodeWord 0x800FFFFF = some (.trap 0xFFFFF) ∧
    decodeWord 0x80180001 = some (.sysc 0x80001) ∧
    decodeWord 0x80200000 = some (.eret 0x00000) ∧
    decodeWord 0x8030004F = some (.gets 0x0004F) ∧
    decodeWord 0x80400014 = some (.sets 0x00014) ∧
    decodeWord 0x80500000 = some (.exit 0x00000) ∧
    decodeWord 0x806001FF = some (.launch 0x001FF) ∧
    decodeWord 0x807FFFFF = some (.wdog 0xFFFFF) ∧
    decodeWord 0x80803FFF = some (.metr 0x03FFF) ∧
    decodeWord 0x8090000F = some (.plbw 0x0000F) ∧
    decodeWord 0x80A00020 = some (.plbi 0x00020) ∧
    decodeWord 0x80B000FF = some (.halt 0x000FF) := by decide +kernel

theorem test_decode_pair :
    decodePair 0x04001234 0x1C005678 = some (.ximm 0x1234 .li 0x5678) ∧
    decodePair 0x07FFFFFF 0x0CC08000 = some (.ximm 0x3FFFFFF (.alu .sbc) 0x8000) := by decide +kernel

/-! ### Ill-formed terms, one for each check -/

theorem test_wf_operands :
    (Instr.add ⟨0, false, 0, 3, 3, 0⟩).wf = false ∧ (Instr.add ⟨4, false, 0, 3, 1, 0⟩).wf = false ∧
    (Instr.ld ⟨0, true, 0, 3, 2, 0⟩).wf = false ∧ (Instr.div ⟨0, false, 0, 3, 1, 1⟩).wf = false ∧
    (Instr.fma ⟨0, false, 0, 2, 1, 0x001⟩).wf = false ∧ (Instr.fma ⟨0, false, 0, 2, 1, 0xE00⟩).wf = true ∧
    (Instr.vadd ⟨0, false, 0, 0, 1, 0⟩).wf = false ∧ (Instr.vadd ⟨0, false, 0, 1, 2, 0⟩).wf = false ∧
    (Instr.st ⟨0, false, 0, 3, 1, 0⟩).wf = false ∧ (Instr.rld ⟨0, false, 0, 3, 2, 0⟩).wf = false := by decide +kernel

theorem test_wf_immediates :
    (Instr.addImm ⟨0, 2, 5⟩).wf = false ∧ (Instr.shl ⟨1, 0, 5⟩).wf = false ∧ (Instr.shl ⟨0, 1, 5⟩).wf = false ∧
    (Instr.shl ⟨0, 0, 64⟩).wf = false ∧ (Instr.clz ⟨0, 0, 1⟩).wf = false ∧ (Instr.bfx ⟨0, 0, 0x0FC1⟩).wf = false ∧
    (Instr.bfi ⟨0, 0, 0x1000⟩).wf = false ∧ (Instr.sext ⟨0, 0, 3⟩).wf = false ∧ (Instr.zext ⟨0, 0, 4⟩).wf = false ∧
    (Instr.li ⟨0, 1, 0⟩).wf = false ∧ (Instr.pset ⟨0, 0, 0x8000⟩).wf = false ∧ (Instr.pset ⟨1, 0, 0⟩).wf = false ∧
    (Instr.padd ⟨0, 8, 0⟩).wf = false ∧ (Instr.pmov ⟨0, 0, 1⟩).wf = false ∧ (Instr.ret 1).wf = false := by decide +kernel

theorem test_wf_sizes :
    (Instr.pld ⟨0, false, 0, 2, 0, 0⟩).wf = false ∧ (Instr.pst ⟨0, true, 0, 3, 0, 0⟩).wf = false ∧
    (Instr.fadd ⟨0, false, 0, 3, 0, 0⟩).wf = false ∧ (Instr.fsqrt ⟨1, false, 0, 2, 0, 0⟩).wf = false ∧
    (Instr.fsqrt ⟨0, false, 0, 2, 0, 1⟩).wf = false ∧ (Instr.fcvt ⟨0, false, 0, 2, 0, 0x060⟩).wf = false ∧
    (Instr.fcvt ⟨0, false, 0, 3, 0, 0x0C0⟩).wf = false ∧ (Instr.fcvt ⟨0, false, 0, 3, 0, 0x110⟩).wf = false ∧
    (Instr.fcvt ⟨0, false, 0, 3, 0, 0x300⟩).wf = false ∧ (Instr.fcvt ⟨0, false, 0, 3, 0, 0x061⟩).wf = false ∧
    (Instr.vfcvt ⟨0, false, 0, 0, 0, 0x160⟩).wf = false ∧ (Instr.fsgn ⟨0, false, 0, 2, 0, 3⟩).wf = false ∧
    (Instr.vst ⟨0, false, 0, 3, 0, 0⟩).wf = false ∧ (Instr.vfrcp ⟨0, false, 0, 1, 0, 0⟩).wf = false ∧
    (Instr.vext ⟨0, false, 0, 0, 0, 8⟩).wf = false ∧ (Instr.vsum ⟨0, false, 0, 0, 0, 2⟩).wf = false ∧
    (Instr.vslide ⟨0, false, 0, 0, 0, 16⟩).wf = false ∧ (Instr.rldv ⟨0, false, 0, 2, 0, 0⟩).wf = false ∧
    (Instr.aadd ⟨0, false, 0, 1, 0, 0⟩).wf = false := by decide +kernel

theorem test_wf_parallel :
    (Instr.send ⟨0, 0, 0, 0x010⟩).wf = false ∧ (Instr.send ⟨0, 0, 0, 0x100⟩).wf = false ∧ (Instr.sendv ⟨1, 0, 0, 0⟩).wf = false ∧
    (Instr.recv ⟨0, 0, 1, 0⟩).wf = false ∧ (Instr.offer ⟨0, 1, 0, 0⟩).wf = false ∧ (Instr.pull ⟨0, 0, 1, 0⟩).wf = false ∧
    (Instr.hret ⟨0, 0, 0, 1⟩).wf = false ∧ (Instr.tagset ⟨0, 0, 0, 1⟩).wf = false ∧ (Instr.chr ⟨0, 1, 0, 0⟩).wf = false ∧
    (Instr.chst ⟨0, 0, 0, 0x801⟩).wf = false ∧ (Instr.chst ⟨0, 0, 0, 0x004⟩).wf = false ∧ (Instr.barw ⟨0, 0, 0, 0x20⟩).wf = false ∧
    (Instr.bart ⟨1, 0, 0, 0⟩).wf = false ∧ (Instr.pause ⟨0, 1, 0, 0⟩).wf = false ∧ (Instr.waitq ⟨0, 0, 1, 1⟩).wf = false ∧
    (Instr.waitq ⟨0, 0, 0, 0x400⟩).wf = false ∧ (Instr.yield ⟨0, 0, 1, 0⟩).wf = false ∧ (Instr.stkh ⟨0, 0, 0, 8⟩).wf = false ∧
    (Instr.align ⟨1, 0, 0, 0⟩).wf = false ∧ (Instr.circ ⟨0, 0, 0, 1⟩).wf = false ∧ (Instr.rank ⟨1, 1, 0, 0⟩).wf = false ∧
    (Instr.tree ⟨3, 1, 0, 0⟩).wf = false ∧ (Instr.coll ⟨0, 0, 0, 4⟩).wf = false ∧ (Instr.collw ⟨0, 1, 0, 0⟩).wf = false := by
  decide +kernel

theorem test_wf_engines :
    (Instr.pcfg ⟨0, 0, false, 0, 0, 0x200⟩).wf = false ∧ (Instr.pcfg ⟨1, 0, false, 0, 0, 0⟩).wf = false ∧
    (Instr.ppack ⟨0, 0, false, 0, 1, 0⟩).wf = false ∧ (Instr.maclm ⟨0, 0, false, 0, 0, 1⟩).wf = false ∧
    (Instr.mard ⟨0, 0, false, 0, 0, 2⟩).wf = false ∧ (Instr.mawm ⟨0, 0, false, 0, 0, 9⟩).wf = false ∧
    (Instr.maclr ⟨0, 0, false, 0, 0, 0x200⟩).wf = false ∧ (Instr.cpy ⟨0, 1, false, 0, 0, 0⟩).wf = false ∧
    (Instr.cpyq ⟨0, 0, true, 0, 0, 0⟩).wf = false ∧ (Instr.inbox ⟨0, 0, false, 0, 1, 0⟩).wf = false := by decide +kernel

theorem test_wf_system :
    (Instr.fence 0x100).wf = false ∧ (Instr.waitc 8).wf = false ∧ (Instr.gtag 2).wf = false ∧ (Instr.eret 1).wf = false ∧
    (Instr.gets 0x100).wf = false ∧ (Instr.sets 0x100).wf = false ∧ (Instr.exit 1).wf = false ∧ (Instr.launch 0x200).wf = false ∧
    (Instr.metr 0x4000).wf = false ∧ (Instr.plbw 16).wf = false ∧ (Instr.plbi 0x30).wf = false ∧ (Instr.plbi 0x11).wf = false ∧
    (Instr.halt 0x100).wf = false := by decide +kernel

/-- The parts that events name must exist (R1). -/
theorem test_wf_events :
    (Instr.trapEntry 655360 0).wf = false ∧ (Instr.trapEntry 0 8).wf = false ∧ (Instr.handlerDispatch 655360).wf = false ∧
    (Instr.joinerRequest 16).wf = false ∧ (Instr.replicaWrite 0 16).wf = false ∧ (Instr.stookWindowEnd 10240 0).wf = false ∧
    (Instr.stookWindowEnd 0 16).wf = false ∧ (Instr.rqhWrite 0 0 4 0).wf = false ∧ (Instr.oinfoFree 0 8).wf = false ∧
    (Instr.bayrateWrite 0 640 0).wf = false ∧ (Instr.rankEntryWrite 0 4096 0).wf = false ∧ (Instr.serviceSlotWrite 0 64 0).wf = false ∧
    (Instr.measExtend 8 0).wf = false ∧ (Instr.binGrant 8 0 0).wf = false ∧ (Instr.binGrant 0 4096 0).wf = false ∧
    (Instr.bulkWindowAccess 256 0 0 none).wf = false ∧ (Instr.crossingCalibration 0 4 true).wf = false ∧
    (Instr.splineExchange 16 0 0 0 0 0).wf = false ∧ (Instr.loftLineFetch 0 4096).wf = false ∧
    (Instr.tenantDeletion 512).wf = false := by decide +kernel

/-! ### States for the tests, and checks that compute -/

/-- A user thread in slot 0 of tile 0, of generation 3, which the first 64 granules carry. -/
def slotWith (b : Bank) : Slot := { Slot.reset with st := .user, gen := 3, user := b }
def tileWith (sl : Slot) : Tile :=
  { Tile.reset with slots := Tile.reset.slots.set 0 sl, tags := (List.range 64).map fun g => (g, 3) }
def thread (b : Bank) (m : Memory) : State := { State.reset with tile := tileWith (slotWith b), mem := m }
/-- A bank at word 5 with `a` in A. -/
def bankA (a : DWord) : Bank := { Bank.reset with pc := 5, a := a }
def threadA (a : DWord) (m : Memory) : State := thread (bankA a) m
/-- The same thread with another slot record. -/
def withSlot (f : Slot → Slot) (s : State) : State := s.setSlot (f s.slot)

def answers (r : Result) (t : State) : Bool := match r with | .next u => decide (u = t) | _ => false
theorem answers_eq {r : Result} {t : State} (h : answers r t = true) : r = .next t := by
  cases r <;> simp_all [answers]
theorem completes_of {i : Instr} {s t : State} (h : answers (exec i s) (advance false t) = true) : Completes i s t := answers_eq h
theorem traps_of {i : Instr} {s : State} {t : Trap} (h : answers (exec i s) (takeTrap t s.bank.pc s) = true) : Traps i s t :=
  answers_eq h

/-- An instruction answers a next state with a property. -/
def nextAnd (r : Result) (p : State → Bool) : Bool := match r with | .next t => p t | _ => false

def isOk (e : Except Stop Unit) : Bool := match e with | .ok _ => true | .error _ => false
theorem isOk_eq {e : Except Stop Unit} (h : isOk e = true) : e = .ok () := by cases e <;> simp_all [isOk]
theorem unfenced_of {r w : Bool} {s : State} (h : isOk (fenceGate r w s) = true) : Unfenced r w s := isOk_eq h

/-- `LocalRead`, computed. -/
def reads (s : State) (ea : Int) (n al : Nat) (bs : List Byte) : Bool :=
  isOk (fenceGate true false s) && decide (0 ≤ ea) && decide (ea + n ≤ 32768) && decide (ea.toNat % al = 0)
    && isOk (planeGate false ea.toNat n s)
    && ((decide (s.tile.tagClass s.slot.gen (ea.toNat / 32) = .own) && decide (s.tile.badIn ea.toNat n = none)
          && decide (bs = readBytes s.mem (spadBase s.tid + ea.toNat) n))
        || (decide (s.tile.tagClass s.slot.gen (ea.toNat / 32) = .stale) && !s.slot.gpol && decide (bs = List.replicate n 0)))
theorem reads_eq {s : State} {ea : Int} {n al : Nat} {bs : List Byte} (h : reads s ea n al bs = true) : LocalRead s ea n al bs := by
  simp only [reads, Bool.and_eq_true, Bool.or_eq_true, decide_eq_true_eq, Bool.not_eq_true'] at h
  obtain ⟨⟨⟨⟨⟨h1, h2⟩, h3⟩, h4⟩, h5⟩, h6⟩ := h
  refine ⟨isOk_eq h1, ⟨h2, h3, h4⟩, isOk_eq h5, ?_⟩
  rcases h6 with ⟨⟨a, b⟩, c⟩ | ⟨⟨a, b⟩, c⟩
  · exact .inl ⟨a, b, c⟩
  · exact .inr ⟨a, b, c⟩
theorem cell_eq {s : State} {ea : Int} {n al : Nat} {bs : List Byte} (h : reads s ea n al bs = true) : CellRead s ea n al bs :=
  (reads_eq h).2
/-- `LocalWrite`, computed. -/
def writes (s : State) (ea : Int) (al : Nat) (bs : List (Option Byte)) : Bool :=
  isOk (fenceGate false true s) && decide (0 ≤ ea) && decide (ea + bs.length ≤ 32768) && decide (ea.toNat % al = 0)
    && isOk (planeGate true ea.toNat bs.length s)
    && (decide (s.tile.tagClass s.slot.gen (ea.toNat / 32) = .stale)
        || (decide (s.tile.tagClass s.slot.gen (ea.toNat / 32) = .own)
          && decide (∀ d ∈ touchedDwords ea.toNat bs, d ∈ s.tile.bad → d ∈ coveredDwords ea.toNat bs)))
theorem writes_eq {s : State} {ea : Int} {al : Nat} {bs : List (Option Byte)} (h : writes s ea al bs = true) :
    LocalWrite s ea al bs := by
  simp only [writes, Bool.and_eq_true, Bool.or_eq_true, decide_eq_true_eq] at h
  obtain ⟨⟨⟨⟨⟨h1, h2⟩, h3⟩, h4⟩, h5⟩, h6⟩ := h
  exact ⟨isOk_eq h1, ⟨h2, h3, h4⟩, isOk_eq h5, h6⟩
theorem put_eq {s : State} {ea : Int} {al : Nat} {bs : List (Option Byte)} (h : writes s ea al bs = true) : CellWrite s ea al bs :=
  (writes_eq h).2
theorem source_of {o : SOp} {ea : Int} {n : Nat} {s : State} {x : DWord} (bs : List Byte) (h : o.src = 0)
    (hr : reads s ea n n bs = true) (hx : x = dwordOf bs) : ScalarSource o ea n s x := .inl ⟨h, bs, reads_eq hr, hx⟩
theorem channel_of {o : SOp} {ea : Int} {n : Nat} {s : State} {x : DWord} (w : DWord) (e : ChanEnd) (r : List DWord) (h : o.src ≠ 0)
    (hc : (s.slot.chan (o.p.extractLsb' 0 2)).r = some e) (hb : s.chanBuf s.tid e = w :: r)
    (hx : x = w &&& BitVec.ofNat 64 (2 ^ (8 * n) - 1)) : ScalarSource o ea n s x := .inr ⟨h, w, ⟨e, r, hc, hb⟩, hx⟩

theorem cz0 {s : State} : CounterZero 0 s := by refine ⟨?_, ?_, ?_⟩ <;> intro h <;> exact absurd h (by decide)
theorem cz1 {s : State} (h : s.slot.nb = 0) : CounterZero 1 s := by refine ⟨fun _ => h, ?_, ?_⟩ <;> intro h <;> exact absurd h (by decide)

/-! ### Integer instructions -/

/-- `[P0+0]` of a doubleword and of a byte; the head of C1, consumed. -/
def opD : SOp := ⟨0, false, 0, 3, 0, 0⟩
def opB : SOp := ⟨0, false, 0, 0, 0, 0⟩
def chanOp : SOp := ⟨1, false, 0, 3, 1, 0⟩
/-- A thread of tile 64 whose C1 is bound for reading to its south link, with a word waiting there. -/
def reader (a w : DWord) : State :=
  { withSlot (fun sl => { sl with ch := sl.ch.set 1 ⟨none, some (.link 2)⟩ }) { threadA a [] with tid := 64 } with
    links := [(258, ⟨[w], 8, none⟩)] }

/-- Table 5.4: `ADD.b` of the byte 0x80 to 0x100 gives 0x80 and C. -/
theorem test_alu_operand : let s := threadA 0x100 [(0, 0x80)]
    (aluInstr .add opB).wf = true ∧ s.bank.free useAF = true ∧ CounterZero opB.w s ∧
    ScalarSource opB (opB.ea s.bank) (bytesOfSize opB.sz) s 0x80 ∧
    Completes (.add opB) s (s.setBank { s.bank with a := 0x80, f := ⟨0xFF, false, false, true, false⟩ }) :=
  ⟨by decide +kernel, by decide +kernel, cz0, source_of [0x80] rfl (by decide +kernel) (by decide +kernel),
    completes_of (by decide +kernel)⟩
/-- Table 5.4: 0x1_0000_0000 squared overflows and is zero; here the operand comes off a channel. -/
theorem test_alu_channel : let s := reader 0x100000000 0x100000000
    (aluInstr .mul chanOp).wf = true ∧ s.bank.free useAF = true ∧
    ScalarSource chanOp (chanOp.ea s.bank) (bytesOfSize chanOp.sz) s 0x100000000 ∧
    Completes (.mul chanOp) s { s.setBank { s.bank with a := 0, f := ⟨0xFF, false, true, false, true⟩ } with
      links := [], credits := [.link 65 0] } :=
  ⟨by decide +kernel, by decide +kernel,
    channel_of 0x100000000 (.link 2) [] (by decide) (by decide +kernel) (by decide +kernel) (by decide +kernel),
    completes_of (by decide +kernel)⟩
/-- Table 5.4: `CMP #5` on 3; `SUB #1` on −2^63; `ADD #1` on −1. -/
theorem test_alu_immediate : let s := threadA 3 []; let u := threadA 0x8000000000000000 []; let v := threadA 0xFFFFFFFFFFFFFFFF []
    (aluImmInstr .cmp ⟨0, 0, 5⟩).wf = true ∧ s.bank.free useAF = true ∧ u.bank.free useAF = true ∧ v.bank.free useAF = true ∧
    Completes (.cmpImm ⟨0, 0, 5⟩) s (s.setBank { s.bank with f := ⟨0xFF, true, false, false, false⟩ }) ∧
    Completes (.subImm ⟨0, 0, 1⟩) u (u.setBank { u.bank with a := 0x7FFFFFFFFFFFFFFF, f := ⟨0xFF, false, false, true, true⟩ }) ∧
    Completes (.addImm ⟨0, 0, 1⟩) v (v.setBank { v.bank with a := 0, f := ⟨0xFF, false, true, true, false⟩ }) :=
  ⟨by decide +kernel, by decide +kernel, by decide +kernel, by decide +kernel, completes_of (by decide +kernel),
    completes_of (by decide +kernel), completes_of (by decide +kernel)⟩
/-- Table 4.4: at sh = 3 the signed form reaches −2^63; the pair of Table 2.2 gives 0x1234_5678 past both words. -/
theorem test_li : let s := threadA 3 []
    (Instr.li ⟨3, 0, 0x8000⟩).wf = true ∧ s.bank.free useA = true ∧
    Completes (.li ⟨3, 0, 0x8000⟩) s (s.setBank { s.bank with a := 0x8000000000000000 }) ∧
    (Instr.ximm 0x1234 .li 0x5678).wf = true ∧ s.bank.free useAF = true ∧ s.bank.pc.toNat % 4096 ≠ 4095 ∧ s.bank.rpt.count = 0 ∧
    exec (.ximm 0x1234 .li 0x5678) s = .next (s.setBank { s.bank with a := 0x12345678, pc := 7 }) :=
  ⟨by decide +kernel, by decide +kernel, completes_of (by decide +kernel), by decide +kernel, by decide +kernel, by decide +kernel,
    by decide +kernel, answers_eq (by decide +kernel)⟩
/-- R76: the prefix at word 4,095; R78: at the last position of a body. -/
theorem test_pair_placement : let s := thread { bankA 0 with pc := 0x1FFF } []
    let u := thread { bankA 0 with rpt := ⟨2, 5, 0, 0, 0, 0⟩ } []
    (Instr.ximm 1 .li 2).wf = true ∧ s.bank.free useAF = true ∧ u.bank.free useAF = true ∧ s.bank.pc.toNat % 4096 = 4095 ∧
    Traps (.ximm 1 .li 2) s (plainTrap 0x08 0x2000) ∧ u.bank.pc.toNat % 4096 ≠ 4095 ∧ u.bank.rpt.count ≠ 0 ∧
    u.bank.rpt.idx = u.bank.rpt.len ∧ Traps (.ximm 1 .li 2) u (plainTrap 0x01 6) :=
  ⟨by decide +kernel, by decide +kernel, by decide +kernel, by decide +kernel, traps_of (by decide +kernel), by decide +kernel,
    by decide +kernel, by decide +kernel, traps_of (by decide +kernel)⟩
/-- R87: −7 by 2 gives −3, and the remainder −1; 5 by 0 gives all ones and V. -/
theorem test_division : let s := threadA 0xFFFFFFFFFFFFFFF9 [(0, 2)]; let u := threadA 5 []
    (divInstr .div opB).wf = true ∧ s.bank.free useAF = true ∧ ScalarSource opB (opB.ea s.bank) (bytesOfSize opB.sz) s 2 ∧
    Completes (.div opB) s (s.setBank { s.bank with a := 0xFFFFFFFFFFFFFFFD, f := ⟨0xFF, true, false, false, false⟩ }) ∧
    Completes (.rem opB) s (s.setBank { s.bank with a := 0xFFFFFFFFFFFFFFFF, f := ⟨0xFF, true, false, false, false⟩ }) ∧
    ScalarSource opB (opB.ea u.bank) (bytesOfSize opB.sz) u 0 ∧
    Completes (.divu opB) u (u.setBank { u.bank with a := 0xFFFFFFFFFFFFFFFF, f := ⟨0xFF, true, false, false, true⟩ }) ∧
    Completes (.remu opB) u (u.setBank { u.bank with a := 5, f := ⟨0xFF, false, false, false, true⟩ }) :=
  ⟨by decide +kernel, by decide +kernel, source_of [2] rfl (by decide +kernel) (by decide +kernel), completes_of (by decide +kernel),
    completes_of (by decide +kernel), source_of [0] rfl (by decide +kernel) (by decide +kernel), completes_of (by decide +kernel),
    completes_of (by decide +kernel)⟩
/-- R88: `BFX #4, #8` of 0xABCD gives 0xBC; `BFI #8, #8` on 0x11EE gives 0xEEEE. -/
theorem test_bit_fields : let s := threadA 0xABCD []; let u := threadA 0x11EE []
    (Instr.bfx ⟨0, 0, 0x01C4⟩).wf = true ∧ s.bank.free useAF = true ∧ u.bank.free useAF = true ∧
    Completes (.bfx ⟨0, 0, 0x01C4⟩) s (s.setBank { s.bank with a := 0xBC }) ∧
    Completes (.bfi ⟨0, 0, 0x01C8⟩) u (u.setBank { u.bank with a := 0xEEEE }) :=
  ⟨by decide +kernel, by decide +kernel, by decide +kernel, completes_of (by decide +kernel), completes_of (by decide +kernel)⟩
/-- Table 5.5: the counts of zero are 64, of one leading bit 0; a shift right by 63 copies the sign; a rotation by 4. -/
theorem test_bit_counts : let s := threadA 0 []; let u := threadA 0x8000000000000001 []
    s.bank.free useAF = true ∧ u.bank.free useAF = true ∧ (Instr.clz ⟨0, 0, 0⟩).wf = true ∧
    Completes (.clz ⟨0, 0, 0⟩) s (s.setBank { s.bank with a := 64 }) ∧
    Completes (.ctz ⟨0, 0, 0⟩) s (s.setBank { s.bank with a := 64 }) ∧
    Completes (.popc ⟨0, 0, 0⟩) u (u.setBank { u.bank with a := 2 }) ∧
    Completes (.sra ⟨0, 0, 63⟩) u (u.setBank { u.bank with a := 0xFFFFFFFFFFFFFFFF, f := ⟨0xFF, true, false, false, false⟩ }) ∧
    Completes (.rol ⟨0, 0, 4⟩) u (u.setBank { u.bank with a := 0x18 }) ∧
    Completes (.zext ⟨0, 0, 0⟩) u (u.setBank { u.bank with a := 1 }) :=
  ⟨by decide +kernel, by decide +kernel, by decide +kernel, completes_of (by decide +kernel), completes_of (by decide +kernel),
    completes_of (by decide +kernel), completes_of (by decide +kernel), completes_of (by decide +kernel), completes_of (by decide +kernel)⟩

/-! ### Loads, stores, pointers -/

/-- A thread whose P1 points at byte 8 with stride −8. -/
def pointed (m : Memory) : State := thread { bankA 0 with p := Bank.reset.p.set 1 ⟨0xFFF8, 8⟩ } m
theorem test_loads : let s := pointed [(8, 0x34), (9, 0x92)]; let o : SOp := ⟨1, true, 0, 1, 0, 0⟩
    s.bank.free useA = true ∧ ScalarSource o (o.ea s.bank) (bytesOfSize o.sz) s 0x9234 ∧ (Instr.ld o).wf = true ∧
    Completes (.ld o) s (s.setBank { s.bank with a := 0xFFFFFFFFFFFF9234, p := Bank.reset.p.set 1 ⟨0xFFF8, 0⟩ }) ∧
    Completes (.ldx o) s (s.setBank { s.bank with a := 0x9234, p := Bank.reset.p.set 1 ⟨0xFFF8, 0⟩ }) :=
  ⟨by decide +kernel, source_of [0x34, 0x92] rfl (by decide +kernel) (by decide +kernel), by decide +kernel,
    completes_of (by decide +kernel), completes_of (by decide +kernel)⟩
theorem test_pointer_loads : let s := pointed []; let o : SOp := ⟨0, false, 0, 3, 0, 32⟩
    (Instr.pld o).wf = true ∧ LocalRead s (o.ea s.bank) 32 32 (List.replicate 32 0) ∧
    Completes (.pld o) s (s.setBank { s.bank with p := Vector.replicate 8 ⟨0, 0⟩ }) ∧
    (Instr.padd ⟨0, 1, 0xFFF0⟩).wf = true ∧
    Completes (.padd ⟨0, 1, 0xFFF0⟩) s (s.setBank { s.bank with p := Bank.reset.p.set 1 ⟨0xFFF8, 0x7FF8⟩ }) ∧
    (Instr.pget ⟨0, 1, 0⟩).wf = true ∧ s.bank.free useA = true ∧
    Completes (.pget ⟨0, 1, 0⟩) s (s.setBank { s.bank with a := 0xFFF80008 }) ∧
    (Instr.pcmp ⟨0, 1, 9⟩).wf = true ∧ s.bank.free useF = true ∧
    Completes (.pcmp ⟨0, 1, 9⟩) s (s.setBank { s.bank with f := ⟨0xFF, true, false, false, false⟩ }) :=
  ⟨by decide +kernel, reads_eq (by decide +kernel), completes_of (by decide +kernel), by decide +kernel,
    completes_of (by decide +kernel), by decide +kernel, by decide +kernel, completes_of (by decide +kernel), by decide +kernel,
    by decide +kernel, completes_of (by decide +kernel)⟩
/-- A store into a stale granule zero-fills it and stamps it (R25). -/
theorem test_store : let s := { threadA 0x1234 [(100, 7)] with
      tile := { tileWith (slotWith (bankA 0x1234)) with tags := [(3, 2)] } }
    let o : SOp := ⟨0, false, 0, 1, 0, 98⟩
    Tidy s ∧ (Instr.st o).wf = true ∧ s.bank.free useA = true ∧
    LocalWrite s (o.ea s.bank) (bytesOfSize o.sz) (lowBytes (bytesOfSize o.sz) s.bank.a) ∧
    Completes (.st o) s { s with mem := [(98, 0x34), (99, 0x12)], tile := { s.tile with tags := [(3, 3)] } } :=
  ⟨⟨by decide +kernel, by decide +kernel⟩, by decide +kernel, by decide +kernel, writes_eq (by decide +kernel),
    completes_of (by decide +kernel)⟩
theorem pointer_bytes : ∀ k : Fin 8, ∀ j : Fin 4,
    (List.replicate 4 (some (0 : Byte)) ++ [some 8, some 0, some 0xF8, some 0xFF] ++ List.replicate 24 (some 0))[4 * k.val + j.val]?
      = some (some ((ptrBits ((pointed []).bank.p[k.val])).extractLsb' (8 * j.val) 8)) := by decide +kernel
theorem test_pointer_store : let s := pointed []; let o : SOp := ⟨0, false, 0, 3, 0, 32⟩
    let bs : List (Option Byte) := List.replicate 4 (some 0) ++ [some 8, some 0, some 0xF8, some 0xFF] ++ List.replicate 24 (some 0)
    Tidy s ∧ (Instr.pst o).wf = true ∧ bs.length = 32 ∧
    (∀ k j : Nat, (hk : k < 8) → j < 4 → bs[4 * k + j]? = some (some ((ptrBits s.bank.p[k]).extractLsb' (8 * j) 8))) ∧
    LocalWrite s (o.ea s.bank) 32 bs ∧
    Completes (.pst o) s { s with mem := [(36, 8), (38, 0xF8), (39, 0xFF)] } :=
  ⟨⟨by decide +kernel, by decide +kernel⟩, by decide +kernel, by decide +kernel,
    fun k j hk hj => pointer_bytes ⟨k, hk⟩ ⟨j, hj⟩,
    writes_eq (by decide +kernel), completes_of (by decide +kernel)⟩
/-- R21, R25: one past the end, odd, and a granule ahead of the generation; under STRICT a stale one. -/
theorem test_operand_traps : let s := threadA 0 []
    let u := { s with tile := { s.tile with tags := [(0, 0)] } }
    let v := withSlot (fun sl => { sl with gpol := true }) { s with tile := { s.tile with tags := [(0, 2)] } }
    let far : SOp := ⟨0, false, 0, 3, 0, 0xFFF⟩
    s.bank.free useAF = true ∧ Unfenced true false s ∧ Unfenced false true s ∧ Unfenced true false u ∧
    Unfenced false true u ∧ Unfenced true false v ∧
    far.ea s.bank < 0 ∧ Traps (.ld far) s (plainTrap 0x04 (-1)) ∧ Traps (.st far) s (plainTrap 0x04 (-1)) ∧
    Traps (.add ⟨0, false, 0, 3, 0, 4⟩) s (plainTrap 0x03 4) ∧ Traps (.st ⟨0, false, 0, 3, 0, 4⟩) s (plainTrap 0x03 4) ∧
    InReach (opD.ea u.bank) 8 8 ∧ TagIs u 0 .ahead ∧ planeGate false 0 8 u = .ok () ∧ planeGate true 0 8 u = .ok () ∧
    Traps (.div opD) u (plainTrap 0x06 0) ∧ Traps (.st opD) u (plainTrap 0x06 0) ∧
    TagIs v 0 .stale ∧ v.slot.gpol = true ∧ planeGate false 0 8 v = .ok () ∧ Traps (.ldx opD) v (plainTrap 0x05 0) :=
  ⟨by decide +kernel, unfenced_of (by decide +kernel), unfenced_of (by decide +kernel), unfenced_of (by decide +kernel),
    unfenced_of (by decide +kernel), unfenced_of (by decide +kernel), by decide +kernel, traps_of (by decide +kernel),
    traps_of (by decide +kernel), traps_of (by decide +kernel), traps_of (by decide +kernel), by unfold InReach; decide +kernel,
    by unfold TagIs; decide +kernel, isOk_eq (by decide +kernel), isOk_eq (by decide +kernel), traps_of (by decide +kernel),
    traps_of (by decide +kernel), by unfold TagIs; decide +kernel, by decide +kernel, isOk_eq (by decide +kernel),
    traps_of (by decide +kernel)⟩

/-! ### Control flow -/

theorem test_branches : let s := threadA 0 []
    s.bank.free useF = true ∧ s.bank.f.holds 2 = false ∧ Completes (.b 2 8) s s ∧ s.bank.f.holds 3 = true ∧
    exec (.b 3 0x3FFFFC) s = .next (s.setBank { s.bank with pc := 1 }) ∧
    Traps (.b 0 0x3FFFFA) s (plainTrap 0x08 0x3FFFFF) ∧ Traps (.b 0 0x3FFB) s (plainTrap 0x08 0x4000) :=
  ⟨by decide +kernel, by decide +kernel, completes_of (by decide +kernel), by decide +kernel, answers_eq (by decide +kernel),
    traps_of (by decide +kernel), traps_of (by decide +kernel)⟩
/-- R94, R18: `CALL` pushes word 6; `RET` pops it; `JA` adds A; in a frame the transfer ends it. -/
theorem test_jumps : let s := thread { bankA 0x100 with rpt := ⟨2, 5, 1, 0, 0, 0⟩ } []
    let u := thread { bankA 0 with rs := Bank.reset.rs.set 3 77, depth := 4 } []
    s.bank.depth.toNat < 4 ∧ s.bank.pc.toNat % 4096 ≠ 4095 ∧ s.bank.free useA = true ∧
    exec (.j 0x3FFFFB) s = .next (s.setBank { s.bank with pc := 0, rpt := ⟨0, 0, 0, 0, 0, 0⟩ }) ∧
    exec (.call 8) s = .next (s.setBank { s.bank with pc := 13, rs := Bank.reset.rs.set 0 6, depth := 1, rpt := ⟨0, 0, 0, 0, 0, 0⟩ }) ∧
    exec (.ja 4) s = .next (s.setBank { s.bank with pc := 0x104, rpt := ⟨0, 0, 0, 0, 0, 0⟩ }) ∧
    exec (.calla 4) s = .next (s.setBank { s.bank with pc := 0x104, rs := Bank.reset.rs.set 0 6, depth := 1, rpt := ⟨0, 0, 0, 0, 0, 0⟩ }) ∧
    (0 < u.bank.depth.toNat ∧ u.bank.depth.toNat ≤ 4) ∧ (Instr.ret 0).wf = true ∧
    exec (.ret 0) u = .next (u.setBank { u.bank with pc := 77, depth := 3 }) :=
  ⟨by decide +kernel, by decide +kernel, by decide +kernel, answers_eq (by decide +kernel), answers_eq (by decide +kernel),
    answers_eq (by decide +kernel), answers_eq (by decide +kernel), by decide +kernel, by decide +kernel, answers_eq (by decide +kernel)⟩
theorem test_jump_traps : let s := threadA 0xFFFFFFFFFFFFFFFF []; let e := thread { bankA 0 with pc := 0x0FFF } []
    let f := thread { bankA 0 with depth := 4 } []
    s.bank.free useA = true ∧ Traps (.ja 0) s (plainTrap 0x08 0x3FFFFF) ∧ Traps (.j 0x3FFB) s (plainTrap 0x08 0x4000) ∧
    e.bank.pc.toNat % 4096 = 4095 ∧ Traps (.call 0) e (plainTrap 0x08 0x1000) ∧
    f.bank.pc.toNat % 4096 ≠ 4095 ∧ 4 ≤ f.bank.depth.toNat ∧ Traps (.calla 0) f (plainTrap 0x09 0) ∧
    s.bank.depth = 0 ∧ Traps (.ret 0) s (plainTrap 0x0A 0) :=
  ⟨by decide +kernel, traps_of (by decide +kernel), traps_of (by decide +kernel), by decide +kernel, traps_of (by decide +kernel),
    by decide +kernel, by decide +kernel, traps_of (by decide +kernel), by decide +kernel, traps_of (by decide +kernel)⟩
/-- Table 5.7: A[19:0] = 0 runs none; 0xF_FFFF counts 1,048,575; a body of two words that leaves the segment, and a skip of one
that ends it. -/
theorem test_repeats : let s := threadA 0x100000 []; let u := threadA 0xFFFFFFFFFFFFFFFF []
    let e := thread { bankA 0 with pc := 0x0FFE } []
    s.bank.free useA = true ∧
    exec (.rptA 2 0) s = .next (s.setBank { s.bank with pc := 9 }) ∧
    exec (.rptA 2 1) u = .next (u.setBank { u.bank with pc := 6, rpt := ⟨0xFFFFF, 6, 2, 0, 1, 0⟩ }) ∧
    exec (.rpt 2 1 100) s = .next (s.setBank { s.bank with pc := 6, rpt := ⟨100, 6, 2, 0, 1, 0⟩ }) ∧
    Traps (.rpt 1 0 1) e (plainTrap 0x08 0x1000) ∧ Traps (.rpt 0 0 0) e (plainTrap 0x08 0x1000) :=
  ⟨by decide +kernel, answers_eq (by decide +kernel), answers_eq (by decide +kernel), answers_eq (by decide +kernel),
    traps_of (by decide +kernel), traps_of (by decide +kernel)⟩
/-- R99, in a body of two words at 5: to position 1, back to the body with one run less, and past it with the frame ended; at the last
word of a segment the trap. -/
theorem test_advance : let at_ := fun r pc => thread { bankA 0 with pc := pc, rpt := r } []
    (at_ ⟨2, 5, 1, 0, 1, 7⟩ 5).bank.rpt.count ≠ 0 ∧
    advance false (at_ ⟨2, 5, 1, 0, 1, 7⟩ 5) = at_ ⟨2, 5, 1, 1, 1, 7⟩ 6 ∧
    advance true (at_ ⟨2, 5, 1, 0, 1, 7⟩ 5) = at_ ⟨1, 5, 1, 0, 1, 0⟩ 5 ∧
    advance false (at_ ⟨1, 5, 1, 1, 1, 3⟩ 6) = at_ ⟨0, 0, 0, 0, 0, 0⟩ 7 ∧
    advance false (at_ ⟨0, 0, 0, 0, 0, 0⟩ 0x3FFF) = takeTrap (plainTrap 0x08 0x4000) 0x3FFF (at_ ⟨0, 0, 0, 0, 0, 0⟩ 0x3FFF) := by
  decide +kernel

/-! ### Reset, the step, fetch and traps -/

/-- R27 at the last tile: the tags, CUR and the slots of the reset state. -/
theorem test_tile_reset : let tl := State.reset.getTile 655359
    tl.tag 1023 = 0xFFF ∧ tl.cur = 4094 ∧ tl.allocate.2 = 0 ∧ (tl.slot 7).st = .empty ∧ (tl.slot 7).user.f.m = 0xFF ∧
    (0 : BitVec 12) ≠ 0xFFF ∧ State.reset.spRead 655359 0 false 0x7FE0 32 = .ok (List.replicate 32 0) ∧
    State.reset.tile.slots[7] = tl.slot 7 := by
  refine ⟨?_, ?_, ?_, ?_, ?_, ?_,
    by rfl, ?_⟩ <;> decide +kernel

/-- What is placed at word 5 of the loft of bay 0, and the line that holds it. -/
def fetching (m : Memory) (s : State) : State := withSlot (fun sl => { sl with lines := [1] }) { s with mem := m }
def loft5 (w : Nat) : Memory := [(loftBase 0 + 20, BitVec.ofNat 8 w), (loftBase 0 + 21, BitVec.ofNat 8 (w / 2 ^ 8)),
  (loftBase 0 + 22, BitVec.ofNat 8 (w / 2 ^ 16)), (loftBase 0 + 23, BitVec.ofNat 8 (w / 2 ^ 24))].filter (·.2 ≠ 0)

/-- The state and the context of a listed tile cycle of tile 0 that slot 0 takes. -/
def cycleOf (s : State) : State := beginCycle (State.focus { s with turns := [] } 0)
def turnOf (s : State) : State := (unyield 0 (tickPauses (cycleOf s))).turnTo 0
/-- A tile cycle in which slot 0 takes `ADD #1` (0x0C00_0001), listed as a turn; and the same with no turn listed. -/
theorem test_step_runs : let s := { fetching (loft5 0x0C000001) (threadA 41 []) with turns := [.issue 0] }
    CycleFrom s (State.focus { s with turns := [] } 0) false ∧ choose (cycleOf s) = some 0 ∧ (cycleOf s).tile.thrE ≤ 0 ∧
    TakesTurn (turnOf s) (.addImm ⟨0, 0, 1⟩) 4 ∧
    nextAnd (exec (.addImm ⟨0, 0, 1⟩) (taken (turnOf s))) (fun t => t.slot.wait = none) = true ∧
    nextAnd (step s) (fun t => t.bank.a = 42 ∧ t.bank.pc = 6 ∧ t.turns = [] ∧ t.tile.last = 0) = true ∧
    nextAnd (step { s with turns := [] }) (fun t => t.bank.a = 42 ∧ t.acted = true) = true :=
  ⟨.inr ⟨rfl, [], 0, by decide, rfl, rfl⟩, by decide +kernel, by decide +kernel, by unfold TakesTurn Undisturbed; decide +kernel,
    by decide +kernel, by decide +kernel, by decide +kernel⟩
/-- R74, R79: `XIMM` 0x1234 and its `LI` 0x5678 take two turns; the first fetches both words and moves nothing. -/
theorem test_step_pair : let s := { fetching [] (threadA 41 []) with turns := [.issue 0] }
    let m := loft5 0x04001234 ++ [(loftBase 0 + 24, 0x78), (loftBase 0 + 25, 0x56), (loftBase 0 + 27, 0x1C)]
    let u := { s with mem := m }
    let second := match step u with | .next t => { t with turns := [.issue 0] } | _ => u
    (turnOf u).slot.pre = none ∧ pairBarred (turnOf u).bank = false ∧ TakesTurn (turnOf u) (.ximm 0x1234 .li 0x5678) 8 ∧
    nextAnd (step u) (fun t => t.bank.pc = 5 ∧ t.bank.a = 41 ∧ t.slot.pre = some (0x04001234, 0x1C005678)) = true ∧
    nextAnd (step second) (fun t => t.bank.pc = 7 ∧ t.bank.a = 0x12345678 ∧ t.slot.pre = none) = true := by
  refine ⟨by decide +kernel, by decide +kernel, by unfold TakesTurn Undisturbed; decide +kernel, ?_, ?_⟩ <;> decide +kernel
/-- A listed event is taken by itself. -/
theorem test_step_event : let s := { threadA 0 [] with turns := [.act .faultFlush] }
    isEvent .faultFlush = true ∧ answers (step s) { s with turns := [], fgen := 1 } = true :=
  ⟨by decide +kernel, by decide +kernel⟩

/-- The fetch of `s` traps as `t`. -/
def fetchTraps (s : State) (t : Trap) : Bool := match fetch s with | .trap u => decide (u = t) | _ => false
theorem fetchTraps_eq {s : State} {t : Trap} (h : fetchTraps s t = true) : fetch s = .trap t := by
  unfold fetchTraps at h; split at h <;> simp_all
/-- R24, R72, R75, R76: segment 3 in user privilege; the all-zero word; a prefix at a segment's end; a prefix before an IALU word. -/
theorem test_fetch_traps : let hi := thread { bankA 0 with pc := 0x3000 } []
    let z := fetching [] (threadA 0 []); let p := fetching (loft5 0x04000001 ++ [(loftBase 0 + 27, 0x08)]) (threadA 0 [])
    let e := { thread { bankA 0 with pc := 0xFFF } [] with mem := [(loftBase 0 + 0x3FFF, 4)] }
    hi.slot.priv = false ∧ fetch hi = .trap (trapTo 0x02 0x3000) ∧ decodeWord 0 = none ∧ fetch z = .trap (trapTo 0x01 5) ∧
    fetch p = .trap (trapTo 0x01 6) ∧ fetch e = .trap (trapTo 0x08 0x1000) ∧
    hi.slot.pre = none ∧ z.turnTo 0 = z ∧ Undisturbed z ∧ z.slot.lineReady z z.tid = true :=
  ⟨by decide +kernel, fetchTraps_eq (by decide +kernel), by decide +kernel, fetchTraps_eq (by decide +kernel),
    fetchTraps_eq (by decide +kernel), fetchTraps_eq (by decide +kernel), by decide +kernel, by decide +kernel,
    by unfold Undisturbed; decide +kernel, by decide +kernel⟩
theorem test_illegal_fields : let i := Instr.add ⟨0, false, 0, 3, 3, 0⟩
    isEvent i = false ∧ i.wf = false ∧ Traps i (threadA 0 []) (trapTo 0x01 5) :=
  ⟨by decide +kernel, by decide +kernel, traps_of (by decide +kernel)⟩
theorem test_pending_reply : let s := thread { bankA 0 with aPend := true, vPend := true } []
    s.bank.aPend = true ∧ s.bank.vPend = true ∧ (Instr.ld opD).wf = true ∧
    exec (.ld opD) s = .next (s.setSlot { s.slot with wait := some .pending }) ∧
    exec (.vld ⟨0, false, 0, 0, 0, 0⟩) s = .next (s.setSlot { s.slot with wait := some .pending }) :=
  ⟨by decide +kernel, by decide +kernel, by decide +kernel, answers_eq (by decide +kernel), answers_eq (by decide +kernel)⟩

/-- A handler in slot 0 that holds a message, dispatched by queue 2; an aborted one; and a thread in supervisor privilege. -/
def handler : State := withSlot (fun sl => { sl with st := .handler, hq := 2, held := [(7, [])] }) (threadA 0 [(4, 0x44), (3, 0x33)])
def inSup (s : State) : State :=
  withSlot (fun sl => { sl with st := .supervisor, priv := true, sup := { sl.sup with pc := 0x3008, f := Flags.reset } }) s
theorem test_trap_entry : let s := threadA 0 []; let t := takeTrap (plainTrap 0x0A 0) 5 s
    s.slot.priv = false ∧ s.slot.st ≠ .handler ∧ t.slot.priv = true ∧ t.slot.tcause = 0x0A ∧ t.slot.tpc = 5 ∧ t.bank.pc = 0x3000 ∧
    t.slot.hnd = false ∧ t.slot.user = s.slot.user := by decide +kernel
theorem test_trap_in_handler : let t := takeTrap (plainTrap 0x03 9) 5 handler
    handler.slot.priv = false ∧ handler.slot.st = .handler ∧ t.slot.hnd = true ∧ t.slot.held = [] ∧ t.slot.tmsg = ⟨2, true, 0x4433⟩ ∧
    t.tile.hold[2] = true ∧ t.bank.pc = 0x3000 := by decide +kernel
/-- Table 11.5: the record of a trap in supervisor privilege, and the same while the fault buffer is full. -/
theorem test_trap_in_supervisor : let s := inSup (threadA 0 [])
    let r : FaultRec := ⟨0x30080001, 0, 0, 0, 0, 0, 15, 0⟩
    s.slot.priv = true ∧ (takeTrap (plainTrap 0x01 0x3008) 0x3008 s).faults = [r] ∧
    (takeTrap (plainTrap 0x01 0x3008) 0x3008 { s with faults := List.replicate 4096 r }).heldFaults = [r] ∧
    (takeTrap (plainTrap 0x01 0x3008) 0x3008 s).slot.halted = true := by decide +kernel
/-- The hypotheses of the statements about every instruction, and of the invariants. -/
theorem test_whole_machine : let s := threadA 0x1234 []
    isEvent (.st opD) = false ∧ s.mem.wf = true ∧ s.slot.priv = false ∧ Tabled s ∧ TagsTidy s ∧
    (∃ t, exec (.st opD) s = .next t) ∧ (∃ t, step s = .next t ∧ t.mem.wf = true) := by
  have h : (match exec (.st opD) (threadA 0x1234 []), step (threadA 0x1234 []) with
    | .next _, .next t => t.mem.wf | _, _ => false) = true := by decide +kernel
  refine ⟨by decide +kernel, by decide +kernel, by decide +kernel, by unfold Tabled; decide +kernel, by unfold TagsTidy; decide +kernel,
    ?_, ?_⟩
  · split at h <;> simp_all
  · split at h <;> simp_all

/-! ### Floating point and vectors -/

/-- R46: in E4M3 464 is a tie that rounds to 448, 470 overflows to the NaN, and 449 overflows upward alone; 7 is a tie that
leaves E2M1, whose 2.5 is a tie too; 0.3 in bfloat16 and FP16, and 500 in E5M2. -/
theorem test_rounding : e4m3 ∈ formats ∧ e2m1 ∈ formats ∧ exactly false 29 4 464 ∧ exactly true 449 0 (-449) ∧
    IsValue e4m3 e4m3.maxMag 448 ∧ IsValue e4m3 (e4m3.maxMag - 1) 416 ∧
    e4m3.round 0 false 29 4 = 0x7E ∧ e4m3.round 0 false 470 0 = 0x7F ∧ e4m3.round 1 false 470 0 = 0x7E ∧
    e4m3.round 2 false 449 0 = 0x7F ∧ e4m3.round 3 false 449 0 = 0x7E ∧ e4m3.round 2 true 449 0 = 0xFE ∧
    e4m3.round 3 true 449 0 % 128 = 0x7F ∧ e2m1.encode 0 (.fin true 7 0) = 0xF ∧ e2m1.encode 0 (.fin false 5 (-1)) = 4 ∧
    bf16.encode 0 (fp32.decode 0x3E99999A) = 0x3E9A ∧ bf16.encode 1 (fp32.decode 0x3E99999A) = 0x3E99 ∧
    fp16.encode 0 (fp32.decode 0x3E99999A) = 0x34CD ∧ e5m2.encode 0 (fp32.decode 0x43FA0000) = 0x60 :=
  ⟨by simp [formats], by simp [formats], by norm_num [exactly], by norm_num [exactly], ⟨448, by decide +kernel, by norm_num⟩,
    ⟨416, by decide +kernel, by norm_num⟩, by decide +kernel, by decide +kernel, by decide +kernel, by decide +kernel,
    by decide +kernel, by decide +kernel, by decide +kernel, by decide +kernel, by decide +kernel, by decide +kernel,
    by decide +kernel, by decide +kernel, by decide +kernel⟩
/-- R46, R47 in FP32: 1.5 − 1.5 is +0 and −0 + −0 is −0; 1 / 3 to nearest; 1.5 / 0 and 0 / 0; the square roots of 2, of a
negative value and of −0; the greatest value and half a spacing beyond it; the least subnormal halved. -/
theorem test_rounded : IsValue fp32 0x3FC00000 1.5 ∧ IsValue fp32 0xBFC00000 (-1.5) ∧ IsValue fp32 0x80000000 0 ∧
    (let d := fp32.decode
    fp32.encode 0 ((d 0x3FC00000).add (d 0xBFC00000)) = 0 ∧ fp32.encode 0 ((d 0x80000000).add (d 0x80000000)) = 0x80000000 ∧
    fp32.encode 0 ((d 0x3F800000).div (d 0x40400000)) = 0x3EAAAAAB ∧ fp32.encode 0 ((d 0xBFC00000).div (d 0)) = 0xFF800000 ∧
    fp32.encode 0 ((d 0).div (d 0x80000000)) = 0x7FC00000 ∧ fp32.encode 0 (d 0x40000000).sqrt = 0x3FB504F3 ∧
    fp32.encode 0 (d 0xBFC00000).sqrt = 0x7FC00000 ∧ fp32.encode 0 (d 0x80000000).sqrt = 0x80000000 ∧
    fp32.encode 0 ((d 0x7F7FFFFF).add (d 0x73000000)) = 0x7F800000 ∧ fp32.encode 0 ((d 1).mul (d 0x3F000000)) = 0 ∧
    fp32.minMax false 0 0x80000000 = 0x80000000 ∧ fp32.minMax true 0x80000000 0 = 0 ∧ fp32.minMax true 0x7FC00000 1 = 1) :=
  ⟨⟨3 / 2, by decide +kernel, by norm_num⟩, ⟨-3 / 2, by decide +kernel, by norm_num⟩, ⟨0, by decide +kernel, by norm_num⟩,
    by decide +kernel⟩
/-- Operands of exact arithmetic: 1.5 and −1.5, whose sum is +0; encodings of each class for widening. -/
theorem test_exact_hyps : (∃ p, valueOf (fp32.decode 0x3FC00000) = some p) ∧ (∃ q, valueOf (fp32.decode 0xBFC00000) = some q) ∧
    (fp32.decode 0x3FC00000).isNeg ≠ (fp32.decode 0xBFC00000).isNeg ∧
    fp32.encode 0 ((fp32.decode 0x3FC00000).add (fp32.decode 0xBFC00000)) = 0 ∧
    e4m3.decode 0x7F = .nan ∧ e5m2.decode 0xFC = .inf true ∧ (∃ e, fp16.decode 0x8000 = .fin true 0 e) ∧
    fp32.encode 0 (e4m3.decode 0x7E) = 0x43E00000 := by
  refine ⟨⟨_, rfl⟩, ⟨_, rfl⟩, by decide +kernel, by decide +kernel, by decide +kernel, by decide +kernel, ⟨_, rfl⟩, by decide +kernel⟩
/-- 1.5 + 2.25, 1.5 · 2.25, 1.5 / 0, the smaller, and 1.5 + 2.25 · 2.25 in FP32; the square root of 2.25. -/
def f32 : SOp := ⟨0, false, 0, 2, 0, 0⟩
def fsplit : SOp := ⟨0, false, 0, 2, 0, 0⟩
theorem test_scalar_float : let m : Memory := [(2, 0x10), (3, 0x40)]; let s := threadA 0x3FC00000 m; let z := threadA 0x3FC00000 []
    s.bank.free useA = true ∧ ScalarSource f32 (f32.ea s.bank) (scalarBytes f32.sz) s 0x40100000 ∧ (Instr.fadd f32).wf = true ∧
    Completes (.fadd f32) s (s.setBank { s.bank with a := 0x40700000 }) ∧
    Completes (.fmul f32) s (s.setBank { s.bank with a := 0x40580000 }) ∧
    Completes (.fdiv f32) z (z.setBank { z.bank with a := 0x7F800000 }) ∧
    Completes (.fmin f32) s (s.setBank { s.bank with a := 0x3FC00000 }) ∧
    (Instr.fma fsplit).wf = true ∧ LocalRead s (fsplit.ea2 s.bank) 4 4 [0, 0, 0x10, 0x40] ∧
    Completes (.fma fsplit) s (s.setBank { s.bank with a := 0x40D20000 }) ∧
    (Instr.fsqrt f32).wf = true ∧ Completes (.fsqrt f32) (threadA 0x40100000 m) (threadA 0x3FC00000 m) :=
  ⟨by decide +kernel, source_of [0, 0, 0x10, 0x40] rfl (by decide +kernel) (by decide +kernel), by decide +kernel,
    completes_of (by decide +kernel), completes_of (by decide +kernel), completes_of (by decide +kernel), completes_of (by decide +kernel),
    by decide +kernel, reads_eq (by decide +kernel), completes_of (by decide +kernel), by decide +kernel, completes_of (by decide +kernel)⟩
/-- Table 5.10: 1.5 is less than 2.25; a NaN is unordered; −0 equals +0. -/
theorem test_float_compare : let s := threadA 0x3FC00000 [(2, 0x10), (3, 0x40)]; let u := threadA 0x7FC00000 []
    let z := threadA 0x80000000 []
    (Instr.fcmp f32).wf = true ∧ s.bank.free useAF = true ∧ ScalarSource f32 (f32.ea u.bank) (scalarBytes f32.sz) u 0 ∧
    Completes (.fcmp f32) s (s.setBank { s.bank with f := ⟨0xFF, true, false, false, false⟩ }) ∧
    Completes (.fcmp f32) u (u.setBank { u.bank with f := ⟨0xFF, false, false, false, true⟩ }) ∧
    Completes (.fcmp f32) z (z.setBank { z.bank with f := ⟨0xFF, false, true, true, false⟩ }) :=
  ⟨by decide +kernel, by decide +kernel, source_of [0, 0, 0, 0] rfl (by decide +kernel) (by decide +kernel),
    completes_of (by decide +kernel), completes_of (by decide +kernel), completes_of (by decide +kernel)⟩
/-- R104: `FCVT #0x260` and `#0x060` of 500.0; Table 3.3: −3.7 to int8, toward zero (MODE 1); `FSGN #0` clears the sign. -/
def fcvtOp (c : BitVec 12) : SOp := ⟨0, false, 0, 3, 0, c⟩
theorem test_float_convert : let s := threadA 0x43FA0000 []; let u := threadA 0xC06CCCCD []
    (Instr.fcvt (fcvtOp 0x260)).wf = true ∧ s.bank.free useA = true ∧
    Completes (.fcvt (fcvtOp 0x260)) s (s.setBank { s.bank with a := 0x7E }) ∧
    Completes (.fcvt (fcvtOp 0x060)) s (s.setBank { s.bank with a := 0x7F }) ∧
    Completes (.fcvt (fcvtOp 0x500)) u (u.setBank { u.bank with a := 0xFFFFFFFFFFFFFFFD }) ∧
    (Instr.fsgn f32).wf = true ∧ Completes (.fsgn f32) u (u.setBank { u.bank with a := 0x406CCCCD }) :=
  ⟨by decide +kernel, by decide +kernel, completes_of (by decide +kernel), completes_of (by decide +kernel),
    completes_of (by decide +kernel), by decide +kernel, completes_of (by decide +kernel)⟩

/-- A thread with V = 1, −2, 3, … and M as given; a granule of bytes 1 to 32. -/
def lanes8 : Vector Word 8 := #v[1, 0xFFFFFFFE, 3, 4, 5, 6, 7, 0x80000000]
def vthread (m : BitVec 8) (mem : Memory) : State := thread { bankA 0 with v := lanes8, f := { Flags.reset with m := m } } mem
def vop : SOp := ⟨0, false, 0, 0, 0, 0⟩
def twos : Memory := (List.range 8).map fun i => (4 * i, 2)
def twoBytes : List Byte := (List.range 32).map fun j => if j % 4 = 0 then 2 else 0
theorem vread_twos (m : BitVec 8) (h : m = 0x81 ∨ m = 0xFF) (all : Bool) : VectorRead 0 0 all (vthread m twos) twoBytes := by
  rcases h with rfl | rfl <;>
  exact ⟨by unfold InReach; decide +kernel, .inr ⟨.inl (by decide +kernel), unfenced_of (by decide +kernel), isOk_eq (by decide +kernel),
    .inl ⟨by unfold TagIs; decide +kernel, by decide +kernel, by cases all <;> decide +kernel⟩⟩⟩
theorem vsource_twos (m : BitVec 8) (h : m = 0x81 ∨ m = 0xFF) (all : Bool) :
    VectorSource vop 0 all (vthread m twos) (Vector.replicate 8 2) :=
  .inl ⟨rfl, twoBytes, vread_twos m h all, by
    have : ∀ i : Fin 8, (Vector.replicate 8 (2 : Word))[i] = laneBits 0 twoBytes i := by decide +kernel
    exact fun i h => this ⟨i, h⟩⟩
/-- R106 with M = 0x81: lanes 0 and 7 alone; `VSEL` takes the operand where M is 0. -/
theorem test_vector_integer : let s := vthread 0x81 twos
    s.bank.free useV = true ∧ VectorSource vop (vop.ea s.bank) false s (Vector.replicate 8 2) ∧ (Instr.vadd vop).wf = true ∧
    Completes (.vadd vop) s (s.setBank { s.bank with v := #v[3, 0xFFFFFFFE, 3, 4, 5, 6, 7, 0x80000002] }) ∧
    Completes (.vsra vop) s (s.setBank { s.bank with v := #v[0, 0xFFFFFFFE, 3, 4, 5, 6, 7, 0xE0000000] }) ∧
    (Instr.vmac vop).wf = true ∧ VectorRead vop.sz (vop.ea2 s.bank) false s twoBytes ∧
    Completes (.vmac vop) s (s.setBank { s.bank with v := #v[5, 0xFFFFFFFE, 3, 4, 5, 6, 7, 0x80000004] }) ∧
    (Instr.vsel vop).wf = true ∧ VectorSource vop (vop.ea s.bank) true s (Vector.replicate 8 2) ∧
    Completes (.vsel vop) s (s.setBank { s.bank with v := #v[1, 2, 2, 2, 2, 2, 2, 0x80000000] }) :=
  ⟨by decide +kernel, vsource_twos 0x81 (.inl rfl) false, by decide +kernel, completes_of (by decide +kernel),
    completes_of (by decide +kernel), by decide +kernel, vread_twos 0x81 (.inl rfl) false, completes_of (by decide +kernel),
    by decide +kernel, vsource_twos 0x81 (.inl rfl) true, completes_of (by decide +kernel)⟩
/-- A channel word gives byte i to lane i at et = 2 (R81). -/
theorem test_vector_channel : let s := reader 0 0x0807060504030201; let o : SOp := ⟨1, false, 0, 2, 1, 0⟩
    (Instr.vadd o).wf = true ∧ VectorSource o (o.ea s.bank) false s #v[1, 2, 3, 4, 5, 6, 7, 8] ∧
    Completes (.vadd o) s { s.setBank { s.bank with v := #v[1, 2, 3, 4, 5, 6, 7, 8] } with links := [], credits := [.link 65 0] } := by
  refine ⟨by decide +kernel, .inr ⟨by decide, by decide, 0x0807060504030201, ⟨.link 2, [], by decide +kernel, by decide +kernel⟩, ?_⟩,
    completes_of (by decide +kernel)⟩
  have : ∀ i : Fin 8, (#v[1, 2, 3, 4, 5, 6, 7, 8] : Vector Word 8)[i] = laneOfWord 2 0x0807060504030201 i := by decide +kernel
  exact fun i h => this ⟨i, h⟩
/-- R107 with M = 1: 1.5 in lane 0, operand 2.0; the reciprocal of −0 is −∞ by Table 3.7. -/
def fthread (x : Word) : State :=
  thread { bankA 0 with v := Bank.reset.v.set 0 x, f := { Flags.reset with m := 1 } } [(3, 0x40)]
def fbytes : List Byte := (List.range 32).map fun j => if j = 3 then 0x40 else 0
theorem test_vector_float : let s := fthread 0x3FC00000
    s.bank.free useV = true ∧ VectorRead vop.sz (vop.ea s.bank) false s fbytes ∧ (Instr.vfma vop).wf = true ∧
    Completes (.vfmul vop) s (s.setBank { s.bank with v := Bank.reset.v.set 0 0x40400000 }) ∧
    Completes (.vfma vop) s (s.setBank { s.bank with v := Bank.reset.v.set 0 0x40B00000 }) ∧
    (Instr.vfcvt ⟨0, false, 0, 0, 0, 0x140⟩).wf = true ∧
    Completes (.vfcvt ⟨0, false, 0, 0, 0, 0x140⟩) s (s.setBank { s.bank with v := Bank.reset.v.set 0 2 }) ∧
    (Instr.vfrcp vop).wf = true ∧
    Completes (.vfrcp vop) (fthread 0x80000000) (fthread 0xFF800000) ∧
    Completes (.vflog vop) (fthread 0) (fthread 0xFF800000) :=
  ⟨by decide +kernel, ⟨by unfold InReach; decide +kernel, .inr ⟨.inl (by decide +kernel), unfenced_of (by decide +kernel),
      isOk_eq (by decide +kernel), .inl ⟨by unfold TagIs; decide +kernel, by decide +kernel, by decide +kernel⟩⟩⟩,
    by decide +kernel, completes_of (by decide +kernel), completes_of (by decide +kernel), by decide +kernel,
    completes_of (by decide +kernel), by decide +kernel, completes_of (by decide +kernel), completes_of (by decide +kernel)⟩
/-- Tables 3.6, 3.7: 1 / 4, 1 / √4, 2^−3 and log2 of 8 are exact and of 1.0 the logarithm is 0; 1 / 2^−128 and 2^128 overflow, and
2^−151 is 0; the square root's reciprocal and the logarithm of −1 are NaN. -/
theorem test_special_functions : IsValue fp32 0x40800000 4 ∧ IsValue fp32 0x00200000 ((2 : ℝ) ^ (-128 : ℤ)) ∧ IsValue fp32 0xBF800000 (-1) ∧
    IsValue fp32 0x43000000 128 ∧ IsValue fp32 0xC3170000 (-151) ∧ IsValue fp32 0x3FC00000 1.5 ∧
    fp32.decode 0x7FC00001 = .nan ∧
    Completes (.vfrcp vop) (fthread 0x40800000) (fthread 0x3E800000) ∧ Completes (.vfrcp vop) (fthread 0x00200000) (fthread 0x7F800000) ∧
    Completes (.vfrsq vop) (fthread 0x40800000) (fthread 0x3F000000) ∧ Completes (.vfrsq vop) (fthread 0xBF800000) (fthread 0x7FC00000) ∧
    Completes (.vfexp vop) (fthread 0xC0400000) (fthread 0x3E000000) ∧ Completes (.vfexp vop) (fthread 0x43000000) (fthread 0x7F800000) ∧
    Completes (.vfexp vop) (fthread 0xC3170000) (fthread 0) ∧
    Completes (.vflog vop) (fthread 0x41000000) (fthread 0x40400000) ∧ Completes (.vflog vop) (fthread 0xBF800000) (fthread 0x7FC00000) ∧
    Completes (.vflog vop) (fthread 0x3F800000) (fthread 0) :=
  ⟨⟨4, by decide +kernel, by norm_num⟩, ⟨1 / 2 ^ 128, by decide +kernel, by norm_num⟩, ⟨-1, by decide +kernel, by norm_num⟩,
    ⟨128, by decide +kernel, by norm_num⟩, ⟨-151, by decide +kernel, by norm_num⟩, ⟨3 / 2, by decide +kernel, by norm_num⟩,
    by decide +kernel, completes_of (by decide +kernel), completes_of (by decide +kernel), completes_of (by decide +kernel),
    completes_of (by decide +kernel), completes_of (by decide +kernel), completes_of (by decide +kernel), completes_of (by decide +kernel),
    completes_of (by decide +kernel), completes_of (by decide +kernel), completes_of (by decide +kernel)⟩
theorem test_vector_moves : let s := vthread 0xFF twos; let e : SOp := ⟨0, false, 0, 0, 0, 7⟩; let l : SOp := ⟨0, false, 0, 0, 0, 0xF⟩
    s.bank.free useV = true ∧ s.bank.free useAV = true ∧
    VectorSource vop (vop.ea s.bank) false s (Vector.replicate 8 2) ∧ (Instr.vld vop).wf = true ∧
    Completes (.vld vop) s (s.setBank { s.bank with v := Vector.replicate 8 2 }) ∧
    Completes (.vperm vop) s (s.setBank { s.bank with v := Vector.replicate 8 3 }) ∧
    (Instr.vext e).wf = true ∧ Completes (.vext e) s (s.setBank { s.bank with a := 0xFFFFFFFF80000000 }) ∧
    Completes (.vins e) s (s.setBank { s.bank with v := lanes8.set 7 0 }) ∧
    Completes (.vsplat vop) s (s.setBank { s.bank with v := Vector.replicate 8 0 }) ∧
    (Instr.vslide l).wf = true ∧
    Completes (.vslide l) s (s.setBank { s.bank with v := #v[0, 1, 0xFFFFFFFE, 3, 4, 5, 6, 7] }) :=
  ⟨by decide +kernel, by decide +kernel, vsource_twos 0xFF (.inr rfl) false, by decide +kernel, completes_of (by decide +kernel),
    completes_of (by decide +kernel), by decide +kernel, completes_of (by decide +kernel), completes_of (by decide +kernel),
    completes_of (by decide +kernel), by decide +kernel, completes_of (by decide +kernel)⟩
/-- R110: int32 sum and maximum of the lanes, and with none enabled; R111: condition 2 on V, and M from A. -/
theorem test_vector_reduce : let s := vthread 0xFF []; let z := vthread 0 []; let k : SOp := ⟨0, false, 0, 0, 0, 1⟩
    s.bank.free useAV = true ∧ s.bank.free useA = true ∧ s.bank.free useV = true ∧ (Instr.vsum vop).wf = true ∧ (Instr.vmaxr k).wf = true ∧
    Completes (.vsum vop) s (s.setBank { s.bank with a := 0xFFFFFFFF80000018 }) ∧
    Completes (.vmaxr vop) s (s.setBank { s.bank with a := 7 }) ∧
    Completes (.vmaxr vop) z (z.setBank { z.bank with a := 0xFFFFFFFF80000000 }) ∧
    Completes (.vmaxr k) z (z.setBank { z.bank with a := 0xFF800000 }) ∧
    Completes (.vmask ⟨0, false, 0, 0, 0, 2⟩) z (vthread 0x82 []) ∧ Completes (.vmask ⟨0, false, 0, 0, 0, 6⟩) s z ∧
    Completes (.vmask ⟨0, false, 0, 0, 0, 7⟩) s (s.setBank { s.bank with a := 0xFF }) :=
  ⟨by decide +kernel, by decide +kernel, by decide +kernel, by decide +kernel, by decide +kernel, completes_of (by decide +kernel), completes_of (by decide +kernel),
    completes_of (by decide +kernel), completes_of (by decide +kernel), completes_of (by decide +kernel), completes_of (by decide +kernel),
    completes_of (by decide +kernel)⟩
/-- R108: byte elements of lanes 0 and 1 alone; with M = 0 nothing is stored. -/
theorem test_vector_store : let s := vthread 3 [(2, 9)]; let z := vthread 0 [(2, 9)]; let o : SOp := ⟨0, false, 0, 2, 0, 0⟩
    (Instr.vst o).wf = true ∧ s.bank.free useV = true ∧ Tidy s ∧ s.bank.f.m ≠ 0 ∧
    LocalWrite s (o.ea s.bank) (vecWide o.sz) (vstData o.sz s) ∧
    Completes (.vst o) s { s with mem := [(0, 1), (1, 0xFE), (2, 9)] } ∧
    z.bank.f.m = 0 ∧ InReach (o.ea z.bank) (vecWide o.sz) (vecWide o.sz) ∧ Completes (.vst o) z z :=
  ⟨by decide +kernel, by decide +kernel, ⟨by decide +kernel, by decide +kernel⟩, by decide +kernel, writes_eq (by decide +kernel),
    completes_of (by decide +kernel), by decide +kernel, by unfold InReach; decide +kernel, completes_of (by decide +kernel)⟩
/-- R82, R84: a scalar past the end; the second operand of a split form out of reach; a vector access off its alignment with M = 0; a
granule ahead with M not 0, and passed over with M = 0 but by `VSEL`; a store into a stale granule under STRICT completes. -/
theorem test_lane_traps : let z := vthread 0 []; let s := vthread 1 []
    let ahead := fun (t : State) => { t with tile := { t.tile with tags := [(0, 0)] } }
    let stale := withSlot (fun sl => { sl with gpol := true }) { s with tile := { s.tile with tags := [(0, 2)] } }
    let far : SOp := ⟨0, false, 0, 2, 0, 0xFFF⟩; let off : SOp := ⟨0, false, 0, 0, 0, 4⟩
    let far2 : SOp := ⟨0, false, 0, 2, 0, 0xE00⟩
    let m : State := withSlot (fun sl => { sl with user := { sl.user with p := sl.user.p.set 7 ⟨0, 0x7FFF⟩ } }) (threadA 0 [])
    s.bank.free useV = true ∧ m.bank.free useA = true ∧ (Instr.fma far2).wf = true ∧
    ScalarSource far2 (far2.eaSplit m.bank) 4 m 0 ∧ Traps (.fma far2) m (plainTrap 0x04 0x7FFF) ∧
    (Instr.fadd far).wf = true ∧ Traps (.fadd far) s (plainTrap 0x04 (-1)) ∧
    z.bank.f.m = 0 ∧ (Instr.vadd off).wf = true ∧ Unfenced true false z ∧ Traps (.vadd off) z (plainTrap 0x03 4) ∧
    Traps (.vst off) z (plainTrap 0x03 4) ∧ Traps (.vmac off) z (plainTrap 0x03 4) ∧
    Traps (.vadd vop) (ahead s) (plainTrap 0x06 0) ∧ Traps (.vst vop) (ahead s) (plainTrap 0x06 0) ∧
    Traps (.vsel vop) (ahead z) (plainTrap 0x06 0) ∧ Completes (.vadd vop) (ahead z) (ahead z) ∧
    (Instr.vst vop).wf = true ∧ Unfenced false true stale ∧ InReach (vop.ea stale.bank) 32 32 ∧
    planeGate true (vop.ea stale.bank).toNat 32 stale = .ok () ∧ TagIs stale 0 .stale ∧
    Completes (.vst vop) stale { stale with mem := [(0, 1)], tile := { stale.tile with tags := [(0, 3)] } } :=
  ⟨by decide +kernel, by decide +kernel, by decide +kernel, source_of [0, 0, 0, 0] rfl (by decide +kernel) (by decide +kernel),
    traps_of (by decide +kernel), by decide +kernel, traps_of (by decide +kernel), by decide +kernel, by decide +kernel,
    unfenced_of (by decide +kernel), traps_of (by decide +kernel), traps_of (by decide +kernel), traps_of (by decide +kernel),
    traps_of (by decide +kernel), traps_of (by decide +kernel), traps_of (by decide +kernel), completes_of (by decide +kernel),
    by decide +kernel, unfenced_of (by decide +kernel), by unfold InReach; decide +kernel, isOk_eq (by decide +kernel),
    by unfold TagIs; decide +kernel, completes_of (by decide +kernel)⟩

/-! ### Messages, channels, synchronisation, fabric -/


/-- Tile 64 holds a launch of tenant 3: two tiles, two threads each, eight lanes; a barrier plane and a combining circuit at level 0;
one handler slot, with a handler for tag 1. Rank 2 is slot 1 of tile 65, to which slot 0 has circuit 5; a channel circuit 6 to it. -/
def launch3 : TileLaunch :=
  { lid := 9, tenant := 3, h := 1, hmask := 2, entry := 0x100, levels := [⟨2, 2⟩, ⟨2, 1⟩, ⟨8, 0⟩], gen := 3, gpol := false, dom := 7,
    bal := false, planes := [0], combs := [0], fleet := false, base := 0, granary := true }
def rank2 : RankEntry := ⟨true, false, 0, 0, 8, 1, 1, 3⟩
def placed (sl : Slot) (m : Memory) : State :=
  { State.reset with
    tid := 64, mem := m
    tile := { tileWith sl with launch := some launch3, ranks := [(2, rank2)] }
    circuits := [(5, ⟨.message, 3, 64, 0, 65, 1, [1], false, false, [], 0, [], [], 0, 0⟩),
                 (6, ⟨.channel, 3, 64, 0, 65, 1, [2], false, false, [], 8, [], [], 0, 0⟩),
                 (7, ⟨.channel, 3, 65, 1, 64, 0, [3], false, false, [], 8, [], [], 0, 0⟩)] }
def base64 : Nat := 64 * 32768
def toRank2 : DWord := 0x0002000000000000
/-- Payload words 1 at byte 0 and 2 at byte 8. -/
def twoWords : Memory := [(base64, 1), (base64 + 8, 2)]
def sender : State := placed (slotWith (bankA toRank2)) twoWords
def handler64 (held : List (DWord × List DWord)) : State :=
  placed { slotWith (bankA toRank2) with st := .handler, hq := 1, held := held } twoWords

/-- R174: `SEND` of tag 1 and length 2; the header's tag and length stand in bits [47:40]. -/
theorem test_send : let s := sender; let o : COp := ⟨0, 0, 1, 2⟩
    (Instr.send o).wf = true ∧ s.bank.free useAV = true ∧ header s.bank.a 1 2 = 0x0002120000000000 ∧
    PayloadAt s (s.bank.ptr (o.imm.extractLsb' 8 3)).addr.toNat [1, 2] ∧ Unfenced false true s ∧
    RouteTo s (s.bank.a.toNat / 2 ^ 48) (.tile 0 5 65 1) ∧ s.slot.st ≠ .handler ∧ NiTakes s s.slot.nm ∧
    nextAnd (exec (.send o) s) (fun t => decide (t.slot.niq.map (·.op) = [.msg 0x0002120000000000 [1, 2]] ∧ t.slot.nm = 1 ∧
      t.bank = { s.bank with pc := 6 } ∧ t.mem = s.mem)) = true := by
  refine ⟨by decide +kernel, by decide +kernel, by decide +kernel, ?_, unfenced_of (by decide +kernel),
    ⟨by decide +kernel, by decide +kernel, by decide +kernel, 5, by decide +kernel, by decide +kernel⟩, by decide +kernel,
    ⟨by decide +kernel, by decide +kernel⟩, by decide +kernel⟩
  intro j h
  match j, h with
  | 0, _ => exact ⟨[1, 0, 0, 0, 0, 0, 0, 0], cell_eq (by decide +kernel), by rfl⟩
  | 1, _ => exact ⟨[2, 0, 0, 0, 0, 0, 0, 0], cell_eq (by decide +kernel), by rfl⟩
/-- R181: a handler's message is held; a ninth raises `WATCHDOG` with %TADDR 1. -/
theorem test_send_held : let s := handler64 []; let u := handler64 (List.replicate 8 (0, [])); let o : COp := ⟨0, 0, 15, 0⟩
    (Instr.sendv o).wf = true ∧ s.slot.st = .handler ∧ s.slot.held.length < 8 ∧ Unfenced false true s ∧ Unfenced false true u ∧
    RouteTo s (s.bank.a.toNat / 2 ^ 48) (.tile 0 5 65 1) ∧ RouteTo u (u.bank.a.toNat / 2 ^ 48) (.tile 0 5 65 1) ∧
    nextAnd (exec (.sendv o) s) (fun t => decide (t.slot.held = [(0x0002F40000000000, [0, 0, 0, 0])] ∧ t.slot.nm = 0)) = true ∧
    8 ≤ u.slot.held.length ∧ Traps (.sendv o) u (plainTrap 0x1B 1) :=
  ⟨by decide +kernel, by decide +kernel, by decide +kernel, unfenced_of (by decide +kernel), unfenced_of (by decide +kernel),
    ⟨by decide +kernel, by decide +kernel, by decide +kernel, 5, by decide +kernel, by decide +kernel⟩,
    ⟨by decide +kernel, by decide +kernel, by decide +kernel, 5, by decide +kernel, by decide +kernel⟩, by decide +kernel,
    by decide +kernel, traps_of (by decide +kernel)⟩
/-- R178: the offer of the last eight bytes of scratchpad; R179: a pull of 16 bytes at 32 into 64. -/
theorem test_offer : let s := placed (slotWith { bankA toRank2 with p := Bank.reset.p.set 1 ⟨8, 32760⟩ }) []
    let o : COp := ⟨0, 0, 2, 0x100⟩
    (Instr.offer o).wf = true ∧ s.bank.free useA = true ∧ s.slot.isHandler = false ∧ Unfenced false true s ∧
    RouteTo s (s.bank.a.toNat / 2 ^ 48) (.tile 0 5 65 1) ∧ NiTakes s s.slot.nm ∧
    nextAnd (exec (.offer o) s) (fun t => decide (t.slot.niq.map (·.op) = [.msg 0x0002220000000000 [0x87FF8, 0]])) = true :=
  ⟨by decide +kernel, by decide +kernel, by decide +kernel, unfenced_of (by decide +kernel),
    ⟨by decide +kernel, by decide +kernel, by decide +kernel, 5, by decide +kernel, by decide +kernel⟩,
    ⟨by decide +kernel, by decide +kernel⟩, by decide +kernel⟩
theorem test_pull : let s := placed (slotWith (bankA 64)) [(base64 + 8, 32), (base64 + 10, 16), (base64 + 16, 2)]
    let o : COp := ⟨0, 0, 0, 0⟩
    (Instr.pull o).wf = true ∧ s.slot.isHandler = false ∧ CellRead s 8 8 8 [32, 0, 16, 0, 0, 0, 0, 0] ∧
    CellRead s 16 8 8 [2, 0, 0, 0, 0, 0, 0, 0] ∧ Unfenced false true s ∧ RouteTo s 2 (.tile 0 5 65 1) ∧ InboxRoom s ∧
    nextAnd (exec (.pull o) s) (fun t => decide (t.slot.niq.map (·.op) = [.pull 32 16 64 0] ∧ t.slot.ne = 1 ∧ t.slot.nm = 0)) = true :=
  ⟨by decide +kernel, by decide +kernel, cell_eq (by decide +kernel), cell_eq (by decide +kernel), unfenced_of (by decide +kernel),
    ⟨by decide +kernel, by decide +kernel, by decide +kernel, 5, by decide +kernel, by decide +kernel⟩, by unfold InboxRoom; decide +kernel,
    by decide +kernel⟩
/-- R176: the last record of a ring of 256 bytes at 0x100, then HEAD wraps to its start; and the empty queue. -/
theorem test_receive : let q : RQueue := ⟨1, 0x180, 0x100, false, false, false, 0, false, false, 0, 0, []⟩
    let s := placed { slotWith (bankA 0) with rq := Slot.reset.rq.set 3 q } [(base64 + 0x180, 7)]; let o : COp := ⟨3, 0, 0, 0x200⟩
    let e := placed (slotWith (bankA 1)) []
    (Instr.recv o).wf = true ∧ (Instr.peek o).wf = true ∧ s.bank.free useAF = true ∧ s.slot.isHandler = false ∧ q.head ≠ q.tail ∧
    LocalRead s q.head.toNat 8 8 [7, 0, 0, 0, 0, 0, 0, 0] ∧ Ringed q ∧ ringNext q = 0x100 ∧
    nextAnd (exec (.recv o) s) (fun t => decide (t.bank.a = 7 ∧ t.bank.ptr 2 = ⟨8, 0x180⟩ ∧ t.slot.rq[3].head = 0x100)) = true ∧
    nextAnd (exec (.peek o) s) (fun t => decide (t.bank.a = 7 ∧ t.slot.rq[3].head = 0x180)) = true ∧
    Completes (.peek o) e (e.setBank { e.bank with a := 0, f := ⟨0xFF, false, true, false, false⟩ }) ∧
    exec (.recv o) e = .next (e.setSlot { e.slot with wait := some .queue }) ∧
    (handler64 []).slot.isHandler = true ∧ Traps (.recv o) (handler64 []) (plainTrap 0x18 16) :=
  ⟨by decide +kernel, by decide +kernel, by decide +kernel, by decide +kernel, by decide +kernel, reads_eq (by decide +kernel),
    by unfold Ringed; decide +kernel, by decide +kernel, by decide +kernel, by decide +kernel, completes_of (by decide +kernel),
    answers_eq (by decide +kernel), by decide +kernel, traps_of (by decide +kernel)⟩
/-- R182 in slot 7, which holds the queues itself: the held message goes, the queue moves on, the slot is free. -/
theorem test_hret : let q : RQueue := ⟨1, 0x100, 0x180, false, false, false, 0, false, false, 0, 0, []⟩
    let h := { slotWith (bankA 0) with st := .handler, hq := 1, held := [(toRank2, [5])], rq := Slot.reset.rq.set 1 q }
    let p := placed (slotWith (bankA 0)) []
    let tl := { p.tile with slots := p.tile.slots.set 7 h }
    let s := { p with cur := 7, tile := tl }
    (Instr.hret ⟨0, 0, 0, 0⟩).wf = true ∧ s.slot.st = .handler ∧
    (∀ m ∈ s.slot.held, ∃ route, RouteTo s (m.1.toNat / 2 ^ 48) route) ∧ Ringed q ∧
    nextAnd (exec (.hret ⟨0, 0, 0, 0⟩) s) (fun t => decide (t.slot.st = .empty ∧ t.slot.nm = 0 ∧ t.slot.held = [] ∧
      t.slot.niq.map (·.op) = [.msg toRank2 [5]] ∧ t.tile.slots[7].rq[1].head = 0x180)) = true ∧
    sender.slot.st ≠ .handler ∧ Traps (.hret ⟨0, 0, 0, 0⟩) sender (plainTrap 0x18 16) := by
  refine ⟨by decide +kernel, by decide +kernel, ?_, by unfold Ringed; decide +kernel, by decide +kernel, by decide +kernel,
    traps_of (by decide +kernel)⟩
  intro m hm
  obtain rfl : m = (toRank2, [5]) := List.mem_singleton.mp hm
  exact ⟨.tile 0 5 65 1, by decide +kernel, by decide +kernel, by decide +kernel, 5, by decide +kernel, by decide +kernel⟩
/-- R185: the image has a handler for tag 1 and none for tag 2. -/
theorem test_tags : sender.bank.free useF = true ∧
    nextAnd (exec (.tagset ⟨0, 0, 1, 0⟩) sender) (fun t => decide (t.tile.tagtab[1].en = true ∧ t.bank.f.z = false)) = true ∧
    nextAnd (exec (.tagset ⟨0, 0, 2, 0⟩) sender) (fun t => decide (t.tile.tagtab[2].en = false ∧ t.bank.f.z = true)) = true ∧
    nextAnd (exec (.tagclr ⟨0, 0, 1, 0⟩) sender) (fun t => decide (t.tile.tagtab[1].en = false ∧ t.bank.f.z = false)) = true := by
  decide +kernel

/-- Tile 64 with C1 bound: its read side to the south link, where `w` waits, its write side to channel circuit 6. -/
def channelled (w : List DWord) (credits : Nat) : State :=
  let s := placed { slotWith (bankA 0x77) with ch := Slot.reset.ch.set 1 ⟨some (.circuit 0 6), some (.link 2)⟩ } []
  let l := SMap.set Link.reset [] 258 ⟨w, 8, none⟩
  { s with links := l, circuits := [(6, ⟨.channel, 3, 64, 0, 65, 1, [2], false, false, [], credits, [], [], 0, 0⟩)] }
def c1 : COp := ⟨1, 0, 0, 0⟩
/-- R187: a read, a read with nothing there, a write of A, four words of V, and three credits, which are not enough for them. -/
theorem test_channels : let s := channelled [9, 8] 8; let e := channelled [] 3
    s.slot.isHandler = false ∧ s.bank.free useAll = true ∧ Tabled s ∧ Tabled e ∧ (s.slot.ch[1]).r = some (.link 2) ∧
    s.chanBuf 64 (.link 2) = [9, 8] ∧ neighbour s 64 2 = some 65 ∧
    nextAnd (exec (.chr c1) s) (fun t => decide (t.bank.a = 9 ∧ t.bank.f.z = false ∧ t.chanBuf 64 (.link 2) = [8] ∧
      t.credits = [.link 65 0])) = true ∧
    Completes (.chr c1) e (e.setBank { e.bank with f := ⟨0xFF, false, true, false, false⟩ }) ∧
    nextAnd (exec (.chw c1) s) (fun t => decide (t.words = [⟨.circuit 0 6, 0x77, false⟩] ∧ t.chanCredits 64 (.circuit 0 6) = 7)) = true ∧
    nextAnd (exec (.chwv c1) s) (fun t => decide (t.words.length = 4 ∧ t.chanCredits 64 (.circuit 0 6) = 4)) = true ∧
    exec (.chwv c1) e = .next (e.setSlot { e.slot with wait := some .credit }) ∧
    Traps (.chr ⟨0, 0, 0, 0⟩) s (plainTrap 0x16 0x11000) ∧ Traps (.chw ⟨3, 0, 0, 0⟩) s (plainTrap 0x16 0x11003) := by
  refine ⟨?_, ?_, ⟨?_, ?_⟩, ⟨?_, ?_⟩,
    ?_, ?_, ?_, ?_, completes_of (by decide +kernel), ?_,
    ?_, answers_eq (by decide +kernel), traps_of (by decide +kernel), traps_of (by decide +kernel)⟩ <;> decide +kernel
/-- The record of the launch on bay 1. -/
def record9 : Launch :=
  { lid := 9, q := 0, vf := 0, tenant := 3, dw := Vector.replicate 8 0, st := .running, levels := launch3.levels,
    threads := [], bays := [1], tiles := [64], released := [64], saved := [], park := none, zeros := 0, fillAt := 0,
    cycAt := 0, classUp := false, planes := [0], combs := [0], hdr := [], kept := [], dom := 7, remap := none }
/-- R186: C1 with an unread word cannot be unbound; C0 binds to circuit 6, to circuit 7 and, between bays of one tenant, to the link;
a CID of no circuit, and an edge of the mesh, cannot be bound. -/
theorem test_channel_binding : let s := channelled [9] 8
    let u := placed (slotWith (bankA 6)) []; let v := placed (slotWith (bankA 7)) []
    let w := { v with bays := [(1, { Bay.reset with launch := some 9 })], launches := [record9] }
    let zed := fun (z : Bool) (t : State) => decide (t.bank.f.z = z)
    nextAnd (exec (.chst c1) s) (fun t => zed true t && decide (t.slot.ch = s.slot.ch)) = true ∧
    nextAnd (exec (.chst c1) (channelled [] 8)) (fun t => zed false t && decide (t.slot.ch = Slot.reset.ch)) = true ∧
    nextAnd (exec (.chst ⟨0, 0, 0, 0x400⟩) u) (fun t => zed false t && decide ((t.slot.ch[0]).w = some (.circuit 0 6))) = true ∧
    nextAnd (exec (.chst ⟨0, 0, 0, 0x400⟩) v) (fun t => zed true t && decide ((t.slot.ch[0]).w = none)) = true ∧
    nextAnd (exec (.chst ⟨0, 0, 0, 0x800⟩) v) (fun t => zed false t && decide ((t.slot.ch[0]).r = some (.circuit 0 7))) = true ∧
    linkLive w 64 2 = true ∧ linkLive w 64 0 = false ∧
    nextAnd (exec (.chst ⟨0, 0, 0, 0xC02⟩) w) (fun t => zed false t && decide (t.slot.ch[0] = ⟨some (.link 2), some (.link 2)⟩)) = true ∧
    nextAnd (exec (.chst ⟨0, 0, 0, 0xC00⟩) w) (zed true) = true := by decide +kernel
/-- R186, Table 9.3: with credits owed, modes 0 and 1 wait and mode 3 fails; so do a circuit of another slot, an unread word on the read
side, and a link that another context holds. -/
theorem test_binding_refused : let owed := channelled [] 3
    let to6 := withSlot (fun sl => { sl with user := bankA 6 }) owed
    let other := { placed (slotWith (bankA 6)) [] with circuits := [(6, ⟨.channel, 3, 64, 1, 65, 1, [2], false, false, [], 8, [], [], 0, 0⟩)] }
    let r7 := withSlot (fun sl => { sl with user := bankA 7 }) (channelled [9] 8)
    let live := fun (s : State) => { s with bays := [(1, { Bay.reset with launch := some 9 })], launches := [record9] }
    let held := { live (placed (slotWith (bankA 0)) []) with links := [(258, ⟨[], 8, some 3⟩)] }
    let refused := fun (o : COp) (s : State) =>
      nextAnd (exec (.chst o) s) (fun t => decide (t.bank.f.z = true ∧ t.slot.ch = s.slot.ch))
    owed.bank.free useAF = true ∧ owed.chanCredits 64 (.circuit 0 6) = 3 ∧
    exec (.chst c1) owed = .next (owed.setSlot { owed.slot with wait := some .credit }) ∧
    exec (.chst ⟨1, 0, 0, 0x400⟩) to6 = .next (to6.setSlot { to6.slot with wait := some .credit }) ∧
    refused ⟨1, 0, 0, 0xC02⟩ (live owed) = true ∧ refused ⟨0, 0, 0, 0x400⟩ other = true ∧ refused ⟨1, 0, 0, 0x800⟩ r7 = true ∧
    refused ⟨1, 0, 0, 0xC02⟩ (live (channelled [9] 8)) = true ∧ linkLive held 64 2 = true ∧ (held.link 64 2).bound = some 3 ∧
    refused ⟨0, 0, 0, 0xC02⟩ held = true :=
  ⟨by decide +kernel, by decide +kernel, answers_eq (by decide +kernel), answers_eq (by decide +kernel), by decide +kernel,
    by decide +kernel, by decide +kernel, by decide +kernel, by decide +kernel, by decide +kernel, by decide +kernel⟩

/-- R191 at level 1, whose scope is one tile: `BART` joins, `BARW` joins and waits 1,024 cycles for e = 9; a completed join ends; an
open join at another level. -/
theorem test_barriers : let s := placed (slotWith (bankA 0)) []
    let j := fun (l : BitVec 4) (c : Bool) => placed { slotWith (bankA 0) with join := some ⟨l, c⟩ } []
    s.slot.isHandler = false ∧ joinGate s = .ok () ∧ BarrierOk s 1 ∧ BarrierOk (j 1 true) 1 ∧ BarrierOk s 0 ∧ s.bank.free useF = true ∧ s.slot.entered = .no ∧
    nextAnd (exec (.bart ⟨0, 1, 0, 0⟩) s) (fun t => decide (t.slot.join = some ⟨1, false⟩ ∧ t.bank.f.z = false ∧
      t.episodes.map (·.joined) = [[0]])) = true ∧
    nextAnd (exec (.barw ⟨0, 1, 0, 9⟩) s) (fun t => decide (t.slot.wait = some .barrier ∧ t.slot.timer = 1024 ∧ t.bank = s.bank)) = true ∧
    nextAnd (exec (.bart ⟨0, 1, 0, 0⟩) (j 1 true)) (fun t => decide (t.slot.join = none ∧ t.bank.f.z = true)) = true ∧
    nextAnd (exec (.barw ⟨0, 1, 0, 9⟩) (j 1 true)) (fun t => decide (t.slot.join = none ∧ t.bank.pc = 6)) = true ∧
    nextAnd (exec (.bart ⟨0, 1, 0, 0⟩) (j 1 false)) (fun t => decide (t.slot.join = some ⟨1, false⟩ ∧ t.bank.f.z = false)) = true ∧
    Traps (.bart ⟨0, 1, 0, 0⟩) (j 0 false) (plainTrap 0x18 1) := by
  refine ⟨?_, isOk_eq (by decide +kernel), ⟨⟨?_, ?_, ?_⟩, .inl (by decide +kernel)⟩,
    ⟨⟨?_, ?_, ?_⟩, .inl (by decide +kernel)⟩,
    ⟨⟨?_, ?_, ?_⟩, .inr ⟨launch3, ?_, ?_⟩⟩,
    ?_, ?_, ?_, ?_, ?_, ?_,
    ?_, traps_of (by decide +kernel)⟩ <;> decide +kernel
/-- R194 to R198: 3 · 16² cycles; the other running context first; the hint 7 acts as 0; a record in queue 0 and a word on C1; `ALIGN`
holds for 4,096 cycles and ends once released. -/
theorem test_waiting : let s := placed (slotWith (bankA 0)) []
    let two := { s with tile := { s.tile with slots := s.tile.slots.set 3 (slotWith (bankA 0)) } }
    let w := channelled [9] 8; let r := placed { slotWith (bankA 0) with entered := .align true 1 } []
    nextAnd (exec (.pause ⟨2, 0, 0, 3⟩) s) (fun t => decide (t.slot.pause = 768)) = true ∧
    nextAnd (exec (.yield ⟨0, 0, 0, 0⟩) two) (fun t => decide (t.slot.yielded = 8)) = true ∧
    nextAnd (exec (.stkh ⟨0, 0, 0, 7⟩) s) (fun t => decide (t.slot.hint = 0)) = true ∧
    nextAnd (exec (.stkh ⟨0, 0, 0, 5⟩) s) (fun t => decide (t.slot.hint = 5)) = true ∧
    nextAnd (exec (.waitq ⟨0, 0, 0, 0x1FF⟩) w) (fun t => decide (t.bank.a = 0x40)) = true ∧
    exec (.waitq ⟨0, 0, 0, 1⟩) s = .next (s.setSlot { s.slot with wait := some .waitq }) ∧
    LevelOk s 1 7 ∧ nextAnd (exec (.align ⟨0, 1, 0, 0⟩) s) (fun t => decide (t.slot.entered = .align false 1 ∧ t.slot.timer = 4096)) = true ∧
    nextAnd (exec (.align ⟨0, 1, 0, 0⟩) r) (fun t => decide (t.slot.entered = .no ∧ t.bank.pc = 6)) = true :=
  ⟨by decide +kernel, by decide +kernel, by decide +kernel, by decide +kernel, by decide +kernel, answers_eq (by decide +kernel),
    ⟨by decide +kernel, by decide +kernel, by decide +kernel⟩, by decide +kernel, by decide +kernel⟩
/-- R199: a channel circuit to rank 2 with the default of one slot; an invalid rank. -/
theorem test_circ : let s := placed (slotWith (bankA 0)) [(base64, 2), (base64 + 3, 1)]; let u := placed (slotWith (bankA 0)) [(base64, 3)]
    let o : COp := ⟨0, 0, 0, 0⟩
    (Instr.circ o).wf = true ∧ s.slot.isHandler = false ∧ dieOf s.tid < 16 ∧
    CellRead s 0 32 32 ([2, 0, 0, 1] ++ List.replicate 28 0) ∧ Unfenced false true s ∧ InboxRoom s ∧ s.slot.ne ≠ 0xFFFF ∧
    nextAnd (exec (.circ o) s) (fun t => decide ((t.getDie 0).work.map (fun w => match w with | .own r => (r.op, r.chan, r.slots, r.dst, r.tenant) | .far _ => (3, false, 0, 0, 0)) =
      [(0, true, 1, 65, 3)] ∧ t.slot.ne = 1)) = true ∧
    CellRead u 0 32 32 (3 :: List.replicate 31 0) ∧ Traps (.circ o) u (plainTrap 0x16 3) :=
  ⟨by decide +kernel, by decide +kernel, by decide +kernel, cell_eq (by decide +kernel), unfenced_of (by decide +kernel),
    by unfold InboxRoom; decide +kernel, by decide +kernel, by decide +kernel, cell_eq (by decide +kernel), traps_of (by decide +kernel)⟩
/-- R201, R202 for thread 1 of tile 0 (launch index 1): the peer on tile 1 has index 3; lanes below level 0, the block and the extent. -/
theorem test_ranks : let sl := fun a => { slotWith (bankA a) with tc := Slot.reset.tc.set 1 1 }
    let s := fun a => { placed (sl a) [] with tile := { (placed (sl a) []).tile with ranks := [(2, rank2), (3, rank2)] } }
    let ends := fun (i : Instr) (a v : DWord) (z : Bool) => nextAnd (exec i (s a)) (fun t => decide (t.bank.a = v ∧ t.bank.f.z = z))
    ends (.rank ⟨0, 0, 0, 0⟩) 0 1 false = true ∧ ends (.rank ⟨2, 0, 0, 0⟩) 1 3 false = true ∧
    ends (.rank ⟨2, 0, 0, 0⟩) 2 (BitVec.allOnes 64) true = true ∧ ends (.rank ⟨3, 0, 0, 0⟩) 4096 (BitVec.allOnes 64) true = true ∧
    ends (.rank ⟨1, 0, 0, 0⟩) 2 0x8000000080120003 false = true ∧
    ends (.tree ⟨0, 0, 0, 0⟩) 0 2 false = true ∧ ends (.tree ⟨1, 0, 0, 0⟩) 0 1 false = true ∧ ends (.tree ⟨3, 0, 0, 0⟩) 0 1 false = true ∧
    LevelOk (s 0) 0 7 := by
  refine ⟨?_, ?_, ?_, ?_, ?_, ?_, ?_,
    ?_, ?_, ?_, ?_⟩ <;> decide +kernel

/-! ### Remote accesses, atomics, ordering, generations -/

/-- `placed` with a PLB entry of the context's domain for the first 2^20 bytes of bulk memory, and a cell at byte 0 of the address 8;
V[1:0] is 5. -/
def entry0 : Plb := ⟨0, true, true, true, true, 20, 7⟩
def remote (b : Bank) (m : Memory) : State :=
  let s := placed { slotWith b with dom := 7 } m
  { s with tile := { s.tile with plb := s.tile.plb.set 0 entry0 } }
def cell8 : List Byte := 8 :: List.replicate 15 0
def rbank : Bank := { bankA 0x11 with v := Bank.reset.v.set 0 5 }
def rem8 : State := remote rbank [(base64, 8)]
theorem ok8 (need : Rights) (n : Nat) (h : n = 8 ∨ n = 4) : AddressOk rem8 (cellVa cell8) n need .mem := by
  rcases h with rfl | rfl <;>
  exact ⟨by decide +kernel, by decide +kernel, .inr (.inr ⟨by decide +kernel, by decide +kernel, by decide +kernel, by rfl,
    .inr ⟨entry0, by decide +kernel, fun _ => rfl, fun _ => rfl, fun _ => rfl⟩⟩)⟩
def ops (t : State) : List (ReqOp × Option (BitVec 3) × Option (BitVec 3)) := t.slot.niq.map fun r => (r.op, r.rel, r.acq)

/-- R251 to R254: a load, a store of A's low byte, with a post-incremented pointer; a tile window through rank 2; an acquire and a release
at level 0, whose extent is a tile. -/
theorem test_remote : let s := rem8; let o := opD
    (Instr.rld o).wf = true ∧ NiRoom s ∧ Unfenced true false s ∧ Unfenced false true s ∧ CellRead s (plainCell o s) 16 16 cell8 ∧
    AddressOk s (cellVa cell8) (bytesOfSize o.sz) needR .mem ∧ s.bank.free useA = true ∧ s.slot.nb ≠ 0xFFFF ∧
    nextAnd (exec (.rld o) s) (fun t => decide (ops t = [(.load 8 none, none, none)] ∧ t.bank.aPend = true ∧ t.slot.nb = 0)) = true ∧
    nextAnd (exec (.rst opB) s) (fun t => decide (ops t = [(.store [some 0x11], none, none)] ∧ t.slot.nb = 1)) = true ∧
    CellRead s (orderCell o s) 16 16 cell8 ∧ OrderLevel s o 2 ∧ s.slot.entered = .no ∧
    nextAnd (exec (.rldAcq o) s) (fun t => decide (ops t = [(.load 8 none, none, some 2)] ∧ t.slot.wait = some .acquire)) = true ∧
    nextAnd (exec (.rstRel o) s) (fun t => decide (ops t = [(.store (lowBytes 8 0x11), some 2, none)] ∧ t.slot.nb = 1)) = true := by
  refine ⟨?_, by unfold NiRoom; decide +kernel, unfenced_of (by decide +kernel), unfenced_of (by decide +kernel),
    cell_eq (by decide +kernel), ok8 _ _ (.inl rfl), ?_, ?_, ?_, ?_,
    cell_eq (by decide +kernel), ⟨⟨?_, ?_, ?_⟩, ?_⟩, ?_,
    ?_, ?_⟩ <;> decide +kernel
/-- R255 with M = 1, and with M = 0, where nothing is sent. The address lies in a tile window of rank 2, which needs no PLB entry. -/
theorem test_remote_vector : let w : List Byte := [0, 0, 0, 0, 0, 2, 0, 0, 0xC0, 0, 0, 0, 0, 0, 0, 0]
    let m : Memory := [(base64 + 5, 2), (base64 + 8, 0xC0)]
    let s := remote { rbank with f := { Flags.reset with m := 1 } } m; let z := remote { rbank with f := { Flags.reset with m := 0 } } m
    (Instr.rldv opD).wf = true ∧ s.bank.free useV = true ∧ CellRead s (plainCell opD s) 16 16 w ∧
    AddressOk s (cellVa w) 32 needR (.tile 0 5 65 1) ∧ s.bank.f.m ≠ 0 ∧ z.bank.f.m = 0 ∧
    nextAnd (exec (.rldv opD) s) (fun t => decide (ops t = [(.load 32 (some 1), none, none)] ∧ t.bank.vPend = true)) = true ∧
    nextAnd (exec (.rstv opD) s) (fun t => decide (ops t = [(.store ([some 5, some 0, some 0, some 0] ++ List.replicate 28 none), none, none)]
      ∧ t.slot.nb = 1)) = true ∧
    Completes (.rldv opD) z z ∧ Completes (.rstv opD) z z := by
  refine ⟨?_, ?_, cell_eq (by decide +kernel),
    ⟨?_, ?_, .inl ⟨?_, ⟨?_, ?_, ?_, 5,
      ?_, ?_⟩, ?_⟩⟩,
    ?_, ?_, ?_, ?_, completes_of (by decide +kernel),
    completes_of (by decide +kernel)⟩ <;> decide +kernel
/-- R242, R257: an acquire that is done, one that waits, and one whose error is raised with the pointer back. -/
theorem test_acquire_end : let at_ := fun (e : Option Trap) (d : Bool) => placed { slotWith (bankA 0) with
      entered := .acquire 1 ⟨4, 8⟩ e d } []
    (Instr.rldAcq opD).wf = true ∧ (Instr.acas ⟨0, false, 0, 3, 2, 0⟩).wf = true ∧ (at_ none true).bank.free useAll = true ∧
    nextAnd (exec (.rldAcq opD) (at_ none true)) (fun t => decide (t.slot.entered = .no ∧ t.bank.pc = 6)) = true ∧
    nextAnd (exec (.rldAcq opD) (at_ none false)) (fun t => decide (t.slot.wait = some .acquire ∧ t.bank.pc = 5)) = true ∧
    nextAnd (exec (.acas ⟨0, false, 0, 3, 2, 0⟩) (at_ (some (plainTrap 0x11 8)) true))
      (fun t => decide (t.slot.tcause = 0x11 ∧ t.slot.user.ptr 1 = ⟨4, 8⟩ ∧ t.slot.tpc = 5)) = true := by decide +kernel
/-- R212, R252 in their order: VA[39] of a tile window, space 0xE for a user, an odd address, rank 3, no PLB entry. -/
theorem test_remote_traps : let at_ := fun (m : Memory) => remote rbank m
    let trapsAs := fun (c : BitVec 8) (m : Memory) => nextAnd (exec (.rld opD) (at_ m)) (fun t => decide (t.slot.tcause = c))
    Unfenced true false (at_ [(base64 + 4, 0x80), (base64 + 8, 0xC0)]) ∧
    CellRead (at_ [(base64, 1)]) (plainCell opD (at_ [(base64, 1)])) 16 16 (1 :: List.replicate 15 0) ∧
    trapsAs 0x10 [(base64 + 4, 0x80), (base64 + 8, 0xC0)] = true ∧ trapsAs 0x02 [(base64 + 8, 0xE0)] = true ∧
    trapsAs 0x03 [(base64, 1)] = true ∧ trapsAs 0x16 [(base64 + 5, 3), (base64 + 8, 0xC0)] = true ∧
    trapsAs 0x10 [(base64 + 2, 0x10)] = true :=
  ⟨unfenced_of (by decide +kernel), cell_eq (by decide +kernel), by decide +kernel, by decide +kernel, by decide +kernel,
    by decide +kernel, by decide +kernel⟩
/-- The same of the other forms: a store and an acquire of the device space, a vector load at 8, a release and a remote atomic of which
the entry gives no right, and an ordering atomic at an odd address. -/
theorem test_remote_form_traps : let at_ := fun (m : Memory) => remote rbank m
    let ro := { rem8 with tile := { rem8.tile with plb := rem8.tile.plb.set 0 { entry0 with w := false } } }
    let as_ := fun (i : Instr) (s : State) (c : BitVec 8) => nextAnd (exec i s) (fun t => decide (t.slot.tcause = c ∧ t.slot.tpc = 5))
    let r := fun (src : BitVec 2) => (⟨0, false, 0, 2, src, 0⟩ : SOp)
    RemoteForm (r 1) (.rst (r 1)) useA false 4 needW false true ∧ RemoteForm (r 1) (.rldv (r 1)) useV false 32 needR true false ∧
    RemoteForm (r 3) (.aadd (r 3)) useAll true 4 needRWA true true ∧ RemoteForm (r 0) (.rstRel (r 0)) useA true 4 needW false true ∧
    OrderLevel ro (r 3) 2 ∧ Unfenced true true ro ∧ ro.slot.entered = .no ∧ ro.bank.free useAll = true ∧
    as_ (.rst opD) (at_ [(base64 + 8, 0xE0)]) 0x02 = true ∧ as_ (.rldAcq opD) (at_ [(base64 + 8, 0xD0)]) 0x02 = true ∧
    as_ (.rldv opD) (at_ [(base64, 8)]) 0x03 = true ∧ as_ (.rstRel opD) ro 0x10 = true ∧ as_ (.amax (r 1)) ro 0x10 = true ∧
    as_ (.acas (r 3)) (at_ [(base64, 2)]) 0x03 = true ∧ as_ (.rstv opD) (at_ [(base64 + 5, 3), (base64 + 8, 0xC0)]) 0x16 = true :=
  ⟨by simp [RemoteForm, bytesOfSize], by simp [RemoteForm], by simp [RemoteForm, bytesOfSize, amoTable], by simp [RemoteForm, bytesOfSize],
    ⟨⟨by decide +kernel, by decide +kernel, by decide +kernel⟩, by decide +kernel⟩, unfenced_of (by decide +kernel), by decide +kernel,
    by decide +kernel, by decide +kernel, by decide +kernel, by decide +kernel, by decide +kernel, by decide +kernel, by decide +kernel,
    by decide +kernel⟩
/-- R260: `AADD` of 0x11 to 8; `ACAS` with the expected value 5 against 5, and against 8, where it writes nothing. -/
theorem test_atomics : let s := rem8; let u := remote rbank [(base64, 5)]
    (Instr.aadd opD).wf = true ∧ Tidy s ∧ Unfenced true true s ∧ Unfenced true false s ∧ s.bank.free useAll = true ∧
    CellRead s (plainCell opD s) 8 8 [8, 0, 0, 0, 0, 0, 0, 0] ∧ planeGate true (plainCell opD s).toNat 8 s = .ok () ∧
    nextAnd (exec (.aadd opD) s) (fun t => decide (t.bank.a = 8 ∧ t.mem = [(base64, 0x19)] ∧ t.bank.f = s.bank.f)) = true ∧
    nextAnd (exec (.acas opD) u) (fun t => decide (t.bank.a = 5 ∧ t.mem = [(base64, 0x11)] ∧ t.bank.f.z = true)) = true ∧
    nextAnd (exec (.acas opD) s) (fun t => decide (t.bank.a = 8 ∧ t.mem = s.mem ∧ t.bank.f.z = false)) = true :=
  ⟨by decide +kernel, ⟨by decide +kernel, by decide +kernel⟩, unfenced_of (by decide +kernel), unfenced_of (by decide +kernel),
    by decide +kernel, cell_eq (by decide +kernel), isOk_eq (by decide +kernel), by decide +kernel, by decide +kernel, by decide +kernel⟩
/-- R260: the remote forms, plain, acquire and release. -/
theorem test_remote_atomics : let s := rem8; let o := fun (src : BitVec 2) => (⟨0, false, 0, 2, src, 0⟩ : SOp)
    (Instr.amax (o 1)).wf = true ∧ AddressOk s (cellVa cell8) 4 needRWA .mem ∧ CellRead s (plainCell (o 1) s) 16 16 cell8 ∧
    CellRead s (orderCell (o 2) s) 16 16 cell8 ∧ OrderLevel s (o 2) 2 ∧
    nextAnd (exec (.amax (o 1)) s) (fun t => decide (ops t = [(.amo .amax 4 0x11 5, none, none)] ∧ t.bank.aPend = true ∧
      t.bank.zPend = false ∧ t.slot.nb = 0)) = true ∧
    nextAnd (exec (.acas (o 2)) s) (fun t => decide (ops t = [(.amo .acas 4 0x11 5, none, some 2)] ∧ t.bank.zPend = true ∧
      t.slot.wait = some .acquire)) = true ∧
    nextAnd (exec (.aswp (o 3)) s) (fun t => decide (ops t = [(.amo .aswp 4 0x11 5, some 2, none)] ∧ t.bank.pc = 6)) = true := by
  refine ⟨?_, ok8 _ _ (.inr rfl), cell_eq (by decide +kernel), cell_eq (by decide +kernel),
    ⟨⟨?_, ?_, ?_⟩, ?_⟩, ?_, ?_, ?_⟩ <;> decide +kernel
/-- R261, R262: a fence of all kinds at level 0 over one posted store; then a store waits; `WAITC` of NB at 0 and at 1. -/
theorem test_ordering : let acc : Acc := ⟨0, false, true, false, false⟩
    let s := placed { slotWith (bankA 0) with nb := 1, accs := [acc], nextSeq := 1 } []
    let f := placed { slotWith (bankA 0) with nb := 1, accs := [acc], nextSeq := 1, fences := [⟨0xF, 2, 1⟩] } []
    (Instr.fence 0xF0).wf = true ∧ LevelOk s 0 7 ∧ parkedOwn s = false ∧
    nextAnd (exec (.fence 0xF0) s) (fun t => decide (t.slot.fences = [⟨0xF, 2, 1⟩] ∧ t.bank.pc = 6)) = true ∧
    nextAnd (exec (.fence 0xF1) s) (fun t => decide (t.slot.fences = [] ∧ t.bank.pc = 6)) = true ∧
    isOk (fenceGate false true f) = false ∧ isOk (fenceGate false true s) = true ∧
    nextAnd (exec (.waitc 0x11) s) (fun t => decide (t.bank.pc = 6)) = true ∧
    nextAnd (exec (.waitc 0x01) s) (fun t => decide (t.slot.wait = some .counter ∧ t.bank.pc = 5)) = true := by
  refine ⟨?_, ⟨?_, ?_, ?_⟩, ?_, ?_, ?_,
    ?_, ?_, ?_, ?_⟩ <;> decide +kernel
/-- R263: granule 0 own, granule 64 void and claimed by `GTAG #1`, the next value ahead. -/
theorem test_gtag : let s := threadA 0x8800 [(2048, 7)]; let u := { threadA 0 [] with tile := { (threadA 0 []).tile with tags := [(0, 0)] } }
    (Instr.gtag 1).wf = true ∧ s.bank.free useAF = true ∧ Tidy s ∧ Unfenced false true s ∧ Unfenced false true u ∧ Tidy u ∧
    TagIs s 2048 .stale ∧ TagIs u 0 .ahead ∧ TagIs (threadA 0 []) 0 .own ∧
    Completes (.gtag 0) (threadA 5 []) (let t := threadA 5 []; t.setBank { t.bank with a := 0, f := ⟨0xFF, false, true, false, false⟩ }) ∧
    nextAnd (exec (.gtag 1) s) (fun t => decide (t.bank.a = 1 ∧ t.bank.f.z = false ∧ t.tile.tag 64 = 3 ∧ t.mem = [])) = true ∧
    nextAnd (exec (.gtag 0) u) (fun t => decide (t.bank.a = 2)) = true ∧ Traps (.gtag 1) u (plainTrap 0x06 0) :=
  ⟨by decide +kernel, by decide +kernel, ⟨by decide +kernel, by decide +kernel⟩, unfenced_of (by decide +kernel),
    unfenced_of (by decide +kernel), ⟨by decide +kernel, by decide +kernel⟩, by unfold TagIs; decide +kernel,
    by unfold TagIs; decide +kernel, by unfold TagIs; decide +kernel, completes_of (by decide +kernel), by decide +kernel,
    by decide +kernel, traps_of (by decide +kernel)⟩
/-- R264: granules 0 to 1 of generation 3 move to the next value, 0, and the sweep for 1 starts; with that sweep under way the next one
waits. -/
theorem test_gnew : let s := threadA 0 []; let u := { s with tile := { s.tile with sweepPos := 5 } }
    (Instr.gnew 1).wf = true ∧ s.bank.free useA = true ∧ s.slot.isHandler = false ∧ Tidy s ∧ s.slot.entered = .no ∧ s.slot.ne = 0 ∧
    s.slot.quiet = true ∧ s.tile.swept s.tile.nextValue = true ∧
    nextAnd (exec (.gnew 1) s) (fun t => decide (t.slot.gen = 0 ∧ t.bank.a = 0 ∧ t.tile.cur = 0 ∧ t.tile.tag 1 = 0 ∧ t.tile.tag 2 = 3 ∧
      t.tile.sweepPos = 0 ∧ t.tile.sweepVal = 1)) = true ∧
    u.tile.swept u.tile.nextValue = false ∧
    nextAnd (exec (.gnew 1) u) (fun t => decide (t.slot.wait = some .sweep ∧ t.slot.entered = .gnew none ∧ t.slot.gen = 3)) = true := by
  refine ⟨by decide +kernel, by decide +kernel, by decide +kernel, ⟨by decide +kernel, by decide +kernel⟩, ?_⟩
  decide +kernel

/-! ### Engines -/

/-- Little-endian doublewords at an address of tile 64's scratchpad. -/
def dwords (a : Nat) (ws : List DWord) : Memory :=
  (List.range (8 * ws.length)).filterMap fun j =>
    let b : Byte := (ws.getD (j / 8) 0).extractLsb' (8 * (j % 8)) 8
    if b = 0 then none else some (base64 + a + j, b)
def engine (b : Bank) (ws : List DWord) : State := remote b (dwords 0 ws)
def owned (b : Bank) (ws : List DWord) : State :=
  let s := engine b ws
  { s with tile := { s.tile with owner := some 0 } }
def eop : EOp := ⟨0, 0, false, 0, 0, 0⟩
/-- A bank whose P1 is at byte 64, and configuration a = 8, b = 8. -/
def ebank : Bank := { bankA 0 with p := Bank.reset.p.set 1 ⟨16, 64⟩, pcfg := 0x77 }

theorem test_pcfg : (Instr.pcfg ⟨0, 0, false, 1, 0, 0x1FF⟩).wf = true ∧ CounterZero 1 (engine ebank []) ∧
    Completes (.pcfg ⟨0, 0, false, 1, 0, 0x1FF⟩) (engine ebank []) (engine { ebank with pcfg := 0x1FF } []) :=
  ⟨by decide +kernel, cz1 (by decide +kernel), completes_of (by decide +kernel)⟩
/-- R273: 64 bytes of A at 0 and 512 of B at 64, row 7; not the owner; R302: 64 bytes packed into two planes. -/
theorem test_plane_commands : let s := owned ebank []; let u := engine ebank []; let o : EOp := ⟨0, 1, true, 0, 7, 0⟩
    let k : EOp := ⟨0, 1, false, 0, 0, 0x021⟩
    (Instr.pdot o).wf = true ∧ OwnsMa s ∧ PlaneRoom s ∧ PlaneRoom u ∧ SpanOk s (firstEa o s) 64 false ∧ SpanOk s (secondEa o s) 512 false ∧
    nextAnd (exec (.pdot o) s) (fun t => decide (t.tile.planeQ = [⟨.pdot, 0, 0, 0x77, 7, 0, 64⟩] ∧ t.slot.ne = 1 ∧
      t.bank.ptr 1 = ⟨16, 80⟩)) = true ∧
    ¬ OwnsMa u ∧ Traps (.pdot o) u (plainTrap 0x1C 0) ∧ (Instr.ppack k).wf = true ∧
    SpanOk u 8 64 false ∧ SpanOk u 64 16 true ∧ SpanOk u 8 16 false ∧ SpanOk u 64 64 true ∧
    nextAnd (exec (.ppack k) u) (fun t => decide (t.tile.planeQ = [⟨.ppack, 0, 0, 1, 0, 8, 64⟩])) = true ∧
    nextAnd (exec (.punpk k) u) (fun t => decide (t.tile.planeQ = [⟨.punpk, 0, 0, 1, 0, 8, 64⟩])) = true := by
  refine ⟨by decide +kernel, by unfold OwnsMa; decide +kernel, ⟨unfenced_of (by decide +kernel), by decide +kernel, by decide +kernel⟩,
    ⟨unfenced_of (by decide +kernel), by decide +kernel, by decide +kernel⟩, ?_, ?_, by decide +kernel, by unfold OwnsMa; decide +kernel,
    traps_of (by decide +kernel), by decide +kernel, ?_, ?_, ?_, ?_, by decide +kernel, by decide +kernel⟩
  all_goals
    refine ⟨by decide +kernel, by decide +kernel, by decide +kernel, fun g h1 h2 => ?_⟩
    have h64 : g < 64 := lt_of_le_of_lt h2 (by decide +kernel)
  · exact .inl ((by decide +kernel : ∀ g < 64, (owned ebank []).tile.tagClass (owned ebank []).slot.gen g = .own) g h64)
  · exact .inl ((by decide +kernel : ∀ g < 64, (owned ebank []).tile.tagClass (owned ebank []).slot.gen g = .own) g h64)
  · exact .inl ((by decide +kernel : ∀ g < 64, (engine ebank []).tile.tagClass (engine ebank []).slot.gen g = .own) g h64)
  · exact (by decide +kernel : ∀ g < 64, (engine ebank []).tile.tagClass (engine ebank []).slot.gen g ≠ .ahead) g h64
  · exact .inl ((by decide +kernel : ∀ g < 64, (engine ebank []).tile.tagClass (engine ebank []).slot.gen g = .own) g h64)
  · exact (by decide +kernel : ∀ g < 64, (engine ebank []).tile.tagClass (engine ebank []).slot.gen g ≠ .ahead) g h64
/-- R279, R280, R304 to R307: taking a free MA; giving it up, and marking it while a `PDOT` is owed; reading row 2 and clearing it; the
watermark 8 with MASAT; clearing MASAT; and not the owner. -/
theorem test_macc : let u := engine ebank []
    let own := fun (f : Tile → Tile) => { owned ebank [] with tile := f (owned ebank []).tile }
    let s := own fun tl => { tl with ma := tl.ma.set 2 (Vector.replicate 8 5), masat := true }
    let q := own fun tl => { tl with planeQ := [⟨.pdot, 0, 0, 0, 3, 0, 0⟩] }
    u.tile.owner = none ∧ u.bank.free useAll = true ∧ OwnsMa s ∧ OwnsMa q ∧ q.tile.pdotOwed = true ∧ s.tile.pdotOwed = false ∧
    nextAnd (exec (.maclm eop) u) (fun t => decide (t.tile.owner = some 0 ∧ t.bank.f.z = false)) = true ∧
    nextAnd (exec (.maclm eop) s) (fun t => decide (t.tile.owner = some 0 ∧ t.bank.f.z = false)) = true ∧
    nextAnd (exec (.marel eop) s) (fun t => decide (t.tile.owner = none)) = true ∧
    nextAnd (exec (.marel eop) q) (fun t => decide (t.tile.owner = some 0 ∧ t.tile.rel = true)) = true ∧
    (∀ r : BitVec 3, r ≤ 2 → s.tile.rowPending r = false) ∧
    nextAnd (exec (.mard ⟨0, 0, false, 0, 2, 1⟩) s) (fun t => decide (t.bank.v = Vector.replicate 8 5 ∧ t.tile.ma = Tile.reset.ma)) = true ∧
    q.tile.mawm = 3 ∧ s.tile.mawm = 8 ∧
    nextAnd (exec (.mawm ⟨0, 0, false, 0, 0, 8⟩) s) (fun t => decide (t.bank.a = 0x108 ∧ t.bank.f.z = true)) = true ∧
    nextAnd (exec (.mawm ⟨0, 0, false, 0, 0, 3⟩) q) (fun t => decide (t.bank.a = 3 ∧ t.bank.f.z = false)) = true ∧
    nextAnd (exec (.maclr ⟨0, 0, false, 0, 0, 0x104⟩) s) (fun t => decide (t.tile.ma = Tile.reset.ma ∧ t.tile.masat = false)) = true ∧
    ¬ OwnsMa u ∧ Traps (.mawm eop) u (plainTrap 0x1C 0) ∧ Traps (.marel eop) u (plainTrap 0x1C 0) := by
  refine ⟨?_, ?_, by unfold OwnsMa; decide +kernel, by unfold OwnsMa; decide +kernel, ?_,
    ?_, ?_, ?_, ?_, ?_, ?_, ?_,
    ?_, ?_, ?_, ?_, ?_, by unfold OwnsMa; decide +kernel,
    traps_of (by decide +kernel), traps_of (by decide +kernel)⟩ <;> decide +kernel

/-- Table 16.1: 16 bytes, 2 rows, from byte 64 with stride 32 to byte 128 with stride 16, both sides local. -/
def copyBlock : List DWord := [64, 128, 0x0000C00002000010, 0x0000002000000010]
def copyD (ws : List DWord) : Vector DWord 4 := #v[ws.getD 0 0, ws.getD 1 0, ws.getD 2 0, ws.getD 3 0]
theorem test_copy : let s := engine ebank copyBlock
    (Instr.cpy eop).wf = true ∧ CellRead s (firstEa eop s) 32 32 (readBytes s.mem base64 32) ∧
    blockOf (readBytes s.mem base64 32) = copyD copyBlock ∧ copyChecks 0 (copyD copyBlock) s = .ok () ∧ Unfenced false true s ∧
    s.tile.copyQ.length < 2 ∧ InboxRoom s ∧ s.slot.ne ≠ 0xFFFF ∧
    nextAnd (exec (.cpy eop) s) (fun t => decide (t.tile.copyQ.map (fun c => (c.dw, c.slot, c.tenant, c.dom)) = [(copyD copyBlock, 0, 3, 7)] ∧
      t.slot.ne = 1)) = true ∧
    Completes (.cpyq eop) s (s.setBank { s.bank with a := 2 }) :=
  ⟨by decide +kernel, cell_eq (by decide +kernel), by decide +kernel, isOk_eq (by decide +kernel), unfenced_of (by decide +kernel),
    by decide +kernel, by unfold InboxRoom; decide +kernel, by decide +kernel, by decide +kernel, completes_of (by decide +kernel)⟩
/-- The cause and the address of a check that fails. -/
def failsAs (e : Except Stop Unit) (c : BitVec 8) (a : DWord) : Bool :=
  match e with | .error (.trap t) => decide (t.cause = c ∧ t.addr = a) | _ => false
/-- R283: zero rows; a destination whose last row ends beyond scratchpad, and one whose stride runs below it; R214 on a VA range: the
entry that holds it, none, and the end of the address space. -/
theorem test_copy_checks : let s := engine ebank []
    failsAs (copyChecks 32 (copyD [64, 128, 0x0000C00000000010, 0]) s) 0x10 32 = true ∧
    failsAs (copyChecks 32 (copyD [64, 0x7FF0, 0x0000C00002000010, 0x10]) s) 0x04 0x7FF0 = true ∧
    failsAs (copyChecks 32 (copyD [64, 0, 0x0000C00002000010, 0xFFFFFFF0]) s) 0x04 0xFFFFFFFFFFFFFFF0 = true ∧
    s.slot.priv = false ∧ s.tile.plb.toList.find? (fun e => e.matchesRange s.slot.dom 0 0x100000) = some entry0 ∧
    rangeCheck 0 0x100000 9 s = .ok () ∧ rangePlb 0 0x100000 needW s = .ok () ∧ s.tile.plb.toList.find? (fun e => e.matchesRange s.slot.dom 8 0x100000) = none ∧
    failsAs (rangePlb 8 0x100008 needW s) 0x10 8 = true ∧
    failsAs (rangeCheck (2 ^ 72 - 8 : Nat) (2 ^ 72 + 8 : Nat) 9 s) 0x10 9 = true :=
  ⟨by decide +kernel, by decide +kernel, by decide +kernel, by decide +kernel, by decide +kernel, isOk_eq (by decide +kernel),
    isOk_eq (by decide +kernel),
    by decide +kernel, by decide +kernel, by decide +kernel⟩
/-- R311: a record of STATUS 0 goes to bytes 16 to 31; the empty inbox; and one that an engine owes. -/
theorem test_inbox : let r : InboxRec := ⟨0x0100000000000040, 9⟩
    let s := remote ebank []; let u := { s with tile := { s.tile with slots := s.tile.slots.set 0 { s.slot with inbox := [r] } } }
    let w := { s with tile := { s.tile with slots := s.tile.slots.set 0 { s.slot with ne := 1 } } }; let o : EOp := ⟨0, 0, false, 0, 0, 16⟩
    (Instr.inbox o).wf = true ∧ s.bank.free useAF = true ∧ Tidy u ∧ InReach (firstEa o u) 16 16 ∧ Unfenced true false u ∧
    u.slot.inbox = [r] ∧ LocalWrite u (firstEa o u) 16 (lowBytes 8 r.w0 ++ lowBytes 8 r.w1) ∧
    nextAnd (exec (.inbox o) u) (fun t => decide (t.bank.a = 0x0100000000000040 ∧ t.bank.f.c = true ∧ t.bank.f.z = true ∧ t.slot.inbox = [] ∧
      t.mem = [(base64 + 16, 0x40), (base64 + 23, 1), (base64 + 24, 9)])) = true ∧
    s.slot.inbox = [] ∧ s.tile.engineNe s.cur = 0 ∧
    nextAnd (exec (.inbox o) s) (fun t => decide (t.bank.a = 0 ∧ t.bank.f.c = false ∧ t.bank.f.z = true)) = true ∧
    w.tile.engineNe w.cur ≠ 0 ∧ exec (.inbox o) w = .next (w.setSlot { w.slot with wait := some .inbox }) :=
  ⟨by decide +kernel, by decide +kernel, ⟨by decide +kernel, by decide +kernel⟩, by unfold InReach; decide +kernel,
    unfenced_of (by decide +kernel), by decide +kernel, writes_eq (by decide +kernel), by decide +kernel, by decide +kernel,
    by decide +kernel, by decide +kernel, by decide +kernel, answers_eq (by decide +kernel)⟩
/-- Tables 17.4, 17.5: one row of MXFP4 from VA 0 into bin 4,095; rows 3 to 5 of that bin, activations at 1,024, results at 64. -/
theorem test_granary : let s := engine ebank [0, 0x0000000000000FFF]; let u := engine ebank [0x0005000300400400, 0xFFF]
    (Instr.grnw eop).wf = true ∧ (Instr.grn eop).wf = true ∧ CellRead s (firstEa eop s) 32 32 (readBytes s.mem base64 32) ∧
    (readBytes s.mem base64 32).length = 32 ∧ ((readBytes s.mem base64 32).drop 16).all (· == 0) = true ∧ Unfenced false true s ∧
    InboxRoom s ∧ SlabOk s 0 0 544 ∧
    nextAnd (exec (.grnw eop) s) (fun t => decide (t.gran.map (fun g => (g.load, g.dw)) = [(true, #v[0, 0xFFF])] ∧ t.slot.ne = 1)) = true ∧
    CellRead u (firstEa eop u) 32 32 (readBytes u.mem base64 32) ∧
    nextAnd (exec (.grn eop) u) (fun t => decide (t.gran.map (fun g => (g.load, g.dw)) = [(false, #v[0x0005000300400400, 0xFFF])] ∧
      t.slot.ne = 1)) = true :=
  ⟨by decide +kernel, by decide +kernel, cell_eq (by decide +kernel), by decide +kernel, by decide +kernel, unfenced_of (by decide +kernel),
    by unfold InboxRoom; decide +kernel, ⟨by decide +kernel, isOk_eq (by decide +kernel), isOk_eq (by decide +kernel)⟩, by decide +kernel, cell_eq (by decide +kernel),
    by decide +kernel⟩
/-- R314, R315: a contribution at level 0; one at the lane-bound level 2 is its own result; a second; the result taken, waited for, absent. -/
theorem test_collectives : let s := placed (slotWith (bankA 6)) []
    let h := fun (r : Option DWord) => placed { slotWith (bankA 0) with wave := some ⟨0, 0, 6, 1, r⟩ } []
    let o : COp := ⟨0, 0, 0, 1⟩; let e : COp := ⟨0, 0, 0, 0⟩
    s.slot.isHandler = false ∧ s.bank.free useAF = true ∧ (Instr.coll o).wf = true ∧ LevelOk s 0 6 ∧ s.tile.extent 0 < 3 ∧ LevelOk s 2 6 ∧
    bindAt s.tile.levels 2 = 0 ∧
    nextAnd (exec (.coll o) s) (fun t => decide (t.slot.wave = some ⟨0, 1, 6, 1, none⟩ ∧ t.waves.map (·.contribs) = [[(0, 1, 6)]])) = true ∧
    nextAnd (exec (.coll ⟨0, 2, 0, 1⟩) s) (fun t => decide (t.slot.wave = some ⟨2, 1, 6, 0, some 6⟩)) = true ∧
    Traps (.coll o) (h none) (plainTrap 0x18 17) ∧
    Completes (.collw e) s (s.setBank { s.bank with f := ⟨0xFF, false, true, false, false⟩ }) ∧
    exec (.collw e) (h none) = .next ((h none).setSlot { (h none).slot with wait := some .wave }) ∧
    nextAnd (exec (.collw e) (h (some 6))) (fun t => decide (t.bank.a = 6 ∧ t.bank.f.z = false ∧ t.slot.wave = none)) = true := by
  refine ⟨?_, ?_, ?_, ⟨?_, ?_, ?_⟩, ?_,
    ⟨?_, ?_, ?_⟩, ?_, ?_, ?_,
    traps_of (by decide +kernel), completes_of (by decide +kernel), answers_eq (by decide +kernel), ?_⟩ <;> decide +kernel

/-! ### System instructions -/

def supBank (f : Bank → Bank) (s : State) : State := withSlot (fun sl => { sl with sup := f sl.sup }) (inSup s)
/-- R363: %TILE of tile 64 (X = 8), %DOM; %TVEC in user privilege; 0x1C is unassigned. -/
theorem test_gets : let s := remote (bankA 0) []
    (Instr.gets 1).wf = true ∧ s.bank.free useA = true ∧ assigned 0x4F ∧ ¬ assigned 0x1C ∧ s.slot.priv = false ∧
    Completes (.gets 1) s (s.setBank { s.bank with a := 0x800 }) ∧ Completes (.gets 3) s (s.setBank { s.bank with a := 7 }) ∧
    Completes (.gets 0x30) s (s.setBank { s.bank with a := 2 }) ∧
    Traps (.gets 0x11) s (plainTrap 0x02 0x11) ∧ Traps (.gets 0x1C) s (plainTrap 0x01 5) ∧
    Completes (.gets 0x11) (inSup s) ((inSup s).setBank { (inSup s).bank with a := 0x3000 }) :=
  ⟨by decide +kernel, by decide +kernel, by unfold assigned; decide, by unfold assigned; decide, by decide +kernel,
    completes_of (by decide +kernel), completes_of (by decide +kernel), completes_of (by decide +kernel), traps_of (by decide +kernel),
    traps_of (by decide +kernel), completes_of (by decide +kernel)⟩
/-- R363, Tables 19.1 to 19.4, 22.2: a budget of 0; %TVEC outside segment 3; a read-only register; %TMSG released past its message. -/
theorem test_sets : let s := fun (a : DWord) => supBank (fun b => { b with a := a }) (threadA a [])
    let h := fun (a : DWord) => supBank (fun b => { b with a := a }) (withSlot (fun sl => { sl with
      tmsg := ⟨1, true, 5⟩ }) { threadA 0 [] with tile := { (threadA 0 []).tile with hold := Tile.reset.hold.set 1 true } })
    (Instr.sets 0x12).wf = true ∧ (s 0).bank.free useA = true ∧ writable true 0x12 ∧ (s 0).slot.priv = true ∧
    nextAnd (exec (.sets 0x12) (s 0)) (fun t => decide (t.slot.wdogb = 65536)) = true ∧
    nextAnd (exec (.sets 0x11) (s 0x2000)) (fun t => decide (t.slot.tvec = 0x3000)) = true ∧
    nextAnd (exec (.sets 0x11) (s 0x3456)) (fun t => decide (t.slot.tvec = 0x3456)) = true ∧
    nextAnd (exec (.sets 0x0E) (s 0xC001000000000042)) (fun t => decide (t.slot.taddrx = ⟨true, true, 1, 0x42⟩)) = true ∧
    assigned 0 ∧ ¬ writable true 0 ∧ nextAnd (exec (.sets 0) (s 9)) (fun t => decide (t.slot.dom = 0 ∧ t.bank.pc = 0x3009)) = true ∧
    (h 0x40000).slot.tmsg.hold = true ∧
    nextAnd (exec (.sets 0x10) (h 0x40000)) (fun t => decide (t.slot.tmsg = ⟨1, false, 5⟩ ∧ t.tile.hold[1] = false)) = true ∧
    nextAnd (exec (.sets 0x10) (h 0x60000)) (fun t => decide (t.slot.tmsg = ⟨1, true, 5⟩)) = true ∧
    Traps (.sets 0x11) (threadA 0 []) (plainTrap 0x02 0x11) ∧ Traps (.sets 0x50) (s 0) (plainTrap 0x01 0x3008) := by
  refine ⟨by decide +kernel, by decide +kernel, by unfold writable; decide, by decide +kernel, by decide +kernel, by decide +kernel,
    by decide +kernel, by decide +kernel, by unfold assigned; decide, by unfold writable; decide, by decide +kernel, by decide +kernel,
    by decide +kernel, by decide +kernel, traps_of (by decide +kernel), traps_of (by decide +kernel)⟩
/-- R167: HEAD within the ring in force up to TAIL; beyond TAIL; a new ring of 256 bytes; not a multiple of 128. -/
theorem test_queue_heads : let s := fun (a : DWord) => thread { bankA a with pc := 5 } []
    let u := fun (a : DWord) => withSlot (fun sl => { sl with rq := sl.rq.set 0 ⟨2, 0x200, 0x280, false, false, false, 0, false, false, 0, 0, []⟩ }) (s a)
    nextAnd (exec (.sets 0x14) (u 0x20280)) (fun t => decide (t.slot.rq[0].head = 0x280 ∧ t.slot.rq[0].tail = 0x280)) = true ∧
    nextAnd (exec (.sets 0x14) (u 0x20300)) (fun t => decide (t.slot.rq[0].head = 0x200)) = true ∧
    nextAnd (exec (.sets 0x14) (u 0x10100)) (fun t => decide (t.slot.rq[0].head = 0x100 ∧ t.slot.rq[0].tail = 0x100 ∧ t.slot.rq[0].logsz = 1)) = true ∧
    nextAnd (exec (.sets 0x14) (u 0x10101)) (fun t => decide (t.slot.rq[0].head = 0x200 ∧ t.slot.rq[0].logsz = 2)) = true := by
  decide +kernel
/-- R361: `SYSC` completes and then traps, in a frame at its next position; at a segment's end `CODE_SEGMENT` comes in its place. -/
theorem test_calls : let s := threadA 0 []; let r := thread { bankA 0 with rpt := ⟨2, 5, 0, 0, 0, 0⟩ } []
    let e := thread { bankA 0 with pc := 0xFFF } []
    nextAnd (exec (.sysc 0x1234) s) (fun t => decide (t.slot.tcause = 0x20 ∧ t.slot.taddr = 0x1234 ∧ t.slot.tpc = 6 ∧ t.slot.user.pc = 6)) = true ∧
    nextAnd (exec (.trap 1) r) (fun t => decide (t.slot.tcause = 0x21 ∧ t.slot.tpc = 5 ∧ t.slot.user.rpt.count = 1)) = true ∧
    e.bank.rpt.count = 0 ∧ e.bank.pc.toNat % 4096 = 4095 ∧
    nextAnd (exec (.trap 1) e) (fun t => decide (t.slot.tcause = 0x08 ∧ t.slot.tpc = 0xFFF)) = true ∧
    ¬ AtEnd s := by
  refine ⟨by decide +kernel, by decide +kernel, by decide +kernel, by decide +kernel, by decide +kernel, ?_⟩
  unfold AtEnd; decide +kernel
/-- R362: the return resumes at %TPC and clears a frame that does not stand there; a handler's slot becomes free; in user privilege. -/
theorem test_eret : let s := inSup (withSlot (fun sl => { sl with tpc := 9 }) (thread { bankA 3 with rpt := ⟨2, 5, 1, 0, 0, 0⟩ } []))
    let h := withSlot (fun sl => { sl with hnd := true }) s
    s.slot.priv = true ∧ windowOwed s = false ∧ s.slot.hnd = false ∧
    nextAnd (exec (.eret 0) s) (fun t => decide (t.slot.priv = false ∧ t.slot.st = .user ∧ t.bank = { bankA 3 with pc := 9 })) = true ∧
    h.slot.hnd = true ∧ nextAnd (exec (.eret 0) h) (fun t => decide (t.slot.st = .empty ∧ t.slot.priv = false)) = true ∧
    Traps (.eret 0) (threadA 0 []) (plainTrap 0x02 0) := by
  refine ⟨?_, ?_, ?_, ?_, ?_, ?_, traps_of (by decide +kernel)⟩ <;> decide +kernel
/-- R372: a return waits for a load of its own from the context window (space 0xE). -/
theorem test_eret_waits : let r : Req := ⟨0, 0, 0, 0, true, 0, 0, 0, 0, 0xE03000000000000000, .load 8 none, .config, none, none, 0, false, 0⟩
    let s := withSlot (fun sl => { sl with niq := [r] }) (inSup (threadA 0 []))
    windowOwed s = true ∧ exec (.eret 0) s = .next (s.setSlot { s.slot with wait := some .fence }) :=
  ⟨by decide +kernel, answers_eq (by decide +kernel)⟩
/-- R29, R365: the owner of MA ends; a counter that is not zero; a handler. -/
theorem test_exit : let s := placed { slotWith (bankA 7) with inbox := [⟨1, 2⟩] } []
    let m := { s with tile := { s.tile with owner := some 0 }, launches := [{ record9 with threads := [⟨64, 0, [0, 0, 0], false⟩] }] }
    let w := placed { slotWith (bankA 7) with ne := 1 } []
    Tabled m ∧ m.slot.st ≠ .handler ∧ m.slot.nb = 0 ∧ m.slot.nm = 0 ∧ m.slot.ne = 0 ∧ m.slot.quiet = true ∧
    nextAnd (exec (.exit 0) m) (fun t => decide (t.slot.st = .empty ∧ t.slot.user = Bank.reset ∧ t.slot.inbox = [] ∧ t.tile.owner = none ∧
      t.launches.map (fun l => l.threads.map (·.ended)) = [[true]])) = true ∧
    exec (.exit 0) w = .next (w.setSlot { w.slot with wait := some .quiet }) ∧
    Traps (.exit 0) (handler64 []) (plainTrap 0x18 16) := by
  refine ⟨⟨?_, ?_⟩, ?_, ?_, ?_, ?_, ?_, ?_,
    answers_eq (by decide +kernel), traps_of (by decide +kernel)⟩ <;> decide +kernel
/-- R366: the record of `HALT #0x42` at 0x3008. -/
theorem test_halt : let s := inSup (threadA 0 [])
    (Instr.halt 0x42).wf = true ∧ s.slot.priv = true ∧
    nextAnd (exec (.halt 0x42) s) (fun t => decide (t.slot.halted = true ∧ t.faults = [⟨0x30080042, 0, 0, 0, 0, 0, 14, 0⟩])) = true ∧
    Traps (.halt 0x42) (threadA 0 []) (plainTrap 0x02 0) :=
  ⟨by decide +kernel, by decide +kernel, by decide +kernel, traps_of (by decide +kernel)⟩
/-- R367: a record at byte 64 to queue 511, bound to tenant 3; a queue of no tenant; byte 32; the record beyond scratchpad. -/
theorem test_launch : let s := fun (a : DWord) => { remote (bankA a) [(base64 + 64, 5)] with queues := [(511, (3, 0))] }
    (Instr.launch 0x1FF).wf = true ∧ (s 64).bank.free useA = true ∧ Unfenced false true (s 64) ∧ planeGate false 64 64 (s 64) = .ok () ∧
    (s 64).spRead 64 3 false 64 32 = .ok (5 :: List.replicate 31 0) ∧ (s 64).spRead 64 3 false 96 32 = .ok (List.replicate 32 0) ∧
    nextAnd (exec (.launch 0x1FF) (s 64)) (fun t => decide (t.subs.map (fun x => (x.q, x.dw[0], x.block)) = [(511, 5, 64)] ∧ t.slot.ne = 1)) = true ∧
    (SMap.get (512, 0) (s 64).queues 0).1 ≠ (s 64).tile.tenant ∧ Traps (.launch 0) (s 64) (plainTrap 0x15 0) ∧
    Traps (.launch 0x1FF) (s 32) (plainTrap 0x03 32) ∧ Traps (.launch 0x1FF) (s 0x7FE0) (plainTrap 0x04 0x7FE0) :=
  ⟨by decide +kernel, by decide +kernel, unfenced_of (by decide +kernel), isOk_eq (by decide +kernel), by rfl, by rfl, by decide +kernel,
    by decide +kernel, traps_of (by decide +kernel), traps_of (by decide +kernel), traps_of (by decide +kernel)⟩
/-- R368 in a handler with 100 cycles left, in a thread, and in the supervisor. -/
theorem test_wdog : let h := withSlot (fun sl => { sl with hleft := 100 }) handler; let s := threadA 0 []
    h.bank.free useA = true ∧ h.slot.priv = false ∧ h.slot.st = .handler ∧ s.slot.st ≠ .handler ∧
    nextAnd (exec (.wdog 7) h) (fun t => decide (t.bank.a = 100 ∧ t.slot.hleft = 7)) = true ∧
    nextAnd (exec (.wdog 200) h) (fun t => decide (t.bank.a = 100 ∧ t.slot.hleft = 100)) = true ∧
    Completes (.wdog 0) s (s.setBank { s.bank with a := 65536 }) ∧ Traps (.wdog 1) s (plainTrap 0x02 0) ∧
    nextAnd (exec (.wdog 9) (inSup s)) (fun t => decide (t.bank.a = 65536 ∧ t.slot.wdogb = 9)) = true := by
  refine ⟨?_, ?_, ?_, ?_, ?_, ?_,
    completes_of (by decide +kernel), traps_of (by decide +kernel), ?_⟩ <;> decide +kernel
/-- R369: the context's own tenant; another's, which is the supervisor's alone. -/
theorem test_metr : let s := remote (bankA 0) []
    (Instr.metr 0x2015).wf = true ∧ s.bank.free useA = true ∧
    nextAnd (exec (.metr 2) s) (fun t => decide (t.metr.map (fun r => (r.tenant, r.idx)) = [(3, 2)] ∧ t.bank.aPend = true)) = true ∧
    Traps (.metr 0x2015) s (plainTrap 0x02 0) ∧
    nextAnd (exec (.metr 0x2015) (inSup s)) (fun t => decide (t.metr.map (fun r => (r.tenant, r.idx)) = [(1, 5)])) = true :=
  ⟨by decide +kernel, by decide +kernel, by decide +kernel, traps_of (by decide +kernel), by decide +kernel⟩
/-- R370, R371 (Table 11.2): an entry of 2^17 bytes at BASE 2, and at BASE 1, which is not a multiple of its size; invalidating by number,
and by the domain in A. -/
theorem test_plb : let img := fun (base : DWord) => dwords 0 [0x8C44000000000007, base]
    let s := fun (base : DWord) => supBank (fun b => { b with a := 0 }) (withSlot (fun sl => { sl with gen := 3 }) (remote (bankA 0) (img base)))
    let p := supBank (fun b => { b with a := 7 }) (remote (bankA 0) [])
    (Instr.plbw 15).wf = true ∧ (s 2).bank.free useA = true ∧ (s 2).slot.priv = true ∧
    LocalRead (s 2) 0 16 16 (readBytes (s 2).mem base64 16) ∧
    plbImage (readBytes (s 2).mem base64 16) = ⟨2, true, true, true, false, 17, 7⟩ ∧ ¬ Misplaced ⟨2, true, true, true, false, 17, 7⟩ ∧
    nextAnd (exec (.plbw 15) (s 2)) (fun t => decide (t.tile.plb[15] = ⟨2, true, true, true, false, 17, 7⟩ ∧ t.tile.plb[0] = entry0)) = true ∧
    Misplaced (plbImage (readBytes (s 1).mem base64 16)) ∧
    nextAnd (exec (.plbw 15) (s 1)) (fun t => decide (t.slot.halted = true ∧ t.tile.plb[15] = Plb.reset)) = true ∧
    Traps (.plbw 0) (threadA 0 []) (plainTrap 0x02 0) ∧ (Instr.plbi 0x20).wf = true ∧
    nextAnd (exec (.plbi 0) p) (fun t => decide (t.tile.plb[0] = { entry0 with valid := false })) = true ∧
    nextAnd (exec (.plbi 1) p) (fun t => decide (t.tile.plb[0] = entry0)) = true ∧
    nextAnd (exec (.plbi 0x20) p) (fun t => decide (t.tile.plb[0].valid = false)) = true ∧
    Traps (.plbi 0) (threadA 0 []) (plainTrap 0x02 0) :=
  ⟨by decide +kernel, by decide +kernel, by decide +kernel, reads_eq (by decide +kernel), by decide +kernel, by unfold Misplaced; decide,
    by decide +kernel, by unfold Misplaced; decide +kernel, by decide +kernel, traps_of (by decide +kernel), by decide +kernel,
    by decide +kernel, by decide +kernel, by decide +kernel, traps_of (by decide +kernel)⟩

/-! ### Events: contexts -/

def ctx64 (sl : Slot) : State := placed sl []
/-- R327: each pending event alone, an overflow of queue 2 that lost a record, and a handler whose budget is gone. -/
theorem test_event_entry : let u := slotWith (bankA 0); let d : PendErr := ⟨plainTrap 0x10 9⟩
    let q : RQueue := ⟨1, 0, 0, true, true, false, 5, true, false, 0, 0, []⟩
    let s := fun x => ctx64 x
    Unit_ 64 0 ∧ ((s { u with st := .handler, hout := true }).slotAt 64 0).interruptible = true ∧
    nextAnd (exec (.trapEntry 64 0) (s { u with st := .handler, hout := true, derr := [d] }))
      (fun t => decide (t.slot.tcause = 0x1B ∧ t.slot.derr = [d] ∧ t.slot.hnd = true)) = true ∧
    nextAnd (exec (.watchdog 64 0) (s { u with st := .handler, hout := true })) (fun t => decide (t.slot.tcause = 0x1B)) = true ∧
    nextAnd (exec (.trapEntry 64 0) (s { u with derr := [d], perr := [d] }))
      (fun t => decide (t.slot.taddr = 9 ∧ t.slot.st = .supervisor ∧ t.slot.tpc = 5 ∧ t.slot.derr = [] ∧ t.slot.perr = [d])) = true ∧
    nextAnd (exec (.trapEntry 64 0) (s { u with perr := [d], merr := [d] })) (fun t => decide (t.slot.perr = [] ∧ t.slot.merr = [d])) = true ∧
    nextAnd (exec (.trapEntry 64 0) (s { u with merr := [d] })) (fun t => decide (t.slot.merr = [] ∧ t.slot.tcause = 0x10)) = true ∧
    nextReport ((s { u with rq := Slot.reset.rq.set 2 q }).getTile 64) 0 = some (0, 2) ∧
    nextAnd (exec (.trapEntry 64 0) (s { u with rq := Slot.reset.rq.set 2 q }))
      (fun t => decide (t.slot.tcause = 0x14 ∧ t.slot.taddr = 0x100050002 ∧ t.slot.rq[2].report = false ∧ t.slot.rq[2].ovf = true)) = true := by
  unfold Unit_; decide +kernel
theorem test_preemption_event : let s := ctx64 { slotWith (bankA 0) with stopReq := true }
    (s.slotAt 64 0).interruptible = true ∧ (s.slotAt 64 0).st = .user ∧ (s.getTile 64).trapPending 0 = false ∧
    nextAnd (exec (.preemptionEvent 64 0) s) (fun t => decide (t.slot.st = .stopping ∧ t.slot.user = s.slot.user)) = true := by
  decide +kernel
/-- R328: a message check of a context that waits for a parked load is held, a running one's is not; a handler over its budget aborts
inside an acquire for it. R348: an acquire held behind a parked circuit stops. -/
theorem test_held_events : let d : PendErr := ⟨plainTrap 0x10 9⟩
    let load : Req := ⟨1, 64, 0, 0, false, 0, 3, 7, 5, 8, .load 8 none, .mem, none, none, 0, false, 0⟩
    let parked := fun (acq : Option (BitVec 3)) (s : State) =>
      { s with flights := [⟨{ load with acq := acq }, .parked ⟨0, 0, 7, 0, 0, false⟩⟩] }
    let waits := parked none { (remote { bankA 0 with aPend := true } []) with
      mem := writeBytes [] (loftBase 1 + 20) (bytesOf 4 ((encode (.rst ⟨0, false, 0, 3, 0, 0⟩)).headD 0)) }
    let acq : Entered := .acquire 0 ⟨0, 0⟩ none false
    let spent := parked (some 2) (ctx64 { slotWith (bankA 0) with st := .handler, hout := true, entered := acq })
    let c : Circuit := ⟨.message, 3, 64, 0, 65, 1, [1], true, false, [], 0, [], [], 0, 0⟩
    let due : Req := { load with acq := some 2, route := .tile 0 5 65 1 }
    let wins := { ctx64 { slotWith (bankA 0) with stopReq := true, entered := acq, niq := [due] } with circuits := [(5, c)] }
    abortDue spent 64 0 = true ∧
    nextAnd (exec (.trapEntry 64 0) spent) (fun t => decide (t.slot.tcause = 0x1B ∧ t.slot.hnd = true ∧ t.slot.hout = false)) = true ∧
    (let s := waits.modSlotAt 64 0 fun sl => { sl with merr := [d], lines := [1] }
     (s.slotAt 64 0).interruptible = true ∧ trapHeld 0 (s.focus 64) = true ∧
     nextAnd (exec (.trapEntry 64 0) s) (fun t => decide (t.slot.merr = [d])) = true) ∧
    acquireHeld wins 64 0 = true ∧
    nextAnd (exec (.preemptionEvent 64 0) wins) (fun t => decide (t.slot.st = .stopping ∧ t.slot.entered = acq)) = true := by
  decide +kernel
/-- R165: queues 1 and 2 hold records with tag 1 at their heads, seen for 8 and 9 cycles; the lower queue goes first. -/
theorem test_handler_start : let p := ctx64 (slotWith (bankA 0))
    let q := fun (n : Nat) => (⟨1, 0x100, 0x180, false, false, false, 0, false, false, 0, 0, [n]⟩ : RQueue)
    let h := { Slot.reset with rq := (Slot.reset.rq.set 1 (q 8)).set 2 (q 9), wdogb := 100 }
    let tl := { p.tile with slots := p.tile.slots.set 7 h, tagtab := Tile.reset.tagtab.set 1 ⟨true, 2, 1, 0x80⟩ }
    let s := { p with tile := tl, mem := [(base64 + 0x105, 0x10)] }
    64 < tileCount ∧ tl.launch = some launch3 ∧ tileSaving s 64 = false ∧ freeHandlerSlot tl = some 7 ∧ bestCandidate s 64 = some 1 ∧
    isCandidate tl 2 = true ∧ effectivePrio s 64 2 = effectivePrio s 64 1 ∧
    nextAnd (exec (.handlerDispatch 64) s) (fun t => decide (t.tile.slots[7].st = .handler ∧ t.tile.slots[7].user.pc = 0x80 ∧
      t.tile.slots[7].user.a = 0x100000000000 ∧ t.tile.slots[7].user.ptr 0 = ⟨8, 0x100⟩ ∧ t.tile.slots[7].hleft = 100 ∧
      t.tile.slots[7].gen = 3 ∧ t.tile.slots[7].dom = 7 ∧ t.tile.slots[7].hq = 1)) = true := by decide +kernel
/-- R194, R191, R198: the last cycle of a `PAUSE`; an episode of two threads of which one has ended and the other has joined; a
timeout at its last cycle; `ALIGN` with all of its scope there, and at its limit. -/
theorem test_waits_end : let u := slotWith (bankA 0)
    let l := { record9 with threads := [⟨64, 0, [0, 0, 0], false⟩, ⟨65, 0, [1, 0, 0], true⟩] }
    let e : Episode := ⟨9, 0, [], [0]⟩
    let s := fun x => { ctx64 x with launches := [l], episodes := [e] }
    let j := { u with join := some ⟨0, false⟩ }
    Unit_ 64 0 ∧
    nextAnd (exec (.pauseExpiry 64 0) (s { u with pause := 1, pauseDue := true })) (fun t => decide (t.slot.pause = 0)) = true ∧
    nextAnd (exec (.pauseExpiry 64 0) (s { u with pause := 1 })) (fun t => decide (t.slot.pause = 1)) = true ∧
    (s j).findLaunch 9 = some l ∧ l.st = .running ∧
    (∀ th ∈ l.threads, th.path.take e.path.length = e.path → th.ended = true ∨ radix l.levels th.path ∈ e.joined) ∧
    nextAnd (exec (.barrierCompletion 0) (s j)) (fun t => decide (t.slot.join = some ⟨0, true⟩ ∧ t.episodes = [])) = true ∧
    nextAnd (exec (.barrierCompletion 0) { s j with launches := [{ l with st := .preempted }] })
      (fun t => decide (t.slot.join = some ⟨0, false⟩ ∧ t.episodes = [e])) = true ∧
    nextAnd (exec (.barrierTimeout 64 0) (s { j with entered := .barrier, timer := 1 }))
      (fun t => decide (t.slot.tcause = 0x1A ∧ t.slot.taddr = 0 ∧ t.slot.join = some ⟨0, false⟩)) = true ∧
    (∀ th ∈ alignGroup (s { u with entered := .align false 1 }) 64 0 1,
      ((s { u with entered := .align false 1 }).slotAt th.tile th.slot).alignedAt 5 = true) ∧
    nextAnd (exec (.alignRelease 64 0) (s { u with entered := .align false 1 })) (fun t => decide (t.slot.entered = .align true 1)) = true ∧
    nextAnd (exec (.alignTimeout 64 0) (s { u with entered := .align false 1, timer := 1 }))
      (fun t => decide (t.slot.entered = .align true 1)) = true := by unfold Unit_; decide +kernel
/-- R226, R225, R231, R394: the sweep of value 4 meets a granule of 4; a `GNEW` waits for it; the sixteenth correction in one bank. -/
theorem test_sweep_events : let p := ctx64 (slotWith (bankA 0))
    let s := { p with tile := { p.tile with sweepVal := 3, sweepPos := 5 } }
    let g := { slotWith (bankA 0) with entered := .gnew none }
    let w := { p with tile := { p.tile with slots := p.tile.slots.set 0 g, cur := 3, sweepVal := 4, sweepPos := 1024 } }
    let seen := List.replicate 15 0
    let c := { p with tile := { p.tile with corr := [130], bankErr := [(2, seen)] } }
    nextAnd (exec (.generationSweep 64) s) (fun t => decide (t.tile.tag 5 = 0xFFF ∧ t.tile.tag 6 = 3 ∧ t.tile.sweepPos = 6)) = true ∧
    64 < tileCount ∧ (c.getTile 64).corr = [130] ∧
    nextAnd (exec (.scratchpadWriteback 64) c) (fun t => decide (t.tile.corr = [] ∧ t.tile.retire = true ∧
      t.tile.bankErr = [(2, List.replicate 16 0)])) = true ∧
    (w.slotAt 64 0).entered = .gnew none ∧ (w.getTile 64).sweepVal = 4 ∧ (w.getTile 64).nextValue = 4 ∧
    nextAnd (exec (.gnewAllocation 64 0) w) (fun t => decide (t.tile.cur = 4 ∧ t.tile.sweepVal = 5 ∧ t.tile.sweepPos = 0 ∧
      t.slot.entered = .gnew (some 4))) = true ∧
    nextAnd (exec (.gnewAllocation 64 0) { w with tile := { w.tile with sweepVal := 7 } })
      (fun t => decide (t.tile.sweepVal = 4 ∧ t.tile.sweepPos = 0 ∧ t.slot.entered = .gnew none)) = true := by decide +kernel

/-! ### Events: writes of the runtime and of the management -/

/-- R167, R329: HEAD set to the second record; a held queue dropped, and retried. -/
theorem test_queue_writes : let q : RQueue := ⟨1, 0x100, 0x180, false, false, false, 0, false, false, 0, 0, []⟩
    let h := { Slot.reset with rq := Slot.reset.rq.set 1 q }
    let u := { slotWith (bankA 0) with rq := Slot.reset.rq.set 1 q, tmsg := ⟨1, true, 0x20⟩ }
    let p := ctx64 u
    let s := { p with tile := { p.tile with slots := p.tile.slots.set 7 h, hold := Tile.reset.hold.set 1 true } }
    Unit_ 64 0 ∧ (s.slotAt 64 0).tmsg.hold = true ∧
    nextAnd (exec (.rqhWrite 64 0 1 0x10180) s) (fun t => decide (t.slot.rq[1] = { q with head := 0x180 })) = true ∧
    nextAnd (exec (.tmsgDrop 64 0) s) (fun t => decide (t.slot.tmsg.hold = false ∧ t.tile.hold[1] = false ∧
      t.tile.slots[7].rq[1].head = 0x180)) = true ∧
    nextAnd (exec (.tmsgRetry 64 0) s) (fun t => decide (t.slot.tmsg.hold = false ∧ t.tile.hold[1] = false ∧
      t.tile.slots[7].rq[1].head = 0x100)) = true := by unfold Unit_; decide +kernel
/-- R373, R415: a record of slot 0 and one of the empty slot 2; queue 0 with room, and full. -/
theorem test_overflow_ring : let r := fun (k : BitVec 3) => (⟨true, 1, 0, k, [5]⟩ : OvfRec)
    let q := fun (h t : BitVec 15) => (⟨1, h, t, true, true, false, 0, false, false, 0, 0, []⟩ : RQueue)
    let s := fun (h t : BitVec 15) => let p := ctx64 { slotWith (bankA 0) with rq := Slot.reset.rq.set 0 (q h t) }
      { p with tile := { p.tile with ring := (Tile.reset.ring.set 0 (r 0)).set 1 (r 2) } }
    (((s 0x100 0x100).slotAt 64 0).queue 0).full = false ∧ (((s 0x100 0x180).slotAt 64 0).queue 0).full = true ∧
    (s 0x100 0x100).recordAhead 64 0 0 3 = false ∧ ((s 0x100 0x100).getTile 64).stampGen 0 false = 3 ∧
    nextAnd (exec (.oinfoFree 64 1) (s 0x100 0x100)) (fun t => decide (t.tile.ring[1].valid = false ∧ t.tile.counts = [(10, 1)])) = true ∧
    nextAnd (exec (.oinfoFree 64 0) (s 0x100 0x100)) (fun t => decide (t.tile.ring[0].valid = false ∧ t.tile.counts = [])) = true ∧
    nextAnd (exec (.oinfoRedo 64 0) (s 0x100 0x180)) (fun t => decide (t.slot.rq[0].rearm = true ∧ t.tile.ring[0].valid = true)) = true ∧
    nextAnd (exec (.oinfoRedo 64 0) (s 0x100 0x100)) (fun t => decide (t.slot.rq[0].tail = 0x180 ∧ t.tile.ring[0].valid = false ∧
      t.mem = [(base64 + 0x100, 5)])) = true ∧
    nextAnd (exec (.oovfClear 64 1) (s 0x100 0x180)) (fun t => decide (t.slot.rq[0].ovf = false ∧ t.slot.rq[0].report = false)) = true := by
  decide +kernel
/-- R229: the last doubleword of the scratchpad, whose granule is void, and a misaligned access. -/
theorem test_debug_window : let s := ctx64 (slotWith (bankA 0))
    64 < tileCount ∧ nextAnd (exec (.debugDataWrite 64 32760 0x1234) s)
      (fun t => decide (t.mem = [(base64 + 32760, 0x34), (base64 + 32761, 0x12)] ∧ t.tile.tags = s.tile.tags)) = true ∧
    nextAnd (exec (.debugTagWrite 64 32736 0xF004) s) (fun t => decide (t.tile.tag 1023 = 4)) = true ∧
    nextAnd (exec (.debugTagRead 64 0) s) (fun t => decide (t.out = [.read 3])) = true ∧
    nextAnd (exec (.debugDataRead 64 0) (placed (slotWith (bankA 0)) twoWords)) (fun t => decide (t.out = [.read 1])) = true ∧
    nextAnd (exec (.debugDataRead 64 4) s) (fun t => decide (t.out = [.refused])) = true ∧
    nextAnd (exec (.debugTagWrite 64 32768 0) s) (fun t => decide (t.out = [.refused] ∧ t.tile = s.tile)) = true := by decide +kernel
/-- R372, Table 20.4: A and the last doubleword of a stopping slot, and the user slot. -/
theorem test_context_window : let s := ctx64 { slotWith (bankA 0x77) with st := .stopping }
    Unit_ 64 0 ∧ (s.slotAt 64 0).st = .stopping ∧
    nextAnd (exec (.contextWindowAccess 64 0 0 none) s) (fun t => decide (t.out = [.read 0x77])) = true ∧
    nextAnd (exec (.contextWindowAccess 64 0 0 (some 9)) s) (fun t => decide (t.slot.user.a = 9)) = true ∧
    nextAnd (exec (.contextWindowAccess 64 0 88 (some 0x1FF7FFF)) s) (fun t => decide (t.slot.user.pc = 0x3FFF ∧ t.slot.user.pcfg = 0x1FF)) = true ∧
    nextAnd (exec (.contextWindowAccess 64 0 104 (some 9)) s) (fun t => decide (t.slot = s.slot)) = true ∧
    nextAnd (exec (.contextWindowAccess 64 0 112 none) s) (fun t => decide (t.out = [.refused])) = true ∧
    nextAnd (exec (.contextWindowAccess 64 0 0 none) (ctx64 (slotWith (bankA 0)))) (fun t => decide (t.out = [.refused])) = true := by
  unfold Unit_; decide +kernel
/-- R79, R135: slot 0 of tile 0 asks for line 1 (its PC is 5), and drops it when word 7 is written. -/
theorem test_loft_events : let s := threadA 0 []
    let b := threadA 0 []; let w := { b with tile := tileWith { slotWith (bankA 0) with lines := [1] } }
    bayOf s.tid = 0 ∧ (firstRequest (requestLines 0 s) 0).map (·.1) = some 1 ∧ servedLines (requestLines 0 s) 0 1 = [1] ∧
    nextAnd (exec (.loftLineFetch 0 1) s) (fun t => decide (t.slot.lines = [1] ∧ (t.getBay 0).port = (0, 1))) = true ∧
    nextAnd (exec (.loftWindowWrite 0 7 0xA0000001) w)
      (fun t => decide (t.slot.lines = [] ∧ t.mem = [(loftBase 0 + 28, 1), (loftBase 0 + 31, 0xA0)])) = true ∧
    nextAnd (exec (.loftWindowWrite 0 16383 1) w) (fun t => decide (t.slot.lines = [1])) = true := by decide +kernel
/-- Tables 8.8, 21.3, 21.4, 25.2, 8.4: one write of each. -/
theorem test_management_writes : let s := ctx64 (slotWith (bankA 0)); let h := { s with bays := [(0, { Bay.reset with launch := some 9 })] }
    nextAnd (exec (.bayrateWrite 0 639 (0x0401 <<< 48)) s) (fun t => decide ((t.getBay 639).rm = ⟨1, 1⟩ ∧ (t.getBay 639).rx = ⟨0, 0⟩)) = true ∧
    nextAnd (exec (.registerWrite (.pwrctl 15) (0x12340000000000AA)) s)
      (fun t => decide ((t.getDie 15).pwr = { (s.getDie 15).pwr with budget := 0x1234, rot := true, t := 0x2A })) = true ∧
    (s.getBay 0).launch = none ∧ (h.getBay 0).launch ≠ none ∧
    nextAnd (exec (.registerWrite (.baymap 0 0) (0x8281000000000000)) s)
      (fun t => decide ((t.getDie 0).bayMap 0 = ⟨true, false, 0x281, ((s.getDie 0).bayMap 0).retold⟩)) = true ∧
    nextAnd (exec (.registerWrite (.baymap 0 0) 0) h) (fun t => decide (t = h)) = true ∧
    nextAnd (exec (.registerWrite (.permission 0 31) 0x8000010000010002) s)
      (fun t => decide ((t.getBay 0).perms.getD 31 Perm.reset = ⟨true, 1, 0, 1, 2⟩ ∧ (t.getBay 0).perms.length = 32)) = true ∧
    nextAnd (exec (.serviceSlotWrite 15 63 511) s) (fun t => decide (t.wheels = SMap.set 0 s.wheels 1023 511)) = true ∧
    nextAnd (exec (.fleetListWrite 511 [0, 7]) s) (fun t => decide ((t.getTenant 511).fleet = [0, 7])) = true ∧
    nextAnd (exec (.rankEntryWrite 64 4095 0x8000012340030009) s)
      (fun t => decide (t.tile.rank 4095 = ⟨true, false, 1, 2, 0x34, 0, 1, 9⟩)) = true := by decide +kernel
/-- R1, Table 25.2: no physical bay has the number 644 (log entry 99). R411: an entry of stack 2's wheel comes into force where its die's
count of fabric cycles reaches 64; stack 0's, at 63 of it, does not. -/
theorem test_baymap_end : (match exec (.registerWrite (.baymap 0 0) (0x8284000000000000)) (ctx64 (slotWith (bankA 0))) with
    | .fault f => decide (f = .noSuchUnit) | _ => false) = true := by
  decide +kernel
theorem test_wheel_turns : let s := { ctx64 (slotWith (bankA 0)) with wheels := [(0, 9), (131, 9)] }
    SMap.wfFrom 0 0 s.wheels = true ∧ SMap.wfFrom 0 0 s.wheelOn = true ∧ (s.getDie 2).fc % 64 + 64 = 64 ∧
    SMap.get 0 (passTime 2 64 64 s).wheelOn 131 = 9 ∧ SMap.get 0 (passTime 0 63 63 s).wheelOn 0 = 0 := by decide +kernel

/-! ### Events: circuits, messages, channels -/

/-- A request of slot 0 of tile 64, and the state in which it waits in the NI, or is on its circuit. -/
def req64 (op : ReqOp) (route : Route) (va : VA) : Req :=
  { uid := 4, tile := 64, slot := 0, run := 0, sup := false, seq := 7, tenant := 3, dom := 7, pc := 9, va := va, op := op,
    route := route, rel := none, acq := none, rank := 2, bad := false, vf := 0 }
def msg64 (bad : Bool) : Req := { req64 (.msg 0x0002120000000000 [1, 2]) (.tile 0 5 65 1) 0 with bad := bad }
/-- Slot 0 has one access open, of number 7, with the counters at 1; tile 65 holds a thread of the launch in slot 1. -/
def under (r : Req) (ph : Phase) : State :=
  let s := placed { slotWith (bankA 0) with nm := 1, nb := 1, ne := 1, accs := [⟨7, true, true, false, false⟩] } []
  let sl := { Slot.reset with st := .user, gen := 3, rq := Slot.reset.rq.set 0 ⟨1, 0x100, 0x100, false, false, false, 0, false, false, 0, 0, []⟩ }
  let tags : SMap (BitVec 12) := (List.range 64).map fun g => (g, 3)
  { s with others := [(65, { Tile.reset with slots := Tile.reset.slots.set 1 sl, launch := some launch3, tags := tags })], flights := [⟨r, ph⟩] }
/-- R160, R241: a message; a store with a release of module extent, alone and behind a store that is not performed. -/
theorem test_injection : let p := slotWith (bankA 0); let m := msg64 false
    let r := { req64 (.store []) .mem 0 with rel := some 6 }
    let s := ctx64 { p with niq := [m] }; let u := ctx64 { p with niq := [r] }
    let w := ctx64 { p with niq := [r], accs := [⟨6, false, true, true, false⟩] }
    Unit_ 64 0 ∧ (s.slotAt 64 0).niq[0]? = some m ∧ m.rel = none ∧ injectTurn s 64 0 m = true ∧ injectTurn u 64 0 r = true ∧
    (¬ ∃ a ∈ (u.slotAt 64 0).accs, a.seq < r.seq) ∧
    (2 ≤ (6 : BitVec 3).toNat ∧ ∃ a ∈ (w.slotAt 64 0).accs, (w.slotAt 64 0).firstSeq ≤ a.seq ∧ a.seq < r.seq ∧ a.write = true ∧ a.mod = false) ∧
    nextAnd (exec (.messageInjection 64 0 0) s) (fun t => decide (t.slot.niq = [] ∧ t.flights = [⟨m, .wire⟩])) = true ∧
    nextAnd (exec (.releaseInjection 64 0 0) u) (fun t => decide (t.slot.niq = [] ∧ t.flights = [⟨r, .wire⟩])) = true ∧
    nextAnd (exec (.releaseInjection 64 0 0) w) (fun t => decide (t.slot.niq = [r] ∧ t.flights = [])) = true := by
  unfold Unit_; decide +kernel
/-- R164 to R168, R330: tag 1 is not enabled on tile 65, and names queue 0 of slot 1: room, no room, and a failed check. -/
theorem test_message_arrives : let s := under (msg64 false) .wire; let b := under (msg64 true) .wire
    let full := s.modSlotAt 65 1 fun sl => { sl with rq := sl.rq.set 0 ⟨1, 0x100, 0x180, false, false, false, 0, false, false, 0, 0, []⟩ }
    firstOnWire s 0 = some ⟨msg64 false, .wire⟩ ∧ firstOnWire b 0 = some ⟨msg64 true, .wire⟩ ∧
    firstOnWire full 0 = some ⟨msg64 false, .wire⟩ ∧
    ((s.slotAt 65 1).queue 0).full = false ∧ (arrivedFlight 0 s).recordAhead 65 1 0 3 = false ∧ ((full.slotAt 65 1).queue 0).full = true ∧
    nextAnd (exec (.messageVisible 0) s) (fun t => decide (t.flights = [] ∧ t.slot.nm = 0 ∧ t.slot.accs = [] ∧
      ((t.slotAt 65 1).queue 0).tail = 0x180 ∧ t.mem = [(base64 + 32768 + 0x105, 0x12), (base64 + 32768 + 0x106, 2),
        (base64 + 32768 + 0x108, 1), (base64 + 32768 + 0x110, 2)])) = true ∧
    nextAnd (exec (.messageVisible 0) full) (fun t => decide (t.slot.nm = 0 ∧ t.mem = [] ∧ ((t.slotAt 65 1).queue 0).ovf = true ∧
      ((t.getTile 65).ring[0]).valid = true ∧ ((t.getTile 65).ring[0]).slot = 1)) = true ∧
    nextAnd (exec (.messageVisible 0) b) (fun t => decide (t.slot.nm = 0 ∧ (t.slotAt 65 1).merr = [⟨plainTrap 0x13 5⟩])) = true := by
  decide +kernel
/-- R160, R330: a message behind one from a greater CID in the same fabric cycle waits; one that fails its check after the launch has gone
counts for its tenant. -/
theorem test_message_waits : let s := under (msg64 false) .wire
    let late := s.modSlotAt 65 1 fun sl => { sl with rq := sl.rq.set 0 { sl.rq[0] with arrFc := 1, arrKey := 6 } }
    let b := under (msg64 true) .wire; let gone := b.modTile 65 fun tl => { tl with launch := none }
    (late.getDie 0).fc = 0 ∧ firstOnWire late 0 = some ⟨msg64 false, .wire⟩ ∧
    nextAnd (exec (.messageVisible 0) late) (fun t => decide (t = late)) = true ∧
    nextAnd (exec (.messageVisible 0) gone) (fun t => decide ((t.slotAt 65 1).merr = [] ∧ t.meters = (gone.hubMeter 3 9 1).meters ∧
      t.slot.nm = 0)) = true ∧ gone.meters ≠ (gone.hubMeter 3 9 1).meters := by decide +kernel
/-- R166: the record placed at TAIL meets the premises; another module's message goes out. -/
theorem test_record_placed : let s := (under (msg64 false) .wire).focus 65
    let far := under { msg64 false with route := .tile 0 5 tileCount 1 } .wire
    Tidy s ∧ s.tile.bad = [] ∧ ((s.tile.slots[1].queue 0).tail.toNat) % 128 = 0 ∧ s.recordAhead s.tid 1 0 3 = false ∧
    nextAnd (exec (.messageVisible 0) far) (fun t => decide (t.out = [.message tileCount 1 [0x0002120000000000, 1, 2]])) = true := by
  unfold Tidy; decide +kernel
/-- R156, R157: a word of circuit 6, one that fails its check, one of tile 64's link 2; credits of both. -/
theorem test_channel_traffic : let c := fun (b : Bool) => (⟨.circuit 0 6, 8, b⟩ : ChanWord); let l : ChanWord := ⟨.link 64 2, 8, false⟩
    let s := fun (x : ChanWord) => { ctx64 (slotWith (bankA 0)) with
        words := [x], credits := [.circuit 0 6, .link 64 2], bays := [(1, { Bay.reset with launch := some 9 })], launches := [record9],
        others := [(65, { Tile.reset with launch := some launch3 })] }
    let idle := { ctx64 (slotWith (bankA 0)) with credits := [.link 64 2], words := [l] }
    let bound := { s { l with bad := true } with credits := [], links := [(258, ⟨[], 8, some 0⟩)] }
    (∀ x ∈ (s (c false)).words.take 0, x.dst ≠ .circuit 0 6) ∧ linkLive (s l) 64 2 = true ∧ linkLive (ctx64 (slotWith (bankA 0))) 64 2 = false ∧ ((s (c false)).circuit 6).parked = false ∧
    nextAnd (exec (.channelWordArrival 0) (s (c false))) (fun t => decide (t.words = [] ∧ (t.circuit 6).buf = [8])) = true ∧
    nextAnd (exec (.channelWordArrival 0) (s (c true))) (fun t => decide (t.credits = [.circuit 0 6, .link 64 2, .circuit 0 6] ∧
      (t.slotAt 65 1).merr = [⟨plainTrap 0x13 6⟩])) = true ∧
    nextAnd (exec (.channelWordArrival 0) (s l)) (fun t => decide ((t.link 64 2).buf = [8])) = true ∧
    nextAnd (exec (.creditReturn 0) (s l)) (fun t => decide ((t.circuit 6).credits = 9 ∧ t.credits = [.link 64 2])) = true ∧
    nextAnd (exec (.creditReturn 1) (s l)) (fun t => decide ((t.link 64 2).credits = Link.reset.credits + 1)) = true ∧
    nextAnd (exec (.channelWordArrival 0) idle) (fun t => decide (t = idle)) = true ∧
    nextAnd (exec (.creditReturn 0) idle) (fun t => decide (t = idle)) = true ∧ (bound.link 64 2).bound = some 0 ∧
    nextAnd (exec (.channelWordArrival 0) bound) (fun t => decide (t.slot.merr = [⟨plainTrap 0x13 0⟩] ∧ (t.link 64 2).buf = [] ∧
      t.credits = [.link 65 0])) = true := by decide +kernel
/-- R310: the tenth discarded notice is carried by the record, which takes NE down. -/
theorem test_completion : let s := ctx64 { slotWith (bankA 0) with ne := 1, drop := 10 }
    decide (((s.complete 64 0 0 2 0 0 0x40 7).slot).inbox = [⟨0x020000000A000040, 7⟩] ∧ (s.complete 64 0 0 2 0 0 0x40 7).slot.ne = 0 ∧
      s.complete 64 0 1 2 0 0 0x40 7 = s) = true := by decide +kernel

/-- A request of tile 64's slot 0 for a channel circuit of one slot to slot 1 of tile 65, which bay 1's table allows. -/
def join64 (op : BitVec 2) (cid : Nat) : JoinReq := ⟨64, 0, 0, 3, op, true, cid, 1, 65, 1, 0, 0x40⟩
def joining (op : BitVec 2) (cid : Nat) (quota : Nat) : State :=
  let s := placed { slotWith (bankA 0) with ne := 1 } []
  let b := { Bay.reset with perms := [⟨true, 0, 0, 1, 1⟩] }
  let s := (s.setTenant 3 { s.getTenant 3 with quota := quota }).setBay 1 b
  s.setDie 0 { s.getDie 0 with work := [.own (join64 op cid)] }
def made64 : Circuit := ⟨.channel, 3, 64, 0, 65, 1, [], false, false, [], 8, [], [], 0, 0⟩
/-- R152, R199: a setup; a setup with no permission; a query of circuit 6 and of a circuit of no one. -/
theorem test_joiner : let s := joining 0 0 8; let no := s.setBay 1 Bay.reset
    let told := fun (st cid n : Nat) (t : State) => decide ((t.getDie 0).replies.map (fun x => (x.status, x.cid, x.slots)) = [(st, cid, n)])
    dieOf 64 = 0 ∧ (s.getDie 0).work = [.own (join64 0 0)] ∧ joinerWaits s 0 = false ∧ (s.getDie 0).replies = [] ∧ Tabled s ∧
    permitted s 64 65 0 = true ∧ permitted no 64 65 0 = false ∧ freeCid s 0 = some 0 ∧
    (match requestPath s (join64 0 0) with
      | .ok (f, r) => !overQuota s 3 f 1 && (takeBases s f r 1).isSome &&
          f.all (fun h => !portDown s h.port) && (farDies 0 (circuitEntries { made64 with fwd := f, rev := r } 0 [1])).isEmpty
      | .error _ => false) = true ∧
    nextAnd (exec (.joinerRequest 0) s) (fun t => told 0 0 1 t && decide ((t.circuit 0).kind = .channel ∧ (t.circuit 0).dst = 65 ∧
      (t.circuit 0).credits = 8)) = true ∧
    nextAnd (exec (.joinerRequest 0) no) (told 2 0 0) = true ∧
    nextAnd (exec (.joinerRequest 0) (joining 3 6 8)) (told 0 6 1) = true ∧
    nextAnd (exec (.joinerRequest 0) (joining 3 9 8)) (told 5 9 0) = true := by unfold Tabled; decide +kernel
/-- R152: to another die over a crossing that is down status 4, and over one that is up a far joiner to wait for; into a bay that is
retired, with a quota of none, and over a link with no slot. -/
theorem test_joiner_refuses : let far : JoinReq := { join64 0 0 with tile := 1991, dst := 40960 }
    let near := join64 0 0
    let set := fun (r : JoinReq) (quota : Nat) => let s := joining 0 0 quota
      (s.setDie 0 { s.getDie 0 with work := [.own r] }).setBay (r.tile / 64) { Bay.reset with perms := [⟨true, 0, 0, 1, 1⟩, ⟨true, 0, 1, 0, 0⟩] }
    let up := fun (s : State) => s.setDie 0 { s.getDie 0 with links := Vector.replicate 4 { LinkStat.reset with up := true } }
    let retired := fun (s : State) => s.setDie 0 { s.getDie 0 with retired := [1] }
    let full := fun (s : State) => { s with slotTab := (List.range 64).map fun i => (515 * 64 + i, 1) }
    let told := fun (st cid n : Nat) (s : State) => nextAnd (exec (.joinerRequest 0) s) fun t =>
      decide ((t.getDie 0).replies.map (fun x => (x.status, x.cid, x.slots)) = [(st, cid, n)])
    Tabled (set far 8) ∧ permitted (set far 8) 1991 40960 0 = true ∧ told 4 0 0 (set far 8) = true ∧
    nextAnd (exec (.joinerRequest 0) (up (set far 8))) (fun t => decide ((t.circuit 0).live = false ∧ t.slotTab = [] ∧
      (t.getDie 0).replies.map (fun x => (x.status, x.slots, x.far, x.base)) = [(0, 1, [1], [1])] ∧ (t.getDie 1).work.length = 1)) = true ∧
    told 1 0 0 (retired (set near 8)) = true ∧ told 3 0 0 (set near 0) = true ∧ told 1 0 0 (full (set near 8)) = true := by
  unfold Tabled; decide +kernel
theorem get_range (c : Circuit) : ∀ n b k : Nat, k < n → SMap.get Circuit.none ((List.range' b n).map fun i => (i, c)) (b + k) = c
  | n + 1, b, 0, _ => by simp [List.range'_succ, SMap.get]
  | n + 1, b, k + 1, h => by
    have := get_range c n (b + 1) k (by omega)
    simp only [List.range'_succ, List.map_cons, SMap.get]
    rw [if_neg (by omega), show b + (k + 1) = b + 1 + k by omega]; exact this
/-- R152: 4,096 circuits of another tenant leave the die no number. -/
theorem test_no_number : let s := { joining 0 0 8 with
      circuits := (List.range' 0 4096).map fun i => (i, { made64 with tenant := 4, base := [9] }) }
    (s.getDie 0).work = [.own (join64 0 0)] ∧ permitted s 64 65 0 = true ∧ freeCid s 0 = none := by
  refine ⟨by decide +kernel, by decide +kernel, List.find?_eq_none.mpr fun c hc => ?_⟩
  have h := get_range { made64 with tenant := 4, base := [9] } 4096 0 c (List.mem_range.mp hc)
  rw [Nat.zero_add] at h
  simp [cidFree, State.circuit, circuitKey, h, Circuit.live]
/-- R152, R153: circuit 6, of slot 2 on the path to tile 65, is resized to the slot that it has, to two slots, beyond the quota, beyond the
path and across a crossing that is down, and to none, and torn down; the answer waits for the drain. -/
theorem test_resize : let f : List Hop := [⟨512, 0, false, 0⟩, ⟨515, 0, true, 1⟩, ⟨526, 1, false, 1⟩]
    let r : List Hop := [⟨520, 0, false, 0⟩, ⟨521, 0, true, 1⟩, ⟨518, 3, false, 1⟩]
    let c := { made64 with base := [2], fwd := f, rev := r }
    let s := fun (op : BitVec 2) (n quota : Nat) => let s := { joining op 6 quota with circuits := [(6, c)] }
      let s := s.writeEntries (circuitEntries c 6 [2])
      s.setDie 0 { s.getDie 0 with work := [.own { join64 op 6 with slots := n }] }
    let crossing := fun (x : State) => { x with circuits := [(6, { c with fwd := ⟨7, 0, false, 0⟩ :: f })] }
    let told := fun (st cid n : Nat) (s : State) => nextAnd (exec (.joinerRequest 0) s) fun t =>
      decide ((t.getDie 0).replies.map (fun x => (x.status, x.cid, x.slots)) = [(st, cid, n)])
    let dropped := fun (x : State) => nextAnd (exec (.joinerRequest 0) x) fun t => decide ((t.circuit 6).base = [] ∧
      t.slotTab = x.slotTab.filter (fun kv => kv.1 / 64 % 8 ≠ 0) ∧ (t.getDie 0).replies = [] ∧
      t.drains.map (fun d => (d.key, d.keys.length, d.reply.map (fun y => (y.status, y.slots)))) = [(6, 4, some (0, 0))])
    ((s 1 1 8).circuit 6).base ≠ [] ∧ (s 1 1 8).slotTab.length = 6 ∧ Tabled (s 1 1 8) ∧
    told 0 6 1 (s 1 1 8) = true ∧ told 0 6 2 (s 1 2 8) = true ∧
    nextAnd (exec (.joinerRequest 0) (s 1 2 8)) (fun t => decide ((t.circuit 6).base = [2, 1] ∧ t.slotTab.length = 12)) = true ∧
    told 3 6 1 (s 1 9 8) = true ∧
    told 1 6 1 { s 1 2 8 with slotTab := (List.range 64).map fun i => (515 * 64 + i, 1) } = true ∧ portDown (s 1 2 8) 7 = true ∧
    told 4 6 1 (crossing (s 1 2 8)) = true ∧ told 5 9 0 (joining 1 9 8) = true ∧ dropped (s 1 0 8) = true ∧
    dropped (s 2 0 8) = true := by unfold Tabled; decide +kernel
/-- R151, R200: the far entries, the reply of KIND 4, and a drained slot. -/
theorem test_joiner_answers : let s := placed { slotWith (bankA 0) with ne := 1 } []
    let rep : JoinReply := ⟨64, 0, 0, 0x40, 0, 6, 2, [], 0, [], []⟩
    let w := s.setDie 1 { s.getDie 1 with work := [.far ⟨0, [(5, 9)]⟩] }
    let x := s.setDie 0 { s.getDie 0 with replies := [rep] }
    let d := { s with drains := [⟨0, 0, 6, [5], none⟩], slotTab := SMap.set 0 [] 5 9 }
    nextFar (joinerWaits w 1) (w.getDie 1).work = some ⟨0, [(5, 9)]⟩ ∧ (x.getDie 0).replies = [rep] ∧ d.drains[0]? = some ⟨0, 0, 6, [5], none⟩ ∧ keyDie 5 = 0 ∧
    nextAnd (exec (.farJoinerWrite 1) w) (fun t => decide (t.slotTab = [(5, 9)] ∧ (t.getDie 1).work = [])) = true ∧
    nextAnd (exec (.joinerReply 0) x) (fun t => decide (t.slot.inbox = [⟨0x0400000000000040, 0x200060000⟩] ∧ t.slot.ne = 0 ∧
      (t.getDie 0).replies = [])) = true ∧
    nextAnd (exec (.circuitTeardownDrain 0) d) (fun t => decide (t.slotTab = [] ∧ t.drains = [])) = true ∧
    nextAnd (exec (.circuitTeardownDrain 0) { d with drains := [⟨0, 0, 6, [5], some rep⟩] })
      (fun t => decide (t.slotTab = [] ∧ (t.getDie 0).replies = [rep])) = true ∧
    nextAnd (exec (.circuitTeardownDrain 0) { d with drains := [⟨0, 1, 6, [5], none⟩] }) (fun t => decide (t.drains ≠ [])) = true := by
  decide +kernel
/-- R151: a joiner behind its own request waits, but not while it waits for another die's joiner itself; the source, of which die 1 was the
last to answer, then writes its own entries and the circuit's slots. -/
theorem test_far_joiner : let s := placed { slotWith (bankA 0) with ne := 1 } []
    let far : JoinWork := .far ⟨0, [(2097152 / 64 * 64 + 5, 9)]⟩
    let rep : JoinReply := ⟨64, 0, 0, 0x40, 0, 0, 1, [1], 0, [1], [(5, 7)]⟩
    let one := fun (rs : List JoinReply) => let x := s.setDie 1 { s.getDie 1 with work := [.own (join64 0 0), far], replies := rs }
      { x.setDie 0 { x.getDie 0 with replies := [rep] } with circuits := [(0, made64)] }
    farAwaited (one []) 1 = false ∧ nextFar false ((one []).getDie 1).work = none ∧
    nextAnd (exec (.farJoinerWrite 1) (one [])) (fun t => decide (t = one [])) = true ∧
    farAwaited (one [{ rep with far := [2] }]) 1 = true ∧
    nextAnd (exec (.farJoinerWrite 1) (one [{ rep with far := [2] }])) (fun t => decide ((t.getDie 1).work = [.own (join64 0 0)] ∧
      (t.getDie 0).replies.map (·.far) = [[]] ∧ (t.circuit 0).base = [1] ∧ t.slotTab = [(5, 7), (2097157, 9)])) = true := by
  decide +kernel
/-- R179, R180: a pull of eight bytes at 0x20 of tile 65 with no circuit back, and with one; its stream's end, and the notice. -/
theorem test_pulls : let r := req64 (.pull 0x20 8 0x40 0) (.tile 0 5 65 1) 0; let s := under r .wire
    let back : Circuit := ⟨.message, 3, 65, 1, 64, 0, [4], false, false, [], 0, [], [], 0, 0⟩
    let b := { s with circuits := s.circuits ++ [(8, back)], mem := [(base64 + 32768 + 0x20, 6)] }
    let st : Stream := ⟨64, 0, 0, 65, 1, 1, 2, 0x20, 0x40, 8, 0, [6, 0, 0, 0, 0, 0, 0, 0], 0, false, false⟩
    let e := { b with flights := [], streams := [st] }
    firstOnWire s 0 = some ⟨r, .wire⟩ ∧ s.findCircuit 65 1 64 = none ∧ (b.findCircuit 65 1 64).isSome = true ∧
    (streamRead b 65 (b.slotAt 65 1).gen (8 / 8 + 1) 0x20 8).2 = 0 ∧ streamFirst e 0 st = true ∧
    nextAnd (exec (.pullRequest 0) s) (fun t => decide (t.streams.map (fun x => (x.status, x.data)) = [(1, [])])) = true ∧
    nextAnd (exec (.pullRequest 0) b) (fun t => decide (t.streams.map (fun x => (x.status, x.data, x.dst)) =
      [(0, [6, 0, 0, 0, 0, 0, 0, 0], 0x40)])) = true ∧
    nextAnd (exec (.pullCompletion 0) e) (fun t => decide (t.slot.inbox = [⟨0x0200000000000000, 0x200080040⟩] ∧ t.slot.ne = 0 ∧
      t.mem = [(base64 + 0x40, 6), (base64 + 32768 + 0x20, 6)])) = true ∧
    nextAnd (exec (.pullReleaseNotice 0) e) (fun t => decide ((t.slotAt 65 1).inbox = [⟨0x0300000000000000, 0x100080020⟩])) = true ∧
    (e.slotAt 65 1).st ≠ .empty ∧ (e.slotAt 65 1).inbox.length < 16 := by decide +kernel

/-! ### Events: memory -/

/-- A page table at the start of stack 0: its one path maps the first 16 GiB of addresses to the first 16 GiB of the stack. -/
def bb : Nat := bulkBase 0
def tables : Memory := [(bb + 2, 4), (bb + 7, 0x80), (bb + 0x40002, 8), (bb + 0x40007, 0x80), (bb + 0x80007, 0xC0)]
def leaf0 : Leaf := ⟨0, 2 ^ 34, 0, 0, false, false, false, 0⟩
/-- A request of tenant 3, which owns colour 0 and a service slot of every stack, with these tables and die 0 up. -/
def bulk (r : Req) (ph : Phase) (m : Memory) : State :=
  let s := { under r ph with mem := m, wheelOn := (List.range 16).map fun d => (64 * d, 0x203) }
  let s := s.setDie 0 { s.getDie 0 with up := true }
  s.setTenant 3 { s.getTenant 3 with colours := 1 }
def loadAt (va : VA) : Req := req64 (.load 8 none) .mem va
def storeAt (va : VA) : Req := req64 (.store [some 7, none, some 8]) .mem va
def addAt (va : VA) : Req := req64 (.amo .aadd 8 5 0) .mem va
def phases (t : State) : List Phase := t.flights.map (·.phase)

/-- R253, R255, R260: a byte, extended with its sign; the lane that M names; the old word of an `ACAS`; the error of a load; `METR`. -/
theorem test_replies :
    let w := fun (op : ReqOp) (v : List Byte) (hit : Bool) (err : Option (BitVec 8)) =>
      withSlot (fun sl => { sl with user := { sl.user with aPend := true, vPend := true, zPend := true } })
        (under (req64 op .mem 0x1000) (.reply v hit err true))
    let m := { w (.load 8 none) [] false none with metr := [⟨64, 0, 0, false, 7, 3, 4, some 99⟩] }
    answerAhead (w (.load 1 none) [0x80] false none) 0 (req64 (.load 1 none) .mem 0x1000) = false ∧
    nextAnd (exec (.remoteReply 0) (w (.load 1 none) [0x80] false none)) (fun t => decide (t.bank.a = 0xFFFFFFFFFFFFFF80 ∧
      t.bank.aPend = false ∧ t.slot.accs = [] ∧ t.flights = [])) = true ∧
    nextAnd (exec (.remoteReply 0) (w (.load 32 (some 1)) (List.replicate 32 1) false none)) (fun t => decide (t.bank.v[0] = 0x1010101 ∧
      t.bank.v[1] = 0 ∧ t.bank.vPend = false)) = true ∧
    nextAnd (exec (.remoteReply 0) (w (.amo .acas 4 0 0) [9, 0, 0, 0] true none)) (fun t => decide (t.bank.a = 9 ∧ t.bank.f.z = true ∧
      t.bank.zPend = false)) = true ∧
    nextAnd (exec (.remoteReply 0) (w (.load 8 none) [] false (some 0x10))) (fun t => decide (t.bank.a = 0 ∧ t.bank.aPend = false ∧
      t.slot.derr = [⟨⟨0x10, 0x1000, ⟨false, true, 9, 0⟩⟩⟩])) = true ∧
    (let sup := withSlot (fun sl => { sl with run := 1, sup := { sl.sup with aPend := true } })
       (under { req64 (.load 8 none) .mem 0x1000 with sup := true } (.reply [7, 0, 0, 0, 0, 0, 0, 0] false none true))
     nextAnd (exec (.remoteReply 0) sup) (fun t => decide (t.slot.sup.a = 7 ∧ t.slot.sup.aPend = false ∧ t.slot.user = sup.slot.user))) = true ∧
    (let gone := withSlot (fun sl => { sl with run := 1 }) (w (.load 8 none) [] false none)
     nextAnd (exec (.remoteReply 0) gone) (fun t => decide (t.bank = gone.bank ∧ t.slot.accs = []))) = true ∧
    nextAnd (exec (.remoteReply 1) m) (fun t => decide (t.bank.a = 99 ∧ t.metr = [])) = true := by decide +kernel
/-- R238, R254: the acknowledgement, and an error record. -/
theorem test_store_acknowledge : let s := fun (e : Option (BitVec 8)) => under (storeAt 0x1000) (.ack e)
    answerAhead (s none) 0 (storeAt 0x1000) = false ∧
    nextAnd (exec (.storeAcknowledge 0) (s none)) (fun t => decide (t.slot.nb = 0 ∧ t.slot.accs = [] ∧ t.slot.derr = [])) = true ∧
    nextAnd (exec (.storeAcknowledge 0) (s (some 0x11))) (fun t => decide (t.slot.nb = 0 ∧
      t.slot.derr = [⟨⟨0x11, 0x1000, ⟨false, true, 9, 0⟩⟩⟩])) = true := by decide +kernel
/-- R256, R258 at tile 65: a load, a load of a void granule under STRICT, a store and an `AADD`; a foreign tenant; bay 1's loft. -/
theorem test_home_access : let to65 := fun (op : ReqOp) (va : VA) => under (req64 op (.tile 0 5 65 1) va) .wire
    let sp := base64 + 32768
    let at_ := fun (op : ReqOp) (va : VA) => { to65 op va with mem := [(sp + 8, 6)] }
    let down := { under (req64 (.load 4 none) .config (0xD00000004000000004)) .wire with mem := [(loftBase 1 + 4, 9)] }
    let cfg := down.setDie 0 { down.getDie 0 with up := true }
    let foreign := let s := to65 (.load 8 none) 8; s.modTile 65 fun tl => { tl with launch := some { launch3 with tenant := 4 } }
    let ok8 := match (at_ (.load 8 none) 8).spRead 65 3 false 8 8 with | .ok bs => decide (bs = [6, 0, 0, 0, 0, 0, 0, 0]) | .error _ => false
    let strict := (at_ (.load 8 none) 32760).modSlotAt 65 1 fun sl => { sl with gpol := true }
    let bad := match strict.spRead 65 3 true 32760 8 with | .ok _ => false | .error e => decide (e.cause ≠ 0x13)
    let wr := match (at_ (.store [some 7]) 8).spWrite 65 3 8 [some 7] with | .ok _ => true | .error _ => false
    (firstOnWire (at_ (.load 8 none) 8) 0).isSome = true ∧ (firstOnWire cfg 0).isSome = true ∧ vaSpace (0xD00000004000000004) = 0xD ∧
    ok8 = true ∧ bad = true ∧ wr = true ∧
    nextAnd (exec (.homeNiAccess 0) (at_ (.load 8 none) 8)) (fun t => decide (phases t = [.reply [6, 0, 0, 0, 0, 0, 0, 0] false none false])) = true ∧
    nextAnd (exec (.homeNiAccess 0) strict) (fun t => (phases t).all fun p =>
      match p with | .reply [] false (some _) true => true | _ => false) = true ∧
    nextAnd (exec (.homeNiAccess 0) (at_ (.store [some 7]) 8)) (fun t => decide (phases t = [.ack none] ∧ t.mem = [(sp + 8, 7)] ∧
      t.slot.accs = [⟨7, true, true, true, true⟩])) = true ∧
    nextAnd (exec (.homeNiAccess 0) (at_ (.amo .aadd 4 5 0) 8)) (fun t => decide (phases t = [.reply [6, 0, 0, 0] false none false] ∧
      t.mem = [(sp + 8, 11)])) = true ∧
    nextAnd (exec (.homeNiAccess 0) foreign) (fun t => decide (phases t = [.reply [] false (some 0x12) true])) = true ∧
    nextAnd (exec (.homeNiAccess 0) cfg) (fun t => decide (phases t = [.reply [9, 0, 0, 0] false none false])) = true ∧
    (down.getDie 0).up = false ∧
    nextAnd (exec (.homeNiAccess 0) down) (fun t => decide (phases t = [.reply [] false (some 0x12) true])) = true := by decide +kernel
/-- R217: the walk of the tables. -/
theorem test_leaves : walkFrom tables 0x100000 6 0 0 0 = .leaf leaf0 := by decide +kernel
/-- R215 to R222: a mapped page, an absent one, a malformed entry (bit 40), a foreign colour, a home that is down; a replicated page; host
memory. -/
theorem test_entry_port : let s := fun (r : Req) => bulk r .wire tables; let v : VA := 0x100000; let h : VA := 0xF00000000000000000
    let bad : Memory := [(bb + 2, 4), (bb + 7, 0x80), (bb + 0x40002, 8), (bb + 0x40007, 0x80), (bb + 0x80005, 1), (bb + 0x80007, 0xC0)]
    let rep : Memory := [(bb + 2, 4), (bb + 7, 0x80), (bb + 0x40002, 8), (bb + 0x40007, 0x80), (bb + 0x80007, 0xD0)]
    let prop : Memory := [(bb + 2, 4), (bb + 7, 0x80), (bb + 0x40002, 8), (bb + 0x40007, 0x80), (bb + 0x80007, 0xE0)]
    let poor := let x := s (loadAt v); x.setTenant 3 { x.getTenant 3 with colours := 2 }
    let down := let x := s (loadAt v); x.setDie 0 { x.getDie 0 with up := false }
    let ends := fun (p : Phase) (x : State) => nextAnd (exec (.entryPortRequest 0) x) (fun t => decide (phases t = [p]))
    entryReady (s (loadAt v)) 0 ⟨loadAt v, .wire⟩ = true ∧ (translate (s (loadAt v)) 0 0x100000).2 = .leaf leaf0 ∧
    (translate (bulk (loadAt v) .wire bad) 0 0x100000).2 = .malformed ∧ (translate (bulk (loadAt v) .wire []) 0 0x100000).2 = .absent 0 ∧
    homeReached (s (loadAt v)) 0 0 = true ∧ homeReached down 0 0 = false ∧
    ends (.home { leaf0 with prop := true }) (bulk (loadAt v) .wire prop) = true ∧ ends (.home leaf0) (s (storeAt v)) = true ∧ ends (.home leaf0) (s (addAt v)) = true ∧
    ends (.copies { leaf0 with repl := true } [0]) (bulk (storeAt v) .wire rep) = true ∧
    ends (.reply [] false (some 0x10) true) (bulk (addAt v) .wire rep) = true ∧
    ends (.reply [] false (some 0x11) true) (bulk (loadAt v) .wire bad) = true ∧ ends (.reply [] false (some 0x10) true) poor = true ∧
    ends (.reply [] false (some 0x12) true) down = true ∧
    nextAnd (exec (.entryPortRequest 0) (bulk (storeAt v) .wire [])) (fun t => decide (phases t = [.parked ⟨0, 0, 7, 2, 0, false⟩] ∧
      t.faults = [⟨0x100000, 0, 3, 0, 7, 0, 2, 0⟩])) = true ∧
    ends .host (s (loadAt h)) = true ∧ ends (.ack none) (s (storeAt h)) = true ∧ ends .host (s (addAt h)) = true ∧
    ends (.reply [] false (some 0x10) true) (s (req64 (.amo .aand 8 0 0) .mem h)) = true := by decide +kernel
/-- R233, R220: a load, a store, an `AADD` at the page's home, a load of a bad doubleword, and the last copy of a store. -/
theorem test_home_port : let m := tables ++ [(bb + 0x100000, 6)]; let v : VA := 0x100000
    let s := fun (r : Req) => bulk r (.home leaf0) m
    let c := bulk (storeAt v) (.copies { leaf0 with repl := true } [2]) m
    let bad := { s (loadAt v) with badBulk := [(bb + 0x100000) / 8] }
    m.wf = true ∧ homeTurn (s (loadAt v)) 0 0 (loadAt v) = true ∧ servedAt (s (loadAt v)) 0 3 = true ∧
    badBulkIn (s (loadAt v)) (leafAddr leaf0 0 0x100000) 8 = false ∧ badBulkIn bad (leafAddr leaf0 0 0x100000) 8 = true ∧
    homeTurn c 0 2 (storeAt v) = true ∧ servedAt c 2 3 = true ∧
    nextAnd (exec (.homePortAccess 0) (s (loadAt v))) (fun t => decide (phases t = [.reply [6, 0, 0, 0, 0, 0, 0, 0] false none false])) = true ∧
    nextAnd (exec (.homePortAccess 0) bad) (fun t => decide (phases t = [.reply [] false (some 0x13) true])) = true ∧
    nextAnd (exec (.homePortAccess 0) (s (storeAt v))) (fun t => decide (phases t = [.ack none] ∧
      t.mem = tables ++ [(bb + 0x100000, 7), (bb + 0x100002, 8)])) = true ∧
    nextAnd (exec (.homePortAccess 0) (s (addAt v))) (fun t => decide (phases t = [.reply [6, 0, 0, 0, 0, 0, 0, 0] false none false] ∧
      t.mem = tables ++ [(bb + 0x100000, 11)])) = true ∧
    nextAnd (exec (.replicaWrite 0 2) c) (fun t => decide (phases t = [.ack none] ∧
      t.mem = m ++ [(bulkBase 2 + 0x100000, 7), (bulkBase 2 + 0x100002, 8)])) = true := by decide +kernel
/-- R256, R260: the host's bytes, and its refusal. -/
theorem test_host_answers : let s := fun (op : ReqOp) => under (req64 op .mem 0xF00000000000000000) .host
    nextAnd (exec (.pcieCompletion 0 true [1, 2, 3, 4]) (s (.load 4 none))) (fun t => decide (phases t = [.reply [1, 2, 3, 4] false none false])) = true ∧
    nextAnd (exec (.pcieCompletion 0 true [1, 2, 3, 4]) (s (.amo .acas 4 0 0x04030201))) (fun t =>
      decide (phases t = [.reply [1, 2, 3, 4] true none false])) = true ∧
    nextAnd (exec (.pcieCompletion 0 false []) (s (.load 4 none))) (fun t => decide (phases t = [.reply [] false (some 0x10) true])) = true ∧
    nextAnd (exec (.pcieCompletion 0 false []) (s (.amo .acas 4 0 0))) (fun t => decide (phases t = [.reply [] false (some 0x10) false])) = true := by
  decide +kernel
/-- R222 to R224: a second record of one fault is dropped; a held one is written; a flush; a dismissal; an invalidation, which a request of
the page holds up. -/
theorem test_fault_buffer : let r : FaultRec := ⟨0x100000, 0, 3, 0, 7, 0, 2, 0⟩; let p : Park := ⟨0, 0, 7, 2, 0, false⟩
    let s := { bulk (storeAt 0x100000) (.parked p) [] with faults := [r] }
    let h := { s with faults := [], heldFaults := [r] }; let u := bulk (loadAt 0x100000) (.home leaf0) tables
    let w := { u with invals := [⟨0, 0xFFFF, [4]⟩] }
    s.addFault r = s ∧ (h.addFault r).faults = [r] ∧
    nextAnd (exec (.faultRecordWrite 0) h) (fun t => decide (t.faults = [r] ∧ t.heldFaults = [])) = true ∧
    nextAnd (exec .faultFlush s) (fun t => decide (t.faults = [] ∧ t.fgen = 1 ∧ phases t = [.parked { p with retry := true }])) = true ∧
    nextAnd (exec (.faultDismiss 0) s) (fun t => decide (t.faults = [] ∧ phases t = [.ack (some 0x11)])) = true ∧
    nextAnd (exec (.invalidation 0 0xFFFF) u) (fun t => decide (t.invals = [⟨0, 0xFFFF, [4]⟩] ∧ (t.getDie 0).invSeq = 1)) = true ∧
    nextAnd (exec (.invalidationAcknowledge 0) w) (fun t => decide (t = w)) = true ∧
    nextAnd (exec (.invalidationAcknowledge 0) { w with flights := [] }) (fun t => decide (t.invals = [])) = true := by decide +kernel
/-- R396: function 5, bound to queue 2 of tenant 3 with base 0x1000; a function bound to nothing. -/
theorem test_bulk_window : let s := { bulk (loadAt 0) .wire (tables ++ [(bb + 0x101000, 6)]) with
      vfs := [(5, (2, 0x1000))], queues := [(2, (3, 0))], boot := { State.reset.boot with stage := 8 } }
    let busy := { s with wheelOn := [] }
    (match portRead s 16 0x101000 1 3 with | (_, .ok bs) => decide (bs = [6]) | _ => false) = true ∧
    (portWrite s 16 0x101000 [some 9] 3).2 = none ∧
    nextAnd (exec (.bulkWindowAccess 5 0x100000 2 none) s) (fun t => decide (t.out = [.bytes [6, 0]])) = true ∧
    nextAnd (exec (.bulkWindowAccess 5 0x100000 1 (some [9])) s) (fun t => decide (t.mem = tables ++ [(bb + 0x101000, 9)])) = true ∧
    nextAnd (exec (.bulkWindowAccess 6 0 1 none) s) (fun t => decide (t.out = [.refused])) = true ∧
    nextAnd (exec (.bulkWindowAccess 5 0 1 none) { s with boot := State.reset.boot }) (fun t => decide (t.out = [.refused])) = true ∧
    nextAnd (exec (.bulkWindowAccess 5 (2 ^ 34 - 1) 1 (some [9, 9])) s) (fun t => decide (t.out = [.refused] ∧ t.mem = s.mem)) = true ∧
    (∀ stack < 16, servedAt s stack 3 = true) ∧ dieOf 64 ≠ 16 ∧
    nextAnd (exec (.bulkWindowAccess 5 0x100000 1 none) busy) (fun t => decide (t = busy)) = true ∧
    nextAnd (exec (.bulkWindowAccess 5 0x100000 1 (some [9])) busy) (fun t => decide (t = busy)) = true ∧
    nextAnd (exec (.bulkWindowAccess 5 (2 ^ 34) 1 none) s) (fun t => decide (t.out = [.refused])) = true := by decide +kernel

/-! ### Events: engines -/

/-- `engine` with what its tile holds changed, and its memory. -/
def arrayed (f : Tile → Tile) (m : Memory) : State := let s := owned ebank []; { s with tile := f s.tile, mem := m }
def zeros (n : Nat) : List Byte := List.replicate n 0
/-- R274: a `PDOT` of a = b = 2 takes its 16 and its 128 bytes; not while `PPACK` is at work; a bad word of A. -/
theorem test_plane_start : let c : PlaneCmd := ⟨.pdot, 0, 0, 0x11, 1, 0, 64⟩; let k : PlaneRun := ⟨⟨.ppack, 0, 0, 1, 0, 8, 64⟩, [], [], none⟩
    let s := fun (b : List Nat) => arrayed (fun tl => { tl with planeQ := [c], bad := b }) [(base64 + 8, 1), (base64 + 64, 1)]
    let w := arrayed (fun tl => { tl with planeQ := [c], planeRun := [k] }) []
    ((s []).getTile 64).planeQ = [c] ∧ ((s []).getTile 64).arrayBusy = false ∧ (w.getTile 64).arrayBusy = true ∧
    nextAnd (exec (.planeCommandStart 64) (s [])) (fun t => decide (t.tile.planeQ = [] ∧
      t.tile.planeRun = [⟨c, zeros 8 ++ [1] ++ zeros 7, 1 :: zeros 127, none⟩] ∧ t.slot.perr = [])) = true ∧
    nextAnd (exec (.planeCommandStart 64) (s [1])) (fun t => decide (t.slot.perr = [⟨⟨0x13, 8, ⟨true, false, 0, 0⟩⟩⟩])) = true ∧
    nextAnd (exec (.planeCommandStart 64) w) (fun t => decide (t = w)) = true ∧
    (let f := { s [] with tile := { (s []).tile with frozen := true } }
     nextAnd (exec (.planeCommandStart 64) f) (fun t => decide (t = f))) = true ∧
    (let h := { s [] with tile := { (s []).tile with launch := some launch3 }, launches := [{ record9 with released := [] }] }
     tileReleased h 64 = false ∧ nextAnd (exec (.planeCommandStart 64) h) (fun t => decide (t = h)) = true) := by decide +kernel
/-- R276, R277 by hand: A[0] = 3 (a = 2), B column 0 has B[0] = 1: 5 + 3 = 8, and saturation at the top; in block mode with scales of 1,
3.0; in dual form the second block adds 2 to the next row; a bad word adds nothing, but NE falls. -/
theorem test_pdot_addition : let r := fun (cfg : BitVec 9) (a b : List Byte) (bad : Option Nat) => (⟨⟨.pdot, 0, 0, cfg, 1, 0, 64⟩, a, b, bad⟩ : PlaneRun)
    let s := fun (x : Word) (q : PlaneRun) => let u := arrayed (fun tl => { tl with planeRun := [q], ma := tl.ma.set 1 (Vector.replicate 8 x) }) []
      withSlot (fun sl => { sl with ne := 1 }) u
    let a2 := [1] ++ zeros 7 ++ [1] ++ zeros 7; let one : List Byte := [0, 0xF0, 0x07, 0, 0, 0, 0, 0]
    let done := fun (x : Word) (q : PlaneRun) (p : State → Bool) => nextAnd (exec (.pdotAddition 64) (s x q)) fun t =>
      decide (t.tile.planeRun = [] ∧ t.slot.ne = 0) && p t
    done 5 (r 0x11 a2 (1 :: zeros 127) none) (fun t => decide (t.tile.ma[1] = (Vector.replicate 8 5).set 0 8 ∧ t.tile.masat = false ∧
      t.tile.ma[2] = Vector.replicate 8 0)) = true ∧
    done 0x7FFFFFFE (r 0x11 a2 (1 :: zeros 127) none) (fun t => decide (t.tile.ma[1] = (Vector.replicate 8 0x7FFFFFFE).set 0 0x7FFFFFFF ∧
      t.tile.masat = true)) = true ∧
    done 0 (r 0x111 (a2 ++ one) ((1 :: zeros 15) ++ one ++ zeros 168) none) (fun t => decide ((t.tile.ma[1])[0] = 0x40400000)) = true ∧
    done 5 (r 0 ([1] ++ zeros 7 ++ [3] ++ zeros 7) (3 :: zeros 63) none) (fun t => decide ((t.tile.ma[1])[0] = 6 ∧ (t.tile.ma[2])[0] = 2)) = true ∧
    done 5 (r 0x11 a2 (1 :: zeros 127) (some 8)) (fun t => decide (t.tile.ma[1] = Vector.replicate 8 5)) = true ∧
    (let x := s 5 (r 0x11 a2 (1 :: zeros 127) none); let f := { x with tile := { x.tile with frozen := true } }
     nextAnd (exec (.pdotAddition 64) f) (fun t => decide (t = f))) = true := by decide +kernel
/-- R302 by hand: 5, 2, 1 packed into two planes are clamped to 3, 2, 1; those planes unpacked; a bad word writes nothing. -/
theorem test_pack_write :
    let s := fun (k : PlaneKind) (a : List Byte) (bad : Option Nat) =>
      withSlot (fun sl => { sl with ne := 1 }) (arrayed (fun tl => { tl with planeRun := [⟨⟨k, 0, 0, 1, 0, 8, 64⟩, a, [], bad⟩] }) [])
    let p := [5, 2, 1] ++ zeros 61; let u := [5] ++ zeros 7 ++ [3] ++ zeros 7
    (s .ppack p none).mem.wf = true ∧ (s .ppack p none).tile.bad = [] ∧ SMap.wfFrom Tile.reset 0 (s .ppack p none).others = true ∧
    (packOutput ⟨⟨.ppack, 0, 0, 1, 0, 8, 64⟩, p, [], none⟩).length = 16 ∧
    (∀ x < 16, (s .ppack p none).tile.tagClass ((s .ppack p none).tile.genFor 0 0) ((64 + x) / 32) = .own) ∧
    nextAnd (exec (.packWrite 64) (s .ppack p none)) (fun t => decide (t.mem = [(base64 + 64, 5), (base64 + 72, 3)] ∧ t.slot.ne = 0)) = true ∧
    nextAnd (exec (.packWrite 64) (s .punpk u none)) (fun t => decide (t.mem = [(base64 + 64, 3), (base64 + 65, 2), (base64 + 66, 1)])) = true ∧
    nextAnd (exec (.packWrite 64) (s .ppack p (some 8))) (fun t => decide (t.mem = [] ∧ t.tile.planeRun = [] ∧ t.slot.ne = 0)) = true := by
  decide +kernel

/-- A running copy command of `copyBlock`, or of another block. -/
def copyCmd (ws : List DWord) (p : Option Park) : Copy := ⟨0, 0, false, 3, 7, 0x40, copyD ws, 0, 0, p, none⟩
def copying (ws : List DWord) (p : Option Park) (m : Memory) : State :=
  let s := withSlot (fun sl => { sl with ne := 1, dom := 7 }) (bulk (loadAt 0) .wire m)
  { s with tile := { s.tile with copyRun := some (copyCmd ws p) }, flights := [] }
def fromVa : List DWord := [0x100000, 128, 0x0000400002000010, 0x0000001000000010]
/-- R281, R284 to R286: a queued command starts; the two rows move; a malformed page stops with STATUS 2 at its first address, an absent
one parks with KIND 1, and a dismissed one ends. -/
theorem test_copy_events : let m : Memory := [(base64 + 64, 1), (base64 + 96, 2)]
    let s := copying copyBlock none m; let c := copyCmd copyBlock none; let p : Park := ⟨0, 0, 7, 1, 0, false⟩
    let q := { s with tile := { s.tile with copyRun := none, copyQ := [c] } }
    let bad : Memory := [(bb + 2, 4), (bb + 7, 0x80), (bb + 0x40002, 8), (bb + 0x40007, 0x80), (bb + 0x80005, 1), (bb + 0x80007, 0xC0)]
    let ends := fun (x : State) (w0 w1 : DWord) => nextAnd (exec (.copyCompletion 64) x) fun t => decide (t.slot.inbox = [⟨w0, w1⟩] ∧
      t.tile.copyRun = none ∧ t.slot.ne = 0)
    copiesRunning q 1 = 0 ∧ bayOf 64 = 1 ∧ (q.getTile 64).copyQ = [c] ∧
    nextAnd (exec (.copyStart 1) q) (fun t => decide (t.tile.copyRun = some c ∧ t.tile.copyQ = [])) = true ∧
    (c.dw[2]).getLsbD 47 = true ∧ (c.dw[2]).getLsbD 46 = true ∧ SideOwn s 64 c true 4 ∧ SideOwn s 64 c false 4 ∧
    (∀ i < 4, ∀ j < 4, copySpot true c.dw i ≠ copySpot false c.dw j) ∧
    (∀ i < 4, ∀ j < 4, copySpot false c.dw i = copySpot false c.dw j → i = j) ∧
    ends s 0x0100000000000040 0 = true ∧
    nextAnd (exec (.copyCompletion 64) s) (fun t => decide (t.mem = m ++ [(base64 + 128, 1), (base64 + 144, 2)])) = true ∧
    copyFar (copyCmd fromVa none) 64 (copying fromVa none bad) = false ∧
    ends (copying fromVa none bad) 0x0102000000000040 0x100000 = true ∧
    nextAnd (exec (.copyCompletion 64) (copying fromVa none [])) (fun t => decide (t.tile.copyRun = some (copyCmd fromVa (some p)) ∧
      t.faults = [⟨0x100000, 0, 3, 0, 7, 0, 1, 0⟩])) = true ∧
    ends (copying fromVa (some { p with level := 6, retry := true }) []) 0x0102000000000040 0x100000 = true ∧
    nextAnd (exec (.copyCompletion 64) (copying fromVa (some p) [])) (fun t => decide (t.tile.copyRun = some (copyCmd fromVa (some p)))) = true := by
  unfold SideOwn; decide +kernel

/-- A doubleword of bulk memory read for a copy, and one written to the scratchpad, computed. -/
def readOne (c : Copy) (t i : Nat) (s : State) : Option (List Byte × State) :=
  match portRead s (dieOf t) (copyVa true c.dw i) 8 c.tenant with
  | (s1, .ok bs) => if bs.length = 8 ∧ c.dw[2].getLsbD 47 = false ∧ copyVa true c.dw i / 2 ^ 68 % 16 < 12 then some (bs, s1) else none
  | _ => none
def writeOne (c : Copy) (t i : Nat) (s : State) (bs : List Byte) : Option State :=
  match s.spWrite t ((s.getTile t).genFor c.slot c.run) (copySpot false c.dw i).toNat (bs.map some) with
  | .ok s1 => if c.dw[2].getLsbD 46 = true then some s1 else none
  | _ => none
theorem readOne_eq {c : Copy} {t i : Nat} {s s1 : State} {bs : List Byte} (h : readOne c t i s = some (bs, s1)) : ReadsDw c t i s bs s1 := by
  unfold readOne at h
  split at h
  · split at h
    · obtain ⟨rfl, rfl⟩ := Prod.mk.inj (Option.some.inj h)
      rename_i hp hc
      refine ⟨hc.1, ?_⟩
      simp only [hc.2.1, Bool.false_eq_true, if_false]
      exact .inl ⟨hc.2.2, hp⟩
    · cases h
  · cases h
theorem writeOne_eq {c : Copy} {t i : Nat} {s s1 : State} {bs : List Byte} (h : writeOne c t i s bs = some s1) : WritesDw c t i s bs s1 := by
  unfold writeOne at h
  split at h
  · split at h
    · cases h
      rename_i hc hp
      simp only [WritesDw, hc, if_true]; exact hp
    · cases h
  · cases h
def moves (c : Copy) (t : Nat) : Nat → Nat → State → Option State
  | 0, _, s => some s
  | n + 1, i, s => (readOne c t i s).bind fun x => (writeOne c t i x.2 x.1).bind (moves c t n (i + 1))
theorem moves_eq {c : Copy} {t : Nat} : ∀ (n i : Nat) (s s' : State), moves c t n i s = some s' → MoveAll c t n i s s'
  | 0, _, s, s', h => (Option.some.inj h).symm
  | n + 1, i, s, s', h => by
    obtain ⟨⟨bs, s1⟩, h1, h2⟩ := Option.bind_eq_some_iff.mp h
    obtain ⟨s2, h2, h3⟩ := Option.bind_eq_some_iff.mp h2
    exact ⟨bs, s1, s2, readOne_eq h1, writeOne_eq h2, moves_eq n (i + 1) s2 s' h3⟩
def readsAll (c : Copy) (t : Nat) : List (List Byte) → Nat → State → Option State
  | [], _, s => some s
  | bs :: r, i, s => (readOne c t i s).bind fun x => if x.1 = bs then readsAll c t r (i + 1) x.2 else none
theorem readsAll_eq {c : Copy} {t : Nat} : ∀ (l : List (List Byte)) (i : Nat) (s s' : State), readsAll c t l i s = some s' → ReadAll c t l i s s'
  | [], _, s, s', h => (Option.some.inj h).symm
  | bs :: r, i, s, s', h => by
    obtain ⟨⟨b, s1⟩, h1, h2⟩ := Option.bind_eq_some_iff.mp h
    split at h2
    · rename_i hb; subst hb
      exact ⟨s1, readOne_eq h1, readsAll_eq r (i + 1) s1 s' h2⟩
    · cases h2
def writesAll (c : Copy) (t : Nat) : List (List Byte) → Nat → State → Option State
  | [], _, s => some s
  | bs :: r, i, s => (writeOne c t i s bs).bind (writesAll c t r (i + 1))
theorem writesAll_eq {c : Copy} {t : Nat} : ∀ (l : List (List Byte)) (i : Nat) (s s' : State), writesAll c t l i s = some s' → WriteAll c t l i s s'
  | [], _, s, s', h => (Option.some.inj h).symm
  | bs :: r, i, s, s', h => by
    obtain ⟨s1, h1, h2⟩ := Option.bind_eq_some_iff.mp h
    exact ⟨s1, writeOne_eq h1, writesAll_eq r (i + 1) s1 s' h2⟩
def byteSix : Memory := tables ++ [(bb + 0x100000, 6)]
def sixes : List (List Byte) := (6 :: zeros 7) :: List.replicate 3 (zeros 8)
def coded : List DWord := [0x100000, 128, 0x0000600002000010, 0x0000001000000010]
/-- R284, R287: two rows from bulk memory to the scratchpad, as they are and coded; no service slot; a granule ahead at the destination. -/
theorem test_copy_moves : let s := copying fromVa none byteSix; let c := copyCmd fromVa none
    let x := copying coded none byteSix; let d := copyCmd coded none
    let ahead := { s with tile := { s.tile with tags := SMap.set 0xFFF s.tile.tags 4 0 } }
    (∃ s1, MoveAll c 64 4 0 s s1) ∧ (∃ cs s1, MoveChunks d 64 4 cs 0 x s1) ∧ copyFar c 64 s = false ∧ copyFar d 64 x = false ∧
    (d.dw[2]).getLsbD 45 = true ∧
    nextAnd (exec (.copyCompletion 64) s) (fun t => decide (t.slot.inbox = [⟨0x0100000000000040, 0⟩] ∧
      byteAt t (base64 + 128) = 6 ∧ t.tile.copyRun = none)) = true ∧
    nextAnd (exec (.copyCompletion 64) { s with wheelOn := [] }) (fun t => decide (t.tile.copyRun = some c)) = true ∧
    nextAnd (exec (.copyCompletion 64) ahead) (fun t => decide (t.slot.inbox = [⟨0x0106000000000040, 128⟩])) = true := by
  refine ⟨?_, ?_, by decide +kernel, by decide +kernel, by decide +kernel, by decide +kernel, by decide +kernel, by decide +kernel⟩
  · obtain ⟨s1, h⟩ := Option.isSome_iff_exists.mp
      (by decide +kernel : (moves (copyCmd fromVa none) 64 4 0 (copying fromVa none byteSix)).isSome = true)
    exact ⟨s1, moves_eq _ _ _ _ h⟩
  · obtain ⟨s2, h⟩ := Option.isSome_iff_exists.mp
      (by decide +kernel : ((readsAll (copyCmd coded none) 64 sixes 0 (copying coded none byteSix)).bind
        (writesAll (copyCmd coded none) 64 sixes 0)).isSome = true)
    obtain ⟨s1, h1, h2⟩ := Option.bind_eq_some_iff.mp h
    exact ⟨[sixes], s2, by decide, s1, s2, readsAll_eq _ _ _ _ h1, writesAll_eq _ _ _ _ h2, by decide, rfl⟩

/-- R287 to R289 by hand: bf16 elements 1.0, 1.0, −2.0, 1.0078 with code lengths 1 for exponent 127 and 2 for 128 (codes 0 and 10); the far
end reads them back, as it does a chunk behind an escape word. -/
theorem test_coded_chunk : let bs : List Byte := [0x80, 0x3F, 0x80, 0x3F, 0x00, 0xC0, 0x81, 0x3F]
    let lens := (List.range 256).map fun (e : Nat) => if e = 127 then 1 else if e = 128 then 2 else 0
    let table : List DWord := List.replicate 7 0 ++ [0x1000000000000000, 2] ++ List.replicate 7 0
    let ws := codedChunk false lens (elemsOf false 4 bs)
    lengthsOk lens [127, 127, 128, 127] = true ∧ ws = (4 * 2 ^ 40) :: table ++ [4, 0x01800000] ∧ chunkBytes false 8 ws = bs ∧
    chunkBytes true 8 [0x8000020000000000, 0x3F81C0003F803F80] = bs := by decide +kernel

/-- A granary command of slot 0 of tile 64 for bin 4,095 of granary 0, which tenant 3 holds; its generation there is `bg`. -/
def granCmd (load : Bool) (d : DWord) (p : Option Park) : GranReq := ⟨load, 64, 0, 0, 3, 7, 0x40, #v[d, 0xFFF], p⟩
def granary (r : GranReq) (tag : BitVec 12) (strict : Bool) (m : Memory) : State :=
  let s := withSlot (fun sl => { sl with ne := 1, gpol := strict }) (bulk (loadAt 0) .wire m)
  { s with flights := [], gran := [r], bins := SMap.set Bin.reset [] 4095 ⟨3, tag, false, 0⟩ }
def granEnds (x : State) (e : Instr) (w0 : DWord) (p : State → Bool) : Bool :=
  nextAnd (exec e x) fun t => decide (t.gran = [] ∧ t.slot.inbox = [⟨w0, 0xFFF⟩] ∧ t.slot.ne = 0) && p t
/-- R290 to R293, R312, R313 by hand: one row loaded from VA 0x100000; a bin of another tenant; a dismissed page; both kinds of result of
a live bin; a bin that is not live, under STRICT. -/
theorem test_granary_events : let b0 := binBase 0 4095; let slab : Memory := tables ++ [(bb + 0x100000, 0x22)]
    let m : Memory := [(base64 + 1024, 0x22), (base64 + 1536, 127), (b0, 0x22), (b0 + 512, 127)]
    let l := granCmd true 0x100000 none; let gone := granCmd true 0x100000 (some ⟨6, 0, 7, 1, 0, true⟩)
    let raw := granCmd false 0x1000000000400400 none; let sum := granCmd false 0x400400 none
    let bin := fun (s : State) => SMap.get Bin.reset s.bins 4095
    granFirst (granary l 0xFFF false slab) 0 l = true ∧ granPermitted (granary l 0xFFF false slab) l = true ∧
    granEnds (granary l 0xFFF false slab) (.granaryLoad 0) 0x0500000000000040 (fun t => decide (bin t = ⟨3, 0, false, 0⟩ ∧
      t.mem = (b0, 0x22) :: slab)) = true ∧
    granEnds { granary l 0xFFF false slab with bins := [] } (.granaryLoad 0) 0x0508000000000040 (fun t => decide (t.bins = [])) = true ∧
    granEnds (granary gone 0xFFF false slab) (.granaryLoad 0) 0x0502000000000040 (fun t => decide (t.mem = slab)) = true ∧
    granEnds (granary l 0xFFF false [(bb + 5, 1), (bb + 7, 0x80)]) (.granaryLoad 0) 0x0502000000000040 (fun _ => true) = true ∧
    nextAnd (exec (.granaryLoad 0) (granary l 0xFFF false [])) (fun t => decide (t.gran.map (·.park) = [some ⟨0, 0, 7, 1, 0, false⟩] ∧
      t.faults.length = 1)) = true ∧
    nextAnd (exec (.granaryLoad 0) { granary l 0xFFF false slab with wheelOn := [] }) (fun t => decide (t.gran = [l] ∧ t.slot.inbox = [])) = true ∧
    granEnds (granary raw 0 false m) (.granaryCompute 0) 0x0600000000000040 (fun _ => true) = true ∧
    granEnds (granary sum 0 false m) (.granaryCompute 0) 0x0600000000000040 (fun t => decide (byteAt t b0 = 0x22)) = true ∧
    granEnds (granary sum 5 true m) (.granaryCompute 0) 0x0605000000000040 (fun t => decide (t.mem = m)) = true ∧
    granEnds { granary sum 0 false m with bins := [] } (.granaryCompute 0) 0x0608000000000040 (fun t => decide (t.mem = m)) = true ∧
    nextAnd (exec (.binGrant 7 4095 511) (granary l 0 false [])) (fun t => decide (SMap.get Bin.reset t.bins (7 * 4096 + 4095) = ⟨511, 0xFFF, false, 0⟩)) = true ∧
    nextAnd (exec (.binGenerationAdvance 0 3) { granary l 0 false [] with bg := [(3, 4094)] }) (fun t => decide (SMap.get 0 t.bg 3 = 0)) = true := by
  decide +kernel
/-- R293 by hand: 1.0, 1.0 in block 0 of both, with scales that make 1: RAW gives 8, in quarters; the sum is 2.0; and a scale of 0xFF. -/
theorem test_granary_row : let w := fun (e : Byte) => (⟨[0x22], [e]⟩ : WeightRow)
    let first := fun (bs : List Byte) => wordOf (bs.take 4)
    first (rowResult false true (w 254) [0x22]) = 8 ∧ first (rowResult false false (w 254) [0x22]) = 0x40000000 ∧
    first (rowResult false true (w 255) [0x22]) = 0x80000000 ∧ first (rowResult false false (w 255) [0x22]) = 0x7FC00000 := by decide +kernel
/-- R295 to R297: threads of index 0 on tile 64 and of index 1 on tile 65: the chain goes from 65 to 64, and sums 5 and 6; a thread that
has not contributed holds it; the result. -/
theorem test_combining : let l := { record9 with threads := [⟨64, 0, [0, 0], false⟩, ⟨65, 0, [0, 1], false⟩] }
    let w := fun (c : List (Nat × BitVec 2 × DWord)) (a : Option DWord) (ch : List Nat) (st : Bool) => (⟨9, 0, [0], 1, c, a, ch, st⟩ : WaveRun)
    let s := fun (x : WaveRun) => { ctx64 { slotWith (bankA 0) with wave := some ⟨0, 0, 5, 1, none⟩ } with launches := [l], waves := [x] }
    let both : List (Nat × BitVec 2 × DWord) := [(0, 0, 5), (1, 0, 6)]
    let ths := waveThreads l (w both none [] false)
    (ths.map (·.1)) = [0, 1] ∧ (s (w both none [] false)).findLaunch 9 = some l ∧ chainTiles ths = [65, 64] ∧
    (∀ x ∈ ths, x.2.tile = 65 → x.2.ended = true ∨ ∃ c ∈ both, c.1 = x.1) ∧
    nextAnd (exec (.combineForward 0) (s (w both none [] false))) (fun t => decide (t.waves = [w both (some 6) [64] true])) = true ∧
    nextAnd (exec (.combineForward 0) (s (w both (some 6) [64] true))) (fun t => decide (t.waves = [w both (some 11) [] true])) = true ∧
    nextAnd (exec (.combineForward 0) (s (w [(0, 0, 5)] none [] false))) (fun t => decide (t.waves = [w [(0, 0, 5)] none [] false])) = true ∧
    nextAnd (exec (.collectiveResult 64 0) (s (w both (some 11) [] true))) (fun t => decide (t.slot.wave = some ⟨0, 0, 5, 1, some 11⟩)) = true := by
  decide +kernel

/-! ### Events: balancer, permits, meters -/

/-- R137, R140 by hand, at the end of a window of tile 64's stook: weights 16, 16, 16 and 40 with T = 12 give a gap of 24, and filler
budgets of 40 − 12 − 16 = 12; with T = 24 nothing; in THROTTLE a budget of 40 − 16 − 12 = 12 for the heavy tile. -/
theorem test_stook_window :
    let s := fun (T : BitVec 7) (bal : Bool) =>
      let x := ctx64 (slotWith (bankA 0)); let d := x.getDie 0
      let x := x.setBay 1 { Bay.reset with launch := some 9, cyc := 31, ran := [64, 67] }
      let x := (x.modTile 64 fun tl => { tl with launch := some { launch3 with bal := bal } }).modTile 67 fun tl => { tl with weight := 24 }
      x.setDie 0 { d with pwr := { d.pwr with t := T } }
    let idle := ctx64 (slotWith (bankA 0))
    SMap.wfFrom Tile.reset 0 (s 12 false).others = true ∧ SMap.wfFrom Bay.reset 0 (s 12 false).bays = true ∧
    ((s 12 false).getBay 1).launch ≠ none ∧ ((s 12 false).getBay 1).cyc.toNat % 16 = 15 ∧ bayCycleDone (s 12 false) 1 = true ∧
    nextAnd (exec (.stookWindowEnd 1 0) (s 12 false)) (fun t => decide (t.tile.fillD = 12 ∧ (t.getTile 67).fillD = 0 ∧
      (t.getTile 67).weight = 0 ∧ (t.getBay 1).imb[0] = 24 ∧ (t.getBay 1).winDone = 1 ∧
      nextAnd (exec (.stookWindowEnd 1 0) t) (fun u => decide (u = t)) = true)) = true ∧
    nextAnd (exec (.stookWindowEnd 1 0) (s 24 false)) (fun t => decide (t.tile.fillD = 0 ∧ (t.getBay 1).imb[0] = 0)) = true ∧
    nextAnd (exec (.stookWindowEnd 1 0) (s 12 true)) (fun t => decide (t.tile.fillD = 0 ∧ (t.getTile 67).thrE = 12)) = true ∧
    nextAnd (exec (.stookWindowEnd 1 0) idle) (fun t => decide (t = idle)) = true := by decide +kernel
/-- Slot 0 of tile 64, whose bay holds the launch, with budgets; the word at its PC, and the array's work. -/
def balanced (d e : Int) (w : Nat) (p : List PlaneRun) : State :=
  let x := ctx64 { slotWith (bankA 0) with lines := [1] }
  { x with tile := { x.tile with fillD := d, thrE := e, planeRun := p }, bays := [(1, { Bay.reset with launch := some 9 })],
           mem := writeBytes [] (loftBase 1 + 20) (bytesOf 4 (BitVec.ofNat 32 w)) }
def packing : PlaneRun := ⟨⟨.ppack, 0, 0, 1, 0, 8, 64⟩, [], [], none⟩
def began (s : State) : State := beginCycle (s.focus 64)
/-- Table 7.1: 6 while the array works, 2 for an `ADD #1`, 1 where no context is ready. -/
theorem test_natural_weight : NaturalWeight (began (balanced 7 0 0x0C000001 [packing])) 6 ∧
    NaturalWeight (began (balanced 7 0 0x0C000001 [])) 2 ∧
    NaturalWeight (began (withSlot (fun sl => { sl with halted := true }) (balanced 7 0 0x0C000001 []))) 1 := by
  refine ⟨.inl ⟨by decide +kernel, rfl⟩, .inr (.inr ⟨by decide +kernel, 0, .addImm ⟨0, 0, 1⟩, 4, ?_⟩),
    .inr (.inl ⟨by decide +kernel, by decide +kernel, rfl⟩)⟩
  have h : nextAnd (exec (.addImm ⟨0, 0, 1⟩) (taken ((unyield 0 (tickPauses (began (balanced 7 0 0x0C000001 [])))).turnTo 0)))
      (fun t => t.slot.wait = none) = true := by decide +kernel
  unfold nextAnd at h
  split at h
  · rename_i s' hs
    exact ⟨s', by decide +kernel, by unfold TakesTurn Undisturbed; decide +kernel, hs, .inl (by simpa using h),
      .inl ⟨.inl rfl, by decide +kernel⟩⟩
  · cases h
/-- R139, R141: a filler step beside an `ADD #1`, none beside a working plane array; a throttled `ADD` and a throttled array; no
throttling of a cycle of weight 1. -/
theorem test_stook_steps : let stopped := withSlot fun sl => { sl with halted := true }
    nextAnd (exec (.stookFillerStep 64) (balanced 7 0 0x0C000001 [])) (fun t => decide (t.tile.fillD = 3 ∧ t.tile.counts = [(1, 1), (3, 1)] ∧
      (t.getBay 1).fill[0] = 1 ∧ t.bank.pc = 6 ∧ t.bank.a = 1)) = true ∧
    nextAnd (exec (.stookFillerStep 64) (balanced 7 0 0x0C000001 [packing])) (fun t => decide (t = balanced 7 0 0x0C000001 [packing])) = true ∧
    (let s := balanced 7 0 0x0C000001 []
     let q := { s with tile := { s.tile with planeQ := [⟨.pdot, 0, 0, 0, 1, 0, 64⟩] } }
     nextAnd (exec (.stookFillerStep 64) q) (fun t => decide (t.tile.fillD = 7 ∧ t.tile.planeQ = [] ∧ t.tile.planeRun.length = 1 ∧
       t.tile.weight = 5 ∧ t.tile.counts = [(1, 1)]))) = true ∧
    nextAnd (exec (.stookThrottle 64) (balanced 0 7 0x0C000001 [packing])) (fun t => decide (t.tile.thrE = 2 ∧ t.tile.weight = 5 ∧
      t.tile.counts = [(2, 1)] ∧ t.tile.frozen = true ∧ t.bank.pc = 5)) = true ∧
    nextAnd (exec (.stookThrottle 64) (balanced 0 7 0x0C000001 [])) (fun t => decide (t.tile.thrE = 6 ∧ t.tile.weight = 1 ∧ t.bank.pc = 5)) = true ∧
    nextAnd (exec (.stookThrottle 64) (stopped (balanced 0 7 0x0C000001 []))) (fun t => decide (t = stopped (balanced 0 7 0x0C000001 []))) = true ∧
    nextAnd (exec (.stookThrottle 64) (balanced 0 0 0x0C000001 [])) (fun t => decide (t = balanced 0 0 0x0C000001 [])) = true := by
  decide +kernel
/-- R354, R356: CAP 0 acts as 1; RATE 511 as 256; SCALE 128 halves a rate of 3 to 1. -/
theorem test_permit_refill :
    let s := fun (lv : BitVec 6) (acc : BitVec 9) (r : Rate) (scale : BitVec 9) =>
      let x := ctx64 (slotWith (bankA 0)); let d := x.getDie 0
      let x := { x with tile := { x.tile with pm := ⟨lv, acc⟩ } }
      (x.setBay 1 { Bay.reset with rm := r }).setDie 0 { d with pwr := { d.pwr with scale := scale } }
    let pm := fun (x : State) (lv : BitVec 6) (acc : BitVec 9) => nextAnd (exec (.permitRefill 64) x) fun t => decide (t.tile.pm = ⟨lv, acc⟩)
    pm (s 1 9 ⟨0, 9⟩ 256) 1 0 = true ∧ pm (s 1 250 ⟨2, 9⟩ 256) 2 3 = true ∧ pm (s 0 0 ⟨1, 511⟩ 256) 1 0 = true ∧
    pm (s 0 0 ⟨1, 3⟩ 128) 0 1 = true := by decide +kernel
/-- R357: SCALE down, not below 16; up, not above 256; standing. -/
theorem test_power_scale : let p := fun (budget draw : BitVec 16) (scale : BitVec 9) => (controlScale ⟨budget, draw, scale, true, 12⟩).scale
    p 100 101 256 = 240 ∧ p 100 101 20 = 16 ∧ p 100 91 100 = 116 ∧ p 100 91 250 = 256 ∧ p 100 92 100 = 100 ∧ p 100 100 100 = 100 := by
  decide +kernel
/-- R356, R357: whatever the sensor measures, one of the three cases of the rule is met. -/
theorem test_power_cases (budget seen : BitVec 16) : budget.toNat < seen.toNat ∨ seen.toNat + 8 < budget.toNat ∨
    (seen.toNat ≤ budget.toNat ∧ budget.toNat ≤ seen.toNat + 8) := by omega
/-- R350, R351, R369: local counts of instructions and packets go to tenant 3; a sample; counter 15; a deletion. -/
theorem test_meters : let x := ctx64 (slotWith (bankA 0))
    let s := { x with tile := { x.tile with counts := [(0, 5), (9, 1)] }, meters := [(48, 2), (64, 7)] }
    let m := fun (ix : Nat) => { s with metr := [⟨64, 0, 0, false, 7, 3, ix, none⟩] }
    SMap.wfFrom 0 0 s.meters = true ∧ SMap.wfFrom 0 0 s.tile.counts = true ∧ (∀ kc ∈ s.tile.counts, kc.1 < 16) ∧
    nextAnd (exec (.meterFlush 64) s) (fun t => decide (t.tile.counts = [] ∧ t.meters = [(48, 7), (57, 1), (64, 7)])) = true ∧
    nextAnd (exec (.metrSample 0) (m 0)) (fun t => decide (t.metr.map (·.value) = [some 2])) = true ∧
    nextAnd (exec (.metrSample 0) (m 15)) (fun t => decide (t.metr.map (·.value) = [some 0])) = true ∧
    nextAnd (exec (.tenantDeletion 3) s) (fun t => decide (t.meters = [(64, 7)])) = true := by decide +kernel

/-! ### Events: launches -/

/-- A record of tenant 3: code at 0x200000, tree at 0x300000, DONE at 0x400000, the signal 0x500000. -/
def dw9 : Vector DWord 8 := #v[0x0003000000200000, 0x300000, 0, 0x500000, 0, 0, 0x400000, 0]
def rec9 (st : LState) : Launch :=
  { record9 with dw := dw9, st := st, levels := [⟨2, 1⟩], threads := [⟨64, 0, [0], false⟩, ⟨64, 1, [1], false⟩], released := [], saved := [] }
/-- The hub with some records; bay 1 is the partition of tenant 3 and holds launch 9; tile 64 holds it too, its slots empty. -/
def hub9 (ls : List Launch) (m : Memory) : State :=
  let s := { bulk (loadAt 0) .wire m with flights := [], launches := ls, boot := ⟨8, 0, 0, 0, 0⟩, queues := [(2, (3, 0))], vfs := [(5, (2, 0x1000))] }
  let s := s.setTenant 3 { s.getTenant 3 with part := [1], budget := 9, save := 0x1000000 }
  let d := s.getDie 0
  let s := s.setDie 0 { d with pwr := { d.pwr with rot := false } }
  { s with tile := { s.tile with slots := Tile.reset.slots }, bays := [(1, { Bay.reset with launch := some 9 })] }
/-- The image of one word with its entry at word 0, and a tree of one level: two slots. -/
def image9 : Memory := tables ++ [(bb + 0x200000, 0x31), (bb + 0x200001, 0x45), (bb + 0x200002, 0x56), (bb + 0x200003, 0x48), (bb + 0x200004, 1),
  (bb + 0x200006, 1), (bb + 0x20000C, 1), (bb + 0x200063, 0xA0), (bb + 0x300000, 1), (bb + 0x300008, 2), (bb + 0x30000A, 1)]
def broken : Memory := [(bb + 2, 4), (bb + 7, 0x80), (bb + 0x40002, 8), (bb + 0x40007, 0x80), (bb + 0x80005, 1), (bb + 0x80007, 0xC0)]
def done9 (v : Int) (t : State) : Bool := decide (dwordOf (readBytes t.mem (bb + 0x400000) 8) = BitVec.ofInt 64 v)
def stIs (st : List LState) (t : State) : Bool := decide (t.launches.map (·.st) = st)
def gone9 (code : Int) (t : State) : Bool := stIs [] t && done9 (-code) t && decide (SMap.get 0 t.meters 61 = 1)

/-- R336, R367, R396, R398, R411: a record through the window of function 5; one of another tenant; half a record; one before boot has ended
and one that meets a reset of its function; a read of the window; `LAUNCH`, and its record of KIND 7. -/
theorem test_submissions : let s := hub9 [] tables; let bytes := dw9.toList.flatMap (bytesOf 8)
    let u : HubSub := ⟨64, 0, 0, 7, 2, 5, dw9, 0x40, none⟩
    let w := fun (x : HubSub) (a : List Acc) => withSlot (fun sl => { sl with st := .user, ne := 1, accs := a }) { s with subs := [x] }
    bytes.length = 64 ∧ (SMap.get (512, 0) s.queues (SMap.get (512, 0) s.vfs 5).1).1 = 3 ∧
    nextAnd (exec (.submission (.windowRead 5 64 2)) s) (fun t => decide (t.out = s.out ++ [.bytes [0, 0]])) = true ∧
    nextAnd (exec (.submission (.window 5 64 bytes)) { s with flrs := [5] }) (fun t => decide (t = { s with flrs := [5] })) = true ∧
    nextAnd (exec (.submission (.window 5 64 bytes)) { s with boot := { s.boot with stage := 7 } }) (stIs []) = true ∧
    nextAnd (exec (.submission (.launch 0)) { w u [] with flrs := [5] }) (fun t => decide (t.subs = [])) = true ∧
    nextAnd (exec (.submission (.launch 0)) { w u [] with boot := { s.boot with stage := 7 } }) (fun t => decide (t.subs = [u])) = true ∧
    nextAnd (exec (.submission (.window 5 64 bytes)) s) (fun t => decide (t.launches.map (fun l => (l.lid, l.st, l.q, l.tenant)) =
      [(0x200000, .queued, 2, 3)] ∧ t.queues = [(2, (3, 1))])) = true ∧
    nextAnd (exec (.submission (.window 5 64 bytes)) { s with queues := [(2, (4, 0))] }) (fun t => stIs [] t && done9 (-1) t &&
      decide (SMap.get 0 t.meters 75 = 1)) = true ∧
    nextAnd (exec (.submission (.window 5 64 (bytes.take 32))) s) (fun t => stIs [] t && decide (SMap.get 0 t.meters 59 = 1)) = true ∧
    submissionReady (w u []) u = true ∧ submissionReady (w u [⟨6, false, true, true, false⟩]) u = false ∧
    nextAnd (exec (.submission (.launch 0)) (w u [])) (fun t => decide (t.subs.map (·.answer) = [some (some 0x200000)])) = true ∧
    nextAnd (exec (.submission (.launch 0)) (w u [⟨6, false, true, true, false⟩])) (fun t => decide (t.subs = [u])) = true ∧
    nextAnd (exec (.launchSubmissionRecord 0) (w { u with answer := some (some 0x200000) } [])) (fun t =>
      decide (t.slot.inbox = [⟨0x0700000000000040, 0x200000⟩] ∧ t.subs = [])) = true := by decide +kernel
/-- R338: a store, a decrement, a store of a tenant without the colour, and one that meets an absent page. -/
theorem test_signal_writes : let s := hub9 [] tables
    done9 5 (storeDone none 3 0x400000 (some 5) s) = true ∧ done9 (-1) (storeDone none 3 0x400000 none s) = true ∧
    (portWrite s 16 0x400000 ((bytesOf 8 (5 : DWord)).map some) 3).2 = none ∧ (portDecrement s 16 0x400000 3).2 = none ∧
    (portWrite s 16 0x400000 ((bytesOf 8 (5 : DWord)).map some) 4).2 = some (.err 0x10) ∧
    (portWrite (hub9 [] []) 16 0x400000 ((bytesOf 8 (5 : DWord)).map some) 3).2 = some (.absent 0) ∧
    done9 0 (storeDone none 4 0x400000 (some 5) s) = true ∧ storeDone none 3 0 (some 5) s = s ∧
    (storeDone (some 2) 3 0x400000 (some 5) (hub9 [] [])).owed = [⟨some 2, 3, 0x400000, some 5, some ⟨0, 0, 0, 2, 0, false⟩⟩] := by
  decide +kernel
/-- R337: behind a running record, behind a barrier, and behind a barrier's parked write. -/
theorem test_queue_dispatch : let b := { rec9 .running with lid := 8 }; let h := { b with dw := dw9.set 7 0x80000000 }
    let o : Owed := ⟨some 0, 3, 0x400000, none, none⟩
    [b, rec9 .queued].filter (·.q == 0) = [b] ++ rec9 .queued :: [] ∧ recBarrier b.dw = false ∧ recBarrier h.dw = true ∧
    nextAnd (exec (.queueDispatch 0) (hub9 [b, rec9 .queued] [])) (stIs [.running, .waiting]) = true ∧
    nextAnd (exec (.queueDispatch 0) (hub9 [h, rec9 .queued] [])) (stIs [.running, .queued]) = true ∧
    nextAnd (exec (.queueDispatch 0) { hub9 [b, rec9 .queued] [] with owed := [o] }) (stIs [.running, .queued]) = true := by decide +kernel
/-- R338: the signal at 0, at 1 and at the most negative number; a dismissed read. -/
theorem test_signal_reads : let l := rec9 .waiting; let d := { l with park := some ⟨6, 0, 0, 1, 0, true⟩ }
    let s := fun (m : Memory) => hub9 [l] (tables ++ m)
    (s []).findLaunch (BitVec.ofNat 29 9) = some l ∧ l.waits = false ∧ l.dismissed = false ∧ d.waits = false ∧ d.dismissed = true ∧
    (match readSignal l 0x500000 (s []) with | .zero => true | _ => false) = true ∧
    nextAnd (exec (.signalRead 9) (s [])) (stIs [.ready]) = true ∧
    nextAnd (exec (.signalRead 9) (s [(bb + 0x500000, 1)])) (stIs [.waiting]) = true ∧
    nextAnd (exec (.signalRead 9) (s [(bb + 0x500007, 0x80)])) (gone9 0x46) = true ∧
    nextAnd (exec (.signalRead 9) (hub9 [d] tables)) (gone9 0x46) = true := by decide +kernel
/-- R341, R342: the one tenant gains the whole slice, and its record takes bay 1; an offer between boundaries; an empty budget; a placement
whose image is broken, absent, and whole. -/
theorem test_placements : let free := fun (s : State) => { s with bays := [] }
    let r := { rec9 .ready with bays := [], tiles := [], threads := [] }; let p := rec9 .placing
    let s := hub9 [p] image9
    let poor := let x := free (hub9 [r] image9); x.setTenant 3 { x.getTenant 3 with budget := 0 }
    SMap.wfFrom Tenant.reset 0 (hub9 [r] image9).tenants = true ∧ (∀ kt ∈ (hub9 [r] image9).tenants, kt.1 < 512) ∧ (1 : Nat) < 10240 ∧
    nextAnd (exec .sliceBoundary (free (hub9 [r] image9))) (fun t => stIs [.placing] t && decide ((t.getTenant 3).deficit = 3000000)) = true ∧
    budgetShort (free (hub9 [r] image9)) r = false ∧ (match launchLevels (free (hub9 [r] image9)) r with | .levels ls => decide (ls = [⟨2, 1⟩]) | _ => false) = true ∧
    nextAnd (exec (.placement 9) (free (hub9 [r] image9))) (fun t => stIs [.placing] t && decide ((t.getBay 1).launch = some 9 ∧
      t.launches.map (·.bays) = [[1]])) = true ∧
    nextAnd (exec (.placement 9) poor) (gone9 0x45) = true ∧
    p.waits = false ∧ p.dismissed = false ∧ holdsBays s p = true ∧
    (match loadInputs p s with | .ok _ _ ls _ => decide (s.bindOn p ls [1] = some [⟨64, 0, [0], false⟩, ⟨64, 1, [1], false⟩]) | _ => false) = true ∧
    nextAnd (exec (.placement 9) (hub9 [p] tables)) (gone9 0x44) = true ∧
    nextAnd (exec (.placement 9) (hub9 [p] [])) (fun t => stIs [.placing] t && decide (t.launches.map (·.park) = [some ⟨0, 0, 0, 1, 0, false⟩])) = true := by
  decide +kernel
theorem test_placement_runs : nextAnd (exec (.placement 9) (hub9 [rec9 .placing] image9)) (fun t => stIs [.running] t &&
    decide ((t.tile.launch.map (·.lid)) = some 9 ∧ t.tile.slots[0].st = .empty)) = true := by decide +kernel
/-- R123, R335, R337, R342: a record that waits for a page; one with TREE = 0, and a tree that fails its checks; a bay that another launch
holds. -/
theorem test_offers : let r := { rec9 .ready with bays := [], tiles := [], threads := [] }; let o := { rec9 .running with lid := 8 }
    let w := { r with park := some ⟨6, 0, 0, 1, 0, false⟩ }
    let s := fun (ls : List Launch) (m : Memory) (h : BitVec 29) => { hub9 ls m with bays := [(1, { Bay.reset with launch := some h })] }
    let b := { hub9 [r] (tables ++ [(bb + 0x300000, 9)]) with bays := [] }
    let z := { r with dw := dw9.set 1 0 }; let y := { hub9 [z] [] with bays := [] }
    budgetShort y z = false ∧ recMalformed z.dw = true ∧ nextAnd (exec (.placement 9) y) (fun t => stIs [.placing] t && decide (t.faults = [])) = true ∧
    w.waits = true ∧ nextAnd (exec (.placement 9) (hub9 [w] image9)) (fun t => decide (t = hub9 [w] image9)) = true ∧
    budgetShort b r = false ∧ (match launchLevels b r with | .bad => true | _ => false) = true ∧
    nextAnd (exec (.placement 9) b) (stIs [.placing]) = true ∧
    ((s [o, r] image9 8).bindOn r [⟨2, 1⟩] (admitted (s [o, r] image9 8) r)).isSome = true ∧
    (s [o, r] image9 8).bindOn r [⟨2, 1⟩] ((admitted (s [o, r] image9 8) r).filter (freeForLaunch (s [o, r] image9 8))) = none ∧
    nextAnd (exec (.placement 9) (s [o, r] image9 8)) (stIs [.running, .ready]) = true := by decide +kernel
/-- R131, R349: the threads of tile 64 start at word 0x100; a tile that has been released; a restored context. -/
theorem test_release : let r := rec9 .running; let s := hub9 [r] []
    let z := withSlot (fun sl => { sl with st := .stopping, user := bankA 7 }) (hub9 [r] [])
    64 < tileCount ∧ (s.getTile 64).launch = some launch3 ∧
    nextAnd (exec (.launchRelease 9 64) s) (fun t => decide (t.tile.slots[0].st = .user ∧ t.tile.slots[1].user.pc = 0x100 ∧ t.tile.slots[2].st = .empty ∧
      t.tile.slots[1].gen = 3 ∧ t.launches.map (·.released) = [[64]])) = true ∧
    nextAnd (exec (.launchRelease 9 64) (hub9 [{ r with released := [64] }] [])) (fun t => decide (t.tile.slots[0].st = .empty)) = true ∧
    nextAnd (exec (.launchRelease 9 64) z) (fun t => decide (t.slot.st = .user ∧ t.slot.user.a = 7)) = true := by decide +kernel
/-- R339, R340, R342: a launch that has ended leaves bay 1 to one that waits for it; aborts; a budget that is gone. -/
theorem test_launch_ends : let e := { rec9 .running with released := [64], threads := [⟨64, 0, [0], true⟩] }
    let w := { rec9 .placing with lid := 8 }; let s := hub9 [e, w] tables
    let poor := let x := hub9 [rec9 .running] tables; x.setTenant 3 { x.getTenant 3 with budget := 0 }
    launchDrained s e = true ∧ launchDrained s (rec9 .running) = false ∧ SMap.wfFrom Tile.reset 0 s.others = true ∧
    SMap.wfFrom Bay.reset 0 s.bays = true ∧ nextHolder s 9 1 = some 8 ∧
    nextAnd (exec (.launchCompletion 9) s) (fun t => stIs [.placing] t && done9 (-1) t && decide ((t.getBay 1).launch = some 8 ∧
      t.tile.launch = none ∧ SMap.get 0 t.meters 60 = 1)) = true ∧
    nextAnd (exec (.launchCompletion 9) (hub9 [rec9 .running] tables)) (stIs [.running]) = true ∧
    nextAnd (exec (.launchAbort 9) (hub9 [rec9 .running] tables)) (gone9 0x46) = true ∧
    nextAnd (exec (.launchAbort 9) (hub9 [rec9 .queued] tables)) (stIs [.queued]) = true ∧
    nextAnd (exec (.budgetExhaustion 3) poor) (stIs [.saving]) = true ∧
    nextAnd (exec (.budgetExhaustion 3) (hub9 [rec9 .running] tables)) (stIs [.running]) = true := by decide +kernel
/-- R343, R345: a drained tile whose image cannot be written; one that is saved already ends the save. -/
theorem test_saves : let l := rec9 .saving; let s := withSlot (fun sl => { sl with st := .stopping }) (hub9 [l] broken)
    let d := hub9 [{ l with saved := [64] }] tables
    s.findLaunch 9 = some l ∧ saveTurn l 64 = true ∧ l.waits = false ∧ l.dismissed = false ∧ (∀ k < 8, slotDrained s 64 k = true) ∧
    tileQuiet s 64 = true ∧ s.tile.liveBad = false ∧
    (match (portWriteSpan 0 3 (imageWords s 9 64 ++ granuleWords s 64 s.tile.live) 0x1000000 s).2 with | some (.err _, _) => true | _ => false) = true ∧
    nextAnd (exec (.tileSave 64) s) (stIs []) = true ∧
    nextAnd (exec (.saveComplete 9) d) (fun t => stIs [.preempted] t && decide ((t.getBay 1).launch = none)) = true ∧
    nextAnd (exec (.saveComplete 9) s) (stIs [.saving]) = true := by decide +kernel
/-- R171, R216, R349: the memory circuit comes first; an image that cannot be read; a dismissed read; a circuit to die 1, whose crossing is
down, finds no room. -/
def planted (s : State) : State := { s with bays := [(1, { Bay.reset with launch := some 9, memCid := some 40 })] }
def far9 : Launch := { rec9 .placing with saved := [64], tiles := [128], bays := [2], threads := [⟨128, 0, [0], false⟩, ⟨128, 1, [1], false⟩] }
def circuit9 : Circuit := ⟨.message, 3, 64, 0, 40965, 1, [1], false, true, [], 0, [], [], 9, 0⟩
theorem test_resumption : let l := { rec9 .placing with saved := [64] }; let d := { l with park := some ⟨6, 0, 0, 1, 0, true⟩ }
    let s := hub9 [l] tables; let x := { hub9 [far9] tables with circuits := [(5, circuit9)], bays := [(2, { Bay.reset with launch := some 9 })] }
    let h := planted (hub9 [l] broken); let a := planted (hub9 [l] [])
    s.findLaunch 9 = some l ∧ l.saved ≠ [] ∧ holdsBays s l = true ∧ l.waits = false ∧ l.dismissed = false ∧ d.waits = false ∧ d.dismissed = true ∧
    (rotateStep l (fun y => (repointFit l l.levels l.threads y).toOption.isSome) s).isNone = true ∧
    (repointFit l l.levels l.threads s).toOption.isSome = true ∧ (s.getBay 1).memCid = none ∧
    nextAnd (exec (.resumption 9) s) (fun t => stIs [.placing] t && decide ((t.getBay 1).memCid ≠ none)) = true ∧
    (rotateStep far9 (fun y => (repointFit far9 far9.levels far9.threads y).toOption.isSome) x).isNone = true ∧ holdsBays x far9 = true ∧
    (repointFit far9 far9.levels far9.threads x).toOption.isSome = false ∧
    nextAnd (exec (.resumption 9) x) (fun t => stIs [.placing] t && decide ((t.getBay 2).memCid = none)) = true ∧
    (match readImages h 3 0 [64] with | .error (0, .err _, _) => true | _ => false) = true ∧
    (match readImages a 3 0 [64] with | .error (0, .absent 0, _) => true | _ => false) = true ∧
    nextAnd (exec (.resumption 9) a) (fun t => stIs [.placing] t && decide (t.faults.length = 1)) = true ∧
    nextAnd (exec (.resumption 9) h) (stIs []) = true ∧
    nextAnd (exec (.resumption 9) (hub9 [d] tables)) (gone9 0x46) = true := by decide +kernel
/-- R359: a rotation of bay 1 ends, and the placement goes on without another. -/
theorem test_rotation_ends : let l := { rec9 .placing with remap := some [1] }; let z := { rec9 .placing with remap := some [] }
    let s := hub9 [l] image9; let s := s.setDie 0 { s.getDie 0 with baymap := [(1, { (s.getDie 0).bayMap 1 with transit := true })] }
    ((s.getDie 0).bayMap 1).transit = true ∧ (1 : Nat) < 10240 ∧ (rotateStep z (fun _ => true) (hub9 [z] image9)).isNone = true ∧
    nextAnd (exec (.placement 9) s) (fun t => stIs [.placing] t && decide (((t.getDie 0).bayMap 1).transit = false ∧
      t.launches.map (·.remap) = [some []])) = true := by decide +kernel

/-- Through the one page of `tables`, once it is cached, every word can be read and written. -/
def paged (s : State) : Prop := (s.getDie 0).tlb = [leaf0] ∧ colourOk s 3 leaf0 = true ∧ homeReached s 0 0 = true ∧ s.badBulk = [] ∧ homeServes s 0 0 3 = true
def cached (s : State) : State := s.setDie 0 { s.getDie 0 with tlb := [leaf0] }
theorem port_check {s : State} (h : paged s) {va : Nat} (hv : va < 2 ^ 34) : portCheck s 0 va 3 false = (s, .ok leaf0) := by
  have ht : Machine.translate s 0 va = (s, .leaf leaf0) := by
    have hv' : va < 17179869184 := hv
    simp [Machine.translate, h.1, leaf0, hv']
  have hp : (leafPlace leaf0 0 va).1 = 0 := rfl
  simp [portCheck, ht, h.2.1, hp, h.2.2.1]
theorem leaf0_place (va : Nat) : (leafPlace leaf0 0 va).1 = 0 := rfl
theorem read_span {s : State} (h : paged s) (n va : Nat) (hv : va + 8 * n ≤ 2 ^ 34) : ∃ bs, portReadSpan 0 3 n va s = (s, .ok bs) := by
  induction n generalizing va with
  | zero => exact ⟨[], rfl⟩
  | succ n ih =>
    obtain ⟨bs, hb⟩ := ih (va + 8) (by omega)
    exact ⟨_, by simp [portReadSpan, portRead, port_check h (show va < 2 ^ 34 by omega), leaf0_place, h.2.2.2.2, badBulkIn, h.2.2.2.1, hb]; rfl⟩
theorem write_span (ws : List DWord) (va : Nat) (s : State) (h : paged s) (hv : va + 8 * ws.length ≤ 2 ^ 34) :
    ∃ s1, portWriteSpan 0 3 ws va s = (s1, none) ∧ s1.others = s.others ∧ s1.bays = s.bays := by
  induction ws generalizing va s with
  | nil => exact ⟨s, rfl, rfl, rfl⟩
  | cons w ws ih =>
    simp only [List.length_cons] at hv
    have hw : portWrite s 0 va ((bytesOf 8 w).map some) 3 = (writeBulk (leafAddr leaf0 0 va) ((bytesOf 8 w).map some) s, none) := by
      simp only [portWrite, port_check h (show va < 2 ^ 34 by omega)]
      have hk : writtenStacks s leaf0 0 va = [0] := rfl
      simp [hk, h.2.2.2.2]; rfl
    obtain ⟨s1, h1, h2, h3⟩ := ih (va + 8) (writeBulk (leafAddr leaf0 0 va) ((bytesOf 8 w).map some) s)
      ⟨h.1, h.2.1, h.2.2.1, by simp [writeBulk, h.2.2.2.1], h.2.2.2.2⟩ (by omega)
    exact ⟨s1, by simp only [portWriteSpan, hw, h1], h2, h3⟩
/-- R345: the image of a drained tile is written; R349: an image is read back, and the circuits stay or cannot be moved. -/
theorem test_image_written : let s := cached (withSlot (fun sl => { sl with st := .stopping }) (hub9 [rec9 .saving] tables))
    s.findLaunch 9 = some (rec9 .saving) ∧ (∀ k < 8, slotDrained s 64 k = true) ∧ tileQuiet s 64 = true ∧ s.tile.liveBad = false ∧
    ∃ s1, portWriteSpan 0 3 (imageWords s 9 64 ++ granuleWords s 64 s.tile.live) 0x1000000 s = (s1, none) ∧
      SMap.wfFrom Tile.reset 0 s1.others = true ∧ SMap.wfFrom Bay.reset 0 s1.bays = true := by
  intro s
  refine ⟨by decide +kernel, by decide +kernel, by decide +kernel, by decide +kernel, ?_⟩
  obtain ⟨s1, h, ho, hb⟩ := write_span (imageWords s 9 64 ++ granuleWords s 64 s.tile.live) 0x1000000 s (by unfold paged; decide +kernel) (by decide +kernel)
  exact ⟨s1, h, by rw [ho]; decide +kernel, by rw [hb]; decide +kernel⟩
theorem images_read {s : State} (h : paged s) (hv : (s.getTenant 3).save = 0x1000000) : ∃ ims, readImages s 3 0 [64] = .ok ims := by
  have hd : dieOf 64 = 0 := rfl
  have ha : imageVa s 3 0 = 0x1000000 := by rw [imageVa, hv]; rfl
  obtain ⟨bs, hb⟩ := read_span h 1920 0x1000000 (by decide)
  have hl : ∀ im : Image, im.live.length ≤ 1024 := fun im => (List.length_filter_le _ _).trans (by simp)
  let im : Image := ⟨(List.range (bs.length / 8)).map fun j => dwordOf ((bs.drop (8 * j)).take 8), []⟩
  obtain ⟨gs, hg⟩ := read_span h (4 * im.live.length) (0x1000000 + 0x3C00) (by have := hl im; omega)
  exact ⟨[{ im with grans := gs }], by simp only [readImages, readImage, hd, ha, hb, bind, Except.bind]; rw [hg]⟩
/-- R171, R337, R349: a launch that goes on, and one whose circuit to die 1 finds no room, so that it stays in PLACING. -/
theorem test_image_read : let l := { rec9 .placing with saved := [64] }; let s := planted (cached (hub9 [l] tables))
    let x := { s with circuits := [(5, circuit9)], launches := [{ l with tiles := [64] }] }
    s.findLaunch 9 = some l ∧ holdsBays s l = true ∧ l.waits = false ∧ l.dismissed = false ∧ (s.getBay 1).memCid ≠ none ∧
    (∃ ims, readImages s 3 0 [64] = .ok ims) ∧
    (match repointFit l l.levels l.threads s with | .ok y => decide (y.1.findLaunch 9 = some l) | .error _ => false) = true ∧
    (rotateStep l (fun y => (repointFit l l.levels l.threads y).toOption.isSome) s).isNone = true ∧
    (rotateStep l (fun y => (repointFit l l.levels l.threads y).toOption.isSome) x).isNone = true ∧
    x.findLaunch 9 = some l ∧ holdsBays x l = true ∧ (∃ ims, readImages x 3 0 [64] = .ok ims) ∧
    (repointFit l l.levels l.threads x).toOption.isSome = false := by
  refine ⟨?_, ?_, ?_, ?_, ?_, images_read (by unfold paged; decide +kernel) (by decide +kernel), ?_, ?_, ?_, ?_, ?_,
    images_read (by unfold paged; decide +kernel) (by decide +kernel), ?_⟩ <;> decide +kernel
/-! ### Events: dies, links, resets, RDMA, boot and attestation -/

/-- FIPS 180-4's example: the digest of "abc". -/
theorem test_sha256 : sha256 [0x61, 0x62, 0x63] = [0xBA, 0x78, 0x16, 0xBF, 0x8F, 0x01, 0xCF, 0xEA, 0x41, 0x41, 0x40, 0xDE, 0x5D, 0xAE, 0x22, 0x23,
    0xB0, 0x03, 0x61, 0xA3, 0x96, 0x17, 0x7A, 0x9C, 0xB4, 0x10, 0xFF, 0x61, 0xF2, 0x00, 0x15, 0xAD] := by decide +kernel
/-- A flash of four like images, with the fuses of their key. -/
def firm (n : Nat) (svn : BitVec 8) : Firmware := ⟨n, svn, [], [1], []⟩
def flashed (f : Firmware) : State := { State.reset with flash := [f, f, f, f], fuseKey := digestOf (sha256 []), fuseSvn := 1 }
/-- R405, R406: no flash; an image that is too long; a key that the fuses do not hold; an old version. -/
theorem test_hub_reset : let s := flashed (firm 64 0)
    let ends := fun (x : State) (stage err : BitVec 8) => nextAnd (exec .hubReset x) fun t => decide (t.boot.stage = stage ∧ t.boot.err = err)
    ends State.reset 0 1 = true ∧ ends (flashed (firm (2 ^ 20 + 1) 0)) 0 1 = true ∧ verifyImage { s with fuseKey := 0 } (firm 64 0) = 2 ∧
    ends { s with fuseKey := 0 } 1 2 = true ∧ verifyImage s (firm 64 0) = 4 ∧ ends s 1 4 = true := by decide +kernel
/-- R405: whichever way the signature check goes, an image of the right key and version meets a clause: verified, or refused with 3. -/
theorem test_verify : verifyImage (flashed (firm 64 1)) (firm 64 1) = 0 ∨ verifyImage (flashed (firm 64 1)) (firm 64 1) = 3 := by
  have hk : (flashed (firm 64 1)).fuseKey = digestOf (sha256 (firm 64 1).key) := rfl
  have hv : ¬ (firm 64 1).svn < (flashed (firm 64 1)).fuseSvn := by decide
  rw [verifyImage, hk, if_neg (by simp), if_neg hv]
  split <;> simp
/-- R406: MEAS5 is extended once the runtime runs; MEAS4 is not, nor MEAS5 before. -/
theorem test_measurements : let s := { State.reset with boot := ⟨8, 0, 0, 0, 0⟩ }
    nextAnd (exec (.measExtend 5 0) s) (fun t => decide (t.meas[5] = digestOf (sha256 (List.replicate 64 0)) ∧ t.meas[6] = 0)) = true ∧
    nextAnd (exec (.measExtend 4 0) s) (fun t => decide (t = s)) = true ∧
    nextAnd (exec (.measExtend 5 0) State.reset) (fun t => decide (t.meas[5] = 0)) = true := by decide +kernel
/-- Keys of one byte each; after the boot they are there. -/
def keyed (s : State) : State := { s with keys := some ⟨[1], [2], [3]⟩ }
/-- R352, R407: no snapshot before the metering key is derived; its body carries the tenant, the number 1 and the counters. -/
theorem test_snapshot : let s := { State.reset with meters := [(48, 9)] }
    nextAnd (exec (.meteringSnapshot 3 0) s) (fun t => decide (t = s)) = true ∧
    nextAnd (exec (.meteringSnapshot 3 0) (keyed s)) (fun t => match t.out with
      | [.snapshot body _] => decide (body.length = 192 ∧ dwordOf (body.take 8) = 3 ∧ dwordOf ((body.drop 8).take 8) = 1 ∧
          dwordOf ((body.drop 64).take 8) = 9)
      | _ => false) = true := by decide +kernel
/-- R409: the responder's answers: the measurements, the algorithms, slot 1 without and with keys, a slot and a request that are not there. -/
theorem test_attestation : let s := State.reset; let ends1 := fun (i : Instr) (u : State) (o : Out) => nextAnd (exec i u) fun t => decide (t.out = [o])
    ends1 (.getMeasurements 0xFF) s (.spdmMeasurements (List.replicate 8 0)) = true ∧ ends1 (.getMeasurements 8) s (.spdmMeasurements [0]) = true ∧
    ends1 .negotiateAlgorithms s (.spdmAlgorithms [.sha256, .stolnelSlhDsaSha2_128s]) = true ∧
    ends1 (.getCertificate 1) s (.spdmError 1) = true ∧ ends1 (.getCertificate 2) (keyed s) (.spdmError 1) = true ∧
    ends1 (.challenge ⟨1, 0⟩) s (.spdmError 1) = true ∧ ends1 (.challenge ⟨2, 0⟩) (keyed s) (.spdmError 1) = true ∧
    nextAnd (exec (.getCertificate 1) (keyed s)) (fun t => match t.out with | [.spdmCertificate 1 _] => true | _ => false) = true ∧
    nextAnd (exec .getDigests s) (fun t => match t.out with | [.spdmDigests [_]] => true | _ => false) = true ∧
    nextAnd (exec .getDigests (keyed s)) (fun t => match t.out with | [.spdmDigests [_, _]] => true | _ => false) = true ∧
    nextAnd (exec (.challenge ⟨0, 0⟩) (keyed s)) (fun t => match t.out with | [.spdmChallenge 0 _] => decide (t.free = 1) | _ => false) = true ∧
    ends1 (.spdmUnsupported 0x7E) s (.spdmError 7) = true := by decide +kernel

/-- Dies 0 and 1 up, the crossing between them as given at both ends. -/
def dies01 (l : LinkStat) : State :=
  let s := ctx64 (slotWith (bankA 0)); let d := s.getDie 0
  (s.setDie 0 { d with up := true, links := d.links.set 1 l }).setDie 1 { d with up := true, links := d.links.set 3 l }
/-- R389, R390, R393: an attempt that succeeds, one that fails, and the 4,096th that fails, with which the circuits over the crossing go. -/
theorem test_calibration : let c : Circuit := ⟨.message, 3, 64, 0, 40965, 1, [1], false, false, [], 0,
      [⟨513, 0, true, 1⟩, ⟨327686, 0, true, 1⟩], [], 0, 0⟩
    let last := { dies01 ⟨true, true, 4, 16, 4095⟩ with circuits := [(5, c)] }
    let both := fun (t : State) (l : LinkStat) => decide (edgeOf t 0 1 = l ∧ edgeOf t 1 3 = l)
    HasCrossing 0 1 ∧ across 0 1 = 1 ∧
    nextAnd (exec (.crossingCalibration 0 1 true) (dies01 ⟨false, true, 0xFFFF, 0, 9⟩)) (fun t => both t ⟨true, true, 0xFFFF, 16, 0⟩) = true ∧
    nextAnd (exec (.crossingCalibration 0 1 false) (dies01 ⟨true, true, 4, 16, 0⟩)) (fun t => both t ⟨false, true, 5, 0, 1⟩) = true ∧
    nextAnd (exec (.crossingCalibration 0 1 false) (dies01 ⟨true, true, 4, 16, 4095⟩)) (fun t => decide ((edgeOf t 0 1).up = false)) = true ∧
    crossesPair 0 1 (pathDies c) = true ∧
    nextAnd (exec (.crossingCalibration 0 1 false) last) (fun t => decide (t.circuits = [])) = true := by
  unfold HasCrossing; decide +kernel
/-- R399 by hand: (29 − 9 − (21 − 20) + 1) / 2 = 10; the same again; another offset. -/
theorem test_spline : let s := State.reset; let x := fun (y : SplStat) => { s with splines := s.splines.set 2 y }
    let ends := fun (o : BitVec 6) (u : State) (y : SplStat) => nextAnd (exec (.splineExchange 2 9 20 21 29 o) u) fun t => decide (t.splines[2] = y)
    ends 4 s ⟨true, true, 1, 10, 4⟩ = true ∧ ends 4 (x ⟨true, true, 1, 10, 4⟩) ⟨true, true, 2, 10, 4⟩ = true ∧
    ends 5 (x ⟨true, true, 1, 10, 4⟩) ⟨false, true, 2, 10, 4⟩ = true ∧ ends 4 (x ⟨true, true, 1, 11, 4⟩) ⟨false, true, 2, 11, 4⟩ = true := by decide +kernel
/-- A tile as after reset, but for the model's numbering of contexts. -/
def clearedTile (x : Tile) : Bool :=
  decide ({ x with slots := x.slots.map fun sl => { sl with run := 0, nextSeq := 0, firstSeq := 0 } } = Tile.reset)
/-- R393: the loss of die 0, of module 7, of a crossing, of a spline link; a rank of the lost die is no longer valid. -/
theorem test_losses : let s := under (msg64 false) .wire; let up : LinkStat := ⟨true, true, 4, 16, 0⟩
    Tabled s ∧ (s.tile.rank 2).valid = true ∧ circuitDies (s.circuit 5) ≠ [] ∧
    nextAnd (exec (.targetLoss (.die 0)) s) (fun t => decide ((t.getDie 0).up = false ∧ t.circuits = [] ∧ t.flights = []) && clearedTile t.tile) = true ∧
    nextAnd (exec (.targetLoss (.module 7)) s) (fun t => decide (t.lostMods = [7] ∧ (t.tile.rank 2).valid = true)) = true ∧
    nextAnd (exec (.targetLoss (.crossing 0 1)) (dies01 up)) (fun t => decide ((edgeOf t 0 1).up = false ∧ (edgeOf t 1 3).up = false)) = true ∧
    nextAnd (exec (.targetLoss (.spline 2)) { State.reset with splines := State.reset.splines.set 2 ⟨true, true, 2, 10, 4⟩ })
      (fun t => decide (t.splines[2] = ⟨false, true, 2, 10, 4⟩)) = true := by unfold Tabled; decide +kernel
/-- R332, R393: lost requests: a store, a message, a load, an atomic and a pull, each with access 7 open. -/
theorem test_lost_requests :
    let s := fun (r : Req) => withSlot (fun sl => { sl with user := { sl.user with aPend := true } }) { under r .wire with flights := [] }
    let st := loseReq (req64 (.store [some 7]) .mem 0x1000) (s (msg64 false)); let m := loseReq (msg64 false) (s (msg64 false))
    let l := loseReq (req64 (.load 8 none) .mem 0x1000) (s (msg64 false)); let a := loseReq (req64 (.amo .aadd 8 5 0) .mem 0x1000) (s (msg64 false))
    let p := loseReq (req64 (.pull 0 64 0x100 0x40) .mem 0) (s (msg64 false))
    (st.slot.nb = 0 ∧ st.slot.accs = [] ∧ st.slot.derr.length = 1) ∧ (m.slot.nm = 0 ∧ m.slot.accs = [] ∧ m.slot.derr.length = 1) ∧
    (l.slot.user.aPend = false ∧ l.slot.accs = []) ∧ (a.slot.user.aPend = false ∧ a.slot.accs = []) ∧
    (p.slot.inbox.map fun x => x.w0.toNat / 2 ^ 48 % 256) = [4] := by decide +kernel
/-- R27, R391, R392: the tile and its rank table are gone, the memory of another bay stays, the loft of bay 1 reads zero, and the record of the
function stores −0x46. -/
theorem test_resets : let r := { rec9 .running with tiles := [] }; let m := (loftBase 1 + 4, 9) :: (loftBase 2 + 4, 9) :: tables
    let s := hub9 [r] m; let q := hub9 [rec9 .queued, { rec9 .queued with lid := 8, vf := 1 }] tables
    SMap.wfFrom Tile.reset 0 s.others = true ∧ SMap.wfFrom Bay.reset 0 s.bays = true ∧ (s.getTenant 3).part = [1] ∧
    nextAnd (exec (.dieReset 0) s) (fun t => clearedTile t.tile && decide ((t.getDie 0).pwr = ⟨320, 0, 256, true, 12⟩ ∧
      edgeOf t 0 1 = ⟨false, false, 0, 0, 0⟩ ∧ t.mem = s.mem)) = true ∧
    nextAnd (exec (.partitionReset 3) s) (fun t => clearedTile t.tile && decide ((t.getBay 1).launch = none ∧
      t.mem.take 1 = [(loftBase 2 + 4, 9)])) = true ∧
    nextAnd (exec (.functionLevelReset 0) q) (fun t => stIs [.queued] t && done9 (-0x46) t) = true := by decide +kernel
/-- R394: bay 1 (column 1) is in transit, and then takes the spare of its class; once that is taken, a bay leaves service; a bay on which a
launch runs, or is being saved; one that asks for nothing. -/
theorem test_retirement : let p := ctx64 (slotWith (bankA 0)); let s := { p with tile := { p.tile with retire := true } }
    let d := s.getDie 0; let full := s.setDie 0 { d with retired := [640, 641, 642, 643] }
    let used := fun (l : Launch) => let x := hub9 [l] tables; { x with tile := { x.tile with retire := true } }
    retireAsked s 1 = true ∧ retireAsked p 1 = false ∧ (s.getBay 1).launch = none ∧ (freeSpare s 1).isSome = true ∧ freeSpare full 1 = none ∧
    nextAnd (exec (.bayRetirement 1) s) (fun t => decide (((t.getDie 0).bayMap 1).transit = true ∧ t.retireRec = []) &&
      nextAnd (exec (.bayRetirement 1) t) (fun u => decide (((u.getDie 0).bayMap 1).retold = true ∧ (u.getDie 0).retired = [1] ∧
        u.retireRec.map (fun x => (x.1, x.2.1, some x.2.2)) = [(0, 1, freeSpare s 1)]) && clearedTile u.tile)) = true ∧
    nextAnd (exec (.bayRetirement 1) full) (fun t => decide (((t.getDie 0).bayMap 1).insrv = false ∧ t.retireRec = [(0, 1, 1023)])) = true ∧
    retireAsked (used (rec9 .running)) 1 = true ∧ nextAnd (exec (.bayRetirement 1) (used (rec9 .running))) (stIs [.saving]) = true ∧
    nextAnd (exec (.bayRetirement 1) (used (rec9 .saving))) (fun t => decide (t = used (rec9 .saving))) = true ∧
    nextAnd (exec (.bayRetirement 1) p) (fun t => decide (t = p)) = true := by decide +kernel
/-- R402 to R404: the last packet of a copy of 16 bytes to byte 32 of tile 64 (die 0, X = 8, Y = 0) writes its first doubleword; the flagged one
waits until every byte is there; then it is written and acknowledged. A packet that came before; a miss. -/
theorem test_rdma : let va : VA := 0x0040000000000020; let pk := fun (q : BitVec 32) => (⟨3, 7, q, va, 0, 1 :: zeros 7 ++ 2 :: zeros 7, 16⟩ : Packet)
    let c : Conn := ⟨3, 7, 5, [], true⟩; let y : RdmaCopy := ⟨6, 16, [(0, 16)], some (va + 8, 2 :: zeros 7)⟩
    let p := ctx64 (slotWith (bankA 0)); let s := fun (c : Conn) => { p with conns := [c] }
    packetOk (pk 6) = true ∧ connIndex (s c) 3 7 = some 0 ∧ packetTile va = 64 ∧
    nextAnd (exec (.rdmaPacket (.data (pk 6))) (s c)) (fun t => decide (t.mem = [(base64 + 32, 1)] ∧ t.conns = [{ c with window := [y] }])) = true ∧
    nextAnd (exec (.rdmaPacket (.data (pk 5))) (s c)) (fun t => decide (t.mem = [] ∧ t.conns = [c])) = true ∧
    nextAnd (exec (.rdmaPacket (.data (pk 70))) (s c)) (fun t => decide (t.mem = [] ∧ t.conns = [c])) = true ∧
    nextAnd (exec (.rdmaPacket (.data (pk 6))) (s { c with window := [y] })) (fun t => decide (t.mem = [])) = true ∧
    nextAnd (exec (.rdmaFlagWrite 0) (s { c with window := [y] })) (fun t => decide (t.mem = [(base64 + 40, 2)] ∧
      t.conns = [{ c with last := 6 }] ∧ t.out = [.rdmaAck 7 3 6])) = true ∧
    nextAnd (exec (.rdmaFlagWrite 0) (s { c with window := [{ y with got := [(8, 8)] }] })) (fun t => decide (t.mem = [] ∧ t.out = [])) = true ∧
    nextAnd (exec (.rdmaPacket (.ack 7 3 6)) (s c)) (fun t => decide (t.rdmaAcks = [(7, 3, 6)] ∧ t.conns = [c])) = true ∧
    nextAnd (exec (.connectionMiss 0) (s { c with cached := false })) (fun t => decide (t.conns = [c])) = true := by decide +kernel
/-- A copy of 16 bytes from byte 64 of the scratchpad to byte 128 of rank 3, slot 1 of tile 65 of module 7. -/
def farDw : List DWord := [64, 0x0000030000000080, 0x00C0800001000010, 0]
def rank7 : RankEntry := ⟨true, false, 7, 0, 8, 1, 1, 3⟩
def outward (c : Copy) (acks : List (Nat × Nat × BitVec 32)) : State :=
  let s := copying farDw none [(base64 + 64, 1), (base64 + 72, 2)]
  { s with tile := { s.tile with ranks := [(3, rank7)], copyRun := some c }, rdmaAcks := acks, rdmaSeq := [(3 * 4096 + 7, 5)],
           circuits := [(5, ⟨.message, 3, 64, 0, 8 * tileCount + 65, 1, [1], false, false, [], 0, [], [], 0, 0⟩)] }
theorem readLocal {c : Copy} {t i : Nat} {s : State} {bs : List Byte} (h : c.dw[2].getLsbD 47 = true) (hl : bs.length = 8)
    (hr : (match s.spRead t ((s.getTile t).genFor c.slot c.run) false (copySpot true c.dw i).toNat 8 with
      | .ok b => decide (b = bs) | .error _ => false) = true) :
    ReadsDw c t i s bs (s.correctAt t (copySpot true c.dw i).toNat 8) := by
  refine ⟨hl, ?_⟩
  simp only [h, if_true, and_true]
  split at hr
  · rename_i b hb; rw [hb, of_decide_eq_true hr]
  · cases hr
/-- R402, R403: both doublewords leave in one packet, number 6 of the connection; the copy waits for the target's acknowledgement; without a
circuit it ends with status 1. -/
theorem test_far_copy : let c := copyCmd farDw none; let d := { c with pos := 2, seq := some 6 }; let s := outward c []
    copyFar c 64 s = true ∧ windowOpenTo s c 64 (BitVec.ofNat 72 (copyStart false c.dw)) = true ∧ (windowHome s 64 (BitVec.ofNat 72 (copyStart false c.dw))).module = 7 ∧
    (∃ s1, ReadAll c 64 [1 :: zeros 7, 2 :: zeros 7] 0 s s1) ∧
    nextAnd (exec (.copyCompletion 64) s) (fun t => decide (t.tile.copyRun = some d ∧ t.rdmaSeq = [(3 * 4096 + 7, 6)] ∧
      t.out = [.rdma 7 3 (farBase rank7 128) 6 0 (1 :: zeros 7 ++ 2 :: zeros 7) 16])) = true ∧
    nextAnd (exec (.copyCompletion 64) (outward d [])) (fun t => decide (t.tile.copyRun = some d)) = true ∧
    nextAnd (exec (.copyCompletion 64) (outward d [(7, 3, 6)])) (fun t => decide (t.tile.copyRun = none ∧ t.rdmaAcks = [] ∧
      t.slot.inbox = [⟨0x0100000000000040, 0⟩])) = true ∧
    nextAnd (exec (.copyCompletion 64) { s with circuits := [] }) (fun t => decide (t.tile.copyRun = none ∧
      t.slot.inbox.map (·.w0) = [0x0101C00000000040])) = true := by
  refine ⟨by decide +kernel, by decide +kernel, by decide +kernel, ⟨_, _, readLocal (by decide +kernel) (by decide) (by decide +kernel),
    _, readLocal (by decide +kernel) (by decide) (by decide +kernel), rfl⟩, by decide +kernel, by decide +kernel, by decide +kernel, by decide +kernel⟩
/-- R235: in a cycle whose debug access has been made, a copy's access has still to come: the tile's cycle ends first. -/
theorem test_place_passed : let s := outward (copyCmd farDw none) []
    let x := { s with turns := [.act (.copyCompletion 64)], tile := { s.tile with port := 4 } }
    let y := { x with tile := { x.tile with port := 2 } }
    isEvent (.copyCompletion 64) = true ∧ eventPlace (.copyCompletion 64) x = some (64, 3) ∧ 3 < (x.getTile 64).port ∧
    placeOpen x (some (64, 3)) = false ∧ placeOpen y (some (64, 3)) = true ∧
    nextAnd (step y) (fun t => decide (t.tile.port = 3 ∧ t.out.length = 1 ∧ t.turns = [])) = true := by decide +kernel
end Sys2Proof.Tests
end

/-! SUPPORT. Which operations of the model leave memory as it is, and that all others keep its canonical form; with this,
O18. -/

namespace Sys2Proof.Machine

/-! ## Memory stays in canonical form

What an instruction or event can do to memory. Most operations of the model leave memory as it is: `mem_f` says so of
`f`. The few that write do it by `writeByte`, `writeBytes`, `writeSome` or a filter, each of which keeps the canonical
form (Sys2Proof/Laws/Memory.lean): `wf_f` says of `f` that it answers canonical memory where it was given such. The
sections follow the model's own files. -/

/-! ### What a computation of the model answers -/

/-- Memory is in canonical form (assumption 1). -/
def MemWf (s : State) : Prop := s.mem.wf = true
@[simp] theorem memWf_iff (s : State) : MemWf s ↔ s.mem.wf = true := Iff.rfl

/-- What an event's body answers, where it happens, satisfies `P`. -/
def Answers {α : Type} (P : α → Prop) (o : Option α) : Prop := ∀ a, o = some a → P a

/-- `P` holds of the state that a stop leaves, where it names one. -/
def Stop.Leaves (P : State → Prop) : Stop → Prop
  | .trapAfter _ _ s => P s
  | .waitAfter _ s => P s
  | _ => True

/-- A meaning completes with a value of which `Q` holds, or stops and leaves a state of which `P` holds. -/
def Ends {α : Type} (P : State → Prop) (Q : α → Prop) : Except Stop α → Prop
  | .ok a => Q a
  | .error e => e.Leaves P

/-- The state that a step goes on with, where it does, satisfies `P`. -/
def Goes (P : State → Prop) (r : Result) : Prop := ∀ t, r = .next t → P t

section
variable {α β : Type} (P : State → Prop)

@[simp] theorem answers_none (Q : α → Prop) : Answers Q none := by simp [Answers]
@[simp] theorem answers_some (Q : α → Prop) (a : α) : Answers Q (some a) ↔ Q a := by simp [Answers]
@[simp] theorem answers_true (o : Option α) : Answers (fun _ => True) o := by simp [Answers]
@[simp] theorem answers_bind (Q : β → Prop) (o : Option α) (f : α → Option β) :
    Answers Q (o.bind f) ↔ Answers (fun a => Answers Q (f a)) o := by
  cases o <;> simp
@[simp] theorem answers_map (Q : β → Prop) (o : Option α) (f : α → β) :
    Answers Q (o.map f) ↔ Answers (fun a => Q (f a)) o := by
  cases o <;> simp
@[simp] theorem answers_ite (Q : α → Prop) (c : Prop) [Decidable c] (a b : Option α) :
    Answers Q (if c then a else b) ↔ if c then Answers Q a else Answers Q b := by
  split <;> rfl
theorem Answers.getD {Q : α → Prop} {o : Option α} {a : α} (ho : Answers Q o) (ha : Q a) : Q (o.getD a) := by
  cases o with
  | none => exact ha
  | some b => exact ho b rfl

/-- Where what follows does not depend on what a first part answers. -/
theorem Answers.of_rest {Q : β → Prop} {o : Option α} {f : α → Option β} (hf : ∀ a, Answers Q (f a)) :
    Answers Q (o >>= f) := by
  cases o with
  | none => exact answers_none Q
  | some a => exact hf a
theorem answers_foldlM {Q : α → Prop} {f : α → β → Option α} (hf : ∀ a b, Q a → Answers Q (f a b)) (l : List β)
    {a : α} (ha : Q a) :
    Answers Q (l.foldlM f a) := by
  induction l generalizing a with
  | nil => simpa using ha
  | cons b r ih =>
    rw [List.foldlM_cons, Option.bind_eq_bind, answers_bind]
    exact fun c hc => ih (hf a b ha c hc)

@[simp] theorem ends_ok (Q : α → Prop) (a : α) : Ends P Q (.ok a) ↔ Q a := Iff.rfl
@[simp] theorem ends_trap (Q : α → Prop) (t : Trap) : Ends P Q (.error (.trap t)) := trivial
@[simp] theorem ends_wait (Q : α → Prop) (w : Wait) : Ends P Q (.error (.wait w)) := trivial
@[simp] theorem ends_trapAfter (Q : α → Prop) (t : Trap) (pc : BitVec 14) (s : State) :
    Ends P Q (.error (.trapAfter t pc s)) ↔ P s :=
  Iff.rfl
@[simp] theorem ends_waitAfter (Q : α → Prop) (w : Wait) (s : State) : Ends P Q (.error (.waitAfter w s)) ↔ P s :=
    Iff.rfl
@[simp] theorem ends_raise (Q : α → Prop) (c : BitVec 8) (a : DWord) : Ends P Q (raise c a) := trivial
@[simp] theorem ends_bind (Q : β → Prop) (x : Except Stop α) (f : α → Except Stop β) :
    Ends P Q (x >>= f) ↔ Ends P (fun a => Ends P Q (f a)) x := by
  cases x <;> rfl
@[simp] theorem ends_ite (Q : α → Prop) (c : Prop) [Decidable c] (a b : Except Stop α) :
    Ends P Q (if c then a else b) ↔ if c then Ends P Q a else Ends P Q b := by
  split <;> rfl
@[simp] theorem ends_await (b : Bool) (w : Wait) : Ends P (fun _ => True) (await b w) := by cases b <;> simp
@[simp] theorem ends_check (b : Bool) (c : BitVec 8) (a : DWord) : Ends P (fun _ => True) (check b c a) := by
  cases b <;> simp
@[simp] theorem ends_liftT (x : Except Trap α) : Ends P (fun _ => True) (liftT x) := by cases x <;> simp
variable {P} in
/-- A guard that leaves no state, before what holds whatever it answers. -/
theorem Ends.guard {Q : β → Prop} {x : Except Stop α} {f : α → Except Stop β} (hx : Ends P (fun _ => True) x)
    (hf : ∀ a, Ends P Q (f a)) : Ends P Q (x >>= f) := by
  cases x with
  | ok a => exact hf a
  | error e => exact hx
variable {P} in
theorem Ends.mono {Q R : α → Prop} {x : Except Stop α} (hx : Ends P Q x) (hq : ∀ a, Q a → R a) : Ends P R x := by
  cases x with
  | ok a => exact hq a hx
  | error e => exact hx
/-- A sequence of guards, each of which leaves no state. -/
theorem ends_foldlM {f : β → Except Stop Unit} (hf : ∀ b, Ends P (fun _ => True) (f b)) (l : List β) :
    Ends P (fun _ => True) (l.foldlM (fun _ b => f b) ()) := by
  induction l with
  | nil => simp [pure, Except.pure]
  | cons b r ih => exact (hf b).guard fun _ => ih

@[simp] theorem goes_next (s : State) : Goes P (.next s) ↔ P s := by simp [Goes]
@[simp] theorem goes_fault (f : Fault) : Goes P (.fault f) := by simp [Goes]
@[simp] theorem goes_refused (r : Refusal) : Goes P (.refused r) := by simp [Goes]
@[simp] theorem goes_ite (c : Prop) [Decidable c] (a b : Result) :
    Goes P (if c then a else b) ↔ if c then Goes P a else Goes P b := by
  split <;> rfl
end

@[simp] theorem ends_memWf {P : State → Prop} {x : Except Stop State} :
    Ends P (fun t => t.mem.wf = true) x ↔ Ends P MemWf x :=
  Iff.rfl
@[simp] theorem answers_memWf {o : Option State} : Answers (fun t => t.mem.wf = true) o ↔ Answers MemWf o := Iff.rfl

@[simp] theorem mem_ite (c : Prop) [Decidable c] (a b : State) :
    (if c then a else b).mem = if c then a.mem else b.mem :=
  apply_ite _ _ _ _
@[simp] theorem wf_ite (c : Prop) [Decidable c] (a b : Memory) :
    Memory.wf (if c then a else b) = if c then a.wf else b.wf :=
  apply_ite _ _ _ _
@[simp] theorem mem_foldl {α : Type} {f : State → α → State} (hf : ∀ s x, (f s x).mem = s.mem) (l : List α)
    (s : State) :
    (l.foldl f s).mem = s.mem := by
  induction l generalizing s with
  | nil => rfl
  | cons x r ih => exact (ih _).trans (hf s x)
theorem wf_foldl {α : Type} {f : State → α → State} (hf : ∀ s x, s.mem.wf = true → (f s x).mem.wf = true) (l : List α)
    {s : State} (h : s.mem.wf = true) :
    (l.foldl f s).mem.wf = true := by
  induction l generalizing s with
  | nil => exact h
  | cons x r ih => exact ih (hf s x h)

/-- What an operation answers, where it does not fail, satisfies `Q`. -/
def Oks {ε α : Type} (Q : α → Prop) (x : Except ε α) : Prop := ∀ a, x = .ok a → Q a
section
variable {ε α β : Type}
@[simp] theorem oks_ok (Q : α → Prop) (a : α) : Oks Q (.ok a : Except ε α) ↔ Q a := by simp [Oks]
@[simp] theorem oks_error (Q : α → Prop) (e : ε) : Oks Q (.error e : Except ε α) := by simp [Oks]
@[simp] theorem oks_true (x : Except ε α) : Oks (fun _ => True) x := by simp [Oks]
@[simp] theorem oks_bind (Q : β → Prop) (x : Except ε α) (f : α → Except ε β) :
    Oks Q (x >>= f) ↔ Oks (fun a => Oks Q (f a)) x := by
  cases x <;> simp [bind, Except.bind]
@[simp] theorem oks_ite (Q : α → Prop) (c : Prop) [Decidable c] (a b : Except ε α) :
    Oks Q (if c then a else b) ↔ if c then Oks Q a else Oks Q b := by
  split <;> rfl
theorem Oks.of_all {Q : α → Prop} {x : Except ε α} (hq : ∀ a, Q a) : Oks Q x := fun a _ => hq a
theorem ends_lift {P : State → Prop} {Q : α → Prop} {x : Except Trap α} (hx : Oks Q x) : Ends P Q (liftT x) := by
  cases x with
  | ok a => exact hx a rfl
  | error e => trivial
end

/-! ### Machine/Ops.lean -/

@[simp] theorem mem_focus (s : State) (t : Nat) : (State.focus s t).mem = s.mem := by simp [State.focus]
@[simp] theorem mem_setSlotAt (s : State) (t k : Nat) (x : Slot) : (State.setSlotAt s t k x).mem = s.mem := by
  simp [State.setSlotAt]
@[simp] theorem mem_modSlotAt (s : State) (t k : Nat) (f : Slot → Slot) : (State.modSlotAt s t k f).mem = s.mem := by
  simp [State.modSlotAt]
@[simp] theorem mem_modBay (s : State) (b : Nat) (f : Bay → Bay) : (State.modBay s b f).mem = s.mem := by rfl
@[simp] theorem mem_setDie (s : State) (d : Nat) (x : Die) : (State.setDie s d x).mem = s.mem := by
  unfold State.setDie
  split <;> simp
@[simp] theorem mem_modDie (s : State) (d : Nat) (f : Die → Die) : (State.modDie s d f).mem = s.mem := by
  simp [State.modDie]
@[simp] theorem mem_setTenant (s : State) (t : Nat) (x : Tenant) : (State.setTenant s t x).mem = s.mem := by rfl
@[simp] theorem mem_trapHere (t : Trap) (s : State) : (trapHere t s).mem = s.mem := by simp [trapHere]
@[simp] theorem ends_holdW (P : State → Prop) (w : BitVec 2) (s : State) : Ends P (fun _ => True) (holdW w s) := by
  simp [holdW]
@[simp] theorem ends_needSupervisor (P : State → Prop) (s : State) : Ends P (fun _ => True) (needSupervisor s) := by
  simp [needSupervisor]
@[simp] theorem ends_needThread (P : State → Prop) (s : State) : Ends P (fun _ => True) (needThread s) := by
  simp [needThread]
@[simp] theorem ends_joinGate (P : State → Prop) (s : State) : Ends P (fun _ => True) (joinGate s) := by
  simp [joinGate]
@[simp] theorem ends_fenceGate (P : State → Prop) (read write : Bool) (s : State) :
    Ends P (fun _ => True) (fenceGate read write s) := by
  simp [fenceGate]
@[simp] theorem ends_planeGate (P : State → Prop) (write : Bool) (a n : Nat) (s : State) :
    Ends P (fun _ => True) (planeGate write a n s) := by
  simp [planeGate]
@[simp] theorem mem_correctAt (s : State) (t a n : Nat) : (State.correctAt s t a n).mem = s.mem := by
  simp [State.correctAt]
@[simp] theorem oks_spWrite {s : State} (h : s.mem.wf = true) (t : Nat) (g : BitVec 12) (a : Nat)
    (bs : List (Option Byte)) :
    Oks MemWf (s.spWrite t g a bs) :=
  fun _ hs => spWrite_wf h hs
@[simp] theorem wf_spWriteSpan {s : State} (h : s.mem.wf = true) (t : Nat) (g : BitVec 12) (fuel a : Nat)
    (bs : List Byte) :
    (s.spWriteSpan t g fuel a bs).1.mem.wf = true := by
  fun_induction State.spWriteSpan s t g fuel a bs with
  | case1 => exact h
  | case2 => exact h
  | case3 s fuel a bs _ _ s' hs ih => exact ih (spWrite_wf h hs)
  | case4 => exact h
@[simp] theorem ends_cellRead (P : State → Prop) (s : State) (ea : Int) (n align : Nat) :
    Ends P (fun _ => True) (cellRead s ea n align) := by
  simp [cellRead]
@[simp] theorem ends_memRead (P : State → Prop) (s : State) (ea : Int) (n align : Nat) :
    Ends P (fun _ => True) (memRead s ea n align) := by
  simp [memRead]
@[simp] theorem wf_cellWrite {s : State} (h : s.mem.wf = true) (ea : Int) (align : Nat) (bs : List (Option Byte)) :
    Ends MemWf MemWf (cellWrite s ea align bs) := by
  have hw (a : Nat) : Ends MemWf MemWf (liftT (s.spWrite s.tid s.slot.gen a bs)) := ends_lift (oks_spWrite h _ _ _ _)
  simp [cellWrite, hw]
@[simp] theorem wf_memWrite {s : State} (h : s.mem.wf = true) (ea : Int) (align : Nat) (bs : List (Option Byte)) :
    Ends MemWf MemWf (memWrite s ea align bs) := by
  simp [memWrite, h]

/-! ### Machine/Operands.lean -/

@[simp] theorem mem_setCircuit (s : State) (key : Nat) (c : Circuit) : (State.setCircuit s key c).mem = s.mem := by
  rfl
@[simp] theorem mem_setLink (s : State) (t : Nat) (d : BitVec 2) (l : Link) :
    (State.setLink s t d l).mem = s.mem := by
  rfl
@[simp] theorem ends_readSide (P : State → Prop) (s : State) (n : BitVec 2) :
    Ends P (fun _ => True) (readSide s n) := by
  unfold readSide
  split <;> simp
@[simp] theorem ends_writeSide (P : State → Prop) (s : State) (n : BitVec 2) :
    Ends P (fun _ => True) (writeSide s n) := by
  unfold writeSide
  split <;> simp
@[simp] theorem ends_chanHead (P : State → Prop) (s : State) (n : BitVec 2) :
    Ends P (fun _ => True) (chanHead s n) := by
  rw [chanHead]
  refine (ends_readSide P s n).guard fun e => ?_
  split <;> simp
@[simp] theorem mem_consumeAt (s : State) (t : Nat) (e : ChanEnd) : (State.consumeAt s t e).mem = s.mem := by
  unfold State.consumeAt
  repeat' split
  all_goals simp
@[simp] theorem mem_consume (s : State) (n : BitVec 2) : (consume s n).mem = s.mem := by
  unfold consume
  split <;> simp
@[simp] theorem ends_srcRead (P : State → Prop) (o : SOp) (ea : Int) (n : Nat) (s : State) :
    Ends P (fun _ => True) (srcRead o ea n s) := by
  simp [srcRead]
@[simp] theorem mem_srcDone (o : SOp) (split : Bool) (s : State) : (srcDone o split s).mem = s.mem := by
  simp [srcDone]
@[simp] theorem ends_vecMem (P : State → Prop) (et : BitVec 2) (ea : Int) (all : Bool) (s : State) :
    Ends P (fun _ => True) (vecMem et ea all s) := by
  unfold vecMem
  extract_lets n
  split
  · simp
  split
  · simp
  refine (ends_fenceGate P true false s).guard fun _ => ?_
  refine (ends_liftT P _).guard fun a => ?_
  refine (ends_planeGate P false a n s).guard fun _ => ?_
  split
  · split <;> simp
  · simp
@[simp] theorem ends_vecSrc (P : State → Prop) (o : SOp) (ea : Int) (all : Bool) (s : State) :
    Ends P (fun _ => True) (vecSrc o ea all s) := by
  simp [vecSrc]
@[simp] theorem ends_levelCheck (P : State → Prop) (k : BitVec 4) (limit : Nat) (s : State) :
    Ends P (fun _ => True) (levelCheck k limit s) := by
  simp [levelCheck]
@[simp] theorem ends_ordExtent (P : State → Prop) (k : BitVec 4) (s : State) :
    Ends P (fun _ => True) (ordExtent k s) := by
  simp [ordExtent]
@[simp] theorem ends_rankRoute (P : State → Prop) (r : Nat) (alone noCirc : DWord) (s : State) :
    Ends P (fun _ => True) (rankRoute r alone noCirc s) := by
  fun_cases rankRoute <;> simp
@[simp] theorem ends_niRoom (P : State → Prop) (s : State) : Ends P (fun _ => True) (niRoom s) := by simp [niRoom]
@[simp] theorem ends_niRoomRemote (P : State → Prop) (s : State) : Ends P (fun _ => True) (niRoomRemote s) := by
  simp [niRoomRemote]
@[simp] theorem mem_niPush (s : State) (va : VA) (op : ReqOp) (route : Route) (rel acq : Option (BitVec 3))
    (rank : Nat) (read write : Bool) :
    (niPush s va op route rel acq rank read write).mem = s.mem := by
  rfl
@[simp] theorem mem_niPlain (s : State) (op : ReqOp) (route : Route) (rank : Nat) :
    (niPlain s op route rank).mem = s.mem := by
  rfl
@[simp] theorem ends_counterRoom (P : State → Prop) (c : BitVec 16) : Ends P (fun _ => True) (counterRoom c) := by
  simp [counterRoom]

/-! ### Machine/Integer.lean -/

@[simp] theorem mem_setAF (s : State) (r : DWord × Flags) : (setAF s r).mem = s.mem := by rfl
@[simp] theorem wf_aluBody {s : State} (h : s.mem.wf = true) (fn : AluFn) (o : SOp) :
    Ends MemWf MemWf (aluBody fn o s) := by
  simp [aluBody, h]
@[simp] theorem wf_aluImmBody {s : State} (h : s.mem.wf = true) (fn : AluFn) (x : DWord) :
    Ends MemWf MemWf (aluImmBody fn x s) := by
  simp [aluImmBody, h]
@[simp] theorem wf_divBody {s : State} (h : s.mem.wf = true) (fn : DivFn) (o : SOp) :
    Ends MemWf MemWf (divBody fn o s) := by
  simp [divBody, h]
@[simp] theorem wf_bitsBody {s : State} (h : s.mem.wf = true) (g : DWord → DWord) :
    Ends MemWf MemWf (bitsBody g s) := by
  simp [bitsBody, h]

/-! ### Machine/LoadStore.lean -/

@[simp] theorem wf_loadBody {s : State} (h : s.mem.wf = true) (signed : Bool) (o : SOp) :
    Ends MemWf MemWf (loadBody signed o s) := by
  simp [loadBody, h]
@[simp] theorem wf_storeBody {s : State} (h : s.mem.wf = true) (o : SOp) : Ends MemWf MemWf (storeBody o s) := by
  simp [storeBody, h]
@[simp] theorem wf_pldBody {s : State} (h : s.mem.wf = true) (o : SOp) : Ends MemWf MemWf (pldBody o s) := by
  simp [pldBody, h]
@[simp] theorem wf_pstBody {s : State} (h : s.mem.wf = true) (o : SOp) : Ends MemWf MemWf (pstBody o s) := by
  simp [pstBody, h]
@[simp] theorem wf_ptrBody {s : State} (h : s.mem.wf = true) (o : IOp) (g : Ptr → Ptr) :
    Ends MemWf MemWf (ptrBody o g s) := by
  simp [ptrBody, h]
@[simp] theorem wf_liBody {s : State} (h : s.mem.wf = true) (x : DWord) : Ends MemWf MemWf (liBody x s) := by
  simp [liBody, h]

/-! ### Machine/Control.lean -/

@[simp] theorem ends_checkTarget (P : State → Prop) (t : Int) : Ends P (fun _ => True) (checkTarget t) := by
  simp [checkTarget]
@[simp] theorem mem_transfer (t : BitVec 14) (s : State) : (transfer t s).mem = s.mem := by rfl
@[simp] theorem ends_checkCall (P : State → Prop) (s : State) : Ends P (fun _ => True) (checkCall s) := by
  simp [checkCall]
@[simp] theorem ends_pushReturn (P : State → Prop) (r : BitVec 14) (b : Bank) :
    Ends P (fun _ => True) (pushReturn r b) := by
  unfold pushReturn
  split <;> simp
@[simp] theorem ends_popReturn (P : State → Prop) (b : Bank) : Ends P (fun _ => True) (popReturn b) := by
  unfold popReturn
  split <;> simp
@[simp] theorem wf_jumpBody {s : State} (h : s.mem.wf = true) (t : Int) : Ends MemWf MemWf (jumpBody t s) := by
  simp [jumpBody, h]
@[simp] theorem wf_callBody {s : State} (h : s.mem.wf = true) (t : Int) : Ends MemWf MemWf (callBody t s) := by
  simp [callBody, h]
@[simp] theorem wf_retBody {s : State} (h : s.mem.wf = true) : Ends MemWf MemWf (retBody s) := by simp [retBody, h]
@[simp] theorem wf_rptBody {s : State} (h : s.mem.wf = true) (len : BitVec 4) (stag : BitVec 3) (count : BitVec 20) :
    Ends MemWf MemWf (rptBody len stag count s) := by
  simp [rptBody, h]
@[simp] theorem ends_pairPlace (P : State → Prop) (b : Bank) : Ends P (fun _ => True) (pairPlace b) := by
  simp [pairPlace]

/-! ### Machine/Queues.lean -/

@[simp] theorem mem_hubMeter (s : State) (tenant ix n : Nat) : (State.hubMeter s tenant ix n).mem = s.mem := by rfl
@[simp] theorem wf_putRecord {s : State} (h : s.mem.wf = true) (t k : Nat) (q : BitVec 2) (g : BitVec 12)
    (words : List DWord) :
    (State.putRecord s t k q g words).mem.wf = true := by
  simp [State.putRecord, h]
@[simp] theorem mem_divert (s : State) (t k : Nat) (q : BitVec 2) (words : List DWord) (ahead : Bool) :
    (State.divert s t k q words ahead).mem = s.mem := by
  fun_cases State.divert <;> simp
@[simp] theorem wf_enqueue {s : State} (h : s.mem.wf = true) (t k : Nat) (q : BitVec 2) (handlerQueue : Bool)
    (words : List DWord) :
    (State.enqueue s t k q handlerQueue words).mem.wf = true := by
  fun_cases State.enqueue <;> simp [h]
@[simp] theorem wf_arrive {s : State} (h : s.mem.wf = true) (t k : Nat) (hdr : DWord) (pay : List DWord) :
    (State.arrive s t k hdr pay).mem.wf = true := by
  simp [State.arrive, h]
@[simp] theorem ends_inboxRoom (P : State → Prop) (s : State) : Ends P (fun _ => True) (inboxRoom s) := by
  simp [inboxRoom]
@[simp] theorem mem_postInbox (s : State) (t k run kind status : Nat) (vax : BitVec 8) (block : BitVec 15)
    (w1 : DWord) :
    (State.postInbox s t k run kind status vax block w1).mem = s.mem := by
  simp [State.postInbox]
@[simp] theorem mem_dropNe (s : State) (t k run : Nat) : (State.dropNe s t k run).mem = s.mem := by
  simp [State.dropNe]
@[simp] theorem mem_complete (s : State) (t k run kind status : Nat) (vax : BitVec 8) (block : BitVec 15)
    (w1 : DWord) :
    (State.complete s t k run kind status vax block w1).mem = s.mem := by
  simp [State.complete]
@[simp] theorem mem_niSend (s : State) (hdr : DWord) (pay : List DWord) (e : RankEntry × Route) :
    (niSend s hdr pay e).mem = s.mem := by
  rfl
@[simp] theorem ends_msgRoute (P : State → Prop) (hdr : DWord) (s : State) :
    Ends P (fun _ => True) (msgRoute hdr s) := by
  simp [msgRoute]
@[simp] theorem wf_sendMessage {s : State} (h : s.mem.wf = true) (hdr : DWord) (pay : List DWord) :
    Ends MemWf MemWf (sendMessage hdr pay s) := by
  simp [sendMessage, h]

/-! ### Machine/Message.lean -/

@[simp] theorem ends_needHandler (P : State → Prop) (s : State) : Ends P (fun _ => True) (needHandler s) := by
  simp [needHandler]
@[simp] theorem mem_incC (o : COp) (s : State) : (incC o s).mem = s.mem := by simp [incC]
@[simp] theorem ends_payload (P : State → Prop) (s : State) (a j n : Nat) :
    Ends P (fun _ => True) (payload s a j n) := by
  induction n generalizing j with
  | zero => simp [payload]
  | succ n ih => simp [payload, ih]
@[simp] theorem wf_sendBody {s : State} (h : s.mem.wf = true) (o : COp) : Ends MemWf MemWf (sendBody o s) := by
  simp [sendBody, h]
@[simp] theorem wf_sendvBody {s : State} (h : s.mem.wf = true) (o : COp) : Ends MemWf MemWf (sendvBody o s) := by
  simp [sendvBody, h]
@[simp] theorem wf_receiveBody {s : State} (h : s.mem.wf = true) (peek : Bool) (o : COp) :
    Ends MemWf MemWf (receiveBody peek o s) := by
  simp [receiveBody, h]
@[simp] theorem wf_offerBody {s : State} (h : s.mem.wf = true) (o : COp) : Ends MemWf MemWf (offerBody o s) := by
  simp [offerBody, h]
@[simp] theorem wf_pullBody {s : State} (h : s.mem.wf = true) (o : COp) : Ends MemWf MemWf (pullBody o s) := by
  simp [pullBody, h]
@[simp] theorem mem_popHandlerQueue (q : BitVec 2) (s : State) : (popHandlerQueue q s).mem = s.mem := by rfl
@[simp] theorem wf_passHeld {s : State} (h : s.mem.wf = true) (l : List (DWord × List DWord)) :
    Ends MemWf MemWf (passHeld l s) := by
  induction l generalizing s with
  | nil => simpa [passHeld] using h
  | cons m r ih => simp [passHeld, ih, h]
@[simp] theorem wf_hretBody {s : State} (h : s.mem.wf = true) : Ends MemWf MemWf (hretBody s) := by simp [hretBody, h]
@[simp] theorem wf_tagsetBody {s : State} (h : s.mem.wf = true) (o : COp) : Ends MemWf MemWf (tagsetBody o s) := by
  simp [tagsetBody, h]
@[simp] theorem wf_tagclrBody {s : State} (h : s.mem.wf = true) (o : COp) : Ends MemWf MemWf (tagclrBody o s) := by
  simp [tagclrBody, h]
@[simp] theorem wf_chrBody {s : State} (h : s.mem.wf = true) (o : COp) : Ends MemWf MemWf (chrBody o s) := by
  rw [chrBody]
  refine (ends_needThread _ s).guard fun _ => ?_
  refine (ends_readSide _ s _).guard fun e => ?_
  split <;> simp [h]
@[simp] theorem mem_spendCredits (s : State) (t : Nat) (e : ChanEnd) (n : Nat) :
    (State.spendCredits s t e n).mem = s.mem := by
  unfold State.spendCredits
  split <;> simp
@[simp] theorem wf_chanWrite {s : State} (h : s.mem.wf = true) (n : BitVec 2) (ws : List DWord) :
    Ends MemWf MemWf (chanWrite n ws s) := by
  simp [chanWrite, h]
@[simp] theorem mem_releaseLinks (s : State) : (releaseLinks s).mem = s.mem := by simp [releaseLinks]
@[simp] theorem mem_bindChan (n : BitVec 2) (c : Channel) (s : State) : (bindChan n c s).mem = s.mem := by
  simp [bindChan]
@[simp] theorem wf_chstBody {s : State} (h : s.mem.wf = true) (o : COp) : Ends MemWf MemWf (chstBody o s) := by
  unfold chstBody
  split <;> simp [h]
@[simp] theorem ends_barrierLevel (P : State → Prop) (k : BitVec 4) (s : State) :
    Ends P (fun _ => True) (barrierLevel k s) := by
  simp [barrierLevel]
@[simp] theorem mem_joinEpisode (k : BitVec 4) (s : State) : (joinEpisode k s).mem = s.mem := by rfl
@[simp] theorem wf_openJoin {s : State} (h : s.mem.wf = true) (k : BitVec 4) :
    Ends MemWf (fun r => r.1.mem.wf = true) (openJoin k s) := by
  rw [openJoin]
  refine (ends_needThread _ s).guard fun _ => ?_
  refine (ends_barrierLevel _ k s).guard fun _ => ?_
  split <;> simp [h]
@[simp] theorem mem_setEntered (e : Entered) (s : State) : (setEntered e s).mem = s.mem := by rfl
@[simp] theorem mem_setTimer (n : Nat) (s : State) : (setTimer n s).mem = s.mem := by rfl
@[simp] theorem mem_clearJoin (s : State) : (clearJoin s).mem = s.mem := by rfl
@[simp] theorem wf_barwBody {s : State} (h : s.mem.wf = true) (o : COp) : Ends MemWf MemWf (barwBody o s) := by
  rw [barwBody, ends_bind]
  refine (wf_openJoin h o.lvl).mono fun r hr => ?_
  simp [hr]
@[simp] theorem wf_bartBody {s : State} (h : s.mem.wf = true) (o : COp) : Ends MemWf MemWf (bartBody o s) := by
  rw [bartBody, ends_bind]
  refine (wf_openJoin h o.lvl).mono fun r hr => ?_
  simp [hr]
@[simp] theorem wf_pauseBody {s : State} (h : s.mem.wf = true) (o : COp) : Ends MemWf MemWf (pauseBody o s) := by
  simp [pauseBody, h]
@[simp] theorem wf_waitqBody {s : State} (h : s.mem.wf = true) (o : COp) : Ends MemWf MemWf (waitqBody o s) := by
  simp [waitqBody, h]
@[simp] theorem wf_yieldBody {s : State} (h : s.mem.wf = true) : Ends MemWf MemWf (yieldBody s) := by
  simp [yieldBody, h]
@[simp] theorem wf_stkhBody {s : State} (h : s.mem.wf = true) (o : COp) : Ends MemWf MemWf (stkhBody o s) := by
  simp [stkhBody, h]
@[simp] theorem wf_alignBody {s : State} (h : s.mem.wf = true) (o : COp) : Ends MemWf MemWf (alignBody o s) := by
  unfold alignBody
  split <;> simp [h]
@[simp] theorem wf_circBody {s : State} (h : s.mem.wf = true) (o : COp) : Ends MemWf MemWf (circBody o s) := by
  simp [circBody, h]
@[simp] theorem mem_rankAnswer (r : Int) (ok : Bool) (s : State) : (rankAnswer r ok s).mem = s.mem := by rfl
@[simp] theorem wf_rankBody {s : State} (h : s.mem.wf = true) (o : COp) : Ends MemWf MemWf (rankBody o s) := by
  unfold rankBody
  split <;> simp [h]
@[simp] theorem wf_treeBody {s : State} (h : s.mem.wf = true) (o : COp) : Ends MemWf MemWf (treeBody o s) := by
  simp [treeBody, h]

/-! ### Machine/Remote.lean -/

@[simp] theorem ends_raiseVa {α : Type} (P : State → Prop) (Q : α → Prop) (cause : BitVec 8) (va : VA) :
    Ends P Q (raiseVa cause va) :=
  trivial
@[simp] theorem ends_checkVa (P : State → Prop) (ok : Bool) (cause : BitVec 8) (va : VA) :
    Ends P (fun _ => True) (checkVa ok cause va) := by
  simp [checkVa]
@[simp] theorem ends_windowRoute (P : State → Prop) (va : VA) (s : State) :
    Ends P (fun _ => True) (windowRoute va s) := by
  fun_cases windowRoute <;> simp
@[simp] theorem ends_vaRoute (P : State → Prop) (va : VA) (n : Nat) (need : Rights) (s : State) :
    Ends P (fun _ => True) (vaRoute va n need s) := by
  simp [vaRoute]
@[simp] theorem ends_readCell (P : State → Prop) (ea : Int) (s : State) : Ends P (fun _ => True) (readCell ea s) := by
  simp [readCell]
@[simp] theorem mem_incS (o : SOp) (s : State) : (incS o s).mem = s.mem := by rfl
@[simp] theorem mem_pendA (s : State) : (pendA s).mem = s.mem := by rfl
@[simp] theorem mem_pendV (s : State) : (pendV s).mem = s.mem := by rfl
@[simp] theorem mem_pendZ (s : State) : (pendZ s).mem = s.mem := by rfl
@[simp] theorem wf_rldBody {s : State} (h : s.mem.wf = true) (o : SOp) : Ends MemWf MemWf (rldBody o s) := by
  simp [rldBody, h]
@[simp] theorem mem_setEnteredNo (s : State) : (acquireBody.setEnteredNo s).mem = s.mem := by rfl
@[simp] theorem wf_acquireBody {s : State} (h : s.mem.wf = true) {first : State → Except Stop State}
    (hf : Ends MemWf MemWf (first s)) :
    Ends MemWf MemWf (acquireBody first s) := by
  unfold acquireBody
  split
  · split
    · simp
    · split <;> simp [h]
  · simpa using hf
@[simp] theorem mem_enterAcquire (o : SOp) (s t : State) : (enterAcquire o s t).mem = t.mem := by rfl
@[simp] theorem wf_rldAcqBody {s : State} (h : s.mem.wf = true) (o : SOp) : Ends MemWf MemWf (rldAcqBody o s) := by
  simp [rldAcqBody, h]
@[simp] theorem mem_postStore (va : VA) (data : List (Option Byte)) (r : Route × Nat) (rel : Option (BitVec 3))
    (s : State) :
    (postStore va data r rel s).mem = s.mem := by
  rfl
@[simp] theorem wf_rstBody {s : State} (h : s.mem.wf = true) (o : SOp) : Ends MemWf MemWf (rstBody o s) := by
  simp [rstBody, h]
@[simp] theorem wf_rstRelBody {s : State} (h : s.mem.wf = true) (o : SOp) : Ends MemWf MemWf (rstRelBody o s) := by
  simp [rstRelBody, h]
@[simp] theorem wf_rldvBody {s : State} (h : s.mem.wf = true) (o : SOp) : Ends MemWf MemWf (rldvBody o s) := by
  simp [rldvBody, h]
@[simp] theorem wf_rstvBody {s : State} (h : s.mem.wf = true) (o : SOp) : Ends MemWf MemWf (rstvBody o s) := by
  simp [rstvBody, h]
theorem wf_liftSpWrite {s : State} (h : s.mem.wf = true) (t : Nat) (g : BitVec 12) (a : Nat)
    (bs : List (Option Byte)) :
    Ends MemWf MemWf (liftT (s.spWrite t g a bs)) :=
  ends_lift (oks_spWrite h t g a bs)
@[simp] theorem wf_amoLocal {s : State} (h : s.mem.wf = true) (fn : AmoFn) (o : SOp) :
    Ends MemWf MemWf (amoLocal fn o s) := by
  unfold amoLocal
  refine (ends_holdW _ o.w s).guard fun _ => ?_
  dsimp only
  refine (ends_fenceGate _ true true s).guard fun _ => ?_
  refine (ends_liftT _ _).guard fun a => ?_
  refine (ends_planeGate _ true a _ s).guard fun _ => ?_
  refine (ends_liftT _ _).guard fun bs => ?_
  split
  · simp [wf_liftSpWrite h]
  · simp [h]
@[simp] theorem wf_amoSend {s : State} (h : s.mem.wf = true) (fn : AmoFn) (o : SOp) (ea : Int)
    (rel acq : Option (BitVec 3)) :
    Ends MemWf MemWf (amoSend fn o ea rel acq s) := by
  simp [amoSend, h]
@[simp] theorem wf_amoBody {s : State} (h : s.mem.wf = true) (fn : AmoFn) (o : SOp) :
    Ends MemWf MemWf (amoBody fn o s) := by
  unfold amoBody
  split <;> simp [h]
@[simp] theorem wf_fenceBody {s : State} (h : s.mem.wf = true) (arg : BitVec 20) :
    Ends MemWf MemWf (fenceBody arg s) := by
  simp [fenceBody, h]
@[simp] theorem wf_waitcBody {s : State} (h : s.mem.wf = true) (arg : BitVec 20) :
    Ends MemWf MemWf (waitcBody arg s) := by
  simp [waitcBody, h]
@[simp] theorem wf_gtagBody {s : State} (h : s.mem.wf = true) (arg : BitVec 20) :
    Ends MemWf MemWf (gtagBody arg s) := by
  simp [gtagBody, wf_liftSpWrite h, h]
@[simp] theorem mem_gnewFinish (arg : BitVec 20) (g : BitVec 12) (s : State) : (gnewFinish arg g s).mem = s.mem := by
  rfl
@[simp] theorem wf_gnewBody {s : State} (h : s.mem.wf = true) (arg : BitVec 20) :
    Ends MemWf MemWf (gnewBody arg s) := by
  unfold gnewBody
  split <;> simp [h]

/-! ### Machine/Engine.lean -/

@[simp] theorem wf_pcfgBody {s : State} (h : s.mem.wf = true) (o : EOp) : Ends MemWf MemWf (pcfgBody o s) := by
  simp [pcfgBody, h]
@[simp] theorem ends_needOwner (P : State → Prop) (s : State) : Ends P (fun _ => True) (needOwner s) := by
  simp [needOwner]
@[simp] theorem ends_spanReads (P : State → Prop) (ea n : Nat) (s : State) :
    Ends P (fun _ => True) (spanReads ea n s) :=
  ends_foldlM P (fun g => by split <;> simp) _
@[simp] theorem ends_spanWrites (P : State → Prop) (ea n : Nat) (s : State) :
    Ends P (fun _ => True) (spanWrites ea n s) :=
  ends_foldlM P (fun g => by simp) _
@[simp] theorem ends_spanRange (P : State → Prop) (ea : Int) (n : Nat) : Ends P (fun _ => True) (spanRange ea n) := by
  simp [spanRange]
@[simp] theorem wf_planeIssue {s : State} (h : s.mem.wf = true) (o : EOp) (c : PlaneCmd) :
    Ends MemWf MemWf (planeIssue o c s) := by
  simp [planeIssue, h]
@[simp] theorem wf_pdotBody {s : State} (h : s.mem.wf = true) (o : EOp) : Ends MemWf MemWf (pdotBody o s) := by
  simp [pdotBody, h]
@[simp] theorem wf_packBody {s : State} (h : s.mem.wf = true) (kind : PlaneKind) (o : EOp) :
    Ends MemWf MemWf (packBody kind o s) := by
  simp [packBody, h]
@[simp] theorem wf_maclmBody {s : State} (h : s.mem.wf = true) (o : EOp) : Ends MemWf MemWf (maclmBody o s) := by
  simp [maclmBody, h]
@[simp] theorem wf_marelBody {s : State} (h : s.mem.wf = true) (o : EOp) : Ends MemWf MemWf (marelBody o s) := by
  simp [marelBody, h]
@[simp] theorem wf_mardBody {s : State} (h : s.mem.wf = true) (o : EOp) : Ends MemWf MemWf (mardBody o s) := by
  simp [mardBody, h]
@[simp] theorem wf_mawmBody {s : State} (h : s.mem.wf = true) (o : EOp) : Ends MemWf MemWf (mawmBody o s) := by
  simp [mawmBody, h]
@[simp] theorem wf_maclrBody {s : State} (h : s.mem.wf = true) (o : EOp) : Ends MemWf MemWf (maclrBody o s) := by
  simp [maclrBody, h]
@[simp] theorem ends_rangeCheck (P : State → Prop) (lo hi : Int) (block : DWord) (s : State) :
    Ends P (fun _ => True) (rangeCheck lo hi block s) := by
  simp [rangeCheck]
@[simp] theorem ends_rangePlb (P : State → Prop) (lo hi : Int) (need : Rights) (s : State) :
    Ends P (fun _ => True) (rangePlb lo hi need s) := by
  simp [rangePlb]
@[simp] theorem ends_copyChecks (P : State → Prop) (ea : Nat) (d : Vector DWord 4) (s : State) :
    Ends P (fun _ => True) (copyChecks ea d s) := by
  have hf : ∀ g : Bool → Except Stop Unit, (∀ side, Ends P (fun _ => True) (g side)) →
      Ends P (fun _ => True) (copySides.foldlM (fun _ side => g side) ()) := fun g hg => ends_foldlM P hg _
  simp [copyChecks, hf]
@[simp] theorem ends_readBlock (P : State → Prop) (o : EOp) (s : State) : Ends P (fun _ => True) (readBlock o s) := by
  simp [readBlock]
@[simp] theorem mem_engineDone (o : EOp) (s : State) : (engineDone o s).mem = s.mem := by rfl
@[simp] theorem wf_cpyBody {s : State} (h : s.mem.wf = true) (o : EOp) : Ends MemWf MemWf (cpyBody o s) := by
  simp [cpyBody, h]
@[simp] theorem wf_cpyqBody {s : State} (h : s.mem.wf = true) (o : EOp) : Ends MemWf MemWf (cpyqBody o s) := by
  simp [cpyqBody, h]
@[simp] theorem wf_inboxBody {s : State} (h : s.mem.wf = true) (o : EOp) : Ends MemWf MemWf (inboxBody o s) := by
  rw [inboxBody]
  refine (ends_holdW _ o.w s).guard fun _ => ?_
  dsimp only
  refine (ends_liftT _ _).guard fun _ => ?_
  refine (ends_fenceGate _ true false s).guard fun _ => ?_
  split
  · simp [h]
  · simp [h]
@[simp] theorem wf_granIssue {s : State} (h : s.mem.wf = true) (load : Bool) (o : EOp) (ea : Nat)
    (d : Vector DWord 4) :
    Ends MemWf MemWf (granIssue load o ea d s) := by
  simp [granIssue, h]
@[simp] theorem wf_grnwBody {s : State} (h : s.mem.wf = true) (o : EOp) : Ends MemWf MemWf (grnwBody o s) := by
  simp [grnwBody, h]
@[simp] theorem wf_grnBody {s : State} (h : s.mem.wf = true) (o : EOp) : Ends MemWf MemWf (grnBody o s) := by
  simp [grnBody, h]
@[simp] theorem mem_joinWave (k : BitVec 4) (op : BitVec 2) (num : Nat) (s : State) :
    (joinWave k op num s).mem = s.mem := by
  rfl
@[simp] theorem wf_collBody {s : State} (h : s.mem.wf = true) (o : COp) : Ends MemWf MemWf (collBody o s) := by
  simp [collBody, h]
@[simp] theorem wf_collwBody {s : State} (h : s.mem.wf = true) : Ends MemWf MemWf (collwBody s) := by
  unfold collwBody
  repeat' split
  all_goals simp [h]

/-! ### Machine/System.lean -/

@[simp] theorem wf_raiseAfter {s : State} (h : s.mem.wf = true) (cause : BitVec 8) (n : BitVec 20) :
    Ends MemWf MemWf (raiseAfter cause n s) := by
  simp [raiseAfter, h]
@[simp] theorem wf_eretBody {s : State} (h : s.mem.wf = true) : Ends MemWf MemWf (eretBody s) := by simp [eretBody, h]
@[simp] theorem mem_writeReg (r : Nat) (v : DWord) (s : State) : (writeReg r v s).mem = s.mem := by
  unfold writeReg
  split <;> simp
@[simp] theorem ends_regCheck (P : State → Prop) (arg : BitVec 20) (s : State) :
    Ends P (fun _ => True) (regCheck arg s) := by
  simp [regCheck]
@[simp] theorem wf_getsBody {s : State} (h : s.mem.wf = true) (arg : BitVec 20) :
    Ends MemWf MemWf (getsBody arg s) := by
  simp [getsBody, h]
@[simp] theorem wf_setsBody {s : State} (h : s.mem.wf = true) (arg : BitVec 20) :
    Ends MemWf MemWf (setsBody arg s) := by
  simp [setsBody, h]
@[simp] theorem mem_discardChan (s : State) (n : BitVec 2) : (discardChan s n).mem = s.mem := by
  unfold discardChan
  split <;> simp
@[simp] theorem mem_endThread (s : State) (t k : Nat) : (State.endThread s t k).mem = s.mem := by rfl
@[simp] theorem mem_unbindAll (s : State) : (unbindAll s).mem = s.mem := by simp [unbindAll]
@[simp] theorem wf_exitBody {s : State} (h : s.mem.wf = true) : Ends MemWf MemWf (exitBody s) := by simp [exitBody, h]
@[simp] theorem wf_haltBody {s : State} (h : s.mem.wf = true) (arg : BitVec 20) :
    Ends MemWf MemWf (haltBody arg s) := by
  simp [haltBody, h]
@[simp] theorem wf_launchBody {s : State} (h : s.mem.wf = true) (arg : BitVec 20) :
    Ends MemWf MemWf (launchBody arg s) := by
  simp [launchBody, h]
@[simp] theorem wf_wdogBody {s : State} (h : s.mem.wf = true) (n : BitVec 20) : Ends MemWf MemWf (wdogBody n s) := by
  simp [wdogBody, h]
@[simp] theorem wf_metrBody {s : State} (h : s.mem.wf = true) (arg : BitVec 20) :
    Ends MemWf MemWf (metrBody arg s) := by
  simp [metrBody, h]
@[simp] theorem wf_plbwBody {s : State} (h : s.mem.wf = true) (arg : BitVec 20) :
    Ends MemWf MemWf (plbwBody arg s) := by
  simp [plbwBody, h]
@[simp] theorem wf_plbiBody {s : State} (h : s.mem.wf = true) (arg : BitVec 20) :
    Ends MemWf MemWf (plbiBody arg s) := by
  simp [plbiBody, h]

/-! ### Machine/Context.lean -/

@[simp] theorem mem_inCtx {f : State → State} (hf : ∀ s, (f s).mem = s.mem) (t k : Nat) (s : State) :
    (inCtx t k f s).mem = s.mem := by
  simp [inCtx, hf]
@[simp] theorem mem_takePending (s : State) : (takePending s).mem = s.mem := by fun_cases takePending <;> simp
@[simp] theorem wf_preemptionBody {s : State} (h : s.mem.wf = true) (t k : Nat) :
    Answers MemWf (preemptionBody t k s) := by
  simp [preemptionBody, h]
@[simp] theorem wf_handlerDispatchBody {s : State} (h : s.mem.wf = true) (t : Nat) :
    Answers MemWf (handlerDispatchBody t s) := by
  simp [handlerDispatchBody, h]
@[simp] theorem wf_watchdogBody {s : State} (h : s.mem.wf = true) (t k : Nat) :
    Answers MemWf (watchdogBody t k s) := by
  simp [watchdogBody, h]
@[simp] theorem wf_pauseExpiryBody {s : State} (h : s.mem.wf = true) (t k : Nat) :
    Answers MemWf (pauseExpiryBody t k s) := by
  simp [pauseExpiryBody, h]
@[simp] theorem wf_barrierCompletionBody {s : State} (h : s.mem.wf = true) (n : Nat) :
    Answers MemWf (barrierCompletionBody n s) := by
  simp [barrierCompletionBody, h]
@[simp] theorem wf_barrierTimeoutBody {s : State} (h : s.mem.wf = true) (t k : Nat) :
    Answers MemWf (barrierTimeoutBody t k s) := by
  simp [barrierTimeoutBody, h]
@[simp] theorem wf_alignReleaseBody {s : State} (h : s.mem.wf = true) (t k : Nat) :
    Answers MemWf (alignReleaseBody t k s) := by
  fun_cases alignReleaseBody <;> simp [h]
@[simp] theorem wf_alignTimeoutBody {s : State} (h : s.mem.wf = true) (t k : Nat) :
    Answers MemWf (alignTimeoutBody t k s) := by
  fun_cases alignTimeoutBody <;> simp [h]
@[simp] theorem wf_gnewAllocationBody {s : State} (h : s.mem.wf = true) (t k : Nat) :
    Answers MemWf (gnewAllocationBody t k s) := by
  simp [gnewAllocationBody, h]
@[simp] theorem wf_generationSweepBody {s : State} (h : s.mem.wf = true) (t : Nat) :
    Answers MemWf (generationSweepBody t s) := by
  simp [generationSweepBody, h]
@[simp] theorem wf_scratchpadWritebackBody {s : State} (h : s.mem.wf = true) (t : Nat) :
    Answers MemWf (scratchpadWritebackBody t s) := by
  simp [scratchpadWritebackBody, h]
@[simp] theorem wf_rqhWriteBody {s : State} (h : s.mem.wf = true) (t k q : Nat) (v : DWord) :
    Answers MemWf (rqhWriteBody t k q v s) := by
  simp [rqhWriteBody, h]
@[simp] theorem wf_tmsgBody {s : State} (h : s.mem.wf = true) (drop : Bool) (t k : Nat) :
    Answers MemWf (tmsgBody drop t k s) := by
  simp [tmsgBody, h]
@[simp] theorem wf_oinfoFreeBody {s : State} (h : s.mem.wf = true) (t ix : Nat) :
    Answers MemWf (oinfoFreeBody t ix s) := by
  simp [oinfoFreeBody, h]
@[simp] theorem wf_redoRecord {s : State} (h : s.mem.wf = true) (t ix : Nat) : (redoRecord s t ix).mem.wf = true := by
  simp [redoRecord, h]
@[simp] theorem wf_oinfoRedoBody {s : State} (h : s.mem.wf = true) (t ix : Nat) :
    Answers MemWf (oinfoRedoBody t ix s) := by
  simp [oinfoRedoBody, h]
@[simp] theorem wf_oovfClearBody {s : State} (h : s.mem.wf = true) (t : Nat) (v : DWord) :
    Answers MemWf (oovfClearBody t v s) := by
  simp [oovfClearBody, h]

/-! ### Machine/Fetch.lean -/

@[simp] theorem mem_requestLines (bay : Nat) (s : State) : (requestLines bay s).mem = s.mem := by simp [requestLines]
@[simp] theorem wf_loftLineFetchBody {s : State} (h : s.mem.wf = true) (bay line : Nat) :
    Answers MemWf (loftLineFetchBody bay line s) := by
  simp [loftLineFetchBody, h]
@[simp] theorem wf_writeLoftWord {s : State} (h : s.mem.wf = true) (bay word : Nat) (v : Word) :
    (writeLoftWord bay word v s).mem.wf = true := by
  rw [writeLoftWord, mem_foldl (by simp)]
  exact wf_writeBytes h _ _

/-! ### Machine/Power.lean -/

@[simp] theorem wf_permitRefillBody {s : State} (h : s.mem.wf = true) (t : Nat) :
    Answers MemWf (permitRefillBody t s) := by
  simp [permitRefillBody, h]
@[simp] theorem wf_powerControlBody {s : State} (h : s.mem.wf = true) (die : Nat) :
    Answers MemWf (powerControlBody die s) := by
  simp [powerControlBody, h]
@[simp] theorem wf_bayrateBody {s : State} (h : s.mem.wf = true) (die bay : Nat) (v : DWord) :
    Answers MemWf (bayrateBody die bay v s) := by
  simp [bayrateBody, h]
@[simp] theorem mem_windowEnd (bay stook : Nat) (s : State) : (windowEnd bay stook s).mem = s.mem := by
  simp [windowEnd]
@[simp] theorem wf_stookWindowEndBody {s : State} (h : s.mem.wf = true) (bay stook : Nat) :
    Answers MemWf (stookWindowEndBody bay stook s) := by
  simp [stookWindowEndBody, h]
@[simp] theorem mem_fillerStep (t w : Nat) (s : State) : (fillerStep t w s).mem = s.mem := by simp [fillerStep]

/-! ### Machine/Network.lean -/

@[simp] theorem mem_injectReq (t k : Nat) (r : Req) (s : State) : (injectReq t k r s).mem = s.mem := by
  simp [injectReq]
@[simp] theorem wf_messageInjectionBody {s : State} (h : s.mem.wf = true) (t k n : Nat) :
    Answers MemWf (messageInjectionBody t k n s) := by
  simp [messageInjectionBody, h]
@[simp] theorem wf_releaseInjectionBody {s : State} (h : s.mem.wf = true) (t k n : Nat) :
    Answers MemWf (releaseInjectionBody t k n s) := by
  simp [releaseInjectionBody, h]
@[simp] theorem mem_dropFlight (s : State) (n : Nat) : (State.dropFlight s n).mem = s.mem := by rfl
@[simp] theorem mem_setPhase (s : State) (n : Nat) (r : Req) (p : Phase) : (State.setPhase s n r p).mem = s.mem := by
  rfl
@[simp] theorem mem_closeMessage (r : Req) (s : State) : (closeMessage r s).mem = s.mem := by simp [closeMessage]
@[simp] theorem mem_postDiscard (s : State) (tenant t k cid : Nat) (handler : Bool) :
    (State.postDiscard s tenant t k cid handler).mem = s.mem := by
  simp [State.postDiscard]
@[simp] theorem wf_deliverMessage {s : State} (h : s.mem.wf = true) (tenant dst slot cid : Nat) (hdr : DWord)
    (pay : List DWord) (bad : Bool) :
    (deliverMessage tenant dst slot cid hdr pay bad s).mem.wf = true := by
  unfold deliverMessage
  repeat' split
  all_goals simp [h]
@[simp] theorem mem_noteArrival (dst : Nat) (kq : Nat × BitVec 2) (key : Nat) (s : State) :
    (noteArrival dst kq key s).mem = s.mem := by
  simp [noteArrival]
@[simp] theorem wf_messageVisibleBody {s : State} (h : s.mem.wf = true) (n : Nat) :
    Answers MemWf (messageVisibleBody n s) := by
  unfold messageVisibleBody
  refine Answers.of_rest fun f => ?_
  split
  · simp [h]
  · simp
@[simp] theorem mem_wordArrives (w : ChanWord) (s : State) : (wordArrives w s).mem = s.mem := by
  unfold wordArrives
  split
  · simp
  · dsimp only
    split
    · cases (s.link _ _).bound <;> simp
    · simp
@[simp] theorem wf_channelWordArrivalBody {s : State} (h : s.mem.wf = true) (n : Nat) :
    Answers MemWf (channelWordArrivalBody n s) := by
  simp [channelWordArrivalBody, h]
@[simp] theorem mem_creditArrives (c : WordTo) (s : State) : (creditArrives c s).mem = s.mem := by
  unfold creditArrives
  split <;> simp
@[simp] theorem wf_creditReturnBody {s : State} (h : s.mem.wf = true) (n : Nat) :
    Answers MemWf (creditReturnBody n s) := by
  simp [creditReturnBody, h]
@[simp] theorem mem_clearLinks (p : Nat → Bool) (s : State) : (clearLinks p s).mem = s.mem := by
  rw [clearLinks, mem_foldl]
  intro s kl
  dsimp only
  split <;> simp
@[simp] theorem mem_settleLinks (tiles : List Nat) (s : State) : (settleLinks tiles s).mem = s.mem := by
  rw [settleLinks, mem_foldl]
  intro s t
  refine mem_foldl (fun s j => ?_) _ s
  dsimp only
  split <;> simp
@[simp] theorem mem_writeEntries (s : State) (es : List (Nat × Word)) : (State.writeEntries s es).mem = s.mem := by
  rfl
@[simp] theorem mem_clearEntries (s : State) (ks : List Nat) : (State.clearEntries s ks).mem = s.mem := by rfl
@[simp] theorem mem_addReply (s : State) (die : Nat) (r : JoinReply) : (State.addReply s die r).mem = s.mem := by
  simp [State.addReply]
@[simp] theorem mem_sendFar (s : State) (src : Nat) (far : List Nat) (es : List (Nat × Word)) :
    (State.sendFar s src far es).mem = s.mem := by
  simp [State.sendFar]
@[simp] theorem mem_commitJoin (r : JoinReply) (s : State) : (commitJoin r s).mem = s.mem := by simp [commitJoin]
@[simp] theorem mem_addBases (r : JoinReq) (key : Nat) (c : Circuit) (n : Nat) (s : State) :
    (addBases r key c n s).mem = s.mem := by
  unfold addBases
  repeat' split
  all_goals simp
@[simp] theorem mem_dropBases (key : Nat) (bs : List Nat) (reply : Option JoinReply) (s : State) :
    (dropBases key bs reply s).mem = s.mem := by
  rfl
@[simp] theorem mem_resizeTo (r : JoinReq) (key n : Nat) (s : State) : (resizeTo r key n s).mem = s.mem := by
  simp [resizeTo]
@[simp] theorem mem_setUp (r : JoinReq) (s : State) : (setUp r s).mem = s.mem := by fun_cases setUp <;> simp
@[simp] theorem mem_joinWork (r : JoinReq) (s : State) : (joinWork r s).mem = s.mem := by
  unfold joinWork
  split <;> simp
@[simp] theorem wf_joinerRequestBody {s : State} (h : s.mem.wf = true) (die : Nat) :
    Answers MemWf (joinerRequestBody die s) := by
  fun_cases joinerRequestBody <;> simp [h]
@[simp] theorem mem_settleReplies (old : List JoinReply) (die : Nat) (s : State) :
    (settleReplies old die s).mem = s.mem := by
  simp [settleReplies]
@[simp] theorem wf_farJoinerWriteBody {s : State} (h : s.mem.wf = true) (die : Nat) :
    Answers MemWf (farJoinerWriteBody die s) := by
  simp [farJoinerWriteBody, h]
@[simp] theorem wf_teardownDrainBody {s : State} (h : s.mem.wf = true) (n : Nat) :
    Answers MemWf (teardownDrainBody n s) := by
  unfold teardownDrainBody
  refine Answers.of_rest fun d => ?_
  split
  · simp
  · rw [answers_some, memWf_iff]
    split <;> simp [h]
@[simp] theorem wf_joinerReplyBody {s : State} (h : s.mem.wf = true) (die : Nat) :
    Answers MemWf (joinerReplyBody die s) := by
  fun_cases joinerReplyBody <;> simp [h]
@[simp] theorem mem_cancelJoin (key : Nat) (s : State) : (cancelJoin key s).mem = s.mem := by simp [cancelJoin]
@[simp] theorem mem_killCircuit (s : State) (key : Nat) : (killCircuit s key).mem = s.mem := by simp [killCircuit]
@[simp] theorem mem_uproot (key : Nat) (s : State) : (uproot key s).mem = s.mem := by rfl
@[simp] theorem mem_plantGate (kind : CircKind) (lane tile tenant key n : Nat) (s : State) :
    (plantGate kind lane tile tenant key n s).mem = s.mem := by
  rfl
@[simp] theorem mem_plantMemory (tenant bay : Nat) (s : State) : (plantMemory tenant bay s).mem = s.mem := by
  unfold plantMemory
  split <;> simp
@[simp] theorem mem_uprootMemory (s : State) (bay : Nat) : (uprootMemory s bay).mem = s.mem := by
  unfold uprootMemory
  split <;> simp
@[simp] theorem mem_plantGranary (tenant t : Nat) (s : State) : (plantGranary tenant t s).mem = s.mem := by
  simp [plantGranary]
@[simp] theorem wf_pullRequestBody {s : State} (h : s.mem.wf = true) (n : Nat) :
    Answers MemWf (pullRequestBody n s) := by
  unfold pullRequestBody
  refine Answers.of_rest fun f => ?_
  split <;> simp [h]
@[simp] theorem mem_setStream (s : State) (n : Nat) (st : Stream) : (State.setStream s n st).mem = s.mem := by
  simp [State.setStream]
@[simp] theorem wf_streamWrite {s : State} (h : s.mem.wf = true) (st : Stream) :
    (streamWrite st s).mem.wf = true := by
  unfold streamWrite
  extract_lets sl r
  have hr : r.1.mem.wf = true := wf_spWriteSpan h _ _ _ _ _
  split
  · split <;> simp [hr]
  · exact h
@[simp] theorem wf_pullCompletionBody {s : State} (h : s.mem.wf = true) (n : Nat) :
    Answers MemWf (pullCompletionBody n s) := by
  simp [pullCompletionBody, h]
@[simp] theorem mem_postNotice (st : Stream) (s : State) : (postNotice st s).mem = s.mem := by simp [postNotice]
@[simp] theorem wf_pullReleaseNoticeBody {s : State} (h : s.mem.wf = true) (n : Nat) :
    Answers MemWf (pullReleaseNoticeBody n s) := by
  simp [pullReleaseNoticeBody, h]
@[simp] theorem wf_rankEntryWriteBody {s : State} (h : s.mem.wf = true) (t r : Nat) (v : DWord) :
    Answers MemWf (rankEntryWriteBody t r v s) := by
  simp [rankEntryWriteBody, h]

/-! ### Machine/Device.lean -/

@[simp] theorem mem_meterDebug (t : Nat) (s : State) : (meterDebug t s).mem = s.mem := by
  unfold meterDebug
  split <;> simp
@[simp] theorem wf_debugWrite {s : State} (h : s.mem.wf = true) (t off : Nat) (v : DWord) :
    (debugWrite t off v s).mem.wf = true := by
  rw [debugWrite, mem_modTile]
  exact wf_writeBytes h _ _
@[simp] theorem mem_setDebugTag (t off : Nat) (v : DWord) (s : State) : (setDebugTag t off v s).mem = s.mem := by
  simp [setDebugTag]
@[simp] theorem mem_answerRead (v : DWord) (s : State) : (answerRead v s).mem = s.mem := by rfl
@[simp] theorem mem_answerRefused (s : State) : (answerRefused s).mem = s.mem := by rfl
@[simp] theorem wf_debugDataReadBody {s : State} (h : s.mem.wf = true) (t off : Nat) :
    Answers MemWf (debugDataReadBody t off s) := by
  simp [debugDataReadBody, h]
@[simp] theorem wf_debugDataWriteBody {s : State} (h : s.mem.wf = true) (t off : Nat) (v : DWord) :
    Answers MemWf (debugDataWriteBody t off v s) := by
  unfold debugDataWriteBody
  split <;> simp [h]
@[simp] theorem wf_debugTagReadBody {s : State} (h : s.mem.wf = true) (t off : Nat) :
    Answers MemWf (debugTagReadBody t off s) := by
  simp [debugTagReadBody, h]
@[simp] theorem wf_debugTagWriteBody {s : State} (h : s.mem.wf = true) (t off : Nat) (v : DWord) :
    Answers MemWf (debugTagWriteBody t off v s) := by
  simp [debugTagWriteBody, h]
@[simp] theorem mem_windowWrite (t k j : Nat) (v : DWord) (s : State) :
    Oks (fun u => u.mem = s.mem) (windowWrite t k j v s) := by
  unfold windowWrite
  split <;> simp
@[simp] theorem wf_contextWindowBody {s : State} (h : s.mem.wf = true) (t k off : Nat) (v : Option DWord) :
    Answers MemWf (contextWindowBody t k off v s) := by
  unfold contextWindowBody
  split
  · simp [h]
  split
  · split <;> simp [h]
  · split
    case h_1 hs => simp [mem_windowWrite _ _ _ _ _ _ hs, h]
    · simp [h]
@[simp] theorem wf_loftWindowWriteBody {s : State} (h : s.mem.wf = true) (bay word : Nat) (v : Word) :
    Answers MemWf (loftWindowWriteBody bay word v s) := by
  simp [loftWindowWriteBody, h]
@[simp] theorem wf_writeLoftBytes {s : State} (h : s.mem.wf = true) (bay off : Nat) (data : List (Option Byte)) :
    (writeLoftBytes bay off data s).mem.wf = true :=
  wf_foldl (fun _ _ hs => wf_writeLoftWord hs _ _ _) _ (wf_writeSome h _ _)
@[simp] theorem mem_writeBayMap (die bay : Nat) (v : DWord) (s : State) : (writeBayMap die bay v s).mem = s.mem := by
  simp [writeBayMap]
@[simp] theorem mem_modTenant (s : State) (t : Nat) (f : Tenant → Tenant) : (State.modTenant s t f).mem = s.mem := by
  rfl
@[simp] theorem wf_settingBody {s : State} (h : s.mem.wf = true) (r : DevReg) (v : DWord) :
    Answers MemWf (settingBody r v s) := by
  unfold settingBody
  split <;> simp [h]
@[simp] theorem wf_upsetBody {s : State} (h : s.mem.wf = true) (r : DevReg) (hard : Bool) :
    Answers MemWf (upsetBody r hard s) := by
  unfold upsetBody
  split <;> simp [h]
@[simp] theorem wf_registerWriteBody {s : State} (h : s.mem.wf = true) (r : DevReg) (v : DWord) :
    Answers MemWf (registerWriteBody r v s) := by
  unfold registerWriteBody
  split <;> simp [h]
@[simp] theorem wf_fleetListBody {s : State} (h : s.mem.wf = true) (tenant : Nat) (mods : List Nat) :
    Answers MemWf (fleetListBody tenant mods s) := by
  simp [fleetListBody, h]
@[simp] theorem wf_ringWrite {s : State} (h : s.mem.wf = true) (t off : Nat) (v : DWord) :
    Oks MemWf (ringWrite t off v s) := by
  simp [ringWrite, h]
@[simp] theorem mem_deviceRead (va : VA) (s : State) : Oks (fun r => r.2.mem = s.mem) (deviceRead va s) := by
  unfold deviceRead
  dsimp only
  split
  all_goals simp
  refine Oks.of_all fun off => ?_
  split <;> simp
@[simp] theorem wf_deviceWrite {s : State} (h : s.mem.wf = true) (va : VA) (v : DWord) :
    Oks MemWf (deviceWrite va v s) := by
  unfold deviceWrite
  dsimp only
  split
  · simp [h]
  · simp [h]
  · rw [oks_bind]
    exact Oks.of_all fun t u hu => by simp [mem_windowWrite _ _ _ _ _ u hu, h]
  · rw [oks_bind]
    exact fun r hr => by simp [mem_deviceRead va s r hr, h]
theorem mem_configRead (va : VA) (n : Nat) (s : State) : Oks (fun r => r.2.mem = s.mem) (configRead va n s) := by
  unfold configRead
  split
  · simp
  split
  · simp
  split
  · split
    case h_1 hr => simpa using mem_deviceRead va s _ hr
    · simp
  · simp
theorem wf_configWrite {s : State} (h : s.mem.wf = true) (va : VA) (data : List (Option Byte)) :
    Oks MemWf (configWrite va data s) := by
  simp [configWrite, h]

/-! ### Machine/Memory.lean -/

@[simp] theorem mem_metrReply (m : MetrReq) (v : DWord) (s : State) : (metrReply m v s).mem = s.mem := by
  simp [metrReply]
@[simp] theorem wf_remoteReplyBody {s : State} (h : s.mem.wf = true) (n : Nat) :
    Answers MemWf (remoteReplyBody n s) := by
  unfold remoteReplyBody
  repeat' split
  all_goals simp [h]
@[simp] theorem wf_storeAcknowledgeBody {s : State} (h : s.mem.wf = true) (n : Nat) :
    Answers MemWf (storeAcknowledgeBody n s) := by
  unfold storeAcknowledgeBody
  refine Answers.of_rest fun f => ?_
  split <;> simp [h]
@[simp] theorem mem_markPerformed (r : Req) (die mod : Bool) (s : State) :
    (markPerformed r die mod s).mem = s.mem := by
  simp [markPerformed]
@[simp] theorem mem_homeErr (t a : Nat) (e : Trap) (s : State) : (homeErr t a e s).mem = s.mem := by simp [homeErr]
@[simp] theorem wf_performTile {s : State} (h : s.mem.wf = true) (r : Req) (t : Nat) (g : BitVec 12) (strict : Bool) :
    (performTile r t g strict s).1.mem.wf = true := by
  unfold performTile
  dsimp only
  split
  · split <;> simp [h]
  · split
    case h_1 hw => simpa using spWrite_wf h hw
    · simp [h]
  · split
    · simp [h]
    · split
      · simp [h]
      · split
        case h_1 hw => simpa using spWrite_wf (by simpa using h) hw
        · simp [h]
  · exact h
@[simp] theorem mem_farAnswer (r : Req) (s : State) : (farAnswer r s).1.mem = s.mem := by
  unfold farAnswer
  split <;> simp
@[simp] theorem wf_windowAccess {s : State} (h : s.mem.wf = true) (r : Req) (dst slot : Nat) :
    (windowAccess r dst slot s).1.mem.wf = true := by
  unfold windowAccess
  split
  · simp [h]
  split
  · exact h
  · split <;> simp [h]
/-- `P` holds of the state that the end of an access of the configuration space leaves, where it names one. -/
def ConfigEnd.Leaves (P : State → Prop) : ConfigEnd → Prop
  | .answer s _ => P s
  | .unknown => True
  | .absent => True
theorem wf_configErr {s : State} (h : s.mem.wf = true) (r : Req) (e : DevErr) : (configErr r s e).Leaves MemWf := by
  cases e <;> simp [configErr, ConfigEnd.Leaves, h]
theorem wf_configRead {s : State} (h : s.mem.wf = true) (va : VA) (n : Nat) :
    Oks (fun r => r.2.mem.wf = true) (configRead va n s) :=
  fun r hr => show r.2.mem.wf = true from mem_configRead va n s r hr ▸ h
theorem wf_configAccess {s : State} (h : s.mem.wf = true) (r : Req) : (configAccess r s).Leaves MemWf := by
  unfold configAccess
  split
  · split
    case h_1 hr => exact wf_configRead h _ _ _ hr
    · exact wf_configErr h r _
  · split
    case h_1 hw => simpa [ConfigEnd.Leaves] using wf_configWrite h _ _ _ hw
    · exact wf_configErr h r _
  · split
    · exact wf_configErr h r _
    case h_2 old s1 hr =>
      have h1 : s1.mem.wf = true := wf_configRead h _ _ _ hr
      dsimp only
      split
      · exact h1
      · split
        case h_1 hw => simpa [ConfigEnd.Leaves] using wf_configWrite h1 _ _ _ hw
        · exact wf_configErr h r _
  · exact h
theorem goes_execHomeNiAccess {s : State} (h : s.mem.wf = true) (n : Nat) : Goes MemWf (execHomeNiAccess n s) := by
  unfold execHomeNiAccess
  split
  · simp [h]
  case h_2 f _ =>
    split
    · simp [h]
    · simp [h]
    · simp [h]
    · have hc := wf_configAccess h f.req
      split
      case h_1 hs => simpa [hs, ConfigEnd.Leaves] using hc
      · simp
      · simp
    · simp [h]
@[simp] theorem mem_translate (s : State) (die va : Nat) : (translate s die va).1.mem = s.mem := by
  fun_cases translate <;> simp
@[simp] theorem mem_portCheck (s : State) (die va tenant : Nat) (amo : Bool) :
    (portCheck s die va tenant amo).1.mem = s.mem := by
  unfold portCheck
  dsimp only
  split
  · simp
  · simp
  · split
    · simp
    · split <;> simp
@[simp] theorem mem_acceptAs (s : State) (n : Nat) (r : Req) (p : Phase) : (State.acceptAs s n r p).mem = s.mem := by
  rfl
@[simp] theorem mem_hostAccept (n : Nat) (r : Req) (s : State) : (hostAccept n r s).mem = s.mem := by
  unfold hostAccept
  split <;> simp
@[simp] theorem mem_bulkAccept (n : Nat) (r : Req) (s : State) : (bulkAccept n r s).mem = s.mem := by
  unfold bulkAccept
  dsimp only
  split
  · simp
  · rfl
  · simp
  · split
    · simp
    · split
      · simp
      · split <;> simp
@[simp] theorem wf_entryPortBody {s : State} (h : s.mem.wf = true) (n : Nat) : Answers MemWf (entryPortBody n s) := by
  simp [entryPortBody, h]
@[simp] theorem wf_writeBulk {s : State} (h : s.mem.wf = true) (a : Nat) (data : List (Option Byte)) :
    (writeBulk a data s).mem.wf = true :=
  wf_writeSome h _ _
@[simp] theorem wf_performBulk {s : State} (h : s.mem.wf = true) (r : Req) (a : Nat) :
    (performBulk r a s).1.mem.wf = true := by
  unfold performBulk
  split
  · split <;> exact h
  · simp [h]
  · split
    · simp [h]
    · dsimp only
      split <;> simp [h]
  · exact h
@[simp] theorem wf_homePortBody {s : State} (h : s.mem.wf = true) (n : Nat) : Answers MemWf (homePortBody n s) := by
  unfold homePortBody
  refine Answers.of_rest fun f => ?_
  split <;> simp [h]
@[simp] theorem wf_replicaWriteBody {s : State} (h : s.mem.wf = true) (n copy : Nat) :
    Answers MemWf (replicaWriteBody n copy s) := by
  unfold replicaWriteBody
  refine Answers.of_rest fun f => ?_
  split <;> simp [h]
@[simp] theorem wf_pcieCompletionBody {s : State} (h : s.mem.wf = true) (n : Nat) (ok : Bool) (bytes : List Byte) :
    Answers MemWf (pcieCompletionBody n ok bytes s) := by
  unfold pcieCompletionBody
  refine Answers.of_rest fun f => ?_
  split <;> simp [h]
@[simp] theorem mem_portRead (s : State) (die va n tenant : Nat) : (portRead s die va n tenant).1.mem = s.mem := by
  unfold portRead
  dsimp only
  split
  · simp
  · split
    · simp
    · split <;> simp
@[simp] theorem wf_portWrite {s : State} (h : s.mem.wf = true) (die va : Nat) (data : List (Option Byte))
    (tenant : Nat) :
    (portWrite s die va data tenant).1.mem.wf = true := by
  unfold portWrite
  dsimp only
  split
  · simp [h]
  · split
    · simp [h]
    · exact wf_foldl (fun _ _ hs => wf_writeBulk hs _ _) _ (by simpa using h)
@[simp] theorem wf_portDecrement {s : State} (h : s.mem.wf = true) (die va tenant : Nat) :
    (portDecrement s die va tenant).1.mem.wf = true := by
  unfold portDecrement
  dsimp only
  split
  · simp [h]
  · split
    · simp [h]
    · split <;> simp [h]
@[simp] theorem wf_tryOwed {s : State} (h : s.mem.wf = true) (o : Owed) : (tryOwed o s).mem.wf = true := by
  unfold tryOwed
  cases o.val
  all_goals
    dsimp only
    split <;> simp [h]
@[simp] theorem wf_retryOwed {s : State} (h : s.mem.wf = true) : (retryOwed s).mem.wf = true :=
  wf_foldl (fun _ o hs => wf_tryOwed hs o) _ h
@[simp] theorem wf_retryServed {s : State} (h : s.mem.wf = true) : (retryServed s).mem.wf = true :=
  wf_foldl (fun _ o hs => wf_tryOwed hs o) _ h
@[simp] theorem wf_turnWheel {s : State} (h : s.mem.wf = true) (stack : Nat) : (turnWheel stack s).mem.wf = true := by
  fun_cases turnWheel <;> simp [h]
@[simp] theorem wf_serviceSlotWriteBody {s : State} (h : s.mem.wf = true) (stack ix : Nat) (v : DWord) :
    Answers MemWf (serviceSlotWriteBody stack ix v s) := by
  simp [serviceSlotWriteBody, h]
@[simp] theorem wf_faultRecordBody {s : State} (h : s.mem.wf = true) (n : Nat) :
    Answers MemWf (faultRecordBody n s) := by
  simp [faultRecordBody, h]
@[simp] theorem mem_retryAll (s : State) : (retryAll s).mem = s.mem := by rfl
@[simp] theorem wf_faultFlushBody {s : State} (h : s.mem.wf = true) : Answers MemWf (faultFlushBody s) := by
  simp [faultFlushBody, h]
@[simp] theorem mem_dismissAll (r : FaultRec) (s : State) : (dismissAll r s).mem = s.mem := by rfl
@[simp] theorem wf_faultDismissBody {s : State} (h : s.mem.wf = true) (n : Nat) :
    Answers MemWf (faultDismissBody n s) := by
  simp [faultDismissBody, h]
@[simp] theorem wf_invalidationBody {s : State} (h : s.mem.wf = true) (lo hi : VA) :
    Answers MemWf (invalidationBody lo hi s) := by
  simp [invalidationBody, h]
@[simp] theorem wf_invalidationAckBody {s : State} (h : s.mem.wf = true) (n : Nat) :
    Answers MemWf (invalidationAckBody n s) := by
  simp [invalidationAckBody, h]
@[simp] theorem mem_windowBytes (tenant n va : Nat) (s : State) : (windowBytes tenant n va s).1.mem = s.mem := by
  fun_induction windowBytes tenant n va s <;> simp_all +zetaDelta
@[simp] theorem wf_windowStore {s : State} (h : s.mem.wf = true) (tenant : Nat) (bs : List Byte) (va : Nat) :
    (windowStore tenant bs va s).1.mem.wf = true := by
  fun_induction windowStore tenant bs va s <;> simp_all +zetaDelta
@[simp] theorem wf_bulkWindowBody {s : State} (h : s.mem.wf = true) (vf off n : Nat) (v : Option (List Byte)) :
    Answers MemWf (bulkWindowBody vf off n v s) := by
  fun_cases bulkWindowBody <;> simp +zetaDelta [h]

/-! ### Machine/Engines.lean -/

@[simp] theorem mem_postPlane (s : State) (t k run : Nat) (e : Trap) : (State.postPlane s t k run e).mem = s.mem := by
  simp [State.postPlane]
@[simp] theorem wf_planeStartBody {s : State} (h : s.mem.wf = true) (t : Nat) :
    Answers MemWf (planeStartBody t s) := by
  unfold planeStartBody
  dsimp only
  split
  · split
    · simp
    · rw [answers_some, memWf_iff]
      split <;> simp [h]
  · simp
@[simp] theorem wf_pdotAdditionBody {s : State} (h : s.mem.wf = true) (t : Nat) :
    Answers MemWf (pdotAdditionBody t s) := by
  simp [pdotAdditionBody, h]
@[simp] theorem wf_packWrites {s : State} (h : s.mem.wf = true) (t : Nat) (g : BitVec 12) (fuel a : Nat)
    (bs : List Byte) :
    (packWrites t g fuel a bs s).1.mem.wf = true := by
  fun_induction packWrites t g fuel a bs s with
  | case1 => exact h
  | case2 => exact h
  | case3 fuel a bs s _ _ s' hs ih => exact ih (spWrite_wf h hs)
  | case4 fuel a bs s _ _ e _ r ih => exact ih h
@[simp] theorem wf_packWriteBody {s : State} (h : s.mem.wf = true) (t : Nat) : Answers MemWf (packWriteBody t s) := by
  unfold packWriteBody
  dsimp only
  split
  · simp
  · refine Answers.of_rest fun i => ?_
    refine Answers.of_rest fun r => ?_
    split
    · simp [h]
    · rw [answers_some, memWf_iff]
      split <;> simp [h]
@[simp] theorem wf_copyStartBody {s : State} (h : s.mem.wf = true) (bay : Nat) :
    Answers MemWf (copyStartBody bay s) := by
  unfold copyStartBody
  repeat' split
  all_goals simp [h]
/-- `P` holds of the state that the end of a doubleword of a copy leaves, where it names one. -/
def DwEnd.Leaves {α : Type} (P : State → Prop) : DwEnd α → Prop
  | .ok _ s => P s
  | .fail _ s => P s
  | .park _ s => P s
  | .busy s => P s
  | .refuse _ => True
  | .noUnit => True
theorem wf_configEnd {α : Type} {s : State} (h : s.mem.wf = true) {x : Except DevErr (α × State)}
    (hx : Oks (fun r => r.2.mem.wf = true) x) :
    (configEnd s x).Leaves MemWf := by
  fun_cases configEnd <;> simp_all [DwEnd.Leaves]
theorem wf_copyReadVa {s : State} (h : s.mem.wf = true) (c : Copy) (t va : Nat) :
    (copyReadVa c t va s).Leaves MemWf := by
  have hc := wf_configEnd h (wf_configRead h (BitVec.ofNat 72 va) 8)
  unfold copyReadVa
  extract_lets v e w p
  have hw : w.1.mem.wf = true := wf_windowAccess h ..
  have hp : p.1.mem.wf = true := by simp [p, h]
  split
  · split
    · exact h
    split
    · exact h
    · split <;> exact hw
  · exact hc
  · exact hc
  · exact h
  · split <;> exact hp
theorem wf_copyWriteVa {s : State} (h : s.mem.wf = true) (c : Copy) (t va : Nat) (bs : List Byte) :
    (copyWriteVa c t va bs s).Leaves MemWf := by
  have hu := wf_configWrite h (BitVec.ofNat 72 va) (bs.map some)
  have hc (e : DevErr) : (configEnd s (.error e : Except DevErr (Unit × State))).Leaves MemWf :=
    wf_configEnd h (oks_error _ e)
  unfold copyWriteVa
  extract_lets v e w p
  have hw : w.1.mem.wf = true := wf_windowAccess h ..
  have hp : p.1.mem.wf = true := wf_portWrite h ..
  split
  · split
    · exact h
    split
    · exact h
    · split <;> exact hw
  · split
    case h_1 u hs => exact hu u hs
    · exact hc _
  · split
    case h_1 u hs => exact hu u hs
    · exact hc _
  · exact h
  · split <;> exact hp
theorem wf_copyReadLocal {s : State} (h : s.mem.wf = true) (c : Copy) (t a : Nat) :
    (copyReadLocal c t a s).Leaves MemWf := by
  fun_cases copyReadLocal <;> simp [DwEnd.Leaves, h]
theorem wf_copyWriteLocal {s : State} (h : s.mem.wf = true) (c : Copy) (t a : Nat) (bs : List Byte) :
    (copyWriteLocal c t a bs s).Leaves MemWf := by
  unfold copyWriteLocal
  split
  case h_1 hs => exact spWrite_wf h hs
  · exact h
theorem wf_copyRead {s : State} (h : s.mem.wf = true) (c : Copy) (t i : Nat) : (copyRead c t i s).Leaves MemWf := by
  unfold copyRead
  dsimp only
  split
  · exact wf_copyReadLocal h _ _ _
  · exact wf_copyReadVa h _ _ _
theorem wf_copyWrite {s : State} (h : s.mem.wf = true) (c : Copy) (t i : Nat) (bs : List Byte) :
    (copyWrite c t i bs s).Leaves MemWf := by
  unfold copyWrite
  dsimp only
  split
  · exact wf_copyWriteLocal h _ _ _ _
  · exact wf_copyWriteVa h _ _ _ _
/-- `P` holds of the state that the end of a part of a copy leaves, where it names one. -/
def CopyEnd.Leaves (P : State → Prop) : CopyEnd → Prop
  | .done s => P s
  | .fail _ _ s => P s
  | .park _ _ _ _ s => P s
  | .busy _ s => P s
  | .refuse _ => True
  | .noUnit => True
theorem wf_copyScatter {s : State} (h : s.mem.wf = true) (c : Copy) (t : Nat) (l : List (List Byte)) (i : Nat) :
    (copyScatter c t l i s).Leaves MemWf := by
  induction l generalizing i s with
  | nil => exact h
  | cons bs rest ih =>
    have hw := wf_copyWrite h c t i bs
    unfold copyScatter
    split <;> simp_all [CopyEnd.Leaves, DwEnd.Leaves]
theorem wf_copyGather {s : State} (h : s.mem.wf = true) (c : Copy) (t n i : Nat) :
    (copyGather c t n i s).1.Leaves MemWf := by
  induction n generalizing i s with
  | zero => exact h
  | succ n ih =>
    have hr := wf_copyRead h c t i
    unfold copyGather
    split <;> simp_all [CopyEnd.Leaves, DwEnd.Leaves]
theorem CopyEnd.Leaves.wf_state {s : State} {e : CopyEnd} (he : e.Leaves MemWf) (h : s.mem.wf = true) :
    (e.state s).mem.wf = true := by
  cases e with
  | done | fail | park | busy => exact he
  | refuse | noUnit => exact h
theorem CopyEnd.leaves_withState {P : State → Prop} {s : State} (hs : P s) (e : CopyEnd) :
    (e.withState s).Leaves P := by
  cases e with
  | done | fail | park | busy => exact hs
  | refuse | noUnit => trivial
theorem wf_copyFrom {s : State} (h : s.mem.wf = true) (c : Copy) (t n i : Nat) :
    (copyFrom c t n i s).Leaves MemWf := by
  induction n generalizing i s with
  | zero => exact h
  | succ n ih =>
    have hg := wf_copyGather h c t 1 i
    unfold copyFrom
    split
    case h_1 s1 bs hs =>
      rw [hs] at hg
      have hw := wf_copyScatter hg c t bs i
      split
      case h_1 s2 h2 => rw [h2] at hw; exact ih hw _
      · exact hw
    case h_2 hs => rw [hs] at hg; exact hg
theorem wf_copyChunks {s : State} (h : s.mem.wf = true) (c : Copy) (t fuel n i : Nat) :
    (copyChunks c t fuel n i s).Leaves MemWf := by
  induction fuel generalizing n i s with
  | zero => exact h
  | succ fuel ih =>
    unfold copyChunks
    split
    · exact h
    extract_lets k g
    have hg : (g.1.state s).mem.wf = true := (wf_copyGather h c t k i).wf_state h
    have hw := wf_copyScatter hg c t (overLegs c t s g.2) i
    split
    · trivial
    · trivial
    · split
      case h_1 s2 h2 =>
        rw [h2] at hw
        split
        · exact ih hw _ _
        · exact CopyEnd.leaves_withState hw _
      · exact hw
theorem wf_copyRest {s : State} (h : s.mem.wf = true) (c : Copy) (t : Nat) : (copyRest c t s).Leaves MemWf := by
  unfold copyRest
  dsimp only
  split
  · exact wf_copyChunks h ..
  · exact wf_copyFrom h ..
@[simp] theorem mem_copyDone (c : Copy) (t status va : Nat) (s : State) : (copyDone c t status va s).mem = s.mem := by
  simp [copyDone]
@[simp] theorem mem_copyPark (c : Copy) (t level va pos : Nat) (write : Bool) (s : State) :
    (copyPark c t level va pos write s).mem = s.mem := by
  simp [copyPark]
theorem goes_ofCopy {c : Copy} {t : Nat} {e : CopyEnd} (he : e.Leaves MemWf) : Goes MemWf (Step.ofCopy c t e) := by
  cases e <;> simp_all [CopyEnd.Leaves, Step.ofCopy]
theorem mem_copySend (c : Copy) (t : Nat) (data : List (List Byte)) (s : State) :
    (copySend c t data s).2.mem = s.mem := by
  unfold copySend
  dsimp only
  split <;> rfl
theorem goes_farCopy {s : State} (h : s.mem.wf = true) (c : Copy) (t : Nat) : Goes MemWf (farCopy c t s) := by
  unfold farCopy
  split
  · split <;> simp [h]
  split
  · simp [h]
  extract_lets n g r
  have hg : (g.1.state s).mem.wf = true := (wf_copyGather h c t n c.pos).wf_state h
  have hr : r.2.mem.wf = true := by simpa [r, mem_copySend] using hg
  split
  · simp [hr]
  · exact goes_ofCopy (CopyEnd.leaves_withState hr _)
theorem goes_execCopyCompletion {s : State} (h : s.mem.wf = true) (t : Nat) :
    Goes MemWf (execCopyCompletion t s) := by
  unfold execCopyCompletion
  split
  · simp
  split
  · simp [h]
  split
  · simp [h]
  split
  · simp [h]
  split
  · exact goes_farCopy h _ _
  · exact goes_ofCopy (wf_copyRest h ..)
@[simp] theorem mem_setBin (s : State) (g bin : Nat) (b : Bin) : (State.setBin s g bin b).mem = s.mem := by rfl
@[simp] theorem wf_binGrantBody {s : State} (h : s.mem.wf = true) (g bin tenant : Nat) :
    Answers MemWf (binGrantBody g bin tenant s) := by
  simp [binGrantBody, h]
@[simp] theorem wf_binAdvanceBody {s : State} (h : s.mem.wf = true) (g tenant : Nat) :
    Answers MemWf (binAdvanceBody g tenant s) := by
  simp [binAdvanceBody, h]
@[simp] theorem mem_granDone (n : Nat) (r : GranReq) (status : Nat) (s : State) :
    (granDone n r status s).mem = s.mem := by
  simp [granDone]
@[simp] theorem mem_meterBin (tenant n : Nat) (s : State) : (meterBin tenant n s).mem = s.mem := by rfl
theorem wf_slabRead {s : State} (h : s.mem.wf = true) (r : GranReq) (n va : Nat) :
    (slabRead r n va s).1.Leaves MemWf := by
  induction n generalizing va s with
  | zero => exact h
  | succ n ih =>
    have hc := wf_copyReadVa h r.asCopy r.tile va
    unfold slabRead
    split
    case h_1 bs s1 hs =>
      rw [hs] at hc
      have hr := ih hc (va + 8)
      split
      case h_1 hs2 => rw [hs2] at hr; exact hr
      · exact hr
    · exact hc
theorem goes_loadBin {s : State} (h : s.mem.wf = true) (n : Nat) (r : GranReq) : Goes MemWf (loadBin n r s) := by
  have hr := wf_slabRead h r (slabRows r * granRow (slabType r) / 8) (slabVa r)
  unfold loadBin
  dsimp only
  split <;> simp_all [DwEnd.Leaves, wf_writeBytes]
theorem goes_execGranaryLoad {s : State} (h : s.mem.wf = true) (n : Nat) : Goes MemWf (execGranaryLoad n s) := by
  unfold execGranaryLoad
  split
  · simp [h]
  · simp [h, goes_loadBin h]
@[simp] theorem wf_computeBin {s : State} (h : s.mem.wf = true) (n : Nat) (r : GranReq) :
    (computeBin n r s).mem.wf = true := by
  fun_cases computeBin <;> simp +zetaDelta [h]
@[simp] theorem wf_granaryComputeBody {s : State} (h : s.mem.wf = true) (n : Nat) :
    Answers MemWf (granaryComputeBody n s) := by
  simp [granaryComputeBody, h]
@[simp] theorem wf_combineForwardBody {s : State} (h : s.mem.wf = true) (n : Nat) :
    Answers MemWf (combineForwardBody n s) := by
  unfold combineForwardBody
  refine Answers.of_rest fun w => ?_
  refine Answers.of_rest fun l => ?_
  dsimp only
  split <;> simp [h]
@[simp] theorem mem_dropWaves (s : State) : (dropWaves s).mem = s.mem := by rfl
@[simp] theorem wf_collectiveResultBody {s : State} (h : s.mem.wf = true) (t k : Nat) :
    Answers MemWf (collectiveResultBody t k s) := by
  simp [collectiveResultBody, h]

/-! ### Machine/Repoint.lean -/

@[simp] theorem mem_mapTiles (s : State) (f : Tile → Tile) : (State.mapTiles s f).mem = s.mem := by rfl
@[simp] theorem mem_loseReq (r : Req) (s : State) : (loseReq r s).mem = s.mem := by
  unfold loseReq
  split <;> simp
@[simp] theorem mem_loseHeld (keys : List Nat) (s : State) : (loseHeld keys s).mem = s.mem := by simp [loseHeld]
@[simp] theorem mem_killCircuits (keys : List Nat) (s : State) : (killCircuits keys s).mem = s.mem := by
  simp [killCircuits]
@[simp] theorem mem_setPark (park : Bool) (key : Nat) (s : State) : (setPark park key s).mem = s.mem := by rfl
@[simp] theorem mem_deliverWords (key : Nat) (s : State) : (deliverWords key s).mem = s.mem := by simp [deliverWords]
@[simp] theorem mem_parkInto (lid : BitVec 29) (tiles : List Nat) (s : State) :
    (parkInto lid tiles s).mem = s.mem := by
  simp [parkInto]
@[simp] theorem mem_setTransit (on : Bool) (tiles : List Nat) (s : State) : (setTransit on tiles s).mem = s.mem := by
  rfl
@[simp] theorem mem_sleepFrom (lid : BitVec 29) (tiles : List Nat) (s : State) :
    (sleepFrom lid tiles s).mem = s.mem := by
  rfl
theorem mem_replant (m : Move) (key : Nat) (c : Circuit) (s : State) :
    Answers (fun r => r.1.mem = s.mem) (replant m key c s) := by
  unfold replant
  dsimp only
  split
  · simp
  · simp [guard]
theorem mem_replantAll (m : Move) (l : List (Nat × Circuit)) (s : State) :
    Oks (fun r => r.1.mem = s.mem) (replantAll m l s) := by
  induction l generalizing s with
  | nil => simp [replantAll]
  | cons kc r ih =>
    unfold replantAll
    split
    · simp
    case h_2 x hx =>
      have h1 := mem_replant m kc.1 kc.2 s x hx
      split
      · simp
      case h_2 y hy => simpa using (ih x.1 y hy).trans h1
theorem mem_repoint (m : Move) (s : State) : Oks (fun r => r.1.mem = s.mem) (repoint m s) := by
  unfold repoint
  dsimp only
  split
  · simp
  case h_2 s1 ks hs => simpa using mem_replantAll m _ _ _ hs
@[simp] theorem wf_plantChain {s : State} (h : s.mem.wf = true) (tenant : Nat) (tiles : List Nat) :
    Answers MemWf (plantChain tenant tiles s) := by
  unfold plantChain
  repeat' split
  all_goals simp [h]
@[simp] theorem wf_plantLevel {s : State} (h : s.mem.wf = true) (tenant : Nat) (ls : List Level) (ths : List Thread)
    (k : Nat) :
    Answers MemWf (plantLevel tenant ls ths k s) :=
  answers_foldlM (fun _ _ hs => wf_plantChain hs _ _) _ h
@[simp] theorem mem_uprootOwn (tiles : List Nat) (s : State) : (uprootOwn tiles s).mem = s.mem := by simp [uprootOwn]

/-! ### Machine/Grant.lean -/

@[simp] theorem mem_modLaunch (s : State) (lid : BitVec 29) (f : Launch → Launch) :
    (State.modLaunch s lid f).mem = s.mem := by
  rfl
@[simp] theorem mem_dropLaunch (s : State) (lid : BitVec 29) : (State.dropLaunch s lid).mem = s.mem := by rfl
@[simp] theorem wf_storeDone {s : State} (h : s.mem.wf = true) (q : Option Nat) (tenant done : Nat)
    (val : Option DWord) :
    (storeDone q tenant done val s).mem.wf = true := by
  unfold storeDone
  split <;> simp [h]
@[simp] theorem wf_faultRecord {s : State} (h : s.mem.wf = true) (l : Launch) (code : Nat) :
    (faultRecord l code s).mem.wf = true := by
  simp [faultRecord, h]
@[simp] theorem mem_flushCounts (t : Nat) (s : State) : (flushCounts t s).mem = s.mem := by
  unfold flushCounts
  rw [mem_modTile]
  split <;> simp
@[simp] theorem mem_freeBay (s : State) (bay : Nat) : (freeBay s bay).mem = s.mem := by simp [freeBay]
@[simp] theorem mem_dropWork (lid : BitVec 29) (tiles : List Nat) (s : State) :
    (dropWork lid tiles s).mem = s.mem := by
  simp [dropWork]
@[simp] theorem mem_leaveBays (l : Launch) (s : State) : (leaveBays l s).mem = s.mem := by simp [leaveBays]
@[simp] theorem mem_endRotation (bays : List Nat) (s : State) : (endRotation bays s).mem = s.mem := by
  simp [endRotation]
@[simp] theorem mem_countKept (l : Launch) (s : State) : (countKept l s).mem = s.mem := by rfl
@[simp] theorem wf_abortLaunch {s : State} (h : s.mem.wf = true) (l : Launch) (code : Nat) :
    (abortLaunch l code s).mem.wf = true := by
  simp [abortLaunch, h]
@[simp] theorem mem_beginSave (l : Launch) (s : State) : (beginSave l s).mem = s.mem := by simp [beginSave]
@[simp] theorem mem_choosePlace (l : Launch) (ths : List Thread) (s : State) : (choosePlace l ths s).mem = s.mem := by
  simp [choosePlace]
@[simp] theorem mem_placeToFault (l : Launch) (s : State) : (placeToFault l s).mem = s.mem := by rfl
@[simp] theorem mem_parkLaunch (l : Launch) (die k va : Nat) (kind : BitVec 4) (s : State) :
    (parkLaunch l die k va kind s).mem = s.mem := by
  simp [parkLaunch]
theorem mem_repointFit (l : Launch) (ls : List Level) (ths : List Thread) (s : State) :
    Oks (fun r => r.1.mem = s.mem) (repointFit l ls ths s) := by
  unfold repointFit
  split
  · simp
  case h_2 r hr =>
    split
    · simp
    · simpa using mem_repoint _ s r hr
@[simp] theorem mem_select (boundary : Bool) (l : Launch) (ls : List Level) (s : State) (victims : List (BitVec 29)) :
    (select boundary l ls s victims).1.mem = s.mem := by
  fun_cases select <;> simp +zetaDelta
theorem wf_offer (boundary : Bool) (acc : State × List (BitVec 29)) (h : acc.1.mem.wf = true) (lid : BitVec 29) :
    (offer boundary acc lid).1.mem.wf = true := by
  fun_cases offer <;> simp +zetaDelta [h]
theorem wf_loadRuntime (s : State) (bay : Nat) {m : Memory} (hm : m.wf = true) : (loadRuntime s bay m).wf = true := by
  unfold loadRuntime
  split
  · split
    · exact wf_writeBytes hm _ _
    · exact hm
  · exact hm
@[simp] theorem wf_loadLoft {s : State} (h : s.mem.wf = true) (hdr code : List Byte) (bay : Nat) :
    (loadLoft hdr code bay s).mem.wf = true := by
  rw [loadLoft, mem_foldl (by simp)]
  exact wf_loadRuntime s bay (wf_writeBytes (wf_writeBytes (wf_writeBytes h _ _) _ _) _ _)
@[simp] theorem mem_rotateBay (s : State) (bay : Nat) : (rotateBay s bay).mem = s.mem := by simp [rotateBay]
@[simp] theorem wf_rotateStep {s : State} (h : s.mem.wf = true) (l : Launch) (fits : State → Bool) :
    Answers MemWf (rotateStep l fits s) := by
  unfold rotateStep
  split <;> simp [h]
@[simp] theorem mem_loadBay (l : Launch) (s : State) (bay : Nat) : (loadBay l s bay).mem = s.mem := by simp [loadBay]
@[simp] theorem mem_loadTile (l : Launch) (hdr : List Byte) (ls : List Level) (combs : List (BitVec 4))
    (ths : List Thread) (s : State) (t : Nat) :
    (loadTile l hdr ls combs ths s t).mem = s.mem := by
  simp [loadTile]
@[simp] theorem wf_loadArgs {s : State} (h : s.mem.wf = true) (args : List Byte) (t : Nat) :
    (loadArgs args s t).mem.wf = true := by
  rw [loadArgs, mem_setTile]
  exact wf_writeBytes h _ _
@[simp] theorem wf_plantCombs {s : State} (h : s.mem.wf = true) (tenant : Nat) (ls : List Level) (ths : List Thread)
    (ks : List (BitVec 4)) :
    (plantCombs tenant ls ths ks s).1.mem.wf = true := by
  induction ks generalizing s with
  | nil => exact h
  | cons k r ih =>
    have hp := wf_plantLevel h tenant ls ths k.toNat
    unfold plantCombs
    split
    case h_1 s1 hs => exact ih (hp s1 hs)
    · exact ih h
@[simp] theorem wf_plantOwn {s : State} (h : s.mem.wf = true) (l : Launch) (ls : List Level) (ths : List Thread) :
    (plantOwn l ls ths s).1.mem.wf = true := by
  simp [plantOwn, h]
@[simp] theorem wf_loadBays {s : State} (h : s.mem.wf = true) (l : Launch) (hdr code : List Byte) (ls : List Level)
    (ths : List Thread) :
    (loadBays l hdr code ls ths s).1.mem.wf = true :=
  wf_plantOwn (wf_foldl (fun s b hs => wf_loadLoft (by simpa using hs) hdr code b) _ h) l ls ths

/-! ### Machine/Hub.lean -/

@[simp] theorem mem_countRefused (q : Nat) (s : State) : (countRefused q s).mem = s.mem := by simp [countRefused]
@[simp] theorem wf_submit {s : State} (h : s.mem.wf = true) (q vf : Nat) (dw : Vector DWord 8) :
    (submit q vf dw s).1.mem.wf = true := by
  unfold submit
  dsimp only
  split <;> simp [h]
@[simp] theorem wf_submissionBody {s : State} (h : s.mem.wf = true) (src : SubSource) :
    Answers MemWf (submissionBody src s) := by
  unfold submissionBody
  split
  · simp [h]
  · split
    · simp [h]
    · split
      · simp [h]
      · split <;> simp [h]
  · simp [h]
  · simp [h]
@[simp] theorem wf_launchRecordBody {s : State} (h : s.mem.wf = true) (n : Nat) :
    Answers MemWf (launchRecordBody n s) := by
  simp [launchRecordBody, h]
@[simp] theorem wf_queueDispatchBody {s : State} (h : s.mem.wf = true) (q : Nat) :
    Answers MemWf (queueDispatchBody q s) := by
  simp [queueDispatchBody, h]
@[simp] theorem wf_readSignals {s : State} (h : s.mem.wf = true) (l : Launch) (i : Nat) (vas : List Nat) :
    (readSignals l i vas s).mem.wf = true := by
  fun_induction readSignals l i vas s <;> simp_all
@[simp] theorem wf_signalReadBody {s : State} (h : s.mem.wf = true) (lid : Nat) :
    Answers MemWf (signalReadBody lid s) := by
  unfold signalReadBody
  refine Answers.of_rest fun l => ?_
  split
  · simp
  · split
    · simp [h]
    · dsimp only
      split <;> simp [h]
@[simp] theorem mem_gains (s : State) : (gains s).mem = s.mem := by simp [gains]
theorem wf_offerAll (boundary : Bool) (lids : List (BitVec 29)) {acc : State × List (BitVec 29)}
    (h : acc.1.mem.wf = true) : (lids.foldl (offer boundary) acc).1.mem.wf = true := by
  induction lids generalizing acc with
  | nil => exact h
  | cons lid r ih => exact ih (wf_offer boundary acc h lid)
@[simp] theorem wf_sliceBoundaryBody {s : State} (h : s.mem.wf = true) : Answers MemWf (sliceBoundaryBody s) := by
  rw [sliceBoundaryBody, answers_some]
  exact wf_offerAll true _ (by simp [h])
@[simp] theorem wf_budgetExhaustionBody {s : State} (h : s.mem.wf = true) (tenant : Nat) :
    Answers MemWf (budgetExhaustionBody tenant s) := by
  simp [budgetExhaustionBody, h]
@[simp] theorem wf_installLaunch {s : State} (h : s.mem.wf = true) (l : Launch) (hdr code : List Byte)
    (ls : List Level) (ths : List Thread) (args : List Byte) :
    (installLaunch l hdr code ls ths args s).mem.wf = true := by
  rw [installLaunch, mem_modLaunch]
  exact wf_foldl (fun _ t hs => wf_loadArgs hs args t) _ (by simp [h])
@[simp] theorem wf_placeFresh {s : State} (h : s.mem.wf = true) (l : Launch) : Answers MemWf (placeFresh l s) := by
  have hr := wf_rotateStep h l (fun _ => true)
  unfold placeFresh
  split
  · simp
  split
  · simp [h]
  split
  · simp [h]
  · simp [h]
  · simp
  · split
    · rw [answers_some]
      split
      case h_1 s1 hs => exact hr s1 hs
      · exact wf_installLaunch h ..
    · simp [h]
@[simp] theorem wf_placementBody {s : State} (h : s.mem.wf = true) (lid : Nat) :
    Answers MemWf (placementBody lid s) := by
  unfold placementBody
  refine Answers.of_rest fun l => ?_
  split
  · rw [answers_some]
    exact wf_offer false (s, []) h l.lid
  · simp [h]
  · simp
@[simp] theorem mem_releaseTile (l : Launch) (t : Nat) (s : State) : (releaseTile l t s).mem = s.mem := by
  simp [releaseTile]
@[simp] theorem wf_launchReleaseBody {s : State} (h : s.mem.wf = true) (lid t : Nat) :
    Answers MemWf (launchReleaseBody lid t s) := by
  simp [launchReleaseBody, h]
@[simp] theorem wf_launchCompletionBody {s : State} (h : s.mem.wf = true) (lid : Nat) :
    Answers MemWf (launchCompletionBody lid s) := by
  simp [launchCompletionBody, h]
@[simp] theorem wf_launchAbortBody {s : State} (h : s.mem.wf = true) (lid : Nat) :
    Answers MemWf (launchAbortBody lid s) := by
  simp [launchAbortBody, h]
@[simp] theorem wf_meterFlushBody {s : State} (h : s.mem.wf = true) (t : Nat) :
    Answers MemWf (meterFlushBody t s) := by
  simp [meterFlushBody, h]
@[simp] theorem wf_metrSampleBody {s : State} (h : s.mem.wf = true) (n : Nat) :
    Answers MemWf (metrSampleBody n s) := by
  simp [metrSampleBody, h]
@[simp] theorem wf_tenantDeletionBody {s : State} (h : s.mem.wf = true) (tenant : Nat) :
    Answers MemWf (tenantDeletionBody tenant s) := by
  simp [tenantDeletionBody, h]

/-! ### Machine/Save.lean -/

@[simp] theorem mem_tileSaved (l : Launch) (t ix : Nat) (s : State) : (tileSaved l t ix s).mem = s.mem := by
  simp [tileSaved]
@[simp] theorem wf_portWriteSpan {s : State} (h : s.mem.wf = true) (die tenant : Nat) (ds : List DWord) (va : Nat) :
    (portWriteSpan die tenant ds va s).1.mem.wf = true := by
  fun_induction portWriteSpan die tenant ds va s <;> simp_all +zetaDelta
@[simp] theorem wf_tileSaveBody {s : State} (h : s.mem.wf = true) (t : Nat) : Answers MemWf (tileSaveBody t s) := by
  unfold tileSaveBody
  refine Answers.of_rest fun x => ?_
  refine Answers.of_rest fun l => ?_
  split
  · simp
  split
  · simp [h]
  split
  · simp
  split
  · simp [h]
  · dsimp only
    split <;> simp [h]
@[simp] theorem wf_saveCompleteBody {s : State} (h : s.mem.wf = true) (lid : Nat) :
    Answers MemWf (saveCompleteBody lid s) := by
  simp [saveCompleteBody, h]
@[simp] theorem mem_restoreChannel (t : Nat) (im : Image) (k : Nat) (s : State) (c : Nat) :
    (restoreChannel t im k s c).mem = s.mem := by
  unfold restoreChannel
  dsimp only
  split
  all_goals simp
  all_goals split <;> simp
@[simp] theorem wf_restoreGranules {s : State} (h : s.mem.wf = true) (t : Nat) (gen : BitVec 12) (gs : List Nat)
    (bs : List Byte) :
    (restoreGranules t gen gs bs s).mem.wf = true := by
  induction gs generalizing bs s with
  | nil => exact h
  | cons g r ih => exact ih (by simpa using wf_writeBytes h _ _) _
@[simp] theorem wf_restoreTile {s : State} (h : s.mem.wf = true) (ks : List (Nat × Nat)) (l : Launch)
    (combs : List (BitVec 4)) (ix t : Nat) (im : Image) :
    (restoreTile ks l combs ix t im s).mem.wf = true := by
  unfold restoreTile
  extract_lets s1 gen s2 tl aw cmds kp half tl1 s3 s4
  have h2 : s2.mem.wf = true := wf_restoreGranules (by simpa [s1] using h) t gen _ _
  have h4 : s4.mem = s2.mem := by
    cases hk : kp <;> simp [s4, hk, s3]
  simp [h4, h2]
@[simp] theorem wf_restoreTiles {s : State} (h : s.mem.wf = true) (ks : List (Nat × Nat)) (l : Launch)
    (combs : List (BitVec 4)) (ix : Nat) (ts : List Nat) (ims : List Image) :
    (restoreTiles ks l combs ix ts ims s).mem.wf = true := by
  fun_induction restoreTiles ks l combs ix ts ims s <;> simp_all
@[simp] theorem wf_resumeLaunch {s : State} (h : s.mem.wf = true) (l : Launch) (ks : List (Nat × Nat))
    (ims : List Image) :
    (resumeLaunch l ks ims s).mem.wf = true := by
  simp [resumeLaunch, h]
@[simp] theorem mem_plantBays (l : Launch) (s : State) : (plantBays l s).mem = s.mem := by simp [plantBays]
@[simp] theorem wf_resumptionBody {s : State} (h : s.mem.wf = true) (lid : Nat) :
    Answers MemWf (resumptionBody lid s) := by
  unfold resumptionBody
  refine Answers.of_rest fun l => ?_
  split
  · simp
  split
  · simp [h]
  split
  case h_1 s1 hs => simpa using wf_rotateStep h l (resumeFits l) s1 hs
  · split
    · simp [h]
    · split
      · simp [h]
      · simp
      · simp [h]
      · have hm := mem_repointFit l l.levels l.threads s
        cases hx : repointFit l l.levels l.threads s with
        | error e => simp [Except.toOption]
        | ok r => simpa [Except.toOption] using wf_resumeLaunch (by rw [hm r hx, h]) l r.2 _

/-! ### Machine/Fabric.lean -/

@[simp] theorem mem_loseRequests (x : Loss) (s : State) : (loseRequests x s).mem = s.mem := by simp [loseRequests]
@[simp] theorem mem_loseCopies (x : Loss) (s : State) : (loseCopies x s).mem = s.mem := by
  refine mem_foldl (fun s t => ?_) _ s
  dsimp only
  rw [mem_foldl (by simp), mem_modTile]
  split
  · split <;> simp
  · rfl
@[simp] theorem mem_loseStreams (x : Loss) (s : State) : (loseStreams x s).mem = s.mem := by rfl
@[simp] theorem mem_loseRanks (lost : Nat → Bool) (s : State) : (loseRanks lost s).mem = s.mem := by rfl
@[simp] theorem mem_trimRanks (s : State) : (trimRanks s).mem = s.mem := by rfl
@[simp] theorem mem_loseJoins (keys : List Nat) (s : State) : (loseJoins keys s).mem = s.mem := by rfl
@[simp] theorem mem_suffer (x : Loss) (ranks : Nat → Bool) (s : State) : (suffer x ranks s).mem = s.mem := by
  simp [suffer]
@[simp] theorem mem_modCrossing (die e : Nat) (f : LinkStat → LinkStat) (s : State) :
    (modCrossing die e f s).mem = s.mem := by
  unfold modCrossing
  split <;> simp
@[simp] theorem mem_resetWhere (p : Nat → Bool) (s : State) : (State.resetWhere p s).mem = s.mem := by
  simp [State.resetWhere]
@[simp] theorem mem_handDrains (die : Nat) (s : State) : (handDrains die s).mem = s.mem := by simp [handDrains]
@[simp] theorem mem_dropFar (die : Nat) (s : State) : (dropFar die s).mem = s.mem := by rfl
@[simp] theorem mem_clearDieWork (die : Nat) (s0 : State) : (clearDieWork die s0).mem = s0.mem := by
  simp [clearDieWork]
@[simp] theorem mem_loseDie (d : Nat) (s : State) : (loseDie d s).mem = s.mem := by simp [loseDie]
@[simp] theorem mem_loseCrossing (die e : Nat) (s : State) : (loseCrossing die e s).mem = s.mem := by
  unfold loseCrossing
  split <;> simp
@[simp] theorem mem_loseModule (m : Nat) (s : State) : (loseModule m s).mem = s.mem := by simp [loseModule]
@[simp] theorem mem_loseSpline (p : Nat) (s : State) : (loseSpline p s).mem = s.mem := by simp [loseSpline]
@[simp] theorem wf_targetLossBody {s : State} (h : s.mem.wf = true) (x : LostTarget) :
    Answers MemWf (targetLossBody x s) := by
  unfold targetLossBody
  split <;> simp [h]
@[simp] theorem mem_loadBayMap (die : Nat) (s : State) : (loadBayMap die s).mem = s.mem := by simp [loadBayMap]
@[simp] theorem wf_dieResetBody {s : State} (h : s.mem.wf = true) (die : Nat) :
    Answers MemWf (dieResetBody die s) := by
  simp [dieResetBody, h]
@[simp] theorem wf_resetTiles {s : State} (h : s.mem.wf = true) (bays : List Nat) :
    (resetTiles bays s).mem.wf = true := by
  rw [resetTiles, mem_foldl (by simp)]
  exact wf_filter h _
@[simp] theorem mem_loseInBays (bays : List Nat) (s : State) : (loseInBays bays s).mem = s.mem := by simp [loseInBays]
@[simp] theorem wf_partitionResetBody {s : State} (h : s.mem.wf = true) (tenant : Nat) :
    Answers MemWf (partitionResetBody tenant s) := by
  have ha := wf_foldl (fun _ l hs => wf_abortLaunch hs l 0x46) (holders s (s.getTenant tenant).part) h
  simp [partitionResetBody, ha]
@[simp] theorem wf_flrRecord {s : State} (h : s.mem.wf = true) (l : Launch) : (flrRecord l s).mem.wf = true := by
  unfold flrRecord
  repeat' split
  all_goals simp [h]
@[simp] theorem wf_functionResetBody {s : State} (h : s.mem.wf = true) (vf : Nat) :
    Answers MemWf (functionResetBody vf s) := by
  rw [functionResetBody, answers_some]
  exact wf_foldl (fun _ l hs => wf_flrRecord hs l) _ h
@[simp] theorem wf_crossingCalibrationBody {s : State} (h : s.mem.wf = true) (die e : Nat) (ok : Bool) :
    Answers MemWf (crossingCalibrationBody die e ok s) := by
  simp [crossingCalibrationBody, h]
@[simp] theorem wf_splineExchangeBody {s : State} (h : s.mem.wf = true) (p t1 t2 t3 t4 : Nat) (offset : BitVec 6) :
    Answers MemWf (splineExchangeBody p t1 t2 t3 t4 offset s) := by
  simp [splineExchangeBody, h]
@[simp] theorem mem_startRetirement (bay : Nat) (s : State) : (startRetirement bay s).mem = s.mem := by
  simp [startRetirement]
@[simp] theorem mem_retireBay (bay : Nat) (s : State) : (retireBay bay s).mem = s.mem := by simp [retireBay]
@[simp] theorem wf_bayRetirementBody {s : State} (h : s.mem.wf = true) (bay : Nat) :
    Answers MemWf (bayRetirementBody bay s) := by
  unfold bayRetirementBody
  repeat' split
  all_goals simp [h]
@[simp] theorem wf_packetWrite {s : State} (h : s.mem.wf = true) (tenant : Nat) (va : VA) (bs : List Byte) :
    (packetWrite tenant va bs s).mem.wf = true := by
  unfold packetWrite
  dsimp only
  split
  · split
    case h_1 hs => exact spWrite_wf h hs
    · exact h
  · exact h
@[simp] theorem wf_packetWrites {s : State} (h : s.mem.wf = true) (tenant n : Nat) (va : VA) (bs : List Byte) :
    (packetWrites tenant n va bs s).mem.wf = true := by
  fun_induction packetWrites tenant n va bs s <;> simp_all
@[simp] theorem wf_takePacket {s : State} (h : s.mem.wf = true) (c : Conn) (p : Packet) :
    (takePacket c p s).2.mem.wf = true := by
  simp [takePacket, h]
@[simp] theorem wf_packetBody {s : State} (h : s.mem.wf = true) (p : Packet) : Answers MemWf (packetBody p s) := by
  unfold packetBody
  extract_lets s0
  have h0 : s0.mem.wf = true := by
    dsimp only [s0]
    split <;> exact h
  simp [h0]
@[simp] theorem wf_rdmaPacketBody {s : State} (h : s.mem.wf = true) (x : RdmaIn) :
    Answers MemWf (rdmaPacketBody x s) := by
  unfold rdmaPacketBody
  split <;> simp [h]
@[simp] theorem wf_rdmaFlagWriteBody {s : State} (h : s.mem.wf = true) (n : Nat) :
    Answers MemWf (rdmaFlagWriteBody n s) := by
  simp [rdmaFlagWriteBody, h]
@[simp] theorem wf_connectionMissBody {s : State} (h : s.mem.wf = true) (n : Nat) :
    Answers MemWf (connectionMissBody n s) := by
  simp [connectionMissBody, h]

/-! ### Machine/Boot.lean -/

@[simp] theorem mem_extendMeas (i : Nat) (m : List Byte) (s : State) : (extendMeas i m s).mem = s.mem := by rfl
@[simp] theorem wf_measExtendBody {s : State} (h : s.mem.wf = true) (i : Nat) (m : BitVec 256) :
    Answers MemWf (measExtendBody i m s) := by
  simp [measExtendBody, h]
@[simp] theorem mem_setStage (n : Nat) (s : State) : (setStage n s).mem = s.mem := by rfl
@[simp] theorem mem_setErr (n : Nat) (s : State) : (setErr n s).mem = s.mem := by rfl
theorem mem_takeImage (i : Nat) (s : State) : Oks (fun u => u.mem = s.mem) (takeImage i s) := by
  unfold takeImage
  split
  · simp
  · dsimp only
    split <;> simp
theorem mem_crossingCalibration (die e : Nat) (ok : Bool) (s : State) :
    ((crossingCalibrationBody die e ok s).getD s).mem = s.mem := by
  unfold crossingCalibrationBody
  cases dieBeyond die e with
  | none => rfl
  | some b =>
    simp only [Option.bind_eq_bind, Option.bind_some]
    split <;> simp
@[simp] theorem mem_calibrateAll (s : State) : (calibrateAll s).mem = s.mem :=
  mem_foldl (fun s d => mem_foldl (fun s e => mem_crossingCalibration d e true s) _ s) _ s
@[simp] theorem mem_alignSplines (s : State) : (alignSplines s).mem = s.mem := by rfl
theorem mem_dieReset (die : Nat) (s : State) : ((dieResetBody die s).getD s).mem = s.mem := by simp [dieResetBody]
@[simp] theorem mem_bringUp (s : State) : (bringUp s).mem = s.mem := by
  unfold bringUp
  simp [mem_foldl fun s d => mem_dieReset d s]
@[simp] theorem wf_hubCleared {s : State} (h : s.mem.wf = true) : (hubCleared s).mem.wf = true := by
  simp [hubCleared, h]
@[simp] theorem mem_deriveKeys (s : State) : (deriveKeys s).mem = s.mem := by rfl
/-- The state that the boot goes on with, or fails in. -/
def bootLeft : Except (Nat × State) State → State
  | .ok s => s
  | .error e => e.2
@[simp] theorem bootLeft_ok (s : State) : bootLeft (.ok s) = s := rfl
@[simp] theorem bootLeft_error (e : Nat × State) : bootLeft (.error e) = e.2 := rfl
theorem mem_bootFirst (s : State) : (bootLeft (bootFirst s)).mem = s.mem := by
  unfold bootFirst
  split
  · rfl
  split
  · rfl
  have ht := mem_takeImage 0 (setStage 1 s)
  split
  · simp
  case h_2 s1 h1 => simpa using ht s1 h1
/-- One stage of the boot: the next image is taken, unless the boot has failed. -/
def bootNext (acc : Except (Nat × State) State) (i : Nat) : Except (Nat × State) State :=
  match acc with
  | .ok s => (match takeImage i s with | .ok s' => .ok s' | .error c => .error (c, s))
  | e => e
theorem bootStages_eq_foldl (s : State) : bootStages s = [1, 2, 3].foldl bootNext (.ok s) := rfl
@[simp] theorem mem_bootNext (acc : Except (Nat × State) State) (i : Nat) :
    (bootLeft (bootNext acc i)).mem = (bootLeft acc).mem := by
  cases acc with
  | error e => rfl
  | ok s =>
    have ht := mem_takeImage i s
    unfold bootNext
    dsimp only
    split
    case h_1 s' hs => exact ht s' hs
    · rfl
theorem mem_bootStages (s : State) : (bootLeft (bootStages s)).mem = s.mem := by
  simp [bootStages_eq_foldl]
@[simp] theorem mem_boot (s : State) : (boot s).mem = s.mem := by
  have hf := mem_bootFirst s
  unfold boot
  split
  case h_1 c s1 h1 => simpa [h1] using hf
  case h_2 s1 h1 =>
    have hs : (bootLeft (bootStages s1)).mem = s.mem := by
      rw [mem_bootStages]
      simpa [h1] using hf
    split
    case h_1 c s2 h2 => simpa [h2] using hs
    case h_2 s2 h2 =>
      rw [h2, bootLeft_ok] at hs
      dsimp only
      split <;> simpa using hs
@[simp] theorem wf_hubResetBody {s : State} (h : s.mem.wf = true) : Answers MemWf (hubResetBody s) := by
  simp [hubResetBody, h]
@[simp] theorem wf_meteringSnapshotBody {s : State} (h : s.mem.wf = true) (tenant : Nat) (nonce : BitVec 256) :
    Answers MemWf (meteringSnapshotBody tenant nonce s) := by
  simp [meteringSnapshotBody, h]
@[simp] theorem wf_answer {s : State} (h : s.mem.wf = true) (o : Out) : Answers MemWf (answer o s) := by
  simp [answer, h]

/-! ### Machine/Scalar.lean -/

@[simp] theorem mem_setA (s : State) (r : DWord) : (setA s r).mem = s.mem := by rfl
@[simp] theorem wf_faluBody {s : State} (h : s.mem.wf = true) (g : Fmt → Nat → Nat → Nat) (o : SOp) :
    Ends MemWf MemWf (faluBody g o s) := by
  simp [faluBody, h]
@[simp] theorem wf_fmaBody {s : State} (h : s.mem.wf = true) (o : SOp) : Ends MemWf MemWf (fmaBody o s) := by
  simp [fmaBody, h]
@[simp] theorem wf_fcmpBody {s : State} (h : s.mem.wf = true) (o : SOp) : Ends MemWf MemWf (fcmpBody o s) := by
  simp [fcmpBody, h]
@[simp] theorem wf_inPlaceA {s : State} (h : s.mem.wf = true) (o : SOp) (g : DWord → DWord) :
    Ends MemWf MemWf (inPlaceA o g s) := by
  simp [inPlaceA, h]

/-! ### Machine/VectorOps.lean -/

@[simp] theorem mem_setV (s : State) (v : Vector Word 8) : (setV s v).mem = s.mem := by rfl
@[simp] theorem wf_valuBody {s : State} (h : s.mem.wf = true) (g : Word → Word → Word) (o : SOp) :
    Ends MemWf MemWf (valuBody g o s) := by
  simp [valuBody, h]
@[simp] theorem wf_vmacBody {s : State} (h : s.mem.wf = true) (o : SOp) : Ends MemWf MemWf (vmacBody o s) := by
  simp [vmacBody, h]
@[simp] theorem wf_vselBody {s : State} (h : s.mem.wf = true) (o : SOp) : Ends MemWf MemWf (vselBody o s) := by
  simp [vselBody, h]
@[simp] theorem wf_vfpuBody {s : State} (h : s.mem.wf = true) (g : Nat → Nat → Nat) (o : SOp) :
    Ends MemWf MemWf (vfpuBody g o s) := by
  simp [vfpuBody, h]
@[simp] theorem wf_vfmaBody {s : State} (h : s.mem.wf = true) (o : SOp) : Ends MemWf MemWf (vfmaBody o s) := by
  simp [vfmaBody, h]
@[simp] theorem wf_inPlaceV {s : State} (h : s.mem.wf = true) (o : SOp) (g : Word → Nat) :
    Ends MemWf MemWf (inPlaceV o g s) := by
  simp [inPlaceV, h]
@[simp] theorem wf_vldBody {s : State} (h : s.mem.wf = true) (o : SOp) : Ends MemWf MemWf (vldBody o s) := by
  simp [vldBody, h]
@[simp] theorem wf_vstBody {s : State} (h : s.mem.wf = true) (o : SOp) : Ends MemWf MemWf (vstBody o s) := by
  simp [vstBody, h]
@[simp] theorem wf_vpermBody {s : State} (h : s.mem.wf = true) (o : SOp) : Ends MemWf MemWf (vpermBody o s) := by
  simp [vpermBody, h]
@[simp] theorem mem_vmaskBody (c : BitVec 3) (s : State) : (vmaskBody c s).mem = s.mem := by simp [vmaskBody]

/-! ### Machine/Words.lean: words, jumps and events -/

theorem goes_finish {s : State} (h : s.mem.wf = true) {adv : State → State} (ha : ∀ t, (adv t).mem = t.mem) {b : Body}
    (hb : Ends MemWf MemWf b) :
    Goes MemWf (finish s adv b) := by
  unfold finish
  split <;> simp_all
/-- A word keeps memory canonical where what it does, and what follows at its PC, does. -/
theorem goes_runWord {s : State} (h : s.mem.wf = true) {i : Instr} {u : Uses} {adv : State → State}
    (ha : ∀ t, (adv t).mem = t.mem) {body : State → Body} (hb : Ends MemWf MemWf (body s)) :
    Goes MemWf (runWord i u s adv body) := by
  unfold runWord
  split
  · refine goes_finish h ha ?_
    exact (ends_await MemWf _ _).guard fun _ => hb
  · simp [h]
theorem goes_word {s : State} (h : s.mem.wf = true) {i : Instr} {u : Uses} {body : State → Body}
    (hb : Ends MemWf MemWf (body s)) :
    Goes MemWf (word i u s body) :=
  goes_runWord h (mem_advance false) hb
/-- A word that sets the PC itself. -/
theorem goes_jump {s : State} (h : s.mem.wf = true) {i : Instr} {u : Uses} {body : State → Body}
    (hb : Ends MemWf MemWf (body s)) :
    Goes MemWf (runWord i u s id body) :=
  goes_runWord h (fun _ => rfl) hb
theorem goes_event {s : State} (h : s.mem.wf = true) {ok : Bool} {body : State → Option State}
    (hb : Answers MemWf (body s)) :
    Goes MemWf (event ok s body) := by
  unfold event
  split
  · rw [goes_next]
    exact hb.getD h
  · simp
theorem goes_execB {s : State} (h : s.mem.wf = true) (cond : BitVec 4) (off : BitVec 22) :
    Goes MemWf (execB cond off s) := by
  unfold execB
  split
  · exact goes_jump h (by simp [h])
  · exact goes_word h (by simp [h])
theorem goes_execXimm {s : State} (h : s.mem.wf = true) (hi : BitVec 26) (op : PairOp) (lo : BitVec 16) :
    Goes MemWf (execXimm hi op lo s) := by
  refine goes_runWord h (mem_advance true) ?_
  refine (ends_pairPlace _ _).guard fun _ => ?_
  cases op <;> simp [h]
theorem encode_ximm_ne_nil (hi : BitVec 26) (op : PairOp) (lo : BitVec 16) : encode (.ximm hi op lo) ≠ [] := by
  cases op <;> simp [encode]
theorem isEvent_iff (i : Instr) : isEvent i = true ↔ encode i = [] := by simp [isEvent]
/-- An event changes nothing as a word: every other form has an encoding. -/
theorem execWord_of_isEvent {i : Instr} (he : isEvent i = true) (s : State) : execWord i s = .next s := by
  rw [isEvent_iff] at he
  cases i
  case ximm hi op lo => exact absurd he (encode_ximm_ne_nil hi op lo)
  all_goals simp [encode, encS, encI, encC, encE, encB, encY] at he
  all_goals rfl
/-- Every form of the opcode table is a word or a jump, but `B`, which is one or the other, and the pair. -/
theorem goes_execWord {s : State} (h : s.mem.wf = true) (i : Instr) : Goes MemWf (execWord i s) := by
  cases he : isEvent i
  case true => simpa [execWord_of_isEvent he] using h
  case false =>
    cases i
    case b cond off => exact goes_execB h cond off
    case ximm hi op lo => exact goes_execXimm h hi op lo
    case j | call | ret | ja | calla | rpt | rptA | hret | eret | exit | halt =>
      dsimp only [execWord]
      exact goes_jump h (by simp [h])
    all_goals simp [isEvent, encode] at he
    all_goals dsimp only [execWord]
    all_goals exact goes_word h (by simp [h])

/-! ### Machine/Issue.lean -/

@[simp] theorem mem_markLatency (i : Instr) (s s' : State) : (markLatency i s s').mem = s'.mem := by
  unfold markLatency
  dsimp only
  split
  · rfl
  · split <;> simp
@[simp] theorem mem_correctReads (i : Instr) (s s' : State) : (correctReads i s s').mem = s'.mem := by
  simp [correctReads]
@[simp] theorem mem_afterIssue (i : Instr) (w : Word) (s s' : State) : (afterIssue i w s s').mem = s'.mem := by
  unfold afterIssue
  extract_lets s1 s2
  have h1 : s1.mem = s'.mem := by simp [s1]
  split <;> simp [s2, h1]

@[simp] theorem wf_expire {s : State} (h : s.mem.wf = true) (t k : Nat) : (expire t k s).mem.wf = true := by
  unfold expire
  split
  · cases ha : alignTimeoutBody t k s with
    | some s1 => exact wf_alignTimeoutBody h t k s1 ha
    | none => exact (wf_barrierTimeoutBody h t k).getD h
  · exact h
@[simp] theorem mem_tickTile (s : State) : (tickTile s).mem = s.mem := by rfl
@[simp] theorem mem_turnTo (s : State) (k : Fin 8) : (State.turnTo s k).mem = s.mem := by rfl
@[simp] theorem wf_completeEntered {s : State} (h : s.mem.wf = true) (k : Fin 8) :
    (completeEntered k s).mem.wf = true := by
  unfold completeEntered
  extract_lets s1
  split
  · exact h
  cases decodeWord s1.slot.ir with
  | none => exact h
  | some i =>
    have hx : Goes MemWf (execWord i s1) := goes_execWord (show s1.mem.wf = true from h) i
    dsimp only
    cases hr : execWord i s1 with
    | next s' =>
      have hw : s'.mem.wf = true := hx s' hr
      clear hr hx
      dsimp only
      split
      · exact h
      · split <;> simp [hw]
    | fault f => exact h
    | refused e => exact h
@[simp] theorem wf_takeEvent {s : State} (h : s.mem.wf = true) (k : Fin 8) : (takeEvent k s).mem.wf = true := by
  unfold takeEvent
  split
  · simp [h]
  split
  · exact h
  split
  · split <;> simp [h]
  · exact (wf_preemptionBody h s.tid k).getD h
@[simp] theorem wf_trapEntryBody {s : State} (h : s.mem.wf = true) (t k : Nat) :
    Answers MemWf (trapEntryBody t k s) := by
  simp [trapEntryBody, h]
theorem wf_eachOf {f : Nat → State → State} (hf : ∀ k s, s.mem.wf = true → (f k s).mem.wf = true) (n : Nat)
    {s : State} (h : s.mem.wf = true) :
    (eachOf n f s).mem.wf = true :=
  wf_foldl (fun s k hs => hf k s hs) _ h
@[simp] theorem wf_tick {s : State} (h : s.mem.wf = true) : (tick s).mem.wf = true := by
  unfold tick
  extract_lets s1 s2 s3
  have h1 : s1.mem.wf = true := wf_eachOf (fun k s hs => wf_expire hs s.tid k) 8 h
  have h2 : s2.mem.wf = true := by
    rw [mem_tickTile]
    exact wf_eachOf (fun _ s hs => (wf_handlerDispatchBody hs s.tid).getD hs) 4 h1
  have h3 : s3.mem.wf = true := by simp [s3, h2]
  exact wf_eachOf (fun k s hs => wf_takeEvent (wf_completeEntered hs _) _) 8 h3
@[simp] theorem mem_addWeight (w : Nat) (s : State) : (addWeight w s).mem = s.mem := by rfl
@[simp] theorem wf_weigh {s : State} (h : s.mem.wf = true) (n : Nat) : (weigh n s).mem.wf = true := by
  unfold weigh
  dsimp only
  split
  · split
    case h_1 s1 hs => simpa using wf_planeStartBody h s.tid s1 hs
    · simp [h]
  · simp [h]
@[simp] theorem mem_settle (k : Fin 8) (cls : PClass) (trapped : Bool) (s : State) :
    (settle k cls trapped s).mem = s.mem := by
  rfl
@[simp] theorem mem_markWaits (s : State) : (markWaits s).mem = s.mem := by simp [markWaits]
@[simp] theorem mem_idleCycle (s : State) : (idleCycle s).mem = s.mem := by rfl
@[simp] theorem mem_tickPauses (s : State) : (tickPauses s).mem = s.mem := by rfl
@[simp] theorem mem_endCycle (ready : Fin 8 → Bool) (issued : Option (Fin 8)) (s : State) :
    (endCycle ready issued s).mem = s.mem := by
  rfl
@[simp] theorem mem_unyield (k : Fin 8) (s : State) : (unyield k s).mem = s.mem := by rfl
@[simp] theorem mem_throttledCycle (s : State) : (throttledCycle s).mem = s.mem := by
  simp [throttledCycle]

/-- `P` holds of the state that a turn leaves, where the context can take one. -/
def Try.Leaves (P : State → Prop) : Try → Prop
  | .half s => P s
  | .issue s _ _ _ => P s
  | _ => True
theorem wf_tryNew {s : State} (h : s.mem.wf = true) (i : Instr) (w : Word) (half : Option (Word × Word)) :
    (tryNew i w half s).Leaves MemWf := by
  unfold tryNew
  split
  case h_1 s' hs =>
    have hw : s'.mem.wf = true := goes_execWord h i s' hs
    split
    · trivial
    split
    · trivial
    split
    · simpa [Try.Leaves] using h
    · simpa [Try.Leaves] using hw
  · trivial
  · split <;> trivial
theorem wf_tryWord {s : State} (h : s.mem.wf = true) (k : Fin 8) : (tryWord k s).Leaves MemWf := by
  unfold tryWord
  extract_lets s1 sl
  have h1 : s1.mem.wf = true := by simpa [s1] using h
  split
  · trivial
  split
  · trivial
  split
  · trivial
  split
  · trivial
  split
  · trivial
  split
  · simpa [Try.Leaves] using h1
  · exact wf_tryNew (by simpa using h1) ..
theorem wf_tryIssue {s : State} (h : s.mem.wf = true) (k : Fin 8) : (tryIssue k s).Leaves MemWf := by
  unfold tryIssue
  split
  · trivial
  · exact wf_tryWord h k
theorem wf_chosenTry {s : State} (h : s.mem.wf = true) (c : Option (Fin 8)) : (chosenTry c s).Leaves MemWf := by
  cases c with
  | none => trivial
  | some k => exact wf_tryIssue (by simpa using h) k
theorem goes_runCycle {s : State} (h : s.mem.wf = true) : Goes MemWf (runCycle s).2 := by
  have hc : (chosenTry (choose s) (tickPauses s)).Leaves MemWf :=
    wf_chosenTry (show (tickPauses s).mem.wf = true from h) _
  unfold runCycle
  extract_lets c s1 ready
  split
  · simp [h]
  split
  case h_1 s' _ _ _ ht => 
    have hw : s'.mem.wf = true := by rwa [ht] at hc
    simp [hw]
  case h_2 s' ht =>
    have hw : s'.mem.wf = true := by rwa [ht] at hc
    simp [hw]
  · simp
  · simp [s1, h]
@[simp] theorem mem_endWindows (bay : Nat) (s : State) : (endWindows bay s).mem = s.mem := by
  unfold endWindows
  split
  · refine mem_foldl (fun s k => ?_) _ s
    dsimp only
    split <;> simp
  · rfl
@[simp] theorem mem_nextBayCycle (bay t : Nat) (s : State) : (nextBayCycle bay t s).mem = s.mem := by
  simp [nextBayCycle]
@[simp] theorem mem_takeCycle (s : State) : (takeCycle s).mem = s.mem := by fun_cases takeCycle <;> simp
@[simp] theorem wf_beginCycle {s : State} (h : s.mem.wf = true) : (beginCycle s).mem.wf = true := by
  simp [beginCycle, h]
@[simp] theorem mem_refocus (s0 s : State) : (s0.refocus s).mem = s.mem := mem_focus s s0.tid
@[simp] theorem wf_stookThrottleBody {s : State} (h : s.mem.wf = true) (t : Nat) :
    Answers MemWf (stookThrottleBody t s) := by
  simp [stookThrottleBody, h]
@[simp] theorem wf_stookFillerBody {s : State} (h : s.mem.wf = true) (t : Nat) :
    Answers MemWf (stookFillerBody t s) := by
  unfold stookFillerBody
  extract_lets s0
  have h0 : s0.mem.wf = true := by simp [s0, h]
  split
  · split
    case h_1 s1 hs => simpa using goes_runCycle h0 s1 hs
    · simp
  · simp

/-! ### Machine/Dispatch.lean -/

/-- Every event keeps memory canonical; those that answer a result of their own are the three that go on in parts. -/
theorem goes_exec {s : State} (h : s.mem.wf = true) {i : Instr} (he : isEvent i = true) : Goes MemWf (exec i s) := by
  rw [isEvent_iff] at he
  cases i
  case ximm hi op lo => exact absurd he (encode_ximm_ne_nil hi op lo)
  all_goals simp [encode, encS, encI, encC, encE, encB, encY] at he
  case homeNiAccess n => exact goes_execHomeNiAccess h n
  case copyCompletion t => exact goes_execCopyCompletion h t
  case granaryLoad n => exact goes_execGranaryLoad h n
  all_goals dsimp only [exec]
  all_goals exact goes_event h (by simp [h])

/-! ### Machine/Run.lean -/

@[simp] theorem mem_notePlace (place : Option (Nat × Nat)) (s : State) : (notePlace place s).mem = s.mem := by
  cases place <;> simp [notePlace]
theorem goes_inPlace {s : State} {f : State → Result} (hf : Goes MemWf (f s)) (place : Option (Nat × Nat)) :
    Goes MemWf (inPlace place f s) := by
  unfold inPlace
  split
  case h_1 s' hs => simpa using hf s' hs
  · exact hf
theorem wf_changing {f : State → Option State} {s : State} (hf : Answers MemWf (f s)) :
    Answers MemWf (changing f s) := by
  unfold changing
  split
  case h_1 s' hs =>
    split
    · simp
    · simpa using hf s' hs
  · simp
theorem goes_changed {s : State} {r : Result} (hr : Goes MemWf r) : Answers (Goes MemWf) (changed s r) := by
  cases r with
  | next s' =>
    rw [changed]
    split
    · simp
    · simpa using hr
  | fault f => simp [changed]
  | refused e => simp [changed]

/-- Every one of some pending bodies keeps memory canonical. -/
def Keeps (s : State) (l : List Pending) : Prop := ∀ p ∈ l, Answers MemWf (p.2 s)
@[simp] theorem keeps_nil (s : State) : Keeps s [] := by simp [Keeps]
@[simp] theorem keeps_cons (s : State) (p : Pending) (l : List Pending) :
    Keeps s (p :: l) ↔ Answers MemWf (p.2 s) ∧ Keeps s l := by
  simp [Keeps]
@[simp] theorem keeps_append (s : State) (a b : List Pending) : Keeps s (a ++ b) ↔ Keeps s a ∧ Keeps s b := by
  simp [Keeps, or_imp, forall_and]
@[simp] theorem keeps_flatMap {α : Type} (s : State) (l : List α) (f : α → List Pending) :
    Keeps s (l.flatMap f) ↔ ∀ a ∈ l, Keeps s (f a) := by
  simp only [Keeps, List.mem_flatMap]
  exact ⟨fun h a ha p hp => h p ⟨a, ha, hp⟩, fun h p ⟨a, ha, hp⟩ => h a ha p hp⟩
@[simp] theorem keeps_map {α : Type} (s : State) (l : List α) (f : α → Pending) :
    Keeps s (l.map f) ↔ ∀ a ∈ l, Answers MemWf ((f a).2 s) := by
  simp [Keeps]
@[simp] theorem keeps_mapIdx {α : Type} (s : State) (l : List α) {f : Nat → α → Pending}
    (hf : ∀ n a, Answers MemWf ((f n a).2 s)) :
    Keeps s (l.mapIdx f) := by
  intro p hp
  obtain ⟨n, hn, rfl⟩ := List.mem_mapIdx.1 hp
  exact hf _ _
@[simp] theorem free_nil : free [] = [] := rfl
@[simp] theorem free_cons (f : State → Option State) (l : List (State → Option State)) :
    free (f :: l) = (none, f) :: free l :=
  rfl
@[simp] theorem free_append (a b : List (State → Option State)) : free (a ++ b) = free a ++ free b := List.map_append
@[simp] theorem free_map {α : Type} (l : List α) (f : α → State → Option State) :
    free (l.map f) = l.map fun a => (none, f a) := by
  simp [free]
@[simp] theorem free_upTo (n : Nat) (f : Nat → State → Option State) :
    free (upTo n f) = (List.range n).map fun k => (none, f k) := by
  simp [upTo]
@[simp] theorem free_flatMap {α : Type} (l : List α) (f : α → List (State → Option State)) :
    free (l.flatMap f) = l.flatMap fun a => free (f a) := by
  simp [free, List.map_flatMap]
theorem wf_firstBody {s : State} {l : List Pending} (hl : Keeps s l) : Answers MemWf (firstBody s l) := by
  induction l with
  | nil => simp [firstBody]
  | cons p r ih =>
    obtain ⟨hp, hr⟩ := (keeps_cons s p r).1 hl
    unfold firstBody
    split
    case h_1 s' hs =>
      split at hs
      · simpa using hp s' hs
      · simp at hs
    · exact ih hr
theorem keeps_lineBody {s : State} (h : s.mem.wf = true) : Keeps s (lineBody s) := by
  unfold lineBody
  split <;> simp [h]
theorem keeps_niBodies {s : State} (h : s.mem.wf = true) : Keeps s (niBodies s) := by simp [niBodies, h]
theorem keeps_flightBodies {s : State} (h : s.mem.wf = true) : Keeps s (flightBodies s) := by simp [flightBodies, h]
theorem keeps_joinerBodies {s : State} (h : s.mem.wf = true) : Keeps s (joinerBodies s) := by simp [joinerBodies, h]
theorem keeps_tileBodies {s : State} (h : s.mem.wf = true) : Keeps s (tileBodies s) := by simp [tileBodies, h]
theorem keeps_hubBodies {s : State} (h : s.mem.wf = true) : Keeps s (hubBodies s) := by
  simp [hubBodies, recordBodies, h, wf_changing]
theorem goes_progress {s : State} (h : s.mem.wf = true) : Answers (Goes MemWf) (progress s) := by
  unfold progress
  split
  case h_1 s' hs =>
    have hk : Keeps s (lineBody s ++ (niBodies s ++ flightBodies s ++ joinerBodies s ++ tileBodies s)) := by
      simp [keeps_lineBody h, keeps_niBodies h, keeps_flightBodies h, keeps_joinerBodies h, keeps_tileBodies h]
    simpa using wf_firstBody hk s' hs
  split
  · rw [answers_some]
    exact goes_inPlace (goes_execHomeNiAccess h _) _
  split
  case h_1 r hr =>
    rw [answers_some]
    split at hr
    · exact goes_changed (goes_inPlace (goes_execCopyCompletion h _) _) r hr
    · simp at hr
  split
  case h_1 r hr =>
    rw [answers_some]
    obtain ⟨n, _, hn⟩ := List.exists_of_findSome?_eq_some hr
    exact goes_changed (goes_execGranaryLoad h n) r hn
  · rw [answers_map]
    exact fun s' hs => by simpa using wf_firstBody (keeps_hubBodies h) s' hs
theorem goes_tileCycle {s : State} (h : s.mem.wf = true) : Goes MemWf (tileCycle s) := goes_runCycle (wf_beginCycle h)
@[simp] theorem mem_meterCircuits (die n : Nat) (s : State) : (meterCircuits die n s).mem = s.mem := by
  simp [meterCircuits]
@[simp] theorem mem_meterService (die n : Nat) (s : State) : (meterService die n s).mem = s.mem := by
  simp [meterService]
@[simp] theorem mem_chargeBays (n : Nat) (s : State) : (chargeBays n s).mem = s.mem := by
  refine mem_foldl (fun s kb => ?_) _ s
  split <;> simp
@[simp] theorem wf_spinWheel {s : State} (h : s.mem.wf = true) (die n : Nat) : (spinWheel die n s).mem.wf = true := by
  simp [spinWheel, h]
@[simp] theorem mem_newHubCycle (hub : Nat) (s : State) : (newHubCycle hub s).mem = s.mem := by simp [newHubCycle]
@[simp] theorem wf_passTime {s : State} (h : s.mem.wf = true) (die fabric hub : Nat) :
    (passTime die fabric hub s).mem.wf = true := by
  simp [passTime, h]
@[simp] theorem wf_onTime {s : State} (h : s.mem.wf = true) (die : Nat) : (onTime die s).mem.wf = true := by
  unfold onTime
  extract_lets s1
  have h1 : s1.mem.wf = true := by
    dsimp only [s1]
    split
    · exact (wf_powerControlBody h die).getD h
    · exact h
  split
  · exact (wf_sliceBoundaryBody h1).getD h1
  · exact h1
theorem goes_runTurn {s : State} (h : s.mem.wf = true) (t : Turn) : Goes MemWf (runTurn t s) := by
  cases t with
  | issue t =>
    rw [runTurn]
    split
    · exact goes_tileCycle (by simpa using h)
    · simp
  | act e =>
    rw [runTurn]
    split
    case isTrue he => exact goes_inPlace (goes_exec h he) _
    · simp [h]
  | time die fabric hub => simp [runTurn, h]
theorem goes_betweenTurns {s : State} (h : s.mem.wf = true) : Goes MemWf (betweenTurns s) := by
  have hp : Goes MemWf ((progress s).getD (.next s)) := (goes_progress h).getD (by simp [h])
  unfold betweenTurns
  split
  case h_1 s' hs =>
    rw [hs, goes_next, memWf_iff] at hp
    simp [hp]
  · exact hp
theorem goes_freeTurn {s : State} (h : s.mem.wf = true) : Goes MemWf (freeTurn s) := by
  have hc := goes_runCycle (wf_beginCycle h)
  unfold freeTurn
  split
  · exact goes_betweenTurns h
  generalize runCycle (beginCycle s) = x at hc
  obtain ⟨acted, r⟩ := x
  cases r with
  | next s' =>
    cases acted
    · exact goes_betweenTurns (by simpa using hc)
    · simpa using hc
  | fault f => simp
  | refused e => simp
theorem goes_step {s : State} (h : s.mem.wf = true) : Goes MemWf (step s) := by
  rw [step]
  unfold runStep
  split
  · exact goes_freeTurn h
  split
  · exact goes_tileCycle (by simpa using h)
  · exact goes_runTurn (by simpa using h) _

/-- Settles O18: a step is a tile cycle, a listed turn or what comes between two turns, and each of these keeps memory
canonical, since all that writes memory does so byte by byte through `writeByte` or drops whole bytes by a filter. -/
theorem stepKeepsMemory : Obligations.StepKeepsMemory := by
  unfold Obligations.StepKeepsMemory
  exact fun _ t h hs => goes_step h t hs

end Sys2Proof.Machine

/-! SUPPORT. What an instruction of a context leaves of the module (`within_f` says it of `f`); with this, O23. -/

namespace Sys2Proof.Machine
open Sys2Proof.Claims

/-! ### What an instruction may change -/

/-- Memory has changed in the scratchpad of a tile alone, and is in canonical form if it was. -/
def SpadOnly (tile : Nat) (m n : Memory) : Prop :=
  m.wf = true → n.wf = true ∧
    ∀ a, a < spadBase tile ∨ spadBase tile + 32768 ≤ a → readByte n a = readByte m a

theorem SpadOnly.trans {t : Nat} {m n p : Memory} (h : SpadOnly t m n) (k : SpadOnly t n p) :
    SpadOnly t m p := by
  intro hm
  obtain ⟨hn, h1⟩ := h hm
  obtain ⟨hp, h2⟩ := k hn
  exact ⟨hp, fun a ha => (h2 a ha).trans (h1 a ha)⟩
theorem spadOnly_writeSome {t : Nat} (m : Memory) (a : Nat) {bs : List (Option Byte)}
    (ha : a + bs.length ≤ 32768) : SpadOnly t m (writeSome m (spadBase t + a) bs) :=
  fun hm => ⟨wf_writeSome hm _ _, fun c hc => readByte_writeSome_outside hm _ c bs (by omega)⟩

/-- What an instruction of a context leaves of the module: its focus, the other tiles, the bays and the registers of the hub
and the boot stand, memory changes in its own scratchpad alone, and the tables of circuits, links and tags keep their
canonical form. -/
def Within (s t : State) : Prop :=
  (t.tid = s.tid ∧ t.cur = s.cur ∧ t.others = s.others ∧ t.bays = s.bays ∧ t.tenants = s.tenants ∧ t.queues = s.queues ∧
    t.boot = s.boot ∧ t.meas = s.meas ∧ t.wheels = s.wheels ∧ t.wheelOn = s.wheelOn ∧ t.turns = s.turns) ∧
  SpadOnly s.tid s.mem t.mem ∧ (Tabled s → Tabled t) ∧
  (SMap.wfFrom 0xFFF 0 s.tile.tags = true → SMap.wfFrom 0xFFF 0 t.tile.tags = true)

@[simp] theorem within_rfl (s : State) : Within s s :=
  ⟨by simp, fun h => ⟨h, fun _ _ => rfl⟩, id, id⟩
theorem Within.tid_eq {s t : State} (h : Within s t) : t.tid = s.tid := h.1.1
@[simp] theorem within_ite {s0 : State} (c : Prop) [Decidable c] (a b : State) :
    Within s0 (if c then a else b) ↔ if c then Within s0 a else Within s0 b := by
  split <;> rfl


/-! ### Operations that change none of this -/

section
variable (s0 s : State)

@[simp] theorem within_setSlot (x : Slot) : Within s0 (s.setSlot x) ↔ Within s0 s := Iff.rfl
@[simp] theorem within_setBank (b : Bank) : Within s0 (s.setBank b) ↔ Within s0 s := Iff.rfl
@[simp] theorem within_addFault (r : FaultRec) : Within s0 (s.addFault r) ↔ Within s0 s := by
  unfold State.addFault
  repeat' split
  all_goals rfl
@[simp] theorem within_setDie (d : Nat) (x : Die) : Within s0 (s.setDie d x) ↔ Within s0 s := by
  unfold State.setDie
  split <;> rfl
@[simp] theorem within_modDie (d : Nat) (f : Die → Die) : Within s0 (s.modDie d f) ↔ Within s0 s := within_setDie ..
@[simp] theorem within_incC (o : COp) : Within s0 (incC o s) ↔ Within s0 s := by
  unfold incC
  split <;> rfl
@[simp] theorem within_niPush (va : VA) (op : ReqOp) (route : Route) (rel acq : Option (BitVec 3)) (rank : Nat)
    (read write : Bool) :
    Within s0 (niPush s va op route rel acq rank read write) ↔ Within s0 s := Iff.rfl
@[simp] theorem within_niPlain (op : ReqOp) (route : Route) (rank : Nat) :
    Within s0 (niPlain s op route rank) ↔ Within s0 s := Iff.rfl
@[simp] theorem within_setAF (r : DWord × Flags) : Within s0 (setAF s r) ↔ Within s0 s := Iff.rfl
@[simp] theorem within_transfer (t : BitVec 14) : Within s0 (transfer t s) ↔ Within s0 s := Iff.rfl
@[simp] theorem within_niSend (hdr : DWord) (pay : List DWord) (e : RankEntry × Route) :
    Within s0 (niSend s hdr pay e) ↔ Within s0 s := Iff.rfl
@[simp] theorem within_joinEpisode (k : BitVec 4) : Within s0 (joinEpisode k s) ↔ Within s0 s := Iff.rfl
@[simp] theorem within_setEntered (e : Entered) : Within s0 (setEntered e s) ↔ Within s0 s := Iff.rfl
@[simp] theorem within_setTimer (n : Nat) : Within s0 (setTimer n s) ↔ Within s0 s := Iff.rfl
@[simp] theorem within_rankAnswer (r : Int) (ok : Bool) : Within s0 (rankAnswer r ok s) ↔ Within s0 s := Iff.rfl
@[simp] theorem within_incS (o : SOp) : Within s0 (incS o s) ↔ Within s0 s := Iff.rfl
@[simp] theorem within_pendA : Within s0 (pendA s) ↔ Within s0 s := Iff.rfl
@[simp] theorem within_pendV : Within s0 (pendV s) ↔ Within s0 s := Iff.rfl
@[simp] theorem within_pendZ : Within s0 (pendZ s) ↔ Within s0 s := Iff.rfl
@[simp] theorem within_postStore (va : VA) (data : List (Option Byte)) (r : Route × Nat) (rel : Option (BitVec 3)) :
    Within s0 (postStore va data r rel s) ↔ Within s0 s := Iff.rfl
@[simp] theorem within_engineDone (o : EOp) : Within s0 (engineDone o s) ↔ Within s0 s := Iff.rfl
@[simp] theorem within_joinWave (k : BitVec 4) (op : BitVec 2) (num : Nat) :
    Within s0 (joinWave k op num s) ↔ Within s0 s := Iff.rfl
@[simp] theorem within_endThread (t k : Nat) : Within s0 (State.endThread s t k) ↔ Within s0 s := Iff.rfl
@[simp] theorem within_setA (r : DWord) : Within s0 (setA s r) ↔ Within s0 s := Iff.rfl
@[simp] theorem within_setV (v : Vector Word 8) : Within s0 (setV s v) ↔ Within s0 s := Iff.rfl
@[simp] theorem within_clearJoin : Within s0 (clearJoin s) ↔ Within s0 s := Iff.rfl
@[simp] theorem within_setEnteredNo : Within s0 (acquireBody.setEnteredNo s) ↔ Within s0 s := Iff.rfl
@[simp] theorem within_enterAcquire (o : SOp) (t : State) : Within s0 (enterAcquire o t s) ↔ Within s0 s := Iff.rfl

end

section
variable {s0 s : State} (h : Within s0 s)
include h

@[simp] theorem within_setCircuit (key : Nat) (c : Circuit) : Within s0 (s.setCircuit key c) := by
  obtain ⟨hf, hm, ht, hg⟩ := h
  exact ⟨hf, hm, fun h0 => ⟨wfFrom_set c (ht h0).1 (Nat.zero_le _), (ht h0).2⟩, hg⟩
@[simp] theorem within_setLink (t : Nat) (d : BitVec 2) (l : Link) : Within s0 (s.setLink t d l) := by
  obtain ⟨hf, hm, ht, hg⟩ := h
  exact ⟨hf, hm, fun h0 => ⟨(ht h0).1, wfFrom_set l (ht h0).2 (Nat.zero_le _)⟩, hg⟩
/-- The focus tile may change in all but its tags, and in these as long as they stay in canonical form. -/
theorem within_tile {tl : Tile} (ht : SMap.wfFrom 0xFFF 0 s.tile.tags = true → SMap.wfFrom 0xFFF 0 tl.tags = true) :
    Within s0 { s with tile := tl } := by
  obtain ⟨hf, hm, hc, hg⟩ := h
  exact ⟨hf, hm, hc, fun h0 => ht (hg h0)⟩
/-- Memory may change in the scratchpad of the focus tile. -/
theorem within_mem {m : Memory} (hm : SpadOnly s.tid s.mem m) : Within s0 { s with mem := m } := by
  obtain ⟨hf, h0, hc, hg⟩ := h
  exact ⟨hf, h0.trans (hf.1 ▸ hm), hc, hg⟩

end

/-! ### Writes to the context's own scratchpad -/

@[simp] theorem modTile_focus (s : State) (f : Tile → Tile) : s.modTile s.tid f = { s with tile := f s.tile } := by
  simp [State.modTile, State.setTile]

/-- A write of one granule of the focus tile. -/
theorem within_spWrite {s0 s : State} (h : Within s0 s) (g : BitVec 12) {a : Nat} {bs : List (Option Byte)}
    (ha : a < 32768) (hb : a + bs.length ≤ 32768) : Oks (Within s0) (s.spWrite s.tid g a bs) := by
  have hz : 32 * (a / 32) + 32 ≤ 32768 := by omega
  unfold State.spWrite
  dsimp only
  split
  · split
    · exact oks_error _ _
    · rw [oks_ok, modTile_focus (s := { s with mem := _ })]
      exact within_tile (within_mem h (spadOnly_writeSome _ _ hb)) id
  · rw [oks_ok, modTile_focus (s := { s with mem := _ }), writeBytes_eq_writeSome]
    refine within_tile (within_mem h ?_) fun ht => wfFrom_set g ht (Nat.zero_le _)
    exact (spadOnly_writeSome _ _ (by simpa using hz)).trans (spadOnly_writeSome _ _ hb)
  · exact oks_error _ _

/-! ### Updates of the focus tile that leave its tags -/

@[simp] theorem tags_endOwner (tl : Tile) (k : Nat) : (tl.endOwner k).tags = tl.tags := by
  unfold Tile.endOwner
  repeat' split
  all_goals rfl
@[simp] theorem tags_seeBad (tl : Tile) (t : Trap) : (tl.seeBad t).tags = tl.tags := by
  unfold Tile.seeBad
  repeat' split
  all_goals rfl
@[simp] theorem tags_endContext (tl : Tile) (k : Nat) : (tl.endContext k).tags = tl.tags := by simp [Tile.endContext]
@[simp] theorem tags_setTagEntry (tl : Tile) (tag : Nat) (e : TagEntry) : (tl.setTagEntry tag e).tags = tl.tags := by
  unfold Tile.setTagEntry
  split <;> rfl
@[simp] theorem tags_releaseQueue (drop : Bool) (k : Nat) (tl : Tile) : (releaseQueue drop k tl).tags = tl.tags := by
  unfold releaseQueue
  dsimp only
  repeat' split
  all_goals simp
/-- Carrying granules to a new generation keeps the tags in canonical form. -/
theorem tidy_carry (first last : Nat) (old g : BitVec 12) {tl : Tile} (h : SMap.wfFrom 0xFFF 0 tl.tags = true) :
    SMap.wfFrom 0xFFF 0 (carry first last old g tl).tags = true := by
  unfold carry
  induction List.range (last + 1 - first) generalizing tl with
  | nil => exact h
  | cons j r ih =>
    refine ih ?_
    dsimp only
    split
    · exact wfFrom_set g h (Nat.zero_le _)
    · exact h

/-! ### The bytes that a store writes -/

@[simp] theorem length_bytesOf {w : Nat} (k : Nat) (x : BitVec w) : (bytesOf k x).length = k := by
  unfold bytesOf
  generalize x.toNat = n
  induction k generalizing n with
  | zero => rfl
  | succ k ih => simp [bytesOfNat, ih]
theorem sizeOf2_pos (sz : BitVec 2) : 0 < sizeOf2 sz := Nat.two_pow_pos _
theorem length_vstBytes (et : BitVec 2) (m : BitVec 8) (v : Vector Word 8) :
    (vstBytes et m v).length = 8 * elemBytes et := by
  simp [vstBytes, List.range_succ]
  omega
theorem elemBytes_pos (et : BitVec 2) : 0 < elemBytes et := by
  unfold elemBytes
  split <;> decide
theorem length_ptrBytes (p : Vector Ptr 8) : (ptrBytes p).length = 32 := by
  simp [ptrBytes, List.length_flatMap]

theorem within_foldl {α : Type} {s0 : State} {f : State → α → State} (hf : ∀ s a, Within s0 s → Within s0 (f s a))
    (l : List α) {s : State} (h : Within s0 s) : Within s0 (l.foldl f s) := by
  induction l generalizing s with
  | nil => exact h
  | cons a r ih => exact ih (hf s a h)

/-! ## What each instruction does -/

section
variable {s0 s : State} (h : Within s0 s)
include h

/-! ### Machine/Ops.lean -/

@[simp] theorem within_abortHandler : Within s0 (abortHandler s) := within_tile h (by simp)
@[simp] theorem within_seeBad (t : Trap) : Within s0 { s with tile := s.tile.seeBad t } :=
  within_tile h (by simp)
@[simp] theorem within_takeTrap (t : Trap) (pc : BitVec 14) : Within s0 (takeTrap t pc s) := by
  have hs := within_seeBad h t
  have hh (c : Bool) : Within s0 (if c then abortHandler { s with tile := s.tile.seeBad t }
      else { s with tile := s.tile.seeBad t }) := by
    cases c
    · exact hs
    · exact within_abortHandler hs
  unfold takeTrap
  dsimp only
  split
  · exact (within_addFault _ _ _).2 hs
  · exact hh _
@[simp] theorem within_trapHere (t : Trap) : Within s0 (trapHere t s) := within_takeTrap h _ _
@[simp] theorem within_nextAfter (last : BitVec 14) : Within s0 (nextAfter last s) := by
  unfold nextAfter
  split
  · exact within_takeTrap h _ _
  · exact h
@[simp] theorem within_advance (pair : Bool) : Within s0 (advance pair s) := by
  unfold advance
  extract_lets b r
  split
  · exact within_nextAfter h _
  generalize (if pair = true then r.idx + 1 else r.idx) = pos
  split
  · exact h
  split
  · exact within_nextAfter (s := s.setBank _) h _
  · exact h
/-- The issuing context's write of at least one byte. -/
theorem within_cellWrite (ea : Int) (al : Nat) {bs : List (Option Byte)} (hb : bs ≠ []) :
    Ends (Within s0) (Within s0) (cellWrite s ea al bs) := by
  have hn := List.length_pos_iff.2 hb
  unfold cellWrite spAddr
  split
  · simp
  split
  · simp
  · rw [liftT_ok, bind_ok]
    exact (ends_planeGate _ _ _ _ _).guard fun _ => ends_lift (within_spWrite h _ (by omega) (by omega))
theorem within_memWrite (ea : Int) (al : Nat) {bs : List (Option Byte)} (hb : bs ≠ []) :
    Ends (Within s0) (Within s0) (memWrite s ea al bs) :=
  (ends_fenceGate _ _ _ _).guard fun _ => within_cellWrite h ea al hb

/-! ### Machine/Operands.lean -/

@[simp] theorem within_consumeAt (t : Nat) (e : ChanEnd) : Within s0 (s.consumeAt t e) := by
  cases e with
  | circuit die cid => exact within_setCircuit h _ _
  | link d =>
    have hl := within_setLink h t d { s.link t d with buf := (s.link t d).buf.tail }
    unfold State.consumeAt
    dsimp only
    split <;> exact hl
@[simp] theorem within_consume (n : BitVec 2) : Within s0 (consume s n) := by
  unfold consume
  split
  · exact within_consumeAt h _ _
  · exact h
@[simp] theorem within_srcDone (o : SOp) (split : Bool) : Within s0 (srcDone o split s) := by
  simp [srcDone, h]

/-! ### Machine/Integer.lean -/

@[simp] theorem within_aluBody (fn : AluFn) (o : SOp) : Ends (Within s0) (Within s0) (aluBody fn o s) := by
  simp [aluBody, h]
@[simp] theorem within_aluImmBody (fn : AluFn) (x : DWord) : Ends (Within s0) (Within s0) (aluImmBody fn x s) := by
  simp [aluImmBody, h]
@[simp] theorem within_divBody (fn : DivFn) (o : SOp) : Ends (Within s0) (Within s0) (divBody fn o s) := by
  simp [divBody, h]
@[simp] theorem within_bitsBody (g : DWord → DWord) : Ends (Within s0) (Within s0) (bitsBody g s) := by
  simp [bitsBody, h]

/-! ### Machine/LoadStore.lean -/

@[simp] theorem within_loadBody (signed : Bool) (o : SOp) : Ends (Within s0) (Within s0) (loadBody signed o s) := by
  simp [loadBody, h]
@[simp] theorem within_storeBody (o : SOp) : Ends (Within s0) (Within s0) (storeBody o s) := by
  refine (ends_holdW _ o.w s).guard fun _ => ?_
  rw [ends_bind]
  exact (within_memWrite h _ _ (by simp [List.ne_nil_iff_length_pos, sizeOf2_pos])).mono fun t ht =>
    within_srcDone ht o false
@[simp] theorem within_pldBody (o : SOp) : Ends (Within s0) (Within s0) (pldBody o s) := by simp [pldBody, h]
@[simp] theorem within_pstBody (o : SOp) : Ends (Within s0) (Within s0) (pstBody o s) :=
  (ends_holdW _ o.w s).guard fun _ => within_memWrite h _ _ (by simp [List.ne_nil_iff_length_pos, length_ptrBytes])
@[simp] theorem within_ptrBody (o : IOp) (g : Ptr → Ptr) : Ends (Within s0) (Within s0) (ptrBody o g s) := by
  simp [ptrBody, h]
@[simp] theorem within_liBody (x : DWord) : Ends (Within s0) (Within s0) (liBody x s) := by simp [liBody, h]

/-! ### Machine/Control.lean -/

@[simp] theorem within_jumpBody (t : Int) : Ends (Within s0) (Within s0) (jumpBody t s) := by simp [jumpBody, h]
@[simp] theorem within_callBody (t : Int) : Ends (Within s0) (Within s0) (callBody t s) := by simp [callBody, h]
@[simp] theorem within_retBody : Ends (Within s0) (Within s0) (retBody s) := by simp [retBody, h]
@[simp] theorem within_rptBody (len : BitVec 4) (stag : BitVec 3) (count : BitVec 20) :
    Ends (Within s0) (Within s0) (rptBody len stag count s) := by
  simp [rptBody, h]

/-! ### Machine/Queues.lean -/

@[simp] theorem within_sendMessage (hdr : DWord) (pay : List DWord) :
    Ends (Within s0) (Within s0) (sendMessage hdr pay s) := by
  simp [sendMessage, h]

/-! ### Machine/Message.lean -/

@[simp] theorem within_sendBody (o : COp) : Ends (Within s0) (Within s0) (sendBody o s) := by
  refine (ends_payload _ s _ _ _).guard fun pay => ?_
  rw [ends_bind]
  exact (within_sendMessage h _ _).mono fun t ht => (within_incC s0 t o).2 ht
@[simp] theorem within_sendvBody (o : COp) : Ends (Within s0) (Within s0) (sendvBody o s) := by simp [sendvBody, h]
@[simp] theorem within_receiveBody (peek : Bool) (o : COp) : Ends (Within s0) (Within s0) (receiveBody peek o s) := by
  simp [receiveBody, h]
@[simp] theorem within_offerBody (o : COp) : Ends (Within s0) (Within s0) (offerBody o s) := by simp [offerBody, h]
@[simp] theorem within_pullBody (o : COp) : Ends (Within s0) (Within s0) (pullBody o s) := by simp [pullBody, h]
@[simp] theorem within_popHandlerQueue (q : BitVec 2) : Within s0 (popHandlerQueue q s) := within_tile h (by simp)
@[simp] theorem within_passHeld (l : List (DWord × List DWord)) :
    Ends (Within s0) (Within s0) (passHeld l s) := by
  induction l generalizing s with
  | nil => exact h
  | cons m r ih => exact (ends_msgRoute _ _ _).guard fun e => ih (s := niSend s _ _ e) h
@[simp] theorem within_endContext (k : Nat) : Within s0 { s with tile := s.tile.endContext k } :=
  within_tile h (by simp)
@[simp] theorem within_hretBody : Ends (Within s0) (Within s0) (hretBody s) := by
  refine (ends_needHandler _ s).guard fun _ => (ends_await _ _ _).guard fun _ => ?_
  rw [ends_bind]
  exact (within_passHeld h _).mono fun t ht => within_popHandlerQueue (within_endContext ht _) _
@[simp] theorem within_setTagEntry (tag : Nat) (e : TagEntry) : Within s0 { s with tile := s.tile.setTagEntry tag e } :=
  within_tile h (by simp)
@[simp] theorem within_tagsetBody (o : COp) : Ends (Within s0) (Within s0) (tagsetBody o s) := by
  unfold tagsetBody
  extract_lets ok s1
  rw [ends_ok, within_ite]
  split
  · exact within_setTagEntry (s := s.setBank _) h _ _
  · exact h
@[simp] theorem within_tagclrBody (o : COp) : Ends (Within s0) (Within s0) (tagclrBody o s) :=
  within_setTagEntry (s := s.setBank _) h _ _
@[simp] theorem within_chrBody (o : COp) : Ends (Within s0) (Within s0) (chrBody o s) := by
  refine (ends_needThread _ s).guard fun _ => (ends_readSide _ s _).guard fun e => ?_
  split
  · exact within_consume (s := s.setBank _) h _
  · exact h
@[simp] theorem within_spendCredits (t : Nat) (e : ChanEnd) (n : Nat) : Within s0 (s.spendCredits t e n) := by
  cases e with
  | circuit die cid => exact within_setCircuit h _ _
  | link d => exact within_setLink h _ _ _
@[simp] theorem within_chanWrite (n : BitVec 2) (ws : List DWord) : Ends (Within s0) (Within s0) (chanWrite n ws s) := by
  refine (ends_needThread _ s).guard fun _ => (ends_writeSide _ s _).guard fun e => ?_
  exact (ends_await _ _ _).guard fun _ => within_spendCredits h s.tid e ws.length
@[simp] theorem within_releaseLinks : Within s0 (releaseLinks s) := by
  refine within_foldl (fun t d ht => ?_) _ h
  dsimp only
  split
  · exact within_setLink ht _ _ _
  · exact ht
@[simp] theorem within_bindChan (n : BitVec 2) (c : Channel) : Within s0 (bindChan n c s) :=
  within_releaseLinks (s := s.setSlot _) h
@[simp] theorem within_chstBody (o : COp) : Ends (Within s0) (Within s0) (chstBody o s) := by
  refine (ends_needThread _ s).guard fun _ => ?_
  dsimp only
  split <;> simp [h]
theorem within_openJoin (k : BitVec 4) : Ends (Within s0) (fun r => Within s0 r.1) (openJoin k s) := by
  refine (ends_needThread _ s).guard fun _ => (ends_barrierLevel _ k s).guard fun _ => ?_
  split
  · simp [h]
  · exact (ends_joinGate _ s).guard fun _ => h
@[simp] theorem within_barwBody (o : COp) : Ends (Within s0) (Within s0) (barwBody o s) := by
  rw [barwBody, ends_bind]
  refine (within_openJoin h o.lvl).mono fun r hr => ?_
  simp [hr]
@[simp] theorem within_bartBody (o : COp) : Ends (Within s0) (Within s0) (bartBody o s) := by
  rw [bartBody, ends_bind]
  refine (within_openJoin h o.lvl).mono fun r hr => ?_
  simp [hr]
@[simp] theorem within_pauseBody (o : COp) : Ends (Within s0) (Within s0) (pauseBody o s) := by simp [pauseBody, h]
@[simp] theorem within_waitqBody (o : COp) : Ends (Within s0) (Within s0) (waitqBody o s) := by simp [waitqBody, h]
@[simp] theorem within_yieldBody : Ends (Within s0) (Within s0) (yieldBody s) := by simp [yieldBody, h]
@[simp] theorem within_stkhBody (o : COp) : Ends (Within s0) (Within s0) (stkhBody o s) := by
  unfold stkhBody
  split <;> exact h
@[simp] theorem within_alignBody (o : COp) : Ends (Within s0) (Within s0) (alignBody o s) := by
  refine (ends_needThread _ s).guard fun _ => (ends_levelCheck _ _ _ s).guard fun _ => ?_
  split <;> simp [h]
@[simp] theorem within_circBody (o : COp) : Ends (Within s0) (Within s0) (circBody o s) := by simp [circBody, h]
@[simp] theorem within_rankBody (o : COp) : Ends (Within s0) (Within s0) (rankBody o s) := by
  unfold rankBody
  split <;> simp [h]
@[simp] theorem within_treeBody (o : COp) : Ends (Within s0) (Within s0) (treeBody o s) := by simp [treeBody, h]

/-! ### Machine/Remote.lean -/

@[simp] theorem within_rldBody (o : SOp) : Ends (Within s0) (Within s0) (rldBody o s) := by simp [rldBody, h]
@[simp] theorem within_acquireBody {first : State → Except Stop State} (hf : Ends (Within s0) (Within s0) (first s)) :
    Ends (Within s0) (Within s0) (acquireBody first s) := by
  unfold acquireBody
  split
  · split
    · simp
    · split <;> simp [h]
  · simpa using hf
@[simp] theorem within_rldAcqBody (o : SOp) : Ends (Within s0) (Within s0) (rldAcqBody o s) := by simp [rldAcqBody, h]
@[simp] theorem within_rstBody (o : SOp) : Ends (Within s0) (Within s0) (rstBody o s) := by simp [rstBody, h]
@[simp] theorem within_rstRelBody (o : SOp) : Ends (Within s0) (Within s0) (rstRelBody o s) := by simp [rstRelBody, h]
@[simp] theorem within_rldvBody (o : SOp) : Ends (Within s0) (Within s0) (rldvBody o s) := by simp [rldvBody, h]
@[simp] theorem within_rstvBody (o : SOp) : Ends (Within s0) (Within s0) (rstvBody o s) := by simp [rstvBody, h]
@[simp] theorem within_amoLocal (fn : AmoFn) (o : SOp) : Ends (Within s0) (Within s0) (amoLocal fn o s) := by
  refine (ends_holdW _ o.w s).guard fun _ => (ends_fenceGate _ true true s).guard fun _ => ?_
  unfold spAddr
  split
  · simp
  split
  · simp
  rw [liftT_ok, bind_ok]
  refine (ends_planeGate _ _ _ _ s).guard fun _ => (ends_liftT _ _).guard fun bs => ?_
  have hn := sizeOf2_pos o.sz
  dsimp only
  split
  · next x _ =>
    rw [ends_bind]
    refine (ends_lift (within_spWrite h _ (by omega) (by simp [length_bytesOf]; omega))).mono fun t ht => ?_
    exact ht
  · exact h
@[simp] theorem within_amoSend (fn : AmoFn) (o : SOp) (ea : Int) (rel acq : Option (BitVec 3)) :
    Ends (Within s0) (Within s0) (amoSend fn o ea rel acq s) := by
  simp [amoSend, h]
@[simp] theorem within_amoBody (fn : AmoFn) (o : SOp) : Ends (Within s0) (Within s0) (amoBody fn o s) := by
  unfold amoBody
  split <;> simp [h]
@[simp] theorem within_fenceBody (arg : BitVec 20) : Ends (Within s0) (Within s0) (fenceBody arg s) := by
  simp [fenceBody, h]
@[simp] theorem within_waitcBody (arg : BitVec 20) : Ends (Within s0) (Within s0) (waitcBody arg s) := by
  simp [waitcBody, h]
@[simp] theorem within_gtagBody (arg : BitVec 20) : Ends (Within s0) (Within s0) (gtagBody arg s) := by
  have ha : (s.bank.a.extractLsb' 0 15).toNat < 32768 := BitVec.isLt _
  have hw := ends_lift (within_spWrite h s.slot.gen (a := (s.bank.a.extractLsb' 0 15).toNat / 32 * 32) (bs := [])
    (by omega) (by simp; omega)) (P := Within s0)
  unfold gtagBody
  dsimp only
  split
  · refine (ends_fenceGate _ _ _ s).guard fun _ => (ends_check _ _ _ _).guard fun _ => ?_
    split
    · rw [ends_bind]
      exact hw.mono fun t ht => ht
    · exact h
  · exact h
@[simp] theorem within_gnewFinish (arg : BitVec 20) (g : BitVec 12) : Within s0 (gnewFinish arg g s) := by
  unfold gnewFinish
  dsimp only
  refine within_tile h fun ht => ?_
  split
  · exact ht
  · exact tidy_carry _ _ _ _ ht
theorem within_startSweep (g : BitVec 12) : Within s0 { s with tile := s.tile.startSweep g } := within_tile h id
theorem within_allocate : Within s0 { s with tile := s.tile.allocate.1 } := within_tile h id
@[simp] theorem within_gnewBody (arg : BitVec 20) : Ends (Within s0) (Within s0) (gnewBody arg s) := by
  refine (ends_needThread _ s).guard fun _ => ?_
  split
  · exact within_gnewFinish h _ _
  refine (ends_await _ _ _).guard fun _ => ?_
  dsimp only
  split
  · rw [ends_ok]
    exact within_gnewFinish (within_allocate h) _ _
  split
  · simp
  · rw [ends_waitAfter]
    exact (within_setSlot s0 _ _).2 (by split; exacts [h, within_startSweep h _])

/-! ### Machine/Engine.lean -/

@[simp] theorem within_pcfgBody (o : EOp) : Ends (Within s0) (Within s0) (pcfgBody o s) := by simp [pcfgBody, h]
@[simp] theorem within_planeIssue (o : EOp) (c : PlaneCmd) : Ends (Within s0) (Within s0) (planeIssue o c s) :=
  (ends_fenceGate _ _ _ s).guard fun _ => (ends_await _ _ _).guard fun _ => (ends_counterRoom _ _).guard fun _ => h
@[simp] theorem within_pdotBody (o : EOp) : Ends (Within s0) (Within s0) (pdotBody o s) := by simp [pdotBody, h]
@[simp] theorem within_packBody (kind : PlaneKind) (o : EOp) : Ends (Within s0) (Within s0) (packBody kind o s) := by
  simp [packBody, h]
@[simp] theorem within_maclmBody (o : EOp) : Ends (Within s0) (Within s0) (maclmBody o s) := by
  refine (ends_holdW _ o.w s).guard fun _ => ?_
  dsimp only
  rw [ends_ok, within_ite]
  split <;> exact h
@[simp] theorem within_marelBody (o : EOp) : Ends (Within s0) (Within s0) (marelBody o s) :=
  (ends_holdW _ o.w s).guard fun _ => (ends_needOwner _ s).guard fun _ => within_tile h (by simp)
@[simp] theorem within_mardBody (o : EOp) : Ends (Within s0) (Within s0) (mardBody o s) := by
  refine (ends_holdW _ o.w s).guard fun _ => (ends_needOwner _ s).guard fun _ => (ends_await _ _ _).guard fun _ => ?_
  dsimp only
  rw [ends_ok, within_ite]
  split <;> exact h
@[simp] theorem within_mawmBody (o : EOp) : Ends (Within s0) (Within s0) (mawmBody o s) := by simp [mawmBody, h]
@[simp] theorem within_maclrBody (o : EOp) : Ends (Within s0) (Within s0) (maclrBody o s) :=
  (ends_holdW _ o.w s).guard fun _ => (ends_needOwner _ s).guard fun _ => (ends_await _ _ _).guard fun _ => h
@[simp] theorem within_cpyBody (o : EOp) : Ends (Within s0) (Within s0) (cpyBody o s) :=
  (ends_holdW _ o.w s).guard fun _ => (ends_readBlock _ o s).guard fun _ => (ends_copyChecks _ _ _ s).guard fun _ =>
    (ends_fenceGate _ _ _ s).guard fun _ => (ends_await _ _ _).guard fun _ => (ends_inboxRoom _ s).guard fun _ =>
      (ends_counterRoom _ _).guard fun _ => h
@[simp] theorem within_cpyqBody (o : EOp) : Ends (Within s0) (Within s0) (cpyqBody o s) := by simp [cpyqBody, h]
@[simp] theorem within_inboxBody (o : EOp) : Ends (Within s0) (Within s0) (inboxBody o s) := by
  refine (ends_holdW _ o.w s).guard fun _ => (ends_liftT _ _).guard fun _ => (ends_fenceGate _ _ _ s).guard fun _ => ?_
  split
  · split
    · exact h
    · simp
  · rw [ends_bind]
    exact (within_cellWrite h _ _ (by simp [List.ne_nil_iff_length_pos])).mono fun t ht => ht
@[simp] theorem within_granIssue (load : Bool) (o : EOp) (ea : Nat) (d : Vector DWord 4) :
    Ends (Within s0) (Within s0) (granIssue load o ea d s) :=
  (ends_fenceGate _ _ _ s).guard fun _ => (ends_inboxRoom _ s).guard fun _ => (ends_counterRoom _ _).guard fun _ => h
@[simp] theorem within_grnwBody (o : EOp) : Ends (Within s0) (Within s0) (grnwBody o s) := by simp [grnwBody, h]
@[simp] theorem within_grnBody (o : EOp) : Ends (Within s0) (Within s0) (grnBody o s) := by simp [grnBody, h]
@[simp] theorem within_collBody (o : COp) : Ends (Within s0) (Within s0) (collBody o s) := by simp [collBody, h]
@[simp] theorem within_collwBody : Ends (Within s0) (Within s0) (collwBody s) := by
  refine (ends_needThread _ s).guard fun _ => ?_
  split
  · exact h
  split
  · simp
  · exact h

/-! ### Machine/System.lean -/

@[simp] theorem within_raiseAfter (cause : BitVec 8) (n : BitVec 20) :
    Ends (Within s0) (Within s0) (raiseAfter cause n s) := by
  simp [raiseAfter, h]
@[simp] theorem within_eretBody : Ends (Within s0) (Within s0) (eretBody s) := by
  refine (ends_needSupervisor _ s).guard fun _ => (ends_await _ _ _).guard fun _ => ?_
  dsimp only
  split
  · exact within_endContext h _
  · exact h
@[simp] theorem within_writeReg (r : Nat) (v : DWord) : Within s0 (writeReg r v s) := by
  unfold writeReg
  dsimp only
  split
  case h_5 =>
    split
    · exact within_tile h (by simp)
    · exact h
  case h_6 => split <;> exact h
  all_goals exact h
@[simp] theorem within_getsBody (arg : BitVec 20) : Ends (Within s0) (Within s0) (getsBody arg s) := by
  simp [getsBody, h]
@[simp] theorem within_setsBody (arg : BitVec 20) : Ends (Within s0) (Within s0) (setsBody arg s) := by
  simp [setsBody, h]
@[simp] theorem within_discardChan (n : BitVec 2) : Within s0 (discardChan s n) := by
  unfold discardChan
  split
  · exact within_foldl (fun t _ ht => within_consumeAt ht t.tid _) _ h
  · exact h
@[simp] theorem within_unbindAll : Within s0 (unbindAll s) := within_releaseLinks (s := s.setSlot _) h
@[simp] theorem within_exitBody : Ends (Within s0) (Within s0) (exitBody s) := by
  refine (ends_check _ _ _ _).guard fun _ => (ends_await _ _ _).guard fun _ => ?_
  have hd := within_foldl (fun t n ht => within_discardChan ht n) [0#2, 1#2, 2#2, 3#2] h
  have hu : Within s0 (unbindAll ([0#2, 1#2, 2#2, 3#2].foldl discardChan s)) := within_unbindAll hd
  generalize unbindAll ([0#2, 1#2, 2#2, 3#2].foldl discardChan s) = u at hu
  rw [ends_ok]
  exact within_endContext ((within_endThread s0 (u.setSlot _) s.tid s.cur).2 hu) _
@[simp] theorem within_haltBody (arg : BitVec 20) : Ends (Within s0) (Within s0) (haltBody arg s) := by
  simp [haltBody, h]
@[simp] theorem within_launchBody (arg : BitVec 20) : Ends (Within s0) (Within s0) (launchBody arg s) :=
  (ends_liftT _ _).guard fun _ => (ends_planeGate _ _ _ _ s).guard fun _ => (ends_liftT _ _).guard fun _ =>
    (ends_liftT _ _).guard fun _ => (ends_fenceGate _ _ _ s).guard fun _ => (ends_check _ _ _ _).guard fun _ =>
      (ends_inboxRoom _ s).guard fun _ => (ends_counterRoom _ _).guard fun _ => h
@[simp] theorem within_wdogBody (n : BitVec 20) : Ends (Within s0) (Within s0) (wdogBody n s) := by simp [wdogBody, h]
@[simp] theorem within_metrBody (arg : BitVec 20) : Ends (Within s0) (Within s0) (metrBody arg s) :=
  (ends_check _ _ _ _).guard fun _ => h
@[simp] theorem within_plbwBody (arg : BitVec 20) : Ends (Within s0) (Within s0) (plbwBody arg s) :=
  (ends_needSupervisor _ s).guard fun _ => (ends_memRead _ s _ _ _).guard fun _ => (ends_check _ _ _ _).guard fun _ => h
@[simp] theorem within_plbiBody (arg : BitVec 20) : Ends (Within s0) (Within s0) (plbiBody arg s) :=
  (ends_needSupervisor _ s).guard fun _ => h

/-! ### Machine/Scalar.lean -/

@[simp] theorem within_faluBody (g : Fmt → Nat → Nat → Nat) (o : SOp) :
    Ends (Within s0) (Within s0) (faluBody g o s) := by
  simp [faluBody, h]
@[simp] theorem within_fmaBody (o : SOp) : Ends (Within s0) (Within s0) (fmaBody o s) := by simp [fmaBody, h]
@[simp] theorem within_fcmpBody (o : SOp) : Ends (Within s0) (Within s0) (fcmpBody o s) := by simp [fcmpBody, h]
@[simp] theorem within_inPlaceA (o : SOp) (g : DWord → DWord) : Ends (Within s0) (Within s0) (inPlaceA o g s) := by
  simp [inPlaceA, h]

/-! ### Machine/VectorOps.lean -/

@[simp] theorem within_valuBody (g : Word → Word → Word) (o : SOp) : Ends (Within s0) (Within s0) (valuBody g o s) := by
  simp [valuBody, h]
@[simp] theorem within_vmacBody (o : SOp) : Ends (Within s0) (Within s0) (vmacBody o s) := by simp [vmacBody, h]
@[simp] theorem within_vselBody (o : SOp) : Ends (Within s0) (Within s0) (vselBody o s) := by simp [vselBody, h]
@[simp] theorem within_vfpuBody (g : Nat → Nat → Nat) (o : SOp) : Ends (Within s0) (Within s0) (vfpuBody g o s) := by
  simp [vfpuBody, h]
@[simp] theorem within_vfmaBody (o : SOp) : Ends (Within s0) (Within s0) (vfmaBody o s) := by simp [vfmaBody, h]
@[simp] theorem within_inPlaceV (o : SOp) (g : Word → Nat) : Ends (Within s0) (Within s0) (inPlaceV o g s) := by
  simp [inPlaceV, h]
@[simp] theorem within_vldBody (o : SOp) : Ends (Within s0) (Within s0) (vldBody o s) := by simp [vldBody, h]
@[simp] theorem within_vstBody (o : SOp) : Ends (Within s0) (Within s0) (vstBody o s) := by
  refine (ends_holdW _ o.w s).guard fun _ => ?_
  dsimp only
  split
  · exact (ends_liftT _ _).guard fun _ => within_srcDone h o false
  · rw [ends_bind]
    exact (within_memWrite h _ _ (by simp [List.ne_nil_iff_length_pos, length_vstBytes, elemBytes_pos])).mono
      fun t ht => within_srcDone ht o false
@[simp] theorem within_vpermBody (o : SOp) : Ends (Within s0) (Within s0) (vpermBody o s) := by simp [vpermBody, h]
@[simp] theorem within_vmaskBody (c : BitVec 3) : Within s0 (vmaskBody c s) := by
  unfold vmaskBody
  dsimp only
  repeat' split
  all_goals exact h
end

/-! ### Words and jumps -/

theorem within_finish {s0 s : State} (h : Within s0 s) {adv : State → State}
    (ha : ∀ t, Within s0 t → Within s0 (adv t))
    {b : Body} (hb : Ends (Within s0) (Within s0) b) : Goes (Within s0) (finish s adv b) := by
  unfold finish
  split
  · exact (goes_next _ _).2 (ha _ hb)
  · simp [h]
  · exact (goes_next _ _).2 (within_takeTrap hb _ _)
  · simp [h]
  · exact (goes_next _ _).2 hb
  · simp
theorem within_runWord {s0 s : State} (h : Within s0 s) {i : Instr} {u : Uses} {adv : State → State}
    (ha : ∀ t, Within s0 t → Within s0 (adv t)) {body : State → Body} (hb : Ends (Within s0) (Within s0) (body s)) :
    Goes (Within s0) (runWord i u s adv body) := by
  unfold runWord
  split
  · exact within_finish h ha ((ends_await _ _ _).guard fun _ => hb)
  · simp [h]
theorem within_word {s0 s : State} (h : Within s0 s) {i : Instr} {u : Uses} {body : State → Body}
    (hb : Ends (Within s0) (Within s0) (body s)) : Goes (Within s0) (word i u s body) :=
  within_runWord h (fun _ ht => within_advance ht false) hb
/-- A word that sets the PC itself. -/
theorem within_jump {s0 s : State} (h : Within s0 s) {i : Instr} {u : Uses} {body : State → Body}
    (hb : Ends (Within s0) (Within s0) (body s)) : Goes (Within s0) (runWord i u s id body) :=
  within_runWord h (fun _ ht => ht) hb
theorem within_execB {s0 s : State} (h : Within s0 s) (cond : BitVec 4) (off : BitVec 22) :
    Goes (Within s0) (execB cond off s) := by
  unfold execB
  split
  · exact within_jump h (by simp [h])
  · exact within_word h (by simp [h])
theorem within_execXimm {s0 s : State} (h : Within s0 s) (hi : BitVec 26) (op : PairOp) (lo : BitVec 16) :
    Goes (Within s0) (execXimm hi op lo s) := by
  refine within_runWord h (fun _ ht => within_advance ht true) ?_
  refine (ends_pairPlace _ _).guard fun _ => ?_
  cases op <;> simp [h]

/-- Whatever a context issues keeps to the context's own tile. -/
theorem within_execWord {s0 s : State} (h : Within s0 s) {i : Instr} (he : isEvent i = false) :
    Goes (Within s0) (execWord i s) := by
  cases i
  case b cond off => exact within_execB h cond off
  case ximm hi op lo => exact within_execXimm h hi op lo
  case j | call | ret | ja | calla | rpt | rptA | hret | eret | exit | halt =>
    dsimp only [execWord]
    exact within_jump h (by simp [h])
  all_goals simp [isEvent, encode] at he
  all_goals dsimp only [execWord]
  all_goals exact within_word h (by simp [h])

/-- Settles O23: whatever a context issues stays `Within` its own tile. -/
theorem confinement : Obligations.Confinement := by
  intro i s t he hm ht
  rw [← execWord_eq_exec i s he] at ht
  obtain ⟨⟨htid, hcur, hothers, hbays, htenants, hqueues, hboot, hmeas, hwheels, hwheelOn, hturns⟩, hmem, -, -⟩ :=
    within_execWord (within_rfl s) he t ht
  exact ⟨htid, hcur, hothers, hbays, htenants, hqueues, hboot, hmeas, hwheels, hwheelOn, hturns, (hmem hm).2⟩

end Sys2Proof.Machine

/-! SUPPORT. The tables of circuits, links and tags stay in canonical form (`tables_f` says it of `f`); with this, O19. -/

namespace Sys2Proof.Machine
open Sys2Proof.Claims

/-! ## The tables stay in canonical form

What an instruction or event can do to the tables of circuits and links and to the tags of the tiles. Most operations of the
model leave them as canonical as they were, `tables_f` an equivalence; those that write a table, or bring another tile into
the focus, keep them canonical by `wfFrom_set` (Sys2Proof/Laws/Memory.lean). The sections follow the model's own files. -/

/-- The tags of a tile are in canonical form. -/
abbrev TidyTags (g : SMap (BitVec 12)) : Prop := SMap.wfFrom 0xFFF 0 g = true
/-- The tags of each tile of a table are. -/
def Tidies (o : SMap Tile) : Prop := ∀ kt ∈ o, TidyTags kt.2.tags
/-- The parts of the state that hold circuits, links and tags are in canonical form. -/
def TablesOf (c : SMap Circuit) (l : SMap Link) (g : SMap (BitVec 12)) (o : SMap Tile) : Prop :=
  (SMap.wfFrom Circuit.none 0 c = true ∧ SMap.wfFrom Link.reset 0 l = true) ∧ TidyTags g ∧ Tidies o
/-- The tables of a state are in canonical form. -/
@[simp] abbrev Tables (s : State) : Prop := TablesOf s.circuits s.links s.tile.tags s.others
/-- The same as a name that `Answers`, `Ends` and `Goes` are given. -/
def TablesWf (s : State) : Prop := Tables s
@[simp] theorem tablesWf_iff (s : State) : TablesWf s ↔ Tables s := Iff.rfl

/-! ### Entries of a sparse table -/

section
variable {α : Type} [DecidableEq α] {d : α} {k : Nat} {v : α} {kt : Nat × α}

theorem mem_smap_set {m : SMap α} (h : kt ∈ SMap.set d m k v) : kt ∈ m ∨ kt = (k, v) := by
  induction m with
  | nil =>
    unfold SMap.set at h
    split at h <;> simp_all
  | cons e r ih =>
    obtain ⟨a, x⟩ := e
    unfold SMap.set at h
    split at h
    · split at h
      · exact .inl h
      · simpa [or_comm] using h
    split at h
    · split at h
      · exact .inl (List.mem_cons_of_mem _ h)
      · rcases List.mem_cons.1 h with h | h
        · exact .inr h
        · exact .inl (List.mem_cons_of_mem _ h)
    · rcases List.mem_cons.1 h with h | h
      · exact .inl (h ▸ List.mem_cons_self)
      · exact (ih h).imp_left (List.mem_cons_of_mem _)
/-- An entry outlives a write unless it is the one that the key reads. -/
theorem mem_set_of_mem {m : SMap α} (h : kt ∈ m) : kt ∈ SMap.set d m k v ∨ kt = (k, SMap.get d m k) := by
  induction m with
  | nil => simp at h
  | cons e r ih =>
    obtain ⟨a, x⟩ := e
    unfold SMap.set SMap.get
    split
    · left
      split
      · exact h
      · exact List.mem_cons_of_mem _ h
    split
    · rcases List.mem_cons.1 h with rfl | h
      · exact .inr (by simp_all)
      · left
        split
        · exact h
        · exact List.mem_cons_of_mem _ h
    · rcases List.mem_cons.1 h with rfl | h
      · exact .inl List.mem_cons_self
      · exact (ih h).imp_left (List.mem_cons_of_mem _)
theorem mem_set_self {m : SMap α} (hv : v ≠ d) : (k, v) ∈ SMap.set d m k v := by
  induction m with
  | nil => simp [SMap.set, hv]
  | cons e r ih =>
    unfold SMap.set
    split
    · simp
    · split <;> simp [ih]
omit [DecidableEq α] in
theorem get_eq_or_mem (m : SMap α) : SMap.get d m k = d ∨ (k, SMap.get d m k) ∈ m := by
  induction m with
  | nil => exact .inl rfl
  | cons e r ih =>
    obtain ⟨a, x⟩ := e
    unfold SMap.get
    split
    · exact .inr (by simp_all)
    · exact ih.imp_right (List.mem_cons_of_mem _)
end

/-- Changing entries keeps the canonical form where each keeps its key and none becomes the default. -/
theorem wfFrom_map {α : Type} [DecidableEq α] {d : α} {f : Nat × α → Nat × α} (hk : ∀ e, (f e).1 = e.1)
    (hd : ∀ e, e.2 ≠ d → (f e).2 ≠ d) {m : SMap α} {lo : Nat} (h : SMap.wfFrom d lo m = true) :
    SMap.wfFrom d lo (m.map f) = true := by
  induction m generalizing lo with
  | nil => rfl
  | cons e r ih =>
    obtain ⟨a, x⟩ := e
    simp only [SMap.wfFrom, Bool.and_eq_true, decide_eq_true_eq] at h
    obtain ⟨⟨hl, hx⟩, hr⟩ := h
    have hka : (f (a, x)).1 = a := hk _
    simp only [List.map_cons, SMap.wfFrom, Bool.and_eq_true, decide_eq_true_eq, hka]
    exact ⟨⟨hl, hd _ hx⟩, ih hr⟩

/-! ### Tags of the tiles -/

theorem tidies_set {o : SMap Tile} (h : Tidies o) (t : Nat) {x : Tile} (hx : TidyTags x.tags) :
    Tidies (SMap.set Tile.reset o t x) := by
  intro kt hk
  rcases mem_smap_set hk with hk | rfl
  · exact h kt hk
  · exact hx
theorem Tidies.get {o : SMap Tile} (h : Tidies o) (t : Nat) : TidyTags (SMap.get Tile.reset o t).tags := by
  rcases get_eq_or_mem (d := Tile.reset) (k := t) o with hg | hg
  · rw [hg]; rfl
  · exact h _ hg
/-- A tile written back with the tags that it had. -/
theorem tidies_set_iff {o : SMap Tile} {t : Nat} {x : Tile} (hx : x.tags = (SMap.get Tile.reset o t).tags) :
    Tidies (SMap.set Tile.reset o t x) ↔ Tidies o := by
  refine ⟨fun h kt hk => ?_, fun h => tidies_set h t (hx ▸ h.get t)⟩
  rcases mem_set_of_mem (d := Tile.reset) (k := t) (v := x) hk with hk | rfl
  · exact h kt hk
  by_cases hd : x = Tile.reset
  · rw [← hx, hd]; rfl
  · exact hx ▸ h _ (mem_set_self hd)

theorem tidies_filterMap {o : SMap Tile} {f : Tile → Tile} (hf : ∀ tl, (f tl).tags = tl.tags) :
    Tidies (o.filterMap fun kt => if f kt.2 = Tile.reset then none else some (kt.1, f kt.2)) ↔ Tidies o := by
  simp only [Tidies, List.mem_filterMap]
  constructor
  · intro h kt hk
    by_cases hr : f kt.2 = Tile.reset
    · rw [← hf, hr]; rfl
    · exact hf kt.2 ▸ h _ ⟨kt, hk, if_neg hr⟩
  · rintro h _ ⟨kt, hk, he⟩
    split at he
    · simp at he
    · obtain rfl := Option.some.inj he
      exact (hf kt.2).symm ▸ h kt hk
theorem tidies_map {o : SMap Tile} {f : Nat × Tile → Nat × Tile} (hf : ∀ kt, (f kt).2.tags = kt.2.tags) :
    Tidies (o.map f) ↔ Tidies o := by
  unfold Tidies
  rw [List.forall_mem_map]
  simp only [hf]

@[simp] theorem tags_setSlot (tl : Tile) (k : Nat) (x : Slot) : (tl.setSlot k x).tags = tl.tags := by
  unfold Tile.setSlot
  split <;> rfl
@[simp] theorem tags_correct (tl : Tile) (p : Nat → Bool) : (tl.correct p).tags = tl.tags := by rfl
@[simp] theorem tags_countArrival (tl : Tile) : tl.countArrival.tags = tl.tags := by rfl
@[simp] theorem tags_meter (tl : Tile) (ix n : Nat) : (tl.meter ix n).tags = tl.tags := by rfl
@[simp] theorem tags_freeOvfRec (tl : Tile) (ix : Nat) : (tl.freeOvfRec ix).tags = tl.tags := by rfl
@[simp] theorem tags_startSweep (tl : Tile) (g : BitVec 12) : (tl.startSweep g).tags = tl.tags := by rfl
@[simp] theorem tags_allocate (tl : Tile) : tl.allocate.1.tags = tl.tags := by rfl
@[simp] theorem tags_writebackTile (cyc : Nat) (tl : Tile) : (writebackTile cyc tl).tags = tl.tags := by
  unfold writebackTile
  split <;> rfl
@[simp] theorem tags_oinfoFreeTile (ix : Nat) (tl : Tile) : (oinfoFreeTile ix tl).tags = tl.tags := by
  unfold oinfoFreeTile
  dsimp only
  repeat' split
  all_goals simp
@[simp] theorem tags_request (s : State) (t : Nat) (tl : Tile) : (Tile.request s t tl).tags = tl.tags := by rfl
@[simp] theorem tags_serveTile (s : State) (t : Nat) (ls : List Nat) (tl : Tile) :
    (serveTile s t ls tl).tags = tl.tags := by
  rfl
@[simp] theorem tags_refillTile (b : Bay) (scale : Nat) (tl : Tile) : (refillTile b scale tl).tags = tl.tags := by rfl
@[simp] theorem tags_setRank (tl : Tile) (r : Nat) (e : RankEntry) : (tl.setRank r e).tags = tl.tags := by rfl
@[simp] theorem tags_settleOwner (tl : Tile) : tl.settleOwner.tags = tl.tags := by
  unfold Tile.settleOwner
  split <;> rfl
@[simp] theorem tags_addRow (r : PlaneRun) (a : Nat) (row : BitVec 3) (tl : Tile) :
    (addRow r a row tl).tags = tl.tags := by
  rfl
@[simp] theorem tags_addSums (r : PlaneRun) (tl : Tile) : (addSums r tl).tags = tl.tags := by
  simp [addSums, apply_ite Tile.tags]
@[simp] theorem tags_vacated (tl : Tile) : tl.vacated.tags = tl.tags := by rfl
@[simp] theorem tags_countLeft (tl : Tile) : (countLeft tl).tags = tl.tags := by rfl
theorem tidy_allocateSwept {tl : Tile} (h : TidyTags tl.tags) : TidyTags tl.allocateSwept.1.tags := by
  exact wfFrom_filter (fun kt => decide (kt.2 ≠ tl.nextValue)) h
@[simp] theorem tags_tickAges (tl : Tile) : (tickAges tl).tags = tl.tags := by
  unfold tickAges
  split <;> simp
@[simp] theorem tags_meterHere (tl : Tile) (ix n : Nat) : (tl.meterHere ix n).tags = tl.tags := by
  unfold Tile.meterHere
  split <;> simp
@[simp] theorem tags_draw (tl : Tile) (c : PClass) : (tl.draw c).tags = tl.tags := by cases c <;> rfl
@[simp] theorem tags_throttleStep (w : Nat) (tl : Tile) : (throttleStep w tl).tags = tl.tags := by rfl
theorem tags_foldl {α : Type} {f : Tile → α → Tile} (hf : ∀ x a, (f x a).tags = x.tags) (l : List α) (tl : Tile) :
    (l.foldl f tl).tags = tl.tags := by
  induction l generalizing tl with
  | nil => rfl
  | cons a r ih => exact (ih _).trans (hf tl a)
@[simp] theorem tags_oovfClearTile (v : DWord) (tl : Tile) : (oovfClearTile v tl).tags = tl.tags := by
  refine tags_foldl (fun x i => ?_) _ tl
  dsimp only
  split <;> simp
theorem tidy_setTag {tl : Tile} (h : TidyTags tl.tags) (gran : Nat) (g : BitVec 12) :
    TidyTags (tl.setTag gran g).tags :=
  wfFrom_set g h (Nat.zero_le _)
theorem tidy_sweepStep {tl : Tile} (h : TidyTags tl.tags) : TidyTags tl.sweepStep.tags := by
  unfold Tile.sweepStep
  split
  · dsimp only
    split
    · exact tidy_setTag h _ _
    · exact h
  · exact h

/-! ### Writing tiles -/

section
variable (s : State)

/-! Tiles written back with the tags that they had. -/
@[simp] theorem tablesOf_setTile (c : SMap Circuit) (l : SMap Link) (t : Nat) (x : Tile)
    (hx : x.tags = (s.getTile t).tags) :
    TablesOf c l (s.setTile t x).tile.tags (s.setTile t x).others ↔ TablesOf c l s.tile.tags s.others := by
  unfold State.getTile at hx
  unfold State.setTile
  split at hx
  · next ht => simp [ht, hx]
  · next ht =>
    simp only [ht, if_false, TablesOf]
    exact and_congr_right fun _ => and_congr_right fun _ => tidies_set_iff hx
@[simp] theorem tablesOf_modTile (c : SMap Circuit) (l : SMap Link) (t : Nat) (f : Tile → Tile)
    (hf : (f (s.getTile t)).tags = (s.getTile t).tags) :
    TablesOf c l (s.modTile t f).tile.tags (s.modTile t f).others ↔ TablesOf c l s.tile.tags s.others :=
  tablesOf_setTile s c l t (f (s.getTile t)) hf
@[simp] theorem tables_setSlotAt (t k : Nat) (x : Slot) : Tables (s.setSlotAt t k x) ↔ Tables s := by
  simp [State.setSlotAt]
@[simp] theorem tables_modSlotAt (t k : Nat) (f : Slot → Slot) : Tables (s.modSlotAt t k f) ↔ Tables s := by
  simp [State.modSlotAt]
@[simp] theorem tables_ite (c : Prop) [Decidable c] (a b : State) :
    Tables (if c then a else b) ↔ if c then Tables a else Tables b := by
  split <;> rfl
end

section
variable {s : State} (h : Tables s)
include h

theorem tidy_getTile (t : Nat) : TidyTags (s.getTile t).tags := by
  obtain ⟨-, hg, ho⟩ := h
  unfold State.getTile
  split
  · exact hg
  · exact ho.get t
theorem tables_setTile (t : Nat) {x : Tile} (hx : TidyTags x.tags) : Tables (s.setTile t x) := by
  obtain ⟨hc, hg, ho⟩ := h
  unfold State.setTile
  split
  · exact ⟨hc, hx, ho⟩
  · exact ⟨hc, hg, tidies_set ho t hx⟩
theorem tables_modTile (t : Nat) {f : Tile → Tile} (hf : ∀ x, TidyTags x.tags → TidyTags (f x).tags) :
    Tables (s.modTile t f) :=
  tables_setTile h t (hf _ (tidy_getTile h t))
@[simp] theorem tables_focus (t : Nat) : Tables (s.focus t) := by
  have ht := tidy_getTile h t
  obtain ⟨hc, hg, ho⟩ := h
  unfold State.focus
  split
  · exact ⟨hc, hg, ho⟩
  · exact ⟨hc, ht, tidies_set (tidies_set ho t rfl) _ hg⟩
theorem tables_circuits {c : SMap Circuit} (hc : SMap.wfFrom Circuit.none 0 c = true) :
    Tables { s with circuits := c } :=
  ⟨⟨hc, h.1.2⟩, h.2⟩
theorem tables_links {l : SMap Link} (hl : SMap.wfFrom Link.reset 0 l = true) : Tables { s with links := l } :=
  ⟨⟨h.1.1, hl⟩, h.2⟩
/-- What keeps to the tile of its context keeps the tables. -/
theorem Within.tables {t : State} (ht : Within s t) : Tables t := by
  obtain ⟨hc, hg, ho⟩ := h
  obtain ⟨⟨-, -, hothers, -⟩, -, htab, htag⟩ := ht
  exact ⟨htab hc, htag hg, by rwa [hothers]⟩
theorem tables_foldl_of {α : Type} {f : State → α → State} (hf : ∀ s x, Tables s → Tables (f s x)) (l : List α) :
    Tables (l.foldl f s) := by
  induction l generalizing s with
  | nil => exact h
  | cons x r ih => exact ih (hf s x h)
end

@[simp] theorem tables_foldl {α : Type} {f : State → α → State} (hf : ∀ s x, Tables (f s x) ↔ Tables s) (l : List α)
    (s : State) : Tables (l.foldl f s) ↔ Tables s := by
  induction l generalizing s with
  | nil => rfl
  | cons x r ih => exact (ih _).trans (hf s x)

/-! ### Machine/Ops.lean -/

@[simp] theorem tables_modBay (s : State) (b : Nat) (f : Bay → Bay) : Tables (State.modBay s b f) ↔ Tables s := by rfl
@[simp] theorem tables_setDie (s : State) (d : Nat) (x : Die) : Tables (State.setDie s d x) ↔ Tables s := by
  unfold State.setDie
  split <;> simp
@[simp] theorem tables_modDie (s : State) (d : Nat) (f : Die → Die) : Tables (State.modDie s d f) ↔ Tables s := by
  simp [State.modDie]
@[simp] theorem tables_setTenant (s : State) (t : Nat) (x : Tenant) :
    Tables (State.setTenant s t x) ↔ Tables s := by
  rfl
@[simp] theorem tables_addFault (s : State) (r : FaultRec) : Tables (State.addFault s r) ↔ Tables s := by
  unfold State.addFault
  repeat' split
  all_goals rfl
@[simp] theorem tables_trapHere {s : State} (h : Tables s) (t : Trap) : Tables (trapHere t s) :=
  (within_trapHere (within_rfl s) t).tables h
@[simp] theorem tables_correctAt (s : State) (t a n : Nat) : Tables (State.correctAt s t a n) ↔ Tables s := by
  unfold State.correctAt
  split <;> simp
theorem oks_tables_spWrite {s : State} (h : Tables s) (t : Nat) (g : BitVec 12) (a : Nat) (bs : List (Option Byte)) :
    Oks TablesWf (s.spWrite t g a bs) := by
  unfold State.spWrite
  dsimp only
  split
  · split
    · exact oks_error _ _
    · rw [oks_ok, tablesWf_iff]
      exact tables_modTile (by exact h) t fun x hx => hx
  · rw [oks_ok, tablesWf_iff]
    exact tables_modTile (by exact h) t fun x hx => tidy_setTag hx _ _
  · exact oks_error _ _
theorem tables_of_spWrite {s t : State} (h : Tables s) {n : Nat} {g : BitVec 12} {a : Nat} {bs : List (Option Byte)}
    (hw : s.spWrite n g a bs = .ok t) : Tables t :=
  oks_tables_spWrite h n g a bs t hw
@[simp] theorem tables_spWriteSpan {s : State} (h : Tables s) (t : Nat) (g : BitVec 12) (fuel a : Nat)
    (bs : List Byte) :
    Tables (s.spWriteSpan t g fuel a bs).1 := by
  fun_induction State.spWriteSpan s t g fuel a bs with
  | case1 => exact h
  | case2 => exact h
  | case3 s fuel a bs _ _ s' hs ih => exact ih (tables_of_spWrite h hs)
  | case4 => exact h

/-! ### Machine/Operands.lean, Machine/Message.lean, Machine/System.lean -/

section
variable {s : State} (h : Tables s)
include h

@[simp] theorem tables_setCircuit (key : Nat) (c : Circuit) : Tables (s.setCircuit key c) :=
  (within_setCircuit (within_rfl s) key c).tables h
@[simp] theorem tables_setLink (t : Nat) (d : BitVec 2) (l : Link) : Tables (s.setLink t d l) :=
  (within_setLink (within_rfl s) t d l).tables h
end

/-! ### Machine/Queues.lean -/

@[simp] theorem tables_hubMeter (s : State) (tenant ix n : Nat) :
    Tables (State.hubMeter s tenant ix n) ↔ Tables s := by
  rfl
@[simp] theorem tables_putRecord {s : State} (h : Tables s) (t k : Nat) (q : BitVec 2) (g : BitVec 12)
    (words : List DWord) :
    Tables (State.putRecord s t k q g words) := by
  simp [State.putRecord, h]
@[simp] theorem tables_divert (s : State) (t k : Nat) (q : BitVec 2) (words : List DWord) (ahead : Bool) :
    Tables (State.divert s t k q words ahead) ↔ Tables s := by
  fun_cases State.divert <;> simp +zetaDelta
@[simp] theorem tables_enqueue {s : State} (h : Tables s) (t k : Nat) (q : BitVec 2) (handlerQueue : Bool)
    (words : List DWord) :
    Tables (State.enqueue s t k q handlerQueue words) := by
  fun_cases State.enqueue <;> simp [h]
@[simp] theorem tables_arrive {s : State} (h : Tables s) (t k : Nat) (hdr : DWord) (pay : List DWord) :
    Tables (State.arrive s t k hdr pay) := by
  simp [State.arrive, h]
@[simp] theorem tables_postInbox (s : State) (t k run kind status : Nat) (vax : BitVec 8) (block : BitVec 15)
    (w1 : DWord) :
    Tables (State.postInbox s t k run kind status vax block w1) ↔ Tables s := by
  simp [State.postInbox]
@[simp] theorem tables_dropNe (s : State) (t k run : Nat) : Tables (State.dropNe s t k run) ↔ Tables s := by
  simp [State.dropNe]
@[simp] theorem tables_complete (s : State) (t k run kind status : Nat) (vax : BitVec 8) (block : BitVec 15)
    (w1 : DWord) :
    Tables (State.complete s t k run kind status vax block w1) ↔ Tables s := by
  simp [State.complete]

/-! ### Machine/Context.lean -/

@[simp] theorem tables_inCtx {s : State} (h : Tables s) {f : State → State} (hf : ∀ s, Tables s → Tables (f s))
    (t k : Nat) : Tables (inCtx t k f s) :=
  tables_focus (s := f { s.focus t with cur := Fin.ofNat 8 k }) (hf _ (tables_focus h t)) s.tid
@[simp] theorem tables_takePending {s : State} (h : Tables s) : Tables (takePending s) := by
  fun_cases takePending
  case case6 => exact h
  all_goals exact tables_trapHere (by simpa +zetaDelta using h) _
@[simp] theorem tables_preemptionBody {s : State} (h : Tables s) (t k : Nat) :
    Answers TablesWf (preemptionBody t k s) := by
  simp [preemptionBody, h]
@[simp] theorem tables_handlerDispatchBody {s : State} (h : Tables s) (t : Nat) :
    Answers TablesWf (handlerDispatchBody t s) := by
  simp [handlerDispatchBody, h]
@[simp] theorem tables_watchdogBody {s : State} (h : Tables s) (t k : Nat) :
    Answers TablesWf (watchdogBody t k s) := by
  simp [watchdogBody, tables_inCtx h fun _ => tables_takePending]
@[simp] theorem tables_pauseExpiryBody {s : State} (h : Tables s) (t k : Nat) :
    Answers TablesWf (pauseExpiryBody t k s) := by
  simp [pauseExpiryBody, h]
@[simp] theorem tables_barrierCompletionBody {s : State} (h : Tables s) (n : Nat) :
    Answers TablesWf (barrierCompletionBody n s) := by
  simp [barrierCompletionBody, h]
@[simp] theorem tables_barrierTimeoutBody {s : State} (h : Tables s) (t k : Nat) :
    Answers TablesWf (barrierTimeoutBody t k s) := by
  have hc (e : Slot → DWord) :
      Tables (inCtx t k (fun s => trapHere (mkTrap causeBarrierTimeout (e s.slot)) (setTimer 0 s)) s) :=
    tables_inCtx h (fun u hu => tables_trapHere (s := setTimer 0 u) hu _) t k
  simp [barrierTimeoutBody, hc]
@[simp] theorem tables_alignReleaseBody {s : State} (h : Tables s) (t k : Nat) :
    Answers TablesWf (alignReleaseBody t k s) := by
  fun_cases alignReleaseBody <;> simp [h]
@[simp] theorem tables_alignTimeoutBody {s : State} (h : Tables s) (t k : Nat) :
    Answers TablesWf (alignTimeoutBody t k s) := by
  fun_cases alignTimeoutBody <;> simp [h]
@[simp] theorem tables_gnewAllocationBody {s : State} (h : Tables s) (t k : Nat) :
    Answers TablesWf (gnewAllocationBody t k s) := by
  simp [gnewAllocationBody, h]
@[simp] theorem tables_generationSweepBody {s : State} (h : Tables s) (t : Nat) :
    Answers TablesWf (generationSweepBody t s) := by
  rw [generationSweepBody, answers_ite]
  split
  · exact (answers_some ..).2 (tables_modTile h t fun _ => tidy_sweepStep)
  · simp
@[simp] theorem tables_scratchpadWritebackBody {s : State} (h : Tables s) (t : Nat) :
    Answers TablesWf (scratchpadWritebackBody t s) := by
  simp [scratchpadWritebackBody, h]
@[simp] theorem tables_rqhWriteBody {s : State} (h : Tables s) (t k q : Nat) (v : DWord) :
    Answers TablesWf (rqhWriteBody t k q v s) := by
  simp [rqhWriteBody, h]
@[simp] theorem tables_tmsgBody {s : State} (h : Tables s) (drop : Bool) (t k : Nat) :
    Answers TablesWf (tmsgBody drop t k s) := by
  simp [tmsgBody, h]
@[simp] theorem tables_oinfoFreeBody {s : State} (h : Tables s) (t ix : Nat) :
    Answers TablesWf (oinfoFreeBody t ix s) := by
  simp [oinfoFreeBody, h]
@[simp] theorem tables_redoRecord {s : State} (h : Tables s) (t ix : Nat) : Tables (redoRecord s t ix) := by
  simp [redoRecord, h]
@[simp] theorem tables_oinfoRedoBody {s : State} (h : Tables s) (t ix : Nat) :
    Answers TablesWf (oinfoRedoBody t ix s) := by
  simp [oinfoRedoBody, h]
@[simp] theorem tables_oovfClearBody {s : State} (h : Tables s) (t : Nat) (v : DWord) :
    Answers TablesWf (oovfClearBody t v s) := by
  simp [oovfClearBody, h]

/-! ### Machine/Fetch.lean -/

@[simp] theorem tables_requestLines (bay : Nat) (s : State) :
    Tables (requestLines bay s) ↔ Tables s := by simp [requestLines]
@[simp] theorem tables_loftLineFetchBody {s : State} (h : Tables s) (bay line : Nat) :
    Answers TablesWf (loftLineFetchBody bay line s) := by
  simp [loftLineFetchBody, h]
@[simp] theorem tables_writeLoftWord {s : State} (h : Tables s) (bay word : Nat) (v : Word) :
    Tables (writeLoftWord bay word v s) := by
  rw [writeLoftWord, tables_foldl (by simp)]
  exact h

/-! ### Machine/Power.lean -/

@[simp] theorem tables_permitRefillBody {s : State} (h : Tables s) (t : Nat) :
    Answers TablesWf (permitRefillBody t s) := by
  simp [permitRefillBody, h]
@[simp] theorem tables_powerControlBody {s : State} (h : Tables s) (die : Nat) :
    Answers TablesWf (powerControlBody die s) := by
  simp [powerControlBody, h]
@[simp] theorem tables_bayrateBody {s : State} (h : Tables s) (die bay : Nat) (v : DWord) :
    Answers TablesWf (bayrateBody die bay v s) := by
  simp [bayrateBody, h]
@[simp] theorem tables_windowEnd (bay stook : Nat) (s : State) : Tables (windowEnd bay stook s) ↔ Tables s := by
  simp [windowEnd]
@[simp] theorem tables_stookWindowEndBody {s : State} (h : Tables s) (bay stook : Nat) :
    Answers TablesWf (stookWindowEndBody bay stook s) := by
  simp [stookWindowEndBody, h]
@[simp] theorem tables_fillerStep (t w : Nat) (s : State) : Tables (fillerStep t w s) ↔ Tables s := by simp [fillerStep]

/-! ### Machine/Network.lean -/

@[simp] theorem tables_injectReq (t k : Nat) (r : Req) (s : State) : Tables (injectReq t k r s) ↔ Tables s := by
  simp [injectReq]
@[simp] theorem tables_messageInjectionBody {s : State} (h : Tables s) (t k n : Nat) :
    Answers TablesWf (messageInjectionBody t k n s) := by
  simp [messageInjectionBody, h]
@[simp] theorem tables_releaseInjectionBody {s : State} (h : Tables s) (t k n : Nat) :
    Answers TablesWf (releaseInjectionBody t k n s) := by
  simp [releaseInjectionBody, h]
@[simp] theorem tables_dropFlight (s : State) (n : Nat) : Tables (State.dropFlight s n) ↔ Tables s := by rfl
@[simp] theorem tables_setPhase (s : State) (n : Nat) (r : Req) (p : Phase) :
    Tables (State.setPhase s n r p) ↔ Tables s := by
  rfl
@[simp] theorem tables_closeMessage (r : Req) (s : State) :
    Tables (closeMessage r s) ↔ Tables s := by simp [closeMessage]
@[simp] theorem tables_postDiscard (s : State) (tenant t k cid : Nat) (handler : Bool) :
    Tables (State.postDiscard s tenant t k cid handler) ↔ Tables s := by
  simp [State.postDiscard]
@[simp] theorem tables_deliverMessage {s : State} (h : Tables s) (tenant dst slot cid : Nat) (hdr : DWord)
    (pay : List DWord) (bad : Bool) :
    Tables (deliverMessage tenant dst slot cid hdr pay bad s) := by
  unfold deliverMessage
  repeat' split
  all_goals simp [h]
@[simp] theorem tables_noteArrival (dst : Nat) (kq : Nat × BitVec 2) (key : Nat) (s : State) :
    Tables (noteArrival dst kq key s) ↔ Tables s := by
  simp [noteArrival]
@[simp] theorem tables_messageVisibleBody {s : State} (h : Tables s) (n : Nat) :
    Answers TablesWf (messageVisibleBody n s) := by
  unfold messageVisibleBody
  refine Answers.of_rest fun f => ?_
  split
  · simp [h]
  · simp
@[simp] theorem tables_wordArrives {s : State} (h : Tables s) (w : ChanWord) : Tables (wordArrives w s) := by
  unfold wordArrives
  split
  · simp [h]
  · dsimp only
    split
    · cases (s.link _ _).bound <;> simp [h]
    · simp [h]
@[simp] theorem tables_channelWordArrivalBody {s : State} (h : Tables s) (n : Nat) :
    Answers TablesWf (channelWordArrivalBody n s) := by
  simp [channelWordArrivalBody, h]
@[simp] theorem tables_creditArrives {s : State} (h : Tables s) (c : WordTo) : Tables (creditArrives c s) := by
  unfold creditArrives
  split <;> simp [h]
@[simp] theorem tables_creditReturnBody {s : State} (h : Tables s) (n : Nat) :
    Answers TablesWf (creditReturnBody n s) := by
  simp [creditReturnBody, h]
@[simp] theorem tables_clearLinks {s : State} (h : Tables s) (p : Nat → Bool) : Tables (clearLinks p s) := by
  have hl := tables_links h (wfFrom_filter (fun kl => !p (kl.1 / 4)) h.1.2)
  refine tables_foldl_of (by exact hl) (fun u kl hu => ?_) _
  dsimp only
  split
  · split
    · exact tables_setLink (tables_setLink hu _ _ _) _ _ _
    · exact hu
  · exact hu
@[simp] theorem tables_settleLinks {s : State} (h : Tables s) (tiles : List Nat) : Tables (settleLinks tiles s) := by
  refine tables_foldl_of (by exact h) (fun u t hu => tables_foldl_of hu (fun v j hv => ?_) _) _
  dsimp only
  split
  · exact tables_setLink (tables_setLink hv _ _ _) _ _ _
  · exact hv
@[simp] theorem tables_writeEntries (s : State) (es : List (Nat × Word)) :
    Tables (State.writeEntries s es) ↔ Tables s := by
  rfl
@[simp] theorem tables_clearEntries (s : State) (ks : List Nat) : Tables (State.clearEntries s ks) ↔ Tables s := by rfl
@[simp] theorem tables_addReply (s : State) (die : Nat) (r : JoinReply) :
    Tables (State.addReply s die r) ↔ Tables s := by
  simp [State.addReply]
@[simp] theorem tables_sendFar (s : State) (src : Nat) (far : List Nat) (es : List (Nat × Word)) :
    Tables (State.sendFar s src far es) ↔ Tables s := by
  simp [State.sendFar]
@[simp] theorem tables_commitJoin {s : State} (h : Tables s) (r : JoinReply) : Tables (commitJoin r s) := by
  simp [commitJoin, h]
@[simp] theorem tables_addBases {s : State} (h : Tables s) (r : JoinReq) (key : Nat) (c : Circuit) (n : Nat) :
    Tables (addBases r key c n s) := by
  unfold addBases
  repeat' split
  all_goals simp [h]
@[simp] theorem tables_dropBases {s : State} (h : Tables s) (key : Nat) (bs : List Nat) (reply : Option JoinReply) :
    Tables (dropBases key bs reply s) :=
  tables_setCircuit ((tables_clearEntries s _).2 h) key _
@[simp] theorem tables_resizeTo {s : State} (h : Tables s) (r : JoinReq) (key n : Nat) :
    Tables (resizeTo r key n s) := by
  simp [resizeTo, h]
@[simp] theorem tables_setUp {s : State} (h : Tables s) (r : JoinReq) :
    Tables (setUp r s) := by fun_cases setUp <;> simp [h]
@[simp] theorem tables_joinWork {s : State} (h : Tables s) (r : JoinReq) : Tables (joinWork r s) := by
  unfold joinWork
  split <;> simp [h]
@[simp] theorem tables_joinerRequestBody {s : State} (h : Tables s) (die : Nat) :
    Answers TablesWf (joinerRequestBody die s) := by
  fun_cases joinerRequestBody <;> simp [h]
@[simp] theorem tables_settleReplies {s : State} (h : Tables s) (old : List JoinReply) (die : Nat) :
    Tables (settleReplies old die s) := by
  rw [settleReplies]
  refine tables_foldl_of h (fun u r hu => ?_) _
  rw [tables_ite]
  split
  · exact tables_commitJoin hu r
  · exact hu
@[simp] theorem tables_farJoinerWriteBody {s : State} (h : Tables s) (die : Nat) :
    Answers TablesWf (farJoinerWriteBody die s) := by
  simp [farJoinerWriteBody, h]
@[simp] theorem tables_teardownDrainBody {s : State} (h : Tables s) (n : Nat) :
    Answers TablesWf (teardownDrainBody n s) := by
  unfold teardownDrainBody
  refine Answers.of_rest fun d => ?_
  split
  · simp
  · rw [answers_some, tablesWf_iff]
    split <;> simp [h]
@[simp] theorem tables_joinerReplyBody {s : State} (h : Tables s) (die : Nat) :
    Answers TablesWf (joinerReplyBody die s) := by
  fun_cases joinerReplyBody <;> simp [h]
@[simp] theorem tables_cancelJoin (key : Nat) (s : State) : Tables (cancelJoin key s) ↔ Tables s := by simp [cancelJoin]
@[simp] theorem tables_killCircuit {s : State} (h : Tables s) (key : Nat) : Tables (killCircuit s key) := by
  have hd := tables_dropBases ((tables_cancelJoin key s).2 h) key ((cancelJoin key s).circuit key).base none
  exact tables_circuits hd (wfFrom_set _ hd.1.1 (Nat.zero_le _))
@[simp] theorem tables_uproot {s : State} (h : Tables s) (key : Nat) : Tables (uproot key s) :=
  tables_setCircuit ((tables_clearEntries s _).2 h) key _
@[simp] theorem tables_plantGate {s : State} (h : Tables s) (kind : CircKind) (lane tile tenant key n : Nat) :
    Tables (plantGate kind lane tile tenant key n s) :=
  tables_setCircuit ((tables_writeEntries s _).2 h) key _
@[simp] theorem tables_plantMemory {s : State} (h : Tables s) (tenant bay : Nat) :
    Tables (plantMemory tenant bay s) := by
  unfold plantMemory
  split <;> simp [h]
@[simp] theorem tables_uprootMemory {s : State} (h : Tables s) (bay : Nat) : Tables (uprootMemory s bay) := by
  unfold uprootMemory
  split <;> simp [h]
@[simp] theorem tables_plantGranary {s : State} (h : Tables s) (tenant t : Nat) : Tables (plantGranary tenant t s) := by
  simp [plantGranary, h]
@[simp] theorem tables_pullRequestBody {s : State} (h : Tables s) (n : Nat) :
    Answers TablesWf (pullRequestBody n s) := by
  unfold pullRequestBody
  refine Answers.of_rest fun f => ?_
  split <;> simp [h]
@[simp] theorem tables_setStream (s : State) (n : Nat) (st : Stream) : Tables (State.setStream s n st) ↔ Tables s := by
  simp [State.setStream]
@[simp] theorem tables_streamWrite {s : State} (h : Tables s) (st : Stream) :
    Tables (streamWrite st s) := by
  unfold streamWrite
  extract_lets sl r
  have hr : Tables r.1 := tables_spWriteSpan h _ _ _ _ _
  split
  · split <;> simp [hr]
  · exact h
@[simp] theorem tables_pullCompletionBody {s : State} (h : Tables s) (n : Nat) :
    Answers TablesWf (pullCompletionBody n s) := by
  simp [pullCompletionBody, h]
@[simp] theorem tables_postNotice (st : Stream) (s : State) :
    Tables (postNotice st s) ↔ Tables s := by simp [postNotice]
@[simp] theorem tables_pullReleaseNoticeBody {s : State} (h : Tables s) (n : Nat) :
    Answers TablesWf (pullReleaseNoticeBody n s) := by
  simp [pullReleaseNoticeBody, h]
@[simp] theorem tables_rankEntryWriteBody {s : State} (h : Tables s) (t r : Nat) (v : DWord) :
    Answers TablesWf (rankEntryWriteBody t r v s) := by
  simp [rankEntryWriteBody, h]

/-! ### Machine/Device.lean -/

@[simp] theorem tables_meterDebug (t : Nat) (s : State) : Tables (meterDebug t s) ↔ Tables s := by
  unfold meterDebug
  split <;> simp
@[simp] theorem tables_debugWrite {s : State} (h : Tables s) (t off : Nat) (v : DWord) :
    Tables (debugWrite t off v s) := by
  simp [debugWrite, h]
@[simp] theorem tables_setDebugTag {s : State} (h : Tables s) (t off : Nat) (v : DWord) :
    Tables (setDebugTag t off v s) := by
  exact tables_modTile h t fun x hx => tidy_setTag hx _ _
@[simp] theorem tables_answerRead (v : DWord) (s : State) : Tables (answerRead v s) ↔ Tables s := by rfl
@[simp] theorem tables_answerRefused (s : State) : Tables (answerRefused s) ↔ Tables s := by rfl
@[simp] theorem tables_debugDataReadBody {s : State} (h : Tables s) (t off : Nat) :
    Answers TablesWf (debugDataReadBody t off s) := by
  simp [debugDataReadBody, h]
@[simp] theorem tables_debugDataWriteBody {s : State} (h : Tables s) (t off : Nat) (v : DWord) :
    Answers TablesWf (debugDataWriteBody t off v s) := by
  unfold debugDataWriteBody
  split <;> simp [h]
@[simp] theorem tables_debugTagReadBody {s : State} (h : Tables s) (t off : Nat) :
    Answers TablesWf (debugTagReadBody t off s) := by
  simp [debugTagReadBody, h]
@[simp] theorem tables_debugTagWriteBody {s : State} (h : Tables s) (t off : Nat) (v : DWord) :
    Answers TablesWf (debugTagWriteBody t off v s) := by
  simp [debugTagWriteBody, h]
@[simp] theorem tables_windowWrite (t k j : Nat) (v : DWord) (s : State) :
    Oks (fun u => (Tables u ↔ Tables s)) (windowWrite t k j v s) := by
  unfold windowWrite
  split <;> simp
@[simp] theorem tables_contextWindowBody {s : State} (h : Tables s) (t k off : Nat) (v : Option DWord) :
    Answers TablesWf (contextWindowBody t k off v s) := by
  unfold contextWindowBody
  split
  · simp [h]
  split
  · split <;> simp [h]
  · split
    case h_1 hs => simp [tables_windowWrite _ _ _ _ _ _ hs, h]
    · simp [h]
@[simp] theorem tables_loftWindowWriteBody {s : State} (h : Tables s) (bay word : Nat) (v : Word) :
    Answers TablesWf (loftWindowWriteBody bay word v s) := by
  simp [loftWindowWriteBody, h]
@[simp] theorem tables_writeLoftBytes {s : State} (h : Tables s) (bay off : Nat) (data : List (Option Byte)) :
    Tables (writeLoftBytes bay off data s) :=
  tables_foldl_of (by exact h) (fun _ _ hs => tables_writeLoftWord hs _ _ _) _
@[simp] theorem tables_writeBayMap (die bay : Nat) (v : DWord) (s : State) :
    Tables (writeBayMap die bay v s) ↔ Tables s := by
  simp [writeBayMap]
@[simp] theorem tables_modTenant (s : State) (t : Nat) (f : Tenant → Tenant) :
    Tables (State.modTenant s t f) ↔ Tables s := by
  rfl
@[simp] theorem tables_settingBody {s : State} (h : Tables s) (r : DevReg) (v : DWord) :
    Answers TablesWf (settingBody r v s) := by
  unfold settingBody
  split <;> simp [h]
@[simp] theorem tables_upsetBody {s : State} (h : Tables s) (r : DevReg) (hard : Bool) :
    Answers TablesWf (upsetBody r hard s) := by
  unfold upsetBody
  split
  · rw [answers_some]
    exact tables_modTile h _ fun x hx => by
      split
      · exact hx
      · split <;> exact hx
  all_goals simp [h]
@[simp] theorem tables_registerWriteBody {s : State} (h : Tables s) (r : DevReg) (v : DWord) :
    Answers TablesWf (registerWriteBody r v s) := by
  unfold registerWriteBody
  split <;> simp [h]
@[simp] theorem tables_fleetListBody {s : State} (h : Tables s) (tenant : Nat) (mods : List Nat) :
    Answers TablesWf (fleetListBody tenant mods s) := by
  simp [fleetListBody, h]
@[simp] theorem tables_ringWrite {s : State} (h : Tables s) (t off : Nat) (v : DWord) :
    Oks TablesWf (ringWrite t off v s) := by
  simp [ringWrite, h]
@[simp] theorem tables_deviceRead (va : VA) (s : State) : Oks (fun r => (Tables r.2 ↔ Tables s)) (deviceRead va s) := by
  unfold deviceRead
  dsimp only
  split
  all_goals simp
  refine Oks.of_all fun off => ?_
  split <;> simp
@[simp] theorem tables_deviceWrite {s : State} (h : Tables s) (va : VA) (v : DWord) :
    Oks TablesWf (deviceWrite va v s) := by
  unfold deviceWrite
  dsimp only
  split
  · simp [h]
  · simp [h]
  · rw [oks_bind]
    exact Oks.of_all fun t u hu => by simp [tables_windowWrite _ _ _ _ _ u hu, h]
  · rw [oks_bind]
    exact fun r hr => by simp [tables_deviceRead va s r hr, h]
theorem tables_configRead (va : VA) (n : Nat) (s : State) :
    Oks (fun r => (Tables r.2 ↔ Tables s)) (configRead va n s) := by
  unfold configRead
  split
  · simp
  split
  · simp
  split
  · split
    case h_1 hr => simpa using tables_deviceRead va s _ hr
    · simp
  · simp
theorem tables_configWrite {s : State} (h : Tables s) (va : VA) (data : List (Option Byte)) :
    Oks TablesWf (configWrite va data s) := by
  simp [configWrite, h]

/-! ### Machine/Memory.lean -/

@[simp] theorem tables_metrReply (m : MetrReq) (v : DWord) (s : State) : Tables (metrReply m v s) ↔ Tables s := by
  simp [metrReply]
@[simp] theorem tables_remoteReplyBody {s : State} (h : Tables s) (n : Nat) :
    Answers TablesWf (remoteReplyBody n s) := by
  unfold remoteReplyBody
  repeat' split
  all_goals simp [h]
@[simp] theorem tables_storeAcknowledgeBody {s : State} (h : Tables s) (n : Nat) :
    Answers TablesWf (storeAcknowledgeBody n s) := by
  unfold storeAcknowledgeBody
  refine Answers.of_rest fun f => ?_
  split <;> simp [h]
@[simp] theorem tables_markPerformed (r : Req) (die mod : Bool) (s : State) :
    Tables (markPerformed r die mod s) ↔ Tables s := by
  simp [markPerformed]
@[simp] theorem tables_homeErr (t a : Nat) (e : Trap) (s : State) :
    Tables (homeErr t a e s) ↔ Tables s := by simp [homeErr]
@[simp] theorem tables_performTile {s : State} (h : Tables s) (r : Req) (t : Nat) (g : BitVec 12) (strict : Bool) :
    Tables (performTile r t g strict s).1 := by
  unfold performTile
  dsimp only
  split
  · split <;> simp [h]
  · split
    case h_1 hw => simpa using tables_of_spWrite h hw
    · simp [h]
  · split
    · simp [h]
    · split
      · simp [h]
      · split
        case h_1 hw => simpa using tables_of_spWrite ((tables_correctAt ..).2 h) hw
        · simp [h]
  · exact h
@[simp] theorem tables_farAnswer (r : Req) (s : State) : Tables (farAnswer r s).1 ↔ Tables s := by
  unfold farAnswer
  split <;> simp
@[simp] theorem tables_windowAccess {s : State} (h : Tables s) (r : Req) (dst slot : Nat) :
    Tables (windowAccess r dst slot s).1 := by
  unfold windowAccess
  split
  · simp [h]
  split
  · exact h
  · split <;> simp [h]
theorem tables_configErr {s : State} (h : Tables s) (r : Req) (e : DevErr) : (configErr r s e).Leaves TablesWf := by
  cases e <;> simp [configErr, ConfigEnd.Leaves, h]
theorem oks_tables_configRead {s : State} (h : Tables s) (va : VA) (n : Nat) :
    Oks (fun r => Tables r.2) (configRead va n s) :=
  fun r hr => (tables_configRead va n s r hr).2 h
theorem tables_configAccess {s : State} (h : Tables s) (r : Req) : (configAccess r s).Leaves TablesWf := by
  unfold configAccess
  split
  · split
    case h_1 hr => exact oks_tables_configRead h _ _ _ hr
    · exact tables_configErr h r _
  · split
    case h_1 hw => simpa [ConfigEnd.Leaves] using tables_configWrite h _ _ _ hw
    · exact tables_configErr h r _
  · split
    · exact tables_configErr h r _
    case h_2 old s1 hr =>
      have h1 : Tables s1 := oks_tables_configRead h _ _ _ hr
      dsimp only
      split
      · exact h1
      · split
        case h_1 hw => simpa [ConfigEnd.Leaves] using tables_configWrite h1 _ _ _ hw
        · exact tables_configErr h r _
  · exact h
theorem tables_goesExecHomeNiAccess {s : State} (h : Tables s) (n : Nat) : Goes TablesWf (execHomeNiAccess n s) := by
  unfold execHomeNiAccess
  split
  · simp [h]
  case h_2 f _ =>
    split
    · simp [h]
    · simp [h]
    · simp [h]
    · have hc := tables_configAccess h f.req
      split
      case h_1 hs => simpa [hs, ConfigEnd.Leaves] using hc
      · simp
      · simp
    · simp [h]
@[simp] theorem tables_translate (s : State) (die va : Nat) : Tables (translate s die va).1 ↔ Tables s := by
  fun_cases translate <;> simp
@[simp] theorem tables_portCheck (s : State) (die va tenant : Nat) (amo : Bool) :
    (Tables (portCheck s die va tenant amo).1 ↔ Tables s) := by
  unfold portCheck
  dsimp only
  split
  · simp
  · simp
  · split
    · simp
    · split <;> simp
@[simp] theorem tables_acceptAs (s : State) (n : Nat) (r : Req) (p : Phase) :
    Tables (State.acceptAs s n r p) ↔ Tables s := by
  rfl
@[simp] theorem tables_hostAccept (n : Nat) (r : Req) (s : State) : Tables (hostAccept n r s) ↔ Tables s := by
  unfold hostAccept
  split <;> simp
@[simp] theorem tables_bulkAccept (n : Nat) (r : Req) (s : State) : Tables (bulkAccept n r s) ↔ Tables s := by
  unfold bulkAccept
  dsimp only
  split
  · simp
  · rfl
  · simp
  · split
    · simp
    · split
      · simp
      · split <;> simp
@[simp] theorem tables_entryPortBody {s : State} (h : Tables s) (n : Nat) : Answers TablesWf (entryPortBody n s) := by
  simp [entryPortBody, h]
@[simp] theorem tables_writeBulk {s : State} (h : Tables s) (a : Nat) (data : List (Option Byte)) :
    Tables (writeBulk a data s) :=
  h
@[simp] theorem tables_performBulk {s : State} (h : Tables s) (r : Req) (a : Nat) :
    Tables (performBulk r a s).1 := by
  unfold performBulk
  split
  · split <;> exact h
  · simp [h]
  · split
    · simp [h]
    · dsimp only
      split <;> simp [h]
  · exact h
@[simp] theorem tables_homePortBody {s : State} (h : Tables s) (n : Nat) : Answers TablesWf (homePortBody n s) := by
  unfold homePortBody
  refine Answers.of_rest fun f => ?_
  split <;> simp [h]
@[simp] theorem tables_replicaWriteBody {s : State} (h : Tables s) (n copy : Nat) :
    Answers TablesWf (replicaWriteBody n copy s) := by
  unfold replicaWriteBody
  refine Answers.of_rest fun f => ?_
  split <;> simp [h]
@[simp] theorem tables_pcieCompletionBody {s : State} (h : Tables s) (n : Nat) (ok : Bool) (bytes : List Byte) :
    Answers TablesWf (pcieCompletionBody n ok bytes s) := by
  unfold pcieCompletionBody
  refine Answers.of_rest fun f => ?_
  split <;> simp [h]
@[simp] theorem tables_portRead (s : State) (die va n tenant : Nat) :
    Tables (portRead s die va n tenant).1 ↔ Tables s := by
  unfold portRead
  dsimp only
  split
  · simp
  · split
    · simp
    · split <;> simp
@[simp] theorem tables_portWrite {s : State} (h : Tables s) (die va : Nat) (data : List (Option Byte))
    (tenant : Nat) :
    Tables (portWrite s die va data tenant).1 := by
  unfold portWrite
  dsimp only
  split
  · simp [h]
  · split
    · simp [h]
    · exact tables_foldl_of (by simpa using h) (fun _ _ hs => tables_writeBulk hs _ _) _
@[simp] theorem tables_portDecrement {s : State} (h : Tables s) (die va tenant : Nat) :
    Tables (portDecrement s die va tenant).1 := by
  unfold portDecrement
  dsimp only
  split
  · simp [h]
  · split
    · simp [h]
    · split <;> simp [h]
@[simp] theorem tables_tryOwed {s : State} (h : Tables s) (o : Owed) : Tables (tryOwed o s) := by
  unfold tryOwed
  cases o.val
  all_goals
    dsimp only
    split <;> simp [h]
@[simp] theorem tables_retryOwed {s : State} (h : Tables s) : Tables (retryOwed s) :=
  tables_foldl_of (by exact h) (fun _ o hs => tables_tryOwed hs o) _
@[simp] theorem tables_retryServed {s : State} (h : Tables s) : Tables (retryServed s) :=
  tables_foldl_of (by exact h) (fun _ o hs => tables_tryOwed hs o) _
@[simp] theorem tables_turnWheel {s : State} (h : Tables s) (stack : Nat) : Tables (turnWheel stack s) := by
  fun_cases turnWheel <;> simp [h]
@[simp] theorem tables_serviceSlotWriteBody {s : State} (h : Tables s) (stack ix : Nat) (v : DWord) :
    Answers TablesWf (serviceSlotWriteBody stack ix v s) := by
  simp [serviceSlotWriteBody, h]
@[simp] theorem tables_faultRecordBody {s : State} (h : Tables s) (n : Nat) :
    Answers TablesWf (faultRecordBody n s) := by
  simp [faultRecordBody, h]
@[simp] theorem tables_retryAll (s : State) : Tables (retryAll s) ↔ Tables s := by
  unfold retryAll
  exact and_congr_right fun _ => and_congr_right fun _ => tidies_map fun _ => rfl
@[simp] theorem tables_faultFlushBody {s : State} (h : Tables s) : Answers TablesWf (faultFlushBody s) := by
  simp [faultFlushBody, h]
@[simp] theorem tables_dismissAll (r : FaultRec) (s : State) : Tables (dismissAll r s) ↔ Tables s := by
  unfold dismissAll
  exact and_congr_right fun _ => and_congr_right fun _ => tidies_map fun _ => rfl
@[simp] theorem tables_faultDismissBody {s : State} (h : Tables s) (n : Nat) :
    Answers TablesWf (faultDismissBody n s) := by
  simp [faultDismissBody, h]
@[simp] theorem tables_invalidationBody {s : State} (h : Tables s) (lo hi : VA) :
    Answers TablesWf (invalidationBody lo hi s) := by
  simp [invalidationBody, h]
@[simp] theorem tables_invalidationAckBody {s : State} (h : Tables s) (n : Nat) :
    Answers TablesWf (invalidationAckBody n s) := by
  simp [invalidationAckBody, h]
@[simp] theorem tables_windowBytes (tenant n va : Nat) (s : State) :
    Tables (windowBytes tenant n va s).1 ↔ Tables s := by
  fun_induction windowBytes tenant n va s <;> simp_all +zetaDelta
@[simp] theorem tables_windowStore {s : State} (h : Tables s) (tenant : Nat) (bs : List Byte) (va : Nat) :
    Tables (windowStore tenant bs va s).1 := by
  fun_induction windowStore tenant bs va s <;> simp_all +zetaDelta
@[simp] theorem tables_bulkWindowBody {s : State} (h : Tables s) (vf off n : Nat) (v : Option (List Byte)) :
    Answers TablesWf (bulkWindowBody vf off n v s) := by
  fun_cases bulkWindowBody <;> simp +zetaDelta [h]

/-! ### Machine/Engines.lean -/

@[simp] theorem tables_postPlane (s : State) (t k run : Nat) (e : Trap) :
    Tables (State.postPlane s t k run e) ↔ Tables s := by
  simp [State.postPlane]
@[simp] theorem tables_planeStartBody {s : State} (h : Tables s) (t : Nat) :
    Answers TablesWf (planeStartBody t s) := by
  unfold planeStartBody
  dsimp only
  split
  · split
    · simp
    · rw [answers_some, tablesWf_iff]
      split <;> simp [h]
  · simp
@[simp] theorem tables_pdotAdditionBody {s : State} (h : Tables s) (t : Nat) :
    Answers TablesWf (pdotAdditionBody t s) := by
  simp [pdotAdditionBody, h]
@[simp] theorem tables_packWrites {s : State} (h : Tables s) (t : Nat) (g : BitVec 12) (fuel a : Nat)
    (bs : List Byte) :
    Tables (packWrites t g fuel a bs s).1 := by
  fun_induction packWrites t g fuel a bs s with
  | case1 => exact h
  | case2 => exact h
  | case3 fuel a bs s _ _ s' hs ih => exact ih (tables_of_spWrite h hs)
  | case4 fuel a bs s _ _ e _ r ih => exact ih h
@[simp] theorem tables_packWriteBody {s : State} (h : Tables s) (t : Nat) : Answers TablesWf (packWriteBody t s) := by
  unfold packWriteBody
  dsimp only
  split
  · simp
  · refine Answers.of_rest fun i => ?_
    refine Answers.of_rest fun r => ?_
    split
    · simp [h]
    · rw [answers_some, tablesWf_iff]
      split <;> simp [h]
@[simp] theorem tables_copyStartBody {s : State} (h : Tables s) (bay : Nat) :
    Answers TablesWf (copyStartBody bay s) := by
  unfold copyStartBody
  repeat' split
  all_goals simp [h]
theorem tables_configEnd {α : Type} {s : State} (h : Tables s) {x : Except DevErr (α × State)}
    (hx : Oks (fun r => Tables r.2) x) :
    (configEnd s x).Leaves TablesWf := by
  fun_cases configEnd <;> simp_all [DwEnd.Leaves]
theorem tables_copyReadVa {s : State} (h : Tables s) (c : Copy) (t va : Nat) :
    (copyReadVa c t va s).Leaves TablesWf := by
  have hc := tables_configEnd h (oks_tables_configRead h (BitVec.ofNat 72 va) 8)
  unfold copyReadVa
  extract_lets v e w p
  have hw : Tables w.1 := tables_windowAccess h ..
  have hp : Tables p.1 := by simp [p, h]
  split
  · split
    · exact h
    split
    · exact h
    · split <;> exact hw
  · exact hc
  · exact hc
  · exact h
  · split <;> exact hp
theorem tables_copyWriteVa {s : State} (h : Tables s) (c : Copy) (t va : Nat) (bs : List Byte) :
    (copyWriteVa c t va bs s).Leaves TablesWf := by
  have hu := tables_configWrite h (BitVec.ofNat 72 va) (bs.map some)
  have hc (e : DevErr) : (configEnd s (.error e : Except DevErr (Unit × State))).Leaves TablesWf :=
    tables_configEnd h (oks_error _ e)
  unfold copyWriteVa
  extract_lets v e w p
  have hw : Tables w.1 := tables_windowAccess h ..
  have hp : Tables p.1 := tables_portWrite h ..
  split
  · split
    · exact h
    split
    · exact h
    · split <;> exact hw
  · split
    case h_1 u hs => exact hu u hs
    · exact hc _
  · split
    case h_1 u hs => exact hu u hs
    · exact hc _
  · exact h
  · split <;> exact hp
theorem tables_copyReadLocal {s : State} (h : Tables s) (c : Copy) (t a : Nat) :
    (copyReadLocal c t a s).Leaves TablesWf := by
  fun_cases copyReadLocal <;> simp [DwEnd.Leaves, h]
theorem tables_copyWriteLocal {s : State} (h : Tables s) (c : Copy) (t a : Nat) (bs : List Byte) :
    (copyWriteLocal c t a bs s).Leaves TablesWf := by
  unfold copyWriteLocal
  split
  case h_1 hs => exact tables_of_spWrite h hs
  · exact h
theorem tables_copyRead {s : State} (h : Tables s) (c : Copy) (t i : Nat) : (copyRead c t i s).Leaves TablesWf := by
  unfold copyRead
  dsimp only
  split
  · exact tables_copyReadLocal h _ _ _
  · exact tables_copyReadVa h _ _ _
theorem tables_copyWrite {s : State} (h : Tables s) (c : Copy) (t i : Nat) (bs : List Byte) :
    (copyWrite c t i bs s).Leaves TablesWf := by
  unfold copyWrite
  dsimp only
  split
  · exact tables_copyWriteLocal h _ _ _ _
  · exact tables_copyWriteVa h _ _ _ _
theorem tables_copyScatter {s : State} (h : Tables s) (c : Copy) (t : Nat) (l : List (List Byte)) (i : Nat) :
    (copyScatter c t l i s).Leaves TablesWf := by
  induction l generalizing i s with
  | nil => exact h
  | cons bs rest ih =>
    have hw := tables_copyWrite h c t i bs
    unfold copyScatter
    split <;> simp_all [CopyEnd.Leaves, DwEnd.Leaves]
theorem tables_copyGather {s : State} (h : Tables s) (c : Copy) (t n i : Nat) :
    (copyGather c t n i s).1.Leaves TablesWf := by
  induction n generalizing i s with
  | zero => exact h
  | succ n ih =>
    have hr := tables_copyRead h c t i
    unfold copyGather
    split <;> simp_all [CopyEnd.Leaves, DwEnd.Leaves]
theorem CopyEnd.Leaves.tables_state {s : State} {e : CopyEnd} (he : e.Leaves TablesWf) (h : Tables s) :
    Tables (e.state s) := by
  cases e with
  | done | fail | park | busy => exact he
  | refuse | noUnit => exact h
theorem tables_copyFrom {s : State} (h : Tables s) (c : Copy) (t n i : Nat) :
    (copyFrom c t n i s).Leaves TablesWf := by
  induction n generalizing i s with
  | zero => exact h
  | succ n ih =>
    have hg := tables_copyGather h c t 1 i
    unfold copyFrom
    split
    case h_1 s1 bs hs =>
      rw [hs] at hg
      have hw := tables_copyScatter hg c t bs i
      split
      case h_1 s2 h2 => rw [h2] at hw; exact ih hw _
      · exact hw
    case h_2 hs => rw [hs] at hg; exact hg
theorem tables_copyChunks {s : State} (h : Tables s) (c : Copy) (t fuel n i : Nat) :
    (copyChunks c t fuel n i s).Leaves TablesWf := by
  induction fuel generalizing n i s with
  | zero => exact h
  | succ fuel ih =>
    unfold copyChunks
    split
    · exact h
    extract_lets k g
    have hg : Tables (g.1.state s) := (tables_copyGather h c t k i).tables_state h
    have hw := tables_copyScatter hg c t (overLegs c t s g.2) i
    split
    · trivial
    · trivial
    · split
      case h_1 s2 h2 =>
        rw [h2] at hw
        split
        · exact ih hw _ _
        · exact CopyEnd.leaves_withState hw _
      · exact hw
theorem tables_copyRest {s : State} (h : Tables s) (c : Copy) (t : Nat) : (copyRest c t s).Leaves TablesWf := by
  unfold copyRest
  dsimp only
  split
  · exact tables_copyChunks h ..
  · exact tables_copyFrom h ..
@[simp] theorem tables_copyDone (c : Copy) (t status va : Nat) (s : State) :
    Tables (copyDone c t status va s) ↔ Tables s := by
  simp [copyDone]
@[simp] theorem tables_copyPark (c : Copy) (t level va pos : Nat) (write : Bool) (s : State) :
    Tables (copyPark c t level va pos write s) ↔ Tables s := by
  simp [copyPark]
theorem tables_goesOfCopy {c : Copy} {t : Nat} {e : CopyEnd} (he : e.Leaves TablesWf) :
    Goes TablesWf (Step.ofCopy c t e) := by
  cases e <;> simp_all [CopyEnd.Leaves, Step.ofCopy]
theorem tables_copySend (c : Copy) (t : Nat) (data : List (List Byte)) (s : State) :
    (Tables ((copySend c t data s).2) ↔ Tables s) := by
  unfold copySend
  dsimp only
  split <;> rfl
theorem tables_goesFarCopy {s : State} (h : Tables s) (c : Copy) (t : Nat) : Goes TablesWf (farCopy c t s) := by
  unfold farCopy
  split
  · split <;> simp [h]
  split
  · simp [h]
  extract_lets n g r
  have hg : Tables (g.1.state s) := (tables_copyGather h c t n c.pos).tables_state h
  have hr : Tables r.2 := by simpa [r, tables_copySend] using hg
  split
  · simp [hr]
  · exact tables_goesOfCopy (CopyEnd.leaves_withState hr _)
theorem tables_goesExecCopyCompletion {s : State} (h : Tables s) (t : Nat) :
    Goes TablesWf (execCopyCompletion t s) := by
  unfold execCopyCompletion
  split
  · simp
  split
  · simp [h]
  split
  · simp [h]
  split
  · simp [h]
  split
  · exact tables_goesFarCopy h _ _
  · exact tables_goesOfCopy (tables_copyRest h ..)
@[simp] theorem tables_setBin (s : State) (g bin : Nat) (b : Bin) : Tables (State.setBin s g bin b) ↔ Tables s := by rfl
@[simp] theorem tables_binGrantBody {s : State} (h : Tables s) (g bin tenant : Nat) :
    Answers TablesWf (binGrantBody g bin tenant s) := by
  simp [binGrantBody, h]
@[simp] theorem tables_binAdvanceBody {s : State} (h : Tables s) (g tenant : Nat) :
    Answers TablesWf (binAdvanceBody g tenant s) := by
  simp [binAdvanceBody, h]
@[simp] theorem tables_granDone (n : Nat) (r : GranReq) (status : Nat) (s : State) :
    Tables (granDone n r status s) ↔ Tables s := by
  simp [granDone]
@[simp] theorem tables_meterBin (tenant n : Nat) (s : State) : Tables (meterBin tenant n s) ↔ Tables s := by rfl
theorem tables_slabRead {s : State} (h : Tables s) (r : GranReq) (n va : Nat) :
    (slabRead r n va s).1.Leaves TablesWf := by
  induction n generalizing va s with
  | zero => exact h
  | succ n ih =>
    have hc := tables_copyReadVa h r.asCopy r.tile va
    unfold slabRead
    split
    case h_1 bs s1 hs =>
      rw [hs] at hc
      have hr := ih hc (va + 8)
      split
      case h_1 hs2 => rw [hs2] at hr; exact hr
      · exact hr
    · exact hc
theorem tables_goesLoadBin {s : State} (h : Tables s) (n : Nat) (r : GranReq) : Goes TablesWf (loadBin n r s) := by
  have hr := tables_slabRead h r (slabRows r * granRow (slabType r) / 8) (slabVa r)
  unfold loadBin
  dsimp only
  split <;> simp_all [DwEnd.Leaves]
theorem tables_goesExecGranaryLoad {s : State} (h : Tables s) (n : Nat) : Goes TablesWf (execGranaryLoad n s) := by
  unfold execGranaryLoad
  split
  · simp [h]
  · simp [h, tables_goesLoadBin h]
@[simp] theorem tables_computeBin {s : State} (h : Tables s) (n : Nat) (r : GranReq) :
    Tables (computeBin n r s) := by
  fun_cases computeBin <;> simp +zetaDelta [h]
@[simp] theorem tables_granaryComputeBody {s : State} (h : Tables s) (n : Nat) :
    Answers TablesWf (granaryComputeBody n s) := by
  simp [granaryComputeBody, h]
@[simp] theorem tables_combineForwardBody {s : State} (h : Tables s) (n : Nat) :
    Answers TablesWf (combineForwardBody n s) := by
  unfold combineForwardBody
  refine Answers.of_rest fun w => ?_
  refine Answers.of_rest fun l => ?_
  dsimp only
  split <;> simp [h]
@[simp] theorem tables_dropWaves (s : State) : Tables (dropWaves s) ↔ Tables s := by rfl
@[simp] theorem tables_collectiveResultBody {s : State} (h : Tables s) (t k : Nat) :
    Answers TablesWf (collectiveResultBody t k s) := by
  simp [collectiveResultBody, h]

/-! ### Machine/Repoint.lean -/

@[simp] theorem tables_mapTiles (s : State) (f : Tile → Tile) (hf : ∀ tl, (f tl).tags = tl.tags) :
    Tables (State.mapTiles s f) ↔ Tables s := by
  refine and_congr_right fun _ => and_congr ?_ (tidies_filterMap hf)
  rw [State.mapTiles, hf]
@[simp] theorem tables_loseReq (r : Req) (s : State) : Tables (loseReq r s) ↔ Tables s := by
  unfold loseReq
  split <;> simp
@[simp] theorem tables_loseHeld (keys : List Nat) (s : State) :
    Tables (loseHeld keys s) ↔ Tables s := by simp [loseHeld]
@[simp] theorem tables_killCircuits {s : State} (h : Tables s) (keys : List Nat) : Tables (killCircuits keys s) := by
  unfold killCircuits
  split
  · exact h
  · exact (tables_loseHeld ..).2 (tables_foldl_of h (fun _ key hu => tables_killCircuit hu key) keys)
@[simp] theorem tables_setPark {s : State} (h : Tables s) (park : Bool) (key : Nat) : Tables (setPark park key s) :=
  tables_setCircuit ((tables_writeEntries s _).2 h) key _
@[simp] theorem tables_deliverWords {s : State} (h : Tables s) (key : Nat) : Tables (deliverWords key s) :=
  tables_foldl_of (by exact h) (fun _ w hu => tables_wordArrives hu w) _
@[simp] theorem tables_parkInto {s : State} (h : Tables s) (lid : BitVec 29) (tiles : List Nat) :
    Tables (parkInto lid tiles s) := by
  refine tables_foldl_of h (fun _ key hu => ?_) _
  exact tables_setCircuit (tables_setPark (tables_deliverWords hu key) true key) _ _
@[simp] theorem tables_setTransit (on : Bool) (tiles : List Nat) (s : State) :
    Tables (setTransit on tiles s) ↔ Tables s := by
  simp [setTransit]
@[simp] theorem tables_sleepFrom {s : State} (h : Tables s) (lid : BitVec 29) (tiles : List Nat) :
    Tables (sleepFrom lid tiles s) := by
  refine tables_circuits h (wfFrom_map (fun e => ?_) (fun e he => ?_) h.1.1)
  · split <;> rfl
  · split
    · exact fun hn => Bool.noConfusion (congrArg Circuit.asleep hn)
    · exact he
theorem tables_replant {s : State} (h : Tables s) (m : Move) (key : Nat) (c : Circuit) :
    Answers (fun r => Tables r.1) (replant m key c s) := by
  unfold replant
  dsimp only
  split
  · simp
  · have hc (es : List (Nat × Word)) (k : Nat) (x : Circuit) : Tables ((s.writeEntries es).setCircuit k x) :=
      tables_setCircuit ((tables_writeEntries s es).2 h) k x
    have hp (b : Bool) (k j : Nat) (es : List (Nat × Word)) (x : Circuit) :
        Tables (if b then setPark true k ((s.writeEntries es).setCircuit j x)
          else (s.writeEntries es).setCircuit j x) := by
      cases b
      · exact hc es j x
      · exact tables_setPark (hc es j x) true k
    refine Answers.of_rest fun _ => ?_
    split
    all_goals exact Answers.of_rest fun cid => Answers.of_rest fun bs => (answers_some ..).2 (hp ..)
theorem tables_replantAll {s : State} (h : Tables s) (m : Move) (l : List (Nat × Circuit)) :
    Oks (fun r => Tables r.1) (replantAll m l s) := by
  induction l generalizing s with
  | nil => simp [replantAll, h]
  | cons kc r ih =>
    unfold replantAll
    split
    · simp
    case h_2 x hx =>
      have h1 := tables_replant h m kc.1 kc.2 x hx
      split
      · simp
      case h_2 y hy => simpa using ih h1 y hy
theorem tables_repoint {s : State} (h : Tables s) (m : Move) : Oks (fun r => Tables r.1) (repoint m s) := by
  have hu := tables_foldl_of h (fun _ k hu => tables_uproot hu k) (sleepingCircuits s m.lid)
  unfold repoint
  dsimp only
  split
  · simp
  case h_2 s1 ks hs => simpa using tables_replantAll hu m _ _ hs
@[simp] theorem tables_plantChain {s : State} (h : Tables s) (tenant : Nat) (tiles : List Nat) :
    Answers TablesWf (plantChain tenant tiles s) := by
  unfold plantChain
  repeat' split
  all_goals simp [h]
@[simp] theorem tables_plantLevel {s : State} (h : Tables s) (tenant : Nat) (ls : List Level) (ths : List Thread)
    (k : Nat) :
    Answers TablesWf (plantLevel tenant ls ths k s) :=
  answers_foldlM (fun _ _ hs => tables_plantChain hs _ _) _ h
@[simp] theorem tables_uprootOwn {s : State} (h : Tables s) (tiles : List Nat) : Tables (uprootOwn tiles s) :=
  tables_foldl_of h (fun _ key hu => tables_uproot hu key) _

/-! ### Machine/Grant.lean -/

@[simp] theorem tables_modLaunch (s : State) (lid : BitVec 29) (f : Launch → Launch) :
    Tables (State.modLaunch s lid f) ↔ Tables s := by
  rfl
@[simp] theorem tables_dropLaunch (s : State) (lid : BitVec 29) : Tables (State.dropLaunch s lid) ↔ Tables s := by rfl
@[simp] theorem tables_storeDone {s : State} (h : Tables s) (q : Option Nat) (tenant done : Nat)
    (val : Option DWord) :
    Tables (storeDone q tenant done val s) := by
  unfold storeDone
  split <;> simp [h]
@[simp] theorem tables_faultRecord {s : State} (h : Tables s) (l : Launch) (code : Nat) :
    Tables (faultRecord l code s) := by
  simp [faultRecord, h]
@[simp] theorem tables_flushCounts (t : Nat) (s : State) : Tables (flushCounts t s) ↔ Tables s := by
  unfold flushCounts
  dsimp only
  split <;> simp
@[simp] theorem tables_freeBay {s : State} (h : Tables s) (bay : Nat) : Tables (freeBay s bay) := by simp [freeBay, h]
@[simp] theorem tables_dropWork {s : State} (h : Tables s) (lid : BitVec 29) (tiles : List Nat) :
    Tables (dropWork lid tiles s) := by
  simp [dropWork, h]
@[simp] theorem tables_leaveBays {s : State} (h : Tables s) (l : Launch) : Tables (leaveBays l s) := by
  unfold leaveBays
  extract_lets s1 s2 s3
  have h1 : Tables s1 := by simpa [s1] using h
  have h2 : Tables s2 := tables_dropWork (by simpa using h1) l.lid l.tiles
  have h3 : Tables s3 := tables_killCircuits (tables_uprootOwn h2 l.tiles) _
  exact tables_foldl_of (by simpa using h3) (fun _ bay hu => tables_freeBay hu bay) l.bays
@[simp] theorem tables_endRotation (bays : List Nat) (s : State) : Tables (endRotation bays s) ↔ Tables s := by
  simp [endRotation]
@[simp] theorem tables_countKept (l : Launch) (s : State) : Tables (countKept l s) ↔ Tables s := by rfl
@[simp] theorem tables_abortLaunch {s : State} (h : Tables s) (l : Launch) (code : Nat) :
    Tables (abortLaunch l code s) := by
  unfold abortLaunch
  extract_lets held s0 s1
  have h0 : Tables s0 := (tables_endRotation ..).2 (tables_killCircuits ((tables_countKept l s).2 h) _)
  have h1 : Tables s1 := by
    dsimp only [s1]
    split
    · exact tables_foldl_of (by exact h0) (fun _ bay hu => tables_freeBay hu bay) held
    · exact tables_leaveBays h0 _
  exact tables_faultRecord h1 l code
@[simp] theorem tables_beginSave {s : State} (h : Tables s) (l : Launch) : Tables (beginSave l s) := by
  unfold beginSave
  split
  · extract_lets s1 s2
    have h2 : Tables s2 := (tables_setTransit ..).2 (tables_parkInto (by exact h) _ _)
    simpa using h2
  · exact h
@[simp] theorem tables_choosePlace (l : Launch) (ths : List Thread) (s : State) :
    Tables (choosePlace l ths s) ↔ Tables s := by
  simp [choosePlace]
@[simp] theorem tables_placeToFault (l : Launch) (s : State) : Tables (placeToFault l s) ↔ Tables s := by rfl
@[simp] theorem tables_parkLaunch (l : Launch) (die k va : Nat) (kind : BitVec 4) (s : State) :
    Tables (parkLaunch l die k va kind s) ↔ Tables s := by
  simp [parkLaunch]
theorem tables_repointFit {s : State} (h : Tables s) (l : Launch) (ls : List Level) (ths : List Thread) :
    Oks (fun r => Tables r.1) (repointFit l ls ths s) := by
  unfold repointFit
  split
  · simp
  case h_2 r hr =>
    split
    · simp
    · simpa using tables_repoint h _ r hr
@[simp] theorem tables_select {s : State} (h : Tables s) (boundary : Bool) (l : Launch) (ls : List Level)
    (victims : List (BitVec 29)) : Tables (select boundary l ls s victims).1 := by
  fun_cases select
  case case5 vs _ _ => exact tables_foldl_of (by simpa using h) (fun _ v hu => tables_beginSave hu v) vs
  all_goals simp +zetaDelta [h]
theorem tables_offer (boundary : Bool) (acc : State × List (BitVec 29)) (h : Tables acc.1) (lid : BitVec 29) :
    Tables (offer boundary acc lid).1 := by
  fun_cases offer <;> simp +zetaDelta [h]
@[simp] theorem tables_loadLoft {s : State} (h : Tables s) (hdr code : List Byte) (bay : Nat) :
    Tables (loadLoft hdr code bay s) := by
  rw [loadLoft, tables_foldl (by simp)]
  exact h
@[simp] theorem tables_rotateBay (s : State) (bay : Nat) : Tables (rotateBay s bay) ↔ Tables s := by simp [rotateBay]
@[simp] theorem tables_rotateStep {s : State} (h : Tables s) (l : Launch) (fits : State → Bool) :
    Answers TablesWf (rotateStep l fits s) := by
  unfold rotateStep
  split <;> simp [h]
@[simp] theorem tables_loadBay {s : State} (h : Tables s) (l : Launch) (bay : Nat) : Tables (loadBay l s bay) := by
  unfold loadBay
  extract_lets s1
  split
  · exact h
  · exact tables_plantMemory (by exact h) _ _
@[simp] theorem tables_loadTile {s : State} (h :
    Tables s) (l : Launch) (hdr : List Byte) (ls : List Level) (combs : List (BitVec 4))
    (ths : List Thread) (t : Nat) :
    Tables (loadTile l hdr ls combs ths s t) :=
  tables_setTile h t (tidy_allocateSwept (tidy_getTile h t))
@[simp] theorem tables_loadArgs {s : State} (h : Tables s) (args : List Byte) (t : Nat) :
    Tables (loadArgs args s t) := by
  rw [loadArgs]
  exact tables_setTile (by exact h) t (tidy_setTag (tidy_getTile h t) _ _)
@[simp] theorem tables_plantCombs {s : State} (h : Tables s) (tenant : Nat) (ls : List Level) (ths : List Thread)
    (ks : List (BitVec 4)) :
    Tables (plantCombs tenant ls ths ks s).1 := by
  induction ks generalizing s with
  | nil => exact h
  | cons k r ih =>
    have hp := tables_plantLevel h tenant ls ths k.toNat
    unfold plantCombs
    split
    case h_1 s1 hs => exact ih (hp s1 hs)
    · exact ih h
@[simp] theorem tables_plantOwn {s : State} (h : Tables s) (l : Launch) (ls : List Level) (ths : List Thread) :
    Tables (plantOwn l ls ths s).1 := by
  refine tables_plantCombs (tables_foldl_of h (fun u t hu => ?_) _) _ _ _ _
  split
  · exact tables_plantGranary hu _ _
  · exact hu
@[simp] theorem tables_loadBays {s : State} (h : Tables s) (l : Launch) (hdr code : List Byte) (ls : List Level)
    (ths : List Thread) :
    Tables (loadBays l hdr code ls ths s).1 :=
  tables_plantOwn (tables_foldl_of h (fun _ b hs => tables_loadLoft (tables_loadBay hs l b) hdr code b) _) l ls ths

/-! ### Machine/Hub.lean -/

@[simp] theorem tables_countRefused (q : Nat) (s : State) :
    Tables (countRefused q s) ↔ Tables s := by simp [countRefused]
@[simp] theorem tables_submit {s : State} (h : Tables s) (q vf : Nat) (dw : Vector DWord 8) :
    Tables (submit q vf dw s).1 := by
  unfold submit
  dsimp only
  split <;> simp [h]
@[simp] theorem tables_submissionBody {s : State} (h : Tables s) (src : SubSource) :
    Answers TablesWf (submissionBody src s) := by
  unfold submissionBody
  split
  · simp [h]
  · split
    · simp [h]
    · split
      · simp [h]
      · split <;> simp [h]
  · simp [h]
  · simp [h]
@[simp] theorem tables_launchRecordBody {s : State} (h : Tables s) (n : Nat) :
    Answers TablesWf (launchRecordBody n s) := by
  simp [launchRecordBody, h]
@[simp] theorem tables_queueDispatchBody {s : State} (h : Tables s) (q : Nat) :
    Answers TablesWf (queueDispatchBody q s) := by
  simp [queueDispatchBody, h]
@[simp] theorem tables_readSignals {s : State} (h : Tables s) (l : Launch) (i : Nat) (vas : List Nat) :
    Tables (readSignals l i vas s) := by
  fun_induction readSignals l i vas s <;> simp_all
@[simp] theorem tables_signalReadBody {s : State} (h : Tables s) (lid : Nat) :
    Answers TablesWf (signalReadBody lid s) := by
  unfold signalReadBody
  refine Answers.of_rest fun l => ?_
  split
  · simp
  · split
    · simp [h]
    · dsimp only
      split <;> simp [h]
@[simp] theorem tables_gains (s : State) : Tables (gains s) ↔ Tables s := by simp [gains]
theorem tables_offerAll (boundary : Bool) (lids : List (BitVec 29)) {acc : State × List (BitVec 29)}
    (h : Tables acc.1) : Tables (lids.foldl (offer boundary) acc).1 := by
  induction lids generalizing acc with
  | nil => exact h
  | cons lid r ih => exact ih (tables_offer boundary acc h lid)
@[simp] theorem tables_sliceBoundaryBody {s : State} (h : Tables s) : Answers TablesWf (sliceBoundaryBody s) := by
  rw [sliceBoundaryBody, answers_some]
  exact tables_offerAll true _ (by simp [h])
@[simp] theorem tables_budgetExhaustionBody {s : State} (h : Tables s) (tenant : Nat) :
    Answers TablesWf (budgetExhaustionBody tenant s) := by
  rw [budgetExhaustionBody, answers_ite]
  split
  · exact (answers_some ..).2 (tables_foldl_of h (fun _ l hu => tables_beginSave hu l) _)
  · simp
@[simp] theorem tables_installLaunch {s : State} (h : Tables s) (l : Launch) (hdr code : List Byte)
    (ls : List Level) (ths : List Thread) (args : List Byte) :
    Tables (installLaunch l hdr code ls ths args s) := by
  rw [installLaunch, tables_modLaunch]
  have hb := tables_loadBays h l hdr code ls ths
  exact tables_foldl_of (tables_foldl_of hb (fun _ t hu => tables_loadTile hu l hdr ls _ ths t) _)
    (fun _ t hs => tables_loadArgs hs args t) _
@[simp] theorem tables_placeFresh {s : State} (h : Tables s) (l : Launch) : Answers TablesWf (placeFresh l s) := by
  have hr := tables_rotateStep h l (fun _ => true)
  unfold placeFresh
  split
  · simp
  split
  · simp [h]
  split
  · simp [h]
  · simp [h]
  · simp
  · split
    · rw [answers_some]
      split
      case h_1 s1 hs => exact hr s1 hs
      · exact tables_installLaunch h ..
    · simp [h]
@[simp] theorem tables_placementBody {s : State} (h : Tables s) (lid : Nat) :
    Answers TablesWf (placementBody lid s) := by
  unfold placementBody
  refine Answers.of_rest fun l => ?_
  split
  · rw [answers_some]
    exact tables_offer false (s, []) h l.lid
  · simp [h]
  · simp
@[simp] theorem tables_releaseTile {s : State} (h : Tables s) (l : Launch) (t : Nat) : Tables (releaseTile l t s) := by
  refine tables_modTile h t fun tl ht => ?_
  split
  · rwa [tags_foldl fun _ _ => tags_setSlot ..]
  · exact ht
@[simp] theorem tables_launchReleaseBody {s : State} (h : Tables s) (lid t : Nat) :
    Answers TablesWf (launchReleaseBody lid t s) := by
  simp [launchReleaseBody, h]
@[simp] theorem tables_launchCompletionBody {s : State} (h : Tables s) (lid : Nat) :
    Answers TablesWf (launchCompletionBody lid s) := by
  simp [launchCompletionBody, h]
@[simp] theorem tables_launchAbortBody {s : State} (h : Tables s) (lid : Nat) :
    Answers TablesWf (launchAbortBody lid s) := by
  simp [launchAbortBody, h]
@[simp] theorem tables_meterFlushBody {s : State} (h : Tables s) (t : Nat) :
    Answers TablesWf (meterFlushBody t s) := by
  simp [meterFlushBody, h]
@[simp] theorem tables_metrSampleBody {s : State} (h : Tables s) (n : Nat) :
    Answers TablesWf (metrSampleBody n s) := by
  simp [metrSampleBody, h]
@[simp] theorem tables_tenantDeletionBody {s : State} (h : Tables s) (tenant : Nat) :
    Answers TablesWf (tenantDeletionBody tenant s) := by
  simp [tenantDeletionBody, h]

/-! ### Machine/Save.lean -/

@[simp] theorem tables_tileSaved {s : State} (h : Tables s) (l : Launch) (t ix : Nat) :
    Tables (tileSaved l t ix s) := by
  unfold tileSaved
  extract_lets g kept lost s1 s2 s3
  have h3 : Tables s3 := by simpa [s3, s2, s1] using h
  split
  · exact tables_uprootMemory h3 _
  · exact h3
@[simp] theorem tables_portWriteSpan {s : State} (h : Tables s) (die tenant : Nat) (ds : List DWord) (va : Nat) :
    Tables (portWriteSpan die tenant ds va s).1 := by
  fun_induction portWriteSpan die tenant ds va s <;> simp_all +zetaDelta
@[simp] theorem tables_tileSaveBody {s : State} (h : Tables s) (t : Nat) : Answers TablesWf (tileSaveBody t s) := by
  unfold tileSaveBody
  refine Answers.of_rest fun x => ?_
  refine Answers.of_rest fun l => ?_
  split
  · simp
  split
  · simp [h]
  split
  · simp
  split
  · simp [h]
  · dsimp only
    split <;> simp [h]
@[simp] theorem tables_saveCompleteBody {s : State} (h : Tables s) (lid : Nat) :
    Answers TablesWf (saveCompleteBody lid s) := by
  unfold saveCompleteBody
  refine Answers.of_rest fun l => ?_
  split
  · extract_lets s0 s1
    have h0 : Tables s0 := (tables_foldl (fun u t => tables_flushCounts t u) _ _).2
      (tables_sleepFrom (tables_uprootOwn h l.tiles) l.lid l.tiles)
    have h1 : Tables s1 := tables_clearLinks h0 l.tiles.contains
    exact (answers_some ..).2 (tables_foldl_of h1 (fun _ bay hu => tables_freeBay hu bay) l.bays)
  · simp
@[simp] theorem tables_restoreChannel {s : State} (h : Tables s) (t : Nat) (im : Image) (k : Nat) (c : Nat) :
    Tables (restoreChannel t im k s c) := by
  unfold restoreChannel
  extract_lets b w ch words s1
  have h1 : Tables s1 := by
    dsimp only [s1]
    split
    · exact tables_setCircuit h _ _
    · exact tables_setLink h _ _ _
    · exact h
  split
  · exact tables_setCircuit h1 _ _
  · exact tables_setLink h1 _ _ _
  · exact h1
@[simp] theorem tables_restoreGranules {s : State} (h : Tables s) (t : Nat) (gen : BitVec 12) (gs : List Nat)
    (bs : List Byte) :
    Tables (restoreGranules t gen gs bs s) := by
  induction gs generalizing bs s with
  | nil => exact h
  | cons g r ih =>
    rw [restoreGranules]
    refine ih (tables_modTile (by exact h) t fun _ ht => ?_) _
    exact tidy_setTag ht g gen
@[simp] theorem tables_restoreTile {s : State} (h : Tables s) (ks : List (Nat × Nat)) (l : Launch)
    (combs : List (BitVec 4)) (ix t : Nat) (im : Image) :
    Tables (restoreTile ks l combs ix t im s) := by
  unfold restoreTile
  extract_lets s1 gen s2 tl aw cmds kp half tl1 s3 s4
  have h1 : Tables s1 := tables_loadTile h l l.hdr l.levels combs l.threads t
  clear_value s1
  have h2 : Tables s2 := by
    simp only [s2]
    exact tables_restoreGranules h1 t gen im.live im.grans
  have ht : TidyTags tl1.tags := tidy_getTile h2 t
  clear_value tl1
  have h3 : Tables s3 := tables_setTile h2 t ht
  have h4 : Tables s4 := by
    cases hk : kp with
    | some x =>
      simp only [s4, hk]
      exact tables_foldl_of h3 (fun _ dl hu => tables_setLink hu t _ dl.2) _
    | none =>
      simp only [s4, hk]
      exact h3
  exact tables_foldl_of h4 (fun _ k hu => tables_foldl_of hu (fun _ c hv => tables_restoreChannel hv t im k c) _) _
@[simp] theorem tables_restoreTiles {s : State} (h : Tables s) (ks : List (Nat × Nat)) (l : Launch)
    (combs : List (BitVec 4)) (ix : Nat) (ts : List Nat) (ims : List Image) :
    Tables (restoreTiles ks l combs ix ts ims s) := by
  fun_induction restoreTiles ks l combs ix ts ims s with
  | case1 ix t ts im ims s ih => exact ih (tables_restoreTile h ks l combs ix t im)
  | case2 => exact h
@[simp] theorem tables_resumeLaunch {s : State} (h : Tables s) (l : Launch) (ks : List (Nat × Nat))
    (ims : List Image) :
    Tables (resumeLaunch l ks ims s) := by
  unfold resumeLaunch
  extract_lets b s3
  have hb : Tables b.1 := tables_loadBays (by exact h) ..
  have h3 : Tables s3 := tables_settleLinks (tables_restoreTiles hb ..) _
  simpa using h3
@[simp] theorem tables_plantBays {s : State} (h : Tables s) (l : Launch) : Tables (plantBays l s) := by
  refine tables_foldl_of h (fun u b hu => ?_) _
  split
  · exact tables_plantMemory hu _ _
  · exact hu
@[simp] theorem tables_resumptionBody {s : State} (h : Tables s) (lid : Nat) :
    Answers TablesWf (resumptionBody lid s) := by
  unfold resumptionBody
  refine Answers.of_rest fun l => ?_
  split
  · simp
  split
  · simp [h]
  split
  case h_1 s1 hs => simpa using tables_rotateStep h l (resumeFits l) s1 hs
  · split
    · simp [h]
    · split
      · simp [h]
      · simp
      · simp [h]
      · have hm := tables_repointFit h l l.levels l.threads
        cases hx : repointFit l l.levels l.threads s with
        | error e => simp [Except.toOption]
        | ok r => simpa [Except.toOption] using tables_resumeLaunch (hm r hx) l r.2 _

/-! ### Machine/Fabric.lean -/

@[simp] theorem tables_loseRequests (x : Loss) (s : State) :
    Tables (loseRequests x s) ↔ Tables s := by simp [loseRequests]
@[simp] theorem tables_loseCopies (x : Loss) (s : State) : Tables (loseCopies x s) ↔ Tables s := by
  refine tables_foldl (fun s t => ?_) _ s
  dsimp only
  rw [tables_foldl (by simp)]
  split
  · split <;> simp
  · simp
@[simp] theorem tables_loseStreams (x : Loss) (s : State) : Tables (loseStreams x s) ↔ Tables s := by rfl
@[simp] theorem tables_loseRanks (lost : Nat → Bool) (s : State) : Tables (loseRanks lost s) ↔ Tables s := by
  simp [loseRanks]
@[simp] theorem tables_trimRanks (s : State) : Tables (trimRanks s) ↔ Tables s := by simp [trimRanks]
@[simp] theorem tables_loseJoins (keys : List Nat) (s : State) : Tables (loseJoins keys s) ↔ Tables s := by rfl
@[simp] theorem tables_suffer {s : State} (h : Tables s) (x : Loss) (ranks : Nat → Bool) :
    Tables (suffer x ranks s) := by
  unfold suffer
  have hk : Tables (x.keys.foldl killCircuit (loseStreams x (loseCopies x (loseJoins x.keys s)))) :=
    tables_foldl_of (by simpa using h) (fun _ key hu => tables_killCircuit hu key) x.keys
  simpa using hk
@[simp] theorem tables_modCrossing (die e : Nat) (f : LinkStat → LinkStat) (s : State) :
    Tables (modCrossing die e f s) ↔ Tables s := by
  unfold modCrossing
  split <;> simp
@[simp] theorem tables_resetWhere {s : State} (h : Tables s) (p : Nat → Bool) : Tables (State.resetWhere p s) := by
  have h1 := tables_clearLinks h p
  obtain ⟨-, hg, ho⟩ := h
  refine ⟨h1.1, ?_, fun kt hk => ?_⟩
  · unfold State.resetWhere
    dsimp only
    split
    · rfl
    · exact hg
  · obtain ⟨e, he, rfl⟩ := List.mem_map.1 hk
    split
    · rfl
    · exact ho e he
@[simp] theorem tables_handDrains (die : Nat) (s : State) : Tables (handDrains die s) ↔ Tables s := by simp [handDrains]
@[simp] theorem tables_dropFar (die : Nat) (s : State) : Tables (dropFar die s) ↔ Tables s := by rfl
@[simp] theorem tables_clearDieWork {s : State} (h : Tables s) (die : Nat) : Tables (clearDieWork die s) := by
  simp [clearDieWork, h]
@[simp] theorem tables_loseDie {s : State} (h : Tables s) (d : Nat) : Tables (loseDie d s) := by
  simp [loseDie, h]
@[simp] theorem tables_loseCrossing {s : State} (h : Tables s) (die e : Nat) : Tables (loseCrossing die e s) := by
  unfold loseCrossing
  split
  · exact tables_suffer ((tables_modCrossing ..).2 h) _ _
  · exact h
@[simp] theorem tables_loseModule {s : State} (h : Tables s) (m : Nat) : Tables (loseModule m s) :=
  tables_suffer h _ _
@[simp] theorem tables_loseSpline {s : State} (h : Tables s) (p : Nat) : Tables (loseSpline p s) :=
  tables_suffer (by exact h) _ _
@[simp] theorem tables_targetLossBody {s : State} (h : Tables s) (x : LostTarget) :
    Answers TablesWf (targetLossBody x s) := by
  unfold targetLossBody
  split <;> simp [h]
@[simp] theorem tables_loadBayMap (die : Nat) (s : State) : Tables (loadBayMap die s) ↔ Tables s := by simp [loadBayMap]
@[simp] theorem tables_dieResetBody {s : State} (h : Tables s) (die : Nat) :
    Answers TablesWf (dieResetBody die s) := by
  simp [dieResetBody, h]
@[simp] theorem tables_resetTiles {s : State} (h : Tables s) (bays : List Nat) :
    Tables (resetTiles bays s) := by
  simp [resetTiles, h]
@[simp] theorem tables_loseInBays (bays : List Nat) (s : State) :
    Tables (loseInBays bays s) ↔ Tables s := by simp [loseInBays]
@[simp] theorem tables_partitionResetBody {s : State} (h : Tables s) (tenant : Nat) :
    Answers TablesWf (partitionResetBody tenant s) := by
  have ha := tables_foldl_of h (fun _ l hs => tables_abortLaunch hs l 0x46) (holders s (s.getTenant tenant).part)
  rw [partitionResetBody, answers_some, tablesWf_iff, tables_foldl (by simp)]
  refine tables_resetTiles ?_ _
  rw [tables_loseInBays]
  exact tables_foldl_of ha (fun _ key hu => tables_killCircuit hu key) _
@[simp] theorem tables_flrRecord {s : State} (h : Tables s) (l : Launch) : Tables (flrRecord l s) := by
  have ha := tables_abortLaunch h l 0x46
  unfold flrRecord
  split
  · exact tables_resetTiles ((tables_loseInBays ..).2 ha) _
  · exact ha
  · exact ha
  split
  · exact ha
  · have hd : Tables (endRotation (l.remap.getD []) (s.dropLaunch l.lid)) := by simpa using h
    exact tables_storeDone (tables_foldl_of hd (fun _ bay hu => tables_freeBay hu bay) _) _ _ _ _
@[simp] theorem tables_functionResetBody {s : State} (h : Tables s) (vf : Nat) :
    Answers TablesWf (functionResetBody vf s) := by
  rw [functionResetBody, answers_some]
  exact tables_foldl_of (by exact h) (fun _ l hs => tables_flrRecord hs l) _
@[simp] theorem tables_crossingCalibrationBody {s : State} (h : Tables s) (die e : Nat) (ok : Bool) :
    Answers TablesWf (crossingCalibrationBody die e ok s) := by
  simp [crossingCalibrationBody, h]
@[simp] theorem tables_splineExchangeBody {s : State} (h : Tables s) (p t1 t2 t3 t4 : Nat) (offset : BitVec 6) :
    Answers TablesWf (splineExchangeBody p t1 t2 t3 t4 offset s) := by
  simp [splineExchangeBody, h]
@[simp] theorem tables_startRetirement (bay : Nat) (s : State) : Tables (startRetirement bay s) ↔ Tables s := by
  simp [startRetirement]
@[simp] theorem tables_retireBay {s : State} (h : Tables s) (bay : Nat) : Tables (retireBay bay s) := by
  simp [retireBay, h]
@[simp] theorem tables_bayRetirementBody {s : State} (h : Tables s) (bay : Nat) :
    Answers TablesWf (bayRetirementBody bay s) := by
  unfold bayRetirementBody
  repeat' split
  all_goals simp [h]
@[simp] theorem tables_packetWrite {s : State} (h : Tables s) (tenant : Nat) (va : VA) (bs : List Byte) :
    Tables (packetWrite tenant va bs s) := by
  unfold packetWrite
  dsimp only
  split
  · split
    case h_1 hs => exact tables_of_spWrite h hs
    · exact h
  · exact h
@[simp] theorem tables_packetWrites {s : State} (h : Tables s) (tenant n : Nat) (va : VA) (bs : List Byte) :
    Tables (packetWrites tenant n va bs s) := by
  fun_induction packetWrites tenant n va bs s <;> simp_all
@[simp] theorem tables_takePacket {s : State} (h : Tables s) (c : Conn) (p : Packet) :
    Tables (takePacket c p s).2 := by
  simp [takePacket, h]
@[simp] theorem tables_packetBody {s : State} (h : Tables s) (p : Packet) : Answers TablesWf (packetBody p s) := by
  unfold packetBody
  extract_lets s0
  have h0 : Tables s0 := by
    dsimp only [s0]
    split <;> exact h
  simp [h0]
@[simp] theorem tables_rdmaPacketBody {s : State} (h : Tables s) (x : RdmaIn) :
    Answers TablesWf (rdmaPacketBody x s) := by
  unfold rdmaPacketBody
  split <;> simp [h]
@[simp] theorem tables_rdmaFlagWriteBody {s : State} (h : Tables s) (n : Nat) :
    Answers TablesWf (rdmaFlagWriteBody n s) := by
  simp [rdmaFlagWriteBody, h]
@[simp] theorem tables_connectionMissBody {s : State} (h : Tables s) (n : Nat) :
    Answers TablesWf (connectionMissBody n s) := by
  simp [connectionMissBody, h]

/-! ### Machine/Boot.lean -/

@[simp] theorem tables_extendMeas (i : Nat) (m : List Byte) (s : State) : Tables (extendMeas i m s) ↔ Tables s := by rfl
@[simp] theorem tables_measExtendBody {s : State} (h : Tables s) (i : Nat) (m : BitVec 256) :
    Answers TablesWf (measExtendBody i m s) := by
  simp [measExtendBody, h]
@[simp] theorem tables_setStage (n : Nat) (s : State) : Tables (setStage n s) ↔ Tables s := by rfl
@[simp] theorem tables_setErr (n : Nat) (s : State) : Tables (setErr n s) ↔ Tables s := by rfl
theorem tables_takeImage (i : Nat) (s : State) : Oks (fun u => (Tables u ↔ Tables s)) (takeImage i s) := by
  unfold takeImage
  split
  · simp
  · dsimp only
    split <;> simp

@[simp] theorem tables_calibrateAll {s : State} (h : Tables s) : Tables (calibrateAll s) := by
  rw [calibrateAll]
  refine tables_foldl_of h (fun _ d hu => tables_foldl_of hu (fun _ e hv => ?_) _) _
  exact (tables_crossingCalibrationBody hv d e true).getD hv
@[simp] theorem tables_alignSplines (s : State) : Tables (alignSplines s) ↔ Tables s := by rfl
theorem tables_dieReset {s : State} (h : Tables s) (die : Nat) : Tables ((dieResetBody die s).getD s) :=
  (tables_dieResetBody h die).getD h
@[simp] theorem tables_bringUp {s : State} (h : Tables s) : Tables (bringUp s) := by
  have hd := tables_foldl_of h (fun _ d hu => tables_dieReset hu d) (List.range 16)
  simp [bringUp, hd]
@[simp] theorem tables_hubCleared (s : State) : Tables (hubCleared s) := by
  have hr : State.reset.circuits = [] ∧ State.reset.links = [] ∧ State.reset.tile.tags = [] ∧ State.reset.others = [] :=
    ⟨rfl, rfl, rfl, rfl⟩
  simp [hubCleared, hr, TablesOf, TidyTags, Tidies, SMap.wfFrom]
@[simp] theorem tables_deriveKeys (s : State) : Tables (deriveKeys s) ↔ Tables s := by rfl
theorem tables_bootFirst (s : State) : Tables (bootLeft (bootFirst s)) ↔ Tables s := by
  unfold bootFirst
  split
  · rfl
  split
  · rfl
  have ht := tables_takeImage 0 (setStage 1 s)
  split
  · simp
  case h_2 s1 h1 => simpa using ht s1 h1
@[simp] theorem tables_bootNext (acc : Except (Nat × State) State) (i : Nat) :
    Tables (bootLeft (bootNext acc i)) ↔ Tables (bootLeft acc) := by
  cases acc with
  | error e => rfl
  | ok s =>
    have ht := tables_takeImage i s
    unfold bootNext
    dsimp only
    split
    case h_1 s' hs => exact ht s' hs
    · rfl
theorem tables_bootStages (s : State) : Tables (bootLeft (bootStages s)) ↔ Tables s := by
  simp [bootStages_eq_foldl]
@[simp] theorem tables_boot {s : State} (h : Tables s) : Tables (boot s) := by
  have hf := (tables_bootFirst s).2 h
  unfold boot
  split
  case h_1 c s1 h1 => simpa [h1] using hf
  case h_2 s1 h1 =>
    rw [h1, bootLeft_ok] at hf
    have hs := (tables_bootStages s1).2 hf
    split
    case h_1 c s2 h2 => simpa [h2] using hs
    case h_2 s2 h2 =>
      rw [h2, bootLeft_ok] at hs
      have hb : Tables (bringUp (setStage 6 (deriveKeys s2))) := tables_bringUp (by simpa using hs)
      dsimp only
      split <;> simpa using hb
@[simp] theorem tables_hubResetBody (s : State) : Answers TablesWf (hubResetBody s) := by
  simp [hubResetBody]
@[simp] theorem tables_meteringSnapshotBody {s : State} (h : Tables s) (tenant : Nat) (nonce : BitVec 256) :
    Answers TablesWf (meteringSnapshotBody tenant nonce s) := by
  simp [meteringSnapshotBody, h]
@[simp] theorem tables_answer {s : State} (h : Tables s) (o : Out) : Answers TablesWf (answer o s) := by
  simp [answer, h]

/-! ### Machine/Issue.lean -/

@[simp] theorem tables_markLatency (i : Instr) (s s' : State) : Tables (markLatency i s s') ↔ Tables s' := by
  unfold markLatency
  dsimp only
  split
  · rfl
  · split <;> simp
@[simp] theorem tables_correctReads (i : Instr) (s s' : State) : Tables (correctReads i s s') ↔ Tables s' := by
  simp [correctReads]
@[simp] theorem tables_afterIssue (i : Instr) (w : Word) (s s' : State) : Tables (afterIssue i w s s') ↔ Tables s' := by
  unfold afterIssue
  extract_lets s1 s2
  have h1 : Tables s1 ↔ Tables s' := by simp [s1]
  split <;> simp [s2, h1]
theorem tables_goesExecWord {s : State} (h : Tables s) (i : Instr) : Goes TablesWf (execWord i s) := by
  cases he : isEvent i
  · exact fun t ht => (within_execWord (within_rfl s) he t ht).tables h
  · simpa [execWord_of_isEvent he] using h
theorem tables_goesEvent {s : State} (h : Tables s) {ok : Bool} {body : State → Option State}
    (hb : Answers TablesWf (body s)) : Goes TablesWf (event ok s body) := by
  unfold event
  split
  · rw [goes_next]
    exact hb.getD h
  · simp
@[simp] theorem tables_expire {s : State} (h : Tables s) (t k : Nat) : Tables (expire t k s) := by
  unfold expire
  split
  · cases ha : alignTimeoutBody t k s with
    | some s1 => exact tables_alignTimeoutBody h t k s1 ha
    | none => exact (tables_barrierTimeoutBody h t k).getD h
  · exact h
@[simp] theorem tables_tickTile (s : State) : Tables (tickTile s) ↔ Tables s := by simp [tickTile]
@[simp] theorem tables_turnTo (s : State) (k : Fin 8) : Tables (State.turnTo s k) ↔ Tables s := by rfl
@[simp] theorem tables_completeEntered {s : State} (h : Tables s) (k : Fin 8) :
    Tables (completeEntered k s) := by
  unfold completeEntered
  extract_lets s1
  split
  · exact h
  cases decodeWord s1.slot.ir with
  | none => exact h
  | some i =>
    have hx : Goes TablesWf (execWord i s1) := tables_goesExecWord (show Tables s1 from h) i
    dsimp only
    cases hr : execWord i s1 with
    | next s' =>
      have hw : Tables s' := hx s' hr
      clear hr hx
      dsimp only
      split
      · exact h
      · split <;> simp [hw]
    | fault f => exact h
    | refused e => exact h
@[simp] theorem tables_takeEvent {s : State} (h : Tables s) (k : Fin 8) : Tables (takeEvent k s) := by
  have hp : Tables (takePending (s.turnTo k)) := tables_takePending ((tables_turnTo s k).2 h)
  unfold takeEvent
  split
  · exact hp
  split
  · exact h
  split
  · split
    · exact h
    · exact hp
  · exact (tables_preemptionBody h s.tid k).getD h
@[simp] theorem tables_trapEntryBody {s : State} (h : Tables s) (t k : Nat) :
    Answers TablesWf (trapEntryBody t k s) := by
  simp [trapEntryBody, tables_inCtx h fun _ => tables_takePending]
theorem tables_eachOf {f : Nat → State → State} (hf : ∀ k s, Tables s → Tables (f k s)) (n : Nat)
    {s : State} (h : Tables s) :
    Tables (eachOf n f s) :=
  tables_foldl_of h (fun s k hs => hf k s hs) _
@[simp] theorem tables_tick {s : State} (h : Tables s) : Tables (tick s) := by
  unfold tick
  extract_lets s1 s2 s3
  have h1 : Tables s1 := by
    simp only [s1]
    exact tables_eachOf (fun k s hs => tables_expire hs s.tid k) 8 h
  have h2 : Tables s2 := by
    rw [tables_tickTile]
    exact tables_eachOf (fun _ s hs => (tables_handlerDispatchBody hs s.tid).getD hs) 4 h1
  have h3 : Tables s3 := by simp [s3, h2]
  exact tables_eachOf (fun k s hs => tables_takeEvent (tables_completeEntered hs _) _) 8 h3
@[simp] theorem tables_addWeight (w : Nat) (s : State) : Tables (addWeight w s) ↔ Tables s := by rfl
@[simp] theorem tables_weigh {s : State} (h : Tables s) (n : Nat) : Tables (weigh n s) := by
  unfold weigh
  dsimp only
  split
  · split
    case h_1 s1 hs => simpa using tables_planeStartBody h s.tid s1 hs
    · simp [h]
  · simp [h]
@[simp] theorem tables_settle (k : Fin 8) (cls : PClass) (trapped : Bool) (s : State) :
    Tables (settle k cls trapped s) ↔ Tables s := by
  simp [settle, apply_ite Tile.tags]
@[simp] theorem tables_markWaits (s : State) : Tables (markWaits s) ↔ Tables s := by
  unfold markWaits
  rw [Tables, tags_foldl]
  intro tl k
  split <;> simp
@[simp] theorem tables_idleCycle (s : State) : Tables (idleCycle s) ↔ Tables s := by
  simp [idleCycle, apply_ite Tile.tags]
@[simp] theorem tables_tickPauses (s : State) : Tables (tickPauses s) ↔ Tables s := by rfl
@[simp] theorem tables_endCycle {s : State} (h : Tables s) (ready : Fin 8 → Bool) (issued : Option (Fin 8)) :
    Tables (endCycle ready issued s) := by
  obtain ⟨hc, hg, ho⟩ := h
  exact ⟨hc, tidy_sweepStep hg, ho⟩
@[simp] theorem tables_unyield (k : Fin 8) (s : State) : Tables (unyield k s) ↔ Tables s := by rfl
@[simp] theorem tables_throttledCycle {s : State} (h : Tables s) : Tables (throttledCycle s) := by
  exact tables_endCycle (by simpa using h) _ _
theorem tables_tryNew {s : State} (h : Tables s) (i : Instr) (w : Word) (half : Option (Word × Word)) :
    (tryNew i w half s).Leaves TablesWf := by
  unfold tryNew
  split
  case h_1 s' hs =>
    have hw : Tables s' := tables_goesExecWord h i s' hs
    split
    · trivial
    split
    · trivial
    split
    · simpa [Try.Leaves] using h
    · simpa [Try.Leaves] using hw
  · trivial
  · split <;> trivial
theorem tables_tryWord {s : State} (h : Tables s) (k : Fin 8) : (tryWord k s).Leaves TablesWf := by
  unfold tryWord
  extract_lets s1 sl
  have h1 : Tables s1 := by simpa [s1] using h
  split
  · trivial
  split
  · trivial
  split
  · trivial
  split
  · trivial
  split
  · trivial
  split
  · exact tables_trapHere (by exact h1) _
  · exact tables_tryNew (by simpa using h1) ..
theorem tables_tryIssue {s : State} (h : Tables s) (k : Fin 8) : (tryIssue k s).Leaves TablesWf := by
  unfold tryIssue
  split
  · trivial
  · exact tables_tryWord h k
theorem tables_chosenTry {s : State} (h : Tables s) (c : Option (Fin 8)) : (chosenTry c s).Leaves TablesWf := by
  cases c with
  | none => trivial
  | some k => exact tables_tryIssue (by simpa using h) k
theorem tables_goesRunCycle {s : State} (h : Tables s) : Goes TablesWf (runCycle s).2 := by
  have hc : (chosenTry (choose s) (tickPauses s)).Leaves TablesWf :=
    tables_chosenTry (show Tables (tickPauses s) from h) _
  unfold runCycle
  extract_lets c s1 ready
  split
  · simp [h]
  split
  case h_1 s' _ _ _ ht => 
    have hw : Tables s' := by rwa [ht] at hc
    simp [hw]
  case h_2 s' ht =>
    have hw : Tables s' := by rwa [ht] at hc
    simp [hw]
  · simp
  · simp [s1, h]
@[simp] theorem tables_endWindows (bay : Nat) (s : State) : Tables (endWindows bay s) ↔ Tables s := by
  unfold endWindows
  split
  · refine tables_foldl (fun s k => ?_) _ s
    dsimp only
    split <;> simp
  · rfl
@[simp] theorem tables_nextBayCycle (bay t : Nat) (s : State) : Tables (nextBayCycle bay t s) ↔ Tables s := by
  simp [nextBayCycle]
@[simp] theorem tables_takeCycle {s : State} (h : Tables s) : Tables (takeCycle s) := by
  fun_cases takeCycle <;> simp [h]
@[simp] theorem tables_beginCycle {s : State} (h : Tables s) : Tables (beginCycle s) := by
  simp [beginCycle, h]
@[simp] theorem tables_refocus {s : State} (h : Tables s) (s0 : State) : Tables (s0.refocus s) := tables_focus h s0.tid
@[simp] theorem tables_stookThrottleBody {s : State} (h : Tables s) (t : Nat) :
    Answers TablesWf (stookThrottleBody t s) := by
  have hb := tables_throttledCycle (tables_beginCycle (tables_focus h t))
  simp [stookThrottleBody, tables_refocus hb]
@[simp] theorem tables_stookFillerBody {s : State} (h : Tables s) (t : Nat) :
    Answers TablesWf (stookFillerBody t s) := by
  unfold stookFillerBody
  extract_lets s0
  have h0 : Tables s0 := by simp [s0, h]
  split
  · split
    case h_1 s1 hs => exact (answers_some ..).2 (tables_refocus (tables_goesRunCycle h0 s1 hs) s)
    · simp
  · simp

/-! ### Machine/Dispatch.lean -/

/-- Every event keeps the tables canonical; those that answer a result of their own are the three that go on in parts. -/
theorem tables_goesExec {s : State} (h : Tables s) {i : Instr} (he : isEvent i = true) : Goes TablesWf (exec i s) := by
  rw [isEvent_iff] at he
  cases i
  case ximm hi op lo => exact absurd he (encode_ximm_ne_nil hi op lo)
  all_goals simp [encode, encS, encI, encC, encE, encB, encY] at he
  case homeNiAccess n => exact tables_goesExecHomeNiAccess h n
  case copyCompletion t => exact tables_goesExecCopyCompletion h t
  case granaryLoad n => exact tables_goesExecGranaryLoad h n
  all_goals dsimp only [exec]
  all_goals exact tables_goesEvent h (by simp [h])

/-! ### Machine/Run.lean -/

@[simp] theorem tables_notePlace (place : Option (Nat × Nat)) (s : State) : Tables (notePlace place s) ↔ Tables s := by
  cases place <;> simp [notePlace]
theorem tables_goesInPlace {s : State} {f : State → Result} (hf : Goes TablesWf (f s)) (place : Option (Nat × Nat)) :
    Goes TablesWf (inPlace place f s) := by
  unfold inPlace
  split
  case h_1 s' hs => simpa using hf s' hs
  · exact hf
theorem tables_changing {f : State → Option State} {s : State} (hf : Answers TablesWf (f s)) :
    Answers TablesWf (changing f s) := by
  unfold changing
  split
  case h_1 s' hs =>
    split
    · simp
    · simpa using hf s' hs
  · simp
theorem tables_goesChanged {s : State} {r : Result} (hr : Goes TablesWf r) : Answers (Goes TablesWf) (changed s r) := by
  cases r with
  | next s' =>
    rw [changed]
    split
    · simp
    · simpa using hr
  | fault f => simp [changed]
  | refused e => simp [changed]
/-- Every one of some pending bodies keeps the tables canonical. -/
def TablesKeep (s : State) (l : List Pending) : Prop := ∀ p ∈ l, Answers TablesWf (p.2 s)
@[simp] theorem tablesKeep_nil (s : State) : TablesKeep s [] := by simp [TablesKeep]
@[simp] theorem tablesKeep_cons (s : State) (p : Pending) (l : List Pending) :
    TablesKeep s (p :: l) ↔ Answers TablesWf (p.2 s) ∧ TablesKeep s l := by
  simp [TablesKeep]
@[simp] theorem tablesKeep_append (s : State) (a b : List Pending) :
    TablesKeep s (a ++ b) ↔ TablesKeep s a ∧ TablesKeep s b := by
  simp [TablesKeep, or_imp, forall_and]
@[simp] theorem tablesKeep_flatMap {α : Type} (s : State) (l : List α) (f : α → List Pending) :
    TablesKeep s (l.flatMap f) ↔ ∀ a ∈ l, TablesKeep s (f a) := by
  simp only [TablesKeep, List.mem_flatMap]
  exact ⟨fun h a ha p hp => h p ⟨a, ha, hp⟩, fun h p ⟨a, ha, hp⟩ => h a ha p hp⟩
@[simp] theorem tablesKeep_map {α : Type} (s : State) (l : List α) (f : α → Pending) :
    TablesKeep s (l.map f) ↔ ∀ a ∈ l, Answers TablesWf ((f a).2 s) := by
  simp [TablesKeep]
@[simp] theorem tablesKeep_mapIdx {α : Type} (s : State) (l : List α) {f : Nat → α → Pending}
    (hf : ∀ n a, Answers TablesWf ((f n a).2 s)) :
    TablesKeep s (l.mapIdx f) := by
  intro p hp
  obtain ⟨n, hn, rfl⟩ := List.mem_mapIdx.1 hp
  exact hf _ _
theorem tables_firstBody {s : State} {l : List Pending} (hl : TablesKeep s l) : Answers TablesWf (firstBody s l) := by
  induction l with
  | nil => simp [firstBody]
  | cons p r ih =>
    obtain ⟨hp, hr⟩ := (tablesKeep_cons s p r).1 hl
    unfold firstBody
    split
    case h_1 s' hs =>
      split at hs
      · simpa using hp s' hs
      · simp at hs
    · exact ih hr
theorem tablesKeep_lineBody {s : State} (h : Tables s) : TablesKeep s (lineBody s) := by
  unfold lineBody
  split <;> simp [h]
theorem tablesKeep_niBodies {s : State} (h : Tables s) : TablesKeep s (niBodies s) := by simp [niBodies, h]
theorem tablesKeep_flightBodies {s : State} (h : Tables s) : TablesKeep s (flightBodies s) := by simp [flightBodies, h]
theorem tablesKeep_joinerBodies {s : State} (h : Tables s) : TablesKeep s (joinerBodies s) := by simp [joinerBodies, h]
theorem tablesKeep_tileBodies {s : State} (h : Tables s) : TablesKeep s (tileBodies s) := by simp [tileBodies, h]
theorem tablesKeep_hubBodies {s : State} (h : Tables s) : TablesKeep s (hubBodies s) := by
  simp [hubBodies, recordBodies, h, tables_changing]
theorem tables_goesProgress {s : State} (h : Tables s) : Answers (Goes TablesWf) (progress s) := by
  unfold progress
  split
  case h_1 s' hs =>
    have hk : TablesKeep s (lineBody s ++ (niBodies s ++ flightBodies s ++ joinerBodies s ++ tileBodies s)) := by
      simp [tablesKeep_lineBody h, tablesKeep_niBodies h, tablesKeep_flightBodies h, tablesKeep_joinerBodies h,
        tablesKeep_tileBodies h]
    simpa using tables_firstBody hk s' hs
  split
  · rw [answers_some]
    exact tables_goesInPlace (tables_goesExecHomeNiAccess h _) _
  split
  case h_1 r hr =>
    rw [answers_some]
    split at hr
    · exact tables_goesChanged (tables_goesInPlace (tables_goesExecCopyCompletion h _) _) r hr
    · simp at hr
  split
  case h_1 r hr =>
    rw [answers_some]
    obtain ⟨n, _, hn⟩ := List.exists_of_findSome?_eq_some hr
    exact tables_goesChanged (tables_goesExecGranaryLoad h n) r hn
  · rw [answers_map]
    exact fun s' hs => by simpa using tables_firstBody (tablesKeep_hubBodies h) s' hs
theorem tables_goesTileCycle {s : State} (h :
    Tables s) : Goes TablesWf (tileCycle s) := tables_goesRunCycle (tables_beginCycle h)
@[simp] theorem tables_meterCircuits (die n : Nat) (s : State) : Tables (meterCircuits die n s) ↔ Tables s := by
  simp [meterCircuits]
@[simp] theorem tables_meterService (die n : Nat) (s : State) : Tables (meterService die n s) ↔ Tables s := by
  simp [meterService]
@[simp] theorem tables_chargeBays (n : Nat) (s : State) : Tables (chargeBays n s) ↔ Tables s := by
  refine tables_foldl (fun s kb => ?_) _ s
  split <;> simp
@[simp] theorem tables_spinWheel {s : State} (h : Tables s) (die n : Nat) : Tables (spinWheel die n s) := by
  simp [spinWheel, h]
@[simp] theorem tables_newHubCycle (hub : Nat) (s : State) :
    Tables (newHubCycle hub s) ↔ Tables s := by simp [newHubCycle]
@[simp] theorem tables_passTime {s : State} (h : Tables s) (die fabric hub : Nat) :
    Tables (passTime die fabric hub s) := by
  simp [passTime, h]
@[simp] theorem tables_onTime {s : State} (h : Tables s) (die : Nat) : Tables (onTime die s) := by
  unfold onTime
  extract_lets s1
  have h1 : Tables s1 := by
    dsimp only [s1]
    split
    · exact (tables_powerControlBody h die).getD h
    · exact h
  split
  · exact (tables_sliceBoundaryBody h1).getD h1
  · exact h1
theorem tables_goesRunTurn {s : State} (h : Tables s) (t : Turn) : Goes TablesWf (runTurn t s) := by
  cases t with
  | issue t =>
    rw [runTurn]
    split
    · exact tables_goesTileCycle (tables_focus h t)
    · simp
  | act e =>
    rw [runTurn]
    split
    case isTrue he => exact tables_goesInPlace (tables_goesExec h he) _
    · simp [h]
  | time die fabric hub => simp [runTurn, h]
theorem tables_goesBetweenTurns {s : State} (h : Tables s) : Goes TablesWf (betweenTurns s) := by
  have hp : Goes TablesWf ((progress s).getD (.next s)) := (tables_goesProgress h).getD (by simp [h])
  unfold betweenTurns
  split
  case h_1 s' hs =>
    rw [hs, goes_next, tablesWf_iff] at hp
    exact (goes_next ..).2 (tables_focus (tables_onTime (tables_passTime hp _ _ _) _) _)
  · exact hp
theorem tables_goesFreeTurn {s : State} (h : Tables s) : Goes TablesWf (freeTurn s) := by
  have hc := tables_goesRunCycle (tables_beginCycle h)
  unfold freeTurn
  split
  · exact tables_goesBetweenTurns h
  generalize runCycle (beginCycle s) = x at hc
  obtain ⟨acted, r⟩ := x
  cases r with
  | next s' =>
    cases acted
    · exact tables_goesBetweenTurns (by simpa using hc)
    · simpa using hc
  | fault f => simp
  | refused e => simp
theorem tables_goesStep {s : State} (h : Tables s) : Goes TablesWf (step s) := by
  rw [step]
  unfold runStep
  split
  · exact tables_goesFreeTurn h
  split
  · exact tables_goesTileCycle (tables_focus h _)
  · exact tables_goesRunTurn (by exact h) _

/-- Settles O19: a step is a tile cycle, a listed turn or what comes between two turns. What a context issues stays
`Within` its tile, and each event writes circuits, links and tags by `SMap.set`, a filter or a map of entries alone. -/
theorem stepKeepsTables : Obligations.StepKeepsTables := by
  intro s t hc hg hs
  exact tables_goesStep ⟨hc, hg⟩ t hs

end Sys2Proof.Machine

/-! SUPPORT. Where an instruction that completes leaves PC and the repeat frame; with this, O14. -/

namespace Sys2Proof.Machine
open Sys2Proof.Claims

theorem mkTrap_eq_plainTrap (cause : BitVec 8) (n : Nat) : mkTrap cause (BitVec.ofNat 64 n) = plainTrap cause n := by
  simp [mkTrap, plainTrap, TAddrX.zero]

/-- The last word of an instruction, a repeat body or a pair, by its number: `CODE_SEGMENT` at the end of its segment, and
the next word otherwise. -/
theorem nextAfter_of_toNat {last : BitVec 14} {n : Nat} (hn : last.toNat = n) (s : State) :
    nextAfter last s =
      if n % 4096 = 4095 then takeTrap (plainTrap 0x08 (n + 1)) (BitVec.ofNat 14 n) s
      else s.setBank { s.bank with pc := BitVec.ofNat 14 (n + 1) } := by
  subst hn
  have hw : last.extractLsb' 0 12 = 4095 ↔ last.toNat % 4096 = 4095 := by
    rw [← BitVec.toNat_inj]
    simp
  have hl : last + 1 = BitVec.ofNat 14 (last.toNat + 1) := by
    apply BitVec.eq_of_toNat_eq
    simp
  unfold nextAfter
  simp only [hw, hl, mkTrap_eq_plainTrap, BitVec.ofNat_toNat, BitVec.setWidth_eq]
  rfl

/-- Position of an instruction's last word in a repeat body. -/
def lastPos (pair : Bool) (r : Rpt) : BitVec 4 := if pair then r.idx + 1 else r.idx

theorem toNat_lastPos {pair : Bool} {r : Rpt} (h : r.idx.toNat + pair.toNat < 16) :
    (lastPos pair r).toNat = r.idx.toNat + pair.toNat := by
  cases pair <;> simp [lastPos] at h ⊢
  omega

section
variable {pair : Bool} {s : State}

theorem advance_outside (hc : s.bank.rpt.count = 0) :
    advance pair s = nextAfter (if pair then s.bank.pc + 1 else s.bank.pc) s := by
  simp [advance, hc]
theorem advance_inside (hc : s.bank.rpt.count ≠ 0) (hp : lastPos pair s.bank.rpt < s.bank.rpt.len) :
    advance pair s = s.setBank { s.bank with
      rpt := { s.bank.rpt with idx := lastPos pair s.bank.rpt + 1 },
      pc := s.bank.rpt.body + (lastPos pair s.bank.rpt + 1).zeroExtend 14 } := by
  unfold advance
  rw [if_neg hc]
  exact if_pos hp
theorem advance_last (hc : s.bank.rpt.count = 1) (hp : ¬ lastPos pair s.bank.rpt < s.bank.rpt.len) :
    advance pair s = nextAfter (s.bank.rpt.body + s.bank.rpt.len.zeroExtend 14)
      (s.setBank { s.bank with rpt := Rpt.reset }) := by
  unfold advance
  rw [if_neg (by simp [hc])]
  exact (if_neg hp).trans (if_pos hc)
theorem advance_again (h0 : s.bank.rpt.count ≠ 0) (h1 : s.bank.rpt.count ≠ 1)
    (hp : ¬ lastPos pair s.bank.rpt < s.bank.rpt.len) :
    advance pair s = s.setBank { s.bank with
      rpt := { s.bank.rpt with count := s.bank.rpt.count - 1, k := s.bank.rpt.k + 1, idx := 0 },
      pc := s.bank.rpt.body } := by
  unfold advance
  rw [if_neg h0]
  exact (if_neg hp).trans (if_neg h1)

end

end Sys2Proof.Machine

namespace Sys2Proof.Proofs
open Sys2Proof.Machine Sys2Proof.Claims

/-- Settles O14: the four places of an instruction, outside a frame, before the last position of a body, and at it in the
last and in an earlier round. -/
theorem advance : Obligations.Advance := by
  intro pair s b r pos after
  refine ⟨fun hc hpc => ?_, fun hc hp => ?_, fun hc hl hp hb => ?_, fun hc hl hp => ?_⟩
  · rw [advance_outside hc]
    refine nextAfter_of_toNat ?_ s
    cases pair
    · rfl
    · exact BitVec.toNat_add_of_lt (by simpa using hpc)
  · have hlen := r.len.isLt
    have hpos : (lastPos pair r).toNat = pos := toNat_lastPos (by omega)
    have hidx : lastPos pair r + 1 = BitVec.ofNat 4 (pos + 1) := by
      apply BitVec.eq_of_toNat_eq
      simp [hpos]
    rw [advance_inside hc (by rw [BitVec.lt_def, hpos]; exact hp), hidx]
    have hpc : r.body + (BitVec.ofNat 4 (pos + 1)).zeroExtend 14 = BitVec.ofNat 14 (r.body.toNat + pos + 1) := by
      apply BitVec.eq_of_toNat_eq
      simp [Nat.mod_eq_of_lt (show pos + 1 < 16 by omega)]
      omega
    rw [hpc]
  · have hpos : (lastPos pair r).toNat = pos := toNat_lastPos hp
    rw [advance_last hc (by rw [BitVec.lt_def, hpos]; exact Nat.not_lt.2 hl)]
    have hlen : (r.len.zeroExtend 14).toNat = r.len.toNat := BitVec.toNat_setWidth_of_le (by decide)
    exact nextAfter_of_toNat (by rw [BitVec.toNat_add_of_lt (by rw [hlen]; exact hb), hlen]) _
  · have hpos : (lastPos pair r).toNat = pos := toNat_lastPos hp
    rw [advance_again (fun h => by simp [r, b, h] at hc) (fun h => by simp [r, b, h] at hc)
      (by rw [BitVec.lt_def, hpos]; exact Nat.not_lt.2 hl)]
    have hcount : r.count - 1 = BitVec.ofNat 20 (r.count.toNat - 1) := by
      apply BitVec.eq_of_toNat_eq
      rw [BitVec.toNat_sub_of_le (by simpa [BitVec.le_def] using Nat.le_of_lt hc)]
      simp
      omega
    have hk : r.k + 1 = BitVec.ofNat 3 ((r.k.toNat + 1) % 8) := by
      apply BitVec.eq_of_toNat_eq
      simp
    rw [hcount, hk]

end Sys2Proof.Proofs

/-! SUPPORT. The parts of a transfer of control: target, point of return, return stack; with this, O12. -/

namespace Sys2Proof.Machine
open Sys2Proof.Claims


theorem checkTarget_ok {t : Int} (h0 : 0 ≤ t) (h1 : t ≤ 16383) : checkTarget t = .ok (BitVec.ofInt 14 t) :=
  if_neg (by omega)
theorem checkTarget_bad {t : Int} (h : t < 0 ∨ 16383 < t) :
    checkTarget t = .error (.trap (plainTrap 0x08 (t % 2 ^ 22))) := if_pos h

section
variable {s : State} {t : Int}

theorem segmentEnd_iff (pc : BitVec 14) : pc.extractLsb' 0 12 = 4095 ↔ pc.toNat % 4096 = 4095 := by
  rw [← BitVec.toNat_inj]
  simp
theorem checkCall_ok (h : s.bank.pc.toNat % 4096 ≠ 4095) : checkCall s = .ok () :=
  if_neg (mt (segmentEnd_iff _).1 h)
theorem checkCall_end (h : s.bank.pc.toNat % 4096 = 4095) :
    checkCall s = .error (.trap (plainTrap 0x08 (s.bank.pc.toNat + 1))) :=
  if_pos ((segmentEnd_iff _).2 h)

theorem transfer_setBank (pc : BitVec 14) (s : State) (b : Bank) : transfer pc (s.setBank b) = s.setBank (jumped pc b) := by
  simp [transfer, jumped, Rpt.reset]
theorem transfer_eq (pc : BitVec 14) (s : State) : transfer pc s = s.setBank (jumped pc s.bank) := rfl

/-! ### The bodies -/

theorem jumpBody_ok (h0 : 0 ≤ t) (h1 : t ≤ 16383) : jumpBody t s = .ok (s.setBank (jumped (BitVec.ofInt 14 t) s.bank)) := by
  simp [jumpBody, checkTarget_ok h0 h1, transfer_eq]
theorem jumpBody_bad (h : t < 0 ∨ 16383 < t) : jumpBody t s = .error (.trap (plainTrap 0x08 (t % 2 ^ 22))) := by
  simp [jumpBody, checkTarget_bad h]
theorem callBody_ok (h0 : 0 ≤ t) (h1 : t ≤ 16383) (he : s.bank.pc.toNat % 4096 ≠ 4095) (hd : s.bank.depth.toNat < 4) :
    callBody t s = .ok (s.setBank (jumped (BitVec.ofInt 14 t)
      { s.bank with rs := s.bank.rs.set s.bank.depth.toNat (s.bank.pc + 1), depth := s.bank.depth + 1 })) := by
  simp [callBody, checkTarget_ok h0 h1, checkCall_ok he, pushReturn, hd, transfer_setBank]
theorem callBody_bad (h : t < 0 ∨ 16383 < t) : callBody t s = .error (.trap (plainTrap 0x08 (t % 2 ^ 22))) := by
  simp [callBody, checkTarget_bad h]
theorem callBody_end (h0 : 0 ≤ t) (h1 : t ≤ 16383) (he : s.bank.pc.toNat % 4096 = 4095) :
    callBody t s = .error (.trap (plainTrap 0x08 (s.bank.pc.toNat + 1))) := by
  simp [callBody, checkTarget_ok h0 h1, checkCall_end he]
theorem callBody_full (h0 : 0 ≤ t) (h1 : t ≤ 16383) (he : s.bank.pc.toNat % 4096 ≠ 4095) (hd : 4 ≤ s.bank.depth.toNat) :
    callBody t s = .error (.trap (plainTrap 0x09 0)) := by
  simp [callBody, checkTarget_ok h0 h1, checkCall_ok he, pushReturn, Nat.not_lt.2 hd]
  rfl
theorem retBody_ok (hd : 0 < s.bank.depth.toNat ∧ s.bank.depth.toNat ≤ 4) :
    retBody s = .ok (s.setBank (jumped (s.bank.rs[s.bank.depth.toNat - 1]'(by omega))
      { s.bank with depth := s.bank.depth - 1 })) := by
  simp [retBody, popReturn, hd, transfer_setBank]
theorem retBody_empty (hd : s.bank.depth = 0) : retBody s = .error (.trap (plainTrap 0x0A 0)) := by
  simp [retBody, popReturn, hd]
  rfl
end

theorem free_useNone (b : Bank) : b.free useNone = true := rfl

/-! ### The instructions -/

section
variable (off : BitVec 22) (s : State)
theorem exec_j : exec (.j off) s = runWord (.j off) useNone s id fun s => jumpBody (relTarget off s.bank) s := rfl
theorem exec_call : exec (.call off) s = runWord (.call off) useNone s id fun s => callBody (relTarget off s.bank) s := rfl
theorem exec_ja : exec (.ja off) s = runWord (.ja off) useA s id fun s => jumpBody (absTarget off s.bank) s := rfl
theorem exec_calla : exec (.calla off) s = runWord (.calla off) useA s id fun s => callBody (absTarget off s.bank) s := rfl
theorem exec_ret : exec (.ret off) s = runWord (.ret off) useNone s id retBody := rfl
end

end Sys2Proof.Machine

namespace Sys2Proof.Proofs
open Sys2Proof.Machine Sys2Proof.Claims

theorem jumpTransfers : JumpTransfers := by
  intro off s rel abs pushed
  refine ⟨fun h0 h1 => ?_, fun ha h0 h1 => ?_, fun hd he => ⟨fun h0 h1 => ?_, fun ha h0 h1 => ?_⟩, fun hd hw => ?_⟩
  · exact (exec_j _ _).trans (runWord_ok rfl (free_useNone _) (jumpBody_ok h0 h1))
  · exact (exec_ja _ _).trans (runWord_ok rfl ha (jumpBody_ok h0 h1))
  · exact (exec_call _ _).trans (runWord_ok rfl (free_useNone _) (callBody_ok h0 h1 he hd))
  · exact (exec_calla _ _).trans (runWord_ok rfl ha (callBody_ok h0 h1 he hd))
  · exact (exec_ret _ _).trans (runWord_ok hw (free_useNone _) (retBody_ok hd))

theorem jumpTraps : JumpTraps := by
  intro off s i t hi
  refine ⟨fun hb => ?_, fun h0 h1 hc => ⟨fun he => ?_, fun he hd => ?_⟩, fun hd => ?_⟩
  · obtain ⟨rfl, rfl | rfl⟩ | ⟨rfl, ha, rfl | rfl⟩ := hi
    · exact (exec_j _ _).trans (runWord_trap rfl (free_useNone _) (jumpBody_bad hb))
    · exact (exec_call _ _).trans (runWord_trap rfl (free_useNone _) (callBody_bad hb))
    · exact (exec_ja _ _).trans (runWord_trap rfl ha (jumpBody_bad hb))
    · exact (exec_calla _ _).trans (runWord_trap rfl ha (callBody_bad hb))
  · obtain ⟨rfl, rfl | rfl⟩ | ⟨rfl, ha, rfl | rfl⟩ := hi
    · simp at hc
    · exact (exec_call _ _).trans (runWord_trap rfl (free_useNone _) (callBody_end h0 h1 he))
    · simp at hc
    · exact (exec_calla _ _).trans (runWord_trap rfl ha (callBody_end h0 h1 he))
  · obtain ⟨rfl, rfl | rfl⟩ | ⟨rfl, ha, rfl | rfl⟩ := hi
    · simp at hc
    · exact (exec_call _ _).trans (runWord_trap rfl (free_useNone _) (callBody_full h0 h1 he hd))
    · simp at hc
    · exact (exec_calla _ _).trans (runWord_trap rfl ha (callBody_full h0 h1 he hd))
  · exact (exec_ret _ _).trans (runWord_trap rfl (free_useNone _) (retBody_empty hd))

/-- Settles O12: each transfer runs its body, whose checks come in the order that the statement gives. -/
theorem jumps : Obligations.Jumps := ⟨jumpTransfers, jumpTraps⟩

end Sys2Proof.Proofs

/-! SUPPORT. What the post-increments of an access leave of each pointer; with this, O9. -/

namespace Sys2Proof.Machine
open Sys2Proof.Claims

theorem incAll_eq (i : Bool) (ps : List (BitVec 3)) (b : Bank) : b.incAll i ps = { b with p := (b.incAll i ps).p } := by
  induction ps generalizing b with
  | nil => rfl
  | cons q r ih =>
    simp only [Bank.incAll]
    split
    · exact ih _
    · exact ih _

/-- A pointer of the list moves once, however often the list names it. -/
theorem ptr_incAll (i : Bool) (ps : List (BitVec 3)) (b : Bank) (p : BitVec 3) :
    (b.incAll i ps).ptr p = if i = true ∧ p ∈ ps then (b.ptr p).inc else b.ptr p := by
  induction ps generalizing b with
  | nil => simp [Bank.incAll]
  | cons q r ih =>
    simp only [Bank.incAll]
    split
    next hq =>
      simp only [Bool.and_eq_true, Bool.not_eq_true', List.contains_eq_mem, decide_eq_false_iff_not] at hq
      rw [ih]
      by_cases hp : q = p
      · subst hp
        simp [hq]
      · simp [ptr_setPtr_other _ _ _ _ (Ne.symm hp), Ne.symm hp]
    next hq =>
      rw [ih]
      by_cases hp : p = q
      · subst hp
        cases i <;> simp_all
      · simp [hp]

theorem inc_eq (p : Ptr) : p.inc = ⟨p.stride, BitVec.ofInt 15 (p.addr.toNat + p.stride.toInt)⟩ := by
  have h : p.addr + p.stride.extractLsb' 0 15 = BitVec.ofInt 15 (p.addr.toNat + p.stride.toInt) := by
    rw [BitVec.ofInt_add]
    congr 1
    · simp
    · rw [← BitVec.toInt_inj, BitVec.toInt_ofInt]
      have : p.stride.extractLsb' 0 15 = p.stride.setWidth 15 := BitVec.setWidth_eq_extractLsb' (by decide) |>.symm
      rw [this, BitVec.toInt_setWidth, BitVec.toInt_eq_toNat_bmod]
      exact (Int.bmod_bmod_of_dvd (by decide)).symm
  rw [Ptr.inc, h]

/-- The pointers that an access used as addresses. -/
def usedPtrs (o : SOp) (split : Bool) (b : Bank) : List (BitVec 3) :=
  (if o.src = 0 then [b.sel o.p] else []) ++ (if split then [b.sel o.q] else [])

theorem mem_usedPtrs {o : SOp} {split : Bool} {b : Bank} {p : BitVec 3} :
    p ∈ usedPtrs o split b ↔ (o.src = 0 ∧ p = b.sel o.p) ∨ (split = true ∧ p = b.sel o.q) := by
  unfold usedPtrs
  by_cases h : o.src = 0 <;> cases split <;> simp [h]

theorem srcDone_eq (o : SOp) (split : Bool) (s : State) :
    srcDone o split s = if o.src = 1 then consume (s.setBank (s.bank.incAll o.i (usedPtrs o split s.bank))) (o.p.extractLsb' 0 2)
      else s.setBank (s.bank.incAll o.i (usedPtrs o split s.bank)) := rfl

theorem bank_consume (s : State) (n : BitVec 2) : (consume s n).bank = s.bank := by
  unfold consume State.consumeAt
  repeat' split
  all_goals rfl

theorem chan_setBank (s : State) (b : Bank) (n : BitVec 2) : (s.setBank b).slot.chan n = s.slot.chan n := by simp [Slot.chan]

theorem consume_circuit {s : State} {n : BitVec 2} {die cid : Nat} (b : Bank)
    (h : (s.slot.chan n).r = some (.circuit die cid)) :
    consume (s.setBank b) n = { (s.setBank b).setCircuit (circuitKey die cid)
        { s.circuit (circuitKey die cid) with buf := (s.circuit (circuitKey die cid)).buf.tail } with
      credits := s.credits ++ [.circuit die cid] } := by
  simp only [consume, chan_setBank, h]
  rfl

theorem consume_link {s : State} {n d : BitVec 2} {u : Nat} (b : Bank) (h : (s.slot.chan n).r = some (.link d))
    (hu : neighbour s s.tid d = some u) :
    consume (s.setBank b) n = { (s.setBank b).setLink s.tid d { s.link s.tid d with buf := (s.link s.tid d).buf.tail } with
      credits := s.credits ++ [.link u (d + 2)] } := by
  have hu : neighbour (s.setBank b) s.tid d = some u := by
    rw [← hu]
    unfold neighbour
    rfl
  simp only [consume, chan_setBank, h, State.consumeAt, tid_setBank, hu]
  rfl

end Sys2Proof.Machine

namespace Sys2Proof.Proofs
open Sys2Proof.Machine Sys2Proof.Claims

/-- Settles O9: the pointers move by one pass over the list of those used, and the channel's word after that. -/
theorem sourceDone : Obligations.SourceDone := by
  intro o split s
  have hb : (srcDone o split s).bank = s.bank.incAll o.i (usedPtrs o split s.bank) := by
    rw [srcDone_eq]
    split <;> simp [bank_consume]
  generalize hq : usedPtrs o split s.bank = ps at hb
  have hp := congrArg s.setBank (incAll_eq o.i ps s.bank)
  refine ⟨fun p => ?_, fun h => ⟨(s.bank.incAll o.i ps).p, ?_⟩, fun die cid h hr => ⟨(s.bank.incAll o.i ps).p, ?_⟩,
    fun d u h hr hu => ⟨(s.bank.incAll o.i ps).p, ?_⟩⟩
  · simp only [hb, ptr_incAll, ← hq, mem_usedPtrs, inc_eq]
  · rw [srcDone_eq, if_neg h, hq]
    exact hp
  · rw [srcDone_eq, if_pos h, hq, consume_circuit _ hr, hp]
  · rw [srcDone_eq, if_pos h, hq, consume_link _ hr hu, hp]

end Sys2Proof.Proofs

/-! SUPPORT. A tile of the reset state, and what an empty slot does; with this, O16. -/

namespace Sys2Proof.Machine
open Sys2Proof.Claims

theorem getTile_stateReset (t : Nat) : State.reset.getTile t = Tile.reset := ite_self _
theorem slot_tileReset (k : Nat) : Tile.reset.slot k = Slot.reset := by simp [Tile.slot, Tile.reset]
theorem tag_tileReset (g : Nat) : Tile.reset.tag g = 0xFFF := rfl
theorem nextValue_tileReset : Tile.reset.nextValue = 0 := by decide
theorem emptySlot_reset : EmptySlot Slot.reset :=
  ⟨rfl, rfl, rfl, rfl, rfl, rfl, rfl, rfl, rfl, rfl, rfl, rfl, rfl,
    fun _ h => ⟨Vector.getElem_replicate h, Vector.getElem_replicate h⟩⟩

/-- Every granule of a reset tile is stale to a generation that is not void. -/
theorem tagClass_tileReset {g : BitVec 12} (h : g ≠ 0xFFF) (gran : Nat) : Tile.reset.tagClass g gran = .stale := by
  rw [Tile.tagClass, tag_tileReset, if_neg h.symm, nextValue_tileReset, if_neg (fun e => absurd e.1 (by decide))]

theorem slot_turnTo (s : State) (k : Fin 8) : (s.turnTo k).slot = { s.tile.slots[k] with wait := none } := by
  simp [State.turnTo, setWait, State.modSlot, State.slot, State.setSlot]

theorem tryWord_idle {k : Fin 8} {s : State} (h : (s.tile.slots[k]).running = false) : tryWord k s = .idle none := by
  have : (s.turnTo k).slot.running = false := by rw [slot_turnTo]; exact h
  simp [tryWord, this]
theorem tryIssue_idle {k : Fin 8} {s : State} (h : (s.tile.slots[k]).running = false) : tryIssue k s = .idle none := by
  simp [tryIssue, tryWord_idle h, Try.why]

end Sys2Proof.Machine

namespace Sys2Proof.Proofs
open Sys2Proof.Machine Sys2Proof.Claims

/-- Settles O16: every tile of the reset state is the reset tile, whose tags are void and whose slots do not run. -/
theorem tileReset : Obligations.TileReset := by
  intro t _
  simp only [getTile_stateReset, slot_tileReset, tag_tileReset]
  refine ⟨fun _ _ => emptySlot_reset, fun _ _ => trivial, rfl, nextValue_tileReset, by decide, nextValue_tileReset,
    fun a n g hg _ _ => ?_, fun k s hs => tryIssue_idle (by rw [hs]; rfl)⟩
  have hc : (State.reset.getTile t).tagClass g (a / 32) = .stale := by rw [getTile_stateReset, tagClass_tileReset hg]
  refine ⟨spRead_stale hc, (spRead_strict hc).trans ?_⟩
  rw [plainTrap, BitVec.ofInt_natCast]
  rfl

end Sys2Proof.Proofs

/-! SUPPORT. What an operand's access answers, in the terms of the statements: values, and traps; with this, O10, O15, O28. -/

namespace Sys2Proof.Machine
open Sys2Proof.Claims

theorem mkTrap_ofNat_eq_plainTrap (c : BitVec 8) {ea : Int} (h : 0 ≤ ea) :
    mkTrap c (BitVec.ofNat 64 ea.toNat) = plainTrap c ea := by
  rw [mkTrap_eq_plainTrap, ← Int.toNat_of_nonneg h]
  simp

theorem holdW_of_counterZero {w : BitVec 2} {s : State} (h : CounterZero w s) : holdW w s = .ok () :=
  holdW_ok h.1 h.2.1 h.2.2

theorem sizeOf2_eq_bytesOfSize (sz : BitVec 2) : sizeOf2 sz = bytesOfSize sz := by
  revert sz; decide

/-! ### Reads -/

theorem spRead_of_cellRead {s : State} {ea : Int} {n : Nat} {bs : List Byte}
    (h : (TagIs s ea.toNat .own ∧ s.tile.badIn ea.toNat n = none ∧ bs = readBytes s.mem (spadBase s.tid + ea.toNat) n) ∨
      (TagIs s ea.toNat .stale ∧ s.slot.gpol = false ∧ bs = List.replicate n 0)) :
    s.spRead s.tid s.slot.gen s.slot.gpol ea.toNat n = .ok bs := by
  rcases h with ⟨ht, hb, rfl⟩ | ⟨ht, hg, rfl⟩
  · exact spRead_own (by rw [getTile_tid]; exact ht) (by rw [getTile_tid]; exact hb)
  · rw [hg]
    exact spRead_stale (by rw [getTile_tid]; exact ht)

theorem cellRead_of_claim {s : State} {ea : Int} {n al : Nat} {bs : List Byte} (h : CellRead s ea n al bs) :
    cellRead s ea n al = .ok bs := by
  obtain ⟨⟨h0, h1, h2⟩, hp, hr⟩ := h
  exact cellRead_ok h0 h1 h2 hp (spRead_of_cellRead hr)

theorem memRead_of_localRead {s : State} {ea : Int} {n al : Nat} {bs : List Byte} (h : LocalRead s ea n al bs) :
    memRead s ea n al = .ok bs := memRead_ok h.1 (cellRead_of_claim h.2)

theorem chanHead_of_headWord {s : State} {p : BitVec 3} {w : DWord} (h : HeadWord s p w) :
    chanHead s (p.extractLsb' 0 2) = .ok w := by
  obtain ⟨e, r, he, hw⟩ := h
  simp [chanHead, readSide, he, hw]

theorem srcRead_of_scalarSource {o : SOp} {ea : Int} {n : Nat} {s : State} {x : DWord} (h : ScalarSource o ea n s x) :
    srcRead o ea n s = .ok x := by
  rcases h with ⟨hs, bs, hr, rfl⟩ | ⟨hs, w, hw, rfl⟩
  · simp [srcRead, hs, memRead_of_localRead hr]
  · simp only [srcRead, if_neg hs, chanHead_of_headWord hw]
    rfl

/-! ### Traps of a read -/

/-- A trap of the address or, after it, of the granule. -/
theorem readTrap_cases {s : State} {ea : Int} {n : Nat} {t : Trap} (h : ReadTrap s ea n t) :
    (spAddr ea n n = .error t) ∨
    (spAddr ea n n = .ok ea.toNat ∧ planeGate false ea.toNat n s = .ok () ∧ s.tile.tagClass s.slot.gen (ea.toNat / 32) ≠ .own ∧
      s.spRead s.tid s.slot.gen s.slot.gpol ea.toNat n = .error t ∧ t.cause ≠ 0x03 ∧ t.cause ≠ 0x04) := by
  rcases h with ⟨hr, rfl⟩ | ⟨h0, h1, ha, rfl⟩ | ⟨⟨h0, h1, h2⟩, hp, ht⟩
  · exact .inl (spAddr_range hr)
  · refine .inl (spAddr_align h0 h1 ?_)
    rw [← Int.toNat_of_nonneg h0] at ha
    exact_mod_cast ha
  · refine .inr ⟨spAddr_ok h0 h1 h2, hp, ?_⟩
    rcases ht with ⟨hc, hg, rfl⟩ | ⟨hc, rfl⟩
    · refine ⟨by rw [show s.tile.tagClass _ _ = _ from hc]; decide, ?_, by simp [plainTrap], by simp [plainTrap]⟩
      rw [hg, spRead_strict (by rw [getTile_tid]; exact hc), mkTrap_ofNat_eq_plainTrap _ h0]
      rfl
    · refine ⟨by rw [show s.tile.tagClass _ _ = _ from hc]; decide, ?_, by simp [plainTrap], by simp [plainTrap]⟩
      rw [spRead_ahead (by rw [getTile_tid]; exact hc), mkTrap_ofNat_eq_plainTrap _ h0]
      rfl

theorem memRead_readTrap {s : State} {ea : Int} {n : Nat} {t : Trap} (hf : Unfenced true false s)
    (h : ReadTrap s ea n t) : memRead s ea n n = .error (.trap t) := by
  have hf : fenceGate true false s = .ok () := hf
  rcases readTrap_cases h with ha | ⟨ha, hp, -, hr, -⟩
  · exact memRead_addr hf ha
  · simp [memRead, cellRead, hf, ha, hp, hr]

theorem srcRead_readTrap {o : SOp} {s : State} {ea : Int} {n : Nat} {t : Trap} (hs : o.src = 0)
    (hf : Unfenced true false s) (h : ReadTrap s ea n t) : srcRead o ea n s = .error (.trap t) := by
  simp [srcRead, hs, memRead_readTrap hf h]

/-! ### Vector operands -/

theorem vecBytes_eq_vecWide (et : BitVec 2) : vecBytes et = vecWide et := rfl
theorem elemBytes_eq_vecElem (et : BitVec 2) : elemBytes et = vecElem et := rfl

/-- With no lane read, the address is checked and no byte is read. -/
theorem vecMem_none {et : BitVec 2} {ea : Int} {s : State} (hm : s.bank.f.m = 0) :
    vecMem et ea false s = liftT (spAddr ea (vecWide et) (vecWide et)) >>= fun _ => .ok (List.replicate (vecWide et) 0) := by
  simp [vecMem, hm, vecBytes_eq_vecWide]

theorem vecMem_readTrap {et : BitVec 2} {ea : Int} {all : Bool} {s : State} {t : Trap} (hf : Unfenced true false s)
    (h : ReadTrap s ea (vecWide et) t) (hm : s.bank.f.m ≠ 0 ∨ all = true ∨ t.cause = 0x03 ∨ t.cause = 0x04) :
    vecMem et ea all s = .error (.trap t) := by
  have hf' : fenceGate true false s = .ok () := hf
  unfold vecMem
  simp only [vecBytes_eq_vecWide]
  split
  next h0 =>
    simp only [Bool.and_eq_true, decide_eq_true_eq, Bool.not_eq_true'] at h0
    rcases readTrap_cases h with ha | ⟨-, -, -, -, h3, h4⟩
    · simp [ha]
    · rcases hm with hm | hm | hm | hm
      · exact absurd h0.1 hm
      · simp [h0.2] at hm
      · exact absurd hm h3
      · exact absurd hm h4
  next =>
    split
    next => exact memRead_readTrap hf h
    next =>
      rcases readTrap_cases h with ha | ⟨ha, hp, hc, hr, -⟩
      · simp [hf', ha]
      · simp only [hf', ha, hp, liftT_ok, bind_ok]
        cases ht : s.tile.tagClass s.slot.gen (ea.toNat / 32) with
        | own => exact absurd ht hc
        | stale => simp [hr]
        | ahead => simp [hr]

theorem vecSrc_readTrap {o : SOp} {ea : Int} {all : Bool} {s : State} {t : Trap} (hs : o.src = 0)
    (hf : Unfenced true false s) (h : ReadTrap s ea (vecWide o.sz) t)
    (hm : s.bank.f.m ≠ 0 ∨ all = true ∨ t.cause = 0x03 ∨ t.cause = 0x04) :
    vecSrc o ea all s = .error (.trap t) := by
  simp [vecSrc, hs, vecMem_readTrap hf h hm]

/-! ### Vector operands that are read -/

theorem badIn_eq_none {tl : Tile} {a n : Nat} : tl.badIn a n = none ↔ ∀ d ∈ tl.bad, 8 * d < a + n → ¬ a < 8 * d + 8 := by
  simp [Tile.badIn, List.find?_eq_none]

theorem vecElem_pos (et : BitVec 2) : 0 < vecElem et := by revert et; decide
theorem vecWide_eq {et : BitVec 2} (h : et ≠ 3) : vecWide et = 8 * vecElem et := by revert et; decide
theorem elemAt_of_ne {et : BitVec 2} (h : et ≠ 3) (i : Nat) : elemAt et i = i * vecElem et := if_neg h

/-- An access has no failing word where each of its elements has none. -/
theorem badIn_wide {tl : Tile} {et : BitVec 2} {a : Nat} (h3 : et ≠ 3)
    (h : ∀ i < 8, tl.badIn (a + elemAt et i) (vecElem et) = none) : tl.badIn a (vecWide et) = none := by
  rw [badIn_eq_none]
  intro d hd h1 h2
  rw [vecWide_eq h3] at h1
  have he := vecElem_pos et
  -- the element that holds the first byte common to the doubleword and the access
  have hi : (8 * d - a) / vecElem et < 8 := Nat.div_lt_of_lt_mul (by rw [Nat.mul_comm]; omega)
  have hx := badIn_eq_none.1 (h _ hi) d hd
  rw [elemAt_of_ne h3] at hx
  have hq := Nat.div_add_mod (8 * d - a) (vecElem et)
  have hr := Nat.mod_lt (8 * d - a) he
  rw [Nat.mul_comm] at hq
  exact hx (by omega) (by omega)

/-- The read of a whole access has no failing word, where every lane is read or the one element serves all. -/
theorem badIn_whole {et : BitVec 2} {all : Bool} {m : BitVec 8} {tl : Tile} {a : Nat}
    (hw : all = true ∨ et = 3 ∨ m = 0xFF) (hm : m ≠ 0 ∨ all = true)
    (h : ∀ i < 8, (all = true ∨ m.getLsbD i = true) → tl.badIn (a + elemAt et i) (vecElem et) = none) :
    tl.badIn a (vecWide et) = none := by
  by_cases h3 : et = 3
  · subst h3
    obtain ⟨i, hi, hm⟩ : ∃ i < 8, all = true ∨ m.getLsbD i = true := by
      rcases hm with hm | hm
      · by_contra hno
        push Not at hno
        exact hm (BitVec.eq_of_getLsbD_eq fun i hi => by simpa using (hno i hi).2)
      · exact ⟨0, by decide, .inl hm⟩
    exact h i hi hm
  · refine badIn_wide h3 fun i hi => h i hi ?_
    rcases hw with hw | hw | rfl
    · exact .inl hw
    · exact absurd hw h3
    · refine .inr ?_
      interval_cases i <;> rfl

theorem vecMem_of_vectorRead {et : BitVec 2} {ea : Int} {all : Bool} {s : State} {bs : List Byte}
    (h : VectorRead et ea all s bs) : vecMem et ea all s = .ok bs := by
  obtain ⟨⟨h0, h1, h2⟩, ⟨hm, rfl, rfl⟩ | ⟨hm, hf, hp, hr⟩⟩ := h
  · rw [vecMem_none hm, spAddr_ok h0 h1 h2]
    rfl
  have hn : ¬ ((s.bank.f.m = 0 && !all) = true) := by
    simp only [Bool.and_eq_true, decide_eq_true_eq, Bool.not_eq_true', not_and]
    rintro hz rfl
    simp [hz] at hm
  have hf' : fenceGate true false s = .ok () := hf
  simp only [vecMem, vecBytes_eq_vecWide, if_neg hn]
  split
  next hw =>
    simp only [Bool.or_eq_true, decide_eq_true_eq] at hw
    refine memRead_of_localRead ⟨hf, ⟨h0, h1, h2⟩, hp, ?_⟩
    rcases hr with ⟨ht, rfl, hb⟩ | hr
    · exact .inl ⟨ht, badIn_whole (or_assoc.1 hw) hm hb, rfl⟩
    · exact .inr hr
  next hw =>
    simp only [Bool.or_eq_true, decide_eq_true_eq, not_or] at hw
    obtain ⟨⟨ha, h3⟩, -⟩ := hw
    simp only [hf', spAddr_ok h0 h1 h2, hp, liftT_ok, bind_ok]
    rcases hr with ⟨ht, rfl, hb⟩ | ⟨ht, hg, rfl⟩
    · rw [show s.tile.tagClass s.slot.gen (ea.toNat / 32) = .own from ht]
      have hq : ((List.range 8).find? fun i => s.bank.f.m.getLsbD i &&
          (s.tile.badIn (ea.toNat + elemBytes et * i) (elemBytes et)).isSome) = none := by
        rw [List.find?_eq_none]
        intro i hi
        by_cases hl : s.bank.f.m.getLsbD i = true
        · have := hb i (List.mem_range.1 hi) (.inr hl)
          rw [elemAt_of_ne h3, Nat.mul_comm] at this
          simp [elemBytes_eq_vecElem, this]
        · simp [hl]
      simp only [hq]
    · rw [show s.tile.tagClass s.slot.gen (ea.toNat / 32) = .stale from ht]
      simp [spRead_of_cellRead (.inr ⟨ht, hg, rfl⟩)]

theorem elemBits_eq_laneBits (et : BitVec 2) (bs : List Byte) (i : Nat) : elemBits et bs i = laneBits et bs i := by
  obtain rfl | rfl | rfl | rfl : et = 0 ∨ et = 1 ∨ et = 2 ∨ et = 3 := by revert et; decide
  · simp [elemBits, laneBits, elemBytes, Nat.mul_comm]
  · simp [elemBits, laneBits, elemBytes, Nat.mul_comm]
  · simp [elemBits, laneBits, elemBytes]
  · rfl

theorem getElem_vec8 {α : Type} (f : Fin 8 → α) {i : Nat} (h : i < 8) : (vec8 f)[i] = f ⟨i, h⟩ := by
  interval_cases i <;> rfl

theorem laneOfWord_byte {et : BitVec 2} (h : et ≠ 3) (w : DWord) (i : Nat) :
    (w.extractLsb' (8 * i) 8).zeroExtend 32 = laneOfWord et w i := by
  rw [laneOfWord, if_neg h]
  apply BitVec.eq_of_toNat_eq
  have hm : ∀ n : Nat, n &&& 255 = n % 256 := fun n => Nat.and_two_pow_sub_one_eq_mod n 8
  simp [hm]
  omega

theorem vecSrc_of_vectorSource {o : SOp} {ea : Int} {all : Bool} {s : State} {x : Vector Word 8}
    (h : VectorSource o ea all s x) : vecSrc o ea all s = .ok x := by
  rcases h with ⟨hs, bs, hr, hx⟩ | ⟨hs, hz, w, hw, hx⟩
  · have : (vec8 fun i => elemBits o.sz bs i) = x := by
      ext1 i hi
      rw [getElem_vec8, hx i hi, elemBits_eq_laneBits]
    simp [vecSrc, hs, vecMem_of_vectorRead hr, this]
  · simp only [vecSrc, if_neg hs, chanHead_of_headWord hw, bind_ok, Except.ok.injEq]
    ext1 i hi
    rw [getElem_vec8, hx i hi]
    split
    next h3 => simp [laneOfWord, h3, BitVec.setWidth_eq_extractLsb']
    next h3 => exact laneOfWord_byte h3 w i

end Sys2Proof.Machine

/-! SUPPORT. Which instructions read an operand first, and what a store's access answers; with this, O10. -/

namespace Sys2Proof.Machine
open Sys2Proof.Claims

/-! ### The members of VALU -/

theorem minLane (a x : Word) : (if a.toInt ≤ x.toInt then a else x) = if x.slt a then x else a := by
  by_cases h : a.toInt ≤ x.toInt
  · simp [BitVec.slt, h]
  · simp [BitVec.slt, h, not_le.1 h]
theorem maxLane (a x : Word) : (if a.toInt ≤ x.toInt then x else a) = if a.slt x then x else a := by
  rcases lt_trichotomy a.toInt x.toInt with h | h | h
  · simp [BitVec.slt, h, h.le]
  · obtain rfl := BitVec.eq_of_toInt_eq h
    simp
  · simp [BitVec.slt, not_le.2 h, not_lt.2 h.le]
theorem cmpLane_eq (a x : Word) : cmpLane a x = if a.slt x then -1 else if x.slt a then 1 else 0 := by
  unfold cmpLane
  rcases lt_trichotomy a.toInt x.toInt with h | h | h
  · simp [BitVec.slt, h]
  · obtain rfl := BitVec.eq_of_toInt_eq h
    simp [BitVec.slt]
  · have hn : a ≠ x := fun e => by simp [e] at h
    simp [BitVec.slt, h, hn, not_lt.2 h.le]
theorem toNat_and_31 (x : Word) : (x &&& 31).toNat = x.toNat % 32 := by
  rw [BitVec.toNat_and]
  exact Nat.and_two_pow_sub_one_eq_mod _ 5

/-- Each member is the table's function of the lanes. -/
theorem exec_valu {m : (SOp → Instr) × (Word → Word → Word)} (h : m ∈ valuTable) :
    ∃ g : Word → Word → Word, (∀ a x, g a x = m.2 a x) ∧ ∀ o s, exec (m.1 o) s = word (m.1 o) useV s (valuBody g o) := by
  simp only [valuTable, List.mem_cons, List.not_mem_nil, or_false] at h
  rcases h with rfl | rfl | rfl | rfl | rfl | rfl | rfl | rfl | rfl | rfl | rfl | rfl
  case' inr.inr.inr.inl => refine ⟨_, minLane, fun _ _ => rfl⟩
  case' inr.inr.inr.inr.inl => refine ⟨_, maxLane, fun _ _ => rfl⟩
  all_goals refine ⟨_, fun a x => ?_, fun _ _ => rfl⟩
  all_goals simp [cmpLane_eq, ← toNat_and_31]

/-! ### Instructions that begin with the read of an operand -/

theorem exec_aluInstr (fn : AluFn) (o : SOp) (s : State) : exec (aluInstr fn o) s = word (aluInstr fn o) useAF s (aluBody fn o) := by
  cases fn <;> rfl
theorem exec_divInstr (fn : DivFn) (o : SOp) (s : State) : exec (divInstr fn o) s = word (divInstr fn o) useAF s (divBody fn o) := by
  cases fn <;> rfl
theorem exec_vfpu {m : (SOp → Instr) × (Nat → Nat → Nat)} (h : m ∈ vfpuTable) :
    ∃ g : Nat → Nat → Nat, ∀ o s, exec (m.1 o) s = word (m.1 o) useV s (vfpuBody g o) := by
  simp only [vfpuTable, List.mem_cons, List.not_mem_nil, or_false] at h
  rcases h with rfl | rfl | rfl | rfl | rfl | rfl <;> exact ⟨_, fun _ _ => rfl⟩
theorem exec_falu {o : SOp} {i : Instr} (h : i ∈ [Instr.fadd o, .fsub o, .fmul o, .fdiv o, .fmin o, .fmax o]) :
    ∃ g : Fmt → Nat → Nat → Nat, ∀ s, exec i s = word i useA s (faluBody g o) := by
  simp only [List.mem_cons, List.not_mem_nil, or_false] at h
  rcases h with rfl | rfl | rfl | rfl | rfl | rfl <;> exact ⟨_, fun _ => rfl⟩

section
variable {α β : Type} {w : BitVec 2} {s : State} {x : Except Stop α} {y : Except Stop β} {t : Trap}

/-- A body that waits for its counter and then goes on with an access that traps, or with two of which the second does. -/
theorem holdW_trap {f : α → Body} (hw : CounterZero w s) (hx : x = .error (.trap t)) :
    (holdW w s >>= fun _ => x >>= f) = .error (.trap t) := by
  rw [holdW_of_counterZero hw, hx]
  rfl
theorem holdW_trap_second {a : α} {f : α → β → Body} (hw : CounterZero w s) (hx : x = .ok a) (hy : y = .error (.trap t)) :
    (holdW w s >>= fun _ => x >>= fun a => y >>= f a) = .error (.trap t) := by
  rw [holdW_of_counterZero hw, hx, hy]
  rfl
end

section
variable {o : SOp} {s : State} {t : Trap} (hw : CounterZero o.w s)
include hw

theorem aluBody_trap (fn : AluFn) (h : srcRead o (o.ea s.bank) (sizeOf2 o.sz) s = .error (.trap t)) :
    aluBody fn o s = .error (.trap t) := holdW_trap hw h
theorem divBody_trap (fn : DivFn) (h : srcRead o (o.ea s.bank) (sizeOf2 o.sz) s = .error (.trap t)) :
    divBody fn o s = .error (.trap t) := holdW_trap hw h
theorem loadBody_trap (signed : Bool) (h : srcRead o (o.ea s.bank) (sizeOf2 o.sz) s = .error (.trap t)) :
    loadBody signed o s = .error (.trap t) := holdW_trap hw h
theorem pldBody_trap (h : memRead s (o.ea s.bank) 32 32 = .error (.trap t)) : pldBody o s = .error (.trap t) := holdW_trap hw h
theorem faluBody_trap (g : Fmt → Nat → Nat → Nat) (h : srcRead o (o.ea s.bank) (scalarBytes o.sz) s = .error (.trap t)) :
    faluBody g o s = .error (.trap t) := holdW_trap hw h
theorem fcmpBody_trap (h : srcRead o (o.ea s.bank) (scalarBytes o.sz) s = .error (.trap t)) :
    fcmpBody o s = .error (.trap t) := holdW_trap hw h
theorem fmaBody_trap (h : srcRead o (o.eaSplit s.bank) (scalarBytes o.sz) s = .error (.trap t)) :
    fmaBody o s = .error (.trap t) := holdW_trap hw h
theorem fmaBody_trap_second {x : DWord} (hx : srcRead o (o.eaSplit s.bank) (scalarBytes o.sz) s = .ok x)
    (h : memRead s (o.ea2 s.bank) (scalarBytes o.sz) (scalarBytes o.sz) = .error (.trap t)) :
    fmaBody o s = .error (.trap t) := holdW_trap_second hw hx h
theorem valuBody_trap (g : Word → Word → Word) (h : vecSrc o (o.ea s.bank) false s = .error (.trap t)) :
    valuBody g o s = .error (.trap t) := holdW_trap hw h
theorem vfpuBody_trap (g : Nat → Nat → Nat) (h : vecSrc o (o.ea s.bank) false s = .error (.trap t)) :
    vfpuBody g o s = .error (.trap t) := holdW_trap hw h
theorem vldBody_trap (h : vecSrc o (o.ea s.bank) false s = .error (.trap t)) : vldBody o s = .error (.trap t) := holdW_trap hw h
theorem vpermBody_trap (h : vecSrc o (o.ea s.bank) false s = .error (.trap t)) : vpermBody o s = .error (.trap t) := holdW_trap hw h
theorem vselBody_trap (h : vecSrc o (o.ea s.bank) true s = .error (.trap t)) : vselBody o s = .error (.trap t) := holdW_trap hw h
theorem vmacBody_trap (h : vecSrc o (o.eaSplit s.bank) false s = .error (.trap t)) : vmacBody o s = .error (.trap t) :=
  holdW_trap hw h
theorem vfmaBody_trap (h : vecSrc o (o.eaSplit s.bank) false s = .error (.trap t)) : vfmaBody o s = .error (.trap t) :=
  holdW_trap hw h
theorem vmacBody_trap_second {x : Vector Word 8} (hx : vecSrc o (o.eaSplit s.bank) false s = .ok x)
    (h : vecMem o.sz (o.ea2 s.bank) false s = .error (.trap t)) : vmacBody o s = .error (.trap t) := holdW_trap_second hw hx h
theorem vfmaBody_trap_second {x : Vector Word 8} (hx : vecSrc o (o.eaSplit s.bank) false s = .ok x)
    (h : vecMem o.sz (o.ea2 s.bank) false s = .error (.trap t)) : vfmaBody o s = .error (.trap t) := holdW_trap_second hw hx h
end

/-! ### Traps of a write -/

/-- A trap of the address or, after it, of the granule. -/
theorem memWrite_writeTrap {s : State} {ea : Int} {n : Nat} {bs : List (Option Byte)} {t : Trap} (hn : bs.length = n)
    (hf : Unfenced false true s) (h : WriteTrap s ea n t) : memWrite s ea n bs = .error (.trap t) := by
  subst hn
  have hf : fenceGate false true s = .ok () := hf
  rcases h with ⟨hr, rfl⟩ | ⟨h0, h1, ha, rfl⟩ | ⟨⟨h0, h1, h2⟩, hp, hc, rfl⟩
  · exact memWrite_addr hf (spAddr_range hr)
  · refine memWrite_addr hf (spAddr_align h0 h1 ?_)
    rw [← Int.toNat_of_nonneg h0] at ha
    exact_mod_cast ha
  · have hc : s.tile.tagClass s.slot.gen (ea.toNat / 32) = .ahead := hc
    simp [memWrite, cellWrite, hf, spAddr_ok h0 h1 h2, hp, State.spWrite, hc, mkTrap_ofNat_eq_plainTrap _ h0]
    rfl

/-- A trap of a write whose cause is range or alignment comes of the address. -/
theorem writeTrap_addr {s : State} {ea : Int} {n : Nat} {t : Trap} (h : WriteTrap s ea n t) (hc : t.cause = 0x03 ∨ t.cause = 0x04) :
    spAddr ea n n = .error t := by
  rcases h with ⟨hr, rfl⟩ | ⟨h0, h1, ha, rfl⟩ | ⟨-, -, -, rfl⟩
  · exact spAddr_range hr
  · refine spAddr_align h0 h1 ?_
    rw [← Int.toNat_of_nonneg h0] at ha
    exact_mod_cast ha
  · simp [plainTrap] at hc

/-- A write into a stale granule is made, whatever the policy. -/
theorem memWrite_stale {s : State} {ea : Int} {al : Nat} {bs : List (Option Byte)} (hf : Unfenced false true s)
    {n : Nat} (hn : bs.length = n) (hr : InReach ea n al) (hp : planeGate true ea.toNat n s = .ok ())
    (hc : TagIs s ea.toNat .stale) : ∃ s', memWrite s ea al bs = .ok s' := by
  subst hn
  obtain ⟨h0, h1, h2⟩ := hr
  have hc : s.tile.tagClass s.slot.gen (ea.toNat / 32) = .stale := hc
  exact ⟨_, memWrite_ok hf (cellWrite_ok h0 h1 h2 hp (by simp [State.spWrite, hc]; rfl))⟩

theorem length_storeBytes (n : Nat) (x : DWord) : ((bytesOf n x).map some).length = n := by simp
theorem length_ptrCells (p : Vector Ptr 8) : ((ptrBytes p).map some).length = 32 := by simp [length_ptrBytes]
theorem length_vstBytes_wide {et : BitVec 2} (h : et ≠ 3) (m : BitVec 8) (v : Vector Word 8) :
    (vstBytes et m v).length = vecWide et := by
  rw [length_vstBytes, elemBytes_eq_vecElem, vecWide_eq h]

/-! ### Stores -/

section
variable {o : SOp} {s s' : State} {t : Trap} (hw : CounterZero o.w s)
include hw

theorem storeBody_trap (h : memWrite s (o.ea s.bank) (sizeOf2 o.sz) ((bytesOf (sizeOf2 o.sz) s.bank.a).map some) = .error (.trap t)) :
    storeBody o s = .error (.trap t) := holdW_trap hw h
theorem storeBody_ok (h : memWrite s (o.ea s.bank) (sizeOf2 o.sz) ((bytesOf (sizeOf2 o.sz) s.bank.a).map some) = .ok s') :
    storeBody o s = .ok (srcDone o false s') := by
  simp [storeBody, holdW_of_counterZero hw, h]
theorem pstBody_eq : pstBody o s = memWrite s (o.ea s.bank) 32 ((ptrBytes s.bank.p).map some) := by
  simp [pstBody, holdW_of_counterZero hw]

/-- With M = 0 a vector store checks its address alone. -/
theorem vstBody_none (hm : s.bank.f.m = 0) :
    vstBody o s = liftT (spAddr (o.ea s.bank) (vecWide o.sz) (vecWide o.sz)) >>= fun _ => .ok (srcDone o false s) := by
  simp [vstBody, holdW_of_counterZero hw, hm, vecBytes_eq_vecWide]
theorem vstBody_some (hm : s.bank.f.m ≠ 0) :
    vstBody o s = memWrite s (o.ea s.bank) (vecWide o.sz) (vstBytes o.sz s.bank.f.m s.bank.v) >>= fun s' =>
      .ok (srcDone o false s') := by
  have hm : ¬ s.bank.f.m = 0 := hm
  simp only [vstBody, holdW_of_counterZero hw, vecBytes_eq_vecWide, bind_ok, if_neg hm]
end

end Sys2Proof.Machine

namespace Sys2Proof.Proofs
open Sys2Proof.Machine Sys2Proof.Claims

theorem operandTraps : OperandTraps := by
  intro o s i u n t hi hwf hs hu hw hf ht
  rcases hi with ⟨⟨fn, rfl⟩ | ⟨fn, rfl⟩, rfl, rfl⟩ | ⟨rfl | rfl, rfl, rfl⟩ | ⟨rfl, rfl, rfl⟩
  · have hx := srcRead_readTrap hs hf (sizeOf2_eq_bytesOfSize o.sz ▸ ht)
    exact (exec_aluInstr fn o s).trans (word_trap hwf hu (aluBody_trap hw fn hx))
  · have hx := srcRead_readTrap hs hf (sizeOf2_eq_bytesOfSize o.sz ▸ ht)
    exact (exec_divInstr fn o s).trans (word_trap hwf hu (divBody_trap hw fn hx))
  · exact word_trap hwf hu (loadBody_trap hw true (srcRead_readTrap hs hf (sizeOf2_eq_bytesOfSize o.sz ▸ ht)))
  · exact word_trap hwf hu (loadBody_trap hw false (srcRead_readTrap hs hf (sizeOf2_eq_bytesOfSize o.sz ▸ ht)))
  · exact word_trap hwf hu (pldBody_trap hw (memRead_readTrap hf ht))

theorem storeTraps : StoreTraps := by
  intro o s i u n hi hwf hu hw hf
  rcases hi with ⟨rfl, rfl, rfl⟩ | ⟨rfl, rfl, rfl⟩
  · rw [← sizeOf2_eq_bytesOfSize]
    have hl := length_storeBytes (sizeOf2 o.sz) s.bank.a
    refine ⟨fun t ht => ?_, fun hr hp hc => ?_⟩
    · exact word_trap hwf hu (storeBody_trap hw (memWrite_writeTrap hl hf ht))
    · obtain ⟨s', hs⟩ := memWrite_stale hf hl hr hp hc
      exact ⟨_, word_ok hwf hu (storeBody_ok hw hs)⟩
  · have hl := length_ptrCells s.bank.p
    refine ⟨fun t ht => ?_, fun hr hp hc => ?_⟩
    · exact word_trap hwf hu ((pstBody_eq hw).trans (memWrite_writeTrap hl hf ht))
    · obtain ⟨s', hs⟩ := memWrite_stale hf hl hr hp hc
      exact ⟨_, word_ok hwf hu ((pstBody_eq hw).trans hs)⟩

/-- A vector operand's trap where a lane is read, or one of the address. -/
theorem vectorStoreTraps (o : SOp) (s : State) (hwf : (Instr.vst o).wf = true) (hu : s.bank.free useV = true)
    (hw : CounterZero o.w s) (hf : Unfenced false true s) :
    (∀ t, WriteTrap s (o.ea s.bank) (vecWide o.sz) t → (s.bank.f.m ≠ 0 ∨ t.cause = 0x03 ∨ t.cause = 0x04) →
      Traps (.vst o) s t) ∧
    (InReach (o.ea s.bank) (vecWide o.sz) (vecWide o.sz) → planeGate true (o.ea s.bank).toNat (vecWide o.sz) s = .ok () →
      TagIs s (o.ea s.bank).toNat .stale → ∃ t, Completes (.vst o) s t) := by
  have h3 : o.sz ≠ 3 := by
    intro h
    simp [Instr.wf, h] at hwf
  have hl := length_vstBytes_wide h3 s.bank.f.m s.bank.v
  by_cases hm : s.bank.f.m = 0
  · refine ⟨fun t ht hc => word_trap hwf hu ((vstBody_none hw hm).trans ?_), fun hr _ _ =>
      ⟨_, word_ok (t := srcDone o false s) hwf hu ((vstBody_none hw hm).trans ?_)⟩⟩
    · rw [writeTrap_addr ht (hc.resolve_left (not_not_intro hm))]
      rfl
    · rw [spAddr_ok hr.1 hr.2.1 hr.2.2]
      rfl
  · refine ⟨fun t ht _ => word_trap hwf hu ((vstBody_some hw hm).trans ?_), fun hr hp hc => ?_⟩
    · rw [memWrite_writeTrap hl hf ht]
      rfl
    · obtain ⟨s', hs⟩ := memWrite_stale hf hl hr hp hc
      exact ⟨_, word_ok hwf hu ((vstBody_some hw hm).trans (by rw [hs]; rfl))⟩

theorem laneTraps : LaneTraps := by
  refine ⟨fun o s i u t hi hwf hs hu hw hf ht => ?_, fun o s t hwf hu hw hf => ⟨fun hs ht => ?_, fun x hx ht => ?_⟩,
    fun o s i t hi hwf hs hu hw hf ht hm => ?_, fun o s i t hi hwf hu hw hf hm => ⟨fun hs ht => ?_, fun x hx ht => ?_⟩,
    vectorStoreTraps⟩
  · have hx := srcRead_readTrap hs hf ht
    rcases hi with ⟨hi, rfl⟩ | ⟨rfl, rfl⟩
    · obtain ⟨g, hg⟩ := exec_falu hi
      exact (hg s).trans (word_trap hwf hu (faluBody_trap hw g hx))
    · exact word_trap hwf hu (fcmpBody_trap hw hx)
  · exact word_trap hwf hu (fmaBody_trap hw (srcRead_readTrap hs hf ht))
  · exact word_trap hwf hu (fmaBody_trap_second hw (srcRead_of_scalarSource hx) (memRead_readTrap hf ht))
  · by_cases hv : i = .vsel o
    · subst hv
      exact word_trap hwf hu (vselBody_trap hw (vecSrc_readTrap hs hf ht (.inr (.inl rfl))))
    have hx : vecSrc o (o.ea s.bank) false s = .error (.trap t) := by
      refine vecSrc_readTrap hs hf ht ?_
      rcases hm with hm | hm | hm
      · exact .inl hm
      · exact absurd hm hv
      · exact .inr (.inr hm)
    rcases hi with ⟨m, hmem, rfl⟩ | ⟨m, hmem, rfl⟩ | rfl | rfl | rfl
    · obtain ⟨g, -, hg⟩ := exec_valu hmem
      exact (hg o s).trans (word_trap hwf hu (valuBody_trap hw g hx))
    · obtain ⟨g, hg⟩ := exec_vfpu hmem
      exact (hg o s).trans (word_trap hwf hu (vfpuBody_trap hw g hx))
    · exact word_trap hwf hu (vldBody_trap hw hx)
    · exact word_trap hwf hu (vpermBody_trap hw hx)
    · exact absurd rfl hv
  · have hx : vecSrc o (o.eaSplit s.bank) false s = .error (.trap t) :=
      vecSrc_readTrap hs hf ht (hm.imp_right .inr)
    rcases hi with rfl | rfl
    · exact word_trap hwf hu (vmacBody_trap hw hx)
    · exact word_trap hwf hu (vfmaBody_trap hw hx)
  · have hx := vecSrc_of_vectorSource hx
    have hy := vecMem_readTrap (all := false) hf ht (hm.imp_right .inr)
    rcases hi with rfl | rfl
    · exact word_trap hwf hu (vmacBody_trap_second hw hx hy)
    · exact word_trap hwf hu (vfmaBody_trap_second hw hx hy)

/-- Settles O10: each body comes to its access first, once the counter that w names is zero, and ends where the access traps. -/
theorem operandAndStoreTraps : Obligations.OperandAndStoreTraps := ⟨operandTraps, storeTraps, laneTraps⟩

end Sys2Proof.Proofs

/-! SUPPORT. The lanes that a VALU body leaves; with this, O28. -/

namespace Sys2Proof.Machine
open Sys2Proof.Claims

theorem intLane_eq_laneInt (et : BitVec 2) (x : Word) : intLane et x = laneInt et x := by
  unfold intLane laneInt
  split <;> simp [BitVec.setWidth_eq_extractLsb']

theorem maskLanes_eq (m : BitVec 8) (v x : Vector Word 8) :
    maskLanes m v x = Vector.ofFn fun i : Fin 8 => if m.getLsbD i then x[i] else v[i] := by
  ext1 i hi
  rw [maskLanes, getElem_vec8 _ hi, Vector.getElem_ofFn]

theorem setV_maskLanes (s : State) (x : Vector Word 8) :
    setV s (maskLanes s.bank.f.m s.bank.v x) = putLanes s fun i => x[i] := by
  rw [maskLanes_eq, setV, putLanes]

section
variable {o : SOp} {s : State} {x : Vector Word 8} (hw : CounterZero o.w s)
include hw

theorem valuBody_ok (g : Word → Word → Word) (hx : vecSrc o (o.ea s.bank) false s = .ok x) :
    valuBody g o s = .ok (srcDone o false (putLanes s fun i => g s.bank.v[i] (laneInt o.sz x[i]))) := by
  have : (fun i : Fin 8 => (zipLanes g s.bank.v (mapLanes (intLane o.sz) x))[i]) =
      fun i => g s.bank.v[i] (laneInt o.sz x[i]) := by
    funext i
    simp [zipLanes, mapLanes, getElem_vec8, intLane_eq_laneInt]
  simp only [valuBody, holdW_of_counterZero hw, hx, bind_ok, setV_maskLanes, this]

theorem vmacBody_ok {ys : List Byte} (hx : vecSrc o (o.eaSplit s.bank) false s = .ok x)
    (hy : vecMem o.sz (o.ea2 s.bank) false s = .ok ys) :
    vmacBody o s = .ok (srcDone o true (putLanes s fun i =>
      s.bank.v[i] + laneInt o.sz x[i] * laneInt o.sz (laneBits o.sz ys i))) := by
  have : (fun i : Fin 8 => (zipLanes (· + ·) s.bank.v (zipLanes (· * ·) (mapLanes (intLane o.sz) x)
        (vec8 fun i => intLane o.sz (elemBits o.sz ys i))))[i]) =
      fun i : Fin 8 => s.bank.v[i] + laneInt o.sz x[i] * laneInt o.sz (laneBits o.sz ys i) := by
    funext i
    simp [zipLanes, mapLanes, getElem_vec8, intLane_eq_laneInt, elemBits_eq_laneBits]
  simp only [vmacBody, holdW_of_counterZero hw, hx, hy, bind_ok, setV_maskLanes, this]

theorem vselBody_ok (hx : vecSrc o (o.ea s.bank) true s = .ok x) :
    vselBody o s = .ok (srcDone o false (s.setBank { s.bank with
      v := Vector.ofFn fun i : Fin 8 => if s.bank.f.m.getLsbD i then s.bank.v[i] else laneInt o.sz x[i] })) := by
  have : (fun i : Fin 8 => if s.bank.f.m.getLsbD i then s.bank.v[i] else (mapLanes (intLane o.sz) x)[i]) =
      fun i : Fin 8 => if s.bank.f.m.getLsbD i then s.bank.v[i] else laneInt o.sz x[i] := by
    funext i
    simp [mapLanes, getElem_vec8, intLane_eq_laneInt]
  simp only [vselBody, holdW_of_counterZero hw, hx, bind_ok, maskLanes_eq, setV, this]
end

end Sys2Proof.Machine

namespace Sys2Proof.Proofs
open Sys2Proof.Machine Sys2Proof.Claims

/-- Settles O28: where its operands can be read, each body ends with the table's function of the lanes under M. -/
theorem vectorInteger : Obligations.VectorInteger := by
  refine ⟨fun o s x hu hw hx m hm hwf => ?_, fun o s x ys hwf hu hw hx hy => ?_, fun o s x hwf hu hw hx => ?_⟩
  · obtain ⟨g, hg, he⟩ := exec_valu hm
    have hb := valuBody_ok hw g (vecSrc_of_vectorSource hx)
    simp only [hg] at hb
    exact (he o s).trans (word_ok hwf hu hb)
  · exact word_ok hwf hu (vmacBody_ok hw (vecSrc_of_vectorSource hx) (vecMem_of_vectorRead hy))
  · exact word_ok hwf hu (vselBody_ok hw (vecSrc_of_vectorSource hx))

end Sys2Proof.Proofs

/-! SUPPORT. The bytes that a store leaves, one by one; with this, O15. -/

namespace Sys2Proof.Machine
open Sys2Proof.Claims

/-- A byte after a write: what was written there, or what stood. -/
theorem readByte_writeSome {m : Memory} (h : m.wf = true) (a c : Nat) (bs : List (Option Byte)) :
    readByte (writeSome m a bs) c =
      if a ≤ c ∧ c - a < bs.length ∧ (bs.getD (c - a) none).isSome then (bs.getD (c - a) none).getD 0 else readByte m c := by
  by_cases hc : a ≤ c ∧ c - a < bs.length
  · obtain ⟨j, rfl⟩ := Nat.exists_eq_add_of_le hc.1
    have hj : j < bs.length := by omega
    rw [readByte_writeSome_inside h a j bs hj]
    simp only [Nat.add_sub_cancel_left, List.getD_eq_getElem _ _ hj, Nat.le_add_right, hj, true_and]
    cases bs[j] <;> simp
  · rw [readByte_writeSome_outside h a c bs (by omega), if_neg (fun hn => hc ⟨hn.1, hn.2.1⟩)]

theorem readByte_zeroed {m : Memory} (h : m.wf = true) (a n c : Nat) :
    readByte (writeBytes m a (List.replicate n 0)) c = if a ≤ c ∧ c < a + n then 0 else readByte m c := by
  rw [writeBytes_eq_writeSome, List.map_replicate, readByte_writeSome h]
  by_cases hc : a ≤ c ∧ c < a + n
  · have hj : c - a < n := by omega
    have hg : (List.replicate n (some (0 : Byte))).getD (c - a) none = some 0 := by simp [hj]
    rw [if_pos hc, if_pos ⟨hc.1, by simpa using hj, by rw [hg]; rfl⟩, hg]
    rfl
  · rw [if_neg hc, if_neg (fun hn => hc ⟨hn.1, by have := hn.2.1; rw [List.length_replicate] at this; omega⟩)]

/-- The 32 bytes of the granule of a scratchpad address. -/
theorem mem_granule_iff (t a c : Nat) :
    (spadBase t + 32 * (a / 32) ≤ c ∧ c < spadBase t + 32 * (a / 32) + 32) ↔ c / 32 = (spadBase t + a) / 32 := by
  unfold spadBase
  omega

theorem tag_setTag {tl : Tile} (h : SMap.wfFrom 0xFFF 0 tl.tags = true) (gran k : Nat) (g : BitVec 12) :
    (tl.setTag gran g).tag k = if k = gran then g else tl.tag k := by
  split
  next hk =>
    subst hk
    exact get_set_same g h
  next hk => exact get_set_other g h hk

theorem tag_of_own {tl : Tile} {g : BitVec 12} {gran : Nat} (h : tl.tagClass g gran = .own) : tl.tag gran = g := by
  unfold Tile.tagClass at h
  split at h
  next e => exact e
  next => split at h <;> cases h

/-- A store into a granule of the context's own generation, and into a stale one. -/
theorem spWrite_own_eq {s : State} {g : BitVec 12} {a : Nat} {bs : List (Option Byte)}
    (hc : s.tile.tagClass g (a / 32) = .own) (hb : ∀ d ∈ touchedDwords a bs, d ∈ s.tile.bad → d ∈ coveredDwords a bs) :
    s.spWrite s.tid g a bs = .ok { s with
      mem := writeSome s.mem (spadBase s.tid + a) bs
      tile := { s.tile with
        bad := s.tile.bad.filter fun d => !(coveredDwords a bs).contains d
        soft := s.tile.soft.filter fun d => !(touchedDwords a bs).contains d
        corr := s.tile.corr ++ s.tile.soft.filter fun d => (touchedDwords a bs).contains d && !(coveredDwords a bs).contains d } } := by
  have hn : ((touchedDwords a bs).any fun d => s.tile.bad.contains d && !(coveredDwords a bs).contains d) = false := by
    simpa using hb
  simp only [State.spWrite, getTile_tid, hc, hn]
  exact congrArg Except.ok (modTile_focus { s with mem := writeSome s.mem (spadBase s.tid + a) bs } _)
theorem spWrite_stale_eq {s : State} {g : BitVec 12} {a : Nat} (bs : List (Option Byte))
    (hc : s.tile.tagClass g (a / 32) = .stale) :
    s.spWrite s.tid g a bs = .ok { s with
      mem := writeSome (writeBytes s.mem (spadBase s.tid + 32 * (a / 32)) (List.replicate 32 0)) (spadBase s.tid + a) bs
      tile := { s.tile.setTag (a / 32) g with
        bad := s.tile.bad.filter fun d => decide (d / 4 ≠ a / 32)
        soft := s.tile.soft.filter fun d => decide (d / 4 ≠ a / 32) } } := by
  simp only [State.spWrite, getTile_tid, hc]
  generalize writeSome (writeBytes s.mem (spadBase s.tid + 32 * (a / 32)) (List.replicate 32 0)) (spadBase s.tid + a) bs = m
  exact congrArg Except.ok (modTile_focus { s with mem := m } _)

/-- A store of the issuing context into its scratchpad, as it leaves memory and the tile. -/
theorem spWrite_stores {s : State} {ea : Int} {bs : List (Option Byte)} (hs : Tidy s)
    (h : TagIs s ea.toNat .stale ∨
      (TagIs s ea.toNat .own ∧ ∀ d ∈ touchedDwords ea.toNat bs, d ∈ s.tile.bad → d ∈ coveredDwords ea.toNat bs)) :
    ∃ t, s.spWrite s.tid s.slot.gen ea.toNat bs = .ok t ∧ StoredAt s t ea bs ∧ OnlyStored s t ea := by
  obtain ⟨hm, ht⟩ := hs
  rcases h with hc | ⟨hc, hb⟩
  · have hc : s.tile.tagClass s.slot.gen (ea.toNat / 32) = .stale := hc
    refine ⟨_, spWrite_stale_eq bs hc, fun a => ?_, fun g => tag_setTag ht _ _ _, rfl⟩
    simp only [byteAt, hc, true_and, ← mem_granule_iff, readByte_writeSome (wf_writeBytes hm _ _), readByte_zeroed hm]
  · have hc : s.tile.tagClass s.slot.gen (ea.toNat / 32) = .own := hc
    refine ⟨_, spWrite_own_eq hc hb, fun a => ?_, fun g => ?_, rfl⟩
    · simp only [byteAt, hc, readByte_writeSome hm]
      simp
    · split
      next hg => exact (congrArg _ hg).trans (tag_of_own hc)
      next => rfl

theorem memWrite_stores {s : State} {ea : Int} {al : Nat} {bs : List (Option Byte)} (hs : Tidy s)
    (h : LocalWrite s ea al bs) : ∃ t, memWrite s ea al bs = .ok t ∧ StoredAt s t ea bs ∧ OnlyStored s t ea := by
  obtain ⟨hf, ⟨h0, h1, h2⟩, hp, hc⟩ := h
  obtain ⟨t, ht, hst, hon⟩ := spWrite_stores hs hc
  exact ⟨t, memWrite_ok hf (cellWrite_ok h0 h1 h2 hp ht), hst, hon⟩

/-! ### The bytes that each form stores -/

theorem bytesOfNat_eq (n x : Nat) : bytesOfNat n x = (List.range n).map fun j => BitVec.ofNat 8 (x / 2 ^ (8 * j)) := by
  induction n generalizing x with
  | zero => rfl
  | succ n ih =>
    rw [bytesOfNat, ih, List.range_succ_eq_map, List.map_cons, List.map_map]
    congr 1
    · simp
    · refine List.map_congr_left fun j _ => ?_
      rw [Function.comp_apply, Nat.div_div_eq_div_mul, Nat.mul_succ, Nat.add_comm, Nat.pow_add]

theorem bytesOf_eq {w : Nat} (n : Nat) (x : BitVec w) : bytesOf n x = (List.range n).map fun j => x.extractLsb' (8 * j) 8 := by
  rw [bytesOf, bytesOfNat_eq]
  refine List.map_congr_left fun j _ => ?_
  apply BitVec.eq_of_toNat_eq
  simp [Nat.shiftRight_eq_div_pow]

theorem storeBytes_eq_lowBytes (n : Nat) (x : DWord) : (bytesOf n x).map some = lowBytes n x := by
  rw [bytesOf_eq, List.map_map, lowBytes]
  rfl

theorem toWord_eq_ptrBits (p : Ptr) : p.toWord = ptrBits p := by
  apply BitVec.eq_of_toNat_eq
  have hs : p.stride.toNat < 65536 := p.stride.isLt
  have ha : p.addr.toNat < 32768 := p.addr.isLt
  simp only [Ptr.toWord, ptrBits, BitVec.toNat_append, BitVec.toNat_ofNat]
  rw [← Nat.shiftLeft_add_eq_or_of_lt p.addr.isLt]
  simp only [Nat.shiftLeft_eq, Nat.zero_mod, Nat.or_zero]
  omega

/-- A row of `n` cells of `e` bytes each, byte by byte. -/
theorem flatMap_range_map {α : Type} {e : Nat} (he : 0 < e) (F : Nat → Nat → α) (n : Nat) :
    ((List.range n).flatMap fun i => (List.range e).map (F i)) = (List.range (n * e)).map fun j => F (j / e) (j % e) := by
  induction n with
  | zero => simp
  | succ n ih =>
    rw [List.range_succ, List.flatMap_append, ih, Nat.succ_mul, List.range_add, List.map_append, List.map_map]
    congr 1
    rw [List.flatMap_singleton]
    refine List.map_congr_left fun j hj => ?_
    have hj := List.mem_range.1 hj
    rw [Function.comp_apply, Nat.mul_comm, Nat.mul_add_div he, Nat.mul_add_mod, Nat.div_eq_of_lt hj, Nat.mod_eq_of_lt hj, Nat.add_zero]

theorem toList_eq_map_range (p : Vector Ptr 8) : p.toList = (List.range 8).map fun k => p.toList.getD k ⟨0, 0⟩ := by
  refine List.ext_getElem (by simp) fun k h1 h2 => ?_
  simp at h1
  simp [h1]

theorem ptrBytes_eq (p : Vector Ptr 8) :
    ptrBytes p = (List.range 32).map fun j => (ptrBits (p.toList.getD (j / 4) ⟨0, 0⟩)).extractLsb' (8 * (j % 4)) 8 := by
  have h := flatMap_range_map (e := 4) (by decide) (fun k j => (ptrBits (p.toList.getD k ⟨0, 0⟩)).extractLsb' (8 * j) 8) 8
  simp only [ptrBytes, bytesOf_eq, toWord_eq_ptrBits]
  exact (congrArg _ (toList_eq_map_range p)).trans ((List.flatMap_map _ _ _).trans h)

theorem ptrCells_eq {p : Vector Ptr 8} {bs : List (Option Byte)} (hl : bs.length = 32)
    (h : ∀ k j : Nat, (hk : k < 8) → j < 4 → bs[4 * k + j]? = some (some ((ptrBits p[k]).extractLsb' (8 * j) 8))) :
    (ptrBytes p).map some = bs := by
  refine List.ext_getElem (by rw [length_ptrCells, hl]) fun i h1 _ => ?_
  rw [length_ptrCells] at h1
  have hi := h (i / 4) (i % 4) (by omega) (by omega)
  rw [Nat.div_add_mod, List.getElem?_eq_getElem (by omega), Option.some.injEq] at hi
  rw [hi]
  have hk : i / 4 < 8 := by omega
  simp [ptrBytes_eq, hk]

theorem vstBytes_eq_vstData {et : BitVec 2} (h : et ≠ 3) (s : State) : vstBytes et s.bank.f.m s.bank.v = vstData et s := by
  simp only [vstBytes, vstData, bytesOf_eq, List.map_map, elemBytes_eq_vecElem, vecWide_eq h, Function.comp_def]
  exact flatMap_range_map (vecElem_pos et) (fun i j => if s.bank.f.m.getLsbD i then
    some ((s.bank.v.toList.getD i 0).extractLsb' (8 * j) 8) else none) 8

end Sys2Proof.Machine

namespace Sys2Proof.Proofs
open Sys2Proof.Machine Sys2Proof.Claims

theorem scalarStores : ScalarStores := by
  intro o s hs hw
  refine ⟨fun hwf hu hl => ?_, fun hwf bs hn hb hl => ?_⟩
  · rw [← sizeOf2_eq_bytesOfSize] at hl ⊢
    rw [← storeBytes_eq_lowBytes] at hl ⊢
    obtain ⟨t, ht, hst, hon⟩ := memWrite_stores hs hl
    exact ⟨t, hst, hon, word_ok hwf hu (storeBody_ok hw ht)⟩
  · have he := ptrCells_eq hn hb
    subst he
    obtain ⟨t, ht, hst, hon⟩ := memWrite_stores hs hl
    exact ⟨t, hst, hon, word_ok hwf (free_useNone _) ((pstBody_eq hw).trans ht)⟩

theorem vectorStore : VectorStore := by
  intro o s hwf hu hw hs
  have h3 : o.sz ≠ 3 := by
    intro h
    simp [Instr.wf, h] at hwf
  refine ⟨fun hm hr => word_ok hwf hu ((vstBody_none hw hm).trans ?_), fun hm hl => ?_⟩
  · rw [spAddr_ok hr.1 hr.2.1 hr.2.2]
    rfl
  · obtain ⟨t, ht, hst, hon⟩ := memWrite_stores hs hl
    refine ⟨t, hst, hon, word_ok hwf hu ((vstBody_some hw hm).trans ?_)⟩
    rw [vstBytes_eq_vstData h3, ht]
    rfl

/-- Settles O15: every form stores by one write of its granule, whose bytes `spWrite_stores` gives. -/
theorem stores : Obligations.Stores := ⟨scalarStores, vectorStore⟩

end Sys2Proof.Proofs

/-! SUPPORT. What a fetch answers, and the turn of a context whose fetch traps; with this, O21. -/

namespace Sys2Proof.Machine
open Sys2Proof.Claims

/-! ### The bytes at a PC -/

theorem wordOfBytes_eq (b0 b1 b2 b3 : Byte) : wordOfBytes b0 b1 b2 b3 = wordOf [b0, b1, b2, b3] := by
  have h0 := b0.isLt; have h1 := b1.isLt; have h2 := b2.isLt; have h3 := b3.isLt
  apply BitVec.eq_of_toNat_eq
  simp only [wordOfBytes, wordOf, leNat, BitVec.toNat_append, BitVec.toNat_ofNat]
  rw [← Nat.shiftLeft_add_eq_or_of_lt h2, ← Nat.shiftLeft_add_eq_or_of_lt h1, ← Nat.shiftLeft_add_eq_or_of_lt h0]
  simp only [Nat.shiftLeft_eq]
  omega

theorem majorOf_eq_one_iff (w : Word) : majorOf w = 1 ↔ w.toNat / 2 ^ 26 = 1 := by
  have h := w.isLt
  rw [← BitVec.toNat_inj, majorOf, BitVec.extractLsb'_toNat, Nat.shiftRight_eq_div_pow, show (1 : BitVec 6).toNat = 1 from rfl]
  omega

theorem mkTrap_pc (c : BitVec 8) (pc : BitVec 14) : mkTrap c (pc.zeroExtend 64) = trapTo c pc.toNat := by
  rw [BitVec.zeroExtend, ← BitVec.ofNat_toNat, mkTrap_eq_plainTrap]
  rfl

/-- Eight bytes whose first word has no meaning, and whose prefix has no successor. -/
theorem decode_undefined {bs : List Byte} (h : bs.length = 8) (h1 : majorOf (wordOf (bs.take 4)) ≠ 1)
    (hd : decodeWord (wordOf (bs.take 4)) = none) : decode bs = .error .illegal := by
  match bs, h with
  | [_, _, _, _, _, _, _, _], _ => simp_all [decode, wordOfBytes_eq]
theorem decode_misplaced {bs : List Byte} (h : bs.length = 8) (h1 : majorOf (wordOf (bs.take 4)) = 1)
    (hd : decodePair (wordOf (bs.take 4)) (wordOf (bs.drop 4)) = none) : decode bs = .error .illegalNext := by
  match bs, h with
  | [_, _, _, _, _, _, _, _], _ => simp_all [decode, wordOfBytes_eq]

section
variable {pc : BitVec 14} {bs : List Byte}

theorem decodeAt_undefined (h : bs.length = 8) (h1 : majorOf (wordOf (bs.take 4)) ≠ 1) (hd : decodeWord (wordOf (bs.take 4)) = none) :
    decodeAt pc bs = .trap (trapTo 0x01 pc.toNat) := by
  have hn : isPair (wordOf (bs.take 4)) = false := by simpa [isPair] using h1
  simp only [decodeAt, hn, decode_undefined h h1 hd, mkTrap_pc]
  rfl
theorem decodeAt_end (h1 : majorOf (wordOf (bs.take 4)) = 1) (he : pc.toNat % 4096 = 4095) :
    decodeAt pc bs = .trap (trapTo 0x08 (pc.toNat + 1)) := by
  have hn : isPair (wordOf (bs.take 4)) = true := by simpa [isPair] using h1
  have he : (pc.extractLsb' 0 12 == 4095) = true := beq_iff_eq.2 ((segmentEnd_iff pc).2 he)
  simp only [decodeAt, hn, he, mkTrap_eq_plainTrap]
  rfl
theorem decodeAt_misplaced (h : bs.length = 8) (h1 : majorOf (wordOf (bs.take 4)) = 1) (he : pc.toNat % 4096 ≠ 4095)
    (hd : decodePair (wordOf (bs.take 4)) (wordOf (bs.drop 4)) = none) :
    decodeAt pc bs = .trap (trapTo 0x01 (pc.toNat + 1)) := by
  have he : (pc.extractLsb' 0 12 == 4095) = false := beq_eq_false_iff_ne.2 (mt (segmentEnd_iff pc).1 he)
  simp only [decodeAt, he, Bool.and_false, decode_misplaced h h1 hd, mkTrap_eq_plainTrap]
  rfl
end

theorem length_bytesAtPc (s : State) : (bytesAtPc s).length = 8 := readBytes_length _ _ _

theorem fetch_barred {s : State} (h : s.slot.pre = none) (hp : s.slot.priv = false) (hpc : 0x3000 ≤ s.bank.pc.toNat) :
    fetch s = .trap (mkTrap causePriv (s.bank.pc.zeroExtend 64)) := by
  have : fetchBarred s.slot = true := by
    simp only [fetchBarred, hp, Bool.not_false, Bool.true_and, decide_eq_true_eq]
    exact hpc
  simp [fetch, h, this]
theorem fetch_open {s : State} (h : s.slot.pre = none) (hp : s.slot.priv = true ∨ s.bank.pc.toNat < 0x3000) :
    fetch s = decodeAt s.bank.pc (bytesAtPc s) := by
  have : fetchBarred s.slot = false := by
    rcases hp with hp | hp
    · simp [fetchBarred, hp]
    · have : ¬ 0x3000 ≤ s.slot.bank.pc.toNat := not_le.2 hp
      simp [fetchBarred, this]
  simp only [fetch, h, this]
  rfl

/-! ### The turn of a context whose fetch traps -/

section
variable (s : State) (k : Fin 8)

theorem slot_tile_turnTo (j : Nat) : (s.turnTo k).tile.slot j =
    if j = k then { s.tile.slot j with wait := none } else s.tile.slot j := by
  by_cases hj : j < 8
  · simp [State.turnTo, setWait, State.modSlot, State.slot, State.setSlot, Tile.slot, hj, Vector.getElem_set, eq_comm (a := k.val)]
    split <;> simp_all
  · simp [Tile.slot, hj, show j ≠ k by omega]

/-- What is pending for a slot does not turn on how its last wait ended. -/
theorem trapPending_turnTo (j : Nat) : (s.turnTo k).tile.trapPending j = s.tile.trapPending j := by
  have hrq : ∀ i, ((s.turnTo k).tile.slot i).rq = (s.tile.slot i).rq := fun i => by
    rw [slot_tile_turnTo]
    split <;> rfl
  have hr : nextReport (s.turnTo k).tile j = nextReport s.tile j := by
    simp only [nextReport, hrq]
    rfl
  simp only [Tile.trapPending, hr, slot_tile_turnTo]
  split <;> rfl
end

theorem modSlot_eq_self {s : State} {f : Slot → Slot} (h : f s.slot = s.slot) : s.modSlot f = s := by
  rw [modSlot_eq, h]
  simp [State.setSlot, State.slot]

theorem eventPending_false {k : Fin 8} {s : State} (h : Undisturbed (s.turnTo k)) : eventPending k s = false := by
  obtain ⟨-, -, hp, -⟩ := h
  rw [show (s.turnTo k).cur = k from rfl, trapPending_turnTo, slot_turnTo] at hp
  by_contra he
  simp only [eventPending, Bool.not_eq_false, Bool.and_eq_true, Bool.or_eq_true, beq_iff_eq] at he
  exact hp he

theorem tryWord_trap {k : Fin 8} {s : State} {t : Trap} (h : Undisturbed (s.turnTo k)) (hpre : (s.turnTo k).slot.pre = none)
    (hl : (s.turnTo k).slot.lineReady (s.turnTo k) (s.turnTo k).tid = true) (hf : fetch (s.turnTo k) = .trap t) :
    tryWord k s = .issue (takeTrap t (s.turnTo k).bank.pc (s.turnTo k)) .none 2 true := by
  obtain ⟨hr, he, -, hn, hc⟩ := h
  have hm : (s.turnTo k).modSlot (fun sl => { sl with pre := none }) = s.turnTo k := modSlot_eq_self (by rw [← hpre])
  have he : (s.turnTo k).slot.hasEntered = false := by
    rw [Slot.hasEntered, he]
    rfl
  have hq : ((s.turnTo k).slot.niq.any fun r => decide (r.seq < (s.turnTo k).slot.heldTo)) = false := by
    simpa using hn
  simp only [tryWord, hr, he, hq, hc, hl, hf, hm]
  rfl

/-! ### Fields without meaning, and outstanding replies -/

/-- A result that is the trap of an ill-formed instruction where the instruction is one. -/
def RefusesIllegal (i : Instr) (s : State) (r : Result) : Prop :=
  i.wf = false → r = .next (takeTrap (trapTo 0x01 s.bank.pc.toNat) s.bank.pc s)

theorem refuses_runWord (i : Instr) (u : Uses) (s : State) (adv : State → State) (body : State → Body) :
    RefusesIllegal i s (runWord i u s adv body) := by
  intro hw
  rw [runWord_illegal adv body hw, mkTrap_pc]
  rfl
theorem refuses_word (i : Instr) (u : Uses) (s : State) (body : State → Body) : RefusesIllegal i s (word i u s body) :=
  refuses_runWord i u s _ body
theorem refuses_execB (cond : BitVec 4) (off : BitVec 22) (s : State) : RefusesIllegal (.b cond off) s (execB cond off s) := by
  unfold execB
  split
  · exact refuses_runWord _ _ _ _ _
  · exact refuses_word _ _ _ _

theorem refuses_execXimm (hi : BitVec 26) (op : PairOp) (lo : BitVec 16) (s : State) :
    RefusesIllegal (.ximm hi op lo) s (execXimm hi op lo s) := refuses_runWord _ _ _ _ _

/-- Every form of the opcode table is a word or a jump, and each checks its fields first. -/
theorem refuses_execWord {i : Instr} (he : isEvent i = false) (s : State) : RefusesIllegal i s (execWord i s) := by
  cases i
  case b cond off => exact refuses_execB cond off s
  case ximm hi op lo => exact refuses_execXimm hi op lo s
  case j | call | ret | ja | calla | rpt | rptA | hret | eret | exit | halt =>
    dsimp only [execWord]
    exact refuses_runWord _ _ _ _ _
  all_goals simp [isEvent, encode] at he
  all_goals dsimp only [execWord]
  all_goals exact refuses_word _ _ _ _

end Sys2Proof.Machine

namespace Sys2Proof.Proofs
open Sys2Proof.Machine Sys2Proof.Claims

theorem fetchTraps : FetchTraps := by
  intro s pc w w2
  have hl := length_bytesAtPc s
  refine ⟨fun hn hp hpc => ?_, fun hn hp => ⟨fun h1 hd => ?_, fun h1 he => ?_, fun h1 he hd => ?_⟩, ?_⟩
  · rw [fetch_barred hn hp hpc, mkTrap_pc]
    rfl
  · rw [fetch_open hn hp, decodeAt_undefined hl (mt (majorOf_eq_one_iff _).1 h1) hd]
  · rw [fetch_open hn hp, decodeAt_end ((majorOf_eq_one_iff _).2 h1) he]
  · rw [fetch_open hn hp, decodeAt_misplaced hl ((majorOf_eq_one_iff _).2 h1) he hd]
  · rintro k s0 t rfl hpre hu hr hf
    rw [tryIssue, eventPending_false hu]
    exact tryWord_trap hu hpre hr hf

theorem illegalFields : IllegalFields := by
  intro i s hi hw
  rw [Traps, ← execWord_eq_exec i s hi]
  exact refuses_execWord hi s hw

theorem pendingReply : PendingReply := by
  intro o s i hw
  refine ⟨fun ha hi => ?_, fun hv hi => ?_⟩
  · have hf : ∀ f v, s.bank.free ⟨true, f, v⟩ = false := fun f v => by simp [Bank.free, ha]
    rcases hi with ⟨fn, rfl⟩ | ⟨fn, rfl⟩ | rfl | rfl
    · exact (exec_aluInstr fn o s).trans (runWord_pending _ _ hw (hf _ _))
    · exact (exec_divInstr fn o s).trans (runWord_pending _ _ hw (hf _ _))
    · exact runWord_pending (u := useA) _ _ hw (hf _ _)
    · exact runWord_pending (u := useA) _ _ hw (hf _ _)
  · have hf : s.bank.free useV = false := by simp [Bank.free, useV, hv]
    simp only [List.mem_cons, List.not_mem_nil, or_false] at hi
    rcases hi with rfl | rfl | rfl | rfl | rfl <;> exact runWord_pending _ _ hw hf

/-- Settles O21: the decoder's answers at a PC, and the two checks before the body of a word. -/
theorem fetchAndRefusals : Obligations.FetchAndRefusals := ⟨fetchTraps, illegalFields, pendingReply⟩

end Sys2Proof.Proofs

/-! SUPPORT. The channels that an `EXIT` drains; with this, O50. -/

namespace Sys2Proof.Machine
open Sys2Proof.Claims

/-! ### Draining channels -/

/-- Words were taken off channels of the context's tile, and credits returned, and nothing else was done. -/
def Drained (s t : State) : Prop :=
  Tabled t ∧ t = { s with circuits := t.circuits, links := t.links, credits := t.credits } ∧
  ∀ e, ∃ n, t.chanBuf s.tid e = (s.chanBuf s.tid e).drop n

theorem drained_refl {s : State} (h : Tabled s) : Drained s s := ⟨h, rfl, fun _ => ⟨0, rfl⟩⟩
theorem Drained.trans {s t u : State} (h : Drained s t) (h' : Drained t u) : Drained s u := by
  obtain ⟨-, he, hb⟩ := h
  obtain ⟨hw', he', hb'⟩ := h'
  refine ⟨hw', by rw [he', he], fun e => ?_⟩
  obtain ⟨n, hn⟩ := hb e
  obtain ⟨m, hm⟩ := hb' e
  rw [show t.tid = s.tid by rw [he], hn, List.drop_drop] at hm
  exact ⟨_, hm⟩
theorem Drained.tid_eq {s t : State} (h : Drained s t) : t.tid = s.tid := by rw [h.2.1]
theorem Drained.slot_eq {s t : State} (h : Drained s t) : t.slot = s.slot := by rw [h.2.1]; rfl
theorem Drained.mem_eq {s t : State} (h : Drained s t) : t.mem = s.mem := by rw [h.2.1]
theorem Drained.nil {s t : State} (h : Drained s t) {e : ChanEnd} (he : s.chanBuf s.tid e = []) : t.chanBuf s.tid e = [] := by
  obtain ⟨n, hn⟩ := h.2.2 e
  rw [hn, he, List.drop_nil]

theorem circuit_setCircuit {s : State} (h : Tabled s) (k j : Nat) (c : Circuit) :
    (s.setCircuit k c).circuit j = if j = k then c else s.circuit j := by
  split
  next hj =>
    subst hj
    exact get_set_same c h.1
  next hj => exact get_set_other c h.1 hj

theorem linkKey_inj {t : Nat} {d d' : BitVec 2} : t * 4 + d.toNat = t * 4 + d'.toNat ↔ d = d' := by
  rw [← BitVec.toNat_inj]
  omega
theorem link_setLink {s : State} (h : Tabled s) (t : Nat) (d d' : BitVec 2) (l : Link) :
    (s.setLink t d l).link t d' = if d' = d then l else s.link t d' := by
  split
  next hj =>
    subst hj
    exact get_set_same l h.2
  next hj => exact get_set_other l h.2 (mt linkKey_inj.1 hj)

section
variable {s : State} (h : Tabled s)
include h

theorem drained_circuit (k : Nat) (cr : List WordTo) :
    Drained s { s.setCircuit k { s.circuit k with buf := (s.circuit k).buf.tail } with credits := cr } := by
  refine ⟨⟨wfFrom_set _ h.1 (Nat.zero_le _), h.2⟩, rfl, fun e => ?_⟩
  cases e with
  | circuit die cid =>
    refine ⟨if circuitKey die cid = k then 1 else 0, (congrArg Circuit.buf (circuit_setCircuit h k _ _)).trans ?_⟩
    split
    next hk => simp [State.chanBuf, hk]
    next => rfl
  | link d => exact ⟨0, rfl⟩

theorem drained_link (t : Nat) (d : BitVec 2) (l : Link) (cr : List WordTo) (hl : ∃ n, l.buf = (s.link t d).buf.drop n)
    (ht : t = s.tid) : Drained s { s.setLink t d l with credits := cr } := by
  subst ht
  obtain ⟨n, hn⟩ := hl
  refine ⟨⟨h.1, wfFrom_set _ h.2 (Nat.zero_le _)⟩, rfl, fun e => ?_⟩
  cases e with
  | circuit die cid => exact ⟨0, rfl⟩
  | link d' =>
    refine ⟨if d' = d then n else 0, (congrArg Link.buf (link_setLink h _ d d' l)).trans ?_⟩
    split
    next hd => rw [hn, hd]; rfl
    next => rfl

theorem drained_consumeAt (e : ChanEnd) :
    Drained s (s.consumeAt s.tid e) ∧ (s.consumeAt s.tid e).chanBuf s.tid e = (s.chanBuf s.tid e).tail := by
  cases e with
  | circuit die cid =>
    refine ⟨drained_circuit h _ _, (congrArg Circuit.buf (circuit_setCircuit h _ (circuitKey die cid) _)).trans ?_⟩
    rw [if_pos rfl]
    rfl
  | link d =>
    obtain ⟨cr, he⟩ : ∃ cr, s.consumeAt s.tid (.link d) =
        { s.setLink s.tid d { s.link s.tid d with buf := (s.link s.tid d).buf.tail } with credits := cr } := by
      unfold State.consumeAt
      dsimp only
      split <;> exact ⟨_, rfl⟩
    rw [he]
    refine ⟨drained_link h _ _ _ _ ⟨1, List.drop_one.symm⟩ rfl, (congrArg Link.buf (link_setLink h _ d d _)).trans ?_⟩
    rw [if_pos rfl]
    rfl
end

/-- As many consumptions as words leave the channel empty. -/
theorem drained_foldl (e : ChanEnd) (l : List DWord) {s : State} (h : Tabled s) :
    Drained s (l.foldl (fun u _ => u.consumeAt u.tid e) s) ∧
      (l.foldl (fun u _ => u.consumeAt u.tid e) s).chanBuf s.tid e = (s.chanBuf s.tid e).drop l.length := by
  induction l generalizing s with
  | nil => exact ⟨drained_refl h, rfl⟩
  | cons w r ih =>
    obtain ⟨hd, hb⟩ := drained_consumeAt h e
    obtain ⟨hr, hbr⟩ := ih hd.1
    rw [hd.tid_eq, hb, List.drop_tail] at hbr
    exact ⟨hd.trans hr, hbr⟩

theorem drained_discardChan {s : State} (h : Tabled s) (n : BitVec 2) :
    Drained s (discardChan s n) ∧ ∀ e, (s.slot.chan n).r = some e → (discardChan s n).chanBuf s.tid e = [] := by
  unfold discardChan
  split
  next e he =>
    obtain ⟨hd, hb⟩ := drained_foldl e (s.chanBuf s.tid e) h
    refine ⟨hd, fun e' he' => ?_⟩
    rw [he, Option.some.injEq] at he'
    subst he'
    rw [hb, List.drop_length]
  next he => exact ⟨drained_refl h, fun e he' => by simp [he] at he'⟩

theorem drained_channels (l : List (BitVec 2)) {s : State} (h : Tabled s) :
    Drained s (l.foldl discardChan s) ∧ ∀ n ∈ l, ∀ e, (s.slot.chan n).r = some e → (l.foldl discardChan s).chanBuf s.tid e = [] := by
  induction l generalizing s with
  | nil => exact ⟨drained_refl h, by simp⟩
  | cons n r ih =>
    obtain ⟨hd, hb⟩ := drained_discardChan h n
    obtain ⟨hr, hbr⟩ := ih hd.1
    refine ⟨hd.trans hr, fun m hm e he => ?_⟩
    rw [List.foldl_cons]
    rcases List.mem_cons.1 hm with rfl | hm
    · rw [← hd.tid_eq]
      exact hr.nil (by rw [hd.tid_eq]; exact hb e he)
    · rw [← hd.tid_eq]
      exact hbr m hm e (by rw [hd.slot_eq]; exact he)

/-- The links that a slot no longer holds are released; no word moves. -/
theorem drained_releaseLinks {s : State} (h : Tabled s) : Drained s (releaseLinks s) := by
  unfold releaseLinks
  generalize [0#2, 1#2, 2#2, 3#2] = ds
  induction ds generalizing s with
  | nil => exact drained_refl h
  | cons d r ih =>
    rw [List.foldl_cons]
    dsimp only
    split
    · have hd : Drained s (s.setLink s.tid d { s.link s.tid d with bound := none }) := drained_link h _ _ _ s.credits ⟨0, rfl⟩ rfl
      exact hd.trans (ih hd.1)
    · exact ih h

/-! ### `EXIT` -/

/-- The slot of a context that ends, before it is emptied: unbound channels, disabled queues. -/
def unboundSlot (sl : Slot) : Slot :=
  { sl with ch := Vector.replicate 4 Channel.reset, rq := sl.rq.map fun q => { q with logsz := 0 } }
/-- The launches of a state in which the thread of a slot is marked ended. -/
def endedLaunches (s : State) : List Launch := (s.endThread s.tid s.cur).launches

/-- What `EXIT` leaves, once `u` has its channels drained. -/
def exitState (s u : State) : State :=
  { u with
    tile := (s.setSlot (unboundSlot s.slot)).tile.endContext s.cur
    launches := endedLaunches s }

theorem endThread_eq {s u : State} (ht : u.tid = s.tid) (hl : u.launches = s.launches) (hh : u.tile.launch = s.tile.launch) :
    u.endThread s.tid s.cur = { u with launches := endedLaunches s } := by
  have h1 : u.getTile s.tid = u.tile := by rw [← ht, getTile_tid]
  simp only [State.endThread, endedLaunches, getTile_tid, h1, hl, Tile.lid, hh]

theorem mem_channels (n : BitVec 2) : n ∈ [0#2, 1#2, 2#2, 3#2] := by revert n; decide

theorem exitBody_ok {s : State} (h : Tabled s) (hst : s.slot.st ≠ .handler) (hnb : s.slot.nb = 0) (hnm : s.slot.nm = 0)
    (hne : s.slot.ne = 0) (hq : s.slot.quiet = true) :
    ∃ u, Drained s u ∧ (∀ n e, (s.slot.chan n).r = some e → u.chanBuf s.tid e = []) ∧
      exitBody s = .ok (exitState s u) := by
  obtain ⟨hd, hb⟩ := drained_channels [0#2, 1#2, 2#2, 3#2] h
  generalize hdd : [0#2, 1#2, 2#2, 3#2].foldl discardChan s = d at hd hb
  have hr := drained_releaseLinks (s := d.setSlot { d.slot with ch := Vector.replicate 4 Channel.reset }) hd.1
  have hru : unbindAll d = releaseLinks (d.setSlot { d.slot with ch := Vector.replicate 4 Channel.reset }) := rfl
  rw [← hru] at hr
  have hu : unbindAll d = { s with
      tile := (s.setSlot { s.slot with ch := Vector.replicate 4 Channel.reset }).tile
      circuits := (unbindAll d).circuits, links := (unbindAll d).links, credits := (unbindAll d).credits } := by
    rw [hr.2.1, hd.2.1]
    rfl
  refine ⟨{ s with circuits := (unbindAll d).circuits, links := (unbindAll d).links, credits := (unbindAll d).credits },
    ⟨hr.1, rfl, fun e => ?_⟩, fun n e he => ?_, ?_⟩
  · obtain ⟨n, hn⟩ := hd.2.2 e
    obtain ⟨m, hm⟩ := hr.2.2 e
    have hm : (unbindAll d).chanBuf s.tid e = (d.chanBuf s.tid e).drop m := by rw [← hd.tid_eq]; exact hm
    refine ⟨n + m, ?_⟩
    rw [← List.drop_drop, ← hn, ← hm]
    rfl
  · obtain ⟨m, hm⟩ := hr.2.2 e
    have hm : (unbindAll d).chanBuf s.tid e = (d.chanBuf s.tid e).drop m := by rw [← hd.tid_eq]; exact hm
    rw [hb n (mem_channels n) e he, List.drop_nil] at hm
    exact hm
  · have hck : (s.slot.st != .handler) = true := by simpa using hst
    have hz : (s.slot.nb = 0 && s.slot.nm = 0 && s.slot.ne = 0 && s.slot.quiet) = true := by simp [hnb, hnm, hne, hq]
    have hx : (unbindAll d).modSlot (fun sl => { sl with rq := sl.rq.map fun q => { q with logsz := 0 } }) = { s with
        tile := (s.setSlot (unboundSlot s.slot)).tile
        circuits := (unbindAll d).circuits, links := (unbindAll d).links, credits := (unbindAll d).credits } := by
      generalize (unbindAll d).circuits = c, (unbindAll d).links = l, (unbindAll d).credits = cr at hu ⊢
      rw [hu]
      simp [State.modSlot, State.setSlot, State.slot, unboundSlot]
    simp only [exitBody, hck, hz, check_true, await_true, bind_ok, hdd]
    generalize (unbindAll d).modSlot _ = x at hx ⊢
    rw [endThread_eq (s := s) (u := x) (by rw [hx]) (by rw [hx]) (by rw [hx]; rfl), hx]
    rfl

theorem runWord_wait {i : Instr} {u : Uses} {s : State} {adv : State → State} {body : State → Body} {w : Wait}
    (hw : i.wf = true) (hf : s.bank.free u = true) (hb : body s = .error (.wait w)) :
    runWord i u s adv body = .next (setWait (some w) s) := by simp [runWord_body adv body hw hf, hb, finish]

theorem exitBody_busy {s : State} (hst : s.slot.st ≠ .handler) (h : s.slot.nb ≠ 0 ∨ s.slot.nm ≠ 0 ∨ s.slot.ne ≠ 0) :
    exitBody s = .error (.wait .quiet) := by
  have hck : (s.slot.st != .handler) = true := by simpa using hst
  have hz : (s.slot.nb = 0 && s.slot.nm = 0 && s.slot.ne = 0 && s.slot.quiet) = false := by
    simp only [Bool.and_eq_false_iff, decide_eq_false_iff_not]
    tauto
  simp only [exitBody, hck, hz, check_true, await_false, bind_ok, bind_error]
theorem exitBody_handler {s : State} (hst : s.slot.st = .handler) : exitBody s = .error (.trap (plainTrap 0x18 16)) := by
  simp only [exitBody, hst]
  rfl

theorem exec_exit (arg : BitVec 20) (s : State) : exec (.exit arg) s = runWord (.exit arg) useNone s id exitBody := rfl

/-! ### The slot that `EXIT` leaves -/

section
variable (tl : Tile) (k : Fin 8)

theorem slots_endOwner : (tl.endOwner k).slots = tl.slots := by
  unfold Tile.endOwner
  split
  · split <;> rfl
  · rfl
theorem slots_endContext (j : Fin 8) : (tl.endContext k).slots[j] = if j = k then (tl.slots[k]).emptied else tl.slots[j] := by
  simp only [Tile.endContext, Tile.setSlot, Tile.slot, k.isLt, dite_true, slots_endOwner]
  simp only [Fin.getElem_fin, Vector.getElem_set, Fin.ext_iff, eq_comm (a := k.val)]

theorem slots_setSlot_self (s : State) (x : Slot) : (s.setSlot x).tile.slots[s.cur] = x := slot_setSlot s x
theorem slots_setSlot_other (s : State) (x : Slot) {j : Fin 8} (h : j ≠ s.cur) :
    (s.setSlot x).tile.slots[j] = s.tile.slots[j] := by
  simp [State.setSlot, Fin.ext_iff.not.1 (Ne.symm h)]

theorem owner_endContext (h : tl.ownedBy k = true) :
    (tl.endContext k).owner = none ∨ (tl.pdotOwed = true ∧ (tl.endContext k).rel = true) := by
  simp only [Tile.endContext, Tile.setSlot, k.isLt, dite_true, Tile.endOwner, h, if_true]
  by_cases hp : tl.pdotOwed = true
  · simp [hp]
  · simp [hp]
end

theorem ownedBy_unbound {s : State} (h : OwnsMa s) : (s.setSlot (unboundSlot s.slot)).tile.ownedBy s.cur = true := by
  obtain ⟨ho, hr⟩ := h
  have hsl : (s.setSlot (unboundSlot s.slot)).tile.slot s.cur = unboundSlot s.slot := by
    rw [Tile.slot, dif_pos s.cur.isLt]
    exact slots_setSlot_self s _
  rw [Tile.ownedBy, hsl, Bool.and_eq_true, beq_iff_eq, beq_iff_eq]
  exact ⟨ho, hr⟩

theorem slot_of_tile {t : State} {tl : Tile} {k : Fin 8} (ht : t.tile = tl) (hk : t.cur = k) : t.slot = tl.slots[k] := by
  subst ht hk
  rfl
theorem slot_exitState {s u : State} (h : Drained s u) : (exitState s u).slot = (unboundSlot s.slot).emptied := by
  have hsl := slots_endContext (s.setSlot (unboundSlot s.slot)).tile s.cur s.cur
  rw [if_pos rfl, slots_setSlot_self] at hsl
  exact (slot_of_tile rfl (by rw [exitState, h.2.1])).trans hsl

theorem ended_endedLaunches {s : State} (h : s.tile.launch.isSome = true) {l : Launch} (hl : l ∈ endedLaunches s)
    (hid : l.lid = s.tile.lid) {th : Thread} (hth : th ∈ l.threads) (ht : th.tile = s.tid) (hk : th.slot = s.cur.val) :
    th.ended = true := by
  simp only [endedLaunches, State.endThread, getTile_tid, List.mem_map] at hl
  obtain ⟨l0, -, rfl⟩ := hl
  split at hid
  next hc =>
    rw [if_pos hc] at hth
    obtain ⟨th0, -, rfl⟩ := List.mem_map.1 hth
    split at ht
    next he => rw [if_pos he]
    next he =>
      rw [if_neg he] at hk
      exact absurd ⟨ht, hk⟩ he
  next hc => exact absurd ⟨hid, h⟩ hc

/-! ### `HALT` -/

section
variable {s : State}

theorem needSupervisor_ok (h : s.slot.priv = true) : needSupervisor s = .ok () := by
  rw [needSupervisor, h, check_true]
theorem needSupervisor_trap (h : s.slot.priv = false) : needSupervisor s = .error (.trap (plainTrap 0x02 0)) := by
  rw [needSupervisor, h, check_false]
  rfl

/-- The record of a stop, which no page fault displaces: it enters the buffer, or is held. -/
theorem stopRecord_stop (kind : BitVec 4) (code : BitVec 8) (pc : BitVec 14) (fgen dom : BitVec 16) :
    StopRecord s kind.toNat code.toNat pc.toNat (stopRecord kind code pc s.tid s.tile.tenant fgen dom) := by
  refine ⟨rfl, ?_, rfl, by simp [stopRecord], rfl⟩
  have hc := code.isLt
  simp only [stopRecord, BitVec.toNat_append]
  rw [← Nat.shiftLeft_add_eq_or_of_lt hc]
  simp only [Nat.shiftLeft_eq, BitVec.toNat_ofNat, Nat.zero_mod, Nat.zero_mul, Nat.zero_or, Nat.or_zero]
  omega
theorem addFault_stop {r : FaultRec} (h : r.isPage = false) :
    s.addFault r = if s.faults.length < 4096 then { s with faults := s.faults ++ [r] }
      else { s with heldFaults := s.heldFaults ++ [r] } := by
  simp [State.addFault, h]

theorem haltBody_trap (arg : BitVec 20) (h : s.slot.priv = false) : haltBody arg s = .error (.trap (plainTrap 0x02 0)) := by
  rw [haltBody, needSupervisor_trap h, bind_error]
theorem haltBody_ok (arg : BitVec 20) (h : s.slot.priv = true) :
    haltBody arg s = .ok ((s.setSlot { s.slot with halted := true }).addFault
      (stopRecord 14 (arg.extractLsb' 0 8) s.bank.pc s.tid s.tile.tenant s.fgen s.slot.dom)) := by
  rw [haltBody, needSupervisor_ok h, bind_ok, modSlot_eq]
end

theorem exec_halt (arg : BitVec 20) (s : State) : exec (.halt arg) s = runWord (.halt arg) useNone s id (haltBody arg) := rfl

/-! ### `METR` -/

section
variable {s : State} (arg : BitVec 20)

theorem metrBody_trap (ho : arg.getLsbD 13 = true) (h : s.slot.priv = false) :
    metrBody arg s = .error (.trap (plainTrap 0x02 0)) := by
  simp only [metrBody, ho, h]
  rfl
theorem bank_pendA (s : State) : (pendA s).bank = { s.bank with aPend := true } := bank_setBank _ _
theorem bank_nextSeq (s : State) (n : Nat) : (s.setSlot { s.slot with nextSeq := n }).bank = s.bank := by
  simp [State.bank, Slot.bank]
/-- The request of a `METR`. -/
def metrRequest (arg : BitVec 20) (s : State) : MetrReq :=
  { tile := s.tid, slot := s.cur, run := s.slot.run, sup := s.slot.priv, seq := s.slot.nextSeq,
    tenant := if arg.getLsbD 13 then (arg.extractLsb' 4 9).toNat else s.tile.tenant,
    idx := (arg.extractLsb' 0 4).toNat, value := none }
theorem metrBody_ok (h : arg.getLsbD 13 = false ∨ s.slot.priv = true) :
    metrBody arg s = .ok { pendA (s.setSlot { s.slot with nextSeq := s.slot.nextSeq + 1 }) with metr := s.metr ++ [metrRequest arg s] } := by
  have hc : (!arg.getLsbD 13 || s.slot.priv) = true := by
    rcases h with h | h
    · rw [h]; rfl
    · rw [h, Bool.or_true]
  simp only [metrBody, hc, check_true, bind_ok]
  rfl
end

/-! ### `LAUNCH` -/

/-- A field whose higher bits are zero. -/
theorem toNat_lt_of_and_not {arg m : BitVec 20} {k : Nat} (hm : m.toNat = 2 ^ k - 1) (h : (arg &&& ~~~m) = 0) :
    arg.toNat < 2 ^ k := by
  have he : arg = arg &&& m := by
    ext i hi
    have := congrArg (fun x : BitVec 20 => x[i]) h
    simp only [BitVec.getElem_and, BitVec.getElem_not] at this
    grind
  rw [he, BitVec.toNat_and, hm, Nat.and_two_pow_sub_one_eq_mod]
  exact Nat.mod_lt _ (Nat.two_pow_pos k)

theorem wf_launch {arg : BitVec 20} (h : (Instr.launch arg).wf = true) : (arg.extractLsb' 0 9).toNat = arg.toNat := by
  have := toNat_lt_of_and_not (k := 9) rfl (beq_iff_eq.1 h)
  simpa using this
theorem wf_plbw {arg : BitVec 20} (h : (Instr.plbw arg).wf = true) : (arg.extractLsb' 0 4).toNat = arg.toNat := by
  have := toNat_lt_of_and_not (k := 4) rfl (beq_iff_eq.1 h)
  simpa using this
theorem addrOfA (a : DWord) : (a.extractLsb' 0 15).toNat = a.toNat % 2 ^ 15 := by simp

section
variable {s : State} {arg : BitVec 20} {x y : List Byte}

theorem launchBody_addr {t : Trap} (h : spAddr ((s.bank.a.toNat % 2 ^ 15 : Nat) : Int) 64 64 = .error t) :
    launchBody arg s = .error (.trap t) := by
  simp only [launchBody, addrOfA, h, liftT_error, bind_error]

/-- The record that `LAUNCH` hands to the hub. -/
def launchSub (arg : BitVec 20) (s : State) (bs : List Byte) : HubSub :=
  { tile := s.tid, slot := s.cur, run := s.slot.run, seq := s.slot.nextSeq, q := (arg.extractLsb' 0 9).toNat,
    vf := tileVf s s.tid, dw := recordOf bs, block := BitVec.ofNat 15 (s.bank.a.toNat % 2 ^ 15), answer := none }
/-- The state that a `LAUNCH` leaves. -/
def launchState (arg : BitVec 20) (s : State) (bs : List Byte) : State :=
  { s.setSlot { s.slot with ne := s.slot.ne + 1, nextSeq := s.slot.nextSeq + 1 } with subs := s.subs ++ [launchSub arg s bs] }

/-- Once the record is read, the queue's tenant is checked, then the room that the request needs. -/
theorem launchBody_read (ha : s.bank.a.toNat % 2 ^ 15 % 64 = 0)
    (hp : planeGate false (s.bank.a.toNat % 2 ^ 15) 64 s = .ok ()) (hf : Unfenced false true s)
    (hx : s.spRead s.tid s.slot.gen s.slot.gpol (s.bank.a.toNat % 2 ^ 15) 32 = .ok x)
    (hy : s.spRead s.tid s.slot.gen s.slot.gpol (s.bank.a.toNat % 2 ^ 15 + 32) 32 = .ok y) :
    launchBody arg s = (do
      check ((s.queueOf (arg.extractLsb' 0 9).toNat).1 = s.tile.tenant) causePermission (BitVec.ofNat 64 (arg.extractLsb' 0 9).toNat)
      inboxRoom s
      counterRoom s.slot.ne
      .ok (launchState arg s (x ++ y))) := by
  have hf : fenceGate false true s = .ok () := hf
  have hs : spAddr ((s.bank.a.toNat % 2 ^ 15 : Nat) : Int) 64 64 = .ok (s.bank.a.toNat % 2 ^ 15) :=
    spAddr_ok (by omega) (by omega) (by omega)
  simp only [launchBody, addrOfA, hs, hp, hx, hy, hf, liftT_ok, bind_ok, Except.mapError]
  rfl

theorem inboxRoom_ok (h : InboxRoom s) : inboxRoom s = .ok () := by
  have h : s.tile.engineNe s.cur + s.slot.inbox.length < 16 := h
  simp [inboxRoom, h]
theorem counterRoom_ok {c : BitVec 16} (h : c ≠ 0xFFFF) : counterRoom c = .ok () := by
  have : decide (c ≠ 0xFFFF) = true := decide_eq_true h
  rw [counterRoom, this, await_true]
end

/-! ### `PLBW` and `PLBI` -/

theorem plbImage_eq (bs : List Byte) : Plb.ofDWords (dwordOf (bs.take 8)) (dwordOf (bs.drop 8)) = plbImage bs := by
  have hbit : ∀ n i : Nat, i < 64 → (BitVec.ofNat 64 n).getLsbD i = decide (n / 2 ^ i % 2 = 1) := fun n i hi => by
    rw [BitVec.getLsbD_ofNat, Nat.testBit_eq_decide_div_mod_eq, decide_eq_true hi, Bool.true_and]
  have hpart : ∀ n i w : Nat, i + w ≤ 64 → (BitVec.ofNat 64 n).extractLsb' i w = BitVec.ofNat w (n / 2 ^ i) := fun n i w h => by
    apply BitVec.eq_of_getLsbD_eq
    intro j hj
    have hij : i + j < 64 := by omega
    rw [BitVec.getLsbD_extractLsb', BitVec.getLsbD_ofNat, BitVec.getLsbD_ofNat, Nat.testBit_div_two_pow, Nat.add_comm j i,
      decide_eq_true hij, Bool.true_and]
  simp only [Plb.ofDWords, plbImage, dwordOf, hbit _ 63 (by decide), hbit _ 59 (by decide), hbit _ 58 (by decide),
    hbit _ 57 (by decide), hpart _ 0 56 (by decide), hpart _ 50 7 (by decide), hpart _ 0 16 (by decide), Nat.pow_zero, Nat.div_one]
theorem malformed_iff (e : Plb) : e.malformed = true ↔ Misplaced e := by
  simp [Plb.malformed, Misplaced, and_assoc]

section
variable {s : State} {arg : BitVec 20} {bs : List Byte}

/-- A tile whose PLB is replaced. -/
def withPlb (s : State) (p : Vector Plb 16) : State := { s with tile := { s.tile with plb := p } }

theorem plbwBody_trap (h : s.slot.priv = false) : plbwBody arg s = .error (.trap (plainTrap 0x02 0)) := by
  rw [plbwBody, needSupervisor_trap h, bind_error]
theorem plbwBody_read (h : s.slot.priv = true) (hr : LocalRead s ((s.bank.a.toNat % 2 ^ 15 : Nat) : Int) 16 16 bs) :
    plbwBody arg s = (do
      check (!(plbImage bs).malformed) causeProt (BitVec.ofNat 64 (s.bank.a.toNat % 2 ^ 15))
      .ok (withPlb s (s.tile.plb.set! (arg.extractLsb' 0 4).toNat (plbImage bs)))) := by
  simp only [plbwBody, needSupervisor_ok h, addrOfA, memRead_of_localRead hr, plbImage_eq, bind_ok]
  rfl

theorem getElem_set! {α : Type} (v : Vector α 16) (n : Nat) (x : α) (k : Fin 16) :
    (v.set! n x)[k] = if n = k.val then x else v[k] := by
  simp only [Vector.set!_eq_setIfInBounds, Fin.getElem_fin, Vector.getElem_setIfInBounds]

/-- The PLB after a `PLBI`. -/
def plbCleared (arg : BitVec 20) (s : State) : Vector Plb 16 :=
  if arg.extractLsb' 4 2 = 0 then s.tile.plb.set! (arg.extractLsb' 0 4).toNat
    { s.tile.plb.toList.getD (arg.extractLsb' 0 4).toNat Plb.reset with valid := false }
  else if arg.extractLsb' 4 2 = 1 then s.tile.plb.map fun e => { e with valid := false }
  else s.tile.plb.map fun e => if e.dom = s.bank.a.extractLsb' 0 16 then { e with valid := false } else e

theorem plbNamed_one {a : DWord} {k : Nat} {e : Plb} (h : arg.toNat / 16 % 4 = 0) :
    plbNamed arg a k e = decide (k = arg.toNat % 16) := by simp [plbNamed, h]
theorem plbNamed_all {a : DWord} {k : Nat} {e : Plb} (h : arg.toNat / 16 % 4 = 1) : plbNamed arg a k e = true := by
  simp [plbNamed, h]
theorem plbNamed_domain {a : DWord} {k : Nat} {e : Plb} (h0 : arg.toNat / 16 % 4 ≠ 0) (h1 : arg.toNat / 16 % 4 ≠ 1) :
    plbNamed arg a k e = decide (e.dom.toNat = a.toNat % 2 ^ 16) := by
  unfold plbNamed
  split
  next h => exact absurd h h0
  next h => exact absurd h h1
  next => rfl

theorem getElem_plbCleared (arg : BitVec 20) (s : State) (k : Fin 16) :
    (plbCleared arg s)[k] =
      if plbNamed arg s.bank.a k.val s.tile.plb[k] then { s.tile.plb[k] with valid := false } else s.tile.plb[k] := by
  have hf : ∀ n : BitVec 2, arg.extractLsb' 4 2 = n ↔ arg.toNat / 16 % 4 = n.toNat := fun n => by
    rw [← BitVec.toNat_inj, BitVec.extractLsb'_toNat, Nat.shiftRight_eq_div_pow]
  have hn : (arg.extractLsb' 0 4).toNat = arg.toNat % 16 := by simp
  unfold plbCleared
  split
  next h0 =>
    rw [getElem_set!, plbNamed_one ((hf 0).1 h0), hn]
    by_cases hk : arg.toNat % 16 = k.val
    · simp [hk]
    · simp [hk, Ne.symm hk]
  next h0 =>
    split
    next h1 => simp [plbNamed_all ((hf 1).1 h1)]
    next h1 =>
      rw [plbNamed_domain (mt (hf 0).2 h0) (mt (hf 1).2 h1)]
      simp [← BitVec.toNat_inj]

theorem plbiBody_ok (h : s.slot.priv = true) : plbiBody arg s = .ok (withPlb s (plbCleared arg s)) := by
  simp only [plbiBody, needSupervisor_ok h, bind_ok]
  rfl
theorem plbiBody_trap (h : s.slot.priv = false) : plbiBody arg s = .error (.trap (plainTrap 0x02 0)) := by
  rw [plbiBody, needSupervisor_trap h, bind_error]
end

end Sys2Proof.Machine

namespace Sys2Proof.Proofs
open Sys2Proof.Machine Sys2Proof.Claims

theorem exiting : Exiting := by
  intro s htab
  refine ⟨fun hst hnb hnm hne hq => ?_, fun hst h => ?_, fun hst => ?_⟩
  · obtain ⟨u, hd, hb, hok⟩ := exitBody_ok htab hst hnb hnm hne hq
    have hsl := slot_exitState hd
    refine ⟨exitState s u, (exec_exit 0 s).trans (runWord_ok rfl (free_useNone _) hok), by rw [hsl]; rfl, by rw [hsl]; rfl,
      by rw [hsl]; rfl, by rw [hsl]; rfl, by rw [hsl]; rfl, fun q => ?_, hb, hd.mem_eq, fun ho => ?_,
      fun hl l hm hid th hth ht hk => ?_, fun k hk => ?_⟩
    · rw [hsl]
      simp [Slot.emptied, unboundSlot]
    · exact owner_endContext _ _ (ownedBy_unbound ho)
    · exact ended_endedLaunches hl hm hid hth ht hk
    · exact (slots_endContext _ s.cur k).trans ((if_neg hk).trans (slots_setSlot_other s _ hk))
  · exact (exec_exit 0 s).trans (runWord_wait rfl (free_useNone _) (exitBody_busy hst h))
  · exact (exec_exit 0 s).trans (runWord_trap rfl (free_useNone _) (exitBody_handler hst))

theorem halting : Halting := by
  intro arg s hwf
  refine ⟨fun hp => ?_, fun hp => (exec_halt arg s).trans (runWord_trap hwf (free_useNone _) (haltBody_trap arg hp))⟩
  have hr := stopRecord_stop (s := s) 14 (arg.extractLsb' 0 8) s.bank.pc s.fgen s.slot.dom
  rw [show (arg.extractLsb' 0 8).toNat = arg.toNat % 256 by simp] at hr
  refine ⟨_, _, (exec_halt arg s).trans (runWord_ok hwf (free_useNone _) (haltBody_ok arg hp)), ?_, ?_, hr, ?_⟩
  · rw [id_eq, addFault_stop rfl]
    split <;> exact slot_setSlot s _
  · simp
  · rw [id_eq, addFault_stop rfl]
    by_cases h : s.faults.length < 4096
    · rw [if_pos h, if_pos (by exact h)]
      exact ⟨rfl, rfl⟩
    · rw [if_neg h, if_neg (by exact h)]
      exact ⟨rfl, rfl⟩

theorem meterReads : MeterReads := by
  intro arg s hwf hu other
  have hother : other = arg.getLsbD 13 := (Nat.testBit_eq_decide_div_mod_eq (x := arg.toNat) (i := 13)).symm
  rw [hother]
  refine ⟨fun h => ?_, fun ho hp => word_trap hwf hu (metrBody_trap arg ho hp)⟩
  refine ⟨_, metrRequest arg s, word_ok hwf hu (metrBody_ok arg h), rfl, ?_, rfl, rfl, rfl, rfl, rfl, ?_, ?_, rfl⟩
  · exact (bank_pendA _).trans (by rw [bank_nextSeq])
  · simp [metrRequest]
  · rw [metrRequest, BitVec.extractLsb'_toNat, Nat.shiftRight_eq_div_pow]

theorem launching : Launching := by
  intro arg s x y hwf hu hf a
  refine ⟨fun ha hr => ?_, fun hr => ?_, fun ha hp hx hy => ⟨fun hq => ?_, fun hq hi hn => ?_⟩⟩
  · exact word_trap hwf hu (launchBody_addr (spAddr_align (by omega) (by omega) (by omega)))
  · exact word_trap hwf hu (launchBody_addr (spAddr_range (by omega)))
  · refine word_trap hwf hu ((launchBody_read ha hp hf hx hy).trans ?_)
    have hc : decide ((s.queueOf (arg.extractLsb' 0 9).toNat).1 = s.tile.tenant) = false := by
      rw [wf_launch hwf]
      exact decide_eq_false hq
    rw [hc, check_false, bind_error, mkTrap_eq_plainTrap, wf_launch hwf]
    rfl
  · have hc : decide ((s.queueOf (arg.extractLsb' 0 9).toNat).1 = s.tile.tenant) = true := by
      rw [wf_launch hwf]
      exact decide_eq_true hq
    have hok : launchBody arg s = .ok (launchState arg s (x ++ y)) := by
      rw [launchBody_read ha hp hf hx hy, hc, inboxRoom_ok hi, counterRoom_ok hn]
      rfl
    have hsl : (launchState arg s (x ++ y)).slot = { s.slot with ne := s.slot.ne + 1, nextSeq := s.slot.nextSeq + 1 } :=
      slot_setSlot s _
    refine ⟨launchState arg s (x ++ y), launchSub arg s (x ++ y), word_ok hwf hu hok, rfl, ?_, wf_launch hwf, rfl, rfl, rfl, ?_, rfl,
      by rw [hsl], ?_, rfl⟩
    · ext1 i hi
      simp [launchSub, recordOf, getElem_vec8, Claims.recordWords]
    · have : a < 2 ^ 15 := Nat.mod_lt _ (by decide)
      simp only [launchSub, BitVec.toNat_ofNat]
      exact Nat.mod_eq_of_lt this
    · rw [State.bank, hsl]
      rfl

theorem plbWrites : PlbWrites := by
  intro arg s bs hwf hu a
  refine ⟨fun hp hr => ⟨fun hm => ?_, fun hm => ?_⟩, fun hp => word_trap hwf hu (plbwBody_trap hp)⟩
  · have hm : (!(plbImage bs).malformed) = true := by
      rw [← malformed_iff] at hm
      simpa using hm
    have hok : plbwBody arg s = .ok (withPlb s (s.tile.plb.set! (arg.extractLsb' 0 4).toNat (plbImage bs))) := by
      rw [plbwBody_read hp hr, hm]
      rfl
    refine ⟨_, word_ok hwf hu hok, fun k => ?_, rfl⟩
    rw [wf_plbw hwf]
    exact (getElem_set! _ _ _ k).trans (if_congr eq_comm rfl rfl)
  · have hm : (!(plbImage bs).malformed) = false := by
      rw [← malformed_iff] at hm
      simpa using hm
    refine word_trap hwf hu ((plbwBody_read hp hr).trans ?_)
    rw [hm, check_false, bind_error, mkTrap_eq_plainTrap]
    rfl

theorem plbInvalidations : PlbInvalidations := by
  intro arg s hwf hu
  exact ⟨fun hp => ⟨_, word_ok hwf hu (plbiBody_ok hp), getElem_plbCleared arg s, rfl⟩,
    fun hp => word_trap hwf hu (plbiBody_trap hp)⟩

/-- Settles O50: each body's checks in turn, and the state that it leaves. -/
theorem systemInstructions : Obligations.SystemInstructions :=
  ⟨exiting, halting, launching, meterReads, plbWrites, plbInvalidations⟩

end Sys2Proof.Proofs

/-! SUPPORT. Queue heads, held queues and the overflow ring as the runtime writes them; with what follows, O53. -/

namespace Sys2Proof.Machine
open Sys2Proof.Claims

theorem ctxOk_of_unit {t k : Nat} (h : Unit_ t k) : ctxOk t k = true := by
  obtain ⟨ht, hk⟩ := h
  simp [ctxOk, ht, hk]
theorem tileOk_of_lt {t : Nat} (h : t < tileCount) : tileOk t = true := decide_eq_true h

/-- An event at a unit that exists, whose body answers. -/
theorem event_ok {ok : Bool} {s t : State} {body : State → Option State} (hok : ok = true) (hb : body s = some t) :
    event ok s body = .next t := by
  subst hok
  exact event_some hb

/-! ### A slot's queues -/

theorem queue_eq_getD (sl : Slot) {q : Nat} (h : q < 4) : sl.queue (BitVec.ofNat 2 q) = sl.rq.toList.getD q RQueue.reset := by
  simp [Slot.queue, Nat.mod_eq_of_lt h, h]
theorem setQueue_eq_set! (sl : Slot) {q : Nat} (h : q < 4) (x : RQueue) :
    sl.setQueue (BitVec.ofNat 2 q) x = { sl with rq := sl.rq.set! q x } := by
  have : sl.rq.set (BitVec.ofNat 2 q).toNat x (BitVec.ofNat 2 q).isLt = sl.rq.set! q x := by
    ext1 i hi
    simp [Vector.getElem_set, Vector.getElem_setIfInBounds, Vector.set!_eq_setIfInBounds, Nat.mod_eq_of_lt h]
  rw [Slot.setQueue, this]
theorem queue_setQueue (sl : Slot) (q j : BitVec 2) (x : RQueue) : (sl.setQueue q x).queue j = if q = j then x else sl.queue j := by
  simp [Slot.setQueue, Slot.queue, Vector.getElem_set, BitVec.toNat_inj]

theorem slot_setSlot_ite (tl : Tile) {k : Nat} (j : Nat) (x : Slot) (h : k < 8) :
    (tl.setSlot k x).slot j = if k = j then x else tl.slot j := by
  split
  next hj =>
    subst hj
    exact slot_setSlot_tile tl k x h
  next hj => exact slot_setSlot_tile_other tl k j x hj

/-! ### Held queues -/

theorem handlerQueue_eq (tl : Tile) (q : BitVec 2) : tl.handlerQueue q = (tl.slot 7).queue q := rfl

/-- The tile with its queue no longer held, before the message is dropped. -/
def unheld (k : Nat) (tl : Tile) : Tile :=
  { tl.setSlot k { tl.slot k with tmsg := { (tl.slot k).tmsg with hold := false } } with
    hold := tl.hold.set (tl.slot k).tmsg.q.toNat false (tl.slot k).tmsg.q.isLt }

theorem releaseQueue_eq {drop : Bool} {k : Nat} {tl : Tile} (hk : k < 8) (h : (tl.slot k).tmsg.hold = true) :
    releaseQueue drop k tl =
      if drop then (unheld k tl).setSlot 7 (((unheld k tl).slot 7).setQueue (tl.slot k).tmsg.q
        (((unheld k tl).slot 7).queue (tl.slot k).tmsg.q).pop)
      else unheld k tl := by
  have hu : unheld k tl = { tl.setSlot k { tl.slot k with tmsg := { (tl.slot k).tmsg with hold := false } } with
      hold := (tl.setSlot k { tl.slot k with tmsg := { (tl.slot k).tmsg with hold := false } }).hold.set
        (tl.slot k).tmsg.q.toNat false (tl.slot k).tmsg.q.isLt } := by
    simp only [unheld, Tile.setSlot, dif_pos hk]
  simp only [releaseQueue, h, if_true, ← hu]

theorem hold_unheld (k : Nat) (tl : Tile) (j : Fin 4) :
    (unheld k tl).hold[j] = if j.val = (tl.slot k).tmsg.q.toNat then false else tl.hold[j] := by
  simp [unheld, Vector.getElem_set, eq_comm]

section
variable {k : Nat} {tl : Tile} (hk : k < 8)
include hk

theorem slot_unheld (j : Nat) : (unheld k tl).slot j =
    if k = j then { tl.slot k with tmsg := { (tl.slot k).tmsg with hold := false } } else tl.slot j := slot_setSlot_ite tl j _ hk
theorem queue_unheld (j : BitVec 2) (i : Nat) : ((unheld k tl).slot i).queue j = (tl.slot i).queue j := by
  rw [slot_unheld hk]
  split
  next h =>
    subst h
    rfl
  next => rfl

theorem slot_releaseQueue_kept (h : (tl.slot k).tmsg.hold = true) : releaseQueue false k tl = unheld k tl :=
  releaseQueue_eq hk h
theorem slot_releaseQueue (h : (tl.slot k).tmsg.hold = true) (j : Nat) :
    (releaseQueue true k tl).slot j = if 7 = j then ((unheld k tl).slot 7).setQueue (tl.slot k).tmsg.q
      (((unheld k tl).slot 7).queue (tl.slot k).tmsg.q).pop else (unheld k tl).slot j := by
  rw [releaseQueue_eq hk h, if_pos rfl, slot_setSlot_ite _ _ _ (by decide)]
theorem hold_releaseQueue (drop : Bool) (h : (tl.slot k).tmsg.hold = true) : (releaseQueue drop k tl).hold = (unheld k tl).hold := by
  rw [releaseQueue_eq hk h]
  split
  · rw [Tile.setSlot, dif_pos (by decide)]
  · rfl
theorem tmsg_releaseQueue (drop : Bool) (h : (tl.slot k).tmsg.hold = true) :
    ((releaseQueue drop k tl).slot k).tmsg = { (tl.slot k).tmsg with hold := false } := by
  have hu : ((unheld k tl).slot k).tmsg = { (tl.slot k).tmsg with hold := false } := by rw [slot_unheld hk, if_pos rfl]
  cases drop with
  | false => rw [slot_releaseQueue_kept hk h, hu]
  | true =>
    rw [slot_releaseQueue hk h]
    split
    next h7 =>
      subst h7
      exact hu
    next => exact hu
theorem handlerQueue_releaseQueue (drop : Bool) (h : (tl.slot k).tmsg.hold = true) (j : BitVec 2) :
    (releaseQueue drop k tl).handlerQueue j =
      if drop = true ∧ (tl.slot k).tmsg.q = j then (tl.handlerQueue j).pop else tl.handlerQueue j := by
  cases drop with
  | false => simp [slot_releaseQueue_kept hk h, handlerQueue_eq, queue_unheld hk]
  | true =>
    rw [handlerQueue_eq, slot_releaseQueue hk h, if_pos rfl, queue_setQueue, queue_unheld hk, queue_unheld hk]
    by_cases hj : (tl.slot k).tmsg.q = j
    · simp [hj, handlerQueue_eq]
    · simp [hj, handlerQueue_eq]
end

/-! ### The overflow ring -/


section
variable {tl : Tile} {ix : Nat}

/-- The record belongs to no thread and to no handler queue of a launch (R415). -/
theorem oinfoFree_lost (hv : (tl.ovfRec ix).valid = true) (h : tl.launch = none ∨ ((tl.slot (tl.ovfRec ix).slot.toNat).st = .empty ∧
    ¬ ((tl.ovfRec ix).slot = 7 ∧ tl.hasHandlers = true))) : oinfoFreeTile ix tl = (tl.freeOvfRec ix).meter 10 1 := by
  have hc : (tl.launch.isNone || ((tl.slot (tl.ovfRec ix).slot.toNat).st == .empty &&
      !((tl.ovfRec ix).slot = 7 && tl.hasHandlers))) = true := by
    rcases h with h | ⟨h1, h2⟩
    · simp [h]
    · have h2 : (decide ((tl.ovfRec ix).slot = 7) && tl.hasHandlers) = false := by
        rw [Bool.and_eq_false_iff, decide_eq_false_iff_not, ← Bool.not_eq_true]
        tauto
      rw [h1, h2]
      exact Bool.or_true _
  simp only [oinfoFreeTile, hv, hc, if_true]
theorem oinfoFree_taken (hv : (tl.ovfRec ix).valid = true) (hl : tl.launch ≠ none)
    (h : (tl.slot (tl.ovfRec ix).slot.toNat).st ≠ .empty ∨ ((tl.ovfRec ix).slot = 7 ∧ tl.hasHandlers = true)) :
    oinfoFreeTile ix tl = tl.freeOvfRec ix := by
  have hc : (tl.launch.isNone || ((tl.slot (tl.ovfRec ix).slot.toNat).st == .empty &&
      !((tl.ovfRec ix).slot = 7 && tl.hasHandlers))) = false := by
    have hl : tl.launch.isNone = false := Bool.eq_false_iff.2 (mt Option.isNone_iff_eq_none.1 hl)
    rcases h with h | ⟨h1, h2⟩
    · simp [hl, h]
    · simp [hl, h1, h2]
  simp only [oinfoFreeTile, hv, hc, if_true]
  rfl
end

section
variable {s : State} {t ix : Nat}

theorem redoRecord_full (hv : ((s.getTile t).ovfRec ix).valid = true)
    (hf : (((s.getTile t).slot ((s.getTile t).ovfRec ix).slot.toNat).queue ((s.getTile t).ovfRec ix).q).full = true) :
    redoRecord s t ix = s.modSlotAt t ((s.getTile t).ovfRec ix).slot.toNat fun sl => sl.setQueue ((s.getTile t).ovfRec ix).q
      { ((s.getTile t).slot ((s.getTile t).ovfRec ix).slot.toNat).queue ((s.getTile t).ovfRec ix).q with rearm := true } := by
  simp [redoRecord, hv, hf]
theorem redoRecord_room (hv : ((s.getTile t).ovfRec ix).valid = true)
    (hf : (((s.getTile t).slot ((s.getTile t).ovfRec ix).slot.toNat).queue ((s.getTile t).ovfRec ix).q).full = false) :
    redoRecord s t ix =
      let r := (s.getTile t).ovfRec ix
      let g := (s.getTile t).stampGen r.slot.toNat (decide (r.slot = 7) && (s.getTile t).hasHandlers)
      let c := s.modTile t Tile.countArrival
      (if c.recordAhead t r.slot.toNat r.q g then c.divert t r.slot.toNat r.q r.words true
        else c.putRecord t r.slot.toNat r.q g r.words).modTile t (·.freeOvfRec ix) := by
  simp [redoRecord, hv, hf]

/-! ### The OVF bits that a write clears -/

/-- One bit of `OOVF_CLEAR`. -/
def clearOovf (v : DWord) (tl : Tile) (i : Nat) : Tile :=
  if v.getLsbD i then
    tl.setSlot (i / 4) ((tl.slot (i / 4)).setQueue (BitVec.ofNat 2 i)
      { (tl.slot (i / 4)).queue (BitVec.ofNat 2 i) with ovf := false, report := false, rearm := false })
  else tl
theorem oovfClearTile_eq (v : DWord) (tl : Tile) : oovfClearTile v tl = (List.range 32).foldl (clearOovf v) tl := rfl

theorem queue_clearOovf (v : DWord) (tl : Tile) {i : Nat} (hi : i < 32) (k : Nat) (q : BitVec 2) :
    ((clearOovf v tl i).slot k).queue q =
      if v.getLsbD i = true ∧ i = 4 * k + q.toNat then { (tl.slot k).queue q with ovf := false, report := false, rearm := false }
      else (tl.slot k).queue q := by
  have hq := q.isLt
  unfold clearOovf
  by_cases hv : v.getLsbD i = true
  · rw [if_pos hv, slot_setSlot_ite _ _ _ (by omega)]
    by_cases hk : i / 4 = k
    · rw [if_pos hk, queue_setQueue]
      by_cases hq' : BitVec.ofNat 2 i = q
      · have : i = 4 * k + q.toNat := by
          rw [← hq', BitVec.toNat_ofNat]
          omega
        rw [if_pos hq', if_pos ⟨hv, this⟩, hk, hq']
      · have : ¬ i = 4 * k + q.toNat := fun e => hq' (BitVec.eq_of_toNat_eq (by rw [BitVec.toNat_ofNat]; omega))
        rw [if_neg hq', if_neg (fun h => this h.2), hk]
    · rw [if_neg hk, if_neg (fun h => hk (by omega))]
  · rw [if_neg hv, if_neg (fun h => hv h.1)]

theorem queue_foldl_clearOovf (v : DWord) (l : List Nat) (tl : Tile) (hl : ∀ i ∈ l, i < 32) (k : Nat) (q : BitVec 2) :
    ((l.foldl (clearOovf v) tl).slot k).queue q =
      if v.getLsbD (4 * k + q.toNat) = true ∧ 4 * k + q.toNat ∈ l then
        { (tl.slot k).queue q with ovf := false, report := false, rearm := false } else (tl.slot k).queue q := by
  induction l generalizing tl with
  | nil => simp
  | cons i r ih =>
    rw [List.foldl_cons, ih _ (fun j hj => hl j (List.mem_cons_of_mem _ hj)), queue_clearOovf v tl (hl i List.mem_cons_self)]
    by_cases hv : v.getLsbD (4 * k + q.toNat) = true
    · by_cases hi : i = 4 * k + q.toNat
      · subst hi
        simp [hv]
      · simp [hv, hi, Ne.symm hi]
    · by_cases hi : i = 4 * k + q.toNat
      · subst hi
        simp [hv]
      · simp [hv, hi]
end

end Sys2Proof.Machine

namespace Sys2Proof.Proofs
open Sys2Proof.Machine Sys2Proof.Claims

theorem headWrite : HeadWrite := by
  intro t k q v s hu hq
  refine event_ok (by simp [ctxOk_of_unit hu, hq]) ?_
  simp only [rqhWriteBody, queue_eq_getD _ hq, setQueue_eq_set! _ hq]

theorem queueRelease : QueueRelease := by
  intro t k drop s hu hh tl q
  obtain ⟨ht, hk⟩ := hu
  have hex : exec (if drop then .tmsgDrop t k else .tmsgRetry t k) s = .next (s.setTile t (releaseQueue drop k tl)) := by
    have hb : tmsgBody drop t k s = some (s.setTile t (releaseQueue drop k tl)) := if_pos hh
    cases drop
    · exact event_ok (ctxOk_of_unit ⟨ht, hk⟩) hb
    · exact event_ok (ctxOk_of_unit ⟨ht, hk⟩) hb
  refine ⟨_, hex, tmsg_releaseQueue hk drop hh, fun j => ?_, ?_, fun j hj => ?_⟩
  · rw [hold_releaseQueue hk drop hh, hold_unheld]
  · exact (handlerQueue_releaseQueue hk drop hh q).trans (if_congr (and_iff_left rfl) rfl rfl)
  · rw [handlerQueue_releaseQueue hk drop hh, if_neg (fun h => hj h.2.symm)]

theorem overflowRing : OverflowRing := by
  intro t ix s ht hix tl r shared rq g
  have hok : (tileOk t && decide (ix < 8)) = true := by simp [tileOk_of_lt ht, hix]
  refine ⟨fun hv => ⟨fun h => ?_, fun hl h => ?_, fun hf => ?_, fun hf ha => ?_, fun hf ha => ?_⟩, fun v => ?_⟩
  · exact event_ok hok (congrArg (fun x => some (s.setTile t x)) (oinfoFree_lost hv h))
  · exact event_ok hok (congrArg (fun x => some (s.setTile t x)) (oinfoFree_taken hv hl h))
  · exact event_ok hok (congrArg some (redoRecord_full hv hf))
  · refine event_ok hok (congrArg some ((redoRecord_room hv hf).trans ?_))
    exact congrArg (State.modTile · t _) (if_neg (ne_true_of_eq_false ha))
  · refine event_ok hok (congrArg some ((redoRecord_room hv hf).trans ?_))
    exact congrArg (State.modTile · t _) (if_pos ha)
  · refine ⟨_, event_ok (tileOk_of_lt ht) rfl, fun k q hk => ?_⟩
    have hq := q.isLt
    rw [oovfClearTile_eq, queue_foldl_clearOovf v _ _ (fun i => List.mem_range.1)]
    exact if_congr (and_iff_left (List.mem_range.2 (by omega))) rfl rfl

end Sys2Proof.Proofs

/-! SUPPORT. The debug window and the context window; with what follows, O53. -/

namespace Sys2Proof.Machine
open Sys2Proof.Claims

/-! ### The debug window -/

theorem debugMetered_eq (t : Nat) (s : State) : debugMetered t s = meterDebug t s := rfl
theorem debugOk_iff (off : Nat) : debugOk off = true ↔ off % 8 = 0 ∧ off < 32768 := by simp [debugOk]

/-! ### The context window -/

theorem windowOpen_of_mem {sl : Slot} (h : sl.st ∈ [SlotState.supervisor, .stopping, .empty]) : sl.windowOpen = true := by
  simp only [List.mem_cons, List.not_mem_nil, or_false] at h
  rcases h with h | h | h <;> simp [Slot.windowOpen, h]
theorem windowOpen_of_running {sl : Slot} (h : sl.st ∈ [SlotState.user, .handler]) : sl.windowOpen = false := by
  simp only [List.mem_cons, List.not_mem_nil, or_false] at h
  rcases h with h | h <;> simp [Slot.windowOpen, h]

/-- The body at doubleword `j`, whose offset is a multiple of 8. -/
theorem contextWindowBody_open {t k j : Nat} {s : State} (h : ((s.slotAt t k).windowOpen && decide (j < 14)) = true) :
    contextWindowBody t k (8 * j) none s = some (answerRead (contextWord (s.getTile t) k j) s) ∧
    ∀ v, contextWindowBody t k (8 * j) (some v) s = some (s.modSlotAt t k (setContextWord j v)) := by
  have hj : 8 * j / 8 = j := by omega
  have h8 : ¬ 8 * j % 8 ≠ 0 := by omega
  simp only [contextWindowBody, if_neg h8, windowRead, windowWrite, hj, h, if_true, true_and, implies_true]
theorem contextWindowBody_closed {t k j : Nat} {s : State} (h : ((s.slotAt t k).windowOpen && decide (j < 14)) = false)
    (x : Option DWord) : contextWindowBody t k (8 * j) x s = some (answerRefused s) := by
  have hj : 8 * j / 8 = j := by omega
  have h8 : ¬ 8 * j % 8 ≠ 0 := by omega
  cases x <;> simp [contextWindowBody, windowRead, windowWrite, hj, h]

/-! ### The doublewords of a context -/

theorem toNat_append_eq {n m : Nat} (x : BitVec n) (y : BitVec m) : (x ++ y).toNat = x.toNat * 2 ^ m + y.toNat := by
  rw [BitVec.toNat_append, ← Nat.shiftLeft_add_eq_or_of_lt y.isLt, Nat.shiftLeft_eq]
theorem toNat_ofBool_eq (b : Bool) : (BitVec.ofBool b).toNat = Claims.bit b := by cases b <;> rfl

theorem toNat_toHalf (f : Flags) :
    f.toHalf.toNat = f.m.toNat * 256 + Claims.bit f.n * 8 + Claims.bit f.z * 4 + Claims.bit f.c * 2 + Claims.bit f.v := by
  simp only [Flags.toHalf, toNat_append_eq, toNat_ofBool_eq, BitVec.toNat_ofNat]
  omega
theorem toNat_toBits (r : Rpt) : r.toBits.toNat = r.count.toNat * 2 ^ 28 + r.body.toNat * 2 ^ 14 + r.len.toNat * 2 ^ 10
    + r.idx.toNat * 2 ^ 6 + r.stag.toNat * 2 ^ 3 + r.k.toNat := by
  simp only [Rpt.toBits, toNat_append_eq]
  omega
theorem extract_eq {n w : Nat} {x : BitVec n} {y : BitVec w} {i : Nat} (h : x.toNat / 2 ^ i % 2 ^ w = y.toNat) :
    x.extractLsb' i w = y :=
  BitVec.eq_of_toNat_eq (by rw [BitVec.extractLsb'_toNat, Nat.shiftRight_eq_div_pow, h])
theorem getLsbD_eq {n : Nat} {x : BitVec n} {b : Bool} {i : Nat} (h : x.toNat / 2 ^ i % 2 = Claims.bit b) : x.getLsbD i = b := by
  rw [BitVec.getLsbD, Nat.testBit_eq_decide_div_mod_eq, h]
  cases b <;> rfl

theorem ofHalf_toHalf (f : Flags) : Flags.ofHalf f.toHalf = f := by
  have h := toNat_toHalf f
  have hb : ∀ b, Claims.bit b ≤ 1 := by decide
  have hn := hb f.n; have hz := hb f.z; have hc := hb f.c; have hv := hb f.v
  have e8 : f.toHalf.extractLsb' 8 8 = f.m := extract_eq (by omega)
  have e3 : f.toHalf.getLsbD 3 = f.n := getLsbD_eq (by omega)
  have e2 : f.toHalf.getLsbD 2 = f.z := getLsbD_eq (by omega)
  have e1 : f.toHalf.getLsbD 1 = f.c := getLsbD_eq (by omega)
  have e0 : f.toHalf.getLsbD 0 = f.v := getLsbD_eq (by omega)
  rw [Flags.ofHalf, e8, e3, e2, e1, e0]
theorem ofBits_toBits (r : Rpt) : Rpt.ofBits r.toBits = r := by
  have h := toNat_toBits r
  have hb := r.body.isLt; have hl := r.len.isLt; have hi := r.idx.isLt; have hs := r.stag.isLt; have hk := r.k.isLt
  have e0 : r.toBits.extractLsb' 0 3 = r.k := extract_eq (by omega)
  have e3 : r.toBits.extractLsb' 3 3 = r.stag := extract_eq (by omega)
  have e6 : r.toBits.extractLsb' 6 4 = r.idx := extract_eq (by omega)
  have e10 : r.toBits.extractLsb' 10 4 = r.len := extract_eq (by omega)
  have e14 : r.toBits.extractLsb' 14 14 = r.body := extract_eq (by omega)
  have e28 : r.toBits.extractLsb' 28 20 = r.count := extract_eq (by omega)
  simp only [Rpt.ofBits, e0, e3, e6, e10, e14, e28]

section
variable {tl : Tile} {k : Nat}
theorem contextWord_flags : contextWord tl k 9 = (tl.slot k).user.f.toHalf ++ (tl.slot k).user.rpt.toBits := rfl
/-- What the window shows of F and the frame sets them as they stand. -/
theorem user_setContextWord_flags (f : Flags) (r : Rpt) (sl : Slot) :
    (setContextWord 9 (f.toHalf ++ r.toBits) sl).user = { sl.user with f := f, rpt := r } := by
  have hh : (f.toHalf ++ r.toBits).extractLsb' 48 16 = f.toHalf := extract_eq (by rw [toNat_append_eq]; omega)
  have hl : (f.toHalf ++ r.toBits).extractLsb' 0 48 = r.toBits := extract_eq (by rw [toNat_append_eq]; omega)
  have e : setContextWord 9 (f.toHalf ++ r.toBits) sl = { sl with user := { sl.user with
      f := Flags.ofHalf ((f.toHalf ++ r.toBits).extractLsb' 48 16), rpt := Rpt.ofBits ((f.toHalf ++ r.toBits).extractLsb' 0 48) } } := rfl
  rw [e, hh, hl, ofHalf_toHalf, ofBits_toBits]
/-- The low 28 bits of the doubleword of PC. -/
theorem toNat_miscWord (sl : Slot) : (miscWord sl).toNat % 2 ^ 28 =
    sl.hint.toNat * 2 ^ 25 + sl.user.pcfg.toNat * 2 ^ 16 + sl.user.pc.toNat := by
  have hpc := sl.user.pc.isLt; have hcfg := sl.user.pcfg.isLt; have hh := sl.hint.isLt
  simp only [miscWord, toNat_append_eq, BitVec.toNat_ofNat]
  omega
end

end Sys2Proof.Machine

namespace Sys2Proof.Proofs
open Sys2Proof.Machine Sys2Proof.Claims

theorem debugWindow : DebugWindow := by
  intro t off v s ht
  have hok := tileOk_of_lt ht
  refine ⟨fun h8 hlt => ?_, fun h e he => ?_⟩
  · have hd : debugOk off = true := (debugOk_iff off).2 ⟨h8, hlt⟩
    refine ⟨event_ok hok (by rw [debugDataReadBody, hd]; rfl), event_ok hok ?_, fun h32 => ?_⟩
    · simp only [debugDataWriteBody, hd, if_true, debugWrite, mem_meterDebug, debugMetered_eq]
    · have hd' : (debugOk off && off % 32 == 0) = true := by simp [hd, h32]
      refine ⟨event_ok hok (by rw [debugTagReadBody, hd']; rfl), event_ok hok ?_⟩
      simp only [debugTagWriteBody, hd', if_true, setDebugTag, debugMetered_eq, BitVec.setWidth_eq_extractLsb' (show 12 ≤ 64 by decide)]
      rfl
  · have hd : debugOk off = false := by
      rw [← Bool.not_eq_true, debugOk_iff]
      omega
    have hd' : (debugOk off && off % 32 == 0) = false := by rw [hd, Bool.false_and]
    simp only [List.mem_cons, List.not_mem_nil, or_false] at he
    rcases he with rfl | rfl | rfl | rfl
    · exact event_ok hok (by rw [debugDataReadBody, hd]; rfl)
    · exact event_ok hok (by rw [debugDataWriteBody, hd]; rfl)
    · exact event_ok hok (by rw [debugTagReadBody, hd']; rfl)
    · exact event_ok hok (by rw [debugTagWriteBody, hd']; rfl)

theorem contextWindow : ContextWindow := by
  intro t k j v s hu
  have hok := ctxOk_of_unit hu
  refine ⟨fun hst hj => ?_, fun h x => ?_⟩
  · obtain ⟨hr, hw⟩ := contextWindowBody_open (t := t) (k := k) (j := j) (s := s) (by simp [windowOpen_of_mem hst, hj])
    exact ⟨event_ok hok hr, event_ok hok (hw v)⟩
  · have hc : ((s.slotAt t k).windowOpen && decide (j < 14)) = false := by
      rcases h with h | h
      · rw [windowOpen_of_running h, Bool.false_and]
      · rw [decide_eq_false (not_lt.2 h), Bool.and_false]
    exact event_ok hok (contextWindowBody_closed hc x)

theorem contextLayout : ContextLayout := by
  intro tl k v hk sl u
  have hpc := (tl.slot k).user.pc.isLt
  have hcfg := (tl.slot k).user.pcfg.isLt
  have hm := toNat_miscWord (tl.slot k)
  refine ⟨rfl, rfl, ?_, ?_, ?_, ?_, ?_, rfl, rfl, rfl⟩
  · rw [contextWord_flags, toNat_append_eq, toNat_toHalf, toNat_toBits]
    simp only [sl, u]
    omega
  · rw [contextWord_flags (tl := tl.setSlot k _), slot_setSlot_tile _ _ _ hk, contextWord_flags, user_setContextWord_flags]
  · change (miscWord (tl.slot k)).toNat % 2 ^ 14 = (tl.slot k).user.pc.toNat
    omega
  · change (miscWord (tl.slot k)).toNat / 2 ^ 16 % 2 ^ 9 = (tl.slot k).user.pcfg.toNat
    omega
  · exact BitVec.extractLsb'_toNat ..

end Sys2Proof.Proofs

/-! SUPPORT. The loft as the runtime writes it and as the bay's port serves it; with what follows, O53. -/

namespace Sys2Proof.Machine
open Sys2Proof.Claims

/-- A read after a write of a value that is no default, in any table. -/
theorem get_set_of_ne {α : Type} [DecidableEq α] {d v : α} (hv : v ≠ d) (m : SMap α) (k : Nat) :
    SMap.get d (SMap.set d m k v) k = v := by
  induction m with
  | nil => simp [SMap.set, hv, SMap.get]
  | cons e r ih =>
    obtain ⟨a, x⟩ := e
    by_cases hlt : k < a
    · simp [SMap.set, hlt, hv, SMap.get]
    · by_cases hk : a = k
      · simp [SMap.set, hk, hv, SMap.get]
      · simp [SMap.set, hlt, hk, SMap.get, ih]

/-! ### Changing the tiles of a list -/

theorem modTile_frame (s : State) (t : Nat) (f : Tile → Tile) : ∃ tl os, s.modTile t f = { s with tile := tl, others := os } := by
  rw [State.modTile, State.setTile]
  split
  · exact ⟨_, _, rfl⟩
  · exact ⟨_, _, rfl⟩
theorem tile_modTile_other {s : State} {t : Nat} (f : Tile → Tile) (h : t ≠ s.tid) : (s.modTile t f).tile = s.tile := by
  rw [State.modTile, State.setTile, if_neg h]

section
variable (F : State → Nat → Tile → Tile)

/-- Nothing but tiles changes. -/
theorem foldl_modTile_frame (L : List Nat) (s : State) :
    ∃ tl os, L.foldl (fun s t => s.modTile t (F s t)) s = { s with tile := tl, others := os } := by
  induction L generalizing s with
  | nil => exact ⟨s.tile, s.others, rfl⟩
  | cons t L ih =>
    obtain ⟨tl, os, h⟩ := modTile_frame s t (F s t)
    obtain ⟨tl', os', h'⟩ := ih (s.modTile t (F s t))
    exact ⟨tl', os', by rw [List.foldl_cons, h', h]⟩
theorem tile_foldl_modTile_of_notMem {L : List Nat} {s : State} (h : s.tid ∉ L) :
    (L.foldl (fun s t => s.modTile t (F s t)) s).tile = s.tile := by
  induction L generalizing s with
  | nil => rfl
  | cons t L ih =>
    obtain ⟨ht, hL⟩ := not_or.1 (mt List.mem_cons.2 h)
    rw [List.foldl_cons, ih (by rw [tid_modTile]; exact hL), tile_modTile_other _ (Ne.symm ht)]

/-- The focus tile changes once, by a function that looks at no tile. -/
theorem tile_foldl_modTile (hF : ∀ s tl os, F { s with tile := tl, others := os } = F s) {L₁ L₂ : List Nat} {s : State}
    (h₁ : s.tid ∉ L₁) (h₂ : s.tid ∉ L₂) :
    ((L₁ ++ s.tid :: L₂).foldl (fun s t => s.modTile t (F s t)) s).tile = F s s.tid s.tile := by
  obtain ⟨tl, os, h⟩ := foldl_modTile_frame F L₁ s
  have htl : tl = s.tile := by rw [← tile_foldl_modTile_of_notMem F h₁, h]
  rw [List.foldl_append, List.foldl_cons, h, htl, hF]
  rw [tile_foldl_modTile_of_notMem F (by rw [tid_modTile]; exact h₂)]
  exact congrArg State.tile (modTile_focus { s with tile := s.tile, others := os } (F s s.tid))
end

/-- The focus tile is one tile of its bay. -/
theorem bayTiles_split {s : State} {bay : Nat} (h : bayOf s.tid = bay) :
    ∃ L₁ L₂, s.bayTiles bay = L₁ ++ s.tid :: L₂ ∧ s.tid ∉ L₁ ∧ s.tid ∉ L₂ :=
  ⟨_, _, if_pos h, by simp, by simp⟩

/-! ### Lines of the loft -/

/-- The tile without a buffered line. -/
def dropLine (l : Nat) (tl : Tile) : Tile := { tl with slots := tl.slots.map fun sl => { sl with lines := sl.lines.filter (· ≠ l) } }
/-- The state with a loft word written, before the buffers drop its line. -/
def loftWritten (bay word : Nat) (v : Word) (s : State) : State :=
  { s with mem := writeBytes s.mem (loftBase bay + 4 * word) (bytesOf 4 v) }
theorem writeLoftWord_eq (bay word : Nat) (v : Word) (s : State) : writeLoftWord bay word v s =
    ((loftWritten bay word v s).bayTiles bay).foldl (fun s t => s.modTile t (dropLine (word / 4))) (loftWritten bay word v s) := rfl

theorem length_servedLines (s : State) (bay line : Nat) : 0 < (servedLines s bay line).length := by
  rw [servedLines]
  split <;> simp

/-- The state after the lines are given, before the port counts them. -/
def served (bay : Nat) (ls : List Nat) (s : State) : State :=
  (s.bayTiles bay).foldl (fun s t => s.modTile t (serveTile s t ls)) s

theorem loftLineFetchBody_eq {bay line fc n : Nat} {s0 s : State} {ls : List Nat} (hs : requestLines bay s0 = s)
    (hfc : (s.getDie (bay / 640)).fc = fc) (hn : (if (s.getBay bay).port.1 = fc then (s.getBay bay).port.2 else 0) = n)
    (hls : servedLines s bay line = ls) (hreq : (firstRequest s bay).map (·.1) = some line) (hle : n + ls.length ≤ 4) :
    loftLineFetchBody bay line s0 = some ((served bay ls s).modBay bay fun b => { b with port := (fc, n + ls.length) }) := by
  subst hs hfc hn hls
  exact if_pos ⟨hreq, hle⟩

theorem requestLines_frame (bay : Nat) (s : State) : ∃ tl os, requestLines bay s = { s with tile := tl, others := os } :=
  foldl_modTile_frame Tile.request _ _
theorem tid_requestLines (bay : Nat) (s : State) : (requestLines bay s).tid = s.tid := by
  obtain ⟨_, _, h⟩ := requestLines_frame bay s
  rw [h]
theorem mem_served (bay : Nat) (ls : List Nat) (s : State) : (served bay ls s).mem = s.mem := by
  obtain ⟨_, _, h⟩ := foldl_modTile_frame (fun s t => serveTile s t ls) (s.bayTiles bay) s
  rw [served, h]
theorem tile_served {bay : Nat} (ls : List Nat) {s : State} (h : bayOf s.tid = bay) :
    (served bay ls s).tile = serveTile s s.tid ls s.tile := by
  obtain ⟨L₁, L₂, hL, h₁, h₂⟩ := bayTiles_split h
  rw [served, hL]
  exact tile_foldl_modTile (fun s t => serveTile s t ls) (fun _ _ _ => rfl) h₁ h₂
theorem slots_serveTile (s : State) (t : Nat) (ls : List Nat) {tl : Tile} {k : Fin 8} {sl : Slot} (h : tl.slots[k] = sl) :
    (serveTile s t ls tl).slots[k] = if sl.wantsLine s t = true ∧ ∀ l ∈ linesNeeded s (bayOf t) sl.bank.pc, l ∈ ls
      then { sl with lines := linesNeeded s (bayOf t) sl.bank.pc, ask := none } else sl := by
  subst h
  rw [serveTile, Fin.getElem_fin, Vector.getElem_map]
  simp only [Bool.and_eq_true, List.all_eq_true, List.contains_iff_mem]
  rfl

theorem port_modBay {s : State} {bay : Nat} {p : Nat × Nat} (h : 0 < p.2) :
    ((s.modBay bay fun b => { b with port := p }).getBay bay).port = p := by
  have hne : ({ s.getBay bay with port := p } : Bay) ≠ Bay.reset := fun he => by
    have := congrArg (fun b : Bay => b.port.2) he
    exact absurd this (Nat.pos_iff_ne_zero.1 h)
  exact congrArg Bay.port (get_set_of_ne hne s.bays bay)

end Sys2Proof.Machine

namespace Sys2Proof.Proofs
open Sys2Proof.Machine Sys2Proof.Claims

theorem loftWindow : LoftWindow := by
  refine ⟨fun bay word v s hb hw => ?_, fun bay line s0 hb hl ht => ?_⟩
  · obtain ⟨tl, os, h⟩ := foldl_modTile_frame (fun _ _ => dropLine (word / 4)) ((loftWritten bay word v s).bayTiles bay)
      (loftWritten bay word v s)
    refine ⟨writeLoftWord bay word v s, event_ok (by simp [hb, hw]) rfl, ?_, ?_, ?_, ?_, fun ht k => ?_⟩
    · rw [writeLoftWord_eq, h, loftWritten]
    · rw [writeLoftWord_eq, h, loftWritten]
    · rw [writeLoftWord_eq, h, loftWritten]
    · rw [writeLoftWord_eq, h, loftWritten]
    · obtain ⟨L₁, L₂, hL, h₁, h₂⟩ := bayTiles_split (s := loftWritten bay word v s) (bay := bay) ht
      have he : (writeLoftWord bay word v s).tile = dropLine (word / 4) s.tile := by
        rw [writeLoftWord_eq, hL]
        exact tile_foldl_modTile (fun _ _ => dropLine (word / 4)) (fun _ _ _ => rfl) h₁ h₂
      rw [he]
      simp [dropLine]
  · intro s fc n ls hreq hle
    have hbay : bayOf s.tid = bay := (congrArg bayOf (tid_requestLines bay s0)).trans ht
    refine ⟨_, event_ok (by simp [hb, hl]) (loftLineFetchBody_eq rfl rfl rfl rfl hreq hle), ?_, ?_, fun k => ?_⟩
    · exact (mem_served bay ls s).trans (mem_requestLines bay s0)
    · exact port_modBay (Nat.lt_of_lt_of_le (length_servedLines s bay line) (Nat.le_add_left ..))
    · change (served bay ls s).tile.slots[k] = _
      rw [tile_served ls hbay, slots_serveTile s s.tid ls rfl, hbay]

end Sys2Proof.Proofs

/-! SUPPORT. Management registers and rank entries as the runtime writes them; with what follows, O53. -/

namespace Sys2Proof.Machine
open Sys2Proof.Claims

theorem setWidth_ushiftRight_eq {n : Nat} (v : BitVec n) (i w : Nat) : (v >>> i).setWidth w = v.extractLsb' i w :=
  BitVec.eq_of_toNat_eq (by rw [BitVec.toNat_setWidth, BitVec.toNat_ushiftRight, BitVec.extractLsb'_toNat])
theorem ofNat_div_eq {n : Nat} (v : BitVec n) (i w : Nat) : BitVec.ofNat w (v.toNat / 2 ^ i) = v.extractLsb' i w := by
  rw [← Nat.shiftRight_eq_div_pow]
  rfl

theorem getDie_eq_getD {s : State} {die : Nat} (h : die < 16) : s.getDie die = s.dies.toList.getD die Die.reset := by
  simp [State.getDie, h]

theorem setRates_eq (v : DWord) (b : Bay) : setRates v b =
    { b with rm := ⟨(v >>> (48 + 10)).setWidth 6, (v >>> 48).setWidth 9⟩, rv := ⟨(v >>> (32 + 10)).setWidth 6, (v >>> 32).setWidth 9⟩,
             rs := ⟨(v >>> (16 + 10)).setWidth 6, (v >>> 16).setWidth 9⟩, rx := ⟨(v >>> (0 + 10)).setWidth 6, (v >>> 0).setWidth 9⟩ } := by
  simp only [setRates, setWidth_ushiftRight_eq]
theorem pwr_write_eq (p : Pwr) (v : DWord) :
    p.write v = { p with budget := (v >>> 48).setWidth 16, rot := v.getLsbD 7, t := v.setWidth 7 } := by
  rw [Pwr.write, setWidth_ushiftRight_eq, BitVec.setWidth_eq_extractLsb' (by decide)]
theorem bayMap_write_eq (m : BayMap) (v : DWord) :
    m.write v = { m with insrv := v.getLsbD 63, transit := v.getLsbD 62, phys := (v >>> 48).setWidth 10 } := by
  rw [BayMap.write, setWidth_ushiftRight_eq]
theorem perm_ofDWord_eq (v : DWord) : Perm.ofDWord v =
    ⟨v.getLsbD 63, (v >>> 40).setWidth 12, (v >>> 36).setWidth 4, (v >>> 16).setWidth 10, v.setWidth 10⟩ := by
  rw [Perm.ofDWord, setWidth_ushiftRight_eq, setWidth_ushiftRight_eq, setWidth_ushiftRight_eq, BitVec.setWidth_eq_extractLsb' (by decide)]

/-! ### The bay map -/

theorem devRegOk_baymap {die bay : Nat} {v : DWord} (hd : die < 16) (hb : bay < 640) :
    devRegOk (.baymap die bay) v = decide (v.toNat / 2 ^ 48 % 1024 < 644) := by
  have hp : (v.extractLsb' 48 10).toNat = v.toNat / 2 ^ 48 % 1024 := by rw [BitVec.extractLsb'_toNat, Nat.shiftRight_eq_div_pow]
  have hb' : bay < Config.baysPerDie := hb
  rw [devRegOk, hp, decide_eq_true hd, decide_eq_true hb', Bool.true_and, Bool.true_and]
theorem writeBayMap_free {die bay : Nat} (v : DWord) {s : State} (hb : bay < 640) (h : (s.getBay (640 * die + bay)).launch = none) :
    writeBayMap die bay v s = s.modDie die fun d => d.setBayMap bay ((d.bayMap bay).write v) :=
  if_neg (by
    change ¬ ((s.getBay (640 * die + bay)).launch.isSome = true ∨ 640 ≤ bay)
    rw [h]
    simp [hb])
theorem writeBayMap_held {die bay : Nat} (v : DWord) {s : State} (h : (s.getBay (640 * die + bay)).launch ≠ none) :
    writeBayMap die bay v s = s :=
  if_pos (Or.inl (Option.isSome_iff_ne_none.2 h))

/-! ### Permission tables -/

/-- A table of 32 entries with one written, whatever entries the list held. -/
def permsWith (ps : List Perm) (e : Nat) (p : Perm) : List Perm := ((ps ++ List.replicate 32 Perm.reset).take 32).set e p
theorem length_permsWith (ps : List Perm) (e : Nat) (p : Perm) : (permsWith ps e p).length = 32 := by simp [permsWith]
theorem getD_permsWith (ps : List Perm) {e j : Nat} (p : Perm) (hj : j < 32) :
    (permsWith ps e p).getD j Perm.reset = if j = e then p else ps.getD j Perm.reset := by
  have hlen := length_permsWith ps e p
  rw [List.getD_eq_getElem _ _ (by omega)]
  simp only [permsWith, List.getElem_set, eq_comm (a := e), List.getElem_take, List.getElem_append, List.getElem_replicate]
  congr 1
  split
  next h => rw [List.getD_eq_getElem _ _ h]
  next h => rw [List.getD_eq_default _ _ (by omega)]

/-! ### Rank entries -/

theorem rankEntry_ofDWord_eq (v : DWord) : RankEntry.ofDWord v =
    ⟨v.getLsbD 63, v.getLsbD 62, BitVec.ofNat 12 (v.toNat / 2 ^ 40), BitVec.ofNat 4 (v.toNat / 2 ^ 36),
      BitVec.ofNat 8 (v.toNat / 2 ^ 28), BitVec.ofNat 8 (v.toNat / 2 ^ 20), BitVec.ofNat 3 (v.toNat / 2 ^ 17), BitVec.ofNat 9 v.toNat⟩ := by
  simp only [ofNat_div_eq]
  rfl

/-- The tile with what its NIs hold for a rank sent where the entry now says. -/
def rerouteHeld (s1 : State) (r : Nat) (e : RankEntry) (tl : Tile) : Tile :=
  { tl with slots := tl.slots.map fun sl => { sl with niq := sl.niq.map (Req.reroute s1 r e) } }

section
variable {t r : Nat} {v : DWord} {s : State}
theorem rankEntryWriteBody_plain (h : ((s.getTile t).rank r).transit = false ∨ (RankEntry.ofDWord v).transit = true) :
    rankEntryWriteBody t r v s = some (s.modTile t (·.setRank r (RankEntry.ofDWord v))) :=
  congrArg some (if_neg (by rcases h with h | h <;> simp [h]))
theorem rankEntryWriteBody_reroute (h : ((s.getTile t).rank r).transit = true) (he : (RankEntry.ofDWord v).transit = false) :
    rankEntryWriteBody t r v s = some ((s.modTile t (·.setRank r (RankEntry.ofDWord v))).modTile t
      (rerouteHeld (s.modTile t (·.setRank r (RankEntry.ofDWord v))) r (RankEntry.ofDWord v))) :=
  congrArg some (if_pos (by simp [h, he]))
end

/-- A message on a context's circuit to the tile of the entry takes that circuit. -/
theorem reroute_msg {s : State} {r : Nat} {e : RankEntry} {q : Req} {h : DWord} {p : List DWord} {die cid dst slot key : Nat}
    (hr : q.rank = r) (hop : q.op = .msg h p) (hroute : q.route = .tile die cid dst slot)
    (hslot : q.slot < 8 - ((s.getTile q.tile).launch.map (·.h.toNat)).getD 0)
    (hkey : s.findCircuit q.tile q.slot (e.tileNo s.modNo) = some key) :
    Req.reroute s r e q = { q with route := .tile (key / 4096) (key % 4096) (e.tileNo s.modNo) e.slot.toNat } := by
  have h8 : ¬ 8 ≤ q.slot + ((s.getTile q.tile).launch.map (·.h.toNat)).getD 0 := by omega
  simp only [Req.reroute, hop, hroute, hr, if_true, if_neg h8, hkey, Option.getD_some]

end Sys2Proof.Machine

namespace Sys2Proof.Proofs
open Sys2Proof.Machine Sys2Proof.Claims

theorem managementWrites : ManagementWrites := by
  intro die bay v s hd hb b d rate
  have hdie : s.getDie die = d := getDie_eq_getD hd
  have hmap := devRegOk_baymap (v := v) hd hb
  refine ⟨event_ok (by simp [hd, hb]) (congrArg (fun f => some (s.modBay b f)) (funext (setRates_eq v))),
    event_ok (decide_eq_true hd) (by rw [registerWriteBody, State.modDie, hdie, pwr_write_eq]), ?_⟩
  intro phys
  refine ⟨fun h => ?_, fun h hl => ?_, fun h hl => ?_, fun e he => ?_, fun ix hix => ?_, fun tenant mods ht => ?_,
    fun edge port he hp r hr => ?_⟩

  · exact congrArg (fun ok => event ok s _) (hmap.trans (decide_eq_false (not_lt.2 h)))
  · refine event_ok (hmap.trans (decide_eq_true h)) ?_
    rw [registerWriteBody, writeBayMap_free v hb hl, State.modDie, hdie, bayMap_write_eq]
  · exact event_ok (hmap.trans (decide_eq_true h)) (congrArg some (writeBayMap_held v hl))
  · have hb' : b < 10240 := by
      simp only [b]
      omega
    refine ⟨permsWith (s.getBay b).perms e (Perm.ofDWord v), event_ok (by simp [devRegOk, hb', he]) rfl, length_permsWith .., fun j hj => ?_⟩
    rw [getD_permsWith _ _ hj, perm_ofDWord_eq]
  · refine event_ok (by simp [hd, hix]) ?_
    rw [serviceSlotWriteBody, serviceKey, BitVec.setWidth_eq_extractLsb' (by decide), Nat.mul_comm]
  · exact event_ok (decide_eq_true ht) rfl
  · simp only [List.mem_cons, List.not_mem_nil, or_false] at hr
    rcases hr with rfl | rfl | rfl
    · exact (congrArg (fun ok => event ok s _) (by simp [devRegOk, hd, he])).trans (event_none rfl)
    · exact (congrArg (fun ok => event ok s _) (decide_eq_true hp)).trans (event_none rfl)
    · exact event_none rfl

theorem rankWrite : RankWrite := by
  intro t r v s ht hr n e s1
  have he : RankEntry.ofDWord v = e := rankEntry_ofDWord_eq v
  have hok : (tileOk t && decide (r < 4096)) = true := by simp [tileOk_of_lt ht, hr]
  refine ⟨fun h => event_ok hok ?_, fun h h' => event_ok hok ?_, fun q die cid dst slot key hq hop hroute hslot hkey => ?_⟩
  · rw [rankEntryWriteBody_plain (by rwa [he]), he]
    rfl
  · rw [rankEntryWriteBody_reroute h (by rwa [he]), he]
    rfl
  · obtain ⟨x, p, hop⟩ := hop
    exact reroute_msg hq hop hroute hslot hkey

end Sys2Proof.Proofs

/-! SUPPORT. The memory service wheel as time passes; with the lemmas above, O53. -/

namespace Sys2Proof.Machine
open Sys2Proof.Claims

/-! ### Reads of a table put together from parts -/

section
variable {α : Type} {d : α}

/-- Leaving keys out. -/
theorem get_filter_key (p : Nat → Bool) (m : SMap α) (k : Nat) :
    SMap.get d (m.filter fun e => p e.1) k = if p k = true then SMap.get d m k else d := by
  induction m with
  | nil => simp [SMap.get]
  | cons e r ih =>
    obtain ⟨a, x⟩ := e
    by_cases ha : a = k
    · subst ha
      cases hp : p a <;> simp [hp, SMap.get, ih]
    · cases hp : p a <;> simp [hp, SMap.get, ha, ih]
theorem get_append_of_left {m₁ m₂ : SMap α} {k : Nat} (h : ∀ e ∈ m₂, e.1 ≠ k) : SMap.get d (m₁ ++ m₂) k = SMap.get d m₁ k := by
  have hd : SMap.get d m₂ k = d := by
    induction m₂ with
    | nil => rfl
    | cons e r ih =>
      obtain ⟨he, hr⟩ := List.forall_mem_cons.1 h
      rw [SMap.get, if_neg he, ih hr]
  induction m₁ with
  | nil => exact hd
  | cons e r ih => rw [List.cons_append, SMap.get, SMap.get, ih]
theorem get_append_of_right {m₁ m₂ : SMap α} {k : Nat} (h : ∀ e ∈ m₁, e.1 ≠ k) : SMap.get d (m₁ ++ m₂) k = SMap.get d m₂ k := by
  induction m₁ with
  | nil => rfl
  | cons e r ih =>
    obtain ⟨he, hr⟩ := List.forall_mem_cons.1 h
    rw [List.cons_append, SMap.get, if_neg he, ih hr]

/-- A table whose keys of one stack come from another table. -/
def splice (stack : Nat) (m mine : SMap α) : SMap α :=
  m.filter (fun kv => decide (kv.1 / 64 < stack)) ++ mine.filter (fun kv => kv.1 / 64 == stack) ++
    m.filter (fun kv => decide (stack < kv.1 / 64))
theorem get_splice (stack : Nat) (m mine : SMap α) (k : Nat) :
    SMap.get d (splice stack m mine) k = if k / 64 = stack then SMap.get d mine k else SMap.get d m k := by
  have hbelow := get_filter_key (d := d) (fun a => decide (a / 64 < stack)) m k
  have hmine := get_filter_key (d := d) (fun a => a / 64 == stack) mine k
  have habove := get_filter_key (d := d) (fun a => decide (stack < a / 64)) m k
  simp only [decide_eq_true_eq, beq_iff_eq] at hbelow hmine habove
  rw [splice]
  rcases lt_trichotomy (k / 64) stack with h | h | h
  · rw [get_append_of_left (by grind), get_append_of_left (by grind), hbelow, if_pos h, if_neg h.ne]
  · rw [get_append_of_left (by grind), get_append_of_right (by grind), hmine, if_pos h, if_pos h]
  · rw [get_append_of_right (by grind), habove, if_pos h, if_neg h.ne']
end

/-! ### What leaves the wheels as they are -/

/-- A fold keeps what every step keeps. -/
theorem foldl_keeps {α β γ : Type} (g : β → γ) {f : β → α → β} (hf : ∀ b a, g (f b a) = g b) (l : List α) (b : β) :
    g (l.foldl f b) = g b := by
  induction l generalizing b with
  | nil => rfl
  | cons a l ih => rw [List.foldl_cons, ih, hf]

section
variable (s : State)
@[simp] theorem wheelOn_setDie (die : Nat) (d : Die) : (s.setDie die d).wheelOn = s.wheelOn := by
  rw [State.setDie]
  split <;> rfl
@[simp] theorem wheelOn_addFault (r : FaultRec) : (s.addFault r).wheelOn = s.wheelOn := by
  rw [State.addFault]
  split
  · rfl
  · split <;> rfl
@[simp] theorem wheelOn_translate (die va : Nat) : (translate s die va).1.wheelOn = s.wheelOn := by
  fun_cases translate <;> simp
@[simp] theorem wheelOn_portCheck (die va tenant : Nat) (amo : Bool) : (portCheck s die va tenant amo).1.wheelOn = s.wheelOn := by
  fun_cases portCheck <;> simp +zetaDelta
@[simp] theorem wheelOn_writeBulk (a : Nat) (data : List (Option Byte)) : (writeBulk a data s).wheelOn = s.wheelOn := rfl
@[simp] theorem wheelOn_portWrite (die va : Nat) (data : List (Option Byte)) (tenant : Nat) :
    (portWrite s die va data tenant).1.wheelOn = s.wheelOn := by
  fun_cases portWrite
  case case3 => exact (foldl_keeps State.wheelOn (fun s k => wheelOn_writeBulk s _ data) _ _).trans (wheelOn_portCheck ..)
  all_goals exact wheelOn_portCheck ..
@[simp] theorem wheelOn_portDecrement (die va tenant : Nat) : (portDecrement s die va tenant).1.wheelOn = s.wheelOn := by
  fun_cases portDecrement <;> simp +zetaDelta
@[simp] theorem wheelOn_tryOwed (o : Owed) : (tryOwed o s).wheelOn = s.wheelOn := by
  unfold tryOwed
  cases o.val
  all_goals
    dsimp only
    split <;> simp
theorem wheelOn_retryServed : (retryServed s).wheelOn = s.wheelOn :=
  foldl_keeps State.wheelOn (fun s o => wheelOn_tryOwed s o) _ _

/-- The registers of the wheels, what is in force, and the dies' counts. -/
def wheelView : SMap (BitVec 10) × SMap (BitVec 10) × Vector Die 16 := (s.wheels, s.wheelOn, s.dies)
theorem wheelView_chargeBays (n : Nat) : wheelView (chargeBays n s) = wheelView s := by
  refine foldl_keeps wheelView (fun s kb => ?_) _ _
  split <;> rfl
theorem wheelView_meterCircuits (die n : Nat) : wheelView (meterCircuits die n s) = wheelView s := by
  refine foldl_keeps wheelView (fun s kc => ?_) _ _
  split <;> rfl
theorem wheelView_meterService (die n : Nat) : wheelView (meterService die n s) = wheelView s := by
  refine foldl_keeps wheelView (fun s ix => ?_) _ _
  dsimp only
  split <;> rfl
end

/-! ### A revolution -/

/-- What is in force after a stack's wheel starts a revolution. -/
theorem get_turnWheel (stack : Nat) (s : State) (k : Nat) : SMap.get 0 (turnWheel stack s).wheelOn k =
    if k / 64 = stack then SMap.get 0 s.wheels k else SMap.get 0 s.wheelOn k := by
  by_cases h : (s.wheels.filter fun kv => kv.1 / 64 == stack) = s.wheelOn.filter fun kv => kv.1 / 64 == stack
  · have hturn : turnWheel stack s = s := if_pos h
    rw [hturn]
    split
    next hk =>
      have hget := congrArg (fun m => SMap.get 0 m k) h
      simpa [get_filter_key (fun a => a / 64 == stack), hk] using hget.symm
    next => rfl
  · have hturn : turnWheel stack s = retryServed { s with wheelOn := splice stack s.wheelOn s.wheels } := if_neg h
    rw [hturn, wheelOn_retryServed]
    exact get_splice stack s.wheelOn s.wheels k

theorem wheelOn_meterService (die n : Nat) (s : State) : (meterService die n s).wheelOn = s.wheelOn :=
  congrArg (fun v => v.2.1) (wheelView_meterService s die n)

/-- What is in force after `n` fabric cycles of a die: its registers, where a multiple of 64 is reached. -/
theorem get_spinWheel {die n : Nat} {s : State} (k : Nat) : SMap.get 0 (spinWheel die n s).wheelOn k =
    if 64 ≤ (s.getDie die).fc % 64 + n ∧ k / 64 = die then SMap.get 0 s.wheels k else SMap.get 0 s.wheelOn k := by
  have hfc : (s.getDie die).fc % 64 < 64 := Nat.mod_lt _ (by decide)
  by_cases h : n < 64 - (s.getDie die).fc % 64
  · have hspin : spinWheel die n s = meterService die n s := if_pos h
    rw [hspin, wheelOn_meterService, if_neg (by omega)]
  · have hspin : spinWheel die n s = meterService die (n - (64 - (s.getDie die).fc % 64))
        (turnWheel die (meterService die (64 - (s.getDie die).fc % 64) s)) := if_neg h
    have hle : 64 ≤ (s.getDie die).fc % 64 + n := by omega
    have hwheels := congrArg Prod.fst (wheelView_meterService s die (64 - (s.getDie die).fc % 64))
    rw [hspin, wheelOn_meterService, get_turnWheel, wheelOn_meterService]
    simp only [hle, true_and]
    exact congrArg (fun m => if k / 64 = die then SMap.get 0 m k else SMap.get 0 s.wheelOn k) hwheels
theorem wheelOn_passTime (die n hub : Nat) (s : State) :
    (passTime die n hub s).wheelOn = (spinWheel die n (meterCircuits die n (chargeBays hub s))).wheelOn := by
  rw [passTime, newHubCycle]
  split <;> exact wheelOn_setDie ..

end Sys2Proof.Machine

namespace Sys2Proof.Proofs
open Sys2Proof.Machine Sys2Proof.Claims

theorem wheelTurns : WheelTurns := by
  intro die n hub s _ _ _ t turned stack ix hix
  have hkey : (64 * stack + ix) / 64 = stack := by omega
  have hview : wheelView (meterCircuits die n (chargeBays hub s)) = wheelView s :=
    (wheelView_meterCircuits _ die n).trans (wheelView_chargeBays s hub)
  have hget : SMap.get 0 t.wheelOn (64 * stack + ix) = _ :=
    (congrArg (fun m => SMap.get 0 m (64 * stack + ix)) (wheelOn_passTime die n hub s)).trans (get_spinWheel _)
  generalize meterCircuits die n (chargeBays hub s) = u at hview hget
  obtain ⟨hwheels, hrest⟩ := Prod.mk.inj hview
  obtain ⟨hon, hdies⟩ := Prod.mk.inj hrest
  have hdie : u.getDie die = s.getDie die := by rw [State.getDie, State.getDie, hdies]
  rw [hget, hwheels, hon, hdie, hkey]

/-- Settles O53: each write is read off its body, the tiles of a bay and the tables of permissions, ranks and wheels being
followed entry by entry; a wheel's revolution splices its stack's registers into what is in force. -/
theorem runtimeWrites : Obligations.RuntimeWrites :=
  ⟨headWrite, queueRelease, overflowRing, debugWindow, contextWindow, contextLayout, loftWindow, managementWrites, wheelTurns, rankWrite⟩

end Sys2Proof.Proofs

/-! SUPPORT. The magnitudes of a format, in order, and the values that its encodings have; with what follows, O25. -/

namespace Sys2Proof.Machine
open Sys2Proof.Claims

/-- What the formats of Table 3.1 have in common, as far as rounding turns on it. -/
structure Fmt.Regular (f : Fmt) : Prop where
  frac_pos : 0 < f.frac
  two_le_width : 2 ≤ f.width
  maxMag_lt : f.maxMag < 2 ^ (f.width - 1)
  ovf_lt : f.ovf < 2 ^ (f.width - 1)
  /-- The largest finite value and the one before it share a binade. -/
  top_inner : f.maxMag % 2 ^ f.frac ≠ 0
  /-- The first magnitude that is not finite. -/
  beyond : if f.ieee then f.ovf = f.maxMag + 1 else if f.width = 8 then f.maxMag = 126 else f.maxMag + 1 = 2 ^ (f.width - 1)
  e4m3_iff : f = e4m3 ↔ f.width = 8 ∧ !f.ieee
  e4m3_nan : f = e4m3 → f.nan = 0x7F
  nan_lt : f.nan < 2 ^ f.width
  saturates : f.width = 4 → f.ovf = f.maxMag

theorem Fmt.regular {f : Fmt} (hf : f ∈ formats) : f.Regular := by
  simp only [formats, List.mem_cons, List.not_mem_nil, or_false] at hf
  rcases hf with rfl | rfl | rfl | rfl | rfl | rfl <;> constructor <;> decide

/-- The exponent of the spacing of the subnormal values. -/
def Fmt.least (f : Fmt) : Int := 1 - f.bias - f.frac
/-- The value of a magnitude, in units of the smallest subnormal; the top binade is complete and others follow it (R46). -/
def Fmt.units (f : Fmt) (k : Nat) : Nat :=
  if k / 2 ^ f.frac = 0 then k % 2 ^ f.frac else (2 ^ f.frac + k % 2 ^ f.frac) * 2 ^ (k / 2 ^ f.frac - 1)
/-- The value of a magnitude. -/
noncomputable def Fmt.mag (f : Fmt) (k : Nat) : ℝ := f.units k * (2 : ℝ) ^ f.least
/-- A magnitude with a sign. -/
def signed (neg : Bool) (a : ℝ) : ℝ := if neg then -a else a

@[simp] theorem signed_false (a : ℝ) : signed false a = a := rfl
@[simp] theorem signed_true (a : ℝ) : signed true a = -a := rfl
@[simp] theorem abs_signed (neg : Bool) (a : ℝ) : |signed neg a| = |a| := by cases neg <;> simp
theorem ite_mul_eq_signed (neg : Bool) (a : ℝ) : (if neg then -1 else 1) * a = signed neg a := by cases neg <;> simp

/-! ### Magnitudes in order -/

/-- A magnitude counted from the binade `Q` above the subnormals, a carry out of the fraction included. -/
theorem Fmt.units_of_binade (f : Fmt) {Q n : Nat} (hn : n ≤ 2 ^ (f.frac + 1)) (hQ : Q = 0 ∨ 2 ^ f.frac ≤ n) :
    f.units (Q * 2 ^ f.frac + n) = n * 2 ^ Q := by
  have hpos : 0 < 2 ^ f.frac := Nat.two_pow_pos _
  have hdiv : (Q * 2 ^ f.frac + n) / 2 ^ f.frac = Q + n / 2 ^ f.frac := by
    rw [Nat.add_comm, Nat.add_mul_div_right _ _ hpos, Nat.add_comm]
  have hmod : (Q * 2 ^ f.frac + n) % 2 ^ f.frac = n % 2 ^ f.frac := by
    rw [Nat.add_comm, Nat.add_mul_mod_self_right]
  rw [Fmt.units, hdiv, hmod]
  rw [pow_succ] at hn
  rcases lt_or_ge n (2 ^ f.frac) with hlt | hge
  · obtain rfl : Q = 0 := hQ.resolve_right (by omega)
    simp [Nat.div_eq_of_lt hlt, Nat.mod_eq_of_lt hlt]
  · rcases hn.lt_or_eq with hlt | rfl
    · have h1 : n / 2 ^ f.frac = 1 := Nat.div_eq_of_lt_le (by omega) (by omega)
      have h2 : n % 2 ^ f.frac = n - 2 ^ f.frac := by rw [Nat.mod_eq_sub_mod hge, Nat.mod_eq_of_lt (by omega)]
      rw [h1, h2, if_neg (by omega), Nat.add_sub_cancel, Nat.add_sub_cancel' hge]
    · rw [Nat.mul_div_cancel_left _ hpos, Nat.mul_mod_right, if_neg (by omega)]
      rw [show Q + 2 - 1 = Q + 1 from rfl, pow_succ]
      ring

/-- Every magnitude stands in a binade, below its end. -/
theorem Fmt.exists_binade (f : Fmt) (k : Nat) :
    ∃ Q n, k = Q * 2 ^ f.frac + n ∧ n < 2 ^ (f.frac + 1) ∧ (Q = 0 ∨ 2 ^ f.frac ≤ n) := by
  have hk := Nat.div_add_mod k (2 ^ f.frac)
  have hlt := Nat.mod_lt k (Nat.two_pow_pos f.frac)
  rcases h : k / 2 ^ f.frac with _ | Q
  · rw [h] at hk
    exact ⟨0, k % 2 ^ f.frac, by omega, by rw [pow_succ]; omega, .inl rfl⟩
  · rw [h, Nat.mul_add, Nat.mul_comm] at hk
    exact ⟨Q, 2 ^ f.frac + k % 2 ^ f.frac, by omega, by rw [pow_succ]; omega, .inr (by omega)⟩

theorem Fmt.units_strictMono (f : Fmt) : StrictMono f.units := by
  refine strictMono_nat_of_lt_succ fun k => ?_
  obtain ⟨Q, n, rfl, hn, hQ⟩ := f.exists_binade k
  rw [Nat.add_assoc, f.units_of_binade hn.le hQ, f.units_of_binade hn (hQ.imp_right (by omega))]
  exact Nat.mul_lt_mul_of_pos_right n.lt_succ_self (Nat.two_pow_pos Q)

theorem two_zpow_pos (e : Int) : (0 : ℝ) < 2 ^ e := zpow_pos two_pos e

theorem Fmt.mag_strictMono (f : Fmt) : StrictMono f.mag := fun _ _ h =>
  mul_lt_mul_of_pos_right (Nat.cast_lt.2 (f.units_strictMono h)) (two_zpow_pos _)

@[simp] theorem Fmt.mag_zero (f : Fmt) : f.mag 0 = 0 := by simp [Fmt.mag, Fmt.units]
theorem Fmt.mag_nonneg (f : Fmt) (k : Nat) : 0 ≤ f.mag k := f.mag_zero ▸ f.mag_strictMono.monotone k.zero_le

/-- The value of a magnitude in its binade. -/
theorem Fmt.mag_of_binade (f : Fmt) {Q n : Nat} (hn : n ≤ 2 ^ (f.frac + 1)) (hQ : Q = 0 ∨ 2 ^ f.frac ≤ n) :
    f.mag (Q * 2 ^ f.frac + n) = n * (2 : ℝ) ^ (f.least + Q) := by
  rw [Fmt.mag, f.units_of_binade hn hQ, zpow_add₀ two_ne_zero]
  push_cast
  rw [zpow_natCast]
  ring

/-- Every integer of the precision, in units not below the subnormals', is the value of a magnitude. -/
theorem Fmt.exists_mag_eq (f : Fmt) {n : Nat} {p : Int} (hn : n ≤ 2 ^ (f.frac + 1)) (hp : f.least ≤ p) :
    ∃ k, f.mag k = n * (2 : ℝ) ^ p := by
  obtain ⟨Q, rfl⟩ := Int.le.dest hp
  clear hp
  induction Q generalizing n with
  | zero => exact ⟨_, f.mag_of_binade hn (.inl rfl)⟩
  | succ Q ih =>
    by_cases h : 2 ^ f.frac ≤ n
    · exact ⟨_, f.mag_of_binade hn (.inr h)⟩
    · obtain ⟨k, hk⟩ := ih (n := 2 * n) (by rw [pow_succ]; omega)
      refine ⟨k, hk.trans ?_⟩
      push_cast
      rw [← add_assoc, zpow_add_one₀ two_ne_zero]
      ring

/-- The last binade with finite values goes on beyond them by a spacing. -/
theorem Fmt.Regular.mag_beyond {f : Fmt} (hf : f.Regular) :
    f.mag (f.maxMag + 1) - f.mag f.maxMag = f.mag f.maxMag - f.mag (f.maxMag - 1) := by
  obtain ⟨Q, n, h, hn, hQ⟩ := f.exists_binade f.maxMag
  have hmod : n % 2 ^ f.frac ≠ 0 := by
    simpa [h, Nat.add_mod] using hf.top_inner
  have hne : n ≠ 0 := fun h0 => hmod (by simp [h0])
  have hne' : n ≠ 2 ^ f.frac := fun h0 => hmod (by simp [h0])
  have hbefore : f.maxMag - 1 = Q * 2 ^ f.frac + (n - 1) := by omega
  rw [hbefore, h, Nat.add_assoc, f.mag_of_binade hn.le hQ, f.mag_of_binade hn (hQ.imp_right (by omega)),
    f.mag_of_binade (by omega) (hQ.imp_right (by omega)), Nat.cast_sub (by omega)]
  push_cast
  ring

/-! ### Encodings and their values -/

theorem Fmt.signBit_add_eq_withSign (f : Fmt) (neg : Bool) (k : Nat) : f.signBit neg + k = withSign f neg k := by
  cases neg <;> simp [Fmt.signBit, withSign]

section
variable {f : Fmt} (hf : f.Regular)
include hf

theorem Fmt.Regular.two_pow_width : 2 ^ f.width = 2 * 2 ^ (f.width - 1) := by
  have := hf.two_le_width
  rw [← pow_succ', Nat.sub_add_cancel (by omega)]

theorem Fmt.Regular.signBit_add_lt {k : Nat} (neg : Bool) (hk : k < 2 ^ (f.width - 1)) : f.signBit neg + k < 2 ^ f.width := by
  rw [hf.two_pow_width]
  cases neg <;> simp [Fmt.signBit] <;> omega

omit hf in
theorem Fmt.signBit_add_mod {k : Nat} (neg : Bool) (hk : k < 2 ^ (f.width - 1)) :
    (f.signBit neg + k) % 2 ^ (f.width - 1) = k := by
  cases neg <;> simp [Fmt.signBit, Nat.mod_eq_of_lt hk]

omit hf in
theorem Fmt.sign_le_iff {k : Nat} (neg : Bool) (hk : k < 2 ^ (f.width - 1)) :
    decide (2 ^ (f.width - 1) ≤ f.signBit neg + k) = neg := by
  cases neg <;> simp [Fmt.signBit, hk]

/-- An encoding is its sign and its magnitude. -/
theorem Fmt.Regular.eq_signBit_add {x : Nat} (hx : x < 2 ^ f.width) :
    x = f.signBit (decide (2 ^ (f.width - 1) ≤ x % 2 ^ f.width)) + x % 2 ^ (f.width - 1) := by
  rw [Nat.mod_eq_of_lt hx]
  rw [hf.two_pow_width] at hx
  by_cases h : 2 ^ (f.width - 1) ≤ x
  · rw [Nat.mod_eq_sub_mod h, Nat.mod_eq_of_lt (by omega)]
    simp [Fmt.signBit, h]
  · rw [Nat.mod_eq_of_lt (by omega)]
    simp [Fmt.signBit, h]

/-- The encodings that are not finite are those above the largest finite magnitude. -/
theorem Fmt.Regular.decode_beyond {x : Nat} (h : f.maxMag < x % 2 ^ (f.width - 1)) :
    f.decode x = .nan ∨ f.decode x = .inf (decide (2 ^ (f.width - 1) ≤ x % 2 ^ f.width)) := by
  have hlt := Nat.mod_lt x (Nat.two_pow_pos (f.width - 1))
  have hb := hf.beyond
  simp only [Fmt.decode]
  split at hb
  next hi =>
    rw [hb, hi]
    by_cases h1 : f.maxMag + 1 < x % 2 ^ (f.width - 1)
    · simp [h1]
    · simp [show x % 2 ^ (f.width - 1) = f.maxMag + 1 by omega]
  next hi =>
    split at hb
    next hw =>
      simp only [hw, Nat.add_one_sub_one] at h hlt ⊢
      simp [hi, show x % 128 = 127 by omega]
    next => omega

/-- The value that a finite encoding decodes to: its sign, and its magnitude's value. -/
theorem Fmt.Regular.decode_finite {x : Nat} (h : x % 2 ^ (f.width - 1) ≤ f.maxMag) :
    ∃ (m : Nat) (e : Int), f.decode x = .fin (decide (2 ^ (f.width - 1) ≤ x % 2 ^ f.width)) m e ∧
      (m : ℝ) * 2 ^ e = f.mag (x % 2 ^ (f.width - 1)) ∧ m < 2 ^ (f.frac + 1) ∧ f.least ≤ e ∧
      (e = f.least ∨ 2 ^ f.frac ≤ m) := by
  have hb := hf.beyond
  have hm := Nat.mod_lt (x % 2 ^ (f.width - 1)) (Nat.two_pow_pos f.frac)
  have h1 : ¬ (f.ieee && f.ovf < x % 2 ^ (f.width - 1)) = true := by grind
  have h2 : ¬ (f.ieee && x % 2 ^ (f.width - 1) == f.ovf) = true := by grind
  have h3 : ¬ (f.width == 8 && !f.ieee && x % 2 ^ (f.width - 1) == 0x7F) = true := by grind
  simp only [Fmt.decode, if_neg h1, if_neg h2, if_neg h3]
  generalize x % 2 ^ (f.width - 1) = k at *
  split
  next hk =>
    exact ⟨_, _, rfl, by simp [Fmt.mag, Fmt.units, hk, Fmt.least], by rw [pow_succ]; omega, le_rfl, .inl rfl⟩
  next hk =>
    obtain ⟨Q, hQ⟩ := Nat.exists_eq_succ_of_ne_zero hk
    refine ⟨_, _, rfl, ?_, by rw [pow_succ]; omega, by rw [Fmt.least, hQ]; omega, .inr (by omega)⟩
    rw [Fmt.mag, Fmt.units, if_neg hk, hQ, Fmt.least, Nat.cast_mul, mul_assoc, Nat.succ_sub_one, Nat.cast_pow,
      Nat.cast_ofNat, ← zpow_natCast, ← zpow_add₀ two_ne_zero]
    congr 2
    omega

theorem Fmt.Regular.decode_eq_fin {x m : Nat} {neg : Bool} {e : Int} (h : f.decode x = .fin neg m e) :
    x % 2 ^ (f.width - 1) ≤ f.maxMag ∧ neg = decide (2 ^ (f.width - 1) ≤ x % 2 ^ f.width) ∧
    (m : ℝ) * 2 ^ e = f.mag (x % 2 ^ (f.width - 1)) ∧ m < 2 ^ (f.frac + 1) ∧ f.least ≤ e ∧ (e = f.least ∨ 2 ^ f.frac ≤ m) := by
  by_cases hx : x % 2 ^ (f.width - 1) ≤ f.maxMag
  · obtain ⟨m', e', hd, hv⟩ := hf.decode_finite hx
    obtain ⟨rfl, rfl, rfl⟩ := FVal.fin.inj (hd.symm.trans h)
    exact ⟨hx, rfl, hv⟩
  · rcases hf.decode_beyond (not_le.1 hx) with hd | hd <;> simp [hd] at h
end

theorem isValue_of_decode {f : Fmt} {x m : Nat} {neg : Bool} {e : Int} (h : f.decode x = .fin neg m e) :
    IsValue f x (signed neg (m * 2 ^ e)) := by
  refine ⟨_, by rw [finiteOf, h]; rfl, ?_⟩
  push_cast
  rw [mul_assoc, ← ite_mul_eq_signed]
  split <;> simp

theorem isValue_iff_decode {f : Fmt} {x : Nat} {y : ℝ} :
    IsValue f x y ↔ ∃ neg m e, f.decode x = .fin neg m e ∧ y = signed neg (m * 2 ^ e) := by
  constructor
  · intro ⟨q, hq, hy⟩
    cases h : f.decode x with
    | nan => simp [finiteOf, h, valueOf] at hq
    | inf s => simp [finiteOf, h, valueOf] at hq
    | fin neg m e =>
      obtain ⟨q', hq', hy'⟩ := isValue_of_decode h
      obtain rfl : q = q' := Option.some.inj (hq.symm.trans hq')
      exact ⟨neg, m, e, rfl, hy.symm.trans hy'⟩
  · rintro ⟨neg, m, e, h, rfl⟩
    exact isValue_of_decode h

section
variable {f : Fmt} (hf : f.Regular)
include hf

theorem Fmt.Regular.isValue_iff {x : Nat} {y : ℝ} : IsValue f x y ↔ x % 2 ^ (f.width - 1) ≤ f.maxMag ∧
    y = signed (decide (2 ^ (f.width - 1) ≤ x % 2 ^ f.width)) (f.mag (x % 2 ^ (f.width - 1))) := by
  rw [isValue_iff_decode]
  constructor
  · rintro ⟨neg, m, e, h, rfl⟩
    obtain ⟨hx, hneg, hv, -⟩ := hf.decode_eq_fin h
    exact ⟨hx, by rw [hneg, hv]⟩
  · rintro ⟨hx, rfl⟩
    obtain ⟨m, e, hd, hv, -⟩ := hf.decode_finite hx
    exact ⟨_, m, e, hd, by rw [hv]⟩

theorem Fmt.Regular.isValue_signBit_add {k : Nat} (neg : Bool) (hk : k ≤ f.maxMag) :
    IsValue f (f.signBit neg + k) (signed neg (f.mag k)) := by
  have hlt := hk.trans_lt hf.maxMag_lt
  rw [hf.isValue_iff, Fmt.signBit_add_mod neg hlt, Nat.mod_eq_of_lt (hf.signBit_add_lt neg hlt), Fmt.sign_le_iff neg hlt]
  exact ⟨hk, rfl⟩

theorem Fmt.Regular.isValue_maxMag : IsValue f f.maxMag (f.mag f.maxMag) := by
  simpa [Fmt.signBit] using hf.isValue_signBit_add false le_rfl
end

theorem isValue_unique {f : Fmt} {x : Nat} {y z : ℝ} (hy : IsValue f x y) (hz : IsValue f x z) : y = z := by
  obtain ⟨q, hq, rfl⟩ := hy
  obtain ⟨r, hr, rfl⟩ := hz
  rw [Option.some.inj (hq.symm.trans hr)]

end Sys2Proof.Machine

/-! SUPPORT. The magnitude that a mode chooses for a real number, and that rounding finds it; with this, O25. -/

namespace Sys2Proof.Machine
open Sys2Proof.Claims

/-! ### What a mode asks of a magnitude -/

/-- `k` is nearest to `a`, and even where another is as near. -/
def Fmt.IsNearest (f : Fmt) (a : ℝ) (k : Nat) : Prop :=
  ∀ j, |f.mag k - a| ≤ |f.mag j - a| ∧ (|f.mag k - a| = |f.mag j - a| → j ≠ k → k % 2 = 0)
/-- `k` is the greatest magnitude up to `a`. -/
def Fmt.IsBelow (f : Fmt) (a : ℝ) (k : Nat) : Prop := f.mag k ≤ a ∧ ∀ j, f.mag j ≤ a → j ≤ k
/-- `k` is the least magnitude from `a` on. -/
def Fmt.IsAbove (f : Fmt) (a : ℝ) (k : Nat) : Prop := a ≤ f.mag k ∧ ∀ j, a ≤ f.mag j → k ≤ j

/-- A directed mode that leads toward zero for the sign. -/
abbrev TowardZero (mode : Nat) (neg : Bool) : Prop := mode = 1 ∨ (mode = 2 ∧ neg) ∨ (mode = 3 ∧ !neg)

/-- `k` is the magnitude that R46's step 1 takes for `a`, no bound being set above. -/
def Fmt.IsRounded (f : Fmt) (mode : Nat) (neg : Bool) (a : ℝ) (k : Nat) : Prop :=
  if mode = 0 then f.IsNearest a k else if TowardZero mode neg then f.IsBelow a k else f.IsAbove a k

section
variable {f : Fmt} {mode j k : Nat} {neg : Bool} {a : ℝ} (h : f.IsRounded mode neg a k)
include h

theorem Fmt.IsRounded.le_of_mag_le (hj : f.mag j ≤ a) : j ≤ k := by
  unfold Fmt.IsRounded at h
  split at h
  · by_contra! hlt
    have hmag := f.mag_strictMono hlt
    have := (h j).1
    rw [abs_of_neg (by linarith), abs_of_nonpos (by linarith)] at this
    linarith
  · split at h
    · exact h.2 j hj
    · exact f.mag_strictMono.le_iff_le.1 (hj.trans h.1)

theorem Fmt.IsRounded.le_of_le_mag (hj : a ≤ f.mag j) : k ≤ j := by
  unfold Fmt.IsRounded at h
  split at h
  · by_contra! hlt
    have hmag := f.mag_strictMono hlt
    have := (h j).1
    rw [abs_of_pos (by linarith), abs_of_nonneg (by linarith)] at this
    linarith
  · split at h
    · exact f.mag_strictMono.le_iff_le.1 (h.1.trans hj)
    · exact h.2 j hj
end

theorem Fmt.IsRounded.eq_of_mag {f : Fmt} {mode j k : Nat} {neg : Bool} (h : f.IsRounded mode neg (f.mag j) k) : k = j :=
  le_antisymm (h.le_of_le_mag le_rfl) (h.le_of_mag_le le_rfl)

/-- Whether a mode takes the upper of two neighbours `lo` and `hi` of `a`, `odd` saying so of the lower one's fraction. -/
def RoundsUp (mode : Nat) (neg : Bool) (odd : Prop) (lo hi a : ℝ) : Prop :=
  if mode = 0 then lo + hi < 2 * a ∨ (lo + hi = 2 * a ∧ odd) else ¬ TowardZero mode neg ∧ lo ≠ a

section
variable {f : Fmt} {k : Nat} {a : ℝ} (hlo : f.mag k ≤ a) (hhi : a < f.mag (k + 1))
include hhi

theorem Fmt.isNearest_upper (h : RoundsUp 0 false (k % 2 = 1) (f.mag k) (f.mag (k + 1)) a) : f.IsNearest a (k + 1) := by
  have hmid : f.mag k + f.mag (k + 1) ≤ 2 * a := h.elim le_of_lt fun h => h.1.le
  intro j
  rw [abs_of_pos (by linarith)]
  rcases lt_or_ge k j with hj | hj
  · have hmag := f.mag_strictMono.monotone hj
    rw [abs_of_pos (by linarith [f.mag_strictMono.monotone hj])]
    exact ⟨by linarith, fun heq hne => absurd (f.mag_strictMono.injective (by linarith)) hne⟩
  · have hmag := f.mag_strictMono.monotone hj
    rw [abs_of_nonpos (by linarith)]
    refine ⟨by linarith, fun heq _ => ?_⟩
    have := h.resolve_left (by linarith)
    omega

include hlo

theorem Fmt.isBelow_of_between : f.IsBelow a k :=
  ⟨hlo, fun _ hj => Nat.lt_succ_iff.1 (f.mag_strictMono.lt_iff_lt.1 (hj.trans_lt hhi))⟩

theorem Fmt.isAbove_of_between (hne : f.mag k ≠ a) : f.IsAbove a (k + 1) :=
  ⟨hhi.le, fun _ hj => f.mag_strictMono.lt_iff_lt.1 ((hlo.lt_of_ne hne).trans_le hj)⟩

theorem Fmt.isNearest_lower (h : ¬ RoundsUp 0 false (k % 2 = 1) (f.mag k) (f.mag (k + 1)) a) : f.IsNearest a k := by
  simp only [RoundsUp, if_true, not_or, not_and, not_lt] at h
  intro j
  rw [abs_of_nonpos (by linarith)]
  rcases lt_or_ge k j with hj | hj
  · have hmag := f.mag_strictMono.monotone hj
    rw [abs_of_pos (by linarith [f.mag_strictMono.monotone hj])]
    refine ⟨by linarith, fun heq _ => ?_⟩
    have := h.2 (by linarith)
    omega
  · have hmag := f.mag_strictMono.monotone hj
    rw [abs_of_nonpos (by linarith)]
    exact ⟨by linarith, fun heq hne => absurd (f.mag_strictMono.injective (by linarith)) hne⟩

open Classical in
/-- Of two neighbouring magnitudes a mode takes the upper or the lower as `RoundsUp` says. -/
theorem Fmt.isRounded_of_between (mode : Nat) (neg : Bool) :
    f.IsRounded mode neg a (if RoundsUp mode neg (k % 2 = 1) (f.mag k) (f.mag (k + 1)) a then k + 1 else k) := by
  by_cases h0 : mode = 0
  · subst h0
    show f.IsNearest _ _
    split
    next h => exact f.isNearest_upper hhi h
    next h => exact f.isNearest_lower hlo hhi h
  rw [Fmt.IsRounded, if_neg h0, RoundsUp, if_neg h0]
  by_cases ht : TowardZero mode neg
  · rw [if_pos ht, if_neg fun h => h.1 ht]
    exact f.isBelow_of_between hlo hhi
  rw [if_neg ht]
  by_cases hne : f.mag k = a
  · rw [if_neg fun h => h.2 hne]
    exact ⟨hne.ge, fun j hj => f.mag_strictMono.le_iff_le.1 (hne.trans_le hj)⟩
  · rw [if_pos ⟨ht, hne⟩]
    exact f.isAbove_of_between hlo hhi hne
end

/-! ### What `roundAt` finds -/

theorem roundsUp_mul_right {mode : Nat} {neg : Bool} {odd : Prop} {lo hi a c : ℝ} (hc : 0 < c) :
    RoundsUp mode neg odd (lo * c) (hi * c) (a * c) ↔ RoundsUp mode neg odd lo hi a := by
  simp only [RoundsUp, ← add_mul, ← mul_assoc, mul_lt_mul_iff_left₀ hc, mul_left_inj' hc.ne', ne_eq]

theorem not_roundsUp_self (mode : Nat) (neg : Bool) (odd : Prop) {lo hi : ℝ} (h : lo < hi) :
    ¬ RoundsUp mode neg odd lo hi lo := by
  rw [RoundsUp]
  split
  · exact not_or.2 ⟨by linarith, fun h => by linarith [h.1]⟩
  · exact fun h => h.2 rfl

theorem natCast_mul_zpow_of_le {K : Type*} [Field K] [CharZero K] (m : Nat) {e q : Int} (h : q ≤ e) :
    (m : K) * 2 ^ e = (m * 2 ^ (e - q).toNat : Nat) * 2 ^ q := by
  rw [Nat.cast_mul, mul_assoc, Nat.cast_pow, Nat.cast_ofNat, ← zpow_natCast, ← zpow_add₀ two_ne_zero]
  congr 2
  omega

theorem roundsUp_nearest_iff (neg : Bool) (odd : Prop) (n d r : Nat) :
    RoundsUp 0 neg odd (n * d : Nat) ((n + 1) * d : Nat) (n * d + r : Nat) ↔ d < 2 * r ∨ (2 * r = d ∧ odd) := by
  have hsum : ((n * d : Nat) : ℝ) + ((n + 1) * d : Nat) = (2 * (n * d) + d : Nat) := by push_cast; ring
  have hmid : 2 * ((n * d + r : Nat) : ℝ) = (2 * (n * d) + 2 * r : Nat) := by push_cast; ring
  rw [RoundsUp, if_pos rfl, hsum, hmid, Nat.cast_lt, Nat.cast_inj, Nat.add_lt_add_iff_left, Nat.add_left_cancel_iff, eq_comm]

theorem roundsUp_directed_iff {mode : Nat} (h : mode ≠ 0) (neg : Bool) (odd : Prop) (n d r : Nat) (hi : ℝ) :
    RoundsUp mode neg odd (n * d : Nat) hi (n * d + r : Nat) ↔ ¬ TowardZero mode neg ∧ r ≠ 0 := by
  rw [RoundsUp, if_neg h, ne_eq, Nat.cast_inj]
  simp

open Classical in
/-- Rounding to a multiple of 2^q takes one of the two multiples between which the value stands. -/
theorem roundAt_spec {mode : Nat} (hmode : mode < 4) (neg : Bool) (m : Nat) (e q : Int) :
    ∃ n : Nat, (n : ℝ) * 2 ^ q ≤ m * 2 ^ e ∧ (m : ℝ) * 2 ^ e < (n + 1 : Nat) * 2 ^ q ∧
      roundAt mode neg m e q =
        if RoundsUp mode neg (n % 2 = 1) (n * 2 ^ q) ((n + 1 : Nat) * 2 ^ q) (m * 2 ^ e) then n + 1 else n := by
  by_cases hq : q ≤ e
  · rw [roundAt, if_pos hq, natCast_mul_zpow_of_le m hq]
    have hlt {n : Nat} : (n : ℝ) * 2 ^ q < (n + 1 : Nat) * 2 ^ q :=
      mul_lt_mul_of_pos_right (Nat.cast_lt.2 n.lt_succ_self) (two_zpow_pos q)
    exact ⟨_, le_rfl, hlt, (if_neg (not_roundsUp_self _ _ _ hlt)).symm⟩
  · have hpow (n : Nat) := natCast_mul_zpow_of_le (K := ℝ) n (not_le.1 hq).le
    have he := two_zpow_pos e
    rw [roundAt, if_neg hq]
    generalize (q - e).toNat = sh at hpow
    have hm := Nat.div_add_mod' m (2 ^ sh)
    have hlt := Nat.mod_lt m (Nat.two_pow_pos sh)
    refine ⟨m / 2 ^ sh, ?_, ?_, ?_⟩
    · rw [hpow]
      exact mul_le_mul_of_nonneg_right (Nat.cast_le.2 (by omega)) he.le
    · rw [hpow]
      exact mul_lt_mul_of_pos_right (Nat.cast_lt.2 (by rw [Nat.add_mul]; omega)) he
    · rw [hpow, hpow, roundsUp_mul_right he]
      have hnear := roundsUp_nearest_iff neg (m / 2 ^ sh % 2 = 1) (m / 2 ^ sh) (2 ^ sh) (m % 2 ^ sh)
      have hdir {mode : Nat} (h : mode ≠ 0) (hi : ℝ) :=
        roundsUp_directed_iff h neg (m / 2 ^ sh % 2 = 1) (m / 2 ^ sh) (2 ^ sh) (m % 2 ^ sh) hi
      simp only [hm] at hnear hdir
      match mode, hmode with
      | 0, _ => exact if_congr (by rw [hnear]; simp) rfl rfl
      | 1, _ => exact if_congr (by rw [hdir (by decide)]; simp) rfl rfl
      | 2, _ => exact if_congr (by rw [hdir (by decide)]; simp) rfl rfl
      | 3, _ => exact if_congr (by rw [hdir (by decide)]; simp) rfl rfl

/-! ### What `Fmt.round` finds -/

/-- No multiple of 2^g tells `a` from `b`. -/
def SamePlace (g : Int) (a b : ℝ) : Prop :=
  ∀ k : Nat, ((k : ℝ) * 2 ^ g < a ↔ (k : ℝ) * 2 ^ g < b) ∧ ((k : ℝ) * 2 ^ g = a ↔ (k : ℝ) * 2 ^ g = b)

theorem SamePlace.refl (g : Int) (a : ℝ) : SamePlace g a a := fun _ => ⟨.rfl, .rfl⟩

section
variable {g : Int} {a b : ℝ} (h : SamePlace g a b)
include h

theorem SamePlace.le_iff (k : Nat) : (k : ℝ) * 2 ^ g ≤ a ↔ (k : ℝ) * 2 ^ g ≤ b := by
  rw [le_iff_lt_or_eq, le_iff_lt_or_eq, (h k).1, (h k).2]
theorem SamePlace.gt_iff (k : Nat) : a < (k : ℝ) * 2 ^ g ↔ b < (k : ℝ) * 2 ^ g := by
  rw [← not_le, ← not_le, h.le_iff k]

/-- Every multiple of 2^(g+1) is one of 2^g. -/
theorem SamePlace.double : SamePlace (g + 1) a b := fun k => by
  rw [zpow_add_one₀ two_ne_zero, mul_comm _ (2 : ℝ), ← mul_assoc]
  exact_mod_cast h (k * 2)

/-- The middle between two multiples of 2^(g+1) is a multiple of 2^g, so that both values round alike. -/
theorem SamePlace.roundsUp_iff (mode : Nat) (neg : Bool) (odd : Prop) (n : Nat) :
    RoundsUp mode neg odd (n * 2 ^ (g + 1)) ((n + 1 : Nat) * 2 ^ (g + 1)) a ↔
    RoundsUp mode neg odd (n * 2 ^ (g + 1)) ((n + 1 : Nat) * 2 ^ (g + 1)) b := by
  have hmid : (n : ℝ) * 2 ^ (g + 1) + (n + 1 : Nat) * 2 ^ (g + 1) = 2 * ((2 * n + 1 : Nat) * 2 ^ g) := by
    rw [zpow_add_one₀ two_ne_zero]
    push_cast
    ring
  simp only [RoundsUp, hmid, mul_lt_mul_iff_right₀ (two_pos (α := ℝ)), mul_right_inj' (two_ne_zero (α := ℝ)), (h _).1, (h _).2,
    ne_eq, (h.double n).2]
end

/-- The encoding of a rounded magnitude: itself, the largest finite one, or overflow (R46). -/
def Fmt.clip (f : Fmt) (mode : Nat) (neg : Bool) (k : Nat) : Nat :=
  if k ≤ f.maxMag then f.signBit neg + k
  else if TowardZero mode neg then f.signBit neg + f.maxMag
  else if f.width = 8 ∧ !f.ieee then f.nan
  else f.signBit neg + f.ovf

/-- The magnitude that `Fmt.round` rounds to. -/
def Fmt.roundMag (f : Fmt) (mode : Nat) (neg : Bool) (m : Nat) (e : Int) : Nat :=
  (f.quantum m e + f.frac + f.bias - 1).toNat * 2 ^ f.frac + roundAt mode neg m e (f.quantum m e)

theorem Fmt.round_eq_clip (f : Fmt) (mode : Nat) (neg : Bool) {m : Nat} (hm : m ≠ 0) (e : Int) :
    f.round mode neg m e = f.clip mode neg (f.roundMag mode neg m e) := if_neg hm

theorem Fmt.round_zero (f : Fmt) (mode : Nat) (neg : Bool) (e : Int) : f.round mode neg 0 e = f.signBit neg := if_pos rfl

/-- The multiple of the quantum below a value has the format's precision, and all of it above the subnormals. -/
theorem Fmt.precision_of_quantum (f : Fmt) {m n : Nat} {e : Int} (hm : m ≠ 0) (hlo : (n : ℝ) * 2 ^ f.quantum m e ≤ m * 2 ^ e)
    (hhi : (m : ℝ) * 2 ^ e < (n + 1 : Nat) * 2 ^ f.quantum m e) :
    n < 2 ^ (f.frac + 1) ∧ (f.quantum m e = f.least ∨ 2 ^ f.frac ≤ n) := by
  have hq := two_zpow_pos (f.quantum m e)
  have he := two_zpow_pos e
  constructor
  · have hlog : (m : ℝ) < 2 ^ (Nat.log2 m + 1) := by exact_mod_cast Nat.lt_log2_self
    have hpow : (2 : ℝ) ^ (Nat.log2 m + 1) * 2 ^ e ≤ 2 ^ (f.frac + 1) * 2 ^ f.quantum m e := by
      rw [← zpow_natCast, ← zpow_natCast, ← zpow_add₀ two_ne_zero, ← zpow_add₀ two_ne_zero]
      exact zpow_le_zpow_right₀ one_le_two (by rw [Fmt.quantum]; push_cast; omega)
    have := lt_of_mul_lt_mul_right (hlo.trans_lt ((mul_lt_mul_of_pos_right hlog he).trans_le hpow)) hq.le
    exact_mod_cast this
  · by_cases hleast : f.quantum m e = f.least
    · exact .inl hleast
    · have hlog : (2 : ℝ) ^ Nat.log2 m ≤ m := by exact_mod_cast Nat.log2_self_le hm
      have hpow : (2 : ℝ) ^ f.frac * 2 ^ f.quantum m e ≤ 2 ^ Nat.log2 m * 2 ^ e := by
        rw [← zpow_natCast, ← zpow_natCast, ← zpow_add₀ two_ne_zero, ← zpow_add₀ two_ne_zero]
        exact zpow_le_zpow_right₀ one_le_two (by simp only [Fmt.quantum, Fmt.least] at hleast ⊢; omega)
      have := lt_of_mul_lt_mul_right ((hpow.trans (mul_le_mul_of_nonneg_right hlog he.le)).trans_lt hhi) hq.le
      exact .inr (Nat.lt_succ_iff.1 (by exact_mod_cast this))

/-- `Fmt.round` finds the magnitude that R46 asks for, of the value itself and of any that stands in the same place among
the multiples of half a spacing. -/
theorem Fmt.Regular.isRounded_roundMag {f : Fmt} (hf : f.Regular) {mode : Nat} (hmode : mode < 4) (neg : Bool) {m : Nat} (hm : m ≠ 0)
    {e : Int} {a : ℝ} (ha : SamePlace (f.quantum m e - 1) (m * 2 ^ e) a) : f.IsRounded mode neg a (f.roundMag mode neg m e) := by
  obtain ⟨n, hlo, hhi, hround⟩ := roundAt_spec hmode neg m e (f.quantum m e)
  obtain ⟨hn, hQ⟩ := f.precision_of_quantum hm hlo hhi
  have hplace := ha.double
  have hup := ha.roundsUp_iff mode neg (n % 2 = 1) n
  rw [sub_add_cancel] at hplace hup
  rw [hplace.le_iff] at hlo
  rw [hplace.gt_iff] at hhi
  have hge : f.least ≤ f.quantum m e := le_max_right _ _
  have hcast : f.least + ((f.quantum m e + f.frac + f.bias - 1).toNat : Int) = f.quantum m e := by
    rw [Fmt.least] at hge ⊢
    omega
  have hQ' : (f.quantum m e + f.frac + f.bias - 1).toNat = 0 ∨ 2 ^ f.frac ≤ n := hQ.imp_left fun h => by omega
  rw [Fmt.roundMag, hround]
  generalize (f.quantum m e + f.frac + f.bias - 1).toNat = Q at *
  have hpar : (Q * 2 ^ f.frac + n) % 2 = n % 2 := by
    have : 2 ∣ 2 ^ f.frac := dvd_pow_self 2 hf.frac_pos.ne'
    rw [Nat.add_mod, Nat.mod_eq_zero_of_dvd (this.mul_left Q), Nat.zero_add, Nat.mod_mod]
  have hk := f.mag_of_binade hn.le hQ'
  have hk' : f.mag (Q * 2 ^ f.frac + n + 1) = _ := f.mag_of_binade hn (hQ'.imp_right (by omega))
  rw [hcast] at hk hk'
  have := f.isRounded_of_between (hk.trans_le hlo) (hhi.trans_eq hk'.symm) mode neg
  rw [hpar, hk, hk', ← hup] at this
  split at this
  next h => rwa [if_pos h]
  next h => rwa [if_neg h]

end Sys2Proof.Machine

/-! SUPPORT. The encodings of rounded magnitudes are those that R46 names; with this, O25. -/

namespace Sys2Proof.Machine
open Sys2Proof.Claims

/-! ### Magnitudes against signed values -/

section
variable {f : Fmt} {a q : ℝ} {j k : Nat} (hq : |q| = f.mag j)
include hq

theorem Fmt.IsNearest.signed (h : f.IsNearest a k) (ha : 0 ≤ a) :
    |f.mag k - a| ≤ |q - a| ∧ (|f.mag k - a| = |q - a| → q ≠ f.mag k → k % 2 = 0) := by
  rcases abs_choice q with hpos | hneg
  · obtain rfl : q = f.mag j := hpos.symm.trans hq
    exact ⟨(h j).1, fun heq hne => (h j).2 heq fun hjk => hne (by rw [hjk])⟩
  · have hj := f.mag_nonneg j
    obtain rfl : q = -f.mag j := by linarith
    obtain ⟨hzero, heven⟩ := h 0
    rw [f.mag_zero, zero_sub, abs_neg, abs_of_nonneg ha] at hzero heven
    rw [abs_of_nonpos (show -f.mag j - a ≤ 0 by linarith)]
    refine ⟨by linarith, fun heq hne => ?_⟩
    have hj0 : f.mag j = 0 := by linarith
    exact heven (by linarith) fun h0 => hne (by rw [← h0, f.mag_zero, hj0, neg_zero])

theorem Fmt.IsAbove.le_of_le (h : f.IsAbove a k) (ha : 0 ≤ a) (hle : a ≤ q) : f.mag k ≤ q := by
  rw [abs_of_nonneg (ha.trans hle)] at hq
  rw [hq] at hle ⊢
  exact f.mag_strictMono.monotone (h.2 j hle)

theorem Fmt.IsBelow.le_of_le (h : f.IsBelow a k) {top : Nat} (hj : j ≤ top) (hle : q ≤ a) : q ≤ f.mag (min k top) := by
  rcases le_total q 0 with hneg | hpos
  · exact hneg.trans (f.mag_nonneg _)
  · rw [abs_of_nonneg hpos] at hq
    rw [hq] at hle ⊢
    exact f.mag_strictMono.monotone (le_min (h.2 j hle) hj)
end

/-! ### The three ways in which clipping ends -/

section
variable (f : Fmt) {mode k : Nat} {neg : Bool}

theorem Fmt.clip_of_le (mode : Nat) (neg : Bool) (h : k ≤ f.maxMag) : f.clip mode neg k = f.signBit neg + k := if_pos h

theorem Fmt.clip_towardZero (h : TowardZero mode neg) (k : Nat) : f.clip mode neg k = f.signBit neg + min k f.maxMag := by
  by_cases hk : k ≤ f.maxMag
  · rw [f.clip_of_le mode neg hk, min_eq_left hk]
  · rw [Fmt.clip, if_neg hk, if_pos h, min_eq_right (not_le.1 hk).le]

theorem Fmt.Regular.clip_overflow {f : Fmt} (hf : f.Regular) (h : ¬ TowardZero mode neg) (hk : f.maxMag < k) :
    f.clip mode neg k = overflowCode f neg := by
  rw [Fmt.clip, if_neg (not_le.2 hk), if_neg h, overflowCode]
  refine if_ctx_congr hf.e4m3_iff.symm (fun h => hf.e4m3_nan (hf.e4m3_iff.2 (hf.e4m3_iff.1 h))) fun _ => f.signBit_add_eq_withSign neg _
end

/-! ### R46 -/

section
variable {f : Fmt} (hf : f.Regular) {mode k : Nat} {neg : Bool} {a : ℝ} (ha : 0 ≤ a)
include hf

theorem Fmt.Regular.abs_of_isValue {z : Nat} {q : ℝ} (h : IsValue f z q) :
    |q| = f.mag (z % 2 ^ (f.width - 1)) ∧ z % 2 ^ (f.width - 1) ≤ f.maxMag := by
  obtain ⟨hz, rfl⟩ := hf.isValue_iff.1 h
  exact ⟨by rw [abs_signed, abs_of_nonneg (f.mag_nonneg _)], hz⟩

/-- A nearest magnitude is finite just where the value is not beyond the half spacing after the last finite one. -/
theorem Fmt.Regular.nearest_le_iff (h : f.IsNearest a k) :
    let limit := f.mag f.maxMag + (f.mag f.maxMag - f.mag (f.maxMag - 1)) / 2
    k ≤ f.maxMag ↔ ¬ (limit < a ∨ (a = limit ∧ f.maxMag % 2 = 1)) := by
  intro limit
  have hnext := hf.mag_beyond
  have hlt := f.mag_strictMono f.maxMag.lt_succ_self
  have hlimit : f.mag f.maxMag + f.mag (f.maxMag + 1) = 2 * limit := by
    simp only [limit]
    linarith
  constructor
  · intro hk hbeyond
    have hle : limit ≤ a := hbeyond.elim le_of_lt fun h => h.1.ge
    have hmono := f.mag_strictMono.monotone hk
    obtain ⟨hnear, heven⟩ := h (f.maxMag + 1)
    rw [abs_of_nonpos (by linarith)] at hnear heven
    rcases le_total (f.mag (f.maxMag + 1)) a with hge | hge
    · rw [abs_of_nonpos (by linarith)] at hnear
      linarith
    · rw [abs_of_nonneg (by linarith)] at hnear heven
      have hodd := hbeyond.resolve_left (by linarith)
      obtain rfl : k = f.maxMag := f.mag_strictMono.injective (by linarith)
      have := heven (by linarith) (by omega)
      omega
  · intro hbeyond
    obtain ⟨hle, hodd⟩ := not_or.1 hbeyond
    rw [not_lt] at hle
    by_contra! hk
    have hmono := f.mag_strictMono.monotone (Nat.succ_le_of_lt hk)
    obtain ⟨hnear, heven⟩ := h f.maxMag
    rw [abs_of_nonneg (show 0 ≤ f.mag k - a by linarith)] at hnear heven
    rcases le_total (f.mag f.maxMag) a with hge | hge
    · rw [abs_of_nonpos (by linarith)] at hnear heven
      obtain rfl : k = f.maxMag + 1 := f.mag_strictMono.injective (by linarith)
      have := heven (by linarith) (by omega)
      exact hodd ⟨by linarith, by omega⟩
    · rw [abs_of_nonneg (by linarith)] at hnear
      linarith

/-- A finite result has its sign and its value. -/
theorem Fmt.Regular.finite_result (neg : Bool) (hk : k ≤ f.maxMag) {P : ℝ → Prop} (hP : P (signed neg (f.mag k))) :
    f.signBit neg + k < 2 ^ f.width ∧ decide (2 ^ (f.width - 1) ≤ f.signBit neg + k) = neg ∧
    ∃ y, IsValue f (f.signBit neg + k) y ∧ P y :=
  have hlt := hk.trans_lt hf.maxMag_lt
  ⟨hf.signBit_add_lt neg hlt, Fmt.sign_le_iff neg hlt, _, hf.isValue_signBit_add neg hk, hP⟩

theorem Fmt.Regular.signBit_add_mod_two (neg : Bool) (k : Nat) : (f.signBit neg + k) % 2 = k % 2 := by
  have : 2 ∣ 2 ^ (f.width - 1) := dvd_pow_self 2 (by have := hf.two_le_width; omega)
  cases neg <;> simp [Fmt.signBit, Nat.add_mod, Nat.mod_eq_zero_of_dvd this]

include ha

/-- The order of signed values, for a value against the nearest magnitude. -/
theorem Fmt.Regular.signed_nearest (h : f.IsNearest a k) {z : Nat} {q : ℝ} (hz : IsValue f z q) :
    |signed neg (f.mag k) - signed neg a| ≤ |q - signed neg a| ∧
    (|signed neg (f.mag k) - signed neg a| = |q - signed neg a| → q ≠ signed neg (f.mag k) → k % 2 = 0) := by
  obtain ⟨hq, -⟩ := hf.abs_of_isValue hz
  cases neg
  · exact h.signed hq ha
  · have hflip (p : ℝ) : |(-p) - -a| = |p - a| := by rw [← neg_sub', abs_neg]
    have := h.signed ((abs_neg q).trans hq) ha
    rw [← hflip, ← hflip (-q), neg_neg] at this
    exact ⟨this.1, fun heq hne => this.2 heq fun hq => hne (neg_eq_iff_eq_neg.1 hq)⟩

omit ha in
theorem Fmt.Regular.isValue_neg {z : Nat} {q : ℝ} (hz : IsValue f z q) : ∃ z', IsValue f z' (-q) := by
  obtain ⟨hle, rfl⟩ := hf.isValue_iff.1 hz
  refine ⟨f.signBit (!decide (2 ^ (f.width - 1) ≤ z % 2 ^ f.width)) + z % 2 ^ (f.width - 1), ?_⟩
  convert hf.isValue_signBit_add _ hle using 1
  cases decide (2 ^ (f.width - 1) ≤ z % 2 ^ f.width) <;> simp

omit ha in
theorem Fmt.Regular.le_below (h : f.IsBelow a k) {z : Nat} {q : ℝ} (hz : IsValue f z q) (hq : q ≤ a) :
    q ≤ f.mag (min k f.maxMag) := h.le_of_le (hf.abs_of_isValue hz).1 (hf.abs_of_isValue hz).2 hq

theorem Fmt.Regular.above_le (h : f.IsAbove a k) {z : Nat} {q : ℝ} (hz : IsValue f z q) (hq : a ≤ q) : f.mag k ≤ q :=
  h.le_of_le (hf.abs_of_isValue hz).1 ha hq

omit hf ha in
theorem Fmt.IsAbove.lt_iff {j : Nat} (h : f.IsAbove a k) : j < k ↔ f.mag j < a := by
  rw [← not_le, ← not_le (a := a)]
  exact not_congr ⟨fun hk => h.1.trans (f.mag_strictMono.monotone hk), h.2 j⟩

omit hf ha in
theorem Fmt.IsBelow.mag_min_le (h : f.IsBelow a k) (j : Nat) : f.mag (min k j) ≤ a :=
  (f.mag_strictMono.monotone (min_le_left k j)).trans h.1

/-- A rounded magnitude, clipped, is the encoding that R46 names. -/
theorem Fmt.Regular.rounds_clip (hmode : mode < 4) (h : f.IsRounded mode neg a k) :
    Rounds f mode neg (signed neg a) (f.clip mode neg k) := by
  intro top below htop hbelow
  obtain rfl := isValue_unique htop hf.isValue_maxMag
  have hbelow' : IsValue f (f.maxMag - 1) (f.mag (f.maxMag - 1)) := by
    simpa [Fmt.signBit] using hf.isValue_signBit_add false (Nat.sub_le _ 1)
  obtain rfl := isValue_unique hbelow hbelow'
  have hmax := f.mag_nonneg f.maxMag
  match mode, neg, hmode with
  | 0, neg, _ =>
    have h : f.IsNearest a k := h
    have hle := hf.nearest_le_iff h
    simp only [abs_signed, abs_of_nonneg ha]
    refine ⟨fun hb => hf.clip_overflow (by simp) (not_le.1 fun hk => hle.1 hk hb), fun hb => ?_⟩
    rw [f.clip_of_le 0 neg (hle.2 hb)]
    refine hf.finite_result neg (hle.2 hb) fun z q _ hz => ?_
    rw [hf.signBit_add_mod_two]
    exact hf.signed_nearest ha h hz
  | 1, neg, _ =>
    have h : f.IsBelow a k := h
    rw [f.clip_towardZero (.inl rfl)]
    refine ⟨False.elim, fun _ => hf.finite_result neg (min_le_right _ _) ?_⟩
    simp only [abs_signed, abs_of_nonneg ha, abs_of_nonneg (f.mag_nonneg _)]
    refine ⟨h.mag_min_le _, fun z q hz hq => ?_⟩
    rcases abs_choice q with habs | habs <;> rw [habs] at hq ⊢
    · exact hf.le_below h hz hq
    · obtain ⟨z', hz'⟩ := hf.isValue_neg hz
      exact hf.le_below h hz' hq
  | 2, false, _ =>
    have h : f.IsAbove a k := h
    refine ⟨fun hb => hf.clip_overflow (by simp) (h.lt_iff.2 hb), fun hb => ?_⟩
    have hk := not_lt.1 fun hk => hb (h.lt_iff.1 hk)
    rw [f.clip_of_le 2 false hk]
    exact hf.finite_result false hk ⟨h.1, fun z q hz hq => hf.above_le ha h hz hq⟩
  | 2, true, _ =>
    have h : f.IsBelow a k := h
    rw [f.clip_towardZero (.inr (.inl ⟨rfl, rfl⟩))]
    refine ⟨fun hb => absurd hb (by simp only [signed_true]; linarith), fun _ => hf.finite_result true (min_le_right _ _) ?_⟩
    refine ⟨neg_le_neg (h.mag_min_le _), fun z q hz hq => ?_⟩
    obtain ⟨z', hz'⟩ := hf.isValue_neg hz
    exact neg_le.1 (hf.le_below h hz' (neg_le.1 hq))
  | 3, false, _ =>
    have h : f.IsBelow a k := h
    rw [f.clip_towardZero (.inr (.inr ⟨rfl, rfl⟩))]
    refine ⟨fun hb => absurd hb (by simp only [signed_false]; linarith), fun _ => hf.finite_result false (min_le_right _ _) ?_⟩
    exact ⟨h.mag_min_le _, fun z q hz hq => hf.le_below h hz hq⟩
  | 3, true, _ =>
    have h : f.IsAbove a k := h
    simp only [signed_true, neg_lt_neg_iff]
    refine ⟨fun hb => hf.clip_overflow (by simp) (h.lt_iff.2 hb), fun hb => ?_⟩
    have hk := not_lt.1 fun hk => hb (h.lt_iff.1 hk)
    rw [f.clip_of_le 3 true hk]
    refine hf.finite_result true hk ⟨neg_le_neg h.1, fun z q hz hq => ?_⟩
    obtain ⟨z', hz'⟩ := hf.isValue_neg hz
    exact le_neg.1 (hf.above_le ha h hz' (le_neg.1 hq))
end

theorem Fmt.isRounded_zero (f : Fmt) (mode : Nat) (neg : Bool) : f.IsRounded mode neg 0 0 := by
  rw [Fmt.IsRounded]
  split
  · exact fun j => ⟨by simp, fun _ _ => rfl⟩
  · split
    · exact ⟨f.mag_zero.le, fun j hj => f.mag_strictMono.le_iff_le.1 (hj.trans_eq f.mag_zero.symm)⟩
    · exact ⟨f.mag_zero.ge, fun j _ => j.zero_le⟩

section
variable {f : Fmt} (hf : f.Regular) {mode : Nat} (hmode : mode < 4) (neg : Bool)
include hf hmode

/-- A rounding of a value rounds every real number that stands in its place among the multiples of half a spacing. -/
theorem Fmt.Regular.rounds_round {m : Nat} {e : Int} {a : ℝ} (hm : m ≠ 0) (ha : 0 ≤ a)
    (h : SamePlace (f.quantum m e - 1) (m * 2 ^ e) a) : Rounds f mode neg (signed neg a) (f.round mode neg m e) := by
  rw [f.round_eq_clip mode neg hm]
  exact hf.rounds_clip ha hmode (hf.isRounded_roundMag hmode neg hm h)

/-- Every value rounds to the clipped magnitude that its mode takes. -/
theorem Fmt.Regular.exists_round_eq (m : Nat) (e : Int) :
    ∃ k, f.IsRounded mode neg (m * 2 ^ e) k ∧ f.round mode neg m e = f.clip mode neg k := by
  by_cases hm : m = 0
  · subst hm
    exact ⟨0, by simpa using f.isRounded_zero mode neg, by rw [f.round_zero, f.clip_of_le mode neg (Nat.zero_le _)]; rfl⟩
  · exact ⟨_, hf.isRounded_roundMag hmode neg hm (.refl _ _), f.round_eq_clip mode neg hm e⟩

theorem Fmt.Regular.rounds_exact (m : Nat) (e : Int) :
    Rounds f mode neg (signed neg (m * 2 ^ e)) (f.round mode neg m e) := by
  obtain ⟨k, hk, hround⟩ := hf.exists_round_eq hmode neg m e
  rw [hround]
  exact hf.rounds_clip (by positivity) hmode hk

/-- A value that the format has is its own rounding, in every mode. -/
theorem Fmt.Regular.round_of_mag {m k : Nat} {e : Int} (h : f.mag k = m * 2 ^ e) (hk : k ≤ f.maxMag) :
    f.round mode neg m e = f.signBit neg + k := by
  obtain ⟨j, hj, hround⟩ := hf.exists_round_eq hmode neg m e
  rw [← h] at hj
  rw [hround, hj.eq_of_mag, f.clip_of_le mode neg hk]

/-! ### Saturation -/

omit hmode in
/-- A finite magnitude, decoded. -/
theorem Fmt.Regular.decode_mag {k : Nat} (hk : k ≤ f.maxMag) :
    ∃ (m : Nat) (e : Int), f.decode k = .fin false m e ∧ (m : ℝ) * 2 ^ e = f.mag k := by
  have hlt := hk.trans_lt hf.maxMag_lt
  have hmod := Nat.mod_eq_of_lt hlt
  obtain ⟨m, e, hd, hv, -⟩ := hf.decode_finite (x := k) (by rwa [hmod])
  rw [Nat.mod_eq_of_lt (by rw [hf.two_pow_width]; omega), decide_eq_false (not_le.2 hlt)] at hd
  exact ⟨m, e, hd, by rw [hv, hmod]⟩

omit hmode in
open Classical in
/-- Clamping gives the largest finite value in place of one beyond it. -/
theorem Fmt.Regular.exists_sat_eq : ∃ (mm : Nat) (me : Int), (mm : ℝ) * 2 ^ me = f.mag f.maxMag ∧
    (∀ neg, f.sat (.inf neg) = .fin neg mm me) ∧
    ∀ neg m e, f.sat (.fin neg m e) = if f.mag f.maxMag < m * 2 ^ e then .fin neg mm me else .fin neg m e := by
  obtain ⟨mm, me, hd, hv⟩ := hf.decode_mag le_rfl
  refine ⟨mm, me, hv, fun neg => by simp [Fmt.sat, hd], fun neg m e => ?_⟩
  simp only [Fmt.sat, hd]
  refine if_congr ?_ rfl rfl
  rw [← hv, natCast_mul_zpow_of_le mm (min_le_right e me), natCast_mul_zpow_of_le m (min_le_left e me),
    mul_lt_mul_iff_left₀ (two_zpow_pos _), Nat.cast_lt]

omit hf hmode in
/-- Where overflow gives the largest finite value, every magnitude from that on becomes it. -/
theorem Fmt.clip_of_ge (f : Fmt) (mode : Nat) {k : Nat} (hw : f.width = 4) (hovf : f.ovf = f.maxMag) (hk : f.maxMag ≤ k) :
    f.clip mode neg k = f.signBit neg + f.maxMag := by
  rcases hk.eq_or_lt with rfl | hlt
  · exact f.clip_of_le mode neg le_rfl
  · simp [Fmt.clip, hlt.not_ge, hw, hovf]

/-- Into E2M1, saturating changes no result: overflow gives the largest finite value there. -/
theorem Fmt.Regular.encode_fin (m : Nat) (e : Int) :
    f.encode mode (.fin neg m e) = f.round mode neg m e := by
  obtain ⟨mm, me, hv, -, hsat⟩ := hf.exists_sat_eq
  rw [Fmt.encode]
  by_cases hw : f.width = 4
  · rw [if_pos hw, hsat]
    by_cases h : f.mag f.maxMag < m * 2 ^ e
    · obtain ⟨k, hk, hround⟩ := hf.exists_round_eq hmode neg m e
      rw [if_pos h, hround, f.clip_of_ge neg mode hw (hf.saturates hw) (hk.le_of_mag_le h.le)]
      exact hf.round_of_mag hmode neg hv.symm le_rfl
    · rw [if_neg h]
  · rw [if_neg hw]
end

end Sys2Proof.Machine

namespace Sys2Proof.Proofs
open Sys2Proof.Machine Sys2Proof.Claims

/-- Settles O25: rounding takes the magnitude that the mode asks for, and clipping it gives what R46 names. -/
theorem roundNearest : Obligations.RoundNearest := by
  intro f mode neg m e x hmem hmode hx
  have hf := Fmt.regular hmem
  have hround := hf.rounds_exact hmode neg m e
  have hval : x = signed neg (m * 2 ^ e) := by rw [hx, mul_assoc, ite_mul_eq_signed]
  rw [← hval] at hround
  exact ⟨hround, by rwa [hf.encode_fin hmode neg]⟩

end Sys2Proof.Proofs

/-! SUPPORT. Exact arithmetic is exact, and what its values' roundings are; with what follows, O26. -/

namespace Sys2Proof.Machine
open Sys2Proof.Claims

theorem valueOf_eq_some {u : FVal} {p : Rat} (h : valueOf u = some p) :
    ∃ s m e, u = .fin s m e ∧ p = (if s then -1 else 1) * (m : Rat) * 2 ^ e := by
  cases u with
  | nan => cases h
  | inf s => cases h
  | fin s m e => exact ⟨s, m, e, rfl, (Option.some.inj h).symm⟩

theorem valueOf_eq_signed {u : FVal} {p : Rat} (h : valueOf u = some p) :
    ∃ s m e, u = .fin s m e ∧ (p : ℝ) = signed s (m * 2 ^ e) := by
  obtain ⟨s, m, e, rfl, rfl⟩ := valueOf_eq_some h
  exact ⟨s, m, e, rfl, by cases s <;> simp⟩

/-- A finite value, as an integer in units that divide its own. -/
theorem scaled_mul_zpow {K : Type*} [Field K] [CharZero K] (s : Bool) (m : Nat) {e lo : Int} (h : lo ≤ e) :
    (scaled s m e lo : K) * 2 ^ lo = (if s then -1 else 1) * (m : K) * 2 ^ e := by
  rw [mul_assoc, natCast_mul_zpow_of_le m h, scaled, Int.cast_mul, mul_assoc]
  cases s <;> simp

section
variable {u v : FVal} {p q : Rat} (hu : valueOf u = some p) (hv : valueOf v = some q)
include hu

theorem valueOf_neg : valueOf u.neg = some (-p) := by
  obtain ⟨s, m, e, rfl, rfl⟩ := valueOf_eq_some hu
  rw [FVal.neg, valueOf]
  cases s <;> simp

/-- The sign of a value other than zero. -/
theorem isNeg_iff_of_ne_zero (h : p ≠ 0) : u.isNeg = true ↔ p < 0 := by
  obtain ⟨s, m, e, rfl, rfl⟩ := valueOf_eq_some hu
  have hpos : 0 ≤ (m : Rat) * 2 ^ e := by positivity
  cases s
  · simpa [FVal.isNeg] using hpos
  · simpa [FVal.isNeg] using hpos.lt_of_ne' (by simpa using h)

include hv

theorem valueOf_add : valueOf (u.add v) = some (p + q) := by
  obtain ⟨s, m, e, rfl, rfl⟩ := valueOf_eq_some hu
  obtain ⟨t, n, g, rfl, rfl⟩ := valueOf_eq_some hv
  rw [← scaled_mul_zpow s m (min_le_left e g), ← scaled_mul_zpow t n (min_le_right e g), ← add_mul, ← Int.cast_add]
  simp only [FVal.add]
  generalize scaled s m e (min e g) + scaled t n g (min e g) = r
  split
  next h => simp [valueOf, h]
  next h =>
    rw [valueOf, Nat.cast_natAbs]
    rcases lt_or_ge r 0 with hr | hr
    · simp [hr, abs_of_neg hr]
    · simp [hr.not_gt, abs_of_nonneg hr]

theorem valueOf_mul : valueOf (u.mul v) = some (p * q) := by
  obtain ⟨s, m, e, rfl, rfl⟩ := valueOf_eq_some hu
  obtain ⟨t, n, g, rfl, rfl⟩ := valueOf_eq_some hv
  rw [FVal.mul, valueOf, zpow_add₀ two_ne_zero, Nat.cast_mul]
  congr 1
  cases s <;> cases t <;> simp <;> ring

theorem rel_of_valueOf : u.rel v = if p < q then .less else if p = q then .equal else .greater := by
  obtain ⟨s, m, e, rfl, rfl⟩ := valueOf_eq_some hu
  obtain ⟨t, n, g, rfl, rfl⟩ := valueOf_eq_some hv
  have h2 : (0 : Rat) < 2 ^ min e g := zpow_pos two_pos _
  rw [← scaled_mul_zpow s m (min_le_left e g), ← scaled_mul_zpow t n (min_le_right e g)]
  exact if_congr (by rw [mul_lt_mul_iff_left₀ h2, Int.cast_lt]) rfl (if_congr (by rw [mul_left_inj' h2.ne', Int.cast_inj]) rfl rfl)

/-- An exact zero sum is negative only where both operands are (R46). -/
theorem isNeg_add_of_eq_zero (h : p + q = 0) : (u.add v).isNeg = (u.isNeg && v.isNeg) := by
  obtain ⟨s, m, e, rfl, rfl⟩ := valueOf_eq_some hu
  obtain ⟨t, n, g, rfl, rfl⟩ := valueOf_eq_some hv
  have h2 : (2 : Rat) ^ min e g ≠ 0 := zpow_ne_zero _ two_ne_zero
  rw [← scaled_mul_zpow s m (min_le_left e g), ← scaled_mul_zpow t n (min_le_right e g), ← add_mul, ← Int.cast_add,
    mul_eq_zero_iff_right h2, Int.cast_eq_zero] at h
  simp only [FVal.add, if_pos h]
  rfl
end

/-! ### Rounding an exact value -/

section
variable {f : Fmt} (hf : f.Regular) {mode : Nat}
include hf

theorem Fmt.Regular.rounds_encode (hmode : mode < 4) {u : FVal} {p : Rat} (hu : valueOf u = some p) :
    Rounds f mode u.isNeg p (f.encode mode u) := by
  obtain ⟨s, m, e, rfl, hp⟩ := valueOf_eq_signed hu
  rw [hp, hf.encode_fin hmode]
  exact hf.rounds_exact hmode s m e
end

theorem Fmt.encode_nan (f : Fmt) (mode : Nat) : f.encode mode .nan = f.nan := by
  have : (if f.width = 4 then f.sat .nan else .nan) = .nan := by split <;> rfl
  rw [Fmt.encode, this]

theorem Fmt.encode_inf {f : Fmt} (hi : f.ieee = true) (hw : f.width ≠ 4) (mode : Nat) (s : Bool) :
    f.encode mode (.inf s) = withSign f s f.ovf := by
  rw [Fmt.encode, if_neg hw, ← f.signBit_add_eq_withSign]
  exact if_pos hi

/-! ### Quotients and square roots: a last bit for what is cut off -/

/-- `a` is `q` units of 2^(e+1), or is within the next unit, and the last bit `b` says so. -/
def Sticky (a : ℝ) (q b : Nat) (e : Int) : Prop :=
  (b = 0 ∧ (q : ℝ) * 2 ^ (e + 1) = a) ∨ (b = 1 ∧ (q : ℝ) * 2 ^ (e + 1) < a ∧ a < (q + 1 : Nat) * 2 ^ (e + 1))

theorem Sticky.samePlace {a : ℝ} {q b : Nat} {e g : Int} (h : Sticky a q b e) (hg : e + 1 ≤ g) :
    SamePlace g ((2 * q + b : Nat) * 2 ^ e) a := by
  have h2 := two_zpow_pos (e + 1)
  have hdouble (n : Nat) : ((2 * n : Nat) : ℝ) * 2 ^ e = n * 2 ^ (e + 1) := by
    rw [zpow_add_one₀ two_ne_zero]
    push_cast
    ring
  rcases h with ⟨rfl, rfl⟩ | ⟨rfl, hlo, hhi⟩
  · rw [Nat.add_zero, hdouble]
    exact .refl _ _
  · intro k
    rw [natCast_mul_zpow_of_le k hg]
    generalize k * 2 ^ (g - (e + 1)).toNat = n
    have hlt : (n : ℝ) * 2 ^ (e + 1) < a ↔ n ≤ q :=
      ⟨fun h => Nat.lt_succ_iff.1 (Nat.cast_lt.1 (lt_of_mul_lt_mul_right (h.trans hhi) h2.le)),
        fun h => (mul_le_mul_of_nonneg_right (Nat.cast_le.2 h) h2.le).trans_lt hlo⟩
    have hne : (n : ℝ) * 2 ^ (e + 1) ≠ a := by
      rintro rfl
      have hqn := Nat.cast_lt.1 (lt_of_mul_lt_mul_right hlo h2.le)
      have hnq := Nat.cast_lt.1 (lt_of_mul_lt_mul_right hhi h2.le)
      omega
    rw [hlt]
    simp only [hne, iff_false]
    rw [← hdouble, mul_lt_mul_iff_left₀ (two_zpow_pos e), mul_left_inj' (two_zpow_pos e).ne', Nat.cast_lt, Nat.cast_inj]
    omega

/-- A value with a last bit for what is cut off rounds as the exact one does, its own bits being more than the format's. -/
theorem Fmt.Regular.rounds_sticky {f : Fmt} (hf : f.Regular) (hfrac : f.frac ≤ 23) {mode : Nat} (hmode : mode < 4) (neg : Bool)
    {a : ℝ} {q b : Nat} {e : Int} (hq : 2 ^ 63 ≤ q) (h : Sticky a q b e) :
    Rounds f mode neg (signed neg a) (f.encode mode (.fin neg (2 * q + b) e)) := by
  have hlog : 64 ≤ Nat.log2 (2 * q + b) := (Nat.le_log2 (by omega)).2 (by omega)
  have ha : 0 ≤ a := by
    rcases h with ⟨-, rfl⟩ | ⟨-, h, -⟩
    · positivity
    · exact le_trans (by positivity) h.le
  rw [hf.encode_fin hmode]
  refine hf.rounds_round hmode neg (by omega) ha (h.samePlace ?_)
  rw [Fmt.quantum]
  omega

/-! ### Quotients -/

theorem sticky_div (m : Nat) {n : Nat} (hn : n ≠ 0) (e g : Int) (k : Nat) :
    Sticky (m * 2 ^ e / (n * 2 ^ g)) (m * 2 ^ k / n) (if m * 2 ^ k / n * n = m * 2 ^ k then 0 else 1) (e - g - k - 1) := by
  have hpos : (0 : ℝ) < n := by positivity
  have hval : (m : ℝ) * 2 ^ e / (n * 2 ^ g) = (m * 2 ^ k : Nat) / n * 2 ^ (e - g - k - 1 + 1) := by
    rw [sub_add_cancel, zpow_sub₀ two_ne_zero, zpow_sub₀ two_ne_zero]
    push_cast
    rw [zpow_natCast]
    field_simp
  rw [hval]
  have h2 := two_zpow_pos (e - g - k - 1 + 1)
  have hdiv := Nat.div_mul_le_self (m * 2 ^ k) n
  by_cases h : m * 2 ^ k / n * n = m * 2 ^ k
  · rw [if_pos h]
    refine .inl ⟨rfl, ?_⟩
    rw [mul_left_inj' h2.ne', eq_div_iff hpos.ne']
    exact_mod_cast h
  · rw [if_neg h]
    refine .inr ⟨rfl, mul_lt_mul_of_pos_right ?_ h2, mul_lt_mul_of_pos_right ?_ h2⟩
    · rw [lt_div_iff₀ hpos]
      exact_mod_cast hdiv.lt_of_ne h
    · rw [div_lt_iff₀ hpos]
      exact_mod_cast Nat.lt_mul_of_div_lt (Nat.lt_succ_self _) (Nat.pos_of_ne_zero hn)

theorem le_div_of_log2 {m n : Nat} (hm : m ≠ 0) (hn : n ≠ 0) : 2 ^ 63 ≤ m * 2 ^ (64 + Nat.log2 n) / n := by
  rw [Nat.le_div_iff_mul_le (Nat.pos_of_ne_zero hn)]
  have hlt : n < 2 ^ (Nat.log2 n + 1) := Nat.lt_log2_self
  calc 2 ^ 63 * n ≤ 2 ^ 63 * 2 ^ (Nat.log2 n + 1) := Nat.mul_le_mul_left _ hlt.le
    _ = 2 ^ (64 + Nat.log2 n) := by rw [← pow_add]; congr 1; omega
    _ ≤ _ := Nat.le_mul_of_pos_left _ (Nat.pos_of_ne_zero hm)

/-! ### Square roots -/

theorem isqrtFrom_spec {n : Nat} (b : Nat) {r : Nat} (hlo : r * r ≤ n) (hhi : n < (r + 2 ^ b) * (r + 2 ^ b)) :
    isqrtFrom n b r = Nat.sqrt n := by
  induction b generalizing r with
  | zero => exact Nat.eq_sqrt.2 ⟨hlo, hhi⟩
  | succ b ih =>
    rw [isqrtFrom]
    split
    next h => exact ih h (by rwa [Nat.add_assoc, ← Nat.two_mul, ← Nat.pow_succ'])
    next h => exact ih hlo (not_le.1 h)

@[simp] theorem isqrt_eq_sqrt (n : Nat) : isqrt n = Nat.sqrt n := by
  refine isqrtFrom_spec _ (Nat.zero_le _) ?_
  rw [Nat.zero_add, ← pow_add]
  exact Nat.lt_log2_self.trans_le (Nat.pow_le_pow_right two_pos (by omega))

/-- An exponent made even, for a square root. -/
theorem even_exponent (m : Nat) (e : Int) :
    ((if e % 2 = 0 then m else 2 * m : Nat) : ℝ) * 2 ^ (2 * ((if e % 2 = 0 then e else e - 1) / 2)) = m * 2 ^ e := by
  split
  next h => rw [Int.mul_ediv_cancel' (Int.dvd_of_emod_eq_zero h)]
  next h =>
    rw [Int.mul_ediv_cancel' (by omega), zpow_sub_one₀ two_ne_zero]
    push_cast
    ring

theorem sqrt_mul_zpow (a : ℝ) (h : Int) : Real.sqrt (a * 2 ^ (2 * h)) = Real.sqrt a * 2 ^ h := by
  rw [mul_comm 2 h, zpow_mul, Real.sqrt_mul' _ (by positivity)]
  congr 1
  exact_mod_cast Real.sqrt_sq (two_zpow_pos h).le

theorem sticky_sqrt (n : Nat) (h : Int) :
    Sticky (Real.sqrt (n * 2 ^ (2 * h))) (Nat.sqrt (n * 2 ^ 128))
      (if Nat.sqrt (n * 2 ^ 128) * Nat.sqrt (n * 2 ^ 128) = n * 2 ^ 128 then 0 else 1) (h - 65) := by
  have hval : (n : ℝ) * 2 ^ (2 * h) = (n * 2 ^ 128 : Nat) * 2 ^ (2 * (h - 64)) := by
    rw [show 2 * h = (128 : Nat) + 2 * (h - 64) by push_cast; ring, zpow_add₀ two_ne_zero, zpow_natCast]
    push_cast
    ring
  have h2 := two_zpow_pos (h - 64)
  rw [hval, sqrt_mul_zpow]
  generalize n * 2 ^ 128 = N
  rw [Sticky, show h - 65 + 1 = h - 64 by ring]
  by_cases hN : Nat.sqrt N * Nat.sqrt N = N
  · rw [if_pos hN]
    refine .inl ⟨rfl, ?_⟩
    rw [mul_left_inj' h2.ne', eq_comm, Real.sqrt_eq_iff_mul_self_eq (by positivity) (by positivity)]
    exact_mod_cast hN.symm
  · rw [if_neg hN]
    refine .inr ⟨rfl, mul_lt_mul_of_pos_right ?_ h2, mul_lt_mul_of_pos_right ?_ h2⟩
    · refine Real.nat_sqrt_le_real_sqrt.lt_of_ne fun h => hN ?_
      rw [eq_comm, Real.sqrt_eq_iff_mul_self_eq (by positivity) (by positivity)] at h
      exact_mod_cast h.symm
    · rw [Nat.cast_succ]
      exact Real.real_sqrt_lt_nat_sqrt_succ

end Sys2Proof.Machine

/-! SUPPORT. The operations of R47 on encodings, and widening; with this, O26. -/

namespace Sys2Proof.Machine
open Sys2Proof.Claims

/-- What FP32, FP16 and bf16 have beyond the other formats. -/
structure Fmt.Wide (f : Fmt) : Prop where
  regular : f.Regular
  frac_le : f.frac ≤ 23
  isIeee : f.ieee = true
  width_ne : f.width ≠ 4

theorem Fmt.wide {f : Fmt} (hf : f ∈ [fp32, fp16, bf16]) : f.Wide := by
  simp only [List.mem_cons, List.not_mem_nil, or_false] at hf
  rcases hf with rfl | rfl | rfl <;> exact ⟨Fmt.regular (by decide), by decide, by decide, by decide⟩

/-! ### Minimum and maximum -/

/-- The first operand comes first in the order of minimum and maximum, −0 standing before +0. -/
def comesFirst (u v : FVal) : Bool :=
  match u.rel v with
  | .less => true
  | .greater => false
  | _ => u.isNeg || !v.isNeg

section
variable {f : Fmt} {a b : Nat} (max : Bool)

theorem Fmt.minMax_both_nan (ha : f.decode a = .nan) (hb : f.decode b = .nan) : f.minMax max a b = f.nan := by
  rw [Fmt.minMax, ha, hb]

theorem Fmt.minMax_nan_left (ha : f.decode a = .nan) (hb : f.decode b ≠ .nan) : f.minMax max a b = b := by
  rw [Fmt.minMax, ha]
  cases hv : f.decode b with
  | nan => exact absurd hv hb
  | inf | fin => rfl

theorem Fmt.minMax_nan_right (ha : f.decode a ≠ .nan) (hb : f.decode b = .nan) : f.minMax max a b = a := by
  rw [Fmt.minMax, hb]
  cases hu : f.decode a with
  | nan => exact absurd hu ha
  | inf | fin => rfl

theorem Fmt.minMax_of_ne_nan (ha : f.decode a ≠ .nan) (hb : f.decode b ≠ .nan) :
    f.minMax max a b = if comesFirst (f.decode a) (f.decode b) != max then a else b := by
  rw [Fmt.minMax]
  cases hu : f.decode a with
  | nan => exact absurd hu ha
  | inf | fin =>
    cases hv : f.decode b with
    | nan => exact absurd hv hb
    | inf | fin => rfl
end

theorem ne_nan_of_rel_ne {u v : FVal} (h : u.rel v ≠ .unordered) : u ≠ .nan ∧ v ≠ .nan := by
  constructor
  · rintro rfl
    exact h rfl
  · rintro rfl
    cases u <;> exact h rfl

theorem isMinMax_minMax (f : Fmt) (max : Bool) (a b : Nat) : IsMinMax f max a b (f.minMax max a b) := by
  have hordered {r : FRel} (hr : r ≠ .unordered) (h : (f.decode a).rel (f.decode b) = r) :=
    have hne := ne_nan_of_rel_ne (h ▸ hr : (f.decode a).rel (f.decode b) ≠ .unordered)
    Fmt.minMax_of_ne_nan max hne.1 hne.2
  refine ⟨Fmt.minMax_both_nan max, Fmt.minMax_nan_left max, Fmt.minMax_nan_right max, fun h => ?_, fun h => ?_, fun h => ?_⟩
  · rw [hordered (by decide) h, comesFirst, h]
    cases max <;> rfl
  · rw [hordered (by decide) h, comesFirst, h]
    cases max <;> rfl
  · rw [hordered (by decide) h, comesFirst, h]
    refine ⟨ite_eq_or_eq _ _ _, ?_⟩
    cases max <;> cases hu : (f.decode a).isNeg <;> cases hv : (f.decode b).isNeg <;> simp [hu, hv]

/-! ### Quotients and square roots of values -/

theorem mul_zpow_eq_zero {m : Nat} {e : Int} : (m : ℝ) * 2 ^ e = 0 ↔ m = 0 := by
  rw [mul_eq_zero_iff_right (two_zpow_pos e).ne', Nat.cast_eq_zero]

theorem signed_mul_zpow_eq_zero {s : Bool} {m : Nat} {e : Int} : signed s (m * 2 ^ e) = 0 ↔ m = 0 := by
  rw [← abs_eq_zero, abs_signed, abs_eq_zero, mul_zpow_eq_zero]

theorem signed_mul_zpow_pos {s : Bool} {m : Nat} {e : Int} (h : 0 < signed s (m * 2 ^ e)) : s = false ∧ m ≠ 0 := by
  refine ⟨?_, mt signed_mul_zpow_eq_zero.2 h.ne'⟩
  by_contra hs
  rw [Bool.eq_true_of_not_eq_false hs, signed_true] at h
  exact (neg_pos.1 h).not_ge (by positivity)

theorem signed_mul_zpow_neg {s : Bool} {m : Nat} {e : Int} (h : signed s (m * 2 ^ e) < 0) : s = true ∧ m ≠ 0 := by
  refine ⟨?_, mt signed_mul_zpow_eq_zero.2 h.ne⟩
  by_contra hs
  rw [Bool.eq_false_of_not_eq_true hs, signed_false] at h
  exact h.not_ge (by positivity)

section
variable {f : Fmt} (hf : f.Wide) (s t : Bool) (m : Nat) {n : Nat} (e g : Int)
include hf

theorem Fmt.Wide.rounds_div (hn : n ≠ 0) : Rounds f 0 (s != t) (signed s (m * 2 ^ e) / signed t (n * 2 ^ g))
    (f.encode 0 ((FVal.fin s m e).div (.fin t n g))) := by
  have hval : signed s (m * 2 ^ e) / signed t (n * 2 ^ g) = signed (s != t) (m * 2 ^ e / (n * 2 ^ g)) := by
    cases s <;> cases t <;> simp [neg_div, div_neg]
  rw [hval]
  simp only [FVal.div, if_neg hn]
  by_cases hm : m = 0
  · subst hm
    rw [Nat.cast_zero, zero_mul, zero_div, Nat.zero_mul, Nat.zero_div, Nat.zero_mul, if_pos rfl, hf.regular.encode_fin (by decide)]
    have := hf.regular.rounds_exact (mode := 0) (by decide) (s != t) 0 (e - g - (64 + Nat.log2 n : Nat) - 1)
    rwa [Nat.cast_zero, zero_mul] at this
  · exact hf.regular.rounds_sticky hf.frac_le (by decide) _ (le_div_of_log2 hm hn) (sticky_div m hn e g _)

theorem Fmt.Wide.encode_div_zero : f.encode 0 ((FVal.fin s m e).div (.fin t 0 g)) =
    if m = 0 then f.nan else withSign f (s != t) f.ovf := by
  rw [FVal.div, if_pos rfl]
  split
  · exact f.encode_nan 0
  · exact Fmt.encode_inf hf.isIeee hf.width_ne 0 _

theorem Fmt.Wide.rounds_sqrt (hm : m ≠ 0) : Rounds f 0 false (Real.sqrt (m * 2 ^ e)) (f.encode 0 (FVal.fin false m e).sqrt) := by
  simp only [FVal.sqrt, if_neg hm, isqrt_eq_sqrt, Bool.false_eq_true, if_false]
  rw [← even_exponent m e, ← signed_false (Real.sqrt _)]
  have hpos : 0 < if e % 2 = 0 then m else 2 * m := by split <;> omega
  refine hf.regular.rounds_sticky hf.frac_le (by decide) false ?_ (sticky_sqrt _ _)
  rw [Nat.le_sqrt]
  calc 2 ^ 63 * 2 ^ 63 ≤ 1 * 2 ^ 128 := by norm_num
    _ ≤ _ := Nat.mul_le_mul_right _ hpos

omit hf in
theorem Fmt.encode_sqrt_neg (f : Fmt) (hm : m ≠ 0) : f.encode 0 (FVal.fin true m e).sqrt = f.nan := by
  rw [FVal.sqrt, if_neg hm, if_pos rfl]
  exact f.encode_nan 0

theorem Fmt.Wide.encode_sqrt_zero : f.encode 0 (FVal.fin s 0 e).sqrt = f.signBit s := by
  rw [FVal.sqrt, if_pos rfl, hf.regular.encode_fin (by decide), f.round_zero]
end

/-- The encoding of a zero is its sign. -/
theorem Fmt.Regular.eq_signBit_of_zero {f : Fmt} (hf : f.Regular) {a : Nat} (ha : a < 2 ^ f.width) {s : Bool} {e : Int}
    (h : f.decode a = .fin s 0 e) : a = f.signBit s := by
  obtain ⟨-, rfl, hv, -⟩ := hf.decode_eq_fin h
  have hzero : a % 2 ^ (f.width - 1) = 0 := f.mag_strictMono.injective (by rw [← hv, f.mag_zero, Nat.cast_zero, zero_mul])
  conv_lhs => rw [hf.eq_signBit_add ha, hzero, Nat.add_zero]

/-! ### Sums and products of encodings -/

section
variable {f : Fmt} (hf : f.Regular) {u v : FVal} {x y : ℝ}

/-- A value as a rational, which the exact operations work on, and as a real. -/
def HasValue (u : FVal) (x : ℝ) : Prop := ∃ q, valueOf u = some q ∧ (q : ℝ) = x

theorem HasValue.neg (hu : HasValue u x) : HasValue u.neg (-x) := by
  obtain ⟨p, hp, rfl⟩ := hu
  exact ⟨_, valueOf_neg hp, Rat.cast_neg p⟩
theorem HasValue.add (hu : HasValue u x) (hv : HasValue v y) : HasValue (u.add v) (x + y) := by
  obtain ⟨p, hp, rfl⟩ := hu
  obtain ⟨q, hq, rfl⟩ := hv
  exact ⟨_, valueOf_add hp hq, Rat.cast_add p q⟩
theorem HasValue.mul (hu : HasValue u x) (hv : HasValue v y) : HasValue (u.mul v) (x * y) := by
  obtain ⟨p, hp, rfl⟩ := hu
  obtain ⟨q, hq, rfl⟩ := hv
  exact ⟨_, valueOf_mul hp hq, Rat.cast_mul p q⟩
theorem HasValue.isNeg_iff (hu : HasValue u x) (h : x ≠ 0) : u.isNeg = true ↔ x < 0 := by
  obtain ⟨p, hp, rfl⟩ := hu
  rw [isNeg_iff_of_ne_zero hp (by exact_mod_cast h)]
  exact_mod_cast Iff.rfl
theorem HasValue.isNeg_add (hu : HasValue u x) (hv : HasValue v y) (h : x + y = 0) : (u.add v).isNeg = (u.isNeg && v.isNeg) := by
  obtain ⟨p, hp, rfl⟩ := hu
  obtain ⟨q, hq, rfl⟩ := hv
  exact isNeg_add_of_eq_zero hp hq (by exact_mod_cast h)
theorem HasValue.isNeg_neg (hu : HasValue u x) : u.neg.isNeg = !u.isNeg := by
  obtain ⟨p, hp, -⟩ := hu
  obtain ⟨s, m, e, rfl, -⟩ := valueOf_eq_some hp
  rfl
theorem HasValue.isNeg_mul (hu : HasValue u x) (hv : HasValue v y) : (u.mul v).isNeg = (u.isNeg != v.isNeg) := by
  obtain ⟨p, hp, -⟩ := hu
  obtain ⟨q, hq, -⟩ := hv
  obtain ⟨s, m, e, rfl, -⟩ := valueOf_eq_some hp
  obtain ⟨t, n, g, rfl, -⟩ := valueOf_eq_some hq
  rfl

include hf in
theorem HasValue.rounds (hu : HasValue u x) : Rounds f 0 u.isNeg x (f.encode 0 u) := by
  obtain ⟨p, hp, rfl⟩ := hu
  exact hf.rounds_encode (by decide) hp
end

/-! ### Widening -/

/-- What makes every value of a format one of FP32. -/
structure Fmt.FitsFp32 (f : Fmt) : Prop where
  regular : f.Regular
  frac_le : f.frac ≤ 23
  least_le : fp32.least ≤ f.least
  top_le : f.units f.maxMag * 2 ^ (f.least - fp32.least).toNat ≤ fp32.units fp32.maxMag

theorem Fmt.fitsFp32 {f : Fmt} (hf : f ∈ [bf16, fp16, e4m3, e5m2, e2m1]) : f.FitsFp32 := by
  simp only [List.mem_cons, List.not_mem_nil, or_false] at hf
  rcases hf with rfl | rfl | rfl | rfl | rfl <;> exact ⟨Fmt.regular (by decide), by decide, by decide, by decide⟩

theorem fp32_regular : fp32.Regular := Fmt.regular (by decide)

theorem Fmt.mag_eq_units_mul (f : Fmt) {p : Int} (h : p ≤ f.least) (k : Nat) :
    f.mag k = (f.units k * 2 ^ (f.least - p).toNat : Nat) * 2 ^ p := natCast_mul_zpow_of_le _ h

section
variable {f : Fmt} (hf : f.FitsFp32)
include hf

/-- A value of the format is one of FP32. -/
theorem Fmt.FitsFp32.exists_mag {k : Nat} (hk : k ≤ f.maxMag) : ∃ j ≤ fp32.maxMag, fp32.mag j = f.mag k := by
  obtain ⟨Q, n, rfl, hn, hQ⟩ := f.exists_binade k
  have hleast := hf.least_le
  obtain ⟨j, hj⟩ := fp32.exists_mag_eq (n := n) (p := f.least + Q)
    (hn.le.trans (Nat.pow_le_pow_right two_pos (Nat.succ_le_succ hf.frac_le))) (by omega)
  rw [← f.mag_of_binade hn.le hQ] at hj
  refine ⟨j, fp32.mag_strictMono.le_iff_le.1 ?_, hj⟩
  calc fp32.mag j ≤ f.mag f.maxMag := hj.trans_le (f.mag_strictMono.monotone hk)
    _ ≤ fp32.mag fp32.maxMag := by
      rw [f.mag_eq_units_mul hleast]
      exact mul_le_mul_of_nonneg_right (Nat.cast_le.2 hf.top_le) (two_zpow_pos _).le

/-- A finite value keeps its sign and its value. -/
theorem Fmt.FitsFp32.encode_finite {x : Nat} {s : Bool} {m : Nat} {e : Int} (h : f.decode x = .fin s m e) :
    ∃ j ≤ fp32.maxMag, fp32.mag j = m * 2 ^ e ∧ fp32.encode 0 (f.decode x) = fp32.signBit s + j := by
  obtain ⟨hx, -, hv, -⟩ := hf.regular.decode_eq_fin h
  obtain ⟨j, hj, hmag⟩ := hf.exists_mag hx
  rw [← hv] at hmag
  refine ⟨j, hj, hmag, ?_⟩
  rw [h, fp32_regular.encode_fin (by decide), fp32_regular.round_of_mag (by decide) s hmag hj]
end

end Sys2Proof.Machine

namespace Sys2Proof.Proofs
open Sys2Proof.Machine Sys2Proof.Claims

theorem exactValues : ExactValues := fun _ _ _ _ hu hv =>
  ⟨valueOf_add hu hv, valueOf_mul hu hv, valueOf_neg hu, rel_of_valueOf hu hv, fun h hne => by
    rw [isNeg_add_of_eq_zero hu hv h]
    revert hne
    cases FVal.isNeg _ <;> cases FVal.isNeg _ <;> simp⟩

theorem specialValues : SpecialValues := fun u s t m e =>
  ⟨by cases u <;> rfl, rfl, by cases u <;> rfl, rfl, by cases u <;> rfl, rfl, rfl, by cases u <;> rfl, rfl,
    rfl, rfl, rfl, rfl, rfl, by rw [bne_comm]; rfl, rfl, rfl, ⟨0, rfl⟩, rfl, rfl, rfl, rfl⟩

theorem roundedOperations : RoundedOperations := by
  intro f hmem a ha b hb
  have hf := Fmt.wide hmem
  refine ⟨isMinMax_minMax f false a b, isMinMax_minMax f true a b, fun x y hx hy => ?_⟩
  have hu : HasValue (f.decode a) x := hx
  have hv : HasValue (f.decode b) y := hy
  have hadd := hu.add hv
  have hsub := hu.add hv.neg
  have hmul := hu.mul hv
  rw [← sub_eq_add_neg] at hsub
  refine ⟨⟨_, hadd.rounds hf.regular, hadd.isNeg_iff, hu.isNeg_add hv⟩, ⟨_, hsub.rounds hf.regular, hsub.isNeg_iff, fun h => ?_⟩,
    hu.isNeg_mul hv ▸ hmul.rounds hf.regular, ?_⟩
  · rw [hu.isNeg_add hv.neg (by linarith), hv.isNeg_neg]
  obtain ⟨s, m, e, hda, rfl⟩ := isValue_iff_decode.1 hx
  obtain ⟨t, n, g, hdb, rfl⟩ := isValue_iff_decode.1 hy
  refine ⟨?_, ?_, ?_, ?_, ?_, ?_, ?_⟩
  · intro hne
    rw [hda, hdb]
    exact hf.rounds_div s t m e g (mt signed_mul_zpow_eq_zero.2 hne)
  · intro hy0 hx0
    obtain rfl := signed_mul_zpow_eq_zero.1 hy0
    rw [hda, hdb, hf.encode_div_zero, if_neg (mt signed_mul_zpow_eq_zero.2 hx0)]
    rfl
  · intro hy0 hx0
    obtain rfl := signed_mul_zpow_eq_zero.1 hy0
    rw [hda, hdb, hf.encode_div_zero, if_pos (signed_mul_zpow_eq_zero.1 hx0)]
  · intro hpos
    obtain ⟨rfl, hm⟩ := signed_mul_zpow_pos hpos
    rw [hda]
    exact hf.rounds_sqrt m e hm
  · intro hneg
    obtain ⟨rfl, hm⟩ := signed_mul_zpow_neg hneg
    rw [hda, f.encode_sqrt_neg m e hm]
  · intro hx0
    obtain rfl := signed_mul_zpow_eq_zero.1 hx0
    rw [hda, hf.encode_sqrt_zero]
    exact (hf.regular.eq_signBit_of_zero ha hda).symm
  · intro c z hc hz
    have hw : HasValue (f.decode c) z := hz
    have hfma := hw.add hmul
    exact ⟨_, hfma.rounds hf.regular, hfma.isNeg_iff⟩

theorem wideningExact : WideningExact := by
  intro f hmem x _ y
  have hf := Fmt.fitsFp32 hmem
  cases hd : f.decode x with
  | nan =>
    have hy : y = 0x7FC00000 := by simp only [y, hd]; rfl
    rw [hy]
    refine ⟨by decide, ?_, fun _ => rfl, by simp, by simp⟩
    rw [finiteOf, finiteOf, hd]
    rfl
  | inf s =>
    have hy : y = withSign fp32 s fp32.ovf := by simp only [y, hd, Fmt.encode_inf (f := fp32) rfl (by decide)]
    rw [hy]
    refine ⟨by cases s <;> decide, ?_, by simp, ?_, by simp⟩
    · rw [finiteOf, finiteOf, hd]
      cases s <;> rfl
    · rintro t ⟨⟩
      cases s <;> rfl
  | fin s m e =>
    obtain ⟨j, hj, hmag, hy⟩ := hf.encode_finite hd
    have hy : y = fp32.signBit s + j := hy
    rw [hy]
    obtain ⟨p, hp, hpv⟩ := fp32_regular.isValue_signBit_add s hj
    obtain ⟨q, hq, hqv⟩ := isValue_of_decode hd
    have hpq : p = q := by exact_mod_cast (hmag ▸ hpv).trans hqv.symm
    refine ⟨fp32_regular.signBit_add_lt s (hj.trans_lt (by decide)), by rw [hp, hq, hpq], by simp, by simp, ?_⟩
    rintro t g ⟨⟩
    obtain rfl : j = 0 := fp32.mag_strictMono.injective (by rw [hmag, fp32.mag_zero, Nat.cast_zero, zero_mul])
    rfl

/-- Settles O26: the exact operations are those of the rationals, a last bit stands for what a quotient or a root cuts off,
and every value of a narrower format is one of FP32. -/
theorem exactArithmetic : Obligations.ExactArithmetic := ⟨exactValues, specialValues, roundedOperations, wideningExact⟩

end Sys2Proof.Proofs

/-! SUPPORT. The lanes that a VFPU body leaves, and conversions; with what follows, O29. -/

namespace Sys2Proof.Machine
open Sys2Proof.Claims

/-! ### Encodings fit the width -/

section
variable {f : Fmt} (hf : f.Regular) (mode : Nat)
include hf

theorem Fmt.Regular.clip_lt (neg : Bool) (k : Nat) : f.clip mode neg k < 2 ^ f.width := by
  rw [Fmt.clip]
  split_ifs with hk
  · exact hf.signBit_add_lt neg (hk.trans_lt hf.maxMag_lt)
  · exact hf.signBit_add_lt neg hf.maxMag_lt
  · exact hf.nan_lt
  · exact hf.signBit_add_lt neg hf.ovf_lt

theorem Fmt.Regular.round_lt (neg : Bool) (m : Nat) (e : Int) : f.round mode neg m e < 2 ^ f.width := by
  by_cases hm : m = 0
  · subst hm
    exact f.round_zero mode neg e ▸ hf.signBit_add_lt neg (Nat.two_pow_pos _)
  · exact f.round_eq_clip mode neg hm e ▸ hf.clip_lt mode neg _

theorem Fmt.Regular.encode_lt (v : FVal) : f.encode mode v < 2 ^ f.width := by
  rw [Fmt.encode]
  split
  · exact hf.nan_lt
  · split
    · exact hf.signBit_add_lt _ hf.ovf_lt
    · exact hf.nan_lt
  · exact hf.round_lt mode _ _ _
end

/-! ### Lanes -/

theorem floatLane_eq_laneFloat (et : BitVec 2) (x : Word) : floatLane et x = laneFloat et x := rfl

theorem laneFloat_lt (et : BitVec 2) (x : Word) : laneFloat et x < 2 ^ 32 := by
  unfold laneFloat
  split
  · exact fp32_regular.encode_lt 0 _
  · exact fp32_regular.encode_lt 0 _
  · exact x.isLt

theorem toNat_floatLanes (et : BitVec 2) (x : Vector Word 8) {i : Nat} (hi : i < 8) :
    (floatLanes et x)[i].toNat = laneFloat et x[i] := by
  rw [floatLanes, mapLanes, getElem_vec8, floatLane_eq_laneFloat, BitVec.toNat_ofNat, Nat.mod_eq_of_lt (laneFloat_lt et _)]
  rfl

/-- Each member with one operand is the table's function of the lanes. -/
theorem exec_vfpu_table {m : (SOp → Instr) × (Nat → Nat → Nat)} (h : m ∈ vfpuTable) (o : SOp) (s : State) :
    exec (m.1 o) s = word (m.1 o) useV s (vfpuBody m.2 o) := by
  simp only [vfpuTable, List.mem_cons, List.not_mem_nil, or_false] at h
  rcases h with rfl | rfl | rfl | rfl | rfl | rfl <;> rfl

section
variable {o : SOp} {s : State} {x : Vector Word 8} (hw : CounterZero o.w s)
include hw

theorem vfpuBody_ok (g : Nat → Nat → Nat) (hx : vecSrc o (o.ea s.bank) false s = .ok x) :
    vfpuBody g o s = .ok (srcDone o false (putLanes s fun i =>
      BitVec.ofNat 32 (g s.bank.v[i].toNat (laneFloat o.sz x[i])))) := by
  have : (fun i : Fin 8 => (zipFloat g s.bank.v (floatLanes o.sz x))[i]) =
      fun i => BitVec.ofNat 32 (g s.bank.v[i].toNat (laneFloat o.sz x[i])) := by
    funext i
    simp only [zipFloat, zipLanes, Fin.getElem_fin, getElem_vec8 _ i.isLt, toNat_floatLanes]
  simp only [vfpuBody, holdW_of_counterZero hw, hx, bind_ok, setV_maskLanes, this]

theorem vfmaBody_ok {ys : List Byte} (hx : vecSrc o (o.eaSplit s.bank) false s = .ok x)
    (hy : vecMem o.sz (o.ea2 s.bank) false s = .ok ys) :
    vfmaBody o s = .ok (srcDone o true (putLanes s fun i =>
      BitVec.ofNat 32 (fp32.fma s.bank.v[i].toNat (laneFloat o.sz x[i]) (laneFloat o.sz (laneBits o.sz ys i))))) := by
  simp only [vfmaBody, holdW_of_counterZero hw, hx, hy, bind_ok, setV_maskLanes]
  congr 3
  funext i
  simp only [Fin.getElem_fin, getElem_vec8 _ i.isLt, toNat_floatLanes, elemBits_eq_laneBits]

theorem inPlaceV_ok (g : Word → Nat) : inPlaceV o g s = .ok (putLanes s fun i => BitVec.ofNat 32 (g s.bank.v[i])) := by
  have : (fun i : Fin 8 => (mapLanes (fun w => BitVec.ofNat 32 (g w)) s.bank.v)[i]) = fun i => BitVec.ofNat 32 (g s.bank.v[i]) := by
    funext i
    simp only [mapLanes, Fin.getElem_fin, getElem_vec8 _ i.isLt]
  simp only [inPlaceV, holdW_of_counterZero hw, bind_ok, setV_maskLanes, this]
end

/-! ### Conversions -/

/-- The types of Table 5.12. -/
theorem ctypeOf_mem (c : BitVec 4) :
    ctypeOf c ∈ formats.map CType.float ++ ([8, 16, 32, 64].map CType.int ++ [8, 16, 32, 64].map CType.word) := by
  revert c
  decide

theorem width_le {w : Nat} (h : w ∈ [8, 16, 32, 64]) : w ≤ 64 := by
  simp only [List.mem_cons, List.not_mem_nil, or_false] at h
  omega

theorem formats_infinity {f : Fmt} (hf : f ∈ formats) :
    (f = e2m1 ↔ f.width = 4) ∧ (f.ieee = true ↔ f ≠ e2m1 ∧ f ≠ e4m3) ∧ f.width ≤ 32 := by
  simp only [formats, List.mem_cons, List.not_mem_nil, or_false] at hf
  rcases hf with rfl | rfl | rfl | rfl | rfl | rfl <;> decide

/-- A saturating conversion and every one into E2M1 gives an infinity's sign to the largest finite value. -/
theorem encode_inf_saturated {f : Fmt} (hf : f ∈ formats) {mode : Nat} (hmode : mode < 4) (neg : Bool) :
    f.encode mode (f.sat (.inf neg)) = withSign f neg f.maxMag := by
  have hr := Fmt.regular hf
  obtain ⟨mm, me, hv, hinf, -⟩ := hr.exists_sat_eq
  rw [hinf, hr.encode_fin hmode, hr.round_of_mag hmode neg hv.symm le_rfl, f.signBit_add_eq_withSign]

/-- A conversion that does not saturate keeps an infinity where the format has one (R48). -/
theorem encode_inf_plain {f : Fmt} (hf : f ∈ formats) {mode : Nat} (hmode : mode < 4) (neg : Bool) :
    f.encode mode (.inf neg) =
      if f = e2m1 then withSign f neg f.maxMag else if f = e4m3 then f.nan else withSign f neg f.ovf := by
  obtain ⟨he2m1, hieee, -⟩ := formats_infinity hf
  by_cases h4 : f.width = 4
  · have hsat := encode_inf_saturated hf hmode neg
    have hr := Fmt.regular hf
    obtain ⟨mm, me, -, hinf, -⟩ := hr.exists_sat_eq
    rw [if_pos (he2m1.2 h4), ← hsat, hinf, hr.encode_fin hmode, Fmt.encode, if_pos h4, hinf]
  · rw [if_neg (mt he2m1.1 h4)]
    split
    next he =>
      rw [Fmt.encode, if_neg h4]
      exact if_neg fun hi => (hieee.1 hi).2 he
    next he => exact Fmt.encode_inf (hieee.2 ⟨mt he2m1.1 h4, he⟩) h4 mode neg

section
variable {f : Fmt} (hf : f ∈ formats) {mode : Nat} (hmode : mode < 4) (sat : Bool)
include hf hmode

theorem encode_converts_inf (neg : Bool) : f.encode mode (if sat then f.sat (.inf neg) else .inf neg) =
    if sat = true ∨ f = e2m1 then withSign f neg f.maxMag else if f = e4m3 then f.nan else withSign f neg f.ovf := by
  cases sat
  · simpa using encode_inf_plain hf hmode neg
  · simpa using encode_inf_saturated hf hmode neg

theorem encode_converts_fin {neg : Bool} {m : Nat} {e : Int} {y top : ℝ} (hy : exactly neg m e y) (htop : IsValue f f.maxMag top) :
    (sat = true → top < |y| → f.encode mode (if sat then f.sat (.fin neg m e) else .fin neg m e) = withSign f neg f.maxMag) ∧
    (sat = false ∨ |y| ≤ top → Rounds f mode neg y (f.encode mode (if sat then f.sat (.fin neg m e) else .fin neg m e))) := by
  have hr := Fmt.regular hf
  obtain rfl := isValue_unique htop hr.isValue_maxMag
  obtain ⟨mm, me, hv, -, hsat⟩ := hr.exists_sat_eq
  obtain rfl : y = signed neg (m * 2 ^ e) := by rw [hy, mul_assoc, ite_mul_eq_signed]
  have habs : |signed neg ((m : ℝ) * 2 ^ e)| = m * 2 ^ e := by rw [abs_signed, abs_of_nonneg (by positivity)]
  rw [habs]
  constructor
  · rintro rfl hlt
    rw [if_pos rfl, hsat, if_pos hlt, hr.encode_fin hmode, hr.round_of_mag hmode neg hv.symm le_rfl, f.signBit_add_eq_withSign]
  · intro h
    have hsame : (if sat then f.sat (.fin neg m e) else .fin neg m e) = FVal.fin neg m e := by
      split
      next ht => rw [hsat, if_neg (not_lt.2 (h.resolve_left (by simp [ht])))]
      next => rfl
    rw [hsame, hr.encode_fin hmode]
    exact hr.rounds_exact hmode neg m e
end

theorem clampInt_eq {lo hi : Int} (h : lo ≤ hi) (x : Int) : clampInt lo hi x = max lo (min hi x) := by
  rw [clampInt]
  split_ifs <;> omega

theorem mul_sign_eq (s : Bool) (n : Int) : (if s then -n else n) = (if s then -1 else 1) * n := by cases s <;> simp

theorem two_pow_le_of_width {w n : Nat} (h : w ≤ n) : (2 : Int) ^ w ≤ 2 ^ n := pow_le_pow_right₀ (by decide) h

theorem toInt_ofInt_clamped {w : Nat} (h : w ≤ 64) {x : Int} (hlo : -(2 ^ (w - 1)) ≤ x) (hhi : x ≤ 2 ^ (w - 1) - 1) :
    (BitVec.ofInt 64 x).toInt = x := by
  have hw : (2 : Int) ^ (w - 1) ≤ 2 ^ 63 := two_pow_le_of_width (by omega)
  rw [BitVec.toInt_ofInt]
  exact Int.bmod_eq_of_le (by norm_num; linarith) (by norm_num; linarith)

theorem toNat_ofInt_clamped {w : Nat} (h : w ≤ 64) {x : Int} (hlo : 0 ≤ x) (hhi : x ≤ 2 ^ w - 1) :
    ((BitVec.ofInt 64 x).toNat : Int) = x := by
  have hw : (2 : Int) ^ w ≤ 2 ^ 64 := two_pow_le_of_width h
  rw [BitVec.toNat_ofInt]
  omega

/-- The least and the greatest value of an integer type. -/
def intMin (signed : Bool) (w : Nat) : Int := if signed then -(2 ^ (w - 1)) else 0
def intMax (signed : Bool) (w : Nat) : Int := if signed then 2 ^ (w - 1) - 1 else 2 ^ w - 1

theorem intMin_nonpos (signed : Bool) (w : Nat) : intMin signed w ≤ 0 := by
  cases signed <;> simp [intMin]
theorem intMax_nonneg (signed : Bool) (w : Nat) : 0 ≤ intMax signed w := by
  cases signed <;> simp [intMax, Int.sub_nonneg, one_le_pow₀]

theorem toIntType_fin (signed : Bool) (w mode : Nat) (neg : Bool) (m : Nat) (e : Int) :
    toIntType signed w mode (.fin neg m e) =
      max (intMin signed w) (min (intMax signed w) ((if neg then -1 else 1) * (roundAt mode neg m e 0 : Int))) := by
  rw [← mul_sign_eq]
  exact clampInt_eq ((intMin_nonpos signed w).trans (intMax_nonneg signed w)) _

theorem toIntType_bounds (signed : Bool) (w mode : Nat) (v : FVal) :
    intMin signed w ≤ toIntType signed w mode v ∧ toIntType signed w mode v ≤ intMax signed w := by
  have hle := intMin_nonpos signed w
  have hge := intMax_nonneg signed w
  cases v with
  | nan => exact ⟨hle, hge⟩
  | inf s =>
    cases s
    · exact ⟨hle.trans hge, le_rfl⟩
    · exact ⟨le_rfl, hle.trans hge⟩
  | fin s m e =>
    rw [toIntType_fin]
    exact ⟨le_max_left _ _, max_le (hle.trans hge) (min_le_left _ _)⟩

/-- The conversion that the model computes is the one that the selector names. -/
theorem converts_convert (d : BitVec 12) (x : Nat) : Converts d x (convert d x) := by
  have hmode : (d.extractLsb' 10 2).toNat < 4 := (d.extractLsb' 10 2).isLt
  have hmem := ctypeOf_mem (d.extractLsb' 5 4)
  simp only [List.mem_append, List.mem_map] at hmem
  simp only [Converts, convert]
  generalize (d.extractLsb' 10 2).toNat = mode at hmode
  generalize (ctypeOf (d.extractLsb' 1 4)).value x = v
  generalize d.getLsbD 9 = sat
  rcases hmem with ⟨f, hf, hc⟩ | ⟨w, hw, hc⟩ | ⟨w, hw, hc⟩
  · have hlt (v : FVal) : f.encode mode v < 2 ^ 64 :=
      ((Fmt.regular hf).encode_lt mode v).trans_le (Nat.pow_le_pow_right two_pos ((formats_infinity hf).2.2.trans (by decide)))
    simp only [← hc, BitVec.toNat_ofNat, Nat.mod_eq_of_lt (hlt _), true_and]
    refine ⟨?_, ?_, ?_⟩
    · rintro rfl
      cases sat <;> exact f.encode_nan mode
    · rintro neg rfl
      exact encode_converts_inf hf hmode sat neg
    · rintro neg m e y rfl hy top htop
      exact encode_converts_fin hf hmode sat hy htop
  · obtain ⟨hlo, hhi⟩ := toIntType_bounds true w mode v
    simp only [← hc, toInt_ofInt_clamped (width_le hw) hlo hhi]
    cases v with
    | nan | inf => rfl
    | fin => exact toIntType_fin true w mode _ _ _
  · obtain ⟨hlo, hhi⟩ := toIntType_bounds false w mode v
    simp only [← hc, toNat_ofInt_clamped (width_le hw) hlo hhi]
    cases v with
    | nan | inf => rfl
    | fin => exact toIntType_fin false w mode _ _ _

end Sys2Proof.Machine

namespace Sys2Proof.Proofs
open Sys2Proof.Machine Sys2Proof.Claims

theorem vectorFloatOperand : VectorFloatOperand := by
  refine ⟨fun o s x hu hw hx m hm hwf => ?_, fun o s x ys hwf hu hw hx hy => ?_⟩
  · exact (exec_vfpu_table hm o s).trans (word_ok hwf hu (vfpuBody_ok hw m.2 (vecSrc_of_vectorSource hx)))
  · exact word_ok hwf hu (vfmaBody_ok hw (vecSrc_of_vectorSource hx) (vecMem_of_vectorRead hy))

end Sys2Proof.Proofs

/-! SUPPORT. The candidates of a special function lie within its bound, and there is one; with what follows, O29. -/

namespace Sys2Proof.Machine
open Sys2Proof.Claims

/-! ### FP32 words -/

theorem fp32_mag_maxMag : fp32.mag fp32.maxMag = (2 ^ 24 - 1 : Nat) * 2 ^ (104 : Int) := by
  rw [show fp32.maxMag = 253 * 2 ^ fp32.frac + (2 ^ 24 - 1) by decide, fp32.mag_of_binade (by decide) (by decide)]
  rfl

/-- What is below 2^128 with 24 bits is no more than the largest finite value. -/
theorem fp32_le_top {n : Nat} {p : Int} (hn : n ≤ 2 ^ 24) (h : (n : ℝ) * 2 ^ p < 2 ^ (128 : Int)) :
    (n : ℝ) * 2 ^ p ≤ fp32.mag fp32.maxMag := by
  rw [fp32_mag_maxMag]
  rcases le_or_gt p 104 with hp | hp
  · rcases hn.lt_or_eq with hlt | rfl
    · exact mul_le_mul (Nat.cast_le.2 (Nat.le_sub_one_of_lt hlt)) (zpow_le_zpow_right₀ one_le_two hp) (two_zpow_pos p).le (Nat.cast_nonneg _)
    · have h24 : ((2 ^ 24 : Nat) : ℝ) * 2 ^ p = 2 ^ (24 + p) := by
        rw [zpow_add₀ two_ne_zero]
        norm_num
      rw [h24] at h ⊢
      have hp' := (zpow_lt_zpow_iff_right₀ one_lt_two).1 h
      calc (2 : ℝ) ^ (24 + p) ≤ 2 ^ (127 : Int) := zpow_le_zpow_right₀ one_le_two (by omega)
        _ ≤ _ := by norm_num
  · rw [natCast_mul_zpow_of_le n hp.le, show (2 : ℝ) ^ (128 : Int) = (2 ^ 24 : Nat) * 2 ^ (104 : Int) by norm_num,
      mul_lt_mul_iff_left₀ (two_zpow_pos _), Nat.cast_lt] at h
    rw [natCast_mul_zpow_of_le n hp.le]
    exact mul_le_mul_of_nonneg_right (Nat.cast_le.2 (Nat.le_sub_one_of_lt h)) (two_zpow_pos _).le

/-- An integer of 24 bits, in units not below the subnormals', is one of FP32's values below 2^128. -/
theorem fp32_exists_mag {n : Nat} {p : Int} (hn : n ≤ 2 ^ 24) (hp : -149 ≤ p) (h : (n : ℝ) * 2 ^ p < 2 ^ (128 : Int)) :
    ∃ k ≤ fp32.maxMag, fp32.mag k = n * (2 : ℝ) ^ p := by
  obtain ⟨k, hk⟩ := fp32.exists_mag_eq hn hp
  exact ⟨k, fp32.mag_strictMono.le_iff_le.1 (hk.trans_le (fp32_le_top hn h)), hk⟩

/-- Such an integer rounds to itself. -/
theorem isValue_fp32_round {mode : Nat} (hmode : mode < 4) (neg : Bool) {n : Nat} {p : Int} (hn : n ≤ 2 ^ 24) (hp : -149 ≤ p)
    (h : (n : ℝ) * 2 ^ p < 2 ^ (128 : Int)) : IsValue fp32 (fp32.round mode neg n p) (signed neg (n * 2 ^ p)) := by
  obtain ⟨k, hk, hmag⟩ := fp32_exists_mag hn hp h
  rw [fp32_regular.round_of_mag hmode neg hmag hk, ← hmag]
  exact fp32_regular.isValue_signBit_add neg hk

/-- Half a unit in the last place, for values from lo · 2^sc on: the spacing of the candidates. -/
def halfUlp (lo : Nat) (sc : Int) : Int := max ((Nat.log2 lo : Int) + sc) (-126) - 24

/-! ### Candidates -/

theorem scaled_eq_iff {m n : Nat} {e g : Int} :
    scaled false m e (min e g) = scaled false n g (min e g) ↔ (m : ℝ) * 2 ^ e = n * 2 ^ g := by
  have h2 := (two_zpow_pos (min e g)).ne'
  rw [natCast_mul_zpow_of_le m (min_le_left e g), natCast_mul_zpow_of_le n (min_le_right e g), mul_left_inj' h2, Nat.cast_inj]
  simp only [scaled, Bool.false_eq_true, if_false, one_mul, Nat.cast_inj]

/-- What a candidate satisfies: an FP32 magnitude at `n` half ulps, within `c` ulp of both ends. -/
structure Candidate (c lo err : Nat) (sc : Int) (n r : Nat) : Prop where
  le_maxMag : r ≤ fp32.maxMag
  mag_eq : fp32.mag r = n * 2 ^ halfUlp lo sc
  le_low : (n : ℝ) * 2 ^ halfUlp lo sc ≤ lo * 2 ^ sc + (2 * c : Nat) * 2 ^ halfUlp lo sc
  high_le : ((lo + err : Nat) : ℝ) * 2 ^ sc ≤ n * 2 ^ halfUlp lo sc + (2 * c : Nat) * 2 ^ halfUlp lo sc

/-- The test that `within` makes of one multiple of half an ulp. -/
def withinAt (c lo err : Nat) (sc : Int) (n : Nat) : Option Nat :=
  let g := halfUlp lo sc
  let r := fp32.round 1 false n g
  let base := min sc g
  let nn := n * 2 ^ (g - base).toNat
  let cu := 2 * c * 2 ^ (g - base).toNat
  let l := lo * 2 ^ (sc - base).toNat
  let h := (lo + err) * 2 ^ (sc - base).toNat
  match fp32.decode r with
  | .fin _ m e => if scaled false m e (min e g) = scaled false n g (min e g) ∧ nn ≤ l + cu ∧ h ≤ nn + cu then some r else none
  | _ => none

/-- The multiple of half an ulp at which `within` begins. -/
def withinStart (lo : Nat) (sc : Int) : Nat :=
  if sc ≤ halfUlp lo sc then lo / 2 ^ (halfUlp lo sc - sc).toNat else lo * 2 ^ (sc - halfUlp lo sc).toNat

theorem within_eq (c lo err : Nat) (sc : Int) : within c lo err sc = (List.range (4 * c + 2)).filterMap fun j =>
    if withinStart lo sc + j < 2 * c then none else withinAt c lo err sc (withinStart lo sc + j - 2 * c) := rfl

theorem fp32_round_towardZero_le (n : Nat) (g : Int) : fp32.round 1 false n g ≤ fp32.maxMag := by
  by_cases hn : n = 0
  · subst hn
    exact Nat.zero_le _
  · rw [fp32.round_eq_clip 1 false hn, fp32.clip_towardZero (.inl rfl), Fmt.signBit]
    simp

/-- A comparison of integers in units of 2^base, which divide those of each. -/
theorem units_le_iff {a b d : Nat} {i j k base : Int} (hi : base ≤ i) (hj : base ≤ j) (hk : base ≤ k) :
    a * 2 ^ (i - base).toNat ≤ b * 2 ^ (j - base).toNat + d * 2 ^ (k - base).toNat ↔
    (a : ℝ) * 2 ^ i ≤ b * 2 ^ j + d * 2 ^ k := by
  rw [natCast_mul_zpow_of_le a hi, natCast_mul_zpow_of_le b hj, natCast_mul_zpow_of_le d hk, ← add_mul, ← Nat.cast_add,
    mul_le_mul_iff_left₀ (two_zpow_pos base), Nat.cast_le]

theorem withinAt_eq_some {c lo err n r : Nat} {sc : Int} : withinAt c lo err sc n = some r ↔ Candidate c lo err sc n r := by
  have hround := fp32_round_towardZero_le n (halfUlp lo sc)
  have hg := min_le_right sc (halfUlp lo sc)
  have hs := min_le_left sc (halfUlp lo sc)
  obtain ⟨m, e, hd, hv⟩ := fp32_regular.decode_mag hround
  simp only [withinAt, hd, scaled_eq_iff, hv, units_le_iff hg hs hg, units_le_iff hs hg hg]
  constructor
  · intro h
    split at h
    next hc =>
      obtain rfl := Option.some.inj h
      exact ⟨hround, hc.1, hc.2.1, hc.2.2⟩
    next => cases h
  · intro h
    have hr : fp32.round 1 false n (halfUlp lo sc) = r := by
      rw [fp32_regular.round_of_mag (by decide) false h.mag_eq h.le_maxMag]
      exact Nat.zero_add r
    rw [hr, if_pos ⟨h.mag_eq, h.le_low, h.high_le⟩]

theorem candidate_of_mem {c lo err r : Nat} {sc : Int} (h : r ∈ within c lo err sc) : ∃ n, Candidate c lo err sc n r := by
  rw [within_eq, List.mem_filterMap] at h
  obtain ⟨j, -, h⟩ := h
  split at h
  · cases h
  · exact ⟨_, withinAt_eq_some.1 h⟩

theorem mem_within {c lo err n r : Nat} {sc : Int} (hlo : withinStart lo sc ≤ n + 2 * c) (hhi : n ≤ withinStart lo sc + 2 * c + 1)
    (h : Candidate c lo err sc n r) : r ∈ within c lo err sc := by
  rw [within_eq, List.mem_filterMap]
  refine ⟨n + 2 * c - withinStart lo sc, List.mem_range.2 (by omega), ?_⟩
  rw [if_neg (by omega), show withinStart lo sc + (n + 2 * c - withinStart lo sc) - 2 * c = n by omega]
  exact withinAt_eq_some.2 h

/-- A candidate lies within the bound of every value from the low end to the high one, with either sign. -/
theorem Candidate.withinUlps {c lo err n r : Nat} {sc : Int} (h : Candidate c lo err sc n r) (hlo : lo ≠ 0) {y : ℝ}
    (hy : (lo : ℝ) * 2 ^ sc ≤ y) (hy' : y ≤ (lo + err : Nat) * 2 ^ sc) (neg : Bool) :
    WithinUlps c (signed neg y) (BitVec.ofNat 32 (fp32.signBit neg + r)) := by
  have hvalue := fp32_regular.isValue_signBit_add neg h.le_maxMag
  have hlt : fp32.signBit neg + r < 2 ^ 32 := fp32_regular.signBit_add_lt neg (h.le_maxMag.trans_lt (by decide))
  have hlow : (0 : ℝ) < lo * 2 ^ sc := by positivity
  have hypos := hlow.trans_le hy
  refine ⟨signed neg (fp32.mag r), by rwa [BitVec.toNat_ofNat, Nat.mod_eq_of_lt hlt], ?_⟩
  have hlog : (Nat.log2 lo : Int) + sc ≤ ⌊Real.logb 2 |signed neg y|⌋ := by
    rw [Int.le_floor, abs_signed, abs_of_pos hypos, Real.le_logb_iff_rpow_le one_lt_two hypos, Real.rpow_intCast,
      zpow_add₀ two_ne_zero, zpow_natCast]
    exact (mul_le_mul_of_nonneg_right (by exact_mod_cast Nat.log2_self_le hlo) (two_zpow_pos sc).le).trans hy
  have hulp : (2 * c : Nat) * (2 : ℝ) ^ halfUlp lo sc ≤ c * 2 ^ (max ⌊Real.logb 2 |signed neg y|⌋ (-126) - 23) := by
    rw [Nat.cast_mul, mul_comm (Nat.cast 2) (c : ℝ), mul_assoc, Nat.cast_ofNat, mul_comm (2 : ℝ), ← zpow_add_one₀ two_ne_zero]
    refine mul_le_mul_of_nonneg_left (zpow_le_zpow_right₀ one_le_two ?_) c.cast_nonneg
    rw [halfUlp]
    omega
  have hdiff : |signed neg (fp32.mag r) - signed neg y| = |fp32.mag r - y| := by
    cases neg
    · rfl
    · rw [signed_true, signed_true, ← neg_sub', abs_neg]
  rw [hdiff, h.mag_eq]
  refine (abs_le.2 ⟨?_, ?_⟩).trans hulp
  · linarith [h.high_le]
  · linarith [h.le_low]

section
variable {c lo err : Nat} {sc : Int} (hsc : sc ≤ halfUlp lo sc)
include hsc

/-- A multiple `t` of an ulp with 24 bits, below 2^128 and within the bound of both ends, is a candidate. -/
theorem exists_candidate {t : Nat} (ht : t ≤ 2 ^ 24) (hlt : (t : ℝ) * 2 ^ (halfUlp lo sc + 1) < 2 ^ (128 : Int))
    (hlow : 2 * t * 2 ^ (halfUlp lo sc - sc).toNat ≤ lo + 2 * c * 2 ^ (halfUlp lo sc - sc).toNat)
    (hhigh : lo + err ≤ 2 * t * 2 ^ (halfUlp lo sc - sc).toNat + 2 * c * 2 ^ (halfUlp lo sc - sc).toNat) :
    ∃ r, Candidate c lo err sc (2 * t) r := by
  obtain ⟨r, hr, hmag⟩ := fp32_exists_mag ht (by rw [halfUlp]; omega) hlt
  refine ⟨r, hr, ?_, (units_le_iff hsc le_rfl hsc).1 (by simpa using hlow), (units_le_iff le_rfl hsc hsc).1 (by simpa using hhigh)⟩
  rw [hmag, zpow_add_one₀ two_ne_zero]
  push_cast
  ring

omit hsc in
theorem low_lt_zpow {e : Int} (h : (Nat.log2 lo : Int) + 1 + sc ≤ e) : (lo : ℝ) * 2 ^ sc < 2 ^ e := by
  have hlog : (lo : ℝ) < 2 ^ (Nat.log2 lo + 1) := by exact_mod_cast Nat.lt_log2_self
  calc (lo : ℝ) * 2 ^ sc < 2 ^ (Nat.log2 lo + 1) * 2 ^ sc := mul_lt_mul_of_pos_right hlog (two_zpow_pos sc)
    _ = 2 ^ ((Nat.log2 lo : Int) + 1 + sc) := by rw [zpow_add₀ two_ne_zero]; norm_cast
    _ ≤ 2 ^ e := zpow_le_zpow_right₀ one_le_two h

/-- There is a candidate: the multiple of an ulp just below the low end, or the next one. -/
theorem within_ne_nil (hc : 1 ≤ c) (herr : err ≤ 2 * 2 ^ (halfUlp lo sc - sc).toNat)
    (htop : (Nat.log2 lo : Int) + sc ≤ 127) (hnext : 2 ≤ c ∨ err ≤ 1 ∨ (Nat.log2 lo : Int) + sc ≤ 126) :
    within c lo err sc ≠ [] := by
  have hstart : withinStart lo sc = lo / 2 ^ (halfUlp lo sc - sc).toNat := if_pos hsc
  have hulp : (2 : ℝ) ^ (halfUlp lo sc + 1) = (2 * 2 ^ (halfUlp lo sc - sc).toNat : Nat) * 2 ^ sc := by
    rw [← natCast_mul_zpow_of_le 2 hsc, zpow_add_one₀ two_ne_zero, mul_comm, Nat.cast_ofNat]
  have hlog : lo < 2 ^ 25 * 2 ^ (halfUlp lo sc - sc).toNat := by
    rw [← pow_add]
    exact Nat.lt_log2_self.trans_le (Nat.pow_le_pow_right two_pos (by rw [halfUlp]; omega))
  have hcand {t : Nat} := exists_candidate (c := c) (err := err) (t := t) hsc
  have hD := Nat.two_pow_pos (halfUlp lo sc - sc).toNat
  generalize 2 ^ (halfUlp lo sc - sc).toNat = D at *
  obtain ⟨t, ht⟩ : ∃ t, t = lo / D / 2 := ⟨_, rfl⟩
  have hle : D * (lo / D) ≤ lo := Nat.mul_div_le lo D
  have hgt : lo < D * (lo / D + 1) := Nat.lt_mul_div_succ lo hD
  have htD : 2 * t * D ≤ lo := le_trans (by rw [Nat.mul_comm D]; exact Nat.mul_le_mul_right D (by omega)) hle
  have hDt : lo < 2 * t * D + 2 * D := by
    rw [← Nat.add_mul, Nat.mul_comm]
    exact hgt.trans_le (Nat.mul_le_mul_left D (by omega))
  have htt : t < 2 ^ 24 := by
    have := Nat.lt_of_mul_lt_mul_left (hle.trans_lt (hlog.trans_eq (Nat.mul_comm _ _)))
    omega
  have hcD : D ≤ c * D := Nat.le_mul_of_pos_left D hc
  have hin {u r : Nat} (hu : u = t ∨ u = t + 1) (h : Candidate c lo err sc (2 * u) r) : within c lo err sc ≠ [] :=
    List.ne_nil_of_mem (mem_within (n := 2 * u) (by omega) (by omega) h)
  rw [Nat.mul_assoc 2 c] at hcand
  by_cases hfit : lo + err ≤ 2 * t * D + 2 * (c * D)
  · have hlt : (t : ℝ) * 2 ^ (halfUlp lo sc + 1) < 2 ^ (128 : Int) := by
      rw [hulp, ← mul_assoc, ← Nat.cast_mul, Nat.mul_left_comm, ← Nat.mul_assoc]
      exact (mul_le_mul_of_nonneg_right (Nat.cast_le.2 htD) (two_zpow_pos sc).le).trans_lt (low_lt_zpow (by omega))
    obtain ⟨r, h⟩ := hcand htt.le hlt (by omega) hfit
    exact hin (.inl rfl) h
  · have hq : (Nat.log2 lo : Int) + sc ≤ 126 := by
      rcases hnext with h2 | h1 | hq
      · have : 2 * D ≤ c * D := Nat.mul_le_mul_right D h2
        omega
      · omega
      · exact hq
    have hlt : ((t + 1 : Nat) : ℝ) * 2 ^ (halfUlp lo sc + 1) < 2 ^ (128 : Int) := by
      calc ((t + 1 : Nat) : ℝ) * 2 ^ (halfUlp lo sc + 1) ≤ (2 ^ 24 : Nat) * 2 ^ (halfUlp lo sc + 1) :=
            mul_le_mul_of_nonneg_right (Nat.cast_le.2 htt) (two_zpow_pos _).le
        _ = 2 ^ ((24 : Int) + (halfUlp lo sc + 1)) := by rw [zpow_add₀ two_ne_zero (24 : Int)]; norm_cast
        _ < _ := zpow_lt_zpow_right₀ one_lt_two (by rw [halfUlp]; omega)
    have hstep : 2 * (t + 1) * D = 2 * t * D + 2 * D := by ring
    obtain ⟨r, h⟩ := hcand (t := t + 1) htt hlt (by omega) (by omega)
    exact hin (.inr rfl) h
end

/-! ### The choice among the candidates -/

theorem pickWithin_mem (fn : Config.SpecialFn) (x : Word) {cs : List Nat} (h : cs ≠ []) : pickWithin fn x cs ∈ cs := by
  have hlt : Config.specialPick fn x % cs.length < cs.length := Nat.mod_lt _ (List.length_pos_of_ne_nil h)
  rw [pickWithin, List.getElem?_eq_getElem hlt]
  exact List.getElem_mem hlt

/-- The chosen value lies within the bound of every value from the low end to the high one. -/
theorem withinUlps_pick (fn : Config.SpecialFn) (x : Word) {c lo err : Nat} {sc : Int} (hne : within c lo err sc ≠ []) (hlo : lo ≠ 0)
    {y : ℝ} (hy : (lo : ℝ) * 2 ^ sc ≤ y) (hy' : y ≤ (lo + err : Nat) * 2 ^ sc) (neg : Bool) :
    WithinUlps c (signed neg y) (BitVec.ofNat 32 (fp32.signBit neg + pickWithin fn x (within c lo err sc))) := by
  obtain ⟨n, h⟩ := candidate_of_mem (pickWithin_mem fn x hne)
  exact h.withinUlps hlo hy hy' neg

end Sys2Proof.Machine

/-! SUPPORT. Reciprocals and reciprocal square roots lie within their bound; with what follows, O29. -/

namespace Sys2Proof.Machine
open Sys2Proof.Claims

/-! ### Operands and exact results -/

theorem getLsbD_sign (x : Word) : x.getLsbD 31 = decide (2 ^ 31 ≤ x.toNat) := BitVec.msb_eq_decide x

/-- A finite FP32 word: its sign bit, its integer and its exponent. -/
theorem decode_of_isValue {x : Word} {v : ℝ} (h : IsValue fp32 x.toNat v) : ∃ (m : Nat) (e : Int),
    fp32.decode x.toNat = .fin (x.getLsbD 31) m e ∧ v = signed (x.getLsbD 31) (m * 2 ^ e) ∧ m < 2 ^ 24 ∧ -149 ≤ e ∧
    (m : ℝ) * 2 ^ e < 2 ^ (128 : Int) := by
  obtain ⟨s, m, e, hd, hv⟩ := isValue_iff_decode.1 h
  obtain ⟨hle, hs, hmag, hm, he, -⟩ := fp32_regular.decode_eq_fin hd
  have hsign : s = x.getLsbD 31 := by
    rw [hs, getLsbD_sign]
    exact congrArg (fun n => decide (2 ^ 31 ≤ n)) (Nat.mod_eq_of_lt x.isLt)
  rw [← hsign]
  refine ⟨m, e, hd, hv, hm, he, ?_⟩
  rw [hmag]
  calc fp32.mag _ ≤ fp32.mag fp32.maxMag := fp32.mag_strictMono.monotone hle
    _ = (2 ^ 24 - 1 : Nat) * 2 ^ (104 : Int) := fp32_mag_maxMag
    _ < _ := by norm_num

theorem toNat_ofNat_round (mode : Nat) (neg : Bool) (n : Nat) (p : Int) :
    (BitVec.ofNat 32 (fp32.round mode neg n p)).toNat = fp32.round mode neg n p := by
  rw [BitVec.toNat_ofNat]
  exact Nat.mod_eq_of_lt (fp32_regular.round_lt mode neg n p)

theorem withinUlps_of_isValue {c : ℝ} (hc : 0 ≤ c) {y : ℝ} {r : Word} (h : IsValue fp32 r.toNat y) : WithinUlps c y r :=
  ⟨y, h, by rw [sub_self, abs_zero]; positivity⟩

/-- A power of two that FP32 has is its own rounding. -/
theorem isValue_round_zpow (neg : Bool) {p : Int} (hp : -149 ≤ p) (hp' : p ≤ 127) :
    IsValue fp32 (BitVec.ofNat 32 (fp32.round 0 neg 1 p)).toNat (signed neg (2 ^ p)) := by
  rw [toNat_ofNat_round]
  have := isValue_fp32_round (mode := 0) (by decide) neg (n := 1) (by decide) hp
    (by simpa using zpow_lt_zpow_right₀ (one_lt_two (α := ℝ)) (by omega : p < 128))
  simpa using this

/-! ### Powers of two -/

theorem powTwo_eq_some {m k : Nat} (h : powTwo m = some k) : m = 2 ^ k ∧ k = Nat.log2 m := by
  rw [powTwo] at h
  split at h
  next hm =>
    obtain rfl := Option.some.inj h
    exact ⟨hm, rfl⟩
  next => cases h

theorem powTwo_two_pow (k : Nat) : powTwo (2 ^ k) = some k := by simp [powTwo]

theorem natCast_two_pow_mul_zpow (k : Nat) (e : Int) : ((2 ^ k : Nat) : ℝ) * 2 ^ e = 2 ^ (e + k) := by
  rw [add_comm, zpow_add₀ two_ne_zero]
  norm_cast

/-- An integer whose value is a power of two is one. -/
theorem exists_two_pow_of_mul_zpow {m : Nat} {e n : Int} (h : (m : ℝ) * 2 ^ e = 2 ^ n) : ∃ k : Nat, m = 2 ^ k ∧ n = e + k := by
  have hm : (m : ℝ) = 2 ^ (n - e) := by rw [zpow_sub₀ two_ne_zero, ← h, mul_div_cancel_right₀ _ (two_zpow_pos e).ne']
  have hne : n - e ≥ 0 := by
    by_contra! hneg
    have hlt : (m : ℝ) < 1 := hm ▸ zpow_lt_one_of_neg₀ one_lt_two hneg
    have hpos : (0 : ℝ) < m := hm ▸ two_zpow_pos _
    have h0 : m < 1 := by exact_mod_cast hlt
    have h1 : 0 < m := by exact_mod_cast hpos
    omega
  obtain ⟨k, hk⟩ := Int.eq_ofNat_of_zero_le hne
  refine ⟨k, ?_, by omega⟩
  rw [hk, zpow_natCast] at hm
  exact_mod_cast hm

theorem mul_zpow_ne_of_powTwo_none {m : Nat} (hk : powTwo m = none) (e n : Int) : (m : ℝ) * 2 ^ e ≠ 2 ^ n := fun h => by
  obtain ⟨k, rfl, -⟩ := exists_two_pow_of_mul_zpow h
  rw [powTwo_two_pow] at hk
  cases hk

/-! ### Reciprocals -/

section
variable {x : Word} {s : Bool} {m : Nat} {e : Int} (hd : fp32.decode x.toNat = .fin s m e) (hm : m ≠ 0)
include hd hm

theorem vfrcp_of_large (h : e + 128 ≤ 0 ∧ m ≤ 2 ^ (-(e + 128)).toNat) : vfrcp x = fp32.signBit s + fp32.ovf := by
  simp only [vfrcp, hd, if_neg hm, if_pos h]

theorem vfrcp_of_powTwo (h : ¬ (e + 128 ≤ 0 ∧ m ≤ 2 ^ (-(e + 128)).toNat)) {k : Nat} (hk : powTwo m = some k) :
    vfrcp x = fp32.round 0 s 1 (-(e + k)) := by
  simp only [vfrcp, hd, if_neg hm, if_neg h, hk]

theorem vfrcp_of_none (h : ¬ (e + 128 ≤ 0 ∧ m ≤ 2 ^ (-(e + 128)).toNat)) (hk : powTwo m = none) :
    vfrcp x = fp32.signBit s + pickWithin .rcp x (within 1 (2 ^ 200 / m) 1 (-(e + 200))) := by
  simp only [vfrcp, hd, if_neg hm, if_neg h, hk]
end

/-- The model's test for a reciprocal from 2^128 on. -/
theorem recip_large_iff {m : Nat} (hm : m ≠ 0) (e : Int) :
    (e + 128 ≤ 0 ∧ m ≤ 2 ^ (-(e + 128)).toNat) ↔ (m : ℝ) * 2 ^ e ≤ 2 ^ (-128 : Int) := by
  constructor
  · rintro ⟨he, hle⟩
    have hsum : e + ((-(e + 128)).toNat : Int) = -128 := by omega
    rw [← hsum, ← natCast_two_pow_mul_zpow]
    exact mul_le_mul_of_nonneg_right (Nat.cast_le.2 hle) (two_zpow_pos e).le
  · intro h
    have he : e + 128 ≤ 0 := by
      by_contra! hlt
      have h1 : (1 : ℝ) ≤ m := by exact_mod_cast Nat.pos_of_ne_zero hm
      have h2 : (2 : ℝ) ^ (-128 : Int) < 2 ^ e := zpow_lt_zpow_right₀ one_lt_two (by omega)
      nlinarith [two_zpow_pos e]
    refine ⟨he, ?_⟩
    have hsum : e + ((-(e + 128)).toNat : Int) = -128 := by omega
    rw [← hsum, ← natCast_two_pow_mul_zpow, mul_le_mul_iff_left₀ (two_zpow_pos e)] at h
    exact_mod_cast h

theorem one_div_signed (s : Bool) (a : ℝ) : 1 / signed s a = signed s (1 / a) := by
  cases s
  · rfl
  · simp only [signed_true, one_div, inv_neg]

/-- The fixed-point quotient stands just below the reciprocal. -/
theorem recip_bounds {m : Nat} (hm : m ≠ 0) (e : Int) :
    ((2 ^ 200 / m : Nat) : ℝ) * 2 ^ (-(e + 200)) ≤ 1 / (m * 2 ^ e) ∧
    1 / ((m : ℝ) * 2 ^ e) ≤ (2 ^ 200 / m + 1 : Nat) * 2 ^ (-(e + 200)) := by
  have hpos : (0 : ℝ) < m := by positivity
  have hval : 1 / ((m : ℝ) * 2 ^ e) = 2 ^ 200 / m * 2 ^ (-(e + 200)) := by
    rw [neg_add, zpow_add₀ two_ne_zero, zpow_neg, zpow_neg]
    have := two_zpow_pos e
    field_simp
  have h2 := (two_zpow_pos (-(e + 200))).le
  rw [hval]
  constructor
  · exact mul_le_mul_of_nonneg_right (by exact_mod_cast Nat.cast_div_le (α := ℝ) (m := 2 ^ 200) (n := m)) h2
  · refine mul_le_mul_of_nonneg_right ((div_le_iff₀ hpos).2 ?_) h2
    have := Nat.lt_mul_div_succ (2 ^ 200) (Nat.pos_of_ne_zero hm)
    rw [mul_comm]
    exact_mod_cast this.le

/-- A value whose low end is below 2^b leaves that bound on the exponent. -/
theorem log2_add_lt {lo : Nat} (hlo : lo ≠ 0) {sc b : Int} (h : (lo : ℝ) * 2 ^ sc < 2 ^ b) : (Nat.log2 lo : Int) + sc < b := by
  rw [← zpow_lt_zpow_iff_right₀ (one_lt_two (α := ℝ)), zpow_add₀ two_ne_zero, zpow_natCast]
  exact (mul_le_mul_of_nonneg_right (by exact_mod_cast Nat.log2_self_le hlo) (two_zpow_pos sc).le).trans_lt h

/-- `VFRCP` of a finite value (R55, R56). -/
theorem vfrcp_spec {x : Word} {v : ℝ} (hx : IsValue fp32 x.toNat v) (hv : v ≠ 0) :
    ((2 : ℝ) ^ (128 : ℕ) ≤ |1 / v| → BitVec.ofNat 32 (vfrcp x) = if x.getLsbD 31 then 0xFF800000 else 0x7F800000) ∧
    (|1 / v| < (2 : ℝ) ^ (128 : ℕ) → WithinUlps 1 (1 / v) (BitVec.ofNat 32 (vfrcp x)) ∧
      ∀ n : ℤ, |v| = (2 : ℝ) ^ n → IsValue fp32 (BitVec.ofNat 32 (vfrcp x)).toNat (1 / v)) := by
  obtain ⟨m, e, hd, rfl, hm24, he, htop⟩ := decode_of_isValue hx
  generalize x.getLsbD 31 = s at *
  have hm : m ≠ 0 := mt signed_mul_zpow_eq_zero.2 hv
  have hpos : (0 : ℝ) < m * 2 ^ e := by positivity
  have hlarge : (2 : ℝ) ^ (128 : ℕ) ≤ |1 / signed s (m * 2 ^ e)| ↔ (m : ℝ) * 2 ^ e ≤ 2 ^ (-128 : Int) := by
    rw [one_div_signed, abs_signed, abs_of_pos (one_div_pos.2 hpos), le_one_div (by positivity) hpos]
    norm_num
  rw [← not_le, hlarge, ← recip_large_iff hm e, abs_signed, abs_of_pos hpos]
  constructor
  · intro h
    rw [vfrcp_of_large hd hm h]
    cases s <;> rfl
  intro h
  have h' := h
  rw [one_div_signed]
  rw [recip_large_iff hm e, not_le] at h'
  cases hk : powTwo m with
  | some k =>
    obtain ⟨rfl, -⟩ := powTwo_eq_some hk
    rw [vfrcp_of_powTwo hd hm h hk]
    rw [natCast_two_pow_mul_zpow] at htop h' ⊢
    have hlow := (zpow_lt_zpow_iff_right₀ one_lt_two).1 h'
    have hhigh := (zpow_lt_zpow_iff_right₀ one_lt_two).1 htop
    have hvalue := isValue_round_zpow s (p := -(e + k)) (by omega) (by omega)
    rw [zpow_neg, ← one_div] at hvalue
    exact ⟨withinUlps_of_isValue zero_le_one hvalue, fun _ _ => hvalue⟩
  | none =>
    rw [vfrcp_of_none hd hm h hk]
    obtain ⟨hlo, hhi⟩ := recip_bounds hm e
    have hge : 2 ^ 176 ≤ 2 ^ 200 / m := by
      rw [Nat.le_div_iff_mul_le (Nat.pos_of_ne_zero hm)]
      omega
    generalize 2 ^ 200 / m = lo at *
    have hlog : 176 ≤ Nat.log2 lo := (Nat.le_log2 (by omega)).2 hge
    have hlt : 1 / ((m : ℝ) * 2 ^ e) < 2 ^ (128 : Int) := by
      rw [one_div_lt hpos (by positivity)]
      exact lt_of_eq_of_lt (by norm_num) h'
    have hexp := log2_add_lt (by omega) (hlo.trans_lt hlt)
    have hne : within 1 lo 1 (-(e + 200)) ≠ [] :=
      within_ne_nil (by rw [halfUlp]; omega) le_rfl (Nat.mul_pos two_pos (Nat.two_pow_pos _)) (by omega) (.inr (.inl le_rfl))
    refine ⟨?_, fun n hn => absurd hn (mul_zpow_ne_of_powTwo_none hk e n)⟩
    exact_mod_cast withinUlps_pick .rcp x hne (by omega) hlo hhi s

/-! ### Reciprocal square roots -/

/-- The exponent of an even power of two and the integer beside it, as the model takes them for a square root. -/
def evenMant (m : Nat) (e : Int) : Nat := if e % 2 = 0 then m else 2 * m
def halfExp (e : Int) : Int := (if e % 2 = 0 then e else e - 1) / 2

section
variable {x : Word} {m : Nat} {e : Int} (hd : fp32.decode x.toNat = .fin false m e) (hm : m ≠ 0)
include hd hm

theorem vfrsq_of_square {k : Nat} (hk : powTwo (evenMant m e) = some k) (hk2 : k % 2 = 0) :
    vfrsq x = fp32.round 0 false 1 (-(halfExp e + (k / 2 : Nat))) := by
  rw [evenMant] at hk
  simp only [vfrsq, hd, if_neg hm, Bool.false_eq_true, if_false, hk, if_pos hk2]
  rfl

theorem vfrsq_otherwise (hk : ∀ k, powTwo (evenMant m e) = some k → k % 2 ≠ 0) : vfrsq x =
    pickWithin .rsq x (within 1 (Nat.sqrt (2 ^ 400 / evenMant m e)) 2 (-(halfExp e + 200))) := by
  rw [← isqrt_eq_sqrt]
  simp only [vfrsq, hd, if_neg hm, Bool.false_eq_true, if_false]
  cases hp : powTwo (evenMant m e) with
  | none =>
    rw [evenMant] at hp
    simp only [hp]
    rfl
  | some k =>
    have hk2 := hk k hp
    rw [evenMant] at hp
    simp only [hp, if_neg hk2]
    rfl
end

theorem vfrsq_of_neg {x : Word} {m : Nat} {e : Int} (hd : fp32.decode x.toNat = .fin true m e) (hm : m ≠ 0) : vfrsq x = fp32.nan := by
  simp only [vfrsq, hd, if_neg hm, if_true]

theorem evenMant_mul_zpow (m : Nat) (e : Int) : (evenMant m e : ℝ) * 2 ^ (2 * halfExp e) = m * 2 ^ e := even_exponent m e

/-- The fixed-point root stands just below the reciprocal of a square root. -/
theorem rsqrt_bounds {n : Nat} (hn : n ≠ 0) (h : Int) :
    ((Nat.sqrt (2 ^ 400 / n) : Nat) : ℝ) * 2 ^ (-(h + 200)) ≤ 1 / Real.sqrt (n * 2 ^ (2 * h)) ∧
    1 / Real.sqrt (n * 2 ^ (2 * h)) ≤ (Nat.sqrt (2 ^ 400 / n) + 2 : Nat) * 2 ^ (-(h + 200)) := by
  have hpos : (0 : ℝ) < n := by positivity
  have hval : 1 / Real.sqrt (n * 2 ^ (2 * h)) = Real.sqrt (2 ^ 400 / n) * 2 ^ (-(h + 200)) := by
    have hroot : Real.sqrt ((2 : ℝ) ^ 400) = 2 ^ 200 := by
      rw [show (2 : ℝ) ^ 400 = (2 ^ 200) ^ 2 by rw [← pow_mul], Real.sqrt_sq (by positivity)]
    rw [sqrt_mul_zpow, Real.sqrt_div (by positivity), hroot, neg_add, zpow_add₀ two_ne_zero, zpow_neg, zpow_neg]
    have := two_zpow_pos h
    have := Real.sqrt_pos.2 hpos
    field_simp
  have h2 := (two_zpow_pos (-(h + 200))).le
  have hfloor : ((2 ^ 400 / n : Nat) : ℝ) ≤ 2 ^ 400 / n := by
    have := Nat.cast_div_le (α := ℝ) (m := 2 ^ 400) (n := n)
    rwa [Nat.cast_pow, Nat.cast_ofNat] at this
  have hceil : (2 : ℝ) ^ 400 / n ≤ (2 ^ 400 / n + 1 : Nat) := by
    rw [div_le_iff₀ hpos, mul_comm]
    exact_mod_cast (Nat.lt_mul_div_succ (2 ^ 400) (Nat.pos_of_ne_zero hn)).le
  rw [hval]
  generalize 2 ^ 400 / n = N at *
  constructor
  · refine mul_le_mul_of_nonneg_right (Real.le_sqrt_of_sq_le (le_trans ?_ hfloor)) h2
    exact_mod_cast Nat.sqrt_le' N
  · refine mul_le_mul_of_nonneg_right ((Real.sqrt_le_left (by positivity)).2 (hceil.trans ?_)) h2
    have : N + 1 ≤ (Nat.sqrt N + 2) ^ 2 := (Nat.lt_succ_sqrt' N).trans_le (Nat.pow_le_pow_left (by omega) 2)
    exact_mod_cast this

theorem sqrt_zpow (t : Int) : Real.sqrt (2 ^ (2 * t)) = 2 ^ t := by simpa using sqrt_mul_zpow 1 t

/-- `VFRSQ` of a finite value (R55, R56). -/
theorem vfrsq_spec {x : Word} {v : ℝ} (hx : IsValue fp32 x.toNat v) :
    (v < 0 → BitVec.ofNat 32 (vfrsq x) = 0x7FC00000) ∧
    (0 < v → WithinUlps 1 (1 / Real.sqrt v) (BitVec.ofNat 32 (vfrsq x)) ∧
      ∀ n : ℤ, v = (2 : ℝ) ^ (2 * n) → IsValue fp32 (BitVec.ofNat 32 (vfrsq x)).toNat ((2 : ℝ) ^ (-n))) := by
  obtain ⟨m, e, hd, rfl, hm24, he, htop⟩ := decode_of_isValue hx
  generalize x.getLsbD 31 = s at *
  refine ⟨fun hneg => ?_, fun hpos => ?_⟩
  · obtain ⟨rfl, hm⟩ := signed_mul_zpow_neg hneg
    rw [vfrsq_of_neg hd hm]
    rfl
  obtain ⟨rfl, hm⟩ := signed_mul_zpow_pos hpos
  rw [signed_false] at hpos ⊢
  have hn : evenMant m e ≠ 0 := by rw [evenMant]; split <;> omega
  have hn25 : evenMant m e < 2 ^ 25 := by rw [evenMant]; split <;> omega
  have hhalf : -75 ≤ halfExp e := by rw [halfExp]; split <;> omega
  rw [← evenMant_mul_zpow] at htop hpos ⊢
  generalize hE : halfExp e = h at *
  by_cases hk : ∃ k, powTwo (evenMant m e) = some k ∧ k % 2 = 0
  · obtain ⟨k, hk, hk2⟩ := hk
    rw [vfrsq_of_square hd hm hk hk2, hE]
    obtain ⟨hmant, -⟩ := powTwo_eq_some hk
    have hexp : 2 * h + k = 2 * (h + (k / 2 : Nat)) := by omega
    rw [hmant, natCast_two_pow_mul_zpow, hexp] at htop ⊢
    generalize h + ((k / 2 : Nat) : Int) = t at *
    have hlt := (zpow_lt_zpow_iff_right₀ one_lt_two).1 htop
    have hvalue := isValue_round_zpow false (p := -t) (by omega) (by omega)
    rw [signed_false] at hvalue
    rw [sqrt_zpow, one_div, ← zpow_neg]
    refine ⟨withinUlps_of_isValue zero_le_one hvalue, fun n hn => ?_⟩
    obtain rfl : t = n := by
      have := zpow_right_injective₀ two_pos (OfNat.ofNat_ne_one 2) hn
      omega
    exact hvalue
  · rw [not_exists] at hk
    rw [vfrsq_otherwise hd hm fun k h1 h2 => hk k ⟨h1, h2⟩, hE]
    obtain ⟨hlo, hhi⟩ := rsqrt_bounds hn h
    have hge : 2 ^ 187 ≤ Nat.sqrt (2 ^ 400 / evenMant m e) := by
      rw [Nat.le_sqrt, Nat.le_div_iff_mul_le (Nat.pos_of_ne_zero hn)]
      calc 2 ^ 187 * 2 ^ 187 * evenMant m e ≤ 2 ^ (187 + 187) * 2 ^ 25 := by
            rw [← pow_add]
            exact Nat.mul_le_mul_left _ hn25.le
        _ ≤ 2 ^ 400 := by rw [← pow_add]; exact pow_le_pow_right₀ (by decide) (by decide)
    have hlt : Nat.sqrt (2 ^ 400 / evenMant m e) < 2 ^ 201 := by
      rw [Nat.sqrt_lt', ← pow_mul]
      exact (Nat.div_le_self _ _).trans_lt (pow_lt_pow_right₀ (by decide) (by decide))
    generalize Nat.sqrt (2 ^ 400 / evenMant m e) = lo at *
    have hlo0 : lo ≠ 0 := by rintro rfl; omega
    have hlog : 187 ≤ Nat.log2 lo := (Nat.le_log2 hlo0).2 hge
    have hlog' : Nat.log2 lo < 201 := (Nat.log2_lt hlo0).2 hlt
    have hne : within 1 lo 2 (-(h + 200)) ≠ [] :=
      within_ne_nil (by rw [halfUlp]; omega) le_rfl (Nat.le_mul_of_pos_right 2 (Nat.two_pow_pos _)) (by omega) (.inr (.inr (by omega)))
    refine ⟨?_, fun n hn => ?_⟩
    · have := withinUlps_pick .rsq x hne hlo0 hlo hhi false
      rw [Fmt.signBit, if_neg Bool.false_ne_true, Nat.zero_add] at this
      exact_mod_cast this
    · obtain ⟨k, hmant, hexp⟩ := exists_two_pow_of_mul_zpow hn
      exact absurd ⟨hmant ▸ powTwo_two_pow k, by omega⟩ (hk k)

end Sys2Proof.Machine

/-! SUPPORT. Powers of two in fixed point, and that `VFEXP` lies within its bound; with what follows, O29. -/

namespace Sys2Proof.Machine
open Sys2Proof.Claims

/-! ### FixBounds in fixed point -/

/-- One in fixed point, as a real; and what its last place is to it. -/
noncomputable def fixOneR : ℝ := 2 ^ 160
noncomputable def fixUnit : ℝ := 1 / 2 ^ 160

theorem fixOne_cast : (fixOne : ℝ) = fixOneR := by norm_num [fixOne, fixOneR]
theorem fixOneR_pos : 0 < fixOneR := by norm_num [fixOneR]
theorem fixUnit_pos : 0 < fixUnit := by norm_num [fixUnit]
theorem fixUnit_mul_fixOneR : fixUnit * fixOneR = 1 := by norm_num [fixUnit, fixOneR]

/-- The pair bounds `t` in fixed point, each end to a part `ε` of it. -/
structure FixBounds (ε : ℝ) (b : Nat × Nat) (t : ℝ) : Prop where
  lower : (1 - ε) * t * fixOneR ≤ b.1
  below : (b.1 : ℝ) ≤ t * fixOneR
  above : t * fixOneR ≤ b.2
  upper : (b.2 : ℝ) ≤ (1 + ε) * t * fixOneR

theorem natCast_div_fixOne_ge (n : Nat) : (n : ℝ) / fixOneR ≤ (n / fixOne : Nat) + 1 := by
  rw [div_le_iff₀ fixOneR_pos, ← fixOne_cast, mul_comm]
  exact_mod_cast (Nat.lt_mul_div_succ n (by decide)).le
theorem natCast_div_fixOne_le (n : Nat) : ((n / fixOne : Nat) : ℝ) ≤ n / fixOneR := by
  rw [← fixOne_cast]
  exact Nat.cast_div_le

theorem FixBounds.mono {ε δ t : ℝ} {b : Nat × Nat} (h : FixBounds ε b t) (ht : 0 ≤ t) (hε : ε ≤ δ) : FixBounds δ b t := by
  have hto := mul_nonneg ht fixOneR_pos.le
  have hmul := mul_le_mul_of_nonneg_right hε hto
  obtain ⟨hl, hb, ha, hu⟩ := h
  exact ⟨by linarith, hb, ha, by linarith⟩

theorem FixBounds.root {ε t : ℝ} {b : Nat × Nat} (h : FixBounds ε b t) (ht : 1 ≤ t) (hε : 0 ≤ ε) (hε1 : ε ≤ 1) :
    FixBounds (ε + fixUnit) (rootBounds b) (Real.sqrt t) := by
  have ho := fixOneR_pos
  have hs : 1 ≤ Real.sqrt t := Real.one_le_sqrt.2 ht
  have hunit : 1 ≤ fixUnit * Real.sqrt t * fixOneR := by
    rw [mul_right_comm, fixUnit_mul_fixOneR]
    linarith
  have hroot {c : ℝ} (hc : 0 ≤ c) : Real.sqrt (c * t * fixOneR * fixOneR) = Real.sqrt c * Real.sqrt t * fixOneR := by
    rw [mul_assoc, Real.sqrt_mul (by positivity), Real.sqrt_mul hc, Real.sqrt_mul_self ho.le]
  have hexact : Real.sqrt (t * fixOneR * fixOneR) = Real.sqrt t * fixOneR := by simpa using hroot zero_le_one
  have hfloor (n : Nat) : ((isqrt (n * fixOne) : Nat) : ℝ) ≤ Real.sqrt (n * fixOneR) := by
    rw [isqrt_eq_sqrt, ← fixOne_cast, ← Nat.cast_mul]
    exact Real.nat_sqrt_le_real_sqrt
  have hceil (n : Nat) : Real.sqrt (n * fixOneR) ≤ (isqrt (n * fixOne) + 1 : Nat) := by
    rw [isqrt_eq_sqrt, ← fixOne_cast, ← Nat.cast_mul, Nat.cast_succ]
    exact Real.real_sqrt_lt_nat_sqrt_succ.le
  obtain ⟨hl, hb, ha, hu⟩ := h
  constructor
  · have h1 : (1 - ε) * Real.sqrt t * fixOneR ≤ Real.sqrt (b.1 * fixOneR) := by
      calc (1 - ε) * Real.sqrt t * fixOneR ≤ Real.sqrt (1 - ε) * Real.sqrt t * fixOneR := by
            gcongr
            exact Real.le_sqrt_of_sq_le (by nlinarith)
        _ = Real.sqrt ((1 - ε) * t * fixOneR * fixOneR) := (hroot (by linarith)).symm
        _ ≤ _ := Real.sqrt_le_sqrt (by gcongr)
    have h2 := hceil b.1
    push_cast at h2
    rw [rootBounds]
    linarith
  · exact (hfloor b.1).trans (hexact ▸ Real.sqrt_le_sqrt (by gcongr))
  · exact (hexact ▸ Real.sqrt_le_sqrt (by gcongr) : Real.sqrt t * fixOneR ≤ _).trans (hceil b.2)
  · have h1 : Real.sqrt (b.2 * fixOneR) ≤ (1 + ε) * Real.sqrt t * fixOneR := by
      calc Real.sqrt (b.2 * fixOneR) ≤ Real.sqrt ((1 + ε) * t * fixOneR * fixOneR) := Real.sqrt_le_sqrt (by gcongr)
        _ = Real.sqrt (1 + ε) * Real.sqrt t * fixOneR := hroot (by linarith)
        _ ≤ _ := by
          gcongr
          exact Real.sqrt_le_left (by linarith) |>.2 (by nlinarith)
    have h2 := hfloor b.2
    simp only [rootBounds]
    push_cast
    linarith

theorem FixBounds.mul {ε β a t : ℝ} {p r : Nat × Nat} (hp : FixBounds ε p a) (hr : FixBounds β r t) (ha : 1 ≤ a) (ht : 1 ≤ t)
    (hε : 0 ≤ ε) (hε1 : ε ≤ 1) (hβ : 0 ≤ β) (hβ1 : β ≤ 1) : FixBounds (ε + 2 * β + fixUnit) (mulBounds p r) (a * t) := by
  have ho := fixOneR_pos
  have hat : 1 ≤ a * t := one_le_mul_of_one_le_of_one_le ha ht
  have hunit : 1 ≤ fixUnit * (a * t) * fixOneR := by
    rw [mul_right_comm, fixUnit_mul_fixOneR]
    linarith
  have hdiv (c d : ℝ) : c * a * fixOneR * (d * t * fixOneR) / fixOneR = c * d * (a * t) * fixOneR := by
    field_simp
  have hexact : a * fixOneR * (t * fixOneR) / fixOneR = a * t * fixOneR := by simpa using hdiv 1 1
  have hfloor := natCast_div_fixOne_le (p.1 * r.1)
  have hfloor' := natCast_div_fixOne_le (p.2 * r.2)
  have hceil := natCast_div_fixOne_ge (p.1 * r.1)
  have hceil' := natCast_div_fixOne_ge (p.2 * r.2)
  rw [Nat.cast_mul] at hfloor hfloor' hceil hceil'
  obtain ⟨hpl, hpb, hpa, hpu⟩ := hp
  obtain ⟨hrl, hrb, hra, hru⟩ := hr
  have hεβ : ε * β ≤ β := mul_le_of_le_one_left hβ hε1
  have hβ0 : 0 ≤ 1 - β := by linarith
  simp only [mulBounds]
  constructor
  · have h1 : (1 - ε) * (1 - β) * (a * t) * fixOneR ≤ p.1 * r.1 / fixOneR := by
      rw [← hdiv]
      gcongr
    have h2 : (1 - (ε + 2 * β)) * (a * t) * fixOneR ≤ (1 - ε) * (1 - β) * (a * t) * fixOneR := by
      gcongr
      nlinarith
    linarith
  · refine hfloor.trans (hexact ▸ ?_)
    gcongr
  · push_cast
    refine le_trans (hexact ▸ ?_) hceil'
    gcongr
  · have h1 : (p.2 : ℝ) * r.2 / fixOneR ≤ (1 + ε) * (1 + β) * (a * t) * fixOneR := by
      rw [← hdiv]
      gcongr
    have h2 : (1 + ε) * (1 + β) * (a * t) * fixOneR ≤ (1 + (ε + 2 * β)) * (a * t) * fixOneR := by
      gcongr
      nlinarith
    push_cast
    linarith

/-- Successive roots and products: the error grows by a step's part with each. -/
theorem bounds_powBounds (f : Nat) {n : Nat} {β ε B a t : ℝ} {r p : Nat × Nat} (hr : FixBounds β r t) (hp : FixBounds ε p a)
    (ht : 1 ≤ t) (ha : 1 ≤ a) (hβ : 0 ≤ β) (hε : 0 ≤ ε) (hB : β + n * fixUnit ≤ B) (hB1 : ε + 3 * n * B ≤ 1) :
    FixBounds (ε + 3 * n * B) (powBounds f n r p) (a * t ^ (((f % 2 ^ n : Nat) : ℝ) / 2 ^ n)) := by
  induction n generalizing β ε a t r p with
  | zero =>
    rw [pow_zero, Nat.mod_one]
    simpa [powBounds] using hp
  | succ n ih =>
    have hu := fixUnit_pos
    push_cast at hB hB1
    have hnu : 0 ≤ n * fixUnit := by positivity
    have hB0 : 0 ≤ B := by nlinarith
    have hnB : 0 ≤ n * B := by positivity
    have hs : 1 ≤ Real.sqrt t := Real.one_le_sqrt.2 ht
    have hroot := hr.root ht hβ (by nlinarith)
    have hpow (k : Nat) : t ^ ((k : ℝ) / 2 ^ (n + 1)) = Real.sqrt t ^ ((k : ℝ) / 2 ^ n) := by
      rw [Real.sqrt_eq_rpow, ← Real.rpow_mul (by linarith)]
      congr 1
      rw [pow_succ]
      ring
    rw [powBounds, hpow]
    cases hbit : f.testBit n with
    | true =>
      have hmod : f % 2 ^ (n + 1) = f % 2 ^ n + 2 ^ n := by
        rw [Nat.mod_pow_succ, show f / 2 ^ n % 2 = 1 by simpa [Nat.testBit_eq_decide_div_mod_eq] using hbit, Nat.mul_one]
      have hprod : a * Real.sqrt t ^ (((f % 2 ^ (n + 1) : Nat) : ℝ) / 2 ^ n) =
          a * Real.sqrt t * Real.sqrt t ^ (((f % 2 ^ n : Nat) : ℝ) / 2 ^ n) := by
        rw [hmod, Nat.cast_add, add_div, Nat.cast_pow, Nat.cast_ofNat, div_self (by positivity), Real.rpow_add (by linarith),
          Real.rpow_one]
        ring
      rw [hprod]
      have hmul := hp.mul hroot ha hs hε (by nlinarith) (by linarith) (by nlinarith)
      exact (ih hroot hmul hs (one_le_mul_of_one_le_of_one_le ha hs) (by linarith) (by linarith) (by linarith) (by linarith)).mono
        (by positivity) (by push_cast; linarith)
    | false =>
      have hmod : f % 2 ^ (n + 1) = f % 2 ^ n := by
        rw [Nat.mod_pow_succ, show f / 2 ^ n % 2 = 0 by simpa [Nat.testBit_eq_decide_div_mod_eq] using hbit, Nat.mul_zero, Nat.add_zero]
      rw [hmod]
      exact (ih hroot hp hs ha (by linarith) hε (by linarith) (by linarith)).mono (by positivity) (by push_cast; linarith)

/-- The model's bounds on 2^(f / 2^149). -/
theorem bounds_exp2Bounds {f : Nat} (hf : f < 2 ^ 149) : FixBounds (1 / 2 ^ 140) (exp2Bounds f) ((2 : ℝ) ^ ((f : ℝ) / 2 ^ 149)) := by
  have hexact (n : Nat) : FixBounds 0 (n * fixOne, n * fixOne) n := by
    constructor <;> simp [fixOne_cast]
  have hone : FixBounds 0 (fixOne, fixOne) 1 := by simpa using hexact 1
  have h := bounds_powBounds f (n := 149) (B := 149 * fixUnit) (hexact 2) hone (by norm_num) le_rfl le_rfl le_rfl
    (by norm_num) (by norm_num [fixUnit])
  rw [Nat.mod_eq_of_lt hf, one_mul, Nat.cast_ofNat] at h
  exact h.mono (by positivity) (by norm_num [fixUnit])

end Sys2Proof.Machine

/-! SUPPORT. `VFEXP` lies within its bound; with what follows, O29. -/

namespace Sys2Proof.Machine
open Sys2Proof.Claims

/-- The whole part of a finite FP32 value and its fraction, in units of 2^−149, as `vfexp` takes them. -/
def expWhole (s : Bool) (m : Nat) (e : Int) : Int := scaled s m e (-149) / (2 ^ 149 : Nat)
def expFrac (s : Bool) (m : Nat) (e : Int) : Nat := (scaled s m e (-149) % (2 ^ 149 : Nat)).toNat

theorem expFrac_lt (s : Bool) (m : Nat) (e : Int) : expFrac s m e < 2 ^ 149 := by
  rw [expFrac]
  omega

theorem expWhole_add_expFrac (s : Bool) (m : Nat) {e : Int} (he : -149 ≤ e) :
    (expWhole s m e : ℝ) + (expFrac s m e : ℝ) / 2 ^ 149 = signed s (m * 2 ^ e) := by
  have hdiv : scaled s m e (-149) = expWhole s m e * 2 ^ 149 + expFrac s m e := by
    rw [expWhole, expFrac]
    omega
  have hscaled := scaled_mul_zpow (K := ℝ) s m he
  rw [hdiv, mul_assoc _ (m : ℝ), ite_mul_eq_signed] at hscaled
  rw [← hscaled, zpow_neg, show (2 : ℝ) ^ (149 : Int) = 2 ^ 149 by norm_cast]
  push_cast
  field_simp
  norm_num

section
variable {x : Word} {s : Bool} {m : Nat} {e : Int} (hd : fp32.decode x.toNat = .fin s m e) (hm : m ≠ 0)
include hd hm

theorem vfexp_of_overflow (h : 128 ≤ expWhole s m e) : vfexp x = fp32.ovf := by
  simp only [vfexp, hd, if_neg hm]
  exact if_pos h

theorem vfexp_of_underflow (h : expWhole s m e < -150) : vfexp x = 0 := by
  simp only [vfexp, hd, if_neg hm]
  exact (if_neg (by rw [expWhole] at h; omega)).trans (if_pos h)

theorem vfexp_of_whole (h : expWhole s m e < 128) (hf : expFrac s m e = 0) (h' : -149 ≤ expWhole s m e) :
    vfexp x = fp32.round 0 false 1 (expWhole s m e) := by
  simp only [vfexp, hd, if_neg hm]
  rw [expFrac] at hf
  rw [expWhole] at h h' ⊢
  rw [if_neg (not_le.2 h), if_neg (by omega), if_pos ⟨hf, h'⟩]

theorem vfexp_otherwise (h : expWhole s m e < 128) (h' : -150 ≤ expWhole s m e)
    (hw : ¬ (expFrac s m e = 0 ∧ -149 ≤ expWhole s m e)) :
    vfexp x = pickWithin .exp x (within 2 (exp2Bounds (expFrac s m e)).1
      ((exp2Bounds (expFrac s m e)).2 - (exp2Bounds (expFrac s m e)).1) (expWhole s m e - 160)) := by
  simp only [vfexp, hd, if_neg hm]
  rw [expFrac, expWhole] at *
  rw [if_neg (not_le.2 h), if_neg (not_lt.2 h'), if_neg hw]
end

theorem getLsbD_of_le_maxMag {r : Nat} (hr : r ≤ fp32.maxMag) : (BitVec.ofNat 32 r).getLsbD 31 = false := by
  have : fp32.maxMag < 2 ^ 31 := by decide
  rw [getLsbD_sign, BitVec.toNat_ofNat, decide_eq_false_iff_not]
  omega

/-- The fixed-point bounds on 2^(f / 2^149), times 2^k. -/
theorem exp_bounds {f : Nat} (hf : f < 2 ^ 149) (k : Int) :
    ((exp2Bounds f).1 : ℝ) * 2 ^ (k - 160) ≤ (2 : ℝ) ^ ((k : ℝ) + (f : ℝ) / 2 ^ 149) ∧
    (2 : ℝ) ^ ((k : ℝ) + (f : ℝ) / 2 ^ 149) ≤ ((exp2Bounds f).1 + ((exp2Bounds f).2 - (exp2Bounds f).1) : Nat) * 2 ^ (k - 160) := by
  obtain ⟨-, hb, ha, -⟩ := bounds_exp2Bounds hf
  have hle : (exp2Bounds f).1 ≤ (exp2Bounds f).2 := by exact_mod_cast hb.trans ha
  have hval : (2 : ℝ) ^ ((k : ℝ) + (f : ℝ) / 2 ^ 149) = (2 : ℝ) ^ ((f : ℝ) / 2 ^ 149) * fixOneR * 2 ^ (k - 160) := by
    rw [Real.rpow_add two_pos, Real.rpow_intCast, zpow_sub₀ two_ne_zero, fixOneR]
    norm_cast
    field_simp
  rw [hval, Nat.add_sub_cancel' hle]
  exact ⟨mul_le_mul_of_nonneg_right hb (two_zpow_pos _).le, mul_le_mul_of_nonneg_right ha (two_zpow_pos _).le⟩

/-- The low end has 160 bits, and the bounds are close. -/
theorem exp2Bounds_size {f : Nat} (hf : f < 2 ^ 149) : 2 ^ 159 ≤ (exp2Bounds f).1 ∧ (exp2Bounds f).1 < 2 ^ 161 ∧
    (exp2Bounds f).2 - (exp2Bounds f).1 ≤ 2 ^ 22 := by
  obtain ⟨hl, hb, ha, hu⟩ := bounds_exp2Bounds hf
  have h1 : 1 ≤ (2 : ℝ) ^ ((f : ℝ) / 2 ^ 149) := Real.one_le_rpow one_le_two (by positivity)
  have h2 : (2 : ℝ) ^ ((f : ℝ) / 2 ^ 149) < 2 := by
    have : (f : ℝ) / 2 ^ 149 < 1 := (div_lt_one (by positivity)).2 (by exact_mod_cast hf)
    simpa using Real.rpow_lt_rpow_of_exponent_lt one_lt_two this
  generalize (2 : ℝ) ^ ((f : ℝ) / 2 ^ 149) = t at *
  rw [fixOneR] at *
  refine ⟨?_, ?_, ?_⟩
  · have : (2 : ℝ) ^ 159 ≤ (exp2Bounds f).1 := by linarith
    exact_mod_cast this
  · have : ((exp2Bounds f).1 : ℝ) < 2 ^ 161 := by linarith
    exact_mod_cast this
  · have : ((exp2Bounds f).2 : ℝ) ≤ (exp2Bounds f).1 + 2 ^ 22 := by linarith
    have : (exp2Bounds f).2 ≤ (exp2Bounds f).1 + 2 ^ 22 := by exact_mod_cast this
    omega

/-- `VFEXP` of a finite value other than zero (R55, R56). -/
theorem vfexp_spec {x : Word} {v : ℝ} (hx : IsValue fp32 x.toNat v) (hv : v ≠ 0) :
    (128 ≤ v → BitVec.ofNat 32 (vfexp x) = 0x7F800000) ∧ (v < -150 → BitVec.ofNat 32 (vfexp x) = 0) ∧
    (-150 ≤ v → v < 128 → WithinUlps 2 ((2 : ℝ) ^ v) (BitVec.ofNat 32 (vfexp x)) ∧
      (BitVec.ofNat 32 (vfexp x)).getLsbD 31 = false ∧
      ∀ n : ℤ, -149 ≤ n → n ≤ 127 → v = n → IsValue fp32 (BitVec.ofNat 32 (vfexp x)).toNat ((2 : ℝ) ^ n)) := by
  obtain ⟨m, e, hd, hvx, -, he, -⟩ := decode_of_isValue hx
  generalize x.getLsbD 31 = s at *
  have hm : m ≠ 0 := by
    rintro rfl
    exact hv (by rw [hvx, signed_mul_zpow_eq_zero])
  rw [← expWhole_add_expFrac s m he] at hvx
  have hf := expFrac_lt s m e
  have hover := vfexp_of_overflow hd hm
  have hunder := vfexp_of_underflow hd hm
  have hwhole := vfexp_of_whole hd hm
  have hother := vfexp_otherwise hd hm
  generalize expWhole s m e = k at *
  generalize expFrac s m e = f at *
  have hfrac : (0 : ℝ) ≤ (f : ℝ) / 2 ^ 149 := by positivity
  have hfrac1 : (f : ℝ) / 2 ^ 149 < 1 := (div_lt_one (by positivity)).2 (by exact_mod_cast hf)
  refine ⟨fun h => ?_, fun h => ?_, fun hlow hhigh => ?_⟩
  · have : 127 < k := by
      have : (127 : ℝ) < k := by linarith
      exact_mod_cast this
    rw [hover (by omega)]
    rfl
  · have : k < -150 := by
      have : (k : ℝ) < -150 := by linarith
      exact_mod_cast this
    rw [hunder this]
    rfl
  have hk : -151 < k := by
    have : (-151 : ℝ) < k := by linarith
    exact_mod_cast this
  have hk' : k < 128 := by
    have : (k : ℝ) < 128 := by linarith
    exact_mod_cast this
  by_cases hw : f = 0 ∧ -149 ≤ k
  · obtain ⟨rfl, hk149⟩ := hw
    rw [Nat.cast_zero, zero_div, add_zero] at hvx
    rw [hwhole hk' rfl hk149]
    have hvalue := isValue_round_zpow false hk149 (by omega)
    rw [signed_false] at hvalue
    rw [hvx, Real.rpow_intCast]
    refine ⟨withinUlps_of_isValue zero_le_two hvalue, ?_, fun n _ _ hn => ?_⟩
    · obtain ⟨j, hj, hmag⟩ := fp32_exists_mag (n := 1) (p := k) (by decide) hk149
        (by simpa using zpow_lt_zpow_right₀ (one_lt_two (α := ℝ)) hk')
      rw [fp32_regular.round_of_mag (by decide) false hmag hj]
      exact getLsbD_of_le_maxMag ((Nat.zero_add j).trans_le hj)
    · obtain rfl : k = n := by exact_mod_cast hn
      exact hvalue
  · rw [hother hk' (by omega) hw, hvx]
    obtain ⟨hlo, hhi⟩ := exp_bounds hf k
    obtain ⟨hge, hlt, herr⟩ := exp2Bounds_size hf
    generalize (exp2Bounds f).2 - (exp2Bounds f).1 = err at *
    generalize (exp2Bounds f).1 = lo at *
    have hlo0 : lo ≠ 0 := by rintro rfl; omega
    have hlog : 159 ≤ Nat.log2 lo := (Nat.le_log2 hlo0).2 hge
    have hlog' : Nat.log2 lo < 161 := (Nat.log2_lt hlo0).2 hlt
    have hulp : 2 ^ 22 ≤ 2 ^ (halfUlp lo (k - 160) - (k - 160)).toNat :=
      Nat.pow_le_pow_right two_pos (by rw [halfUlp]; omega)
    have hne : within 2 lo err (k - 160) ≠ [] :=
      within_ne_nil (by rw [halfUlp]; omega) (by decide) (by omega) (by omega) (.inl le_rfl)
    refine ⟨?_, ?_, fun n hn _ heq => ?_⟩
    · have := withinUlps_pick .exp x hne hlo0 hlo hhi false
      rw [Fmt.signBit, if_neg Bool.false_ne_true, Nat.zero_add] at this
      exact_mod_cast this
    · obtain ⟨_, hcand⟩ := candidate_of_mem (pickWithin_mem .exp x hne)
      exact getLsbD_of_le_maxMag hcand.le_maxMag
    · have hnk : k = n := by
        have h1 : (k : ℝ) ≤ n := by linarith
        have h2 : (n : ℝ) < k + 1 := by linarith
        have h3 : k ≤ n := by exact_mod_cast h1
        have h4 : n < k + 1 := by exact_mod_cast h2
        omega
      have hf0 : (f : ℝ) / 2 ^ 149 = 0 := by
        rw [hnk] at heq
        linarith
      rw [div_eq_zero_iff, or_iff_left (by positivity), Nat.cast_eq_zero] at hf0
      exact absurd ⟨hf0, by omega⟩ hw

end Sys2Proof.Machine

/-! SUPPORT. Binary logarithms in fixed point, and that `VFLOG` lies within its bound; with what follows, O29. -/

namespace Sys2Proof.Machine
open Sys2Proof.Claims

/-! ### Binary logarithms -/

theorem logb_two_le_sub_one {a : ℝ} (h0 : 0 < a) (h1 : a ≤ 1) : Real.logb 2 a ≤ a - 1 := by
  have hlog := Real.log_le_sub_one_of_pos h0
  have h2 : Real.log 2 ≤ 1 := by linarith [Real.log_two_lt_d9]
  rw [Real.logb, div_le_iff₀ (Real.log_pos one_lt_two)]
  nlinarith

theorem one_sub_inv_le_logb_two {a : ℝ} (h : 1 ≤ a) : 1 - 1 / a ≤ Real.logb 2 a := by
  have := logb_two_le_sub_one (a := 1 / a) (by positivity) ((div_le_one (by linarith)).2 h)
  rw [one_div, Real.logb_inv] at this
  rw [one_div]
  linarith

theorem logb_two_add_le {a d : ℝ} (ha : 0 < a) (hd : 0 ≤ d) : Real.logb 2 (a + d) ≤ Real.logb 2 a + 2 * (d / a) := by
  have hsplit : a + d = a * (1 + d / a) := by field_simp
  have hda : 0 ≤ d / a := by positivity
  have hlog := Real.log_le_sub_one_of_pos (show 0 < 1 + d / a by positivity)
  have h2 := Real.log_two_gt_d9
  rw [hsplit, Real.logb_mul ha.ne' (by positivity)]
  gcongr
  rw [Real.logb, div_le_iff₀ (by linarith)]
  nlinarith

/-- The binary logarithm of a number in fixed point. -/
noncomputable def fixLog (x : ℝ) : ℝ := Real.logb 2 (x / fixOneR)

theorem fixLog_mono {a b : ℝ} (ha : 0 < a) (h : a ≤ b) : fixLog a ≤ fixLog b := by
  have := fixOneR_pos
  exact Real.logb_le_logb_of_le one_lt_two (by positivity) (by gcongr)

theorem fixLog_add_one_le {a : ℝ} (ha : fixOneR ≤ a) : fixLog (a + 1) ≤ fixLog a + 2 * fixUnit := by
  have ho := fixOneR_pos
  have ha0 := ho.trans_le ha
  have hu : fixUnit = 1 / fixOneR := rfl
  rw [fixLog, add_div]
  refine (logb_two_add_le (by positivity) (by positivity)).trans ?_
  rw [fixLog, hu, div_div_div_cancel_right₀ ho.ne']
  gcongr

theorem fixLog_half {a : ℝ} (ha : 0 < a) : fixLog (a / 2) = fixLog a - 1 := by
  have := fixOneR_pos
  rw [fixLog, div_right_comm, Real.logb_div (by positivity) two_ne_zero, Real.logb_self_eq_one one_lt_two]
  rfl

theorem fixLog_square {a : ℝ} (ha : 0 < a) : fixLog (a * a / fixOneR) = 2 * fixLog a := by
  have ho := fixOneR_pos
  have hsq : a * a / fixOneR / fixOneR = a / fixOneR * (a / fixOneR) := by field_simp
  rw [fixLog, hsq, Real.logb_mul (by positivity) (by positivity), ← two_mul]
  rfl

theorem fixLog_fixOneR : fixLog fixOneR = 0 := by rw [fixLog, div_self fixOneR_pos.ne', Real.logb_one]
theorem fixLog_two : fixLog (2 * fixOneR) = 1 := by
  rw [fixLog, mul_div_cancel_right₀ _ fixOneR_pos.ne', Real.logb_self_eq_one one_lt_two]

theorem fixOneR_le_iff {x : Nat} : fixOneR ≤ x ↔ fixOne ≤ x := by rw [← fixOne_cast, Nat.cast_le]
theorem le_two_fixOneR_iff {x : Nat} : (x : ℝ) ≤ 2 * fixOneR ↔ x ≤ 2 * fixOne := by
  rw [← fixOne_cast]
  norm_cast

/-- A number from one to two has a logarithm from zero to one. -/
theorem fixLog_mem {x : Nat} (hlo : fixOne ≤ x) (hhi : x ≤ 2 * fixOne) : 0 ≤ fixLog x ∧ fixLog x ≤ 1 := by
  have hx := fixOneR_le_iff.2 hlo
  exact ⟨fixLog_fixOneR ▸ fixLog_mono fixOneR_pos hx, fixLog_two ▸ fixLog_mono (fixOneR_pos.trans_le hx) (le_two_fixOneR_iff.2 hhi)⟩

/-- A square in fixed point, rounded down or up, has twice the logarithm, but for two units. -/
theorem fixLog_square_bounds {x : Nat} (hx : fixOne ≤ x) : fixOne ≤ x * x / fixOne ∧
    fixLog (x * x / fixOne : Nat) ≤ 2 * fixLog x ∧ 2 * fixLog x ≤ fixLog (x * x / fixOne : Nat) + 2 * fixUnit ∧
    2 * fixLog x ≤ fixLog (x * x / fixOne + 1 : Nat) ∧ fixLog (x * x / fixOne + 1 : Nat) ≤ 2 * fixLog x + 2 * fixUnit := by
  have hxR := fixOneR_le_iff.2 hx
  have ho := fixOneR_pos
  have hy : fixOne ≤ x * x / fixOne := (Nat.le_div_iff_mul_le (by decide)).2 (Nat.mul_le_mul hx hx)
  have hyR := fixOneR_le_iff.2 hy
  have hfloor := natCast_div_fixOne_le (x * x)
  have hceil := natCast_div_fixOne_ge (x * x)
  have hup := fixLog_add_one_le hyR
  rw [← fixLog_square (ho.trans_le hxR)]
  rw [Nat.cast_mul] at hfloor hceil
  generalize x * x / fixOne = y at *
  have hx0 := ho.trans_le hxR
  have hsq : 0 < (x : ℝ) * x / fixOneR := by positivity
  refine ⟨hy, fixLog_mono (by linarith) hfloor, ?_, ?_, ?_⟩
  · exact (fixLog_mono hsq hceil).trans hup
  · exact (fixLog_mono hsq hceil).trans_eq (by push_cast; rfl)
  · rw [Nat.cast_succ]
    exact (fixLog_mono (by linarith) (by linarith)).trans (fixLog_add_one_le (hyR.trans hfloor))

/-! ### The digits of a logarithm, from below and from above -/

theorem logBelow_spec {n x : Nat} (hlo : fixOne ≤ x) (hhi : x < 2 * fixOne) :
    (logBelow n x : ℝ) ≤ 2 ^ n * fixLog x ∧ 2 ^ n * fixLog x ≤ logBelow n x + 1 + 2 ^ n * (4 * fixUnit) := by
  have hu := fixUnit_pos
  induction n generalizing x with
  | zero =>
    obtain ⟨h0, h1⟩ := fixLog_mem hlo hhi.le
    rw [logBelow]
    constructor <;> push_cast <;> linarith
  | succ n ih =>
    obtain ⟨hy, hbelow, habove, -⟩ := fixLog_square_bounds hlo
    have hy4 : x * x / fixOne < 4 * fixOne := (Nat.div_lt_iff_lt_mul (by decide)).2 (by nlinarith)
    have hpow : (0 : ℝ) < 2 ^ n := by positivity
    simp only [logBelow]
    generalize x * x / fixOne = y at *
    split
    next h2 =>
      obtain ⟨hl, hr⟩ := ih (x := y / 2) (by omega) (by omega)
      have hz : fixOneR ≤ (y / 2 : Nat) := fixOneR_le_iff.2 (by omega)
      have hzle : ((y / 2 : Nat) : ℝ) ≤ y / 2 := Nat.cast_div_le
      have hzge : (y : ℝ) / 2 ≤ (y / 2 : Nat) + 1 := by
        rw [div_le_iff₀ two_pos]
        exact_mod_cast (by omega : y ≤ (y / 2 + 1) * 2)
      have ho := fixOneR_pos
      have h1 := fixLog_mono (by linarith) hzle
      have h2 := (fixLog_mono (by linarith) hzge).trans (fixLog_add_one_le hz)
      rw [fixLog_half (by linarith)] at h1 h2
      push_cast
      rw [pow_succ]
      constructor <;> nlinarith
    next h2 =>
      obtain ⟨hl, hr⟩ := ih hy (not_le.1 h2)
      rw [pow_succ]
      constructor <;> nlinarith

theorem logAbove_spec {n x : Nat} (hlo : fixOne ≤ x) (hhi : x ≤ 2 * fixOne) :
    2 ^ n * fixLog x ≤ logAbove n x ∧ (logAbove n x : ℝ) ≤ 2 ^ n * fixLog x + 1 + 2 ^ n * (4 * fixUnit) := by
  have hu := fixUnit_pos
  induction n generalizing x with
  | zero =>
    obtain ⟨h0, h1⟩ := fixLog_mem hlo hhi
    rw [logAbove]
    constructor <;> push_cast <;> linarith
  | succ n ih =>
    obtain ⟨hy, -, -, hbelow, habove⟩ := fixLog_square_bounds hlo
    have hx1 := (fixLog_mem hlo hhi).2
    have hpow : (0 : ℝ) < 2 ^ n := by positivity
    have hy1 : fixOne ≤ x * x / fixOne + 1 := by omega
    simp only [logAbove]
    generalize x * x / fixOne + 1 = y at *
    split
    next h2 =>
      have hz : fixOne ≤ min (y / 2 + 1) (2 * fixOne) := le_min (by omega) (by omega)
      obtain ⟨hl, hr⟩ := ih hz (min_le_right _ _)
      have ho := fixOneR_pos
      have hyR : fixOneR ≤ y / 2 := by
        rw [le_div_iff₀ two_pos, ← fixOne_cast]
        exact_mod_cast (by omega : fixOne * 2 ≤ y)
      have hhalf := fixLog_half (show (0 : ℝ) < y by linarith)
      have hnext : (y : ℝ) / 2 ≤ (y / 2 + 1 : Nat) := by
        rw [div_le_iff₀ two_pos]
        exact_mod_cast (by omega : y ≤ (y / 2 + 1) * 2)
      have hlower : 2 * fixLog x - 1 ≤ fixLog (min (y / 2 + 1) (2 * fixOne) : Nat) := by
        rcases min_choice (y / 2 + 1) (2 * fixOne) with hmin | hmin <;> rw [hmin]
        · linarith [fixLog_mono (by linarith) hnext]
        · rw [Nat.cast_mul, Nat.cast_ofNat, fixOne_cast, fixLog_two]
          linarith
      have hupper : fixLog (min (y / 2 + 1) (2 * fixOne) : Nat) ≤ 2 * fixLog x - 1 + 4 * fixUnit := by
        have hle : ((min (y / 2 + 1) (2 * fixOne) : Nat) : ℝ) ≤ y / 2 + 1 := by
          have : ((min (y / 2 + 1) (2 * fixOne) : Nat) : ℝ) ≤ (y / 2 + 1 : Nat) := Nat.cast_le.2 (min_le_left _ _)
          push_cast at this ⊢
          linarith [Nat.cast_div_le (α := ℝ) (m := y) (n := 2)]
        linarith [fixLog_mono (ho.trans_le (fixOneR_le_iff.2 hz)) hle, fixLog_add_one_le hyR]
      generalize min (y / 2 + 1) (2 * fixOne) = z at *
      rw [pow_succ, Nat.cast_add, Nat.cast_pow, Nat.cast_ofNat]
      constructor
      · nlinarith only [hl, hpow, hlower]
      · nlinarith only [hr, hpow, hupper]
    next h2 =>
      obtain ⟨hl, hr⟩ := ih hy1 (not_lt.1 h2)
      rw [pow_succ]
      constructor <;> nlinarith

/-- The model's bounds on 2^100 · log2 (m / 2^k). -/
theorem log2Bounds_spec {m k : Nat} (hlo : 2 ^ k ≤ m) (hhi : m < 2 ^ (k + 1)) :
    ((log2Bounds m k).1 : ℝ) ≤ 2 ^ 100 * Real.logb 2 (m / 2 ^ k) ∧ 2 ^ 100 * Real.logb 2 (m / 2 ^ k) ≤ (log2Bounds m k).2 ∧
    2 ^ 100 * Real.logb 2 (m / 2 ^ k) ≤ (log2Bounds m k).1 + 3 / 2 ∧
    ((log2Bounds m k).2 : ℝ) ≤ 2 ^ 100 * Real.logb 2 (m / 2 ^ k) + 3 / 2 := by
  have ho := fixOneR_pos
  have h2k : (0 : ℝ) < 2 ^ k := by positivity
  have hval : Real.logb 2 (m / 2 ^ k) = fixLog (m * fixOneR / 2 ^ k) := by
    rw [fixLog]
    congr 1
    field_simp
  have hstart : fixOne ≤ m * fixOne / 2 ^ k := by
    rw [Nat.le_div_iff_mul_le (Nat.two_pow_pos k), Nat.mul_comm]
    exact Nat.mul_le_mul_right _ hlo
  have hend : m * fixOne / 2 ^ k < 2 * fixOne := by
    rw [Nat.div_lt_iff_lt_mul (Nat.two_pow_pos k)]
    calc m * fixOne < 2 ^ (k + 1) * fixOne := Nat.mul_lt_mul_of_pos_right hhi (by decide)
      _ = 2 * fixOne * 2 ^ k := by rw [pow_succ]; ring
  have hfloor : ((m * fixOne / 2 ^ k : Nat) : ℝ) ≤ m * fixOneR / 2 ^ k := by
    rw [← fixOne_cast]
    exact_mod_cast Nat.cast_div_le (α := ℝ) (m := m * fixOne) (n := 2 ^ k)
  have hceil : (m : ℝ) * fixOneR / 2 ^ k ≤ (m * fixOne / 2 ^ k : Nat) + 1 := by
    rw [div_le_iff₀ h2k, ← fixOne_cast, mul_comm _ ((2 : ℝ) ^ k)]
    exact_mod_cast (Nat.lt_mul_div_succ (m * fixOne) (Nat.two_pow_pos k)).le
  have htwo : (m : ℝ) * fixOneR / 2 ^ k ≤ 2 * fixOneR := by
    rw [div_le_iff₀ h2k]
    have : (m : ℝ) ≤ 2 * 2 ^ k := by exact_mod_cast (hhi.le.trans_eq (pow_succ' 2 k))
    nlinarith
  rw [hval]
  simp only [log2Bounds]
  generalize m * fixOne / 2 ^ k = a at *
  generalize (m : ℝ) * fixOneR / 2 ^ k = b at *
  have haR := fixOneR_le_iff.2 hstart
  have hab := fixLog_mono (ho.trans_le haR) hfloor
  have hba := fixLog_mono (by linarith) hceil
  have hnext := fixLog_add_one_le haR
  obtain ⟨hbl, hbr⟩ := logBelow_spec (n := 100) hstart hend
  have hmin : fixOne ≤ min (a + 1) (2 * fixOne) := le_min (by omega) (by omega)
  obtain ⟨hal, har⟩ := logAbove_spec (n := 100) hmin (min_le_right _ _)
  have hmin1 : fixLog (min (a + 1) (2 * fixOne) : Nat) ≤ fixLog (a + 1) :=
    fixLog_mono (ho.trans_le (fixOneR_le_iff.2 hmin)) (by exact_mod_cast min_le_left (a + 1) (2 * fixOne))
  have hmin2 : fixLog b ≤ fixLog (min (a + 1) (2 * fixOne) : Nat) := by
    refine fixLog_mono (by linarith) ?_
    rcases min_choice (a + 1) (2 * fixOne) with h | h <;> rw [h]
    · exact_mod_cast hceil
    · rw [Nat.cast_mul, fixOne_cast]
      exact_mod_cast htwo
  have hsmall : (2 : ℝ) ^ 100 * fixUnit ≤ 1 / 16 := by norm_num [fixUnit]
  generalize logAbove 100 (min (a + 1) (2 * fixOne)) = u at *
  generalize logBelow 100 a = l at *
  refine ⟨?_, ?_, ?_, ?_⟩
  · linarith only [hbl, hab]
  · linarith only [hal, hmin2]
  · linarith only [hbr, hba, hnext, hsmall]
  · linarith only [har, hmin1, hnext, hab, hsmall]

end Sys2Proof.Machine

/-! SUPPORT. `VFLOG` lies within its bound, and the special inputs of all four functions; with this, O29. -/

namespace Sys2Proof.Machine
open Sys2Proof.Claims

/-! ### Logarithms of FP32 values -/

/-- The exponent of the leading bit of m · 2^e. -/
def logWhole (m : Nat) (e : Int) : Int := e + Nat.log2 m

section
variable {x : Word} {m : Nat} {e : Int} (hd : fp32.decode x.toNat = .fin false m e) (hm : m ≠ 0)
include hd hm

theorem vflog_of_powTwo {k : Nat} (hk : powTwo m = some k) :
    vflog x = fp32.round 0 (decide (logWhole m e < 0)) (logWhole m e).natAbs 0 := by
  simp only [vflog, hd, if_neg hm, Bool.false_eq_true, if_false, hk]
  rfl

theorem vflog_of_nonneg (hk : powTwo m = none) (h : 0 ≤ logWhole m e * 2 ^ 100 + (log2Bounds m (Nat.log2 m)).1) :
    vflog x = pickWithin .log x (within 2 (logWhole m e * 2 ^ 100 + (log2Bounds m (Nat.log2 m)).1).toNat
      ((log2Bounds m (Nat.log2 m)).2 - (log2Bounds m (Nat.log2 m)).1) (-100)) := by
  simp only [vflog, hd, if_neg hm, Bool.false_eq_true, if_false, hk]
  exact if_pos h

theorem vflog_of_neg (hk : powTwo m = none) (h : logWhole m e * 2 ^ 100 + ((log2Bounds m (Nat.log2 m)).1 : Int) < 0) :
    vflog x = fp32.signBit true + pickWithin .log x (within 2 (logWhole m e * 2 ^ 100 + ((log2Bounds m (Nat.log2 m)).2 : Int)).natAbs
      ((log2Bounds m (Nat.log2 m)).2 - (log2Bounds m (Nat.log2 m)).1) (-100)) := by
  simp only [vflog, hd, if_neg hm, Bool.false_eq_true, if_false, hk]
  exact if_neg (not_le.2 h)
end

theorem vflog_of_negative {x : Word} {m : Nat} {e : Int} (hd : fp32.decode x.toNat = .fin true m e) (hm : m ≠ 0) :
    vflog x = fp32.nan := by
  simp only [vflog, hd, if_neg hm, if_true]

theorem logb_two_zpow (n : Int) : Real.logb 2 ((2 : ℝ) ^ n) = n := by
  rw [← Real.rpow_intCast, Real.logb_rpow two_pos (OfNat.ofNat_ne_one 2)]

theorem logb_eq_logWhole_add {m : Nat} (hm : m ≠ 0) (e : Int) :
    Real.logb 2 (m * 2 ^ e) = logWhole m e + Real.logb 2 (m / 2 ^ Nat.log2 m) := by
  have hpos : (0 : ℝ) < m := by positivity
  rw [Real.logb_mul hpos.ne' (two_zpow_pos e).ne', logb_two_zpow, Real.logb_div hpos.ne' (by positivity), Real.logb_pow,
    Real.logb_self_eq_one one_lt_two, logWhole]
  push_cast
  ring

/-- Other than at a power of two, the logarithm of an integer of 24 bits keeps away from the whole numbers. -/
theorem logb_away {m : Nat} (hm : m ≠ 0) (hm24 : m < 2 ^ 24) (hk : powTwo m = none) :
    1 / 2 ^ 24 ≤ Real.logb 2 (m / 2 ^ Nat.log2 m) ∧ Real.logb 2 (m / 2 ^ Nat.log2 m) ≤ 1 - 1 / 2 ^ 24 := by
  have hne : m ≠ 2 ^ Nat.log2 m := fun h => by
    have := powTwo_two_pow (Nat.log2 m)
    rw [← h, hk] at this
    cases this
  have hlo := Nat.log2_self_le hm
  have hhi : m < 2 ^ (Nat.log2 m + 1) := Nat.lt_log2_self
  have hlog : Nat.log2 m < 24 := (Nat.log2_lt hm).2 hm24
  generalize Nat.log2 m = k at *
  have hpow : 2 ^ (k + 1) ≤ 2 ^ 24 := Nat.pow_le_pow_right two_pos hlog
  have hpos : (0 : ℝ) < m := by positivity
  have h2k : (0 : ℝ) < 2 ^ k := by positivity
  constructor
  · refine le_trans ?_ (one_sub_inv_le_logb_two ((one_le_div h2k).2 (by exact_mod_cast hlo)))
    have h1 : (2 : ℝ) ^ k + 1 ≤ m := by exact_mod_cast lt_of_le_of_ne hlo hne.symm
    have h2 : (m : ℝ) ≤ 2 ^ 24 := by exact_mod_cast hm24.le
    rw [one_div_div, one_sub_div hpos.ne', div_le_div_iff₀ (by positivity) hpos]
    nlinarith
  · have hsplit : (m : ℝ) / 2 ^ k = 2 * (m / 2 ^ (k + 1)) := by
      rw [pow_succ]
      field_simp
    have h1 : (m : ℝ) + 1 ≤ 2 ^ (k + 1) := by exact_mod_cast hhi
    have h2 : (2 : ℝ) ^ (k + 1) ≤ 2 ^ 24 := by exact_mod_cast hpow
    have hle : (m : ℝ) / 2 ^ (k + 1) ≤ 1 - 1 / 2 ^ 24 := by
      rw [div_le_iff₀ (by positivity)]
      linarith
    rw [hsplit, Real.logb_mul two_ne_zero (by positivity), Real.logb_self_eq_one one_lt_two]
    linarith [logb_two_le_sub_one (a := (m : ℝ) / 2 ^ (k + 1)) (by positivity) (by linarith)]

/-- There is a candidate for a logarithm that is neither close to zero nor beyond the exponents of FP32. -/
theorem within_log_ne_nil {lo err : Nat} (h1 : 2 ^ 75 ≤ lo) (h2 : lo < 2 ^ 108) (herr : err ≤ 3) : within 2 lo err (-100) ≠ [] := by
  have hlo0 : lo ≠ 0 := by omega
  have hlog : 75 ≤ Nat.log2 lo := (Nat.le_log2 hlo0).2 h1
  have hlog' : Nat.log2 lo < 108 := (Nat.log2_lt hlo0).2 h2
  have hulp : 2 ^ 2 ≤ 2 ^ (halfUlp lo (-100) - -100).toNat := Nat.pow_le_pow_right two_pos (by rw [halfUlp]; omega)
  exact within_ne_nil (by rw [halfUlp]; omega) (by decide) (by omega) (by omega) (.inl le_rfl)

/-- `VFLOG` of a positive value (R55). -/
theorem vflog_pos_spec {x : Word} {m : Nat} {e : Int} (hd : fp32.decode x.toNat = .fin false m e) (hm : m ≠ 0) (hm24 : m < 2 ^ 24)
    (he : -149 ≤ e) (htop : (m : ℝ) * 2 ^ e < 2 ^ (128 : Int)) :
    WithinUlps 2 (Real.logb 2 (m * 2 ^ e)) (BitVec.ofNat 32 (vflog x)) ∧
      ∀ n : ℤ, (m : ℝ) * 2 ^ e = (2 : ℝ) ^ n → IsValue fp32 (BitVec.ofNat 32 (vflog x)).toNat n := by
  have hwlo : -149 ≤ logWhole m e := by rw [logWhole]; omega
  have hwhi : logWhole m e < 128 := by rw [logWhole, add_comm]; exact log2_add_lt hm htop
  cases hk : powTwo m with
  | some k =>
    have hvalue : IsValue fp32 (BitVec.ofNat 32 (vflog x)).toNat (logWhole m e : ℝ) := by
      rw [vflog_of_powTwo hd hm hk, toNat_ofNat_round]
      generalize logWhole m e = w at *
      have hlt : ((w.natAbs : Nat) : ℝ) * 2 ^ (0 : Int) < 2 ^ (128 : Int) := by
        rw [zpow_zero, mul_one]
        have : w.natAbs < 2 ^ 128 := by omega
        exact_mod_cast this
      convert isValue_fp32_round (mode := 0) (by decide) (decide (w < 0)) (by omega) (by decide) hlt using 1
      rw [zpow_zero, mul_one, Nat.cast_natAbs]
      rcases lt_or_ge w 0 with hw | hw
      · simp [hw, abs_of_neg hw]
      · simp [hw.not_gt, abs_of_nonneg hw]
    obtain ⟨hm2, hlog⟩ := powTwo_eq_some hk
    have hval : (m : ℝ) * 2 ^ e = 2 ^ logWhole m e := by
      rw [logWhole, ← hlog, ← natCast_two_pow_mul_zpow, ← hm2]
    rw [hval]
    refine ⟨withinUlps_of_isValue zero_le_two ?_, fun n hn => ?_⟩
    · rwa [logb_two_zpow]
    · rwa [← zpow_right_injective₀ two_pos (OfNat.ofNat_ne_one 2) hn]
  | none =>
    refine ⟨?_, fun n hn => absurd hn (mul_zpow_ne_of_powTwo_none hk e n)⟩
    obtain ⟨haway, haway'⟩ := logb_away hm hm24 hk
    obtain ⟨hl, hu, hl', hu'⟩ := log2Bounds_spec (Nat.log2_self_le hm) (Nat.lt_log2_self (n := m))
    have hpos := vflog_of_nonneg hd hm hk
    have hneg := vflog_of_neg hd hm hk
    rw [logb_eq_logWhole_add hm]
    generalize Real.logb 2 (m / 2 ^ Nat.log2 m) = L at *
    generalize (log2Bounds m (Nat.log2 m)).1 = l at *
    generalize (log2Bounds m (Nat.log2 m)).2 = u at *
    generalize logWhole m e = w at *
    have hl75 : 2 ^ 75 ≤ l := by
      have : (2 : ℝ) ^ 75 ≤ l := by linarith
      exact_mod_cast this
    have hu75 : u + 2 ^ 75 ≤ 2 ^ 100 := by
      have : (u : ℝ) + 2 ^ 75 ≤ 2 ^ 100 := by linarith
      exact_mod_cast this
    have hlu : l ≤ u := by exact_mod_cast hl.trans hu
    have herr : u ≤ l + 3 := by
      have : (u : ℝ) ≤ l + 3 := by linarith
      exact_mod_cast this
    have hunit : (2 : ℝ) ^ (-100 : Int) = 1 / 2 ^ 100 := by norm_num
    have hle_mul {a b : ℝ} : a * 2 ^ (-100 : Int) ≤ b ↔ a ≤ 2 ^ 100 * b := by
      rw [hunit, mul_one_div, div_le_iff₀ (by positivity), mul_comm b]
    have hmul_le {a b : ℝ} : b ≤ a * 2 ^ (-100 : Int) ↔ 2 ^ 100 * b ≤ a := by
      rw [hunit, mul_one_div, le_div_iff₀ (by positivity), mul_comm b]
    rcases le_or_gt 0 w with hw | hw
    · rw [hpos (by omega)]
      obtain ⟨lo, hlo⟩ := Int.eq_ofNat_of_zero_le (show 0 ≤ w * 2 ^ 100 + l by omega)
      have hloR : (lo : ℝ) = w * 2 ^ 100 + l := by exact_mod_cast hlo.symm
      have hlou : ((lo + (u - l) : Nat) : ℝ) = w * 2 ^ 100 + u := by
        rw [Nat.cast_add, Nat.cast_sub hlu, hloR]
        ring
      have hne : within 2 lo (u - l) (-100) ≠ [] := within_log_ne_nil (by omega) (by omega) (by omega)
      have := withinUlps_pick .log x hne (by omega) (y := w + L) (hle_mul.2 (by linarith)) (hmul_le.2 (by linarith)) false
      rw [Fmt.signBit, if_neg Bool.false_ne_true, Nat.zero_add] at this
      rw [hlo]
      exact_mod_cast this
    · rw [hneg (by omega)]
      obtain ⟨hi, hhi⟩ := Int.eq_ofNat_of_zero_le (show 0 ≤ -(w * 2 ^ 100 + u) by omega)
      have hhiR : (hi : ℝ) = -(w * 2 ^ 100 + u) := by exact_mod_cast hhi.symm
      have hhil : ((hi + (u - l) : Nat) : ℝ) = -(w * 2 ^ 100 + l) := by
        rw [Nat.cast_add, Nat.cast_sub hlu, hhiR]
        ring
      have hne : within 2 hi (u - l) (-100) ≠ [] := within_log_ne_nil (by omega) (by omega) (by omega)
      have := withinUlps_pick .log x hne (by omega) (y := -(w + L)) (hle_mul.2 (by linarith)) (hmul_le.2 (by linarith)) true
      rw [signed_true, neg_neg] at this
      rw [show (w * 2 ^ 100 + u : Int).natAbs = hi by omega]
      exact_mod_cast this

/-- `VFLOG` of a finite value (R55, R56). -/
theorem vflog_spec {x : Word} {v : ℝ} (hx : IsValue fp32 x.toNat v) :
    (v < 0 → BitVec.ofNat 32 (vflog x) = 0x7FC00000) ∧
    (0 < v → WithinUlps 2 (Real.logb 2 v) (BitVec.ofNat 32 (vflog x)) ∧
      ∀ n : ℤ, v = (2 : ℝ) ^ n → IsValue fp32 (BitVec.ofNat 32 (vflog x)).toNat n) := by
  obtain ⟨m, e, hd, rfl, hm24, he, htop⟩ := decode_of_isValue hx
  generalize x.getLsbD 31 = s at *
  refine ⟨fun hneg => ?_, fun hpos => ?_⟩
  · obtain ⟨rfl, hm⟩ := signed_mul_zpow_neg hneg
    rw [vflog_of_negative hd hm]
    rfl
  · obtain ⟨rfl, hm⟩ := signed_mul_zpow_pos hpos
    exact vflog_pos_spec hd hm hm24 he htop

/-! ### Special inputs -/

/-- The rows of Table 3.7, of a function that gives encodings. -/
theorem specialRows_of {g : Word → Nat} {nan pinf minf pzero mzero : Word}
    (hnan : ∀ x : Word, fp32.decode x.toNat = .nan → g x = nan.toNat)
    (hpinf : g 0x7F800000 = pinf.toNat) (hminf : g 0xFF800000 = minf.toNat) (hpzero : g 0 = pzero.toNat)
    (hmzero : g 0x80000000 = mzero.toNat) : SpecialRows (fun x => BitVec.ofNat 32 (g x)) nan pinf minf pzero mzero := by
  have hofNat {x y : Word} (h : g x = y.toNat) : BitVec.ofNat 32 (g x) = y := by rw [h, BitVec.ofNat_toNat, BitVec.setWidth_eq]
  exact ⟨fun x hx => hofNat (hnan x hx), hofNat hpinf, hofNat hminf, hofNat hpzero, hofNat hmzero⟩

theorem specialRows_vfrcp : SpecialRows (fun x => BitVec.ofNat 32 (vfrcp x)) 0x7FC00000 0 0x80000000 0x7F800000 0xFF800000 :=
  specialRows_of (fun x hx => by rw [vfrcp, hx]; rfl) rfl rfl rfl rfl
theorem specialRows_vfrsq : SpecialRows (fun x => BitVec.ofNat 32 (vfrsq x)) 0x7FC00000 0 0x7FC00000 0x7F800000 0xFF800000 :=
  specialRows_of (fun x hx => by rw [vfrsq, hx]; rfl) rfl rfl rfl rfl
theorem specialRows_vfexp : SpecialRows (fun x => BitVec.ofNat 32 (vfexp x)) 0x7FC00000 0x7F800000 0 0x3F800000 0x3F800000 :=
  specialRows_of (fun x hx => by rw [vfexp, hx]; rfl) rfl rfl rfl rfl
theorem specialRows_vflog :
    SpecialRows (fun x => BitVec.ofNat 32 (vflog x)) 0x7FC00000 0x7F800000 0x7FC00000 0xFF800000 0xFF800000 :=
  specialRows_of (fun x hx => by rw [vflog, hx]; rfl) rfl rfl rfl rfl

end Sys2Proof.Machine

namespace Sys2Proof.Proofs
open Sys2Proof.Machine Sys2Proof.Claims

theorem vectorInPlace : VectorInPlace := by
  refine ⟨fun o s hu hw hwf => ⟨fun x => convert o.d x.toNat, fun x => converts_convert o.d x.toNat, ?_⟩,
    ⟨fun x => BitVec.ofNat 32 (vfrcp x), fun o s hu hw hwf => ?_, specialRows_vfrcp, fun x v hx hv => vfrcp_spec hx hv⟩,
    ⟨fun x => BitVec.ofNat 32 (vfrsq x), fun o s hu hw hwf => ?_, specialRows_vfrsq, fun x v hx => vfrsq_spec hx⟩,
    ⟨fun x => BitVec.ofNat 32 (vfexp x), fun o s hu hw hwf => ?_, specialRows_vfexp, fun x v hx hv => vfexp_spec hx hv⟩,
    ⟨fun x => BitVec.ofNat 32 (vflog x), fun o s hu hw hwf => ?_, specialRows_vflog, fun x v hx => vflog_spec hx⟩⟩
  · have hconvert (x : DWord) : BitVec.ofNat 32 (x.toNat % 2 ^ 32) = x.setWidth 32 := by
      apply BitVec.eq_of_toNat_eq
      simp
    have hbody := inPlaceV_ok (s := s) hw fun w => (convert o.d w.toNat).toNat % 2 ^ 32
    simp only [hconvert] at hbody
    exact word_ok hwf hu hbody
  · exact word_ok hwf hu (inPlaceV_ok hw vfrcp)
  · exact word_ok hwf hu (inPlaceV_ok hw vfrsq)
  · exact word_ok hwf hu (inPlaceV_ok hw vfexp)
  · exact word_ok hwf hu (inPlaceV_ok hw vflog)

/-- Settles O29: the lanes are the table's functions under M, conversions round or saturate once, and a special function's
candidates, of which one is chosen, stand within its bound because the fixed-point bounds enclose the exact value. -/
theorem vectorFloat : Obligations.VectorFloat := ⟨vectorFloatOperand, vectorInPlace⟩

end Sys2Proof.Proofs

/-! SUPPORT. The words of each format and their fields, what the decoder accepts, and that each instruction's words decode
to it; with this, O1 and O2. -/

namespace Sys2Proof
open Sys2Proof.Machine Sys2Proof.Claims

/-! ### Words and bytes -/

theorem wordOfBytes_bytesOfWord (w : Word) :
    wordOfBytes (w.extractLsb' 0 8) (w.extractLsb' 8 8) (w.extractLsb' 16 8) (w.extractLsb' 24 8) = w := by
  unfold wordOfBytes
  simp (disch := decide) only [BitVec.extractLsb'_append_extractLsb'_eq_extractLsb']
  exact BitVec.extractLsb'_eq_self
theorem bytesOfWord_wordOfBytes (b0 b1 b2 b3 : Byte) : bytesOfWord (wordOfBytes b0 b1 b2 b3) = [b0, b1, b2, b3] := by
  simp (disch := decide) only [bytesOfWord, wordOfBytes, BitVec.extractLsb'_append_eq_of_add_le,
    BitVec.extractLsb'_append_eq_of_le]
  simp

/-! ### The formats of Table 4.1

`encS major fn o` is `[sWord major fn o]`, and so for the other formats: a word is given by its fields, and has them. -/

/-- The S format (R59). -/
def sWord (m : BitVec 6) (f : BitVec 4) (o : SOp) : Word := m ++ f ++ o.p ++ bit o.i ++ o.w ++ o.sz ++ o.src ++ o.d
/-- The I format (R61). -/
def iWord (m : BitVec 6) (f : BitVec 4) (o : IOp) : Word := m ++ f ++ o.sh ++ o.mod ++ o.imm
/-- The C format (R64). -/
def cWord (m : BitVec 6) (f : BitVec 4) (o : COp) : Word := m ++ f ++ o.ch ++ o.lvl ++ o.tag ++ o.imm
/-- The E format (R66). -/
def eWord (m : BitVec 6) (f : BitVec 4) (o : EOp) : Word := m ++ f ++ o.pa ++ o.pb ++ bit o.i ++ o.w ++ o.row ++ o.imm
/-- The B format (R62). -/
def bWord (m : BitVec 6) (f : BitVec 4) (off : BitVec 22) : Word := m ++ f ++ off
/-- The Y format (R65). -/
def yWord (m : BitVec 6) (f : BitVec 6) (arg : BitVec 20) : Word := m ++ f ++ arg
/-- The Q format (R63). -/
def qWord (len : BitVec 4) (stag : BitVec 3) (cs : BitVec 1) (count : BitVec 18) : Word :=
  10#6 ++ len ++ stag ++ cs ++ count
/-- A prefix (R74), and a word that may follow one: of the I format, with sh and mod zero (R61). -/
def prefixWord (hi : BitVec 26) : Word := 1#6 ++ hi
def pairWord (m : BitVec 6) (f : BitVec 4) (lo : BitVec 16) : Word := m ++ f ++ 0#6 ++ lo

section
variable (m : BitVec 6) (f : BitVec 4)
@[simp] theorem fields_sWord (o : SOp) :
    majorOf (sWord m f o) = m ∧ fnOf (sWord m f o) = f ∧ sOpOf (sWord m f o) = o := by
  simp (disch := decide) only [majorOf, fnOf, sOpOf, sWord, BitVec.extractLsb'_append_eq_of_add_le,
    BitVec.extractLsb'_append_eq_of_le, BitVec.getLsbD_append]
  simp [bit]
@[simp] theorem fields_iWord (o : IOp) :
    majorOf (iWord m f o) = m ∧ fnOf (iWord m f o) = f ∧ iOpOf (iWord m f o) = o := by
  simp (disch := decide) only [majorOf, fnOf, iOpOf, iWord, BitVec.extractLsb'_append_eq_of_add_le,
    BitVec.extractLsb'_append_eq_of_le]
  simp
@[simp] theorem fields_cWord (o : COp) :
    majorOf (cWord m f o) = m ∧ fnOf (cWord m f o) = f ∧ cOpOf (cWord m f o) = o := by
  simp (disch := decide) only [majorOf, fnOf, cOpOf, cWord, BitVec.extractLsb'_append_eq_of_add_le,
    BitVec.extractLsb'_append_eq_of_le]
  simp
@[simp] theorem fields_eWord (o : EOp) :
    majorOf (eWord m f o) = m ∧ fnOf (eWord m f o) = f ∧ eOpOf (eWord m f o) = o := by
  simp (disch := decide) only [majorOf, fnOf, eOpOf, eWord, BitVec.extractLsb'_append_eq_of_add_le,
    BitVec.extractLsb'_append_eq_of_le, BitVec.getLsbD_append]
  simp [bit]
@[simp] theorem fields_bWord (off : BitVec 22) :
    majorOf (bWord m f off) = m ∧ fnOf (bWord m f off) = f ∧ offOf (bWord m f off) = off := by
  simp (disch := decide) only [majorOf, fnOf, offOf, bWord, BitVec.extractLsb'_append_eq_of_add_le,
    BitVec.extractLsb'_append_eq_of_le]
  simp
@[simp] theorem fields_yWord (f : BitVec 6) (arg : BitVec 20) :
    majorOf (yWord m f arg) = m ∧ fn6Of (yWord m f arg) = f ∧ argOf (yWord m f arg) = arg := by
  simp (disch := decide) only [majorOf, fn6Of, argOf, yWord, BitVec.extractLsb'_append_eq_of_add_le,
    BitVec.extractLsb'_append_eq_of_le]
  simp
@[simp] theorem fields_pairWord (lo : BitVec 16) : majorOf (pairWord m f lo) = m ∧ fnOf (pairWord m f lo) = f ∧
    (pairWord m f lo).extractLsb' 16 6 = 0#6 ∧ (pairWord m f lo).extractLsb' 0 16 = lo := by
  simp (disch := decide) only [majorOf, fnOf, pairWord, BitVec.extractLsb'_append_eq_of_add_le,
    BitVec.extractLsb'_append_eq_of_le]
  simp
end
@[simp] theorem fields_prefixWord (hi : BitVec 26) :
    majorOf (prefixWord hi) = 1#6 ∧ (prefixWord hi).extractLsb' 0 26 = hi := by
  simp (disch := decide) only [majorOf, prefixWord, BitVec.extractLsb'_append_eq_of_add_le,
    BitVec.extractLsb'_append_eq_of_le]
  simp

theorem bit_getLsbD (w : Word) (k : Nat) : bit (w.getLsbD k) = w.extractLsb' k 1 := by
  ext i hi
  obtain rfl : i = 0 := by omega
  simp [bit]

section
variable (w : Word)
theorem sWord_of_fields : sWord (majorOf w) (fnOf w) (sOpOf w) = w := by
  simp (disch := decide) only [sWord, majorOf, fnOf, sOpOf, bit_getLsbD,
    BitVec.extractLsb'_append_extractLsb'_eq_extractLsb']
  exact BitVec.extractLsb'_eq_self
theorem iWord_of_fields : iWord (majorOf w) (fnOf w) (iOpOf w) = w := by
  simp (disch := decide) only [iWord, majorOf, fnOf, iOpOf, BitVec.extractLsb'_append_extractLsb'_eq_extractLsb']
  exact BitVec.extractLsb'_eq_self
theorem cWord_of_fields : cWord (majorOf w) (fnOf w) (cOpOf w) = w := by
  simp (disch := decide) only [cWord, majorOf, fnOf, cOpOf, BitVec.extractLsb'_append_extractLsb'_eq_extractLsb']
  exact BitVec.extractLsb'_eq_self
theorem eWord_of_fields : eWord (majorOf w) (fnOf w) (eOpOf w) = w := by
  simp (disch := decide) only [eWord, majorOf, fnOf, eOpOf, bit_getLsbD,
    BitVec.extractLsb'_append_extractLsb'_eq_extractLsb']
  exact BitVec.extractLsb'_eq_self
theorem bWord_of_fields : bWord (majorOf w) (fnOf w) (offOf w) = w := by
  simp (disch := decide) only [bWord, majorOf, fnOf, offOf, BitVec.extractLsb'_append_extractLsb'_eq_extractLsb']
  exact BitVec.extractLsb'_eq_self
theorem yWord_of_fields : yWord (majorOf w) (fn6Of w) (argOf w) = w := by
  simp (disch := decide) only [yWord, majorOf, fn6Of, argOf, BitVec.extractLsb'_append_extractLsb'_eq_extractLsb']
  exact BitVec.extractLsb'_eq_self
variable {w}
theorem qWord_of_fields (hm : majorOf w = 10#6) :
    qWord (w.extractLsb' 22 4) (w.extractLsb' 19 3) (bit (w.getLsbD 18)) (w.extractLsb' 0 18) = w := by
  rw [qWord, ← hm, majorOf, bit_getLsbD]
  simp (disch := decide) only [BitVec.extractLsb'_append_extractLsb'_eq_extractLsb']
  exact BitVec.extractLsb'_eq_self
theorem prefixWord_of_fields (hx : majorOf w = 1) : prefixWord (w.extractLsb' 0 26) = w := by
  rw [prefixWord, ← BitVec.ofNat_eq_ofNat, ← hx, majorOf]
  simp (disch := decide) only [BitVec.extractLsb'_append_extractLsb'_eq_extractLsb']
  exact BitVec.extractLsb'_eq_self
theorem pairWord_of_fields (hz : w.extractLsb' 16 6 = 0) :
    pairWord (majorOf w) (fnOf w) (w.extractLsb' 0 16) = w := by
  rw [pairWord, ← BitVec.ofNat_eq_ofNat, ← hz, majorOf, fnOf]
  simp (disch := decide) only [BitVec.extractLsb'_append_extractLsb'_eq_extractLsb']
  exact BitVec.extractLsb'_eq_self
end

/-! ### The members of IALU and IALUI by function code (Table 5.3) -/

@[simp] theorem aluFnOf_code (f : AluFn) : aluFnOf f.code = f := by cases f <;> rfl
theorem code_aluFnOf (f : BitVec 4) : (aluFnOf f).code = f := by
  revert f
  decide
theorem encode_aluInstr (fn : AluFn) (o : SOp) : encode (aluInstr fn o) = [sWord 2 fn.code o] := by cases fn <;> rfl
theorem encode_aluImmInstr (fn : AluFn) (o : IOp) : encode (aluImmInstr fn o) = [iWord 3 fn.code o] := by cases fn <;> rfl
theorem decodeIalu_eq (w : Word) : decodeIalu w = some (aluInstr (aluFnOf (fnOf w)) (sOpOf w)) := by
  unfold decodeIalu aluFnOf
  split <;> rfl
theorem decodeIalui_eq (w : Word) : decodeIalui w = some (aluImmInstr (aluFnOf (fnOf w)) (iOpOf w)) := by
  unfold decodeIalui aluFnOf
  split <;> rfl

/-! ### Prefixed pairs and `RPT` -/

/-- The word that follows the prefix of a pair. -/
def PairOp.word : PairOp → BitVec 16 → Word
  | .alu f, lo => pairWord 3 f.code lo
  | .li, lo => pairWord 7 0 lo

section
variable (hi : BitVec 26) (op : PairOp) (lo : BitVec 16)
theorem encode_ximm : encode (.ximm hi op lo) = [prefixWord hi, op.word lo] := by cases op <;> rfl
theorem decodePair_word : decodePair (prefixWord hi) (op.word lo) = some (.ximm hi op lo) := by
  cases op <;> simp [decodePair, PairOp.word]
end
theorem encode_of_decodePair {x w : Word} {i : Instr} (hx : majorOf x = 1) (h : decodePair x w = some i) :
    encode i = [x, w] ∧ i.wf = true := by
  simp only [decodePair, beq_iff_eq, Bool.and_eq_true] at h
  split at h
  next hz =>
    split at h
    next hm =>
      cases h
      rw [encode_ximm, prefixWord_of_fields hx, PairOp.word, code_aluFnOf, ← hm, pairWord_of_fields hz]
      exact ⟨rfl, rfl⟩
    next =>
      split at h
      next hl =>
        cases h
        rw [encode_ximm, prefixWord_of_fields hx, PairOp.word, ← hl.1, ← hl.2, pairWord_of_fields hz]
        exact ⟨rfl, rfl⟩
      next => cases h
  next => cases h

section
variable (len : BitVec 4) (stag : BitVec 3) (cs : BitVec 1) (count : BitVec 18)
theorem decodeFamily_qWord : decodeFamily (qWord len stag cs count) =
    if cs.getLsbD 0 then if count = 0 then some (.rptA len stag) else none else some (.rpt len stag count) := by
  have hm : majorOf (qWord len stag cs count) = 10#6 := by
    simp (disch := decide) only [majorOf, qWord, BitVec.extractLsb'_append_eq_of_le]
    simp
  simp only [decodeFamily, hm]
  simp (disch := decide) only [decodeRpt, qWord, BitVec.extractLsb'_append_eq_of_add_le,
    BitVec.extractLsb'_append_eq_of_le, BitVec.getLsbD_append]
  simp
variable {len stag cs count} in
theorem encode_of_decodeFamily_qWord {i : Instr} (h : decodeFamily (qWord len stag cs count) = some i) :
    encode i = [qWord len stag cs count] := by
  rw [decodeFamily_qWord] at h
  obtain rfl | rfl := BitVec.eq_zero_or_eq_one cs
  · cases h
    rfl
  · obtain ⟨rfl, rfl⟩ : count = 0 ∧ .rptA len stag = i := by simpa using h
    rfl
end

/-! ### What the decoder accepts -/

theorem decodeWord_eq_some {w : Word} {i : Instr} : decodeWord w = some i ↔ decodeFamily w = some i ∧ i.wf = true :=
  Option.filter_eq_some_iff
theorem decode_bytesOfWord {w : Word} {i : Instr} (hw : majorOf w ≠ 1#6) (hd : decodeWord w = some i) (rest : List Byte) :
    decode (bytesOfWord w ++ rest) = .ok (i, 4) := by
  simp [decode, bytesOfWord, wordOfBytes_bytesOfWord, hw, hd]
theorem decode_bytesOfPair {x w : Word} {i : Instr} (hx : majorOf x = 1) (hd : decodePair x w = some i) (rest : List Byte) :
    decode (bytesOfWord x ++ bytesOfWord w ++ rest) = .ok (i, 8) := by
  simp [decode, bytesOfWord, wordOfBytes_bytesOfWord, hx, hd]
/-- Bytes that decode begin with a word of a family that passes the checks of R71, or with a prefix and its successor. -/
theorem decode_ok {bs : List Byte} {i : Instr} {n : Nat} (h : decode bs = .ok (i, n)) :
    (∃ w, decodeWord w = some i ∧ bs.take 4 = bytesOfWord w ∧ n = 4) ∨
      ∃ x w, majorOf x = 1 ∧ decodePair x w = some i ∧ bs.take 8 = bytesOfWord x ++ bytesOfWord w ∧ n = 8 := by
  revert h
  fun_cases decode bs
  case case1 word hx _ _ _ _ _ _ hd =>
    rintro ⟨⟩
    exact .inr ⟨_, _, hx, hd, by simp [bytesOfWord_wordOfBytes, word], rfl⟩
  case case4 word _ _ hd =>
    rintro ⟨⟩
    exact .inl ⟨_, hd, by simp [bytesOfWord_wordOfBytes, word], rfl⟩
  all_goals nofun

/-! ### Every word's encoding decodes to it -/

/-- An instruction that is no event is a pair, or has one word, which its family's decoder takes to it. -/
theorem encode_eq_ximm_or_word (i : Instr) (he : isEvent i = false) :
    (∃ hi op lo, i = .ximm hi op lo) ∨ ∃ w, encode i = [w] ∧ decodeFamily w = some i := by
  cases i with
  | ximm hi op lo => exact .inl ⟨hi, op, lo, rfl⟩
  | b cond off => exact .inr ⟨bWord _ cond off, rfl, by simp [decodeFamily]⟩
  | rpt len stag count => exact .inr ⟨qWord len stag 0 count, rfl, decodeFamily_qWord _ _ _ _⟩
  | rptA len stag => exact .inr ⟨qWord len stag 1 0, rfl, decodeFamily_qWord _ _ _ _⟩
  | add o | sub o | adc o | sbc o | and o | or o | xor o | andn o | min o | max o | minu o | maxu o | mul o | mulh o
    | mulhu o | cmp o => exact .inr ⟨sWord _ _ o, rfl, by simp [decodeFamily, decodeIalu]⟩
  | addImm o | subImm o | adcImm o | sbcImm o | andImm o | orImm o | xorImm o | andnImm o | minImm o | maxImm o
    | minuImm o | maxuImm o | mulImm o | mulhImm o | mulhuImm o | cmpImm o =>
    exact .inr ⟨iWord _ _ o, rfl, by simp [decodeFamily, decodeIalui]⟩
  | div o | divu o | rem o | remu o => exact .inr ⟨sWord _ _ o, rfl, by simp [decodeFamily, decodeIdiv]⟩
  | shl o | shr o | sra o | rol o | clz o | ctz o | popc o | brev o | bfx o | bfi o | sext o | zext o =>
    exact .inr ⟨iWord _ _ o, rfl, by simp [decodeFamily, decodeBits]⟩
  | ld o | ldx o | st o | pld o | pst o => exact .inr ⟨sWord _ _ o, rfl, by simp [decodeFamily, decodeLs]⟩
  | li o | pset o | pstride o | padd o | pmov o | pget o | pcmp o =>
    exact .inr ⟨iWord _ _ o, rfl, by simp [decodeFamily, decodePtr]⟩
  | j off | call off | ret off | ja off | calla off =>
    exact .inr ⟨bWord _ _ off, rfl, by simp [decodeFamily, decodeJmp]⟩
  | fadd o | fsub o | fmul o | fma o | fmin o | fmax o | fdiv o | fsqrt o | fcmp o | fcvt o | fsgn o =>
    exact .inr ⟨sWord _ _ o, rfl, by simp [decodeFamily, decodeFalu]⟩
  | vadd o | vsub o | vmul o | vmac o | vmin o | vmax o | vand o | vor o | vxor o | vshl o | vshr o | vsra o | vcmp o
    | vsel o => exact .inr ⟨sWord _ _ o, rfl, by simp [decodeFamily, decodeValu]⟩
  | vfadd o | vfsub o | vfmul o | vfma o | vfmin o | vfmax o | vfcmp o | vfcvt o | vfrcp o | vfrsq o | vfexp o
    | vflog o => exact .inr ⟨sWord _ _ o, rfl, by simp [decodeFamily, decodeVfpu]⟩
  | vld o | vst o | vsplat o | vext o | vins o | vperm o | vsum o | vmaxr o | vmask o | vslide o =>
    exact .inr ⟨sWord _ _ o, rfl, by simp [decodeFamily, decodeVdata]⟩
  | send o | sendv o | recv o | peek o | offer o | pull o | hret o | tagset o | tagclr o =>
    exact .inr ⟨cWord _ _ o, rfl, by simp [decodeFamily, decodeMsg]⟩
  | chr o | chw o | chwv o | chst o => exact .inr ⟨cWord _ _ o, rfl, by simp [decodeFamily, decodeChan]⟩
  | barw o | bart o | pause o | waitq o | yield o | stkh o | align o =>
    exact .inr ⟨cWord _ _ o, rfl, by simp [decodeFamily, decodeSync]⟩
  | circ o | rank o | tree o => exact .inr ⟨cWord _ _ o, rfl, by simp [decodeFamily, decodeFabric]⟩
  | rld o | rldAcq o | rst o | rstRel o | rldv o | rstv o =>
    exact .inr ⟨sWord _ _ o, rfl, by simp [decodeFamily, decodeRemote]⟩
  | aadd o | aand o | aor o | axor o | amin o | amax o | aminu o | amaxu o | aswp o | acas o =>
    exact .inr ⟨sWord _ _ o, rfl, by simp [decodeFamily, decodeAmo]⟩
  | fence arg | waitc arg | gtag arg | gnew arg =>
    exact .inr ⟨yWord _ _ arg, rfl, by simp [decodeFamily, decodeOrder]⟩
  | pcfg o | pdot o | ppack o | punpk o => exact .inr ⟨eWord _ _ o, rfl, by simp [decodeFamily, decodePlane]⟩
  | maclm o | marel o | mard o | mawm o | maclr o => exact .inr ⟨eWord _ _ o, rfl, by simp [decodeFamily, decodeMacc]⟩
  | cpy o | cpyq o | inbox o => exact .inr ⟨eWord _ _ o, rfl, by simp [decodeFamily, decodeCopy]⟩
  | grnw o | grn o => exact .inr ⟨eWord _ _ o, rfl, by simp [decodeFamily, decodeGran]⟩
  | coll o | collw o => exact .inr ⟨cWord _ _ o, rfl, by simp [decodeFamily, decodeColl]⟩
  | trap arg | sysc arg | eret arg | gets arg | sets arg | exit arg | launch arg | wdog arg | metr arg | plbw arg
    | plbi arg | halt arg => exact .inr ⟨yWord _ _ arg, rfl, by simp [decodeFamily, decodeSys]⟩
  | _ => cases he

/-! ### What a word decodes to encodes as that word

The major alone fixes the format (R58). In each family of a format, the function code that a member decodes from is the one
that it encodes with, and its operand is the word's fields. -/

/-- The majors of each format (Table 4.2), but for 1, the prefix, and 10, the Q format. -/
def sMajors : List (BitVec 6) := [2#6, 4#6, 6#6, 12#6, 13#6, 14#6, 15#6, 20#6, 21#6]
def iMajors : List (BitVec 6) := [3#6, 5#6, 7#6]
def cMajors : List (BitVec 6) := [16#6, 17#6, 18#6, 19#6, 28#6]
def eMajors : List (BitVec 6) := [24#6, 25#6, 26#6, 27#6]
def yMajors : List (BitVec 6) := [22#6, 32#6]
def bMajors : List (BitVec 6) := [8#6, 9#6]

section
variable {w : Word} {i : Instr} (h : decodeFamily w = some i)
include h

theorem majorOf_ne_one_of_decodeFamily : majorOf w ≠ 1#6 := by
  intro hm
  simp [decodeFamily, hm] at h
theorem major_of_decodeFamily : majorOf w ∈ sMajors ∨ majorOf w ∈ iMajors ∨ majorOf w ∈ cMajors ∨ majorOf w ∈ eMajors ∨
    majorOf w ∈ yMajors ∨ majorOf w ∈ bMajors ∨ majorOf w = 10#6 := by
  unfold decodeFamily at h
  split at h
  on_goal -1 => cases h
  all_goals
    rw [‹majorOf w = _›]
    decide

theorem encode_of_sMajor (hm : majorOf w ∈ sMajors) : encode i = [sWord (majorOf w) (fnOf w) (sOpOf w)] := by
  simp only [sMajors, List.mem_cons, List.not_mem_nil, or_false] at hm
  rcases hm with hm | hm | hm | hm | hm | hm | hm | hm | hm <;>
    simp only [decodeFamily, hm, decodeIalu_eq, decodeIdiv, decodeLs, decodeFalu, decodeValu, decodeVfpu, decodeVdata,
      decodeRemote, decodeAmo] at h
  · cases h
    rw [encode_aluInstr, code_aluFnOf, hm]
    rfl
  all_goals split at h <;> cases h
  all_goals
    rw [hm, ‹fnOf w = _›]
    rfl
theorem encode_of_iMajor (hm : majorOf w ∈ iMajors) : encode i = [iWord (majorOf w) (fnOf w) (iOpOf w)] := by
  simp only [iMajors, List.mem_cons, List.not_mem_nil, or_false] at hm
  rcases hm with hm | hm | hm <;> simp only [decodeFamily, hm, decodeIalui_eq, decodeBits, decodePtr] at h
  · cases h
    rw [encode_aluImmInstr, code_aluFnOf, hm]
    rfl
  all_goals split at h <;> cases h
  all_goals
    rw [hm, ‹fnOf w = _›]
    rfl
theorem encode_of_cMajor (hm : majorOf w ∈ cMajors) : encode i = [cWord (majorOf w) (fnOf w) (cOpOf w)] := by
  simp only [cMajors, List.mem_cons, List.not_mem_nil, or_false] at hm
  rcases hm with hm | hm | hm | hm | hm <;>
    simp only [decodeFamily, hm, decodeMsg, decodeChan, decodeSync, decodeFabric, decodeColl] at h
  all_goals split at h <;> cases h
  all_goals
    rw [hm, ‹fnOf w = _›]
    rfl
theorem encode_of_eMajor (hm : majorOf w ∈ eMajors) : encode i = [eWord (majorOf w) (fnOf w) (eOpOf w)] := by
  simp only [eMajors, List.mem_cons, List.not_mem_nil, or_false] at hm
  rcases hm with hm | hm | hm | hm <;> simp only [decodeFamily, hm, decodePlane, decodeMacc, decodeCopy, decodeGran] at h
  all_goals split at h <;> cases h
  all_goals
    rw [hm, ‹fnOf w = _›]
    rfl
theorem encode_of_yMajor (hm : majorOf w ∈ yMajors) : encode i = [yWord (majorOf w) (fn6Of w) (argOf w)] := by
  simp only [yMajors, List.mem_cons, List.not_mem_nil, or_false] at hm
  rcases hm with hm | hm <;> simp only [decodeFamily, hm, decodeOrder, decodeSys] at h
  all_goals split at h <;> cases h
  all_goals
    rw [hm, ‹fn6Of w = _›]
    rfl
theorem encode_of_bMajor (hm : majorOf w ∈ bMajors) : encode i = [bWord (majorOf w) (fnOf w) (offOf w)] := by
  simp only [bMajors, List.mem_cons, List.not_mem_nil, or_false] at hm
  rcases hm with hm | hm <;> simp only [decodeFamily, hm, decodeJmp] at h
  · cases h
    rw [hm]
    rfl
  · split at h <;> cases h
    all_goals
      rw [hm, ‹fnOf w = _›]
      rfl
theorem encode_of_rpt (hm : majorOf w = 10#6) : encode i = [w] := by
  rw [← qWord_of_fields hm] at h ⊢
  exact encode_of_decodeFamily_qWord h

/-- What a family's decoder accepts encodes as the word that it read. -/
theorem encode_of_decodeFamily : encode i = [w] := by
  rcases major_of_decodeFamily h with hm | hm | hm | hm | hm | hm | hm
  · rw [encode_of_sMajor h hm, sWord_of_fields]
  · rw [encode_of_iMajor h hm, iWord_of_fields]
  · rw [encode_of_cMajor h hm, cWord_of_fields]
  · rw [encode_of_eMajor h hm, eWord_of_fields]
  · rw [encode_of_yMajor h hm, yWord_of_fields]
  · rw [encode_of_bMajor h hm, bWord_of_fields]
  · exact encode_of_rpt h hm

end

/-! ### The bytes of an instruction -/

theorem encodeBytes_word {i : Instr} {w : Word} (h : encode i = [w]) : encodeBytes i = bytesOfWord w := by
  simp [encodeBytes, h]
theorem encodeBytes_pair {i : Instr} {x w : Word} (h : encode i = [x, w]) :
    encodeBytes i = bytesOfWord x ++ bytesOfWord w := by
  simp [encodeBytes, h]
theorem isEvent_of_encode {i : Instr} {w : Word} {r : List Word} (h : encode i = w :: r) : isEvent i = false := by
  simp [isEvent, h]

end Sys2Proof

namespace Sys2Proof.Proofs
open Sys2Proof.Machine Sys2Proof.Claims

/-- Settles O1: a pair's two words and any other instruction's word carry their fields, and each decoder reads them back. -/
theorem encodeDecode : Obligations.EncodeDecode := by
  intro i rest hwf he
  obtain ⟨hi, op, lo, rfl⟩ | ⟨w, hw, hd⟩ := encode_eq_ximm_or_word i he
  · rw [encodeBytes_pair (encode_ximm hi op lo)]
    exact decode_bytesOfPair (fields_prefixWord hi).1 (decodePair_word hi op lo) rest
  · rw [encodeBytes_word hw]
    exact decode_bytesOfWord (majorOf_ne_one_of_decodeFamily hd) (decodeWord_eq_some.2 ⟨hd, hwf⟩) rest

/-- Settles O2: the families of each format keep every field of the word that they accept. -/
theorem decodeEncode : Obligations.DecodeEncode := by
  intro bs i n h
  obtain ⟨w, hd, hbs, rfl⟩ | ⟨x, w, hx, hd, hbs, rfl⟩ := decode_ok h
  · obtain ⟨hf, hwf⟩ := decodeWord_eq_some.1 hd
    have he := encode_of_decodeFamily hf
    exact ⟨hwf, isEvent_of_encode he, (encodeBytes_word he).trans hbs.symm, .inl rfl⟩
  · obtain ⟨he, hwf⟩ := encode_of_decodePair hx hd
    exact ⟨hwf, isEvent_of_encode he, (encodeBytes_pair he).trans hbs.symm, .inr rfl⟩

end Sys2Proof.Proofs

/-! SUPPORT. The members of IALU give Table 5.3's results, and the immediates are those of Table 4.4; with this, O5. -/

namespace Sys2Proof.Machine
open Sys2Proof.Claims

/-! ### The members of IALU (Table 5.3) -/

theorem ovf64_eq (x : Int) : ovf64 x = outside64 x :=
  congrArg (_ || ·) (decide_eq_decide.2 (by omega))

section
variable {w : Nat} (a x : BitVec w)

theorem min_eq_slt : (if a.toInt ≤ x.toInt then a else x) = if x.slt a then x else a := by
  simp only [BitVec.slt_iff_toInt_lt, ← not_le, ite_not]
theorem max_eq_slt : (if a.toInt ≤ x.toInt then x else a) = if a.slt x then x else a := by
  simp only [BitVec.slt_iff_toInt_lt]
  rcases lt_trichotomy a.toInt x.toInt with h | h | h
  · rw [if_pos h.le, if_pos h]
  · rw [BitVec.eq_of_toInt_eq h, ite_self, ite_self]
  · rw [if_neg h.not_ge, if_neg h.not_gt]
theorem minu_eq_ult : (if a.toNat ≤ x.toNat then a else x) = if x.ult a then x else a := by
  simp only [BitVec.ult_iff_lt, BitVec.lt_def, ← not_le, ite_not]
theorem maxu_eq_ult : (if a.toNat ≤ x.toNat then x else a) = if a.ult x then x else a := by
  simp only [BitVec.ult_iff_lt, BitVec.lt_def]
  rcases lt_trichotomy a.toNat x.toNat with h | h | h
  · rw [if_pos h.le, if_pos h]
  · rw [BitVec.eq_of_toNat_eq h, ite_self, ite_self]
  · rw [if_neg h.not_ge, if_neg h.not_gt]
end

section
variable (a x : DWord)

theorem addWith_eq (c : Bool) :
    addWith a x c = (a + x + (if c then 1 else 0), decide (2 ^ 64 ≤ a.toNat + x.toNat + c.toNat),
      outside64 (a.toInt + x.toInt + c.toNat)) := by
  rw [addWith, ovf64_eq]
  congr 1
  apply BitVec.eq_of_toNat_eq
  cases c <;> simp
theorem addWith_false :
    addWith a x false = (a + x, decide (2 ^ 64 ≤ a.toNat + x.toNat), outside64 (a.toInt + x.toInt)) := by
  simp [addWith_eq]
theorem subWith_not (c : Bool) :
    subWith a x (!c) = (a - x - (if c then 0 else 1), decide (x.toNat + (!c).toNat ≤ a.toNat),
      outside64 (a.toInt - x.toInt - (!c).toNat)) := by
  rw [subWith, ovf64_eq]
  congr 1
  · rw [Int.sub_eq_add_neg, Int.sub_eq_add_neg, BitVec.ofInt_add, BitVec.ofInt_add, BitVec.ofInt_neg, BitVec.ofInt_neg]
    simp only [BitVec.ofInt_natCast, BitVec.ofNat_toNat, BitVec.setWidth_eq, BitVec.sub_eq_add_neg]
    cases c <;> rfl
  · congr 1
    exact decide_eq_decide.2 (by omega)
theorem subWith_false : subWith a x false = (a - x, decide (x.toNat ≤ a.toNat), outside64 (a.toInt - x.toInt)) := by
  simpa using subWith_not a x true

theorem ofInt_toInt_mul : BitVec.ofInt 64 (a.toInt * x.toInt) = a * x := by
  rw [BitVec.ofInt_mul, BitVec.ofInt_toInt, BitVec.ofInt_toInt]
theorem ofInt_ediv_two_pow (z : Int) : BitVec.ofInt 64 (z / 2 ^ 64) = (BitVec.ofInt 128 z >>> 64).setWidth 64 := by
  apply BitVec.eq_of_toNat_eq
  rw [BitVec.toNat_setWidth, BitVec.toNat_ushiftRight, Nat.shiftRight_eq_div_pow, BitVec.toNat_ofInt, BitVec.toNat_ofInt]
  omega
theorem mulh_eq : BitVec.ofInt 64 (a.toInt * x.toInt / 2 ^ 64) =
    ((a.signExtend 128 * x.signExtend 128) >>> 64).setWidth 64 := by
  rw [ofInt_ediv_two_pow, BitVec.ofInt_mul]
  rfl
theorem mulhu_eq : BitVec.ofNat 64 (a.toNat * x.toNat / 2 ^ 64) =
    ((a.zeroExtend 128 * x.zeroExtend 128) >>> 64).setWidth 64 := by
  have hlt : a.toNat * x.toNat < 2 ^ 64 * 2 ^ 64 := Nat.mul_lt_mul'' a.isLt x.isLt
  have hprod : (a.zeroExtend 128 * x.zeroExtend 128).toNat = a.toNat * x.toNat := by
    simp
    omega
  apply BitVec.eq_of_toNat_eq
  rw [BitVec.toNat_setWidth, BitVec.toNat_ushiftRight, hprod, Nat.shiftRight_eq_div_pow, BitVec.toNat_ofNat]
end

/-- The model's A and flags after a member are those of the table. -/
theorem result_eq_aluBank (fn : AluFn) (x : DWord) (b : Bank) :
    fn.result b.a x b.f = ((aluBank fn x b).a, (aluBank fn x b).f) := by
  cases fn with
  | add => exact congrArg (nzcvResult · b.f) (addWith_false b.a x)
  | sub => exact congrArg (nzcvResult · b.f) (subWith_false b.a x)
  | adc => exact congrArg (nzcvResult · b.f) (addWith_eq b.a x b.f.c)
  | sbc => exact congrArg (nzcvResult · b.f) (subWith_not b.a x b.f.c)
  | and | or | xor | andn => rfl
  | min => exact congrArg (nzResult · b.f) (min_eq_slt b.a x)
  | max => exact congrArg (nzResult · b.f) (max_eq_slt b.a x)
  | minu => exact congrArg (nzResult · b.f) (minu_eq_ult b.a x)
  | maxu => exact congrArg (nzResult · b.f) (maxu_eq_ult b.a x)
  | mul =>
    simp only [AluFn.result, ofInt_toInt_mul, ovf64_eq]
    rfl
  | mulh =>
    simp only [AluFn.result, mulh_eq]
    rfl
  | mulhu =>
    simp only [AluFn.result, mulhu_eq]
    rfl
  | cmp =>
    simp only [AluFn.result, subWith_false]
    rfl

theorem setAF_result (fn : AluFn) (x : DWord) (s : State) :
    setAF s (fn.result s.bank.a x s.bank.f) = s.setBank (aluBank fn x s.bank) := by
  rw [result_eq_aluBank]
  rfl
theorem aluImmBody_ok (fn : AluFn) (x : DWord) (s : State) : aluImmBody fn x s = .ok (s.setBank (aluBank fn x s.bank)) := by
  rw [aluImmBody, setAF_result]

/-! ### Immediates (Table 4.4) -/

theorem shiftLeft_ofInt {w : Nat} (x : Int) (n : Nat) : BitVec.ofInt w x <<< n = BitVec.ofInt w (x * 2 ^ n) := by
  rw [BitVec.ofInt_mul, BitVec.shiftLeft_eq_mul_twoPow]
  congr 1
  apply BitVec.eq_of_toNat_eq
  rw [BitVec.toNat_twoPow, BitVec.toNat_ofInt]
  norm_cast
theorem imm64_eq (o : IOp) : o.imm64 = immValue o := by
  rw [immValue, ← shiftLeft_ofInt, IOp.imm64]
  congr 1
  split
  · rw [BitVec.ofInt_natCast, BitVec.ofNat_toNat, BitVec.zeroExtend]
  · rfl
theorem pairImm_eq (hi : BitVec 26) (lo : BitVec 16) : pairImm hi lo = pairValue hi lo := by
  rw [pairImm, pairValue, BitVec.signExtend, BitVec.toInt_append]
  simp [mul_comm]

/-! ### Where a pair may stand (R76, R78) -/

section
variable {b : Bank}

theorem pairPlace_ok (he : b.pc.toNat % 4096 ≠ 4095) (hr : b.rpt.count = 0 ∨ b.rpt.idx ≠ b.rpt.len) :
    pairPlace b = .ok () := by
  rw [pairPlace, if_neg (mt (segmentEnd_iff _).1 he), if_neg (by tauto)]
theorem pairPlace_segmentEnd (he : b.pc.toNat % 4096 = 4095) :
    pairPlace b = .error (.trap (plainTrap 0x08 (b.pc.toNat + 1))) :=
  if_pos ((segmentEnd_iff _).2 he)
theorem pairPlace_bodyEnd (he : b.pc.toNat % 4096 ≠ 4095) (hc : b.rpt.count ≠ 0) (hi : b.rpt.idx = b.rpt.len) :
    pairPlace b = .error (.trap (plainTrap 0x01 (b.pc.toNat + 1))) := by
  rw [pairPlace, if_neg (mt (segmentEnd_iff _).1 he), if_pos ⟨hc, hi⟩, mkTrap_eq_plainTrap]
  rfl
end

/-! ### The instructions -/

theorem exec_aluImmInstr (fn : AluFn) (o : IOp) (s : State) :
    exec (aluImmInstr fn o) s = word (aluImmInstr fn o) useAF s (aluImmBody fn o.imm64) := by
  cases fn <;> rfl

section
variable (hi : BitVec 26) (op : PairOp) (lo : BitVec 16) (s : State)
/-- The successor's effect, with the pair's immediate. -/
def pairBody : Body :=
  match op with
  | .li => liBody (pairImm hi lo) s
  | .alu f => aluImmBody f (pairImm hi lo) s
theorem exec_ximm : exec (.ximm hi op lo) s =
    runWord (.ximm hi op lo) useAF s (advance true) fun s => pairPlace s.bank >>= fun _ => pairBody hi op lo s := rfl
end

end Sys2Proof.Machine

namespace Sys2Proof.Proofs
open Sys2Proof.Machine Sys2Proof.Claims

theorem aluImmediate : AluImmediate := by
  refine ⟨fun fn o s hwf hu => ?_, fun o s hwf hu => ?_, fun hi op lo s hwf hu he hr => ?_⟩
  · exact (exec_aluImmInstr fn o s).trans (word_ok hwf hu (imm64_eq o ▸ aluImmBody_ok fn _ s))
  · exact word_ok hwf hu (congrArg (liBody · s) (imm64_eq o))
  · refine (exec_ximm hi op lo s).trans (runWord_ok hwf hu ?_)
    rw [pairPlace_ok he hr, bind_ok]
    cases op with
    | li => exact congrArg (liBody · s) (pairImm_eq hi lo)
    | alu f => exact (congrArg (aluImmBody f · s) (pairImm_eq hi lo)).trans (aluImmBody_ok f _ s)

theorem pairPlacement : PairPlacement := by
  intro hi op lo s hwf hu
  refine ⟨fun he => ?_, fun he hc hx => ?_⟩
  · refine (exec_ximm hi op lo s).trans (runWord_trap hwf hu ?_)
    rw [pairPlace_segmentEnd he, bind_error]
  · refine (exec_ximm hi op lo s).trans (runWord_trap hwf hu ?_)
    rw [pairPlace_bodyEnd he hc hx, bind_error]

/-- Settles O5: the members' results are the table's, with the immediate of Table 4.4, and a pair's place is checked first. -/
theorem integerImmediate : Obligations.IntegerImmediate := ⟨aluImmediate, pairPlacement⟩

end Sys2Proof.Proofs

/-! SUPPORT. An operand extended to 64 bits is the number that its low bytes hold; with this, O4. -/

namespace Sys2Proof.Machine
open Sys2Proof.Claims

theorem widen_signed {n : Nat} (hn : 0 < n) (x : DWord) : widen true n x = (x.extractLsb' 0 (8 * n)).signExtend 64 := by
  have hp : 2 ^ (8 * n) = 2 * 2 ^ (8 * n - 1) := by rw [← Nat.pow_succ']; congr 1; omega
  simp only [widen, Bool.true_and, decide_eq_true_eq, BitVec.signExtend, BitVec.toInt_eq_toNat_cond, BitVec.extractLsb'_toNat,
    Nat.shiftRight_zero]
  split
  next h => rw [if_neg (by omega)]; norm_cast
  next h => rw [if_pos (by omega), BitVec.ofInt_natCast]
theorem widen_unsigned (n : Nat) (x : DWord) : widen false n x = (x.extractLsb' 0 (8 * n)).zeroExtend 64 := by
  apply BitVec.eq_of_toNat_eq
  simp [widen]

theorem sextN_eq_widen (sz : BitVec 2) (x : DWord) : sextN (sizeOf2 sz) x = widen true (bytesOfSize sz) x := by
  obtain rfl | rfl | rfl | rfl : sz = 0 ∨ sz = 1 ∨ sz = 2 ∨ sz = 3 := by revert sz; decide
  · exact (widen_signed one_pos x).symm
  · exact (widen_signed two_pos x).symm
  · exact (widen_signed four_pos x).symm
  · change x = widen true 8 x
    simp [widen_signed]
theorem zextN_eq_widen (sz : BitVec 2) (x : DWord) : zextN (sizeOf2 sz) x = widen false (bytesOfSize sz) x := by
  obtain rfl | rfl | rfl | rfl : sz = 0 ∨ sz = 1 ∨ sz = 2 ∨ sz = 3 := by revert sz; decide
  · exact (widen_unsigned 1 x).symm
  · exact (widen_unsigned 2 x).symm
  · exact (widen_unsigned 4 x).symm
  · change x = widen false 8 x
    simp [widen_unsigned]
theorem extN_eq_widen (signed : Bool) (sz : BitVec 2) (x : DWord) :
    extN signed (sizeOf2 sz) x = widen signed (bytesOfSize sz) x := by
  cases signed
  · exact zextN_eq_widen sz x
  · exact sextN_eq_widen sz x

theorem signed_eq_aluSext (fn : AluFn) : fn.signed = aluSext fn := by cases fn <;> rfl

theorem aluBody_ok {o : SOp} {s : State} {x : DWord} (hw : CounterZero o.w s) (fn : AluFn)
    (hx : srcRead o (o.ea s.bank) (sizeOf2 o.sz) s = .ok x) :
    aluBody fn o s = .ok (srcDone o false (s.setBank (aluBank fn (widen (aluSext fn) (bytesOfSize o.sz) x) s.bank))) := by
  simp only [aluBody, holdW_of_counterZero hw, hx, bind_ok, setAF_result, extN_eq_widen, signed_eq_aluSext]

end Sys2Proof.Machine

namespace Sys2Proof.Proofs
open Sys2Proof.Machine Sys2Proof.Claims

/-- Settles O4: the operand that can be read is extended, and the member's result on it is the table's. -/
theorem integerOperand : Obligations.IntegerOperand := by
  intro fn o s x hwf hu hw hx
  have hx := srcRead_of_scalarSource (sizeOf2_eq_bytesOfSize o.sz ▸ hx)
  exact (exec_aluInstr fn o s).trans (word_ok hwf hu (aluBody_ok hw fn hx))

end Sys2Proof.Proofs

/-! SUPPORT. Quotients and remainders of signed and unsigned words; with this, O6. -/

namespace Sys2Proof.Machine
open Sys2Proof.Claims

section
variable {w : Nat} (a x : BitVec w)

theorem ofInt_tdiv : BitVec.ofInt w (a.toInt.tdiv x.toInt) = a.sdiv x := by
  apply BitVec.eq_of_toInt_eq
  rw [BitVec.toInt_ofInt, BitVec.toInt_sdiv]
theorem ofInt_tmod : BitVec.ofInt w (a.toInt.tmod x.toInt) = a.srem x := by
  rw [← BitVec.toInt_srem, BitVec.ofInt_toInt]
theorem ofNat_div : BitVec.ofNat w (a.toNat / x.toNat) = a / x := by
  rw [← BitVec.toNat_udiv, BitVec.ofNat_toNat, BitVec.setWidth_eq]
theorem ofNat_mod : BitVec.ofNat w (a.toNat % x.toNat) = a % x := by
  rw [← BitVec.toNat_umod, BitVec.ofNat_toNat, BitVec.setWidth_eq]
end

theorem toInt_eq_least_iff (a : DWord) : a.toInt = -9223372036854775808 ↔ a = BitVec.intMin 64 :=
  BitVec.toInt_inj (y := BitVec.intMin 64)
theorem toInt_eq_neg_one_iff (x : DWord) : x.toInt = -1 ↔ x = BitVec.allOnes 64 :=
  BitVec.toInt_inj (y := BitVec.allOnes 64)

theorem divide_eq_quotRem (signed : Bool) (a x : DWord) : divide signed a x = quotRem signed a x := by
  simp only [divide, quotRem, toInt_eq_least_iff, toInt_eq_neg_one_iff, ofInt_tdiv, ofInt_tmod, ofNat_div, ofNat_mod]
  cases signed with
  | false => rfl
  | true =>
    simp only [Bool.true_and, Bool.and_eq_true, beq_iff_eq]
    rfl

/-- The model's A and flags after a division are those of R87. -/
theorem setAF_divResult (fn : DivFn) (x : DWord) (s : State) :
    setAF s (fn.result s.bank.a x s.bank.f) = s.setBank (divBank fn x s.bank) := by
  simp only [DivFn.result, divide_eq_quotRem]
  cases fn <;> rfl

theorem divBody_ok {o : SOp} {s : State} {x : DWord} (hw : CounterZero o.w s) (fn : DivFn)
    (hx : srcRead o (o.ea s.bank) (sizeOf2 o.sz) s = .ok x) :
    divBody fn o s = .ok (srcDone o false
      (s.setBank (divBank fn (widen (fn = .div ∨ fn = .rem) (bytesOfSize o.sz) x) s.bank))) := by
  have hs : fn.signed = decide (fn = .div ∨ fn = .rem) := by cases fn <;> rfl
  simp only [divBody, holdW_of_counterZero hw, hx, bind_ok, setAF_divResult, extN_eq_widen, hs]

end Sys2Proof.Machine

namespace Sys2Proof.Proofs
open Sys2Proof.Machine Sys2Proof.Claims

/-- Settles O6: the model divides by cases on the divisor as R87 does, and its quotients are those of the words. -/
theorem division : Obligations.Division := by
  intro fn o s x hwf hu hw hx
  have hx := srcRead_of_scalarSource (sizeOf2_eq_bytesOfSize o.sz ▸ hx)
  exact (exec_divInstr fn o s).trans (word_ok hwf hu (divBody_ok hw fn hx))

end Sys2Proof.Proofs

/-! SUPPORT. Bits of shifts, fields and counts; with this, O7. -/

namespace Sys2Proof.Machine
open Sys2Proof.Claims

/-! ### Counts -/

theorem clzFrom_spec (x : DWord) (n : Nat) :
    clzFrom x n ≤ n ∧ (∀ j < n, n - clzFrom x n ≤ j → x.getLsbD j = false) ∧
    (clzFrom x n < n → x.getLsbD (n - 1 - clzFrom x n) = true) := by
  induction n with
  | zero => simp [clzFrom]
  | succ n ih =>
    obtain ⟨hle, hzero, hone⟩ := ih
    rw [clzFrom]
    split
    next h => exact ⟨by omega, fun j _ _ => by omega, fun _ => h⟩
    next h =>
      refine ⟨by omega, fun j hj hc => ?_, fun hc => ?_⟩
      · rcases Nat.lt_succ_iff_lt_or_eq.1 hj with hj | rfl
        · exact hzero j hj (by omega)
        · simpa using h
      · rw [← hone (by omega)]
        congr 1
        omega

theorem ctzFrom_spec (x : DWord) {n : Nat} (hn : n ≤ 64) :
    ctzFrom x n ≤ n ∧ (∀ j < ctzFrom x n, x.getLsbD (64 - n + j) = false) ∧
    (ctzFrom x n < n → x.getLsbD (64 - n + ctzFrom x n) = true) := by
  induction n with
  | zero => simp [ctzFrom]
  | succ n ih =>
    obtain ⟨hle, hzero, hone⟩ := ih (by omega)
    have hfirst : 64 - (n + 1) = 63 - n := by omega
    rw [ctzFrom, hfirst]
    split
    next h => exact ⟨by omega, fun j hj => by omega, fun _ => h⟩
    next h =>
      have hnext (j : Nat) : 63 - n + (j + 1) = 64 - n + j := by omega
      refine ⟨by omega, fun j hj => ?_, fun hc => ?_⟩
      · cases j with
        | zero => simpa using h
        | succ j => exact hnext j ▸ hzero j (by omega)
      · rw [Nat.add_comm 1, hnext]
        exact hone (by omega)

theorem popFrom_eq_countP (x : DWord) (n : Nat) : popFrom x n = (List.range n).countP fun j => x.getLsbD j := by
  induction n with
  | zero => rfl
  | succ n ih =>
    rw [popFrom, ih, List.range_succ, List.countP_append, List.countP_singleton, Nat.add_comm]
    cases x.getLsbD n <;> rfl

/-! ### Reversal -/

/-- The reversed low bits stand at the top of the 64. -/
theorem revFrom_spec (x : DWord) {n : Nat} (hn : n ≤ 64) :
    ∃ q, revFrom x n = 2 ^ (64 - n) * q ∧ ∀ j < n, q.testBit j = x.getLsbD (n - 1 - j) := by
  induction n with
  | zero => exact ⟨0, rfl, fun _ h => absurd h (Nat.not_lt_zero _)⟩
  | succ n ih =>
    obtain ⟨q, hq, hbit⟩ := ih (by omega)
    refine ⟨Nat.bit (x.getLsbD n) q, ?_, fun j hj => ?_⟩
    · have h64 : 2 ^ (64 - n) = 2 ^ (63 - n) * 2 := by rw [← Nat.pow_succ]; congr 1; omega
      rw [revFrom, hq, h64, Nat.bit_val, show 64 - (n + 1) = 63 - n by omega]
      ring
    · cases j with
      | zero => exact Nat.testBit_bit_zero _ _
      | succ j =>
        rw [Nat.testBit_bit_succ, hbit j (by omega)]
        congr 1
        omega

theorem getLsbD_brev64 (x : DWord) {j : Nat} (hj : j < 64) : (brev64 x).getLsbD j = x.getLsbD (63 - j) := by
  obtain ⟨q, hq, hbit⟩ := revFrom_spec x (le_refl 64)
  rw [brev64, hq, BitVec.getLsbD_ofNat, Nat.sub_self, Nat.pow_zero, Nat.one_mul, hbit j hj]
  simp [hj]

/-! ### Shifts, fields and extensions -/

section
variable (a : DWord) {j : Nat} (hj : j < 64)
include hj

theorem getLsbD_rotate {n : Nat} (hn : n < 64) : (a.rotateLeft n).getLsbD j = a.getLsbD ((j + 64 - n) % 64) := by
  rw [BitVec.getLsbD_rotateLeft, Nat.mod_eq_of_lt hn]
  by_cases h : j < n
  · rw [decide_eq_true h, cond_true]
    congr 1
    omega
  · rw [decide_eq_false h, cond_false, decide_eq_true hj, Bool.true_and]
    congr 1
    omega

theorem getLsbD_onesMask (len : Nat) : (onesMask len).getLsbD j = decide (j < len) := by
  rw [onesMask, BitVec.getLsbD_ofNat, decide_eq_true hj, Bool.true_and, Nat.testBit_two_pow_sub_one]

theorem getLsbD_bfx (pos len : Nat) : (bfx pos len a).getLsbD j = (decide (j < len) && a.getLsbD (pos + j)) := by
  rw [bfx, BitVec.getLsbD_and, getLsbD_onesMask hj, BitVec.getLsbD_ushiftRight, Bool.and_comm]

theorem getLsbD_bfi (pos len : Nat) :
    (bfi pos len a).getLsbD j = if pos ≤ j ∧ j < pos + len then a.getLsbD (j - pos) else a.getLsbD j := by
  have hlow : (onesMask len).getLsbD (j - pos) = decide (j - pos < len) := getLsbD_onesMask (by omega) len
  simp only [bfi, BitVec.getLsbD_or, BitVec.getLsbD_and, BitVec.getLsbD_not, BitVec.getLsbD_shiftLeft, hlow, hj]
  by_cases hp : pos ≤ j
  · have hlt : j - pos < len ↔ j < pos + len := by omega
    by_cases hl : j < pos + len <;> simp [hp, hl, hlt, not_lt.2 hp]
  · simp [hp, not_le.1 hp]

theorem getLsbD_signExtend_low {w : Nat} (hw : 0 < w) :
    ((a.extractLsb' 0 w).signExtend 64).getLsbD j = if j < w then a.getLsbD j else a.getLsbD (w - 1) := by
  rw [BitVec.getLsbD_signExtend, decide_eq_true hj, Bool.true_and, BitVec.msb_eq_getLsbD_last]
  simp only [BitVec.getLsbD_extractLsb', Nat.zero_add]
  split
  next h => simp [h]
  next h => simp [hw]

theorem getLsbD_zeroExtend_low (w : Nat) :
    ((a.extractLsb' 0 w).zeroExtend 64).getLsbD j = (decide (j < w) && a.getLsbD j) := by
  simp [BitVec.zeroExtend, hj]
end

/-! ### The members of BITS (Table 5.5) -/

theorem bitsBody_ok (g : DWord → DWord) (s : State) : bitsBody g s = .ok (s.setBank (nzBank (g s.bank.a) s.bank)) := rfl

/-- An immediate that keeps its two low bits alone is their number. -/
theorem imm_eq_low {x : BitVec 16} (h : x &&& ~~~3 = 0) : x = (x.extractLsb' 0 2).zeroExtend 16 := by
  refine BitVec.eq_of_getLsbD_eq fun i hi => ?_
  have hthree : (3 : BitVec 16).getLsbD i = decide (i < 2) := by
    rw [show (3 : BitVec 16) = BitVec.ofNat 16 (2 ^ 2 - 1) from rfl, BitVec.getLsbD_ofNat, decide_eq_true hi, Bool.true_and,
      Nat.testBit_two_pow_sub_one]
  have hbit := congrArg (·.getLsbD i) h
  simp only [BitVec.getLsbD_and, BitVec.getLsbD_not, hthree, decide_eq_true hi, Bool.true_and] at hbit
  by_cases hlow : i < 2
  · simp [BitVec.zeroExtend, hi, hlow]
  · rw [decide_eq_false hlow] at hbit
    simpa [BitVec.zeroExtend, hlow] using hbit

/-- `SEXT` and `ZEXT` name 1, 2 or 4 bytes. -/
theorem extBytes_cases {o : IOp} (h : (o.bitsOk 3 && o.imm != 3) = true) :
    (o.imm.extractLsb' 0 2).toNat = 0 ∨ (o.imm.extractLsb' 0 2).toNat = 1 ∨ (o.imm.extractLsb' 0 2).toNat = 2 := by
  simp only [IOp.bitsOk, Bool.and_eq_true, beq_iff_eq, bne_iff_ne] at h
  obtain ⟨⟨-, hkeep⟩, h3⟩ := h
  have hne : (o.imm.extractLsb' 0 2).toNat ≠ 3 := by
    intro he
    rw [imm_eq_low hkeep, BitVec.eq_of_toNat_eq (y := 3#2) he] at h3
    exact h3 rfl
  have := (o.imm.extractLsb' 0 2).isLt
  omega

theorem sextN_bytes {o : IOp} (h : (o.bitsOk 3 && o.imm != 3) = true) (a : DWord) :
    sextN (extBytes o) a = (a.extractLsb' 0 (8 * 2 ^ (o.imm.extractLsb' 0 2).toNat)).signExtend 64 := by
  rw [extBytes]
  rcases extBytes_cases h with e | e | e <;> rw [e] <;> rfl
theorem zextN_bytes {o : IOp} (h : (o.bitsOk 3 && o.imm != 3) = true) (a : DWord) :
    zextN (extBytes o) a = (a.extractLsb' 0 (8 * 2 ^ (o.imm.extractLsb' 0 2).toNat)).zeroExtend 64 := by
  rw [extBytes]
  rcases extBytes_cases h with e | e | e <;> rw [e] <;> rfl

/-- Each member that moves bits is a function of A with the table's bits. -/
theorem exec_bits {o : IOp} {i : Instr}
    (h : i ∈ [Instr.shl o, .shr o, .sra o, .rol o, .brev o, .bfx o, .bfi o, .sext o, .zext o]) (hwf : i.wf = true) :
    ∃ g : DWord → DWord, (∀ a, ∀ j < 64, (g a).getLsbD j = bitsBit i a j) ∧
      ∀ s, exec i s = word i useAF s (bitsBody g) := by
  simp only [List.mem_cons, List.not_mem_nil, or_false] at h
  rcases h with rfl | rfl | rfl | rfl | rfl | rfl | rfl | rfl | rfl <;> refine ⟨_, fun a j hj => ?_, fun _ => rfl⟩
  · rw [BitVec.getLsbD_shiftLeft, decide_eq_true hj, Bool.true_and, ← decide_not]
    simp only [not_lt]
    rfl
  · rw [BitVec.getLsbD_ushiftRight, Nat.add_comm]
    rfl
  · simp [bitsBit, bitsPos, BitVec.getLsbD_sshiftRight, not_le.2 hj, Nat.add_comm, BitVec.msb_eq_getLsbD_last]
  · exact getLsbD_rotate a hj (o.imm.extractLsb' 0 6).isLt
  · exact getLsbD_brev64 a hj
  · rw [getLsbD_bfx a hj, bitsBit, bitsLen, bitsPos]
    simp only [Nat.lt_succ_iff]
  · rw [getLsbD_bfi a hj, bitsBit, bitsLen, bitsPos]
    simp only [← Nat.add_assoc, Nat.lt_succ_iff]
  · rw [sextN_bytes hwf, getLsbD_signExtend_low a hj (by positivity)]
    rfl
  · rw [zextN_bytes hwf, getLsbD_zeroExtend_low a hj]
    rfl

end Sys2Proof.Machine

namespace Sys2Proof.Proofs
open Sys2Proof.Machine Sys2Proof.Claims

/-- Settles O7: each member writes one function of A, whose bits are the table's or whose number counts bits. -/
theorem bitOperations : Obligations.BitOperations := by
  refine ⟨fun o s i hi hwf hu => ?_, fun o s hwf hu => ?_, fun o s hwf hu => ?_, fun o s hwf hu => ?_⟩
  · obtain ⟨g, hg, he⟩ := exec_bits hi hwf
    exact ⟨g s.bank.a, hg _, (he s).trans (word_ok hwf hu (bitsBody_ok g s))⟩
  · obtain ⟨hle, hzero, hone⟩ := clzFrom_spec s.bank.a 64
    exact ⟨_, hle, hzero, hone, word_ok hwf hu (bitsBody_ok clz64 s)⟩
  · obtain ⟨hle, hzero, hone⟩ := ctzFrom_spec s.bank.a (le_refl 64)
    simp only [Nat.sub_self, Nat.zero_add] at hzero hone
    exact ⟨_, hle, hzero, hone, word_ok hwf hu (bitsBody_ok ctz64 s)⟩
  · rw [← popFrom_eq_countP]
    exact word_ok hwf hu (bitsBody_ok popc64 s)

end Sys2Proof.Proofs

/-! SUPPORT. What loads and the members of PTR leave; with this, O8. -/

namespace Sys2Proof.Machine
open Sys2Proof.Claims

theorem loadBody_ok {o : SOp} {s : State} {x : DWord} (hw : CounterZero o.w s) (signed : Bool)
    (hx : srcRead o (o.ea s.bank) (sizeOf2 o.sz) s = .ok x) :
    loadBody signed o s = .ok (srcDone o false (s.setBank { s.bank with a := widen signed (bytesOfSize o.sz) x })) := by
  simp only [loadBody, holdW_of_counterZero hw, hx, bind_ok, extN_eq_widen]

theorem ofWord_eq_ptrFrom (w : Word) : Ptr.ofWord w = ptrFrom w := rfl

theorem pldBody_ok {o : SOp} {s : State} {bs : List Byte} (hw : CounterZero o.w s)
    (h : memRead s (o.ea s.bank) 32 32 = .ok bs) :
    pldBody o s = .ok (s.setBank { s.bank with p := vec8 fun k => ptrFrom (wordOf ((bs.drop (4 * k)).take 4)) }) := by
  simp only [pldBody, holdW_of_counterZero hw, h, bind_ok, ofWord_eq_ptrFrom]

/-! ### PTR (Table 5.6) -/

/-- Addresses wrap modulo 32,768, so that a displacement counts by its low 15 bits. -/
theorem add_low_eq_ofInt (a : BitVec 15) (d : BitVec 16) : a + d.extractLsb' 0 15 = BitVec.ofInt 15 (a.toNat + d.toInt) :=
  congrArg Ptr.addr (inc_eq ⟨d, a⟩)

theorem low_eq_ofNat (d : BitVec 16) : d.extractLsb' 0 15 = BitVec.ofNat 15 d.toNat := by
  apply BitVec.eq_of_toNat_eq
  simp

/-- The four members that change a pointer run `ptrBody` with the table's effect. -/
theorem exec_ptr {o : IOp} {i : Instr} (h : i ∈ [Instr.pset o, .pstride o, .padd o, .pmov o]) (s : State) :
    exec i s = word i (if i = .pmov o then useA else useNone) s (ptrBody o (ptrEffect i s.bank.a)) := by
  simp only [List.mem_cons, List.not_mem_nil, or_false] at h
  rcases h with rfl | rfl | rfl | rfl
  · exact congrArg (fun g => word (.pset o) useNone s (ptrBody o g))
      (funext fun p => congrArg (Ptr.mk p.stride) (low_eq_ofNat o.imm))
  · rfl
  · exact congrArg (fun g => word (.padd o) useNone s (ptrBody o g))
      (funext fun p => congrArg (Ptr.mk p.stride) (add_low_eq_ofInt p.addr o.imm))
  · rw [if_pos rfl]
    exact congrArg (fun w => word (.pmov o) useA s (ptrBody o fun _ => Ptr.ofWord w))
      (BitVec.setWidth_eq_extractLsb' (show 32 ≤ 64 by decide)).symm

theorem exec_pget (o : IOp) (s : State) : exec (.pget o) s = word (.pget o) useA s fun s =>
    .ok (s.setBank { s.bank with a := (s.bank.ptr o.ptrSel).toWord.setWidth 64 }) := rfl
theorem exec_pcmp (o : IOp) (s : State) : exec (.pcmp o) s = word (.pcmp o) useF s fun s =>
    .ok (s.setBank { s.bank with f := pcmpFlags (s.bank.ptr o.ptrSel).addr o.imm s.bank.f }) := rfl

theorem pcmpFlags_eq (addr : BitVec 15) (u : BitVec 16) (f : Flags) :
    let d : Int := addr.toNat - u.toNat
    pcmpFlags addr u f = { f with n := decide (d < 0), z := decide (d = 0), c := decide (0 ≤ d), v := false } := by
  have hn : decide (addr.toNat < u.toNat) = decide ((addr.toNat : Int) - u.toNat < 0) := decide_eq_decide.2 (by omega)
  have hz : decide (addr.toNat = u.toNat) = decide ((addr.toNat : Int) - u.toNat = 0) := decide_eq_decide.2 (by omega)
  have hc : decide (u.toNat ≤ addr.toNat) = decide (0 ≤ (addr.toNat : Int) - u.toNat) := decide_eq_decide.2 (by omega)
  simp only [pcmpFlags, ← hn, ← hz, ← hc]
  rfl

end Sys2Proof.Machine

namespace Sys2Proof.Proofs
open Sys2Proof.Machine Sys2Proof.Claims

theorem loads : Loads := by
  intro o s x hu hw hx
  have hx := srcRead_of_scalarSource (sizeOf2_eq_bytesOfSize o.sz ▸ hx)
  exact ⟨fun hwf => word_ok hwf hu (loadBody_ok hw true hx), fun hwf => word_ok hwf hu (loadBody_ok hw false hx)⟩

theorem pointers : Pointers := by
  refine ⟨fun o s bs hwf hw hr => ?_, fun o s i hi hwf hu => ?_, fun o s hwf hu => ?_, fun o s hwf hu => ?_⟩
  · exact ⟨_, fun k hk => getElem_vec8 _ hk, word_ok hwf (free_useNone _) (pldBody_ok hw (memRead_of_localRead hr))⟩
  · refine (exec_ptr hi s).trans (word_ok hwf ?_ rfl)
    split
    next h => exact hu h
    next => exact free_useNone _
  · rw [← toWord_eq_ptrBits]
    exact (exec_pget o s).trans (word_ok hwf hu rfl)
  · intro d
    rw [← pcmpFlags_eq]
    exact (exec_pcmp o s).trans (word_ok hwf hu rfl)

/-- Settles O8: a load extends the operand that can be read, and each member of PTR changes what Table 5.6 names. -/
theorem loadsAndPointers : Obligations.LoadsAndPointers := ⟨loads, pointers⟩

end Sys2Proof.Proofs

/-! SUPPORT. A branch by its condition, and the conditions; with this, O11. -/

namespace Sys2Proof.Machine
open Sys2Proof.Claims

section
variable {cond : BitVec 4} {s : State} (off : BitVec 22)
theorem exec_b_taken (h : s.bank.f.holds cond = true) :
    exec (.b cond off) s = runWord (.b cond off) useF s id fun s => jumpBody (relTarget off s.bank) s := if_pos h
theorem exec_b_passed (h : s.bank.f.holds cond = false) : exec (.b cond off) s = word (.b cond off) useF s .ok :=
  if_neg (by simp [h])
end

end Sys2Proof.Machine

namespace Sys2Proof.Proofs
open Sys2Proof.Machine Sys2Proof.Claims

theorem branchTransfers : BranchTransfers := by
  intro cond off s hu t i
  refine ⟨fun h => ?_, fun h h0 h1 => ?_, fun h hb => ?_⟩
  · exact (exec_b_passed off h).trans (word_ok rfl hu rfl)
  · exact (exec_b_taken off h).trans (runWord_ok rfl hu (jumpBody_ok h0 h1))
  · exact (exec_b_taken off h).trans (runWord_trap rfl hu (jumpBody_bad hb))

/-- The conditions in pairs: the odd one of each tests the opposite of the even one. -/
theorem branchConditions : BranchConditions := by
  rintro ⟨m, n, z, c, v⟩
  refine ⟨rfl, rfl, rfl, rfl, rfl, rfl, rfl, rfl, fun k => ?_⟩
  revert n z c v k
  simp only [Flags.holds]
  decide

/-- Settles O11: a branch that is taken jumps as `J` does, and the sixteen conditions are read off the flags. -/
theorem branches : Obligations.Branches := ⟨branchTransfers, branchConditions⟩

end Sys2Proof.Proofs

/-! SUPPORT. The three ways in which `RPT` ends; with this, O13. -/

namespace Sys2Proof.Machine
open Sys2Proof.Claims

theorem codeSegment_eq (addr : Int) : codeSegment addr = plainTrap 0x08 addr := rfl

section
variable {len : BitVec 4} {stag : BitVec 3} {count : BitVec 20} {s : State}

theorem rptBody_leaves (h : (s.bank.pc.toNat + len.toNat + 1) / 4096 ≠ s.bank.pc.toNat / 4096) :
    rptBody len stag count s = .error (.trap (plainTrap 0x08 (4096 * (s.bank.pc.toNat / 4096 + 1) : Nat))) := if_pos h

variable (h : (s.bank.pc.toNat + len.toNat + 1) / 4096 = s.bank.pc.toNat / 4096)
include h

theorem rptBody_skip_end (hc : count = 0) (he : (s.bank.pc.toNat + len.toNat + 1) % 4096 = 4095) :
    rptBody len stag count s = .error (.trap (plainTrap 0x08 (s.bank.pc.toNat + len.toNat + 1 + 1 : Nat))) := by
  simp only [rptBody, h, hc, he, ne_eq, not_true_eq_false, if_false, if_true]
  rfl
theorem rptBody_skip (hc : count = 0) (he : (s.bank.pc.toNat + len.toNat + 1) % 4096 ≠ 4095) :
    rptBody len stag count s = .ok (s.setBank (jumped (BitVec.ofNat 14 (s.bank.pc.toNat + len.toNat + 1 + 1)) s.bank)) := by
  simp only [rptBody, h, hc, he, ne_eq, not_true_eq_false, if_false, if_true]
  rfl
theorem rptBody_start (hc : count ≠ 0) :
    rptBody len stag count s = .ok (s.setBank { s.bank with
      pc := BitVec.ofNat 14 (s.bank.pc.toNat + 1)
      rpt := ⟨count, BitVec.ofNat 14 (s.bank.pc.toNat + 1), len, 0, stag, 0⟩ }) := by
  have hpc : BitVec.ofNat 14 (s.bank.pc.toNat + 1) = s.bank.pc + 1 := by
    apply BitVec.eq_of_toNat_eq
    simp
  simp only [rptBody, h, hc, hpc, ne_eq, not_true_eq_false, if_false]
end

/-- `RPT` in either form runs the one body, its count a number of 20 bits (R97). -/
theorem exec_rpt {len : BitVec 4} {stag : BitVec 3} {count : BitVec 18} {s : State} {i : Instr} {c : Nat}
    (h : (i = .rpt len stag count ∧ c = count.toNat) ∨
      (i = .rptA len stag ∧ s.bank.free useA = true ∧ c = s.bank.a.toNat % 2 ^ 20)) :
    c < 2 ^ 20 ∧ ∃ u body, s.bank.free u = true ∧ i.wf = true ∧ exec i s = runWord i u s id body ∧
      body s = rptBody len stag (BitVec.ofNat 20 c) s := by
  rcases h with ⟨rfl, rfl⟩ | ⟨rfl, hu, rfl⟩
  · exact ⟨count.isLt.trans (by decide), _, _, free_useNone _, rfl, rfl,
      congrArg (rptBody len stag · s) (BitVec.ofNat_toNat 20 count).symm⟩
  · refine ⟨Nat.mod_lt _ (by decide), _, _, hu, rfl, rfl, congrArg (rptBody len stag · s) ?_⟩
    apply BitVec.eq_of_toNat_eq
    simp

end Sys2Proof.Machine

namespace Sys2Proof.Proofs
open Sys2Proof.Machine Sys2Proof.Claims

/-- Settles O13: both forms run one body, which checks the segment, then the count. -/
theorem repeats : Obligations.Repeats := by
  intro len stag count s i c hi x last
  obtain ⟨hc, u, body, hu, hwf, he, hb⟩ := exec_rpt hi
  have hzero : BitVec.ofNat 20 c = 0 ↔ c = 0 := by
    rw [← BitVec.toNat_inj, BitVec.toNat_ofNat, Nat.mod_eq_of_lt hc]
    rfl
  refine ⟨fun hl => ?_, fun hl hz => ⟨fun hend => ?_, fun hend => ?_⟩, fun hl hz => ?_⟩
  · exact he.trans (runWord_trap hwf hu (hb.trans (rptBody_leaves hl)))
  · exact he.trans (runWord_trap hwf hu (hb.trans (rptBody_skip_end hl (hzero.2 hz) hend)))
  · exact he.trans (runWord_ok hwf hu (hb.trans (rptBody_skip hl (hzero.2 hz) hend)))
  · exact he.trans (runWord_ok hwf hu (hb.trans (rptBody_start hl (mt hzero.1 hz))))

end Sys2Proof.Proofs

/-! SUPPORT. What the bodies of FALU leave, and the sign bit of an encoding; with this, O27. -/

namespace Sys2Proof.Machine
open Sys2Proof.Claims

theorem faluFmt_eq_scalarFmt (sz : BitVec 2) : faluFmt sz = scalarFmt sz := rfl
theorem faluBytes_eq_scalarBytes (sz : BitVec 2) : faluBytes sz = scalarBytes sz := rfl
theorem setA_ofNat (s : State) (x : Nat) : setA s (BitVec.ofNat 64 x) = putA s x := rfl
theorem lowBits_eq_scalarA (sz : BitVec 2) (s : State) : lowBits (scalarFmt sz) s.bank.a = scalarA sz s := rfl

section
variable {o : SOp} {s : State} {x : DWord} (hw : CounterZero o.w s)
include hw

theorem faluBody_ok (g : Fmt → Nat → Nat → Nat) (hx : srcRead o (o.ea s.bank) (scalarBytes o.sz) s = .ok x) :
    faluBody g o s = .ok (srcDone o false (putA s (g (scalarFmt o.sz) (scalarA o.sz s) x.toNat))) := by
  simp only [faluBody, holdW_of_counterZero hw, faluFmt_eq_scalarFmt, faluBytes_eq_scalarBytes, hx, bind_ok, setA_ofNat,
    lowBits_eq_scalarA]

theorem fmaBody_ok {ys : List Byte} (hx : srcRead o (o.eaSplit s.bank) (scalarBytes o.sz) s = .ok x)
    (hy : memRead s (o.ea2 s.bank) (scalarBytes o.sz) (scalarBytes o.sz) = .ok ys) :
    fmaBody o s = .ok (srcDone o true (putA s ((scalarFmt o.sz).fma (scalarA o.sz s) x.toNat (leNat ys)))) := by
  simp only [fmaBody, holdW_of_counterZero hw, faluFmt_eq_scalarFmt, faluBytes_eq_scalarBytes, hx, hy, bind_ok, setA_ofNat,
    lowBits_eq_scalarA]

theorem fcmpBody_ok (hx : srcRead o (o.ea s.bank) (scalarBytes o.sz) s = .ok x) :
    fcmpBody o s = .ok (srcDone o false (s.setBank { s.bank with
      f := fcmpFlags ((scalarFmt o.sz).frel (scalarA o.sz s) x.toNat) s.bank.f })) := by
  simp only [fcmpBody, holdW_of_counterZero hw, faluFmt_eq_scalarFmt, faluBytes_eq_scalarBytes, hx, bind_ok, lowBits_eq_scalarA]

theorem inPlaceA_ok (g : DWord → DWord) : inPlaceA o g s = .ok (s.setBank { s.bank with a := g s.bank.a }) := by
  simp only [inPlaceA, holdW_of_counterZero hw, bind_ok, setA]
end

/-- Each member that rounds an exact value does so on the encodings. -/
theorem exec_falu_exact {m : (SOp → Instr) × (FVal → FVal → FVal)} (h : m ∈ faluExact) (o : SOp) (s : State) :
    exec (m.1 o) s =
      word (m.1 o) useA s (faluBody (fun f a x => f.encode 0 (m.2 (f.decode a) (f.decode x))) o) := by
  simp only [faluExact, List.mem_cons, List.not_mem_nil, or_false] at h
  rcases h with rfl | rfl | rfl | rfl <;> rfl

theorem fcmpFlags_eq (r : FRel) (f : Flags) : fcmpFlags r f =
    ⟨f.m, decide (r = .less), decide (r = .equal), decide (r = .equal ∨ r = .greater), decide (r = .unordered)⟩ := by
  cases r <;> rfl

/-! ### The sign of an encoding (R105) -/

theorem getLsbD_lowBits (f : Fmt) (a : DWord) {j : Nat} (hj : j < 64) :
    (BitVec.ofNat 64 (lowBits f a)).getLsbD j = (decide (j < f.width) && a.getLsbD j) := by
  rw [BitVec.getLsbD_ofNat, decide_eq_true hj, Bool.true_and, lowBits, Nat.testBit_mod_two_pow]
  rfl
theorem getLsbD_signMask (f : Fmt) {j : Nat} (hj : j < 64) :
    (BitVec.ofNat 64 (2 ^ (f.width - 1))).getLsbD j = decide (f.width - 1 = j) := by
  rw [BitVec.getLsbD_ofNat, decide_eq_true hj, Bool.true_and, Nat.testBit_two_pow]

theorem scalarFmt_width (sz : BitVec 2) : (scalarFmt sz).width = 16 ∨ (scalarFmt sz).width = 32 := by
  revert sz
  decide

section
variable {f : Fmt} (k : BitVec 2) (a : DWord)

theorem getLsbD_fsgn_other {j : Nat} (hj : j < 64) (hne : j ≠ f.width - 1) :
    (fsgn f k a).getLsbD j = (decide (j < f.width) && a.getLsbD j) := by
  have hs := getLsbD_signMask f hj
  rw [decide_eq_false hne.symm] at hs
  have hx := getLsbD_lowBits f a hj
  unfold fsgn
  split
  · rw [BitVec.getLsbD_and, BitVec.getLsbD_not, hs, hx]
    simp [hj]
  · rw [BitVec.getLsbD_xor, hs, hx, Bool.xor_false]
  · rw [BitVec.getLsbD_or, hs, hx, Bool.or_false]

theorem getLsbD_fsgn_sign (h0 : 0 < f.width) (h64 : f.width ≤ 64) :
    (fsgn f k a).getLsbD (f.width - 1) =
      match k.toNat with | 0 => false | 1 => !a.getLsbD (f.width - 1) | _ => true := by
  have hj : f.width - 1 < 64 := by omega
  have hs := getLsbD_signMask f hj
  have hx := getLsbD_lowBits f a hj
  rw [decide_eq_true rfl] at hs
  rw [decide_eq_true (show f.width - 1 < f.width by omega), Bool.true_and] at hx
  obtain rfl | rfl | rfl | rfl : k = 0 ∨ k = 1 ∨ k = 2 ∨ k = 3 := by revert k; decide
  · exact (BitVec.getLsbD_and ..).trans (by rw [BitVec.getLsbD_not, hs]; simp)
  · exact (BitVec.getLsbD_xor ..).trans (by rw [hs, hx, Bool.xor_true]; rfl)
  · exact (BitVec.getLsbD_or ..).trans (by rw [hs, Bool.or_true]; rfl)
  · exact (BitVec.getLsbD_or ..).trans (by rw [hs, Bool.or_true]; rfl)
end

end Sys2Proof.Machine

namespace Sys2Proof.Proofs
open Sys2Proof.Machine Sys2Proof.Claims

theorem floatArithmetic : FloatArithmetic := by
  refine ⟨fun o s x hu hw hx => ?_, fun o s x ys hwf hu hw hx hy => ?_, fun o s hwf hu hw => ?_⟩
  · have hx := srcRead_of_scalarSource hx
    refine ⟨fun m hm hwf => ?_, fun hwf => ?_, fun hwf => ?_⟩
    · exact (exec_falu_exact hm o s).trans (word_ok hwf hu (faluBody_ok hw _ hx))
    · exact word_ok hwf hu (faluBody_ok hw (fun f => f.minMax false) hx)
    · exact word_ok hwf hu (faluBody_ok hw (fun f => f.minMax true) hx)
  · exact word_ok hwf hu (fmaBody_ok hw (srcRead_of_scalarSource hx) (memRead_of_localRead hy))
  · exact word_ok hwf hu (inPlaceA_ok hw _)

theorem floatCompare : FloatCompare := by
  intro o s x hwf hu hw hx r
  have hb := fcmpBody_ok hw (srcRead_of_scalarSource hx)
  rw [fcmpFlags_eq] at hb
  exact word_ok hwf hu hb

theorem floatConvert : FloatConvert := by
  refine ⟨?_, fun o s hwf hu hw => ?_⟩
  · intro o s hwf hu hw n
    have hn : n = 16 ∨ n = 32 := scalarFmt_width o.sz
    refine ⟨_, word_ok hwf hu (inPlaceA_ok hw (fsgn (scalarFmt o.sz) (o.d.extractLsb' 0 2))), fun j hj hne => ?_, ?_⟩
    · exact getLsbD_fsgn_other _ _ hj hne
    · exact getLsbD_fsgn_sign _ _ (show 0 < n by omega) (show n ≤ 64 by omega)
  · exact ⟨_, word_ok hwf hu (inPlaceA_ok hw fun a => convert o.d a.toNat), converts_convert _ _⟩

/-- Settles O27: each body is the table's function of A's low bits and the operand; a conversion is R104's by
`converts_convert`. -/
theorem scalarFloat : Obligations.ScalarFloat := ⟨floatArithmetic, floatCompare, floatConvert⟩

end Sys2Proof.Proofs

/-! SUPPORT. The lanes that the moves of VDATA leave; with this, O30. -/

namespace Sys2Proof.Machine
open Sys2Proof.Claims

theorem setSlot_slot (s : State) : s.setSlot s.slot = s := by
  simp [State.setSlot, State.slot]
theorem setBank_bank (s : State) : s.setBank s.bank = s := by
  rw [State.setBank, State.bank, setBank_bank_slot, setSlot_slot]

theorem setV_maskLanes_vec8 (s : State) (g : Fin 8 → Word) :
    setV s (maskLanes s.bank.f.m s.bank.v (vec8 g)) = putLanes s g := by
  rw [setV_maskLanes]
  congr 1
  funext i
  exact getElem_vec8 g i.isLt

/-- One lane written where M enables it. -/
theorem setV_set_lane (s : State) (k : Fin 8) (x : Word) :
    (if s.bank.f.m.getLsbD k then setV s (s.bank.v.set k x) else s) = putLanes s fun i => if i = k then x else s.bank.v[i] := by
  have hput (v : Vector Word 8)
      (h : ∀ i : Fin 8, v[i] = if s.bank.f.m.getLsbD i then (if i = k then x else s.bank.v[i]) else s.bank.v[i]) :
      setV s v = putLanes s fun i => if i = k then x else s.bank.v[i] := by
    refine congrArg (setV s) (Vector.ext fun i hi => ?_)
    rw [Vector.getElem_ofFn]
    exact h ⟨i, hi⟩
  split
  next hm =>
    refine hput _ fun i => ?_
    by_cases hi : i = k
    · subst hi
      simp [hm]
    · simp [hi, Vector.getElem_set_ne, Fin.val_ne_of_ne (Ne.symm hi)]
  next hm =>
    refine Eq.trans (setBank_bank s).symm (hput s.bank.v fun i => ?_)
    by_cases hi : i = k
    · subst hi
      rw [if_neg hm]
    · rw [if_neg hi, ite_self]

theorem low3_toNat {w : Nat} (x : BitVec w) : (x.extractLsb' 0 3).toNat = x.toNat % 8 := by simp

section
variable {o : SOp} {s : State} {x : Vector Word 8} (hw : CounterZero o.w s)
include hw

theorem vldBody_ok (hx : vecSrc o (o.ea s.bank) false s = .ok x) :
    vldBody o s = .ok (srcDone o false (putLanes s fun i => laneInt o.sz x[i])) := by
  simp only [vldBody, holdW_of_counterZero hw, hx, bind_ok, mapLanes, setV_maskLanes_vec8, intLane_eq_laneInt]

theorem vpermBody_ok (hx : vecSrc o (o.ea s.bank) false s = .ok x) :
    vpermBody o s = .ok (srcDone o false (putLanes s fun i =>
      s.bank.v[(laneInt o.sz x[i]).toNat % 8]'(Nat.mod_lt _ (by decide)))) := by
  simp only [vpermBody, holdW_of_counterZero hw, hx, bind_ok, setV_maskLanes_vec8, intLane_eq_laneInt, low3_toNat]

/-- A body that waits for its counter and then ends. -/
theorem holdW_bind {α : Type} (f : Except Stop α) : (holdW o.w s >>= fun _ => f) = f := by
  rw [holdW_of_counterZero hw, bind_ok]
end

/-! ### The in-place moves (R109) -/

theorem laneOf_eq (o : SOp) : laneOf o = ⟨o.d.toNat % 8, Nat.mod_lt _ (by decide)⟩ := Fin.ext (low3_toNat o.d)

theorem lowWord_eq (a : DWord) : a.extractLsb' 0 32 = a.setWidth 32 := (BitVec.setWidth_eq_extractLsb' (by decide)).symm

section
variable (o : SOp) (s : State)

theorem exec_vsplat : exec (.vsplat o) s = word (.vsplat o) useAV s fun s => holdW o.w s >>= fun _ =>
    .ok (setV s (maskLanes s.bank.f.m s.bank.v (vec8 fun _ => s.bank.a.extractLsb' 0 32))) := rfl
theorem exec_vext : exec (.vext o) s = word (.vext o) useAV s fun s => holdW o.w s >>= fun _ =>
    .ok (setA s (s.bank.v[laneOf o].signExtend 64)) := rfl
theorem exec_vins : exec (.vins o) s = word (.vins o) useAV s fun s => holdW o.w s >>= fun _ =>
    .ok (if s.bank.f.m.getLsbD (laneOf o) then setV s (s.bank.v.set (laneOf o) (s.bank.a.extractLsb' 0 32)) else s) := rfl

/-- The lane that `VSLIDE` gives to lane `i`. -/
def slidLane (d : Int) (a : Word) (v : Vector Word 8) (i : Fin 8) : Word :=
  if 0 ≤ (i.val : Int) + d ∧ (i.val : Int) + d ≤ 7 then v.toList.getD ((i.val : Int) + d).toNat 0 else a
theorem slidLane_eq (d : Int) (a : Word) (v : Vector Word 8) (i : Fin 8) : slidLane d a v i =
    if h : 0 ≤ (i.val : Int) + d ∧ (i.val : Int) + d < 8 then v[((i.val : Int) + d).toNat]'(by omega) else a := by
  unfold slidLane
  split
  next h =>
    rw [dif_pos (by omega), List.getD_eq_getElem _ _ (by rw [Vector.length_toList]; omega), Vector.getElem_toList]
  next h => rw [dif_neg (by omega)]
theorem exec_vslide : exec (.vslide o) s = word (.vslide o) useAV s fun s => holdW o.w s >>= fun _ =>
    .ok (setV s (maskLanes s.bank.f.m s.bank.v
      (vec8 (slidLane (o.d.extractLsb' 0 4).toInt (s.bank.a.extractLsb' 0 32) s.bank.v)))) := rfl
end

end Sys2Proof.Machine

namespace Sys2Proof.Proofs
open Sys2Proof.Machine Sys2Proof.Claims

/-- Settles O30: each body ends with one write of the lanes that M enables, or of A. -/
theorem vectorMoves : Obligations.VectorMoves := by
  refine ⟨fun o s x hu hw hx => ?_, ?_⟩
  · have hx := vecSrc_of_vectorSource hx
    exact ⟨fun hwf => word_ok hwf hu (vldBody_ok hw hx), fun hwf => word_ok hwf hu (vpermBody_ok hw hx)⟩
  intro o s hu hw lane a
  have hlane : laneOf o = lane := laneOf_eq o
  have ha : s.bank.a.extractLsb' 0 32 = a := lowWord_eq _
  refine ⟨fun hwf => ?_, fun hwf => ?_, fun hwf => ?_, fun hwf => ?_⟩
  · refine (exec_vsplat o s).trans (word_ok hwf hu ?_)
    rw [holdW_bind hw, ha, setV_maskLanes_vec8]
  · refine (exec_vext o s).trans (word_ok hwf hu ?_)
    rw [holdW_bind hw]
    exact congrArg (fun k : Fin 8 => Except.ok (setA s (s.bank.v[k].signExtend 64))) hlane
  · refine (exec_vins o s).trans (word_ok hwf hu ?_)
    rw [holdW_bind hw, ha, setV_set_lane, hlane]
  · refine (exec_vslide o s).trans (word_ok hwf hu ?_)
    rw [holdW_bind hw, ha, setV_maskLanes_vec8]
    exact congrArg (fun g => Except.ok (putLanes s g)) (funext fun i => slidLane_eq _ _ _ _)

end Sys2Proof.Proofs

/-! SUPPORT. Folds over the enabled lanes, and masks from a test of each lane; with this, O31. -/

namespace Sys2Proof.Machine
open Sys2Proof.Claims

theorem enabledLanes_eq_laneList (s : State) : enabledLanes s.bank = laneList s := by
  simp only [enabledLanes, laneList, Vector.getElem?_toList]

theorem firstLane_eq (x : Word) : firstLane x = if fp32.decode x.toNat = .nan then 0x7FC00000 else x.toNat := by
  unfold firstLane
  split
  next h => rw [if_pos h]; rfl
  next h => rw [if_neg h]

/-! ### Reductions (R110) -/

theorem foldl_add_toInt (ls : List Word) (z : Int) :
    ls.foldl (fun acc y => acc + y.toInt) z = z + (ls.map BitVec.toInt).sum := by
  induction ls generalizing z with
  | nil => simp
  | cons x r ih => rw [List.foldl_cons, ih, List.map_cons, List.sum_cons, Int.add_assoc]

theorem vsum_int (ls : List Word) : vsum false ls = BitVec.ofInt 64 (ls.map BitVec.toInt).sum := by
  rw [← Int.zero_add (ls.map BitVec.toInt).sum, ← foldl_add_toInt]
  rfl
theorem vsum_float_cons (x : Word) (r : List Word) : vsum true (x :: r) = BitVec.ofNat 64 (r.foldl
    (fun acc y => fp32.encode 0 ((fp32.decode acc).add (fp32.decode y.toNat)))
    (if fp32.decode x.toNat = .nan then 0x7FC00000 else x.toNat)) := by
  rw [← firstLane_eq]
  rfl

/-- A fold of maxima from `z` on is `z` or a lane, and above all of them. -/
theorem foldl_max_spec (ls : List Word) (z : Int) :
    ls.foldl (fun acc y => max acc y.toInt) z ∈ z :: ls.map BitVec.toInt ∧
    ∀ y ∈ z :: ls.map BitVec.toInt, y ≤ ls.foldl (fun acc y => max acc y.toInt) z := by
  induction ls generalizing z with
  | nil => simp
  | cons x r ih =>
    obtain ⟨hmem, hle⟩ := ih (max z x.toInt)
    simp only [List.foldl_cons, List.map_cons, List.mem_cons, forall_eq_or_imp] at hmem hle ⊢
    refine ⟨?_, (le_max_left _ _).trans hle.1, (le_max_right _ _).trans hle.1, hle.2⟩
    rcases hmem with h | h
    · rcases max_choice z x.toInt with hm | hm
      · exact .inl (h.trans hm)
      · exact .inr (.inl (h.trans hm))
    · exact .inr (.inr h)

theorem vmaxr_int (ls : List Word) : ∃ m : Int, vmaxr false ls = BitVec.ofInt 64 m ∧
    (ls = [] → m = -(2 ^ 31)) ∧ (ls ≠ [] → m ∈ ls.map BitVec.toInt ∧ ∀ y ∈ ls, y.toInt ≤ m) := by
  cases ls with
  | nil => exact ⟨_, rfl, fun _ => rfl, fun h => absurd rfl h⟩
  | cons x r =>
    obtain ⟨hmem, hle⟩ := foldl_max_spec r x.toInt
    exact ⟨_, rfl, fun h => (List.cons_ne_nil _ _ h).elim,
      fun _ => ⟨hmem, fun y hy => hle _ (List.mem_map_of_mem (f := BitVec.toInt) hy)⟩⟩
theorem vmaxr_float_cons (x : Word) (r : List Word) : vmaxr true (x :: r) = BitVec.ofNat 64 (r.foldl
    (fun acc y => fp32.minMax true acc y.toNat) (if fp32.decode x.toNat = .nan then 0x7FC00000 else x.toNat)) := by
  rw [← firstLane_eq]
  rfl

section
variable (o : SOp) (s : State)
theorem exec_vsum : exec (.vsum o) s = word (.vsum o) useAV s fun s => holdW o.w s >>= fun _ =>
    .ok (setA s (vsum (o.d.getLsbD 0) (enabledLanes s.bank))) := rfl
theorem exec_vmaxr : exec (.vmaxr o) s = word (.vmaxr o) useAV s fun s => holdW o.w s >>= fun _ =>
    .ok (setA s (vmaxr (o.d.getLsbD 0) (enabledLanes s.bank))) := rfl
theorem exec_vmask : exec (.vmask o) s = word (.vmask o) (vmaskUses (o.d.extractLsb' 0 3)) s fun s => holdW o.w s >>= fun _ =>
    .ok (vmaskBody (o.d.extractLsb' 0 3) s) := rfl
end

/-! ### `VMASK` (Table 5.15) -/

/-- The number whose bits below `n` are those of a test. -/
theorem testBit_foldl_test (t : Nat → Bool) (n : Nat) :
    (List.range n).foldl (fun k i => k + if t i then 2 ^ i else 0) 0 < 2 ^ n ∧
    ∀ j < n, ((List.range n).foldl (fun k i => k + if t i then 2 ^ i else 0) 0).testBit j = t j := by
  induction n with
  | zero => simp
  | succ n ih =>
    obtain ⟨hlt, hbit⟩ := ih
    rw [List.range_succ, List.foldl_append]
    generalize (List.range n).foldl (fun k i => k + if t i then 2 ^ i else 0) 0 = k at hlt hbit
    have hk : [n].foldl (fun k i => k + if t i then 2 ^ i else 0) k = 2 ^ n * (t n).toNat + k := by
      cases h : t n <;> simp [h, Nat.add_comm]
    rw [hk]
    refine ⟨?_, fun j hj => ?_⟩
    · rw [Nat.pow_succ]
      cases t n <;> simp <;> omega
    · rw [Nat.testBit_two_pow_mul_add _ hlt]
      split
      next h => exact hbit j h
      next h =>
        obtain rfl : j = n := by omega
        cases t j <;> simp

theorem getLsbD_maskFrom (c : BitVec 3) (v : Vector Word 8) (i : Fin 8) : (maskFrom c v).getLsbD i = laneTest c v[i] := by
  rw [maskFrom, BitVec.getLsbD_ofNat, decide_eq_true i.isLt, Bool.true_and,
    (testBit_foldl_test (fun i => laneTest c (v.toList.getD i 0)) 8).2 i i.isLt]
  simp

/-- Each condition is the table's, by its number. -/
theorem laneTest_eq (c : BitVec 3) (w : Word) : laneTest c w =
    match c.toNat with
    | 0 => decide (w.toInt = 0) | 1 => decide (w.toInt ≠ 0) | 2 => decide (w.toInt < 0) | 3 => decide (0 ≤ w.toInt)
    | 4 => decide (0 < w.toInt) | _ => decide (w.toInt ≤ 0) := by
  have hz : w = 0 ↔ w.toInt = 0 := (BitVec.toInt_inj (y := 0)).symm
  obtain rfl | rfl | rfl | rfl | rfl | rfl | rfl | rfl :
    c = 0 ∨ c = 1 ∨ c = 2 ∨ c = 3 ∨ c = 4 ∨ c = 5 ∨ c = 6 ∨ c = 7 := by revert c; decide
  · exact decide_eq_decide.2 hz
  · exact decide_not.symm.trans (decide_eq_decide.2 (not_congr hz))
  all_goals rfl

section
variable {c : BitVec 3} (s : State)
theorem vmaskBody_test (h6 : c ≠ 6) (h7 : c ≠ 7) :
    vmaskBody c s = s.setBank { s.bank with f := { s.bank.f with m := maskFrom c s.bank.v } } := by
  simp only [vmaskBody, if_neg h6, if_neg h7]
theorem vmaskUses_test (h6 : c ≠ 6) (h7 : c ≠ 7) : vmaskUses c = useV := if_neg (not_or.2 ⟨h6, h7⟩)
theorem vmaskBody_fromA : vmaskBody 6 s = s.setBank { s.bank with f := { s.bank.f with m := s.bank.a.setWidth 8 } } := by
  rw [BitVec.setWidth_eq_extractLsb' (by decide)]
  rfl
theorem vmaskBody_toA : vmaskBody 7 s = s.setBank { s.bank with a := s.bank.f.m.setWidth 64 } := rfl
end

end Sys2Proof.Machine

namespace Sys2Proof.Proofs
open Sys2Proof.Machine Sys2Proof.Claims

/-- Settles O31: the reductions are folds over the list of enabled lanes, and the mask is the test of each lane. -/
theorem vectorReduce : Obligations.VectorReduce := by
  intro o s hw ls first fold
  have hls : enabledLanes s.bank = ls := enabledLanes_eq_laneList s
  refine ⟨fun hwf hu => ⟨fun hk => ?_, fun hk => ?_⟩, fun hwf hu => ⟨fun hk => ?_, fun hk => ?_⟩, ?_⟩
  · refine (exec_vsum o s).trans (word_ok hwf hu ?_)
    rw [holdW_bind hw, hls, hk, vsum_int, setA]
  · refine (exec_vsum o s).trans (word_ok hwf hu ?_)
    rw [holdW_bind hw, hls, hk, setA]
    cases ls with
    | nil => rfl
    | cons x r => rw [vsum_float_cons]
  · obtain ⟨m, hm, hnil, hmax⟩ := vmaxr_int ls
    refine ⟨m, (exec_vmaxr o s).trans (word_ok hwf hu ?_), hnil, hmax⟩
    rw [holdW_bind hw, hls, hk, hm, setA]
  · refine (exec_vmaxr o s).trans (word_ok hwf hu ?_)
    rw [holdW_bind hw, hls, hk, setA]
    cases ls with
    | nil => rfl
    | cons x r => rw [vmaxr_float_cons]
  · intro hwf c
    have hc : (o.d.extractLsb' 0 3).toNat = c := low3_toNat o.d
    have hex := exec_vmask o s
    generalize o.d.extractLsb' 0 3 = k at hc hex
    clear_value c
    subst hc
    refine ⟨fun h7 hu => ?_, fun h6 hu => ?_, fun hlt hu => ?_⟩
    · obtain rfl : k = 7 := BitVec.eq_of_toNat_eq h7
      refine hex.trans (word_ok hwf hu ?_)
      rw [holdW_bind hw, vmaskBody_toA]
    · obtain rfl : k = 6 := BitVec.eq_of_toNat_eq h6
      refine hex.trans (word_ok hwf hu ?_)
      rw [holdW_bind hw, vmaskBody_fromA]
    · have h6 : k ≠ 6 := by rintro rfl; exact absurd hlt (by decide)
      have h7 : k ≠ 7 := by rintro rfl; exact absurd hlt (by decide)
      refine ⟨maskFrom k s.bank.v, hex.trans (word_ok hwf (by rw [vmaskUses_test h6 h7]; exact hu) ?_), fun i => ?_⟩
      · rw [holdW_bind hw, vmaskBody_test s h6 h7]
      · exact (getLsbD_maskFrom k _ i).trans (laneTest_eq k _)

end Sys2Proof.Proofs

/-! SUPPORT. What a tile cycle makes of the words that a context has fetched, and a listed event at its place; with this,
O20. -/

namespace Sys2Proof.Machine
open Sys2Proof.Claims

/-! ### The words that a context has fetched -/

theorem wordOf_bytesOfWord (w : Word) : wordOf (bytesOfWord w) = w :=
  (wordOfBytes_eq _ _ _ _).symm.trans (wordOfBytes_bytesOfWord w)

/-- Bytes that decode start with a prefix exactly where they decode to eight bytes. -/
theorem isPair_of_decode {bs : List Byte} {i : Instr} {n : Nat} (h : decode bs = .ok (i, n)) :
    isPair (wordOf (bs.take 4)) = (n == 8) := by
  obtain ⟨w, hd, hbs, rfl⟩ | ⟨x, w, hx, -, hbs, rfl⟩ := decode_ok h
  · rw [hbs, wordOf_bytesOfWord]
    exact beq_eq_false_iff_ne.2 (majorOf_ne_one_of_decodeFamily (decodeWord_eq_some.1 hd).1)
  · have hx4 : bs.take 4 = bytesOfWord x := by
      have := congrArg (List.take 4) hbs
      rwa [List.take_take] at this
    rw [hx4, wordOf_bytesOfWord]
    exact beq_iff_eq.2 hx

theorem decodeAt_ok {pc : BitVec 14} {bs : List Byte} {i : Instr} {n : Nat} (h : decode bs = .ok (i, n))
    (he : n = 8 → pc.toNat % 4096 ≠ 4095) : decodeAt pc bs = .instr i (wordOf (bs.take 4)) (n == 8) := by
  have hplace : (isPair (wordOf (bs.take 4)) && pc.extractLsb' 0 12 == 4095) = false := by
    rw [isPair_of_decode h, Bool.and_eq_false_imp]
    exact fun hn => beq_eq_false_iff_ne.2 (mt (segmentEnd_iff pc).1 (he (beq_iff_eq.1 hn)))
  simp only [decodeAt, hplace, h]
  rfl

section
variable {c : State} {i : Instr} {n : Nat}

theorem fetch_of_takesTurn (h : TakesTurn c i n) : fetch c = .instr i (wordOf ((bytesFetched c).take 4)) (n == 8) := by
  obtain ⟨-, hopen, hdec, hend, -⟩ := h
  refine Eq.trans ?_ (decodeAt_ok hdec hend)
  cases hpre : c.slot.pre with
  | some p => simp only [fetch, bytesFetched, hpre]
  | none =>
    have hpriv : c.slot.priv = true ∨ c.bank.pc.toNat < 0x3000 := by
      cases hp : c.slot.priv
      · exact .inr ((hopen hpre).1 hp)
      · exact .inl rfl
    rw [fetch_open hpre hpriv]
    simp only [bytesFetched, hpre]

theorem lineReady_of_takesTurn (h : TakesTurn c i n) : c.slot.lineReady c c.tid = true := by
  obtain ⟨-, hopen, -⟩ := h
  cases hpre : c.slot.pre with
  | some p => simp [Slot.lineReady, hpre]
  | none => exact (hopen hpre).2

theorem canIssue_of_takesTurn (h : TakesTurn c i n) : canIssue i (taken c) = true := by
  obtain ⟨-, -, -, -, hready, hdiv, hpermit⟩ := h
  have hd : (usesDivider i && (taken c).tile.div != 0) = false := by
    rw [Bool.and_eq_false_imp]
    exact fun hu => bne_eq_false_iff_eq.2 (hdiv hu)
  have hp : ((taken c).tile.permitLevel i.permit != 0) = true := bne_iff_ne.2 hpermit
  simp only [canIssue, hready, hd, hp]
  rfl

theorem isEvent_of_takesTurn (h : TakesTurn c i n) : isEvent i = false := by
  obtain ⟨-, -, hdec, -⟩ := h
  exact (Sys2Proof.Proofs.decodeEncode _ _ _ hdec).2.1

/-- The second word of a pair, as it is fetched with the first. -/
theorem pairWords_eq (s : State) (w : Word) : pairWords s w = (w, wordOf ((bytesAtPc s).drop 4)) := rfl
end

/-! ### The turn of a context -/

/-- The pair whose first word has still to take its turn. -/
def pendingHalf (c : State) (n : Nat) : Option (Word × Word) :=
  if n == 8 && c.slot.pre.isNone then some (pairWords c (wordOf ((bytesFetched c).take 4))) else none

theorem tryIssue_of_takesTurn {k : Fin 8} {s : State} {i : Instr} {n : Nat} (h : TakesTurn (s.turnTo k) i n) :
    tryIssue k s = tryNew i (wordOf ((bytesFetched (s.turnTo k)).take 4)) (pendingHalf (s.turnTo k) n) (taken (s.turnTo k)) := by
  have hfetch := fetch_of_takesTurn h
  have hline := lineReady_of_takesTurn h
  obtain ⟨hu, -⟩ := h
  rw [tryIssue, eventPending_false hu]
  obtain ⟨hrun, hentered, -, hheld, hcontrol⟩ := hu
  have hentered : (s.turnTo k).slot.hasEntered = false := by
    rw [Slot.hasEntered, hentered]
    rfl
  have hheld : ((s.turnTo k).slot.niq.any fun r => decide (r.seq < (s.turnTo k).slot.heldTo)) = false := by
    simpa using hheld
  simp only [tryWord, hrun, hentered, hheld, hcontrol, hline, hfetch]
  rfl

section
variable {i : Instr} {w : Word} {x s' : State} (he : isEvent i = false) (hc : canIssue i x = true)
  (hx : exec i x = .next s') (hs : s'.slot.wait = none ∨ s'.slot.hasEntered = true)
include he hc hx hs

theorem tryNew_issue : tryNew i w none x = .issue (afterIssue i w x s') i.permit i.weight (tookTrap x s') := by
  have hw : (s'.slot.wait.isSome && !s'.slot.hasEntered) = false := by
    rcases hs with h | h <;> simp [h]
  simp only [tryNew, execWord_eq_exec i x he, hx, hw, hc]
  rfl
theorem tryNew_half (half : Word × Word) (hp : pairBarred x.bank = false) :
    tryNew i w (some half) x = .half (x.modSlot fun sl => { sl with pre := some half }) := by
  have hw : (s'.slot.wait.isSome && !s'.slot.hasEntered) = false := by
    rcases hs with h | h <;> simp [h]
  simp only [tryNew, execWord_eq_exec i x he, hx, hw, hc, hp]
  rfl
end

theorem pairBarred_taken (c : State) : pairBarred (taken c).bank = pairBarred c.bank := by
  have hb : (taken c).bank = c.bank := by
    rw [State.bank, taken, modSlot_eq, slot_setSlot]
    rfl
  rw [hb]

/-! ### The cycle -/

theorem throttleDue_of_thrE {b : State} (h : b.tile.thrE ≤ 0) : throttleDue b = false := by
  simp [throttleDue, h]

section
variable {b : State} {k : Fin 8} (hk : choose b = some k) (hthr : b.tile.thrE ≤ 0)
include hk hthr

theorem runCycle_issue {s' : State} {cls : PClass} {weight : Nat} {trapped : Bool}
    (h : tryIssue k (unyield k (tickPauses b)) = .issue s' cls weight trapped) : runCycle b =
      (true, .next (endCycle (fun j => (tryIssue j b).ready) (some k) (weigh weight (settle k cls trapped s')))) := by
  simp only [runCycle, throttleDue_of_thrE hthr, chosenTry, hk, h]
  rfl
theorem runCycle_half {s' : State} (h : tryIssue k (unyield k (tickPauses b)) = .half s') : runCycle b =
    (true, .next (endCycle (fun j => (tryIssue j b).ready) (some k) (weigh 2 (settle k .none false s')))) := by
  simp only [runCycle, throttleDue_of_thrE hthr, chosenTry, hk, h]
  rfl
end

/-- A step that is a tile cycle in which a context acts. -/
theorem step_of_cycleFrom {s s0 u : State} {free : Bool} (h : CycleFrom s s0 free)
    (hu : runCycle (beginCycle s0) = (true, .next u)) : step s = .next { u with acted := free || u.acted } := by
  obtain ⟨rfl, hturns, hacted, rfl⟩ | ⟨rfl, r, t, ht, hturns, rfl⟩ := h
  · simp only [step, runStep, hturns, freeTurn, hacted, hu]
    rfl
  · have hrun : runTurn (.issue t) { s with turns := r } = .next u := by
      simp only [runTurn, tileOk_of_lt ht, tileCycle, hu]
      rfl
    simp only [step, runStep, hturns, turnWaits, hrun]
    rfl

/-! ### A listed event -/

section
variable {s : State} {e : Instr} {r : List Turn} (hturns : s.turns = .act e :: r)
include hturns

theorem step_act_open (he : isEvent e = true) (ho : placeOpen s (eventPlace e s) = true) :
    step s = inPlace (eventPlace e s) (exec e) { s with turns := r } := by
  simp only [step, runStep, hturns, turnWaits, ho, runTurn, he]
  rfl
theorem step_act_passed {t port : Nat} (hp : eventPlace e s = some (t, port)) (hport : port < (s.getTile t).port) :
    step s = tileCycle (s.focus t) := by
  have hc : placeOpen s (eventPlace e s) = false := by
    rw [hp]
    exact decide_eq_false (not_le.2 hport)
  have hwait : turnWaits s (.act e) = some t := by
    rw [turnWaits, hc, hp]
    rfl
  simp only [step, runStep, hturns, hwait]
end

end Sys2Proof.Machine

namespace Sys2Proof.Proofs
open Sys2Proof.Machine Sys2Proof.Claims

/-- Settles O20: a listed event runs where its place is open; in a tile cycle the chosen context passes every gate of a
turn, so that its fetched words go to `tryNew`, which issues the instruction or lets a prefix have its turn. -/
theorem stepRunsDecoded : Obligations.StepRunsDecoded := by
  refine ⟨fun s e r hturns he => ⟨fun ho => ?_, fun t port hp hport => step_act_passed hturns hp hport⟩, ?_⟩
  · have hstep := step_act_open hturns he ho
    refine ⟨fun s' h => hstep.trans ?_, fun f h => hstep.trans ?_, fun f h => hstep.trans ?_⟩ <;> simp only [inPlace, h]
  · intro s s0 k i n s' free hfrom b c x w hk hthr hturn hexec hs
    have htry := tryIssue_of_takesTurn hturn
    have hev := isEvent_of_takesTurn hturn
    have hcan := canIssue_of_takesTurn hturn
    refine ⟨fun hn => ?_, fun hn hpre hbar => ?_⟩
    · have hhalf : pendingHalf c n = none := by
        rcases hn with rfl | hpre
        · rfl
        · simp [pendingHalf, Option.ne_none_iff_isSome.2 hpre]
      rw [hhalf, tryNew_issue hev hcan hexec hs] at htry
      exact step_of_cycleFrom hfrom (runCycle_issue hk hthr htry)
    · have hhalf : pendingHalf c n = some (w, wordOf ((bytesAtPc c).drop 4)) := by
        subst hn
        simp only [pendingHalf, hpre, pairWords_eq]
        rfl
      rw [hhalf, tryNew_half hev hcan hexec hs _ ((pairBarred_taken c).trans hbar)] at htry
      exact step_of_cycleFrom hfrom (runCycle_half hk hthr htry)

end Sys2Proof.Proofs

/-! SUPPORT. An offer of a record whose walk is to be tried again: its park mark is gone before its tree is bound; with
this, O58. -/

namespace Sys2Proof.Machine
open Sys2Proof.Claims

/-! ### A tree that its whole partition cannot hold -/

section
variable {s : State} {l : Launch} {ls : List Level}

theorem select_unbindable (boundary : Bool) (victims : List (BitVec 29)) (hst : l.st = .ready)
    (h : s.bindOn l ls (admitted s l) = none) : select boundary l ls s victims = (placeToFault l s, victims) := by
  simp [select, h, hst]

theorem findLaunch_lid {lid : BitVec 29} (h : s.findLaunch lid = some l) : s.findLaunch l.lid = some l := by
  have hl : l.lid = lid := beq_iff_eq.1 (List.find?_some (p := fun l : Launch => l.lid == lid) h)
  rw [hl, h]

/-- The offer of a READY record clears its park mark once its tree is read, and before the record goes to PLACING for its
launch fault. -/
theorem placement_unbindable {n : Nat} (hl : s.findLaunch (BitVec.ofNat 29 n) = some l) (hst : l.st = .ready)
    (hw : l.waits = false) (hd : l.dismissed = false) (hb : budgetShort s l = false) (hm : recMalformed l.dw = false)
    (hls : launchLevels s l = .levels ls) (h : s.bindOn l ls (admitted s l) = none) :
    exec (.placement n) s = .next (placeToFault l (withRecord l.lid (fun x => { x with park := none }) s)) := by
  refine event_some (body := placementBody n) ?_
  have hoffer : (offer false (s, []) l.lid).1 = placeToFault l (withRecord l.lid (fun x => { x with park := none }) s) := by
    simp only [offer, findLaunch_lid hl, hw, hb, hd, hm, hls, Bool.false_eq_true, or_self, and_false, if_false]
    exact congrArg Prod.fst (select_unbindable (s := withRecord l.lid (fun x => { x with park := none }) s) false [] hst h)
  simp only [placementBody, hl, Option.bind_eq_bind, Option.bind_some, hst, hoffer]
end

theorem launchLevels_of_read {s : State} {l : Launch} {bs : List Byte} {ls : List Level} (hst : l.st ≠ .preempted)
    (hr : (portReadSpan hubPort l.tenant 9 (recTree l.dw) s).2 = .ok bs) (ht : treeCheck bs = .ok ls) :
    launchLevels s l = .levels ls := by
  simp [launchLevels, hst, hr, ht]

theorem parks_placeToFault (l : Launch) (s : State) :
    (placeToFault l s).launches.map (·.park) = s.launches.map (·.park) := by
  simp only [placeToFault, State.modLaunch, List.map_map]
  refine List.map_congr_left fun x _ => ?_
  rw [Function.comp_apply]
  split <;> rfl

/-! ### Such a record, its page fault served -/

/-- A READY record of tenant 0 with CODE 0x2000 and TREE 0x1000. The read of its tree met an absent page at level 3; a
flush has come since, and the walk may be tried again (R223). -/
def flushedRecord : Launch :=
  { freshRecord 0 0 0 0 #v[0x2000, 0x1000, 0, 0, 0, 0, 0, 0] with st := .ready, park := some ⟨3, 0, 0, 1, 0, true⟩ }
/-- Stack 0: a root, an entry at level 1 and a leaf at level 2 that maps the addresses from 0 on to the stack's own, and at
0x1000 a tree of one level: two bays. -/
def flushedMemory : Memory :=
  [(0x10000000001, 0x01), (0x10000000007, 0x80), (0x10000000101, 0x02), (0x10000000107, 0x80), (0x10000000207, 0xC0),
   (0x10000001000, 0x01), (0x10000001008, 0x02), (0x1000000100A, 0x04)]
/-- The hub with that record: its tenant owns the page's colour and a service slot of stack 0, and its partition is one
bay, which cannot hold a tree of two. -/
def flushedState : State :=
  { State.reset with
    mem := flushedMemory, launches := [flushedRecord], fgen := 1, wheelOn := [(0, 0x200)]
    dies := State.reset.dies.set 0 { Die.reset with up := true }
    tenants := [(0, { Tenant.reset with budget := 1, part := [0], colours := 1 })] }

/-- The words of the tree. -/
def flushedTree : List Byte := bytesOf 72 (BitVec.ofNat 576 (1 + 0x40002 * 2 ^ 64))

theorem flushedState_findLaunch : flushedState.findLaunch (BitVec.ofNat 29 0) = some flushedRecord := by decide +kernel
theorem flushedState_budgetShort : budgetShort flushedState flushedRecord = false := by decide +kernel
theorem flushedState_levels : launchLevels flushedState flushedRecord = .levels [⟨2, 4⟩] :=
  launchLevels_of_read (bs := flushedTree) (by decide) (by decide +kernel) (by decide +kernel)
theorem flushedState_unbindable :
    flushedState.bindOn flushedRecord [⟨2, 4⟩] (admitted flushedState flushedRecord) = none := by decide +kernel

end Sys2Proof.Machine

namespace Sys2Proof.Proofs
open Sys2Proof.Machine Sys2Proof.Claims

/-- A record that goes to PLACING because its tree does not bind has no park mark there (`placement_unbindable`), where
the statement has it keep the one that it had. -/
theorem not_offers : ¬ Offers := by
  intro h
  obtain ⟨-, hready⟩ := h.1 0 flushedState flushedRecord flushedState_findLaunch rfl
  obtain ⟨-, -, hlevels, -⟩ := hready rfl rfl
  obtain ⟨hfault, -⟩ := hlevels [⟨2, 4⟩] flushedState_budgetShort (by decide) flushedState_levels
  have hstated := hfault flushedState_unbindable
  rw [placement_unbindable flushedState_findLaunch rfl rfl rfl flushedState_budgetShort (by decide) flushedState_levels
    flushedState_unbindable] at hstated
  injection hstated with hstate
  have hparks := congrArg (fun t : State => t.launches.map (·.park)) hstate
  simp only [parks_placeToFault] at hparks
  exact absurd hparks (by decide)

/-- Refutes O58: of a READY record whose walk is to be tried again after a flush (R223), and whose tree its whole partition
cannot hold, `PLACEMENT` clears the park mark as it puts the record into PLACING, where `Offers` has the record keep it. -/
theorem not_launchEvents : ¬ Obligations.LaunchEvents := by
  rintro ⟨-, -, -, -, -, hoffers, -⟩
  exact not_offers hoffers

end Sys2Proof.Proofs

/-! SUPPORT. Tiles and bays by number after a change, and what the end of a stook's window leaves; with what follows,
O57. -/

namespace Sys2Proof.Machine
open Sys2Proof.Claims

/-- An event that names a unit of the module happens where it is enabled. -/
theorem event_getD {ok : Bool} {s : State} {body : State → Option State} (h : ok = true) :
    event ok s body = .next ((body s).getD s) := by rw [event, if_pos h]

/-! ### Tiles and bays by number -/

section
variable {s : State}

theorem others_modTile (h : SMap.wfFrom Tile.reset 0 s.others = true) (t : Nat) (f : Tile → Tile) :
    SMap.wfFrom Tile.reset 0 (s.modTile t f).others = true := by
  rw [State.modTile, State.setTile]
  split
  · exact h
  · exact wfFrom_set _ h (Nat.zero_le t)
theorem getTile_modTile_same (h : SMap.wfFrom Tile.reset 0 s.others = true) (t : Nat) (f : Tile → Tile) :
    (s.modTile t f).getTile t = f (s.getTile t) := by
  by_cases ht : t = s.tid
  · simp [ht]
  · simp [State.modTile, State.setTile, State.getTile, ht, get_set_same _ h]
theorem getTile_modTile_other (h : SMap.wfFrom Tile.reset 0 s.others = true) {t j : Nat} (f : Tile → Tile) (hj : j ≠ t) :
    (s.modTile t f).getTile j = s.getTile j := by
  by_cases ht : t = s.tid
  · subst ht
    simp [State.getTile, hj]
  · by_cases hjt : j = s.tid <;> simp [State.modTile, State.setTile, State.getTile, ht, hjt, get_set_other _ h hj]

/-- Each tile of a list without repetition changes once. -/
theorem getTile_foldl_modTile (f : Tile → Tile) {L : List Nat} (hL : L.Nodup)
    (h : SMap.wfFrom Tile.reset 0 s.others = true) (j : Nat) :
    (L.foldl (fun s t => s.modTile t f) s).getTile j = if j ∈ L then f (s.getTile j) else s.getTile j := by
  induction L generalizing s with
  | nil => simp
  | cons t L ih =>
    obtain ⟨ht, hL⟩ := List.nodup_cons.1 hL
    rw [List.foldl_cons, ih hL (others_modTile h t f)]
    by_cases hj : j = t
    · subst hj
      simp [ht, getTile_modTile_same h]
    · simp [hj, getTile_modTile_other h f hj]

theorem getBay_modBay_same (h : SMap.wfFrom Bay.reset 0 s.bays = true) (b : Nat) (f : Bay → Bay) :
    (s.modBay b f).getBay b = f (s.getBay b) := get_set_same _ h
theorem getBay_modBay_other (h : SMap.wfFrom Bay.reset 0 s.bays = true) {b c : Nat} (f : Bay → Bay) (hc : c ≠ b) :
    (s.modBay b f).getBay c = s.getBay c := get_set_other _ h hc
theorem bays_modBay (h : SMap.wfFrom Bay.reset 0 s.bays = true) (b : Nat) (f : Bay → Bay) :
    SMap.wfFrom Bay.reset 0 (s.modBay b f).bays = true := wfFrom_set _ h (Nat.zero_le b)
end

/-! ### The weights of a stook (R136, R137, R144) -/

theorem windowW_eq (tl : Tile) : windowW tl = tl.windowWeight := by
  simp only [windowW, Tile.windowWeight, Tile.hintChanged, Bool.and_eq_true, Bool.or_eq_true, bne_iff_ne]
  rfl

theorem stookTiles_eq (bay stook : Nat) : stookTiles bay stook =
    [64 * bay + 4 * stook + 0, 64 * bay + 4 * stook + 1, 64 * bay + 4 * stook + 2, 64 * bay + 4 * stook + 3] := by
  simp [stookTiles, List.range_succ, Nat.add_comm]
theorem nodup_stookTiles (bay stook : Nat) : (stookTiles bay stook).Nodup := by
  simp [stookTiles_eq]
theorem mem_stookTiles {bay stook t : Nat} : t ∈ stookTiles bay stook ↔ t / 4 = 16 * bay + stook := by
  simp only [stookTiles_eq, List.mem_cons, List.not_mem_nil, or_false]
  omega

theorem maxOf_four (a b c d : Nat) : maxOf [a, b, c, d] = max (max a b) (max c d) := by
  simp [maxOf, max_assoc]
theorem minOf_four (a b c d : Nat) : minOf [a, b, c, d] = min (min a b) (min c d) := by
  simp [minOf, min_assoc]

section
variable (bay stook : Nat) (s : State)

/-- The weights of a stook's tiles at its window's end, the largest and the smallest of them, and the tolerance. -/
def stookWeights : List Nat := (stookTiles bay stook).map fun t => (s.getTile t).windowWeight
def stookHi : Nat := maxOf (stookWeights bay stook s)
def stookLo : Nat := minOf (stookWeights bay stook s)
def stookTol : Nat := (s.getDie (bay / 640)).pwr.t.toNat
/-- The gap exceeds the tolerance. -/
def stookActs : Bool := decide (stookTol bay s < stookHi bay stook s - stookLo bay stook s)
/-- The stook acts by filler: its launches ask for no throttling, or a low tile was stalled on messages (R140). -/
def stookFills : Bool :=
  !((stookTiles bay stook).any fun t => (s.getTile t).throttleMode) ||
    ((stookTiles bay stook).any fun t => (s.getTile t).throttleMode) && (stookTiles bay stook).any fun t =>
      (s.getTile t).stalled && decide (((s.getTile t).windowWeight : Int) < stookHi bay stook s - stookTol bay s)
/-- The budgets of a tile of weight `w` (R137). -/
def fillBudget (w : Nat) : Nat :=
  if stookActs bay stook s && stookFills bay stook s then stookHi bay stook s - stookTol bay s - w else 0
def throttleBudget (w : Nat) : Nat :=
  if stookActs bay stook s && !stookFills bay stook s then w - stookLo bay stook s - stookTol bay s else 0
end

/-- A tile whose window has ended, with its budgets for the next. -/
def endedTile (d e : Nat) (tl : Tile) : Tile :=
  { tl with weight := 0, stalled := false, hintNew := false, lastHint := BitVec.ofNat 3 (hintOf tl), fillD := d, thrE := e }
/-- The same with the budgets that the stook sets for it. -/
def reckonedTile (bay stook : Nat) (s : State) (tl : Tile) : Tile :=
  endedTile (fillBudget bay stook s tl.windowWeight) (throttleBudget bay stook s tl.windowWeight) tl
/-- A bay in which a stook's window has ended. -/
def endedBay (stook : Nat) (b : Bay) : Bay := { b with winDone := b.winDone ||| (1#16 <<< stook) }
/-- The gap enters the stook's counter. -/
def countGap (stook n : Nat) (b : Bay) : Bay := { b with imb := bumped b.imb stook n }

section
variable {bay stook : Nat} {s : State}

/-- The window's end, for the tiles and for the bay. -/
theorem windowEnd_eq : windowEnd bay stook s =
    let u := (stookTiles bay stook).foldl (fun s' t => s'.modTile t (reckonedTile bay stook s))
      (s.modBay bay (endedBay stook))
    if stookActs bay stook s then u.modBay bay (countGap stook (stookHi bay stook s - stookLo bay stook s)) else u := by
  unfold reckonedTile
  simp only [endedTile, fillBudget, throttleBudget, Nat.cast_ite, Nat.cast_zero]
  rfl

theorem windowEnd_frame : ∃ tl os, windowEnd bay stook s =
    let u : State := { s.modBay bay (endedBay stook) with tile := tl, others := os }
    if stookActs bay stook s then u.modBay bay (countGap stook (stookHi bay stook s - stookLo bay stook s)) else u := by
  obtain ⟨tl, os, h⟩ := foldl_modTile_frame (fun _ _ => reckonedTile bay stook s)
    (stookTiles bay stook) (s.modBay bay (endedBay stook))
  exact ⟨tl, os, by rw [windowEnd_eq, h]⟩

theorem getTile_windowEnd (h : Listed s) (t : Nat) : (windowEnd bay stook s).getTile t =
    if t ∈ stookTiles bay stook then reckonedTile bay stook s (s.getTile t) else s.getTile t := by
  obtain ⟨hothers, -⟩ := h
  refine Eq.trans ?_ (getTile_foldl_modTile (s := s.modBay bay (endedBay stook)) (reckonedTile bay stook s)
    (nodup_stookTiles bay stook) hothers t)
  rw [windowEnd_eq]
  split <;> rfl

theorem getBay_windowEnd_other (h : Listed s) {c : Nat} (hc : c ≠ bay) : (windowEnd bay stook s).getBay c = s.getBay c := by
  obtain ⟨-, hbays⟩ := h
  obtain ⟨tl, os, hw⟩ := windowEnd_frame (bay := bay) (stook := stook) (s := s)
  have hended := getBay_modBay_other hbays (endedBay stook) hc
  rw [hw]
  split
  · exact (getBay_modBay_other (s := { s.modBay bay (endedBay stook) with tile := tl, others := os })
      (bays_modBay hbays bay _) _ hc).trans hended
  · exact hended
theorem getBay_windowEnd_same (h : Listed s) : (windowEnd bay stook s).getBay bay =
    if stookTol bay s < stookHi bay stook s - stookLo bay stook s then
      countGap stook (stookHi bay stook s - stookLo bay stook s) (endedBay stook (s.getBay bay))
    else endedBay stook (s.getBay bay) := by
  obtain ⟨-, hbays⟩ := h
  obtain ⟨tl, os, hw⟩ := windowEnd_frame (bay := bay) (stook := stook) (s := s)
  have hended := getBay_modBay_same hbays bay (endedBay stook)
  rw [hw, stookActs]
  simp only [decide_eq_true_eq]
  split
  · exact (getBay_modBay_same (s := { s.modBay bay (endedBay stook) with tile := tl, others := os })
      (bays_modBay hbays bay _) bay _).trans (congrArg _ hended)
  · exact hended

theorem windowDue_iff : windowDue s bay = true ↔ (s.getBay bay).cyc.toNat % 16 = 15 ∧ bayCycleDone s bay = true := by
  have hcyc : ((s.getBay bay).cyc.extractLsb' 0 4 == 15) = true ↔ (s.getBay bay).cyc.toNat % 16 = 15 := by
    rw [beq_iff_eq, BitVec.toNat_eq, BitVec.extractLsb'_toNat]
    simp
  rw [windowDue, Bool.and_eq_true, hcyc]

theorem exec_stookWindowEnd (hb : bay < 10240) (hs : stook < 16) :
    exec (.stookWindowEnd bay stook) s = .next ((stookWindowEndBody bay stook s).getD s) :=
  event_getD (body := stookWindowEndBody bay stook) (by simp [hb, hs])

theorem stookHi_eq : stookHi bay stook s =
    let w := fun (j : Nat) => windowW (s.getTile (64 * bay + 4 * stook + j))
    max (max (w 0) (w 1)) (max (w 2) (w 3)) := by
  simp only [stookHi, stookWeights, stookTiles_eq, List.map_cons, List.map_nil, maxOf_four, windowW_eq]
theorem stookLo_eq : stookLo bay stook s =
    let w := fun (j : Nat) => windowW (s.getTile (64 * bay + 4 * stook + j))
    min (min (w 0) (w 1)) (min (w 2) (w 3)) := by
  simp only [stookLo, stookWeights, stookTiles_eq, List.map_cons, List.map_nil, minOf_four, windowW_eq]
theorem stookFills_iff : stookFills bay stook s = true ↔
    let at_ := fun (j : Nat) => s.getTile (64 * bay + 4 * stook + j)
    let throttle := (at_ 0).throttleMode || (at_ 1).throttleMode || (at_ 2).throttleMode || (at_ 3).throttleMode
    let low := fun (j : Nat) => (at_ j).stalled = true ∧ windowW (at_ j) + stookTol bay s < stookHi bay stook s
    throttle = false ∨ low 0 ∨ low 1 ∨ low 2 ∨ low 3 := by
  have hlow (w : Nat) : ((w : Int) < stookHi bay stook s - stookTol bay s) ↔ w + stookTol bay s < stookHi bay stook s := by
    omega
  have hor (x y : Bool) : (!x || x && y) = true ↔ x = false ∨ y = true := by cases x <;> simp
  rw [stookFills, hor]
  simp only [stookTiles_eq, List.any_cons, List.any_nil, Bool.or_false, Bool.or_assoc, Bool.or_eq_true, Bool.and_eq_true,
    decide_eq_true_eq, hlow, windowW_eq]
end

end Sys2Proof.Machine

namespace Sys2Proof.Proofs
open Sys2Proof.Machine Sys2Proof.Claims

theorem stookWindows : StookWindows := by
  intro bay stook s hb hs hl b due
  have hexec := exec_stookWindowEnd (s := s) hb hs
  have hbody : stookWindowEndBody bay stook s = if due then some (windowEnd bay stook s) else none := by
    simp only [stookWindowEndBody, Bool.and_eq_true, windowDue_iff, Bool.not_eq_true', due, and_assoc]
    rfl
  refine ⟨fun hn => by rw [hexec, hbody, if_neg hn, Option.getD_none], fun hdue => ?_⟩
  intro at_ w hi lo tol throttle low filler
  have hhi : stookHi bay stook s = hi := stookHi_eq
  have hlo : stookLo bay stook s = lo := stookLo_eq
  have hfill : stookFills bay stook s = true ↔ filler := by
    rw [stookFills_iff, hhi]
    rfl
  refine ⟨windowEnd bay stook s, by rw [hexec, hbody, if_pos hdue, Option.getD_some], mem_windowEnd bay stook s, fun j hj => ?_,
    fun t ht => ?_, fun c hc => getBay_windowEnd_other hl hc, ?_⟩
  · have hj : 64 * bay + 4 * stook + j ∈ stookTiles bay stook := mem_stookTiles.2 (by omega)
    refine ⟨_, _, (getTile_windowEnd hl _).trans (if_pos hj), ?_⟩
    simp only [fillBudget, throttleBudget, stookActs, hhi, hlo, ← windowW_eq, Bool.and_eq_true, decide_eq_true_eq,
      Bool.not_eq_true', ← Bool.not_eq_true, hfill]
    exact ⟨fun hin => ⟨if_neg fun h => not_lt.2 hin h.1, if_neg fun h => not_lt.2 hin h.1⟩,
      fun hout hf => ⟨if_pos ⟨hout, hf⟩, if_neg fun h => h.2 hf⟩,
      fun hout hn => ⟨if_neg fun h => hn h.2, if_pos ⟨hout, hn⟩⟩⟩
  · exact (getTile_windowEnd hl _).trans (if_neg (mt mem_stookTiles.1 ht))
  · have h := getBay_windowEnd_same (bay := bay) (stook := stook) hl
    rw [hhi, hlo] at h
    exact h

end Sys2Proof.Proofs

/-! SUPPORT. The natural weight of a cycle, and what the balancer does in it; with what follows, O57. -/

namespace Sys2Proof.Machine
open Sys2Proof.Claims

/-! ### The natural weight (R136, Table 7.1) -/

section
variable {c : State} {n : Nat}

theorem pendingHalf_none (h : n = 4 ∨ c.slot.pre.isSome = true) : pendingHalf c n = none := by
  rcases h with rfl | hpre
  · rfl
  · simp [pendingHalf, Option.ne_none_iff_isSome.2 hpre]
theorem pendingHalf_some (hn : n = 8) (hpre : c.slot.pre = none) :
    pendingHalf c n = some (pairWords c (wordOf ((bytesFetched c).take 4))) := by
  simp [pendingHalf, hn, hpre]
end

section
variable {k : Fin 8} {s s' : State} {i : Instr} {n : Nat} (hturn : TakesTurn (s.turnTo k) i n)
  (hexec : exec i (taken (s.turnTo k)) = .next s') (hs : s'.slot.wait = none ∨ s'.slot.hasEntered = true)
include hturn hexec hs

theorem weight_tryIssue_issue (hn : n = 4 ∨ (s.turnTo k).slot.pre.isSome = true) : (tryIssue k s).weight = i.weight := by
  rw [tryIssue_of_takesTurn hturn, pendingHalf_none hn,
    tryNew_issue (isEvent_of_takesTurn hturn) (canIssue_of_takesTurn hturn) hexec hs]
  rfl
theorem weight_tryIssue_half (hn : n = 8) (hpre : (s.turnTo k).slot.pre = none)
    (hbar : pairBarred (s.turnTo k).bank = false) : (tryIssue k s).weight = 2 := by
  rw [tryIssue_of_takesTurn hturn, pendingHalf_some hn hpre,
    tryNew_half (isEvent_of_takesTurn hturn) (canIssue_of_takesTurn hturn) hexec hs _ ((pairBarred_taken _).trans hbar)]
  rfl
end

theorem naturalWeight_eq (tl : Tile) (w : Nat) : tl.naturalWeight w = if tl.planeRun = [] then w else 6 := by
  simp [Tile.naturalWeight]

/-- The cycle's natural weight is that of the statement. -/
theorem cycleWeight_of_naturalWeight {b : State} {w : Nat} (h : NaturalWeight b w) : cycleWeight b = w := by
  rw [cycleWeight, naturalWeight_eq]
  obtain ⟨hrun, rfl⟩ | ⟨hrun, hnone, rfl⟩ | ⟨hrun, k, i, n, s', hk, hturn, hexec, hs, hw⟩ := h
  · exact if_neg hrun
  · rw [if_pos hrun, hnone]
    rfl
  · rw [if_pos hrun, hk]
    obtain ⟨hn, rfl⟩ | ⟨⟨hn, hpre, hbar⟩, rfl⟩ := hw
    · exact weight_tryIssue_issue hturn hexec hs hn
    · exact weight_tryIssue_half hturn hexec hs hn hpre hbar

/-! ### Throttling and filler (R139, R141, R143) -/

section
variable {b : State} {w : Nat}

theorem throttleDue_iff (hw : cycleWeight b = w) : throttleDue b = true ↔ 0 < b.tile.thrE ∧ 1 < w := by
  simp [throttleDue, hw]
theorem fillerDue_iff {x : State} : fillerDue w x = true ↔
    0 < x.tile.fillD ∧ w < 6 ∧ (x.getBay (bayOf x.tid)).launch ≠ none := by
  simp [fillerDue, Option.isSome_iff_ne_none, and_assoc]
theorem cycleOpen_iff {s : State} {t : Nat} : cycleOpen s t = true ↔
    t ∉ (s.getBay (bayOf t)).ran ∨ bayCycleDone (s.focus t) (bayOf t) = true := by
  simp [cycleOpen]
end

section
variable {t : Nat} {s : State}

section
variable (ht : t < tileCount)
include ht

/-- The event is the tile's throttled cycle, where it can take one and the stook throttles it. -/
theorem exec_stookThrottle_due (ho : cycleOpen s t = true) (hd : throttleDue (beginCycle (s.focus t)) = true) :
    exec (.stookThrottle t) s = .next (s.refocus (throttledCycle (beginCycle (s.focus t)))) := by
  refine (event_getD (body := stookThrottleBody t) (tileOk_of_lt ht)).trans ?_
  simp only [stookThrottleBody, ho, hd]
  rfl
theorem exec_stookThrottle_none (h : ¬ (cycleOpen s t = true ∧ throttleDue (beginCycle (s.focus t)) = true)) :
    exec (.stookThrottle t) s = .next s := by
  refine (event_getD (body := stookThrottleBody t) (tileOk_of_lt ht)).trans ?_
  rw [← Bool.and_eq_true] at h
  rw [stookThrottleBody, if_neg h, Option.getD_none]

/-- The event is the tile's cycle, where it can take one, the stook does not throttle it and a filler step goes with it. -/
theorem exec_stookFillerStep_due {u : State} (ho : cycleOpen s t = true) (hthr : throttleDue (beginCycle (s.focus t)) = false)
    (hd : fillerDue (cycleWeight (beginCycle (s.focus t))) (beginCycle (s.focus t)) = true)
    (hu : (runCycle (beginCycle (s.focus t))).2 = .next u) : exec (.stookFillerStep t) s = .next (s.refocus u) := by
  refine (event_getD (body := stookFillerBody t) (tileOk_of_lt ht)).trans ?_
  simp only [stookFillerBody, ho, hthr, hd, hu]
  rfl
theorem exec_stookFillerStep_none (h : ¬ (cycleOpen s t = true ∧
    fillerDue (cycleWeight (beginCycle (s.focus t))) (beginCycle (s.focus t)) = true)) :
    exec (.stookFillerStep t) s = .next s := by
  refine (event_getD (body := stookFillerBody t) (tileOk_of_lt ht)).trans ?_
  rw [stookFillerBody, if_neg, Option.getD_none]
  simp only [Bool.and_eq_true]
  exact fun ⟨⟨ho, _⟩, hd⟩ => h ⟨ho, hd⟩

theorem exec_planeCommandStart : exec (.planeCommandStart t) s = .next ((planeStartBody t s).getD s) :=
  event_getD (body := planeStartBody t) (tileOk_of_lt ht)
end

/-- A queued command starts exactly where the array can take it and the launch has been released (R274). -/
theorem planeStartBody_none (h : ¬ ((s.getTile t).canStart = true ∧ tileReleased s t = true)) : planeStartBody t s = none := by
  have hno : (!(s.getTile t).canStart || !tileReleased s t) = true := by
    simpa only [not_and_or, Bool.or_eq_true, Bool.not_eq_true, Bool.not_eq_true'] using h
  cases hq : (s.getTile t).planeQ with
  | nil => simp only [planeStartBody, hq]
  | cons c rest => simp only [planeStartBody, hq, hno, if_true]
theorem planeStartBody_some (hs : (s.getTile t).canStart = true) (hr : tileReleased s t = true) :
    ∃ u, planeStartBody t s = some u := by
  have hq : (s.getTile t).planeQ ≠ [] := fun hq => by simp [Tile.canStart, hq] at hs
  obtain ⟨c, rest, hq⟩ := List.exists_cons_of_ne_nil hq
  exact ⟨_, by simp only [planeStartBody, hq, hs, hr]; rfl⟩
end

section
variable {issued w : Nat} {x : State} (hw : x.tile.naturalWeight issued = w)
include hw

theorem weigh_unfilled (h : fillerDue w x = false) : weigh issued x = weighed w x := by
  simp only [weigh, hw, h, Bool.false_eq_true, if_false]
  rfl
theorem weigh_filler (h : fillerDue w x = true) (hp : planeStartBody x.tid x = none) :
    weigh issued x = fillerStep x.tid w (weighed w x) := by
  simp only [weigh, hw, h, hp, if_true]
  rfl
theorem weigh_planeStart {u : State} (h : fillerDue w x = true) (hp : planeStartBody x.tid x = some u) :
    weigh issued x = weighed 6 u := by
  simp only [weigh, hw, h, hp, if_true]
  rfl
end

end Sys2Proof.Machine

namespace Sys2Proof.Proofs
open Sys2Proof.Machine Sys2Proof.Claims

theorem stookSteps : StookSteps := by
  refine ⟨fun t s w ht => ?_, fun issued x hx => ?_, by simp [Instr.weight]⟩
  · intro bay open_ b m hnat
    have hw : cycleWeight b = w := cycleWeight_of_naturalWeight hnat
    have hopen : cycleOpen s t = true ↔ open_ := cycleOpen_iff
    have hthr : throttleDue b = true ↔ 0 < b.tile.thrE ∧ 1 < w := throttleDue_iff hw
    have hfill : fillerDue (cycleWeight b) b = true ↔ 0 < b.tile.fillD ∧ w < 6 ∧ (b.getBay (bayOf b.tid)).launch ≠ none :=
      hw ▸ fillerDue_iff
    refine ⟨fun ho he h1 => ?_, fun h => exec_stookThrottle_none ht ?_, fun ho he hd h6 hl u hu => ?_,
      fun h => exec_stookFillerStep_none ht ?_⟩
    · rw [exec_stookThrottle_due ht (hopen.2 ho) (hthr.2 ⟨he, h1⟩), ← hw]
      rfl
    · rw [hopen, hthr]
      rintro ⟨ho, he, h1⟩
      rcases h with h | h | h
      · exact h ho
      · exact not_lt.2 h he
      · exact not_lt.2 h h1
    · have hnot : throttleDue b = false := by
        rw [← Bool.not_eq_true, hthr]
        omega
      exact exec_stookFillerStep_due ht (hopen.2 ho) hnot (hfill.2 ⟨hd, h6, hl⟩) hu
    · rw [hopen, hfill]
      rintro ⟨ho, hd, h6, hl⟩
      rcases h with h | h | h | h
      · exact h ho
      · exact not_lt.2 h hd
      · exact not_lt.2 h h6
      · exact hl h
  · intro w fills startable
    have hw : x.tile.naturalWeight issued = w := naturalWeight_eq _ _
    have hfill : fillerDue w x = true ↔ fills := fillerDue_iff
    have htile : x.getTile x.tid = x.tile := getTile_tid x
    refine ⟨fun hf hn => weigh_filler hw (hfill.2 hf) (planeStartBody_none (by rwa [htile])), fun hf ⟨hs, hr⟩ => ?_,
      fun hn => weigh_unfilled hw (Bool.not_eq_true _ ▸ mt hfill.1 hn)⟩
    obtain ⟨u, hu⟩ := planeStartBody_some (htile.symm ▸ hs) hr
    exact ⟨u, by rw [exec_planeCommandStart hx, hu, Option.getD_some], weigh_planeStart hw (hfill.2 hf) hu⟩

end Sys2Proof.Proofs

/-! SUPPORT. Permit counters, SCALE and the tenants' counters; with this, O57. -/

namespace Sys2Proof.Machine
open Sys2Proof.Claims

/-! ### Permits (R354, R356) -/

section
variable {r : Rate} {scale : Nat} {p : Permit}

/-- Below its cap a counter accumulates the scaled rate, at least 1. -/
def refilled (r : Rate) (scale : Nat) (p : Permit) : Nat := p.acc.toNat + max 1 (r.rateN * scale / 256)

theorem refilled_lt (hs : scale < 512) (ha : p.acc.toNat < 256) : refilled r scale p < 768 := by
  have hrate : r.rateN * scale ≤ 256 * 511 := Nat.mul_le_mul (min_le_left _ _) (by omega)
  have hstep : r.rateN * scale / 256 ≤ 511 := by omega
  rw [refilled]
  omega
theorem capN_lt (r : Rate) : r.capN < 64 := max_lt (by decide) r.cap.isLt

theorem refill_full (h : r.capN ≤ p.level.toNat) : (refill r scale p).level.toNat = r.capN ∧ (refill r scale p).acc = 0 := by
  have hq : refill r scale p = ⟨BitVec.ofNat 6 r.capN, 0⟩ := if_neg (not_lt.2 h)
  rw [hq]
  exact ⟨Nat.mod_eq_of_lt (capN_lt r), rfl⟩
theorem refill_step (h : p.level.toNat < r.capN) (ha : refilled r scale p < 256) :
    (refill r scale p).level = p.level ∧ (refill r scale p).acc.toNat = refilled r scale p := by
  have hq : refill r scale p = ⟨p.level, BitVec.ofNat 9 (refilled r scale p)⟩ := (if_pos h).trans (if_neg (not_le.2 ha))
  rw [hq]
  exact ⟨rfl, Nat.mod_eq_of_lt (Nat.lt_trans ha (by decide))⟩
/-- SCALE and ACC have nine bits, so that what is left of ACC after a carry still fits. -/
theorem refill_carry (hs : scale < 512) (h256 : p.acc.toNat < 256) (h : p.level.toNat < r.capN)
    (ha : 256 ≤ refilled r scale p) :
    (refill r scale p).level.toNat = p.level.toNat + 1 ∧ (refill r scale p).acc.toNat = refilled r scale p - 256 := by
  have hq : refill r scale p = ⟨p.level + 1, BitVec.ofNat 9 (refilled r scale p - 256)⟩ := (if_pos h).trans (if_pos ha)
  have hacc := refilled_lt (r := r) hs h256
  rw [hq]
  exact ⟨BitVec.toNat_add_of_lt (Nat.lt_of_le_of_lt h (capN_lt r)),
    Nat.mod_eq_of_lt (show refilled r scale p - 256 < 512 by omega)⟩
end

/-! ### SCALE (R357) -/

section
variable {p : Pwr}

theorem controlScale_over (h : p.budget.toNat < p.draw.toNat) :
    controlScale p = { p with scale := BitVec.ofNat 9 (max 16 (p.scale.toNat - 16)) } := if_pos h
theorem controlScale_under (h : p.draw.toNat + 8 < p.budget.toNat) :
    controlScale p = { p with scale := BitVec.ofNat 9 (min 256 (p.scale.toNat + 16)) } :=
  (if_neg (by omega)).trans (if_pos (by omega))
theorem controlScale_within (h : p.draw.toNat ≤ p.budget.toNat) (h8 : p.budget.toNat ≤ p.draw.toNat + 8) :
    controlScale p = p := (if_neg (by omega)).trans (if_neg (by omega))
end

theorem exec_powerControl {die : Nat} (hd : die < 16) (s : State) : exec (.powerControl die) s =
    .next (({ s with free := s.free + 1 } : State).setDie die
      { s.getDie die with
        pwr := controlScale { (s.getDie die).pwr with draw := Config.measuredDraw die s.free } }) :=
  event_getD (body := powerControlBody die) (by simp [hd])

/-! ### Counters of tenants (R350, R351) -/

/-- A local count enters a tenant's counter, modulo 2^64. -/
def charge (tenant : Nat) (m : SMap DWord) (kc : Nat × Nat) : SMap DWord :=
  SMap.set 0 m (tenant * 16 + kc.1) (SMap.get 0 m (tenant * 16 + kc.1) + BitVec.ofNat 64 kc.2)

section
variable {m : SMap DWord} (hm : SMap.wfFrom 0 0 m = true) {tenant : Nat} {kc : Nat × Nat}
include hm

theorem wfFrom_charge : SMap.wfFrom 0 0 (charge tenant m kc) = true := wfFrom_set _ hm (Nat.zero_le _)
theorem get_charge_same : SMap.get 0 (charge tenant m kc) (tenant * 16 + kc.1) =
    SMap.get 0 m (tenant * 16 + kc.1) + BitVec.ofNat 64 kc.2 := get_set_same _ hm
theorem get_charge_other {key : Nat} (h : key ≠ tenant * 16 + kc.1) :
    SMap.get 0 (charge tenant m kc) key = SMap.get 0 m key := get_set_other _ hm h
end

theorem foldl_hubMeter (tenant : Nat) (counts : Counts) (s : State) :
    counts.foldl (fun (s : State) (kc : Nat × Nat) => s.hubMeter tenant kc.1 kc.2) s =
      { s with meters := counts.foldl (charge tenant) s.meters } := by
  induction counts generalizing s with
  | nil => rfl
  | cons kc r ih =>
    rw [List.foldl_cons, List.foldl_cons, ih]
    rfl

section
variable {tenant : Nat} {counts : Counts} {m : SMap DWord}

theorem get_foldl_charge_other (hm : SMap.wfFrom 0 0 m = true) (hix : ∀ kc ∈ counts, kc.1 < 16) {key : Nat}
    (hkey : key / 16 ≠ tenant) : SMap.get 0 (counts.foldl (charge tenant) m) key = SMap.get 0 m key := by
  induction counts generalizing m with
  | nil => rfl
  | cons kc r ih =>
    obtain ⟨hkc, hr⟩ := List.forall_mem_cons.1 hix
    rw [List.foldl_cons, ih (wfFrom_charge hm) hr, get_charge_other hm (by omega)]
theorem get_foldl_charge {lo : Nat} (hm : SMap.wfFrom 0 0 m = true) (hc : SMap.wfFrom 0 lo counts = true) (ix : Nat) :
    SMap.get 0 (counts.foldl (charge tenant) m) (tenant * 16 + ix) =
      SMap.get 0 m (tenant * 16 + ix) + BitVec.ofNat 64 (SMap.get 0 counts ix) := by
  induction counts generalizing m lo with
  | nil => exact (BitVec.add_zero _).symm
  | cons kc r ih =>
    obtain ⟨a, n⟩ := kc
    simp only [SMap.wfFrom, Bool.and_eq_true] at hc
    obtain ⟨-, hr⟩ := hc
    rw [List.foldl_cons, ih (wfFrom_charge hm) hr, SMap.get]
    by_cases ha : a = ix
    · subst ha
      rw [if_pos rfl, get_of_lt hr (Nat.lt_succ_self a), get_charge_same hm]
      exact BitVec.add_zero _
    · rw [if_neg ha, get_charge_other hm (by omega)]
end

/-- The keys of a list take one value; no other entry changes. -/
theorem get_foldl_set {α : Type} [DecidableEq α] {d v : α} (f : Nat → Nat) (L : List Nat) {m : SMap α}
    (hm : SMap.wfFrom d 0 m = true) (key : Nat) : SMap.get d (L.foldl (fun m ix => SMap.set d m (f ix) v) m) key =
      if ∃ ix ∈ L, f ix = key then v else SMap.get d m key := by
  induction L generalizing m with
  | nil => simp
  | cons ix L ih =>
    rw [List.foldl_cons, ih (wfFrom_set _ hm (Nat.zero_le _))]
    by_cases h : f ix = key
    · simp [← h, get_set_same _ hm]
    · simp [h, get_set_other _ hm (Ne.symm h)]

/-- The tenant that a tile's local counts belong to. -/
def countsTenant (t : Nat) (s : State) : Option Nat :=
  match (s.getTile t).launch with | some l => some l.tenant | none => s.bayTenant (bayOf t)
/-- The counters after they have entered. -/
def flushedMeters (t : Nat) (s : State) : SMap DWord :=
  match countsTenant t s with
  | some tenant => (s.getTile t).counts.foldl (charge tenant) s.meters
  | none => s.meters

theorem flushCounts_eq (t : Nat) (s : State) : flushCounts t s =
    ({ s with meters := flushedMeters t s } : State).modTile t fun tl => { tl with counts := [] } := by
  unfold flushCounts flushedMeters
  change (match countsTenant t s with | some _ => _ | none => _ : State).modTile t _ = _
  cases countsTenant t s with
  | some tenant => rw [← foldl_hubMeter]
  | none => rfl

theorem exec_meterFlush {t : Nat} (ht : t < tileCount) (s : State) : exec (.meterFlush t) s = .next (flushCounts t s) :=
  event_getD (body := meterFlushBody t) (tileOk_of_lt ht)
theorem exec_tenantDeletion {tenant : Nat} (ht : tenant < 512) (s : State) : exec (.tenantDeletion tenant) s =
    .next { s with meters := (List.range 16).foldl (fun m ix => SMap.set 0 m (tenant * 16 + ix) 0) s.meters } :=
  event_getD (body := tenantDeletionBody tenant) (by simp [ht])
theorem exec_metrSample {n : Nat} {s : State} {m : MetrReq} (h : s.metr[n]? = some m) : exec (.metrSample n) s =
    .next (if m.value = none then { s with metr := s.metr.set n { m with value := some (counterOf s m.tenant m.idx) } } else s) := by
  refine (event_getD (body := metrSampleBody n) rfl).trans ?_
  cases hv : m.value <;> simp [metrSampleBody, h, hv]

end Sys2Proof.Machine

namespace Sys2Proof.Proofs
open Sys2Proof.Machine Sys2Proof.Claims

theorem permitSteps : PermitSteps := fun t _ ht =>
  ⟨fun r => refill r _, event_getD (body := permitRefillBody t) (tileOk_of_lt ht), fun _ _ ha =>
    ⟨refill_full, refill_step, refill_carry (BitVec.isLt _) ha⟩⟩

theorem powerScale : PowerScale := by
  intro die s hd d p seen goes
  have hexec := exec_powerControl hd s
  refine ⟨fun h => ?_, fun h => ?_, fun h h8 => ?_⟩
  · rw [controlScale_over h] at hexec
    exact hexec
  · rw [controlScale_under h] at hexec
    exact hexec
  · rw [controlScale_within h h8] at hexec
    refine hexec.trans ?_
    simp only [BitVec.ofNat_toNat, BitVec.setWidth_eq]
    rfl

theorem meterFlushes : MeterFlushes := by
  intro t s ht hm hc hix
  refine ⟨flushedMeters t s, by rw [exec_meterFlush ht, flushCounts_eq], fun hl hb => ?_, fun tenant h => ?_⟩
  · simp only [flushedMeters, countsTenant, hl, hb]
  · have htenant : countsTenant t s = some tenant := by
      obtain ⟨l, hl, rfl⟩ | ⟨hl, hb⟩ := h
      · simp only [countsTenant, hl]
      · simp only [countsTenant, hl, hb]
    simp only [flushedMeters, htenant]
    exact ⟨fun ix _ => get_foldl_charge hm hc ix, fun key hkey => get_foldl_charge_other hm hix hkey⟩

theorem meterValues : MeterValues := by
  refine ⟨fun n s m h => ?_, fun tenant s ht hm => ⟨_, exec_tenantDeletion ht s, fun key => ?_⟩⟩
  · rw [exec_metrSample h]
    exact ⟨fun hv => by rw [if_pos hv]; rfl, fun hv => by rw [if_neg hv]⟩
  · have hown : (∃ ix ∈ List.range 16, tenant * 16 + ix = key) ↔ key / 16 = tenant := by
      simp only [List.mem_range]
      exact ⟨by rintro ⟨ix, hix, rfl⟩; omega, fun h => ⟨key % 16, by omega, by omega⟩⟩
    rw [get_foldl_set (tenant * 16 + ·) _ hm]
    simp only [hown]

/-- Settles O57: the fold that ends a window changes each of the stook's tiles once; the weight that a cycle's turn has is
that of its instruction's class; and each count of a tile enters one counter of its tenant. -/
theorem powerEvents : Obligations.PowerEvents :=
  ⟨stookWindows, stookSteps, permitSteps, powerScale, meterFlushes, meterValues⟩

end Sys2Proof.Proofs
